-- ==== Sys2Proof/Word.lean ====
section
/-! DEFINITION. The word types of the model: a byte, a 32-bit word (R7) and a 64-bit double word. -/

namespace Sys2Proof

/-- One byte. -/
abbrev Byte := BitVec 8

/-- A word is 32 bits (R7). -/
abbrev Word := BitVec 32

/-- A double word: TIME, addresses, deadlines. -/
abbrev DWord := BitVec 64

end Sys2Proof
end

