-- ==== Sys2Proof/Types.lean ====
section
/-! DEFINITION. The operand types of the commands: who makes a bus access, which rail, which report, which frame. -/

namespace Sys2Proof

/-- A master of a register access (R606, R137). -/
inductive BusMaster where
  /-- Host core `c`, in machine mode or not. -/
  | hostCore (c : Nat) (machine : Bool)
  /-- PCIe inbound through BAR0 or BAR2 of a port. -/
  | pcie (port : Nat)
  /-- The command processor, running Tsuquel. -/
  | tsuquel
  /-- The safety triplet. -/
  | triplet
  /-- The JTAG port. -/
  | jtag
deriving DecidableEq, Repr

/-- The rails that have a monitor (R34), in the order of PWR_RAIL_STATUS bits 1 to 8. -/
inductive Rail where
  | sage | ring | io18 | vdd2h | vddq | soc | bay | tile
deriving DecidableEq, Repr

/-- What a checker reports in an injection window (R98). -/
inductive InjReport where
  /-- The injected pattern. -/
  | expected
  /-- Nothing. -/
  | missed
  /-- Anything else: a real fault, whether the checker could correct or replay it, the triplet core it names (CK02: none when
  no two cores agree) and the address of the faulty line (CK07 to CK10). -/
  | other (correctable : Bool) (core : Option Nat) (addr : Nat)
deriving DecidableEq, Repr

/-- What the board and the flash device give a Sage start (R82, R88): the checker reports of CK01 to CK04 in order, and
whether the xSPI controller reports a data-strobe or timing error during the reads. -/
structure SageStart where
  reports : List InjReport
  xspiError : Bool
deriving DecidableEq, Repr

/-- What the board gives a main-die bring-up (R100, R258): the density the devices report (0, 1, 2 for 8, 16, 32 GiB;
any other value where the channels disagree), their ranks, whether training succeeds, whether the flash read of the main
part succeeds, the checker reports of CK01 to CK13 in order, whether a Bay reload succeeds, and the sensor readings of
step 1 by sensor (degrees Celsius plus 64, R499; `none` for one that is not read). -/
structure MainStart where
  density : Nat
  twoRank : Bool
  trainOk : Bool
  loadOk : Bool
  reports : List InjReport
  bayOk : Bool
  temps : List (Option Nat)
deriving DecidableEq, Repr

/-- Why a power-on reset begins (R79). -/
inductive PorCause where
  | porNLow | vddAoLow
deriving DecidableEq, Repr

/-- The two faults of R621. -/
inductive CoreFault where
  | lockstep | sramUe
deriving DecidableEq, Repr

/-- A CAN or CAN FD frame (R449): identifier, extended flag, FD flag, bit-rate switch and data. -/
structure CanFrame where
  ident : Nat
  ext : Bool
  fd : Bool
  brs : Bool
  data : List Byte
deriving DecidableEq, Repr

/-- Who reads a poisoned line (R277). -/
inductive PoisonReader where
  /-- A job of a packet, by its queue and index. -/
  | job (q idx : Nat)
  | hostCore (c : Nat)
  /-- The translation walker, for an instance's access at a virtual address. -/
  | walker (inst va : Nat)
  | commandProcessor
  /-- The command processor, in the LPDDR5X copy of its own main part. -/
  | mainPart
  /-- Display, sensor, Ethernet or PCIe, by its master_id. -/
  | device (master : Nat)
deriving DecidableEq, Repr

/-- What a ring receiver sees (R203, R206): no transition for some symbol times, no /I/ for some symbols, or code-groups. -/
inductive LineSeen where
  | silent (symbols : Nat)
  | noIdle (symbols : Nat)
  | groups (gs : List Nat)
deriving DecidableEq, Repr

/-- What a read meets in a line (R251, R256, R259, R277). -/
inductive ReadError where
  /-- A single-bit error, corrected on the read. -/
  | correctable
  /-- An uncorrectable data error, or a poisoned line. -/
  | data
  /-- A parity error in the tag of a cached line. -/
  | tag
  /-- A link ECC error: corrected, recovered by the retry, or not recovered. -/
  | linkCorrected | linkRecovered | linkFailed
deriving DecidableEq, Repr

/-- A fragment the rasteriser and the fragment shader of a draw give (R412 keeps the shader format private): its primitive
in submission order, its pixel, its FP32 depth and an FP32 colour (R, G, B, A, premultiplied) for each colour slot. -/
structure Frag where
  prim : Nat
  x : Nat
  y : Nat
  depth : Nat
  colours : List (List Nat)
deriving DecidableEq, Repr

/-- The header ECC of a CSI-2 packet (R440). -/
inductive HeaderEcc where
  | clean | corrected | uncorrectable
deriving DecidableEq, Repr

/-- An inbound PCIe request (R458, R459): its BAR (0 or 2), offset, whether it writes, the bytes it reads, its data and its
EP bit. -/
structure PcieReq where
  bar : Nat
  off : Nat
  write : Bool
  len : Nat
  data : List Byte
  ep : Bool
deriving DecidableEq, Repr

/-- What the patrol scrubber finds in the word it reads (R251, R252). -/
inductive ScrubFinding where
  | clean | correctable | uncorrectable
deriving DecidableEq, Repr

/-- What a read of TIME names: a latching register (R72), or the `time` CSR of the host core that reads (R71). -/
inductive LoRead where
  | reg (addr : Nat)
  | timeCsr
deriving DecidableEq, Repr

end Sys2Proof
end

