-- ==== Sys2Proof/Syntax.lean ====
section
/-! DEFINITION. The commands of the block: one constructor per row of spec/opcode_table.json, in the table's order. The
table gives no operand fields, so each constructor carries what its rule says the event brings from outside. -/

namespace Sys2Proof

/-- The commands (steps and events) of the Cusar T32. -/
inductive Instr where
  /-- POWER_ON_RESET (R79): POR_N low or VDD_AO below 0.70 V resets both dies entirely, always-on domain included, and
  closes the ring bypass. -/
  | powerOnReset (cause : PorCause)
  /-- POR_N_RELEASE (R82): Release of POR_N, or the end of a Sage reset, starts the Sage ROM sequence at tick P. -/
  | porNRelease (start : SageStart)
  /-- SAGE_RESET (R79): A Sage reset resets the Sage die except the always-on domain, stops TIME, holds the main die
  in reset and takes group C down. -/
  | sageReset
  /-- GROUP_B_RAIL_LOSS (R36): Loss of VDD_SAGE, VDD_RING or VDDIO_18 stops both dies, closes the bypass and causes a
  Sage reset. -/
  | groupBRailLoss (rail : Rail)
  /-- RAIL_MONITOR_TRIP (R34): A rail monitor trips after its rail stays below 92 % of its set value for 1 µs; the
  trip is recorded and judged against any OFF command. -/
  | railMonitorTrip (rail : Rail) (stamp : Nat)
  /-- PRE_TRIPLET_CORE_FAULT (R621): A lockstep mismatch or Sage SRAM uncorrectable error before the triplet first
  runs stops both cores and causes a Sage reset with cause 0x09. -/
  | preTripletCoreFault (kind : CoreFault)
  /-- BACKOFF_EXPIRY (R91): The backoff after a failed attempt expires and the next attempt of the same sequence
  starts. -/
  | backoffExpiry (xspiError : Bool)
  /-- BOOT_WATCHDOG_EXPIRY (R83): The 500 ms boot watchdog expires without BOOT_ALIVE, failing the Sage attempt with
  cause 0x08 and causing a Sage reset. -/
  | bootWatchdogExpiry
  /-- BOOT_ALIVE_WRITE (R84): Writing 0x0000_A11E to BOOT_ALIVE ends the Sage attempt as a success and cancels the
  watchdog. -/
  | bootAliveWrite (m : BusMaster) (v : Word)
  /-- SAGE_RESET_WRITE (R79): Tsuquel writing 1 to BOOT_CTRL.sage_reset causes a Sage reset. -/
  | sageResetWrite (m : BusMaster) (v : Word)
  /-- GROUP_C_RAIL_GOOD (R30): A group C rail's monitor reports good; after 10,000 ticks Tsuquel commands the next
  rail in the bring-up order. -/
  | groupCRailGood (rail : Rail)
  /-- RAIL_GOOD_TIMEOUT (R31): A group C rail not good within 5 ms of its ON command takes group C down, drives PWR_ON
  low and counts a failed start. -/
  | railGoodTimeout
  /-- RAIL_OFF_DONE (R32): A rail reads below 0.30 V or 100,000 ticks pass, and Tsuquel sends OPERATION OFF to the
  next rail of the power-down order. -/
  | railOffDone (below : Bool)
  /-- MAIN_DIE_BRING_UP (R100): Tsuquel brings up the main die: group C, TIME reload, LPDDR5X training, main-part
  load, checker tests, Bay SRAM and queues. -/
  | mainDieBringUp (start : MainStart)
  /-- MAIN_STEP_TIMEOUT (R100): A main-die bring-up step exceeds its limit and the attempt fails with its cause. -/
  | mainStepTimeout
  /-- INJECTION_WINDOW_END (R98): The 16-cycle injection window of a checker test ends and the report is judged,
  applying the held reaction for a real fault. -/
  | injectionWindowEnd (test : Nat) (report : InjReport)
  /-- JOBS_ACCEPTED (R105): The main die first accepts jobs for every lane: SAFE_STATE_N and DISP_FALLBACK deassert
  and recorded commits, streams and outputs resume. -/
  | jobsAccepted
  /-- SAGE_LINK_FLIT_ERROR (R16): A Sage link flit fails its CRC and is replayed; failure after the third replay
  starts the safe state. -/
  | sageLinkFlitError (failedReplays : Nat)
  /-- TIME_COPY_MISMATCH (R69): A main-die TIME copy differs from the master by 2 ticks or more; dist_error is set and
  the safe state starts. -/
  | timeCopyMismatch (domain : Nat) (ahead : Int)
  /-- LATCHING_LO_READ (R72): A read of a latching _LO register, such as TIME_NOW_LO, latches the upper half for that
  master. A host core's read of its `time` CSR (R71) has no row of its own and is carried here. -/
  | latchingLoRead (m : BusMaster) (at_ : LoRead)
  /-- TIME_RATE_ADJ_WRITE (R76): A write of TIME_RATE_ADJ is clamped to ±200 ppm, sets adj_clamped when clamped and
  changes tick spacing from the next tick. -/
  | timeRateAdjWrite (m : BusMaster) (v : Word)
  /-- SWEEP_TIMER_EXPIRY (R62): The PARK sweep timer expires; in PARK with bit 4 set it reloads TIME, starts the Sage
  clocks and runs one sweep, otherwise it only keeps phase. -/
  | sweepTimerExpiry
  /-- REFREQ_ASSERT (R43): The REFCLK request output is asserted 64 SLOW ticks before a sweep-timer expiry. -/
  | refreqAssert
  /-- WAKE_N_LATCH (R599): A WAKE_N pin sampled low twice after a high sample latches its wake event. -/
  | wakeNLatch (pin : Nat)
  /-- HOST_TIMER_COMPARE (R60): In DOZE, TIME reaches a host core's timer compare; the T32 wakes and raises the timer
  interrupt. -/
  | hostTimerCompare (core : Nat)
  /-- PCIE_WAKE (R460): A BAR0 doorbell write or a link wake on a PCIe port in DOZE latches wake event 5. -/
  | pcieWake (k : Nat)
  /-- CAN_WAKE_DETECT (R455): In PARK a dominant level of 5 µs on a controller with a wake filter asserts the REFCLK
  request and starts receiving. -/
  | canWakeDetect (c : Nat)
  /-- DOZE_HOLD_EXPIRY (R58): Every main-die domain other than DRAM and FAB has been gated for doze_hold ticks;
  Tsuquel enters DOZE. -/
  | dozeHoldExpiry (compares : List (Option Nat))
  /-- DOMAIN_IDLE_EXPIRY (R56): A domain with no demand for idle_hold ticks goes to its gated step, keeping its state. -/
  | domainIdleExpiry (domain : Nat)
  /-- DOMAIN_DEMAND (R55): A demand on a gated domain restarts it at its previous step within 100 ticks. -/
  | domainDemand (domain : Nat)
  /-- TILE_STEP_CHANGE (R49): Tsuquel moves TILE to a new step, voltage first when rising and frequency first when
  falling. -/
  | tileStepChange
  /-- AVS_SETTLE_EXPIRY (R23): The 20 µs after an AVSBus target change passes and the next change of 50 mV or less, or
  the frequency switch, proceeds. -/
  | avsSettleExpiry
  /-- DRAM_STEP_CHANGE (R50): Tsuquel changes the DRAM step while DISP and SENS are gated, holding memory requests up
  to 5,000 ticks. -/
  | dramStepChange
  /-- DOORBELL_WRITE (R121): A write of CMDP_DB submits packets up to the new tail, or stops the queue with reason
  0x01 for an invalid value. -/
  | doorbellWrite (m : BusMaster) (q : Nat) (v : Word)
  /-- QUEUE_ENABLE (R117): Writing enable from 0 to 1 judges the queue setup, clears the counters and writes the
  status block, or keeps enable 0 and logs. -/
  | queueEnable (m : BusMaster) (q : Nat) (v : Word)
  /-- QUEUE_DISABLE (R125): Writing enable from 1 to 0 stops consumption; consumed packets complete and drained then
  reads 1. -/
  | queueDisable (m : BusMaster) (q : Nat) (v : Word)
  /-- PACKET_CONSUME (R123): Tsuquel reads a submitted packet once within 5,000 ticks of its doorbell and advances
  head. -/
  | packetConsume (q : Nat)
  /-- PACKET_START (R143): A packet's work starts after any fence wait; Tsuquel checks its preconditions and deferred
  ranges before any effect. -/
  | packetStart (q : Nat) (idx : Nat)
  /-- VLOG_RD_WRITE (R140): A write of CMDP_VLOG_RD advances RD when valid against WR, or is discarded and logged. -/
  | vlogRdWrite (m : BusMaster) (v : Word)
  /-- SYS_NOP (R147): SYS_NOP has no effect; with fence it acts as a queue barrier. -/
  | sysNop (q : Nat) (idx : Nat)
  /-- SYS_INFO (R147): SYS_INFO writes the 64-byte chip information block at out_addr. -/
  | sysInfo (q : Nat) (idx : Nat)
  /-- SYS_TIME (R151): SYS_TIME sets rate_src and, when apply is 1, writes the ratio to TIME_RATE_ADJ. -/
  | sysTime (q : Nat) (idx : Nat)
  /-- SYS_SIGNAL (R152): SYS_SIGNAL sets an event flag and completes every SYS_WAIT pending on it. -/
  | sysSignal (q : Nat) (idx : Nat)
  /-- SYS_WAIT (R152): SYS_WAIT completes when its event flag is set, clearing it if asked. -/
  | sysWait (q : Nat) (idx : Nat)
  /-- WAIT_TIMEOUT (R150): A waiting opcode's absolute timeout tick passes with no arrival, and the packet ends with
  its timeout status. -/
  | waitTimeout (q : Nat) (idx : Nat)
  /-- SYS_FLASH_WRITE (R153): SYS_FLASH_WRITE erases and programs a flash range outside the running slot, retrying
  failed sectors 3 times. -/
  | sysFlashWrite (q : Nat) (idx : Nat) (badSector : Option Nat)
  /-- SYS_FLASH_CHECK (R154): SYS_FLASH_CHECK runs the header checks on a slot and reports the cause that would be
  recorded. -/
  | sysFlashCheck (q : Nat) (idx : Nat) (xspiError : Bool)
  /-- SYS_ROLLBACK (R155): SYS_ROLLBACK raises the key store's rollback floor, never lowering it. -/
  | sysRollback (q : Nat) (idx : Nat)
  /-- JOB_RUN (R156): JOB_RUN runs a Rinah job image on the lane's tiles with staged buffers, checkpoints and side
  effects. -/
  | jobRun (q : Nat) (idx : Nat)
  /-- JOB_SEARCH (R160): JOB_SEARCH binds a batch of queries to one epoch and runs it on the Sorrel engines. -/
  | jobSearch (q : Nat) (idx : Nat)
  /-- JOB_GFX (R146): JOB_GFX runs one graphics command stream on a graphics context as a job. -/
  | jobGfx (q : Nat) (idx : Nat)
  /-- LANE_CONFIG (R161): LANE_CONFIG defines or dissolves a lane with its tiles, channels, ways, Bay range and
  checkpoint area. -/
  | laneConfig (q : Nat) (idx : Nat)
  /-- LANE_QUERY (R161): LANE_QUERY writes the lane configuration block in effect. -/
  | laneQuery (q : Nat) (idx : Nat)
  /-- MEM_ROOT (R162): MEM_ROOT sets an instance's translation format and root and drops its cached translations. -/
  | memRoot (q : Nat) (idx : Nat)
  /-- MEM_INVALIDATE (R163): MEM_INVALIDATE drops cached translations of an instance in a range and waits for accesses
  that used them. -/
  | memInvalidate (q : Nat) (idx : Nat)
  /-- MEM_COPY (R164): MEM_COPY copies or zero-fills a range in the submitter's address space. -/
  | memCopy (q : Nat) (idx : Nat)
  /-- MEM_BAY_LOAD (R165): MEM_BAY_LOAD copies data into the lane's Bay range and can record it as a reload record. -/
  | memBayLoad (q : Nat) (idx : Nat)
  /-- MEM_PACE (R166): MEM_PACE sets a lane's eight pacer budgets from the next window boundary. -/
  | memPace (q : Nat) (idx : Nat)
  /-- STREAM_SENSOR (R167): STREAM_SENSOR enables a sensor stream with its data type, frame size and buffer ring. -/
  | streamSensor (q : Nat) (idx : Nat)
  /-- STREAM_DISPLAY (R168): STREAM_DISPLAY enables or changes a display output at its next vertical blank. -/
  | streamDisplay (q : Nat) (idx : Nat)
  /-- STREAM_CAN_CFG (R451): STREAM_CAN_CFG sets a CAN controller's mode, rates, filters and receive ring, taking
  ownership. -/
  | streamCanCfg (q : Nat) (idx : Nat)
  /-- STREAM_CAN_TX (R169): STREAM_CAN_TX hands frames to a controller's host queue and completes when all are sent or
  on bus-off. -/
  | streamCanTx (q : Nat) (idx : Nat)
  /-- STREAM_ROUTER (R170): STREAM_ROUTER replaces a range of fallback router entries as one step. -/
  | streamRouter (q : Nat) (idx : Nat)
  /-- STREAM_STOP (R171): STREAM_STOP stops a sensor stream, display output or CAN controller at its next boundary. -/
  | streamStop (q : Nat) (idx : Nat)
  /-- IDX_CREATE (R172): IDX_CREATE chooses a store layout, writes the header and publishes empty epoch 0. -/
  | idxCreate (q : Nat) (idx : Nat)
  /-- IDX_BUILD (R403): IDX_BUILD writes a new entry area from a set of vectors and makes it the staged content at
  commit. -/
  | idxBuild (q : Nat) (idx : Nat)
  /-- IDX_INSERT (R398): IDX_INSERT stages new slots for ids with the pending epoch and links them. -/
  | idxInsert (q : Nat) (idx : Nat)
  /-- IDX_DELETE (R398): IDX_DELETE stages deaths for ids at the pending epoch. -/
  | idxDelete (q : Nat) (idx : Nat)
  /-- IDX_PUBLISH (R400): IDX_PUBLISH writes slots_pub and the new epoch when anything is staged, completing IDX_WAITs
  it satisfies. -/
  | idxPublish (q : Nat) (idx : Nat)
  /-- IDX_WAIT (R175): IDX_WAIT completes when the index's published epoch reaches the named epoch. -/
  | idxWait (q : Nat) (idx : Nat)
  /-- IDX_DESTROY (R176): IDX_DESTROY stops new bindings, waits for bound batches to end and frees the index_id. -/
  | idxDestroy (q : Nat) (idx : Nat)
  /-- RING_CONFIG (R177): RING_CONFIG sets the node address, enables ports and TIMESYNC. -/
  | ringConfig (q : Nat) (idx : Nat)
  /-- RING_SWEEP (R235): RING_SWEEP runs a measurement sweep of up to 4 legs with RECOLLECT and writes the output
  block. -/
  | ringSweep (q : Nat) (idx : Nat)
  /-- RING_RECOLLECT (R179): RING_RECOLLECT fetches a node's held record of a sweep. -/
  | ringRecollect (q : Nat) (idx : Nat)
  /-- RING_SEND (R179): RING_SEND sends one DATA frame at the baton and waits for confirmation. -/
  | ringSend (q : Nat) (idx : Nat)
  /-- RING_RECV (R180): RING_RECV writes received DATA frames until max have arrived or the timeout. -/
  | ringRecv (q : Nat) (idx : Nat)
  /-- RING_PROBE (R240): RING_PROBE sends a probe of up to 2 legs and writes the member table. -/
  | ringProbe (q : Nat) (idx : Nat)
  /-- RING_PARK_CFG (R181): RING_PARK_CFG sets the sweep period, fill mark and thresholds from the next expiry. -/
  | ringParkCfg (q : Nat) (idx : Nat)
  /-- PWR_STEP (R182): PWR_STEP records a step request, sets or clears fixed-frequency mode, or withdraws a request. -/
  | pwrStep (q : Nat) (idx : Nat)
  /-- PWR_CAP (R183): PWR_CAP sets the package power cap from the next sample. -/
  | pwrCap (q : Nat) (idx : Nat)
  /-- PWR_MULTI (R184): PWR_MULTI sets multichip mode and members. -/
  | pwrMulti (q : Nat) (idx : Nat)
  /-- PWR_PARK (R185): PWR_PARK drains queues, writes wake_en, enters PARK and replies once back in ON. -/
  | pwrPark (q : Nat) (idx : Nat)
  /-- PWR_SHUTDOWN (R186): PWR_SHUTDOWN drains queues, replies and takes the T32 to OFF. -/
  | pwrShutdown (q : Nat) (idx : Nat)
  /-- PWR_QUERY (R510): PWR_QUERY writes the 64-byte power and thermal block of one sample. -/
  | pwrQuery (q : Nat) (idx : Nat)
  /-- SAF_STALL (R187): SAF_STALL sets a lane's stall limit for later attempts. -/
  | safStall (q : Nat) (idx : Nat)
  /-- SAF_PAIR (R187): SAF_PAIR turns paired-tile mode on or off for a lane. -/
  | safPair (q : Nat) (idx : Nat)
  /-- SAF_TEST (R188): SAF_TEST holds every lane at a kernel boundary, runs the named checker tests and releases the
  lanes. -/
  | safTest (q : Nat) (idx : Nat)
  /-- SAF_ENTER (R189): SAF_ENTER starts the safe state and replies after the warm restart succeeds. -/
  | safEnter (q : Nat) (idx : Nat)
  /-- SAF_REPORT (R534): SAF_REPORT writes the 64-byte safety report block. -/
  | safReport (q : Nat) (idx : Nat)
  /-- INST_RIGHTS (R190): INST_RIGHTS sets a target instance's class, lane and latency-critical masks. -/
  | instRights (q : Nat) (idx : Nat)
  /-- INST_QUIESCE (R191): INST_QUIESCE stops consumption for the target and ends its unstarted or stopped packets
  with ST_QUIESCED. -/
  | instQuiesce (q : Nat) (idx : Nat)
  /-- INST_RESUME (R191): INST_RESUME lets a quiesced target's packets run again. -/
  | instResume (q : Nat) (idx : Nat)
  /-- INST_RESET (R192): INST_RESET disables the target's queues, clears its event flags and drops staged index state. -/
  | instReset (q : Nat) (idx : Nat)
  /-- INST_FREEZE (R474): INST_FREEZE stops dispatch for the target and pauses its jobs at kernel boundaries. -/
  | instFreeze (q : Nat) (idx : Nat)
  /-- INST_SAVE (R194): INST_SAVE writes the encrypted save image of a frozen instance, or reports its size. -/
  | instSave (q : Nat) (idx : Nat)
  /-- INST_RESTORE (R481): INST_RESTORE checks a save image and rebuilds the instance as frozen. -/
  | instRestore (q : Nat) (idx : Nat)
  /-- INST_THAW (R483): INST_THAW starts a frozen instance; its paused jobs resume or restart. -/
  | instThaw (q : Nat) (idx : Nat)
  /-- INST_REMOVE (R196): INST_REMOVE clears the target's rights, queues, flags, root, indexes and I/O ownership. -/
  | instRemove (q : Nat) (idx : Nat)
  /-- MANAGER_WRITE (R463): A write of INST_CTRL.manager moves the manager right when neither manager has a queue
  enabled. -/
  | managerWrite (m : BusMaster) (v : Word)
  /-- MBOX_ADDRESS_WRITE (R468): A write of INST_MBOX registers an instance's mailbox page, or is discarded when not
  in a shared channel. -/
  | mboxAddressWrite (m : BusMaster) (inst : Nat) (hi : Bool) (v : Word)
  /-- RING_MGR (R469): Writing ring_mgr in INST_MBOX_DB sets pend_mgr and raises the manager's mailbox interrupt. -/
  | ringMgr (m : BusMaster) (inst : Nat)
  /-- RING_TEN (R469): Writing ring_ten in INST_MBOX_DB sets pend_ten and raises the tenant's mailbox interrupt. -/
  | ringTen (m : BusMaster) (inst : Nat)
  /-- KERNEL_DISPATCH (R292): Tsuquel dispatches a ready kernel whose resources are free, choosing by the order of
  R293. -/
  | kernelDispatch
  /-- KERNEL_END (R316): A kernel ends when all its tiles or engines have finished, readying the next kernel or the
  commit. -/
  | kernelEnd (q : Nat) (idx : Nat)
  /-- STALL_LIMIT_EXPIRY (R301): An attempt's stall counter reaches its limit; the attempt is stopped and the job
  restarts or ends ST_STALLED. -/
  | stallLimitExpiry (q : Nat) (idx : Nat)
  /-- JOB_COMMIT (R546): Tsuquel seals a journal entry, copies staging, writes KV and context state, carries out side
  effects and closes the commit. -/
  | jobCommit (q : Nat) (idx : Nat) (bad : List Nat)
  /-- STAGING_PAGE_GRANT (R544): A writer waiting for a staging page resumes when space in the checkpoint area frees. -/
  | stagingPageGrant (q : Nat) (idx : Nat)
  /-- POISON_READ (R277): A read of a poisoned line restarts a job, faults a host core or walker, or is handled by its
  reader. -/
  | poisonRead (reader : PoisonReader) (addr : Nat) (err : ReadError)
  /-- LOCKSTEP_MISMATCH (R512): The command-processor comparator finds a mismatch, stops both cores and drives the
  safe state with cause 0x02. -/
  | lockstepMismatch
  /-- HEARTBEAT_MISS (R514): SAF_HEARTBEAT unchanged for 1,000,000 ticks of a watch starts the safe state with cause
  0x03. -/
  | heartbeatMiss
  /-- TRIPLET_DISAGREEMENT (R515): The voter finds a triplet disagreement and releases the majority or declares a
  triplet failure. -/
  | tripletDisagreement (odd : Option Nat)
  /-- TRIPLET_RESYNC_DONE (R516): The odd core is reloaded from the majority state and rejoins the vote. -/
  | tripletResyncDone
  /-- BACKGROUND_TEST (R522): Every 100,000,000 ticks in ON the triplet reruns CK01-CK04; a failure starts the safe
  state with cause 0x09. -/
  | backgroundTest (reports : List InjReport)
  /-- REFCLK_BAD (R528): The clock monitor flags REFCLK out of tolerance and the safe state starts with cause 0x0A. -/
  | refclkBad
  /-- REFCLK_RECOVERED (R528): After 1,000,000 ticks within tolerance refclk_bad is released. -/
  | refclkRecovered
  /-- PLL_UNLOCK (R528): A main-die PLL loses lock; pll_unlock is set and the safe state starts with cause 0x0A. -/
  | pllUnlock (pll : Nat)
  /-- MAIN_DIE_NO_RESPONSE (R524): A Sage-side request to the main die gets no response within 100,000 ticks and the
  safe state starts with cause 0x0B. -/
  | mainDieNoResponse
  /-- DUPLICATE_CHECK_DISAGREE (R524): A translation-unit or pacer duplicate check disagrees and the safe state starts
  with cause 0x0C. -/
  | duplicateCheckDisagree
  /-- SAGE_SRAM_UE (R524): An uncorrectable Sage SRAM error read by the command processor starts the safe state with
  cause 0x0D and a CP restart. -/
  | sageSramUe
  /-- FAULT_N_HOLD_EXPIRY (R529): The minimum FAULT_N assertion or the rate-cause interval ends and FAULT_N follows
  its causes. -/
  | faultNHoldExpiry
  /-- TELEMETRY_SAMPLE (R488): Every 12,500 ticks the T32 reads each group C rail over AVSBus and Tsuquel runs the cap
  loop. -/
  | telemetrySample (readings : List (Option (Nat × Nat)))
  /-- STATUS_WORD_POLL (R488): Every 1,000,000 ticks or on SMBALERT# low the T32 polls each regulator's STATUS_WORD. -/
  | statusWordPoll (faults : Nat)
  /-- DROOP_TRIP (R494): A droop detector trips below 95 % and stretches every cycle of its rail's domains to twice
  their period. -/
  | droopTrip (detector : Nat)
  /-- DROOP_RELEASE (R494): The rail stays above 97 % for 64 cycles and the stretch ends. -/
  | droopRelease (detector : Nat)
  /-- THERMAL_READ (R497): Every 10,000 ticks the sensors are read and warn, hot and critical levels are applied or
  released. -/
  | thermalRead (temps : List (Option Nat))
  /-- WARN_THROTTLE_STEP (R497): While warn holds, TILE and GFX ceilings fall one step each 100,000 ticks, and rise
  each 1,000,000 ticks after release. -/
  | warnThrottleStep
  /-- MULTI_ROUND_TIMEOUT (R506): A missed multichip round timer expires and the package leaves joined, drops a raise
  or restores a donation. -/
  | multiRoundTimeout
  /-- PACER_WINDOW_BOUNDARY (R281): At each 1,000-tick window boundary every pacer class count returns to 0 and held
  accesses resume. -/
  | pacerWindowBoundary (busy : Nat)
  /-- URG_RISE (R287): A display or sensor FIFO fill crosses a threshold and its URG level rises in that FAB cycle. -/
  | urgRise (k : Nat) (fill : Nat)
  /-- URG_FALL (R287): A lower URG condition holds for 64 FAB cycles and URG falls. -/
  | urgFall (k : Nat) (fill : Nat)
  /-- VLD (R318): VLD loads 256 bytes of local SRAM into a vector register. -/
  | vld (t : Nat)
  /-- VST (R319): VST stores a vector register to local SRAM at the end of its cycle. -/
  | vst (t : Nat)
  /-- SLD (R318): SLD loads 8 bytes into a scalar register. -/
  | sld (t : Nat)
  /-- SST (R319): SST stores a scalar register to local SRAM. -/
  | sst (t : Nat)
  /-- WLD (R320): WLD loads a weight block into a weight buffer, waiting for matrix operations on it. -/
  | wld (t : Nat)
  /-- WLD_COMPLETE (R348): A weight load completes; an MMQ block with a bad format line or scale raises tile fault
  0x5. -/
  | wldComplete (t : Nat) (w : Nat)
  /-- XLD (R321): XLD issues a copy into local SRAM from a buffer, the Bay range or a peer tile. -/
  | xld (t : Nat)
  /-- XST (R323): XST issues a copy out of local SRAM, staged for cls 0 buffers. -/
  | xst (t : Nat)
  /-- COPY_LAND (R324): A copy's last byte lands and its token count drops by 1. -/
  | copyLand (t : Nat) (n : Nat)
  /-- MMT (R325): MMT multiplies N feeder rows at a tap by a weight buffer into the accumulator. -/
  | mmt (t : Nat)
  /-- MPOOL (R334): MPOOL computes max or average pooling windows into the accumulator. -/
  | mpool (t : Nat)
  /-- MATRIX_OP_END (R325): A busy matrix operation ends and a stalled matrix operation can issue. -/
  | matrixOpEnd (t : Nat)
  /-- VADD (R326): VADD adds two vector registers lane by lane. -/
  | vadd (t : Nat)
  /-- VSUB (R326): VSUB subtracts two vector registers lane by lane. -/
  | vsub (t : Nat)
  /-- VMUL (R326): VMUL multiplies two vector registers lane by lane. -/
  | vmul (t : Nat)
  /-- VFMA (R326): VFMA computes a fused FP32 multiply-add with one rounding. -/
  | vfma (t : Nat)
  /-- VMAX (R326): VMAX takes the lane maximum. -/
  | vmax (t : Nat)
  /-- VMIN (R326): VMIN takes the lane minimum. -/
  | vmin (t : Nat)
  /-- VABS (R326): VABS takes the lane absolute value. -/
  | vabs (t : Nat)
  /-- VSHR (R326): VSHR shifts INT32 lanes right with rounding to nearest even. -/
  | vshr (t : Nat)
  /-- VCLAMP (R326): VCLAMP clamps lanes between two registers. -/
  | vclamp (t : Nat)
  /-- VCMP (R326): VCMP compares lanes and writes all-ones masks. -/
  | vcmp (t : Nat)
  /-- VSEL (R326): VSEL selects lanes by a mask register. -/
  | vsel (t : Nat)
  /-- VPERM (R326): VPERM permutes lanes by an index register. -/
  | vperm (t : Nat)
  /-- VRED (R326): VRED sums or maximises over 64 lanes in a fixed tree. -/
  | vred (t : Nat)
  /-- VBCST (R326): VBCST broadcasts a scalar register to all lanes. -/
  | vbcst (t : Nat)
  /-- VEXP2 (R326): VEXP2 computes FP32 2 to the power x within 1 ulp. -/
  | vexp2 (t : Nat)
  /-- VRCP (R326): VRCP computes FP32 reciprocals within 1 ulp. -/
  | vrcp (t : Nat)
  /-- VRSQRT (R326): VRSQRT computes FP32 reciprocal square roots within 1 ulp. -/
  | vrsqrt (t : Nat)
  /-- VACC (R318): VACC reads an accumulator row into a vector register, optionally clearing it. -/
  | vacc (t : Nat)
  /-- VCVT (R355): VCVT converts a vector register under its cvt field, with optional scale and statistics. -/
  | vcvt (t : Nat)
  /-- VMOVS (R318): VMOVS moves one vector lane into a scalar register. -/
  | vmovs (t : Nat)
  /-- SADDI (R318): SADDI adds a sign-extended immediate to a scalar register. -/
  | saddi (t : Nat)
  /-- SLUI (R318): SLUI loads a shifted immediate into a scalar register. -/
  | slui (t : Nat)
  /-- SALU (R318): SALU performs a scalar ALU function on two registers. -/
  | salu (t : Nat)
  /-- LOOP (R327): LOOP repeats the next bundles a register-given number of times. -/
  | tileLoop (t : Nat)
  /-- BNZ (R327): BNZ branches relative when a scalar register is non-zero. -/
  | tileBnz (t : Nat)
  /-- JMP (R327): JMP jumps by a relative bundle count. -/
  | tileJmp (t : Nat)
  /-- FSET (R331): FSET loads a feeder descriptor from local SRAM. -/
  | tileFset (t : Nat)
  /-- WAITT (R328): WAITT waits until every token in its mask has count 0. -/
  | tileWaitt (t : Nat)
  /-- WAITT_RELEASE (R328): The last awaited copy lands and a waiting WAITT is released. -/
  | tileWaittRelease (t : Nat)
  /-- BAR (R328): BAR waits for every other tile of the kernel to reach a BAR or end. -/
  | tileBar (t : Nat)
  /-- BAR_RELEASE (R328): The last tile arrives and prior copies complete, releasing a barrier. -/
  | tileBarRelease (t : Nat)
  /-- END (R316): END waits for the tile's copies and then stops the tile. -/
  | tileEnd (t : Nat)
  /-- NOP (R317): Operation code 0x00 does nothing in its slot. -/
  | tileNop (t : Nat) (slot : Nat)
  /-- ILLEGAL_BUNDLE (R317): A bundle with a reserved encoding retires nothing and raises tile fault 0x1. -/
  | illegalBundle (t : Nat)
  /-- PAIR_MISMATCH (R338): A paired-tile compare mismatch stops both tiles and restarts the job. -/
  | pairMismatch (k : Nat)
  /-- ATTEND (R380): ATTEND sorts a ragged batch into buckets and computes masked one-pass attention for each entry. -/
  | attend (q : Nat) (idx : Nat)
  /-- APPEND (R373): APPEND writes key and value rows to the end of a sequence for the attempt, taking ownership. -/
  | append (q : Nat) (idx : Nat)
  /-- SCATTER (R373): SCATTER appends a list of tokens to their sequences in list order. -/
  | scatter (q : Nat) (idx : Nat)
  /-- TARGET (R418): TARGET binds or unbinds a surface to a colour or depth slot. -/
  | gfxTarget (q : Nat) (idx : Nat)
  /-- SHADER (R412): SHADER binds a vertex or fragment shader binary after checking its header. -/
  | gfxShader (q : Nat) (idx : Nat)
  /-- STATE (R411): STATE sets depth, cull, blend, viewport and scissor state. -/
  | gfxState (q : Nat) (idx : Nat)
  /-- VERTEX (R411): VERTEX binds the vertex and index buffers. -/
  | gfxVertex (q : Nat) (idx : Nat)
  /-- DRAW (R414): DRAW rasterises primitives, binned or direct, in submission order. -/
  | gfxDraw (q : Nat) (idx : Nat) (frags : List Frag)
  /-- FRAGMENT_RETIRE (R422): In direct mode a fragment retires after every earlier fragment at its pixel has retired. -/
  | fragmentRetire (q : Nat) (idx : Nat) (n : Nat)
  /-- CLEAR (R419): CLEAR fills target slots, writing metadata 0 only for a compressed slot at its clear colour. -/
  | gfxClear (q : Nat) (idx : Nat)
  /-- BINS (R420): BINS names the bin buffer of the pass. -/
  | gfxBins (q : Nat) (idx : Nat)
  /-- GFX_END (R411): The END command ends the graphics command stream. -/
  | gfxEnd (q : Nat) (idx : Nat)
  /-- VERTICAL_BLANK (R430): At a vertical blank an output latches its layer and timing blocks and applies a pending
  STREAM_DISPLAY. -/
  | verticalBlank (o : Nat)
  /-- DISPLAY_LINK_UP (R434): A display link finishes training and the output starts composed frames. -/
  | displayLinkUp (o : Nat)
  /-- DISPLAY_UNDERRUN (R431): The FIFO lacks a line's pixels; the output sends background for the rest of the line. -/
  | displayUnderrun (o : Nat) (line : Nat) (x : Nat)
  /-- SENSOR_FRAME_START (R439): An FS packet reads the next descriptor and starts or drops a frame. -/
  | sensorFrameStart (t : Nat) (ecc : HeaderEcc)
  /-- SENSOR_FRAME_END (R439): An FE packet makes the frame visible, writes the descriptor with full and raises the
  stream interrupt. -/
  | sensorFrameEnd (t : Nat) (ecc : HeaderEcc)
  /-- SENSOR_LINE_RECEIVE (R440): A CSI-2 long packet is written as a line, with header, CRC, type and FIFO errors
  handled. -/
  | sensorLineReceive (t : Nat) (ecc : HeaderEcc) (dt : Nat) (crcBad : Bool) (kept : Option Nat) (pixels : List Nat)
  /-- SENSOR_FRAME_TIMEOUT (R441): A frame without FE 100,000,000 ticks after FS is closed with the short flag. -/
  | sensorFrameTimeout (t : Nat)
  /-- NET_TX_TAIL_WRITE (R445): A write of NET_TX_TAIL hands transmit descriptors to the T32. -/
  | netTxTailWrite (m : BusMaster) (n : Nat) (v : Word)
  /-- NET_RX_TAIL_WRITE (R445): A write of NET_RX_TAIL hands receive descriptors to the T32. -/
  | netRxTailWrite (m : BusMaster) (n : Nat) (v : Word)
  /-- NET_FRAME_TRANSMIT (R445): A transmit descriptor's frame is sent, stamped if asked, and its descriptor returned. -/
  | netFrameTransmit (n : Nat)
  /-- NET_FRAME_RECEIVE (R445): A received Ethernet frame is written to the next descriptor with its time stamp, or
  dropped. -/
  | netFrameReceive (n : Nat) (fcsOk : Bool) (frame : List Byte)
  /-- CAN_FRAME_RECEIVE (R449): A received CAN frame is matched against filters for delivery and wake and against the
  router table. -/
  | canFrameReceive (c : Nat) (frame : CanFrame) (remote : Bool) (esi : Bool) (sof : Nat)
  /-- CAN_FRAME_TRANSMIT (R452): When the bus is free a controller sends the head of its router queue, then its host
  queue. -/
  | canFrameTransmit (c : Nat)
  /-- CAN_BUS_OFF (R453): A controller going bus-off drops both queues. -/
  | canBusOff (c : Nat)
  /-- CAN_BUS_RECOVER (R453): After 128 occurrences of 11 recessive bits the controller recovers from bus-off. -/
  | canBusRecover (c : Nat)
  /-- PCIE_INBOUND (R459): An inbound PCIe request is translated for the bound instance; faults and poison get error
  completions. -/
  | pcieInbound (k : Nat) (req : PcieReq)
  /-- PCIE_LINK_DOWN (R461): A PCIe link goes down at main-die reset or PERST_N; outbound accesses fault. -/
  | pcieLinkDown (k : Nat)
  /-- PCIE_LINK_UP (R461): A PCIe link finishes training after restore. -/
  | pcieLinkUp (k : Nat) (width : Nat) (gen : Nat)
  /-- RING_TRAINING_SET (R205): Received /TS1/ or /TS2/ advance training to UP, or flag a miswire. -/
  | ringTrainingSet (p : Nat) (groups : List Nat)
  /-- RING_TRAIN_RESTART (R205): Training restarts every 1 ms until a port goes UP. -/
  | ringTrainRestart (p : Nat)
  /-- RING_PORT_DOWN (R206): An UP port goes DOWN on loss of transitions, errors, /TS1/ or missing idles. -/
  | ringPortDown (p : Nat) (seen : LineSeen)
  /-- BYPASS_CLOSE (R210): The bypass switches close within 2 µs on rail loss, POR_N, Sage reset or both ports
  disabled. -/
  | bypassClose
  /-- BYPASS_OPEN (R211): With rails good, a port enabled and symbol lock held for 1,024 symbols, the switches open
  and ports train. -/
  | bypassOpen
  /-- RING_FRAME_RECEIVE (R216): A ring frame is checked, stripped, acted on and forwarded or wrapped. -/
  | ringFrameReceive (p : Nat) (groups : List Nat)
  /-- SWEEP_FRAME (R230): A node receiving a SWEEP appends its record once per sweep_id, unwrapping first if wrapped. -/
  | sweepFrame (p : Nat) (groups : List Nat)
  /-- RECOLLECT_FRAME (R232): A node answers a RECOLLECT request once with its held record or not held. -/
  | recollectFrame (p : Nat) (groups : List Nat)
  /-- DATA_FRAME (R222): A destination copies and delivers a DATA frame in seq order, or leaves COPIED clear. -/
  | dataFrame (p : Nat) (groups : List Nat)
  /-- BATON_FRAME (R220): A node holding a new baton generation sends up to 4 DATA frames and forwards it. -/
  | batonFrame (p : Nat) (groups : List Nat)
  /-- PROBE_FRAME (R240): A node appends its probe entry once per probe_id. -/
  | probeFrame (p : Nat) (groups : List Nat)
  /-- WRAP_FRAME (R234): Node 0 records a WRAP notice as a near or far seam. -/
  | wrapFrame (p : Nat) (groups : List Nat)
  /-- TIMESYNC_FRAME (R226): A node estimates ring time, adds its residence, writes its lag word and acts on multichip
  rounds. -/
  | timesyncFrame (p : Nat) (groups : List Nat)
  /-- TIMESYNC_PERIOD (R225): Node 0 sends a TIMESYNC frame every RING_TS_PERIOD ticks. -/
  | timesyncPeriod
  /-- BATON_TIMEOUT (R221): The baton not back within RING_BATON_TO makes node 0 issue a new generation. -/
  | batonTimeout
  /-- LEG_TIMEOUT (R235): A sweep or probe leg not returned by its timeout triggers RECOLLECT and the next leg. -/
  | legTimeout
  /-- DATA_RETRANSMIT_TIMEOUT (R223): A DATA frame not returned within RING_LEG_TO is retransmitted at the next baton
  or fails after 3 retries. -/
  | dataRetransmitTimeout (dst : Nat)
  /-- RING_SLEEP_SET (R244): Receiving 4 consecutive /Z/ on every UP port sends /Z/ and puts the ports into SLEEP. -/
  | ringSleepSet
  /-- RING_SLEEP_WAKE (R244): Signal detected on a sleeping receiver makes the node send /I/ on all sleeping ports. -/
  | ringSleepWake (p : Nat) (relocked : Bool)
  /-- RING_RELOCK_TIMEOUT (R244): A port not relocked within 100,000 ticks of detecting signal goes DOWN. -/
  | ringRelockTimeout (p : Nat)
  /-- PBUF_RD_WRITE (R242): A write of RING_PBUF_RD advances the park buffer read index under the drain rule. -/
  | pbufRdWrite (m : BusMaster) (v : Word)
  /-- QS_COUNT_READ (R359): A read of TILE_QS_COUNT latches the slot's clipped, nonfin and sse values. -/
  | qsCountRead (m : BusMaster) (lane : Nat) (slot : Nat)
  /-- QS_CLEAR (R359): A write of TILE_QS_CLEAR zeroes the named statistics slots of a lane. -/
  | qsClear (m : BusMaster) (v : Word)
  /-- PAD_FUNCTION_CHANGE (R566): A change of a pad's function or isolation starts a park that freezes the old input
  and drives the park state. -/
  | padFunctionChange (m : BusMaster) (pad : Nat) (v : Word)
  /-- PAD_PARK_END (R566): A pad's park ends and the new function takes the pad through its synchroniser. -/
  | padParkEnd (pad : Nat) (level : Bool)
  /-- EVT_ENABLE_WRITE (R576): Writing en of an event generator checks period and width and starts pulses, skipping
  past ones. -/
  | evtEnableWrite (m : BusMaster) (gen : Nat) (v : Word)
  /-- EVT_PULSE_START (R575): An event generator drives its active level at S + k × P. -/
  | evtPulseStart (gen : Nat)
  /-- EVT_PULSE_END (R575): An event generator returns to its inactive level after width Wd. -/
  | evtPulseEnd (gen : Nat)
  /-- EXTEST (R581): EXTEST drives the pads from the boundary register while extest_en is 1. -/
  | tapExtest
  /-- SAMPLE_PRELOAD (R579): SAMPLE/PRELOAD captures pad levels and preloads the boundary register. -/
  | tapSamplePreload (preload : List Bool)
  /-- IDCODE (R579): IDCODE selects the identification register holding 0x1C32_A0F3. -/
  | tapIdcode
  /-- CLAMP (R581): CLAMP holds the pads from the boundary register with the bypass register selected. -/
  | tapClamp
  /-- HIGHZ (R581): HIGHZ puts the covered pads at high impedance while extest_en is 1. -/
  | tapHighz
  /-- BYPASS (R579): BYPASS, and every other code, selects the one-bit bypass register. -/
  | tapBypass (code : Nat)
  /-- TAP_RESET (R579): TRST_N low or 5 TCK cycles with TMS high resets the TAP only. -/
  | tapReset
  /-- LOCK_SET (R612): Setting a LOCK bit freezes its RWL fields until the reset that clears it. -/
  | lockSet (m : BusMaster) (addr : Nat)
  /-- REGISTER_WRITE (R609): A write to a register with no row of its own applies permitted bits and logs refused or
  invalid ones. -/
  | registerWrite (m : BusMaster) (addr : Nat) (v : Word)
  /-- SLOW_RISING_EDGE (R73): At every SLOW rising edge the always-on domain records the pair (TIME, SLOW count), and
  TIME stops or restarts only on such an edge. -/
  | slowRisingEdge (wakeN : Nat) (gpio : Nat)
  /-- PATROL_SCRUB (R252): The patrol scrubber reads tile and Bay SRAM words, writes back corrected ones, poisons
  uncorrectable ones and counts completed passes. -/
  | patrolScrub (tile : Bool) (err : ScrubFinding)
  /-- HEARTBEAT_INCREMENT (R514): Tsuquel increments SAF_HEARTBEAT at least once every 100,000 ticks while it runs. -/
  | heartbeatIncrement
  /-- HOST_CORE_LOAD_STORE (R263): A host-core load or store to memory is checked under R263 and R248, charged to a
  pacer class, and on violation takes an access-fault exception recorded under R272. -/
  | hostCoreLoadStore (core : Nat) (machine : Bool) (addr : Nat) (len : Nat) (store : Option (List Byte))
  /-- FORBIDDEN_REGISTER_READ (R138): A forbidden register read, such as a misaligned access or a read of Sage working
  SRAM, returns 0 and is logged with kind 0x04. -/
  | forbiddenRegisterRead (m : BusMaster) (addr : Nat)
  /-- HOT_PLUG_DETECT_CHANGE (R564): The EDPn_HPD input of an eDP output changes level. -/
  | hotPlugDetectChange (o : Nat) (level : Bool)
  /-- ETHERNET_LINK_CHANGE (R443): An Ethernet port's receiver gains or loses its link, and NET_STATE.link changes. -/
  | ethernetLinkChange (n : Nat) (up : Bool)
deriving DecidableEq, Repr

end Sys2Proof
end

