-- ==== Sys2Proof/Config.lean ====
section
/-! DEFINITION. What the spec fixes for one part but does not state, and the free values: constants without a body, so
nothing can be proved about them. -/

namespace Sys2Proof.Config

/-- A free value of any width, one per use: `n` is the count of uses so far (State.free). -/
opaque freeValue (n : Nat) : Nat

/-- What a byte at a physical address reads as after its contents were lost for the `n`-th time (R36: undefined). -/
opaque lostByte (n addr : Nat) : Byte

/-- The public key that verifies image signatures, written at manufacture of the board (R87). -/
opaque bootPublicKey : List Byte

/-- The boot_octal fuse (BOOT_STRAP). -/
opaque bootOctal : Bool

/-- The size of the board's flash device in MiB; R85 bounds it. -/
opaque flashMiB : Nat

/-- The version of the Tsuquel firmware in an image (SYS_INFO, R477), by image_version. -/
opaque tsuquelVersion (image : Nat) : Nat

/-- The migration key of the key store, empty while unwritten (R476). -/
opaque migrationKey : List Byte

/-- The AES-256 key of a save image, derived from the migration key and the image's nonce (R476). -/
opaque imageKey (migration nonce : List Byte) : List Byte

/-- Which of the results within 1 ulp of the exact value a one-ulp function returns (R326, R379, R381): the function is
named by its operation code, the operand by its bits, so that equal inputs give equal results. -/
opaque ulpChoice (op operand : Nat) : Nat

/-- The result of a lane operation for operands where the spec states none (a maximum with a NaN or of two zeros, the
absolute value of −2^31, a reciprocal of zero, a shift by 64 or more, ...): by operation code and operands. -/
opaque openLane (op a b : Nat) : Nat

end Sys2Proof.Config
end

