-- ==== Sys2Proof/Machine/Bytes.lean ====
section
/-! DEFINITION. Byte order, bit fields, sign extension and saturation: the helpers every other file uses (R7: every
structure in memory is little-endian). -/

namespace Sys2Proof.Machine

/-- The `n` bytes of `v`, least significant first (R7). -/
def leBytes : Nat → Nat → List Byte
  | 0, _ => []
  | n + 1, v => BitVec.ofNat 8 v :: leBytes n (v / 256)

/-- The number that bytes stored least significant first spell (R7). -/
def leNat : List Byte → Nat
  | [] => 0
  | b :: bs => b.toNat + 256 * leNat bs

/-- The number that bytes sent most significant first spell (the ring wire, Ethernet). -/
def beNat (bs : List Byte) : Nat := leNat bs.reverse

/-- The `n` bytes of `v`, most significant first. -/
def beBytes (n v : Nat) : List Byte := (leBytes n v).reverse

/-- Bits `lo + w - 1 : lo` of a number. -/
def bits (v lo w : Nat) : Nat := v / 2 ^ lo % 2 ^ w

/-- `v` with bits `lo + w - 1 : lo` replaced by `x`. -/
def putBits (v lo w x : Nat) : Nat :=
  v % 2 ^ lo + 2 ^ lo * (x % 2 ^ w) + 2 ^ (lo + w) * (v / 2 ^ (lo + w))

/-- One bit as a Boolean. -/
def bitB (v i : Nat) : Bool := v / 2 ^ i % 2 = 1

/-- A Boolean as a bit. -/
def b2n (b : Bool) : Nat := if b then 1 else 0

/-- Two's complement reading of the low `w` bits. -/
def sext (w v : Nat) : Int :=
  let x : Nat := v % 2 ^ w
  if 2 * x < 2 ^ w then (x : Int) else (x : Int) - (2 : Int) ^ w

/-- The low `w` bits of an integer, as two's complement. -/
def toBits (w : Nat) (v : Int) : Nat := (v % ((2 : Int) ^ w)).toNat

/-- Clamp an integer to a closed range. -/
def clampI (lo hi v : Int) : Int := if v < lo then lo else if hi < v then hi else v

/-- Saturate to the signed range of `w` bits. -/
def satS (w : Nat) (v : Int) : Int := clampI (-((2 : Int) ^ (w - 1))) ((2 : Int) ^ (w - 1) - 1) v

/-- Nearest integer to `a / b`, ties to even (R9 and the roundings that cite it). -/
def divRne (a b : Nat) : Nat :=
  let q := a / b
  let r := a % b
  if 2 * r < b then q else if b < 2 * r then q + 1 else if q % 2 = 0 then q else q + 1

/-- The list of the set bits of a mask below `n`, lowest first. -/
def maskBits (n m : Nat) : List Nat := (List.range n).filter (bitB m)

/-- The mask of a list of bit numbers. -/
def bitsMask (l : List Nat) : Nat := l.foldl (fun m i => if bitB m i then m else m + 2 ^ i) 0

/-- How many of the low `n` bits of a mask are set. -/
def popCount (n m : Nat) : Nat := (maskBits n m).length

/-- Bitwise and, or, and clear, on naturals, by the core operations. -/
def andN (a b : Nat) : Nat := Nat.land a b
@[inherit_doc andN] def orN (a b : Nat) : Nat := Nat.lor a b
@[inherit_doc andN] def xorN (a b : Nat) : Nat := Nat.xor a b
/-- `a` without the bits of `b`. -/
def clrN (a b : Nat) : Nat := Nat.land a (Nat.xor a (Nat.land a b))

/-- The bytes `off ..< off + n` of a byte list, zero beyond its end. -/
def slice (bs : List Byte) (off n : Nat) : List Byte :=
  let l := (bs.drop off).take n
  l ++ List.replicate (n - l.length) 0

/-- The little-endian number in `n` bytes at `off`. -/
def leAt (bs : List Byte) (off n : Nat) : Nat := leNat (slice bs off n)

/-- Elements of a list whose index lies in a half-open range. -/
def listSet {α : Type} (l : List α) (i : Nat) (x : α) : List α := l.set i x

/-- A byte list with the bytes at `off` replaced. -/
def patch (bs : List Byte) (off : Nat) (new : List Byte) : List Byte :=
  bs.take off ++ new ++ bs.drop (off + new.length)

end Sys2Proof.Machine
end

