-- ==== Sys2Proof/Machine/Fp.lean ====
section
/-! DEFINITION. Floating-point formats and exact arithmetic (R9, R341, R343): values are decoded to exact dyadic numbers,
combined without rounding, and rounded once to nearest, ties to even. -/

namespace Sys2Proof.Machine

/-- A format: exponent and fraction widths, bias, and whether it has infinities (E4M3 has none). -/
structure Fmt where
  ew : Nat
  mw : Nat
  bias : Nat
  ieee : Bool
deriving DecidableEq, Repr

def fp32 : Fmt := ⟨8, 23, 127, true⟩
def fp16 : Fmt := ⟨5, 10, 15, true⟩
def bf16 : Fmt := ⟨8, 7, 127, true⟩
def e4m3 : Fmt := ⟨4, 3, 7, false⟩
def e5m2 : Fmt := ⟨5, 2, 15, true⟩

/-- A value: not a number, an infinity, or ± m × 2^e. -/
inductive Num where
  | nan
  | inf (neg : Bool)
  | fin (neg : Bool) (m : Nat) (e : Int)
deriving DecidableEq, Repr

/-- The value of an encoding (R341). -/
def decodeF (f : Fmt) (x : Nat) : Num :=
  let s := bitB x (f.ew + f.mw)
  let e := bits x f.mw f.ew
  let m := bits x 0 f.mw
  if f.ieee ∧ e = 2 ^ f.ew - 1 then (if m = 0 then .inf s else .nan)
  else if !f.ieee && decide (e = 2 ^ f.ew - 1 ∧ m = 2 ^ f.mw - 1) then .nan
  else if e = 0 then .fin s m (1 - (f.bias : Int) - f.mw)
  else .fin s (m + 2 ^ f.mw) ((e : Int) - f.bias - f.mw)

/-- The exponent of the least place of a format. -/
def minExp (f : Fmt) : Int := 1 - (f.bias : Int) - f.mw

/-- The exponent of the place that `m × 2^e` (m not 0) rounds to. -/
def placeExp (f : Fmt) (m : Nat) (e : Int) : Int := max (minExp f) ((Nat.log2 m : Int) + e - f.mw)

/-- The magnitude bits of `m × 2^e` rounded with a given division, range unbounded above: monotone, so that a result
beyond the largest finite encoding has overflowed. -/
def roundMag (div : Nat → Nat → Nat) (f : Fmt) (m : Nat) (e : Int) : Nat :=
  if m = 0 then 0
  else
    let q := placeExp f m e
    let k := if q ≤ e then m * 2 ^ (e - q).toNat else div m (2 ^ (q - e).toNat)
    (q - minExp f).toNat * 2 ^ f.mw + k

/-- The largest finite magnitude of a format. -/
def maxFin (f : Fmt) : Nat := if f.ieee then (2 ^ f.ew - 1) * 2 ^ f.mw - 1 else 2 ^ (f.ew + f.mw) - 2

/-- The encodings of infinity (magnitude) and of the canonical NaN (R341). -/
def infBits (f : Fmt) : Nat := (2 ^ f.ew - 1) * 2 ^ f.mw
def nanBits (f : Fmt) : Nat := if f.ieee then infBits f + 2 ^ (f.mw - 1) else 2 ^ (f.ew + f.mw) - 1

def signBits (f : Fmt) (neg : Bool) : Nat := if neg then 2 ^ (f.ew + f.mw) else 0

/-- Round once to FP32, to nearest, ties to even; overflow gives an infinity (IEEE 754). -/
def toF32 : Num → Nat
  | .nan => nanBits fp32
  | .inf n => signBits fp32 n + infBits fp32
  | .fin n m e => signBits fp32 n + min (roundMag divRne fp32 m e) (infBits fp32)

/-- Exact sum. A sum of opposite equals is +0; infinities of opposite sign give NaN. -/
def Num.add : Num → Num → Num
  | .nan, _ => .nan
  | _, .nan => .nan
  | .inf a, .inf b => if a = b then .inf a else .nan
  | .inf a, _ => .inf a
  | _, .inf b => .inf b
  | .fin na ma ea, .fin nb mb eb =>
    let e := min ea eb
    let a : Int := (ma * 2 ^ (ea - e).toNat : Nat)
    let b : Int := (mb * 2 ^ (eb - e).toNat : Nat)
    let t := (if na then -a else a) + (if nb then -b else b)
    .fin (if t = 0 then na && nb else decide (t < 0)) t.natAbs e

def Num.neg : Num → Num
  | .nan => .nan
  | .inf a => .inf (!a)
  | .fin n m e => .fin (!n) m e

def Num.isZero : Num → Bool
  | .fin _ m _ => decide (m = 0)
  | _ => false

def Num.isNeg : Num → Bool
  | .nan => false
  | .inf n => n
  | .fin n _ _ => n

/-- Exact product. -/
def Num.mul : Num → Num → Num
  | .nan, _ => .nan
  | _, .nan => .nan
  | .inf a, b => if b.isZero then .nan else .inf (a != b.isNeg)
  | a, .inf b => if a.isZero then .nan else .inf (a.isNeg != b)
  | .fin na ma ea, .fin nb mb eb => .fin (na != nb) (ma * mb) (ea + eb)

/-- An integer as an exact value. -/
def numInt (v : Int) : Num := .fin (decide (v < 0)) v.natAbs 0

/-- `some` of the comparison a < b, a = b, a > b as −1, 0, 1; `none` with a NaN. -/
def Num.cmp (a b : Num) : Option Int :=
  match a.add b.neg with
  | .nan => match a, b with
    | .inf x, .inf y => if x = y then some 0 else none
    | _, _ => none
  | .inf n => some (if n then -1 else 1)
  | .fin n m _ => some (if m = 0 then 0 else if n then -1 else 1)

/-- The sum of a list, exactly. -/
def Num.sum (l : List Num) : Num := l.foldl Num.add (.fin false 0 0)

def f32 (x : Nat) : Num := decodeF fp32 x

/-- Quotient of two finite non-negative values rounded once to FP32 (R334, R379): a sticky bit keeps the rounding right. -/
def divF32 (neg : Bool) (ma : Nat) (ea : Int) (mb : Nat) (eb : Int) : Nat :=
  let sh := 64 + Nat.log2 mb + 1
  let n := ma * 2 ^ sh
  let q := n / mb
  let r := n % mb
  toF32 (.fin neg (2 * q + (if r = 0 then 0 else 1)) (ea - eb - sh - 1))

/-- A result within 1 ulp of an exact value, by the part's choice: next below, next above, or the value itself where it is
representable. `m × 2^e` is the value or, when not `exact`, a number just below it. -/
def ulpResult (op operand : Nat) (neg : Bool) (m : Nat) (e : Int) (exact : Bool) : Nat :=
  let k := roundMag (· / ·) fp32 m e
  let c := Config.ulpChoice op operand
  let q := placeExp fp32 m e
  let isRep := exact && decide (m = 0 ∨ q ≤ e ∨ m % 2 ^ (q - e).toNat = 0)
  let r := if isRep then (if c % 3 = 0 then k else if c % 3 = 1 then k + 1 else k - 1) else k + c % 2
  signBits fp32 neg + min r (infBits fp32)

/-- ln 2 × 2^320, rounded down, by its series. -/
def ln2Fix : Nat := ((List.range 110).map fun k => 2 * 2 ^ 320 / ((2 * k + 1) * 3 ^ (2 * k + 1))).foldl (· + ·) 0

/-- 2^f × 2^300 for a fraction f = n / 2^150, by the exponential series. -/
def exp2Fix (n : Nat) : Nat :=
  let t := n * ln2Fix / 2 ^ 170
  ((List.range 90).foldl (fun (a : Nat × Nat) k => (a.1 + a.2, a.2 * t / (2 ^ 300 * (k + 1)))) (0, 2 ^ 300)).1

/-- 2^x for an exact value, within 1 ulp. -/
def exp2Num (op operand : Nat) : Num → Nat
  | .nan => nanBits fp32
  | .inf n => if n then ulpResult op operand false 0 0 true else infBits fp32
  | .fin n m e =>
    let sc : Int := if 0 ≤ e + 150 then ((m * 2 ^ (e + 150).toNat : Nat) : Int) else ((m / 2 ^ (-(e + 150)).toNat : Nat) : Int)
    let v : Int := if n then -sc else sc
    let i := v / (2 ^ 150 : Int)
    let fr := (v % (2 ^ 150 : Int)).toNat
    if 1000 < i then infBits fp32
    else if i < -1000 then ulpResult op operand false 1 (-1000) false
    else ulpResult op operand false (exp2Fix fr) (i - 300) (decide (fr = 0))

/-- 1/x within 1 ulp; open at zero. -/
def rcpF32 (op x : Nat) : Nat :=
  match f32 x with
  | .nan => nanBits fp32
  | .inf n => ulpResult op x n 0 0 true
  | .fin n m e =>
    if m = 0 then Config.openLane op x 0 % 2 ^ 32
    else ulpResult op x n (2 ^ 120 / m) (-e - 120) (decide (2 ^ 120 % m = 0))

/-- The integer square root, from bit `b - 1` down. -/
def isqrtFuel (n : Nat) : Nat → Nat → Nat
  | 0, r => r
  | b + 1, r => let r' := r + 2 ^ b; isqrtFuel n b (if r' * r' ≤ n then r' else r)

/-- The square root of a number below 2^320, rounded down. -/
def isqrt (n : Nat) : Nat := isqrtFuel n 160 0

/-- 1/√x within 1 ulp; open at zero and negative numbers. -/
def rsqrtF32 (op x : Nat) : Nat :=
  match f32 x with
  | .nan => nanBits fp32
  | .inf n => if n then Config.openLane op x 0 % 2 ^ 32 else ulpResult op x false 0 0 true
  | .fin n m e =>
    if m = 0 ∨ n then Config.openLane op x 0 % 2 ^ 32
    else
      let m2 := if e % 2 = 0 then m else 2 * m
      let e2 := if e % 2 = 0 then e else e - 1
      let r := isqrt (2 ^ 300 / m2)
      ulpResult op x false r (-(e2 / 2) - 150) (decide (r * r * m2 = 2 ^ 300))

end Sys2Proof.Machine
end

