-- ==== Sys2Proof/Machine/Crypto.lean ====
section
/-! DEFINITION. The published ciphers the spec names: AES-256 (for AES-XTS of R275 and AES-GCM of R476), SHA-384 and
ECDSA P-384 verification (R88). Each is the public standard's own computation; the spec adds only which data they
take. -/

namespace Sys2Proof.Machine

/-- Multiplication by x in the AES field. -/
def gfX (a : Nat) : Nat := if a < 128 then 2 * a else xorN (2 * a - 256) 0x1b

/-- Multiplication in the AES field, over the bits of the second factor. -/
def gfMulFuel : Nat → Nat → Nat → Nat → Nat
  | 0, _, _, acc => acc
  | f + 1, a, b, acc => gfMulFuel f (gfX a) (b / 2) (if b % 2 = 1 then xorN acc a else acc)

def gfMul (a b : Nat) : Nat := gfMulFuel 8 a b 0

/-- The inverse in the AES field, with 0 for 0: the product of the squares a ^ 2, a ^ 4 up to a ^ 128. -/
def gfInv (a : Nat) : Nat :=
  ((List.range 7).foldl (fun e _ => let q := gfMul e.1 e.1; (q, gfMul e.2 q)) (a, 1)).2

def rotl8 (n x : Nat) : Nat := x * 2 ^ n % 256 + x / 2 ^ (8 - n)

/-- The AES substitution box (FIPS 197): the inverse, then an affine map of its bits. -/
def aesSbox : List Nat :=
  (List.range 256).map fun a => let v := gfInv a
    (List.range 4).foldl (fun r n => xorN r (rotl8 (n + 1) v)) (xorN v 0x63)

def sbox (a : Nat) : Nat := aesSbox.getD a 0
def invSbox (a : Nat) : Nat := aesSbox.findIdx (fun x => x = a)

/-- The words of the AES-256 key schedule, newest first: `n` more words after those of `acc`. -/
def aesExpand : Nat → Nat → List (List Nat) → List (List Nat)
  | 0, _, acc => acc
  | f + 1, i, acc =>
    let prev := acc.headD []
    let t :=
      if i % 8 = 0 then
        let r := (prev.drop 1 ++ prev.take 1).map sbox
        match r with
        | a :: rest => xorN a (2 ^ (i / 8 - 1)) :: rest
        | [] => []
      else if i % 8 = 4 then prev.map sbox else prev
    aesExpand f (i + 1) (List.zipWith xorN (acc.getD 7 []) t :: acc)

/-- Split a list into groups of `n`. -/
def chunksFuel {α : Type} : Nat → Nat → List α → List (List α)
  | 0, _, _ => []
  | f + 1, n, l => if l.isEmpty then [] else l.take n :: chunksFuel f n (l.drop n)

def chunks {α : Type} (n : Nat) (l : List α) : List (List α) := chunksFuel (l.length + 1) n l

/-- The 15 round keys of 16 bytes of a 32-byte key. -/
def aesRoundKeys (key : List Nat) : List (List Nat) :=
  let w := (aesExpand 52 8 (chunks 4 key).reverse).reverse
  (chunks 4 w).map List.flatten

def shiftRows (st : List Nat) : List Nat :=
  (List.range 16).map fun i => st.getD ((i + 4 * (i % 4)) % 16) 0

def invShiftRows (st : List Nat) : List Nat :=
  (List.range 16).map fun i => st.getD ((i + 16 - 4 * (i % 4)) % 16) 0

def mixColumn (m : List Nat) (c : List Nat) : List Nat :=
  (List.range 4).map fun r =>
    (List.range 4).foldl (fun acc j => xorN acc (gfMul (c.getD j 0) (m.getD ((j + 4 - r) % 4) 0))) 0

def mixColumns (m : List Nat) (st : List Nat) : List Nat := ((chunks 4 st).map (mixColumn m)).flatten

def addKey (k st : List Nat) : List Nat := List.zipWith xorN st k

/-- AES encryption of one 16-byte block under round keys. -/
def aesEncBlock (rks : List (List Nat)) (b : List Nat) : List Nat :=
  let st := addKey (rks.headD []) b
  let st := ((rks.drop 1).take 13).foldl (fun st k => addKey k (mixColumns [2, 3, 1, 1] (shiftRows (st.map sbox)))) st
  addKey (rks.getD 14 []) (shiftRows (st.map sbox))

/-- AES decryption of one 16-byte block. -/
def aesDecBlock (rks : List (List Nat)) (b : List Nat) : List Nat :=
  let st := (invShiftRows (addKey (rks.getD 14 []) b)).map invSbox
  let st := ((rks.drop 1).take 13).reverse.foldl
    (fun st k => (invShiftRows (mixColumns [14, 11, 13, 9] (addKey k st))).map invSbox) st
  addKey (rks.headD []) st

def toNats (l : List Byte) : List Nat := l.map BitVec.toNat
def ofNats (l : List Nat) : List Byte := l.map (BitVec.ofNat 8)

/-- The XTS tweak times x, over 16 bytes, least significant first. -/
def xtsMul (t : List Nat) : List Nat :=
  let v := leNat (ofNats t)
  let d := 2 * v
  toNats (leBytes 16 (if d < 2 ^ 128 then d else xorN (d % 2 ^ 128) 0x87))

def xtsBlocks (f : List Nat → List Nat) : List (List Nat) → List Nat → List Nat
  | [], _ => []
  | b :: bs, t => addKey t (f (addKey t b)) ++ xtsBlocks f bs (xtsMul t)

/-- AES-XTS with a 64-byte key pair over one data unit whose tweak number is `unit` (R275: the unit is the 64-byte line,
the tweak its physical address). -/
def xtsEnc (key : List Byte) (unit : Nat) (d : List Byte) : List Byte :=
  let t := aesEncBlock (aesRoundKeys (toNats (slice key 32 32))) (toNats (leBytes 16 unit))
  ofNats (xtsBlocks (aesEncBlock (aesRoundKeys (toNats (slice key 0 32)))) (chunks 16 (toNats d)) t)

def xtsDec (key : List Byte) (unit : Nat) (d : List Byte) : List Byte :=
  let t := aesEncBlock (aesRoundKeys (toNats (slice key 32 32))) (toNats (leBytes 16 unit))
  ofNats (xtsBlocks (aesDecBlock (aesRoundKeys (toNats (slice key 0 32)))) (chunks 16 (toNats d)) t)

/-- Multiplication in the GCM field, most significant bit first. -/
def ghashMulFuel : Nat → Nat → Nat → Nat → Nat
  | 0, _, _, z => z
  | f + 1, x, v, z =>
    ghashMulFuel f x (if v % 2 = 1 then xorN (v / 2) (0xe1 * 2 ^ 120) else v / 2)
      (if bitB x f then xorN z v else z)

def ghashMul (x y : Nat) : Nat := ghashMulFuel 128 x y 0

def padTo16 (l : List Byte) : List Byte := l ++ List.replicate ((16 - l.length % 16) % 16) 0

def ghash (h : Nat) (l : List Byte) : Nat :=
  (chunks 16 l).foldl (fun y b => ghashMul (xorN y (beNat b)) h) 0

/-- The GCM key stream applied to data, from a counter block. -/
def gcmCtr (rks : List (List Nat)) : Nat → List (List Byte) → List Byte
  | _, [] => []
  | ctr, b :: bs =>
    List.zipWith (fun a k => BitVec.ofNat 8 (xorN a.toNat k)) b (aesEncBlock rks (toNats (beBytes 16 ctr)))
      ++ gcmCtr rks (ctr / 2 ^ 32 * 2 ^ 32 + (ctr + 1) % 2 ^ 32) bs

/-- AES-256-GCM with a 96-bit nonce: the ciphertext and the 16-byte tag. -/
def gcmSeal (key nonce aad pt : List Byte) : List Byte × List Byte :=
  let rks := aesRoundKeys (toNats key)
  let h := beNat (ofNats (aesEncBlock rks (List.replicate 16 0)))
  let j0 := beNat (slice nonce 0 12) * 2 ^ 32 + 1
  let ct := gcmCtr rks (j0 + 1) (chunks 16 pt)
  let g := ghash h (padTo16 aad ++ padTo16 ct ++ beBytes 8 (8 * aad.length) ++ beBytes 8 (8 * ct.length))
  (ct, beBytes 16 (xorN g (beNat (ofNats (aesEncBlock rks (toNats (beBytes 16 j0)))))))

/-- Opening a sealed text: the plaintext when the tag agrees. -/
def gcmOpen (key nonce aad ct tag : List Byte) : Option (List Byte) :=
  let rks := aesRoundKeys (toNats key)
  let h := beNat (ofNats (aesEncBlock rks (List.replicate 16 0)))
  let j0 := beNat (slice nonce 0 12) * 2 ^ 32 + 1
  let g := ghash h (padTo16 aad ++ padTo16 ct ++ beBytes 8 (8 * aad.length) ++ beBytes 8 (8 * ct.length))
  let t := beBytes 16 (xorN g (beNat (ofNats (aesEncBlock rks (toNats (beBytes 16 j0))))))
  if t = tag then some (gcmCtr rks (j0 + 1) (chunks 16 ct)) else none

/-- The primes FIPS 180-4 builds its constants from: the first 80. -/
def shaPrimes : List Nat :=
  (List.range 410).filter fun n => decide (2 ≤ n) && (List.range n).all fun d => decide (d < 2 ∨ n % d ≠ 0)

/-- The greatest number below `acc + 2 ^ fuel` whose `k`-th power does not exceed `x`, found from the top bit down. -/
def rootBits : Nat → Nat → Nat → Nat → Nat
  | 0, _, _, acc => acc
  | f + 1, k, x, acc => rootBits f k x (if (acc + 2 ^ f) ^ k ≤ x then acc + 2 ^ f else acc)

/-- The first 64 bits of the fraction of the `k`-th root of a prime. -/
def rootFraction (k p : Nat) : Nat := rootBits 72 k (p * 2 ^ (64 * k)) 0 % 2 ^ 64

/-- The round constants of SHA-512 and SHA-384 come from cube roots, the initial value of SHA-384 from the square roots of
the ninth to the sixteenth prime (FIPS 180-4). -/
def shaRoundConsts : List Nat := shaPrimes.map (rootFraction 3)
@[inherit_doc shaRoundConsts] def sha384Init : List Nat := ((shaPrimes.drop 8).take 8).map (rootFraction 2)

def rotr64 (n x : Nat) : Nat := x / 2 ^ n + x % 2 ^ n * 2 ^ (64 - n)
def add64 (a b : Nat) : Nat := (a + b) % 2 ^ 64

/-- The message schedule, newest first. -/
def shaSchedule : Nat → List Nat → List Nat
  | 0, w => w
  | f + 1, w =>
    let a := w.getD 14 0
    let b := w.getD 1 0
    let s0 := xorN (xorN (rotr64 1 a) (rotr64 8 a)) (a / 2 ^ 7)
    let s1 := xorN (xorN (rotr64 19 b) (rotr64 61 b)) (b / 2 ^ 6)
    shaSchedule f (add64 (add64 (w.getD 15 0) s0) (add64 (w.getD 6 0) s1) :: w)

def shaRound (h : List Nat) (kw : Nat × Nat) : List Nat :=
  let a := h.getD 0 0
  let b := h.getD 1 0
  let c := h.getD 2 0
  let e := h.getD 4 0
  let f := h.getD 5 0
  let g := h.getD 6 0
  let s1 := xorN (xorN (rotr64 14 e) (rotr64 18 e)) (rotr64 41 e)
  let ch := xorN (andN e f) (andN (2 ^ 64 - 1 - e) g)
  let t1 := add64 (add64 (h.getD 7 0) s1) (add64 ch (add64 kw.1 kw.2))
  let s0 := xorN (xorN (rotr64 28 a) (rotr64 34 a)) (rotr64 39 a)
  let mj := xorN (xorN (andN a b) (andN a c)) (andN b c)
  [add64 t1 (add64 s0 mj), a, b, c, add64 (h.getD 3 0) t1, e, f, g]

def shaBlock (h : List Nat) (blk : List Byte) : List Nat :=
  let w := (shaSchedule 64 ((chunks 8 blk).map beNat).reverse).reverse
  List.zipWith add64 h ((List.zip shaRoundConsts w).foldl shaRound h)

/-- SHA-384 of a byte string (FIPS 180-4). -/
def sha384 (m : List Byte) : List Byte :=
  let padded := m ++ [0x80] ++ List.replicate ((239 - m.length % 128) % 128) 0 ++ beBytes 16 (8 * m.length)
  (((chunks 128 padded).foldl shaBlock sha384Init).take 6).flatMap (beBytes 8)

/-- The prime, the curve coefficient, the order and the base point of P-384 (FIPS 186). -/
def p384P : Nat := 2 ^ 384 - 2 ^ 128 - 2 ^ 96 + 2 ^ 32 - 1
@[inherit_doc p384P] def p384N : Nat :=
  0xffffffffffffffffffffffffffffffffffffffffffffffffc7634d81f4372ddf581a0db248b0a77aecec196accc52973
@[inherit_doc p384P] def p384B : Nat :=
  0xb3312fa7e23ee7e4988e056be3f82d19181d9c6efe8141120314088f5013875ac656398d8a2ed19d2a85c8edd3ec2aef
@[inherit_doc p384P] def p384G : Nat × Nat :=
  (0xaa87ca22be8b05378eb1c71ef320ad746e1d3b628ba79b9859f741e082542a385502f25dbf55296c3a545e3872760ab7,
   0x3617de4a96262c6f5d9e98bf9292dc29f8f41dbd289a147ce9da3113b5f0b8c00a60b1ce1d7e819d7a431d7c90ea0e5f)

def powMod (m : Nat) : Nat → Nat → Nat → Nat → Nat
  | 0, _, _, acc => acc
  | f + 1, a, e, acc => powMod m f (a * a % m) (e / 2) (if e % 2 = 1 then acc * a % m else acc)

def invMod (m a : Nat) : Nat := powMod m 384 (a % m) (m - 2) 1
def subMod (m a b : Nat) : Nat := (a + m - b % m) % m

/-- Addition of two points of P-384; `none` is the point at infinity. -/
def ecAdd : Option (Nat × Nat) → Option (Nat × Nat) → Option (Nat × Nat)
  | none, q => q
  | p, none => p
  | some (x1, y1), some (x2, y2) =>
    let p := p384P
    if x1 = x2 ∧ (y1 + y2) % p = 0 then none
    else
      let l := if x1 = x2 then (3 * x1 * x1 + p - 3) * invMod p (2 * y1) % p
               else subMod p y2 y1 * invMod p (subMod p x2 x1) % p
      let x3 := subMod p (l * l) (x1 + x2)
      some (x3, subMod p (l * subMod p x1 x3) y1)

def ecMulFuel : Nat → Nat → Option (Nat × Nat) → Option (Nat × Nat) → Option (Nat × Nat)
  | 0, _, _, acc => acc
  | f + 1, k, q, acc => ecMulFuel f (k / 2) (ecAdd q q) (if k % 2 = 1 then ecAdd acc q else acc)

/-- ECDSA P-384 verification of a SHA-384 digest. The public key and the signature are 96 bytes each, two big-endian
numbers of 48 bytes (x then y, r then s). -/
def ecdsaVerify (pub digest sig : List Byte) : Bool :=
  let qx := beNat (slice pub 0 48)
  let qy := beNat (slice pub 48 48)
  let r := beNat (slice sig 0 48)
  let s := beNat (slice sig 48 48)
  let onCurve := decide (qx < p384P ∧ qy < p384P ∧
    qy * qy % p384P = (qx * qx * qx + (p384P - 3) * qx + p384B) % p384P)
  let inRange := decide (1 ≤ r ∧ r < p384N ∧ 1 ≤ s ∧ s < p384N)
  if onCurve && inRange then
    let w := invMod p384N s
    let u1 := beNat digest * w % p384N
    let u2 := r * w % p384N
    match ecAdd (ecMulFuel 384 u1 (some p384G) none) (ecMulFuel 384 u2 (some (qx, qy)) none) with
    | some (x, _) => decide (x % p384N = r)
    | none => false
  else false

end Sys2Proof.Machine
end

