-- ==== Sys2Proof/Machine/Regs.lean ====
section
/-! DEFINITION. The register map (spec/21_register_map.md, R602 to R612, and the register tables of every chapter):
one row per register with its address, its writers (R608) and its fields, each with its access code (R10), reset value
(R15), the reset that clears it and the values it takes (R12). Below the rows stand the names of the fields, used by
every meaning in place of addresses. -/

namespace Sys2Proof.Machine

/-- The access codes of R10. -/
inductive Acc where
  | ro | rw | w1c | w1s | wo | rwl
deriving DecidableEq, Repr

/-- The reset that returns a field to its reset value: a main-die reset, a Sage reset or power-on (each later one
also does what the earlier ones do). -/
inductive Dom where
  | main | sage | power
deriving DecidableEq, Repr

/-- Who may write a register (R608). -/
inductive Writer where
  | tsuquel | manager | queueOwner | queueBits | padBits | evtOwner | streamBits | outputOwner | canOwner
  | instOrManager | mboxDb | mboxPend | netOwner | laneHolder | parkReader | machineMode
deriving DecidableEq, Repr

/-- One field of a register. `ok` says which values are neither reserved nor out of range (R12). -/
structure FieldSpec where
  name : String
  lo : Nat
  width : Nat
  acc : Acc
  reset : Nat → Nat
  dom : Dom
  ok : Nat → Bool

/-- One row of the map: `count` registers, `stride` bytes apart, from `base`. -/
structure RegRow where
  name : String
  base : Nat
  stride : Nat
  count : Nat
  writer : Writer
  rowOk : Nat → Nat → Bool
  fields : List FieldSpec

/-- A field named by its register's address and its place in the word. -/
structure FRef where
  addr : Nat
  lo : Nat
  width : Nat
deriving DecidableEq, Repr

def anyOk (_ : Nat) : Bool := true
def anyRow (_ _ : Nat) : Bool := true
/-- R497: sprint_max lies at or below warn. -/
def thermRow (_ v : Nat) : Bool := decide (bits v 8 8 ≤ bits v 0 8)
/-- R304: display thresholds fall and sensor thresholds rise, each from 1 to 15. -/
def urgRow (i v : Nat) : Bool :=
  let a := bits v 0 4
  let b := bits v 4 4
  let c := bits v 8 4
  if i < 4 then decide (1 ≤ c ∧ c < b ∧ b < a) else decide (1 ≤ a ∧ a < b ∧ b < c)
/-- R563: function 1 exists only on the pads that have one. -/
def padFuncRow (i v : Nat) : Bool :=
  let f := bits v 0 3
  decide (f = 0 ∨ (f = 1 ∧ (i ≤ 2 ∨ (16 ≤ i ∧ i ≤ 21))))
/-- R443: the rates of each Ethernet port. -/
def netRateRow (i v : Nat) : Bool :=
  let f := bits v 0 3
  if i < 2 then decide (f ≤ 4) else decide (f = 3 ∨ f = 4)
/-- R509: the energy coefficients at power-on. -/
def coefReset (i : Nat) : Nat :=
  [850000, 1000000, 700000, 60000, 20000, 150000, 40000, 1500000, 500000, 5000, 30000, 2000000, 0, 0, 0, 0].getD i 0

/-- The BOOT_ block (R602). -/
def rowsBOOT : List RegRow :=
  [
⟨"BOOT_STATUS", 0x0, 0x0, 1, .tsuquel, anyRow,
      [⟨"phase", 0, 2, .ro, (fun _ => 0), .sage, anyOk⟩,
       ⟨"slot", 2, 1, .ro, (fun _ => 0), .power, anyOk⟩,
       ⟨"fault_boot", 3, 1, .ro, (fun _ => 0), .power, anyOk⟩,
       ⟨"in_backoff", 4, 1, .ro, (fun _ => 0), .sage, anyOk⟩,
       ⟨"last_cause", 8, 8, .ro, (fun _ => 0), .power, anyOk⟩]⟩,
    ⟨"BOOT_ATTEMPTS", 0x4, 0x0, 1, .tsuquel, anyRow,
      [⟨"n", 0, 32, .ro, (fun _ => 0), .power, anyOk⟩]⟩,
    ⟨"BOOT_CONSEC", 0x8, 0x0, 1, .tsuquel, anyRow,
      [⟨"n", 0, 32, .ro, (fun _ => 0), .power, anyOk⟩]⟩,
    ⟨"BOOT_MAIN_ATTEMPTS", 0xC, 0x0, 1, .tsuquel, anyRow,
      [⟨"n", 0, 32, .ro, (fun _ => 0), .power, anyOk⟩]⟩,
    ⟨"BOOT_MAIN_CONSEC", 0x10, 0x0, 1, .tsuquel, anyRow,
      [⟨"n", 0, 32, .ro, (fun _ => 0), .power, anyOk⟩]⟩,
    ⟨"BOOT_BACKOFF", 0x14, 0x0, 1, .tsuquel, anyRow,
      [⟨"backoff_ms", 0, 12, .ro, (fun _ => 0), .sage, anyOk⟩]⟩,
    ⟨"BOOT_TEST_FAIL", 0x18, 0x0, 1, .tsuquel, anyRow,
      [⟨"ck", 1, 13, .ro, (fun _ => 0), .sage, anyOk⟩]⟩,
    ⟨"BOOT_IMAGE", 0x1C, 0x0, 1, .tsuquel, anyRow,
      [⟨"image_version", 0, 32, .ro, (fun _ => 0), .sage, anyOk⟩]⟩,
    ⟨"BOOT_STRAP", 0x20, 0x0, 1, .tsuquel, anyRow,
      [⟨"boot_octal", 0, 1, .ro, (fun _ => 0), .power, anyOk⟩]⟩,
    ⟨"BOOT_ALIVE", 0x24, 0x0, 1, .tsuquel, anyRow,
      [⟨"alive", 0, 32, .wo, (fun _ => 0), .sage, anyOk⟩]⟩,
    ⟨"BOOT_CTRL", 0x28, 0x0, 1, .tsuquel, anyRow,
      [⟨"sage_reset", 0, 1, .wo, (fun _ => 0), .sage, anyOk⟩]⟩]

/-- The CLK_ block (R602). The table of CLK_DOM_STATUS gives cur_step 0x0 for SLOW and TIME and no exception for
target_step, whose meaning is that it equals cur_step when settled: target_step of these two resets to 0x0 as well.
DESIGN CHOICE (assumption 116). -/
def rowsCLK : List RegRow :=
  [
⟨"CLK_STATE", 0x10000, 0x0, 1, .tsuquel, anyRow,
      [⟨"state", 0, 2, .ro, (fun _ => 3), .power, anyOk⟩,
       ⟨"in_sweep", 2, 1, .ro, (fun _ => 0), .power, anyOk⟩]⟩,
    ⟨"CLK_WAKE_EN", 0x10004, 0x0, 1, .tsuquel, anyRow,
      [⟨"en", 0, 10, .rw, (fun _ => 0x3ff), .power, anyOk⟩]⟩,
    ⟨"CLK_WAKE_STATUS", 0x10008, 0x0, 1, .manager, anyRow,
      [⟨"hit", 0, 4, .w1c, (fun _ => 0), .power, anyOk⟩,
       ⟨"hit5", 5, 5, .w1c, (fun _ => 0), .power, anyOk⟩]⟩,
    ⟨"CLK_SWEEP_PERIOD", 0x1000C, 0x0, 1, .tsuquel, anyRow,
      [⟨"period_s", 0, 12, .rw, (fun _ => 0x3c), .power, (fun v => decide (v ≤ 3600))⟩]⟩,
    ⟨"CLK_SWEEP_STATUS", 0x10010, 0x0, 1, .tsuquel, anyRow,
      [⟨"overrun_count", 0, 16, .ro, (fun _ => 0), .power, anyOk⟩,
       ⟨"sweep_count", 16, 16, .ro, (fun _ => 0), .power, anyOk⟩]⟩,
    ⟨"CLK_DOZE_HOLD", 0x10014, 0x0, 1, .tsuquel, anyRow,
      [⟨"doze_hold", 0, 31, .rw, (fun _ => 0x186a0), .power, anyOk⟩,
       ⟨"doze_en", 31, 1, .rw, (fun _ => 1), .power, anyOk⟩]⟩,
    ⟨"CLK_PLL_STATUS", 0x10018, 0x0, 1, .tsuquel, anyRow,
      [⟨"lock", 0, 13, .ro, (fun _ => 0), .power, anyOk⟩]⟩,
    ⟨"CLK_LIMIT", 0x1001C, 0x0, 1, .manager, anyRow,
      [⟨"sprint_permit", 0, 1, .rwl, (fun _ => 0), .power, anyOk⟩,
       ⟨"lock", 31, 1, .w1s, (fun _ => 0), .power, anyOk⟩]⟩,
    ⟨"CLK_DOM_STATUS", 0x10100, 0x4, 14, .manager, anyRow,
      [⟨"cur_step", 0, 4, .ro, (fun i => if i < 2 then 0 else 7), .power, anyOk⟩,
       ⟨"target_step", 4, 4, .ro, (fun i => if i < 2 then 0 else 7), .power, anyOk⟩,
       ⟨"running", 8, 1, .ro, (fun _ => 0), .power, anyOk⟩,
       ⟨"fixed_broken", 9, 1, .w1c, (fun _ => 0), .power, anyOk⟩,
       ⟨"change_count", 16, 16, .ro, (fun _ => 0), .power, anyOk⟩]⟩,
    ⟨"CLK_DOM_CTRL", 0x10140, 0x4, 14, .tsuquel, anyRow,
      [⟨"fixed_step", 0, 4, .rw, (fun _ => 0), .power, (fun v => decide (v ≤ 6))⟩,
       ⟨"fixed_en", 4, 1, .rw, (fun _ => 0), .power, anyOk⟩,
       ⟨"idle_hold", 8, 24, .rw, (fun _ => 0x2710), .power, anyOk⟩]⟩]

/-- The TIME_ block (R602). -/
def rowsTIME : List RegRow :=
  [
⟨"TIME_NOW_LO", 0x20000, 0x0, 1, .tsuquel, anyRow,
      [⟨"lo", 0, 32, .ro, (fun _ => 0), .sage, anyOk⟩]⟩,
    ⟨"TIME_NOW_HI", 0x20004, 0x0, 1, .tsuquel, anyRow,
      [⟨"hi", 0, 32, .ro, (fun _ => 0), .sage, anyOk⟩]⟩,
    ⟨"TIME_CTRL", 0x20008, 0x0, 1, .tsuquel, anyRow,
      [⟨"rate_src", 0, 2, .rw, (fun _ => 0), .sage, (fun v => decide (v ≤ 2))⟩]⟩,
    ⟨"TIME_RATE_ADJ", 0x2000C, 0x0, 1, .tsuquel, anyRow,
      [⟨"adj", 0, 32, .rw, (fun _ => 0), .sage, anyOk⟩]⟩,
    ⟨"TIME_STATUS", 0x20010, 0x0, 1, .manager, anyRow,
      [⟨"adj_clamped", 0, 1, .w1c, (fun _ => 0), .sage, anyOk⟩,
       ⟨"reloaded", 1, 1, .w1c, (fun _ => 0), .sage, anyOk⟩,
       ⟨"dist_error", 2, 1, .w1c, (fun _ => 0), .sage, anyOk⟩]⟩,
    ⟨"TIME_STOP_LO", 0x20018, 0x0, 1, .tsuquel, anyRow,
      [⟨"lo", 0, 32, .ro, (fun _ => 0), .power, anyOk⟩]⟩,
    ⟨"TIME_STOP_HI", 0x2001C, 0x0, 1, .tsuquel, anyRow,
      [⟨"hi", 0, 32, .ro, (fun _ => 0), .power, anyOk⟩]⟩,
    ⟨"TIME_STOP_SLOW_LO", 0x20020, 0x0, 1, .tsuquel, anyRow,
      [⟨"lo", 0, 32, .ro, (fun _ => 0), .power, anyOk⟩]⟩,
    ⟨"TIME_STOP_SLOW_HI", 0x20024, 0x0, 1, .tsuquel, anyRow,
      [⟨"hi", 0, 16, .ro, (fun _ => 0), .power, anyOk⟩]⟩,
    ⟨"TIME_SLOW_LO", 0x20028, 0x0, 1, .tsuquel, anyRow,
      [⟨"lo", 0, 32, .ro, (fun _ => 0), .power, anyOk⟩]⟩,
    ⟨"TIME_SLOW_HI", 0x2002C, 0x0, 1, .tsuquel, anyRow,
      [⟨"hi", 0, 16, .ro, (fun _ => 0), .power, anyOk⟩]⟩,
    ⟨"TIME_FRAC", 0x20030, 0x0, 1, .tsuquel, anyRow,
      [⟨"acc", 0, 7, .ro, (fun _ => 0), .power, anyOk⟩]⟩]

/-- The PWR_ block (R602). PWR_COEF kinds 12 to 15 are reserved (R509): their words read zero and ignore writes (R11). -/
def rowsPWR : List RegRow :=
  [
⟨"PWR_CAP_CFG", 0x30000, 0x0, 1, .tsuquel, anyRow,
      [⟨"cap", 0, 17, .ro, (fun _ => 0x17318), .sage, anyOk⟩]⟩,
    ⟨"PWR_CAP_EFF", 0x30004, 0x0, 1, .tsuquel, anyRow,
      [⟨"cap", 0, 17, .ro, (fun _ => 0x17318), .sage, anyOk⟩]⟩,
    ⟨"PWR_PKG", 0x30008, 0x0, 1, .tsuquel, anyRow,
      [⟨"p_avg", 0, 17, .ro, (fun _ => 0), .sage, anyOk⟩,
       ⟨"cap_unmet", 31, 1, .ro, (fun _ => 0), .sage, anyOk⟩]⟩,
    ⟨"PWR_AB_ALLOW", 0x3000C, 0x0, 1, .manager, anyRow,
      [⟨"mw", 0, 16, .rwl, (fun _ => 0xdac), .power, anyOk⟩]⟩,
    ⟨"PWR_THERM_CFG", 0x30010, 0x0, 1, .manager, thermRow,
      [⟨"warn", 0, 8, .rwl, (fun _ => 0xa9), .power, (fun v => decide (149 ≤ v ∧ v ≤ 184))⟩,
       ⟨"sprint_max", 8, 8, .rwl, (fun _ => 0xa4), .power, anyOk⟩]⟩,
    ⟨"PWR_THERM_STATUS", 0x30014, 0x0, 1, .tsuquel, anyRow,
      [⟨"hottest", 0, 8, .ro, (fun _ => 0), .sage, anyOk⟩,
       ⟨"index", 8, 4, .ro, (fun _ => 0), .sage, anyOk⟩,
       ⟨"warn", 12, 1, .ro, (fun _ => 0), .sage, anyOk⟩,
       ⟨"hot", 13, 1, .ro, (fun _ => 0), .sage, anyOk⟩,
       ⟨"critical", 14, 1, .ro, (fun _ => 0), .sage, anyOk⟩]⟩,
    ⟨"PWR_TEMP", 0x30020, 0x4, 13, .tsuquel, anyRow,
      [⟨"temp", 0, 8, .ro, (fun _ => 0), .sage, anyOk⟩,
       ⟨"max", 8, 8, .ro, (fun _ => 0), .sage, anyOk⟩]⟩,
    ⟨"PWR_RAIL", 0x30060, 0x4, 5, .tsuquel, anyRow,
      [⟨"cur", 0, 16, .ro, (fun _ => 0), .sage, anyOk⟩,
       ⟨"mv", 16, 16, .ro, (fun _ => 0), .sage, anyOk⟩]⟩,
    ⟨"PWR_STATUS", 0x30074, 0x0, 1, .manager, anyRow,
      [⟨"fault", 0, 5, .w1c, (fun _ => 0), .sage, anyOk⟩,
       ⟨"telem_err", 5, 5, .w1c, (fun _ => 0), .sage, anyOk⟩]⟩,
    ⟨"PWR_OVR_THERM", 0x30080, 0x0, 1, .tsuquel, anyRow,
      [⟨"n", 0, 32, .ro, (fun _ => 0), .sage, anyOk⟩]⟩,
    ⟨"PWR_OVR_DROOP", 0x30084, 0x0, 1, .tsuquel, anyRow,
      [⟨"n", 0, 32, .ro, (fun _ => 0), .sage, anyOk⟩]⟩,
    ⟨"PWR_OVR_CAP", 0x30088, 0x0, 1, .tsuquel, anyRow,
      [⟨"n", 0, 32, .ro, (fun _ => 0), .sage, anyOk⟩]⟩]
  ++ [⟨"PWR_OVR_MULTI", 0x3008C, 0x0, 1, .tsuquel, anyRow,
      [⟨"n", 0, 32, .ro, (fun _ => 0), .sage, anyOk⟩]⟩,
    ⟨"PWR_MULTI_CFG", 0x300A0, 0x0, 1, .manager, anyRow,
      [⟨"mode", 0, 2, .ro, (fun _ => 0), .sage, anyOk⟩,
       ⟨"count", 2, 3, .ro, (fun _ => 0), .sage, anyOk⟩,
       ⟨"shift_w", 8, 8, .rwl, (fun _ => 0xa), .power, (fun v => decide (1 ≤ v ∧ v ≤ 40))⟩,
       ⟨"lag_margin", 16, 8, .rwl, (fun _ => 8), .power, (fun v => decide (1 ≤ v))⟩]⟩,
    ⟨"PWR_MULTI_NODES", 0x300A4, 0x0, 1, .tsuquel, anyRow,
      [⟨"nodes", 0, 32, .ro, (fun _ => 0xffffffff), .sage, anyOk⟩]⟩,
    ⟨"PWR_MULTI_STATUS", 0x300A8, 0x0, 1, .tsuquel, anyRow,
      [⟨"joined", 0, 1, .ro, (fun _ => 0), .sage, anyOk⟩,
       ⟨"claim", 1, 1, .ro, (fun _ => 0), .sage, anyOk⟩,
       ⟨"donating", 2, 1, .ro, (fun _ => 0), .sage, anyOk⟩,
       ⟨"raised", 3, 1, .ro, (fun _ => 0), .sage, anyOk⟩,
       ⟨"group", 4, 4, .ro, (fun _ => 0), .sage, anyOk⟩,
       ⟨"missed", 8, 8, .ro, (fun _ => 0), .sage, anyOk⟩]⟩,
    ⟨"PWR_LAG", 0x300AC, 0x0, 1, .tsuquel, anyRow,
      [⟨"lag", 0, 32, .ro, (fun _ => 0), .sage, anyOk⟩]⟩,
    ⟨"PWR_LOCK", 0x300FC, 0x0, 1, .manager, anyRow,
      [⟨"lock", 31, 1, .w1s, (fun _ => 0), .power, anyOk⟩]⟩,
    ⟨"PWR_RAIL_STATUS", 0x30100, 0x0, 1, .manager, anyRow,
      [⟨"good", 0, 9, .ro, (fun _ => 0xf), .power, anyOk⟩,
       ⟨"trip", 17, 8, .w1c, (fun _ => 0), .power, anyOk⟩,
       ⟨"trip_count", 25, 7, .ro, (fun _ => 0), .power, anyOk⟩]⟩,
    ⟨"PWR_COEF", 0x30180, 0x4, 12, .manager, anyRow,
      [⟨"fj", 0, 32, .rwl, coefReset, .power, anyOk⟩]⟩]

/-- The CMDP_ block (R602). -/
def rowsCMDP : List RegRow :=
  [
⟨"CMDP_STATUS", 0x40000, 0x0, 1, .tsuquel, anyRow,
      [⟨"accepting", 0, 1, .ro, (fun _ => 0), .sage, anyOk⟩]⟩,
    ⟨"CMDP_VLOG_WR", 0x40010, 0x0, 1, .tsuquel, anyRow,
      [⟨"wr", 0, 32, .ro, (fun _ => 0), .sage, anyOk⟩]⟩,
    ⟨"CMDP_VLOG_RD", 0x40014, 0x0, 1, .manager, anyRow,
      [⟨"rd", 0, 32, .rw, (fun _ => 0), .sage, anyOk⟩]⟩,
    ⟨"CMDP_VLOG_LOST", 0x40018, 0x0, 1, .tsuquel, anyRow,
      [⟨"lost", 0, 32, .ro, (fun _ => 0), .sage, anyOk⟩]⟩,
    ⟨"CMDP_IRQ_STATUS", 0x40020, 0x4, 2, .queueBits, anyRow,
      [⟨"irq", 0, 32, .w1c, (fun _ => 0), .sage, anyOk⟩]⟩,
    ⟨"CMDP_IRQ_EN", 0x40028, 0x4, 2, .queueBits, anyRow,
      [⟨"en", 0, 32, .rw, (fun _ => 0), .sage, anyOk⟩]⟩,
    ⟨"CMDP_VLOG", 0x40800, 0x4, 512, .tsuquel, anyRow,
      [⟨"word", 0, 32, .ro, (fun _ => 0), .sage, anyOk⟩]⟩,
    ⟨"CMDP_QBASE_LO", 0x41000, 0x40, 64, .queueOwner, anyRow,
      [⟨"lo", 0, 32, .rw, (fun _ => 0), .sage, anyOk⟩]⟩,
    ⟨"CMDP_QBASE_HI", 0x41004, 0x40, 64, .queueOwner, anyRow,
      [⟨"hi", 0, 32, .rw, (fun _ => 0), .sage, anyOk⟩]⟩,
    ⟨"CMDP_QCFG", 0x41008, 0x40, 64, .queueOwner, anyRow,
      [⟨"log2_entries", 0, 4, .rw, (fun _ => 0), .sage, anyOk⟩,
       ⟨"slot_code", 4, 4, .rw, (fun _ => 0), .sage, anyOk⟩,
       ⟨"enable", 8, 1, .rw, (fun _ => 0), .sage, anyOk⟩]⟩,
    ⟨"CMDP_QSTAT_LO", 0x4100C, 0x40, 64, .queueOwner, anyRow,
      [⟨"lo", 0, 32, .rw, (fun _ => 0), .sage, anyOk⟩]⟩,
    ⟨"CMDP_QSTAT_HI", 0x41010, 0x40, 64, .queueOwner, anyRow,
      [⟨"hi", 0, 32, .rw, (fun _ => 0), .sage, anyOk⟩]⟩]
  ++ [⟨"CMDP_DB", 0x41014, 0x40, 64, .queueOwner, anyRow,
      [⟨"tail", 0, 32, .rw, (fun _ => 0), .sage, anyOk⟩]⟩,
    ⟨"CMDP_QSTATE", 0x41018, 0x40, 64, .tsuquel, anyRow,
      [⟨"error", 0, 1, .ro, (fun _ => 0), .sage, anyOk⟩,
       ⟨"reason", 8, 8, .ro, (fun _ => 0), .sage, anyOk⟩]⟩]

/-- The RING_ block (R602). -/
def rowsRING : List RegRow :=
  [
⟨"RING_CTRL", 0x50000, 0x0, 1, .tsuquel, anyRow,
      [⟨"node", 0, 4, .rw, (fun _ => 0), .sage, anyOk⟩,
       ⟨"port_a_en", 4, 1, .rw, (fun _ => 0), .sage, anyOk⟩,
       ⟨"port_b_en", 5, 1, .rw, (fun _ => 0), .sage, anyOk⟩,
       ⟨"ts_en", 6, 1, .rw, (fun _ => 0), .sage, anyOk⟩]⟩,
    ⟨"RING_STATUS", 0x50004, 0x0, 1, .tsuquel, anyRow,
      [⟨"a_state", 0, 3, .ro, (fun _ => 0), .sage, anyOk⟩,
       ⟨"b_state", 3, 3, .ro, (fun _ => 0), .sage, anyOk⟩,
       ⟨"wrap_a", 6, 1, .ro, (fun _ => 0), .sage, anyOk⟩,
       ⟨"wrap_b", 7, 1, .ro, (fun _ => 0), .sage, anyOk⟩,
       ⟨"bypass_closed", 8, 1, .ro, (fun _ => 1), .sage, anyOk⟩,
       ⟨"miswire_a", 9, 1, .ro, (fun _ => 0), .sage, anyOk⟩,
       ⟨"miswire_b", 10, 1, .ro, (fun _ => 0), .sage, anyOk⟩]⟩,
    ⟨"RING_NEIGH", 0x50008, 0x0, 1, .tsuquel, anyRow,
      [⟨"a", 0, 4, .ro, (fun _ => 0), .sage, anyOk⟩,
       ⟨"a_valid", 7, 1, .ro, (fun _ => 0), .sage, anyOk⟩,
       ⟨"b", 8, 4, .ro, (fun _ => 0), .sage, anyOk⟩,
       ⟨"b_valid", 15, 1, .ro, (fun _ => 0), .sage, anyOk⟩]⟩,
    ⟨"RING_MEMBERS", 0x5000C, 0x0, 1, .tsuquel, anyRow,
      [⟨"members", 0, 16, .ro, (fun _ => 0), .sage, anyOk⟩,
       ⟨"dup", 16, 16, .ro, (fun _ => 0), .sage, anyOk⟩]⟩,
    ⟨"RING_SWEEP_ID", 0x50010, 0x0, 1, .tsuquel, anyRow,
      [⟨"id", 0, 32, .ro, (fun _ => 0), .sage, anyOk⟩]⟩,
    ⟨"RING_LEG_TO", 0x50014, 0x0, 1, .tsuquel, anyRow,
      [⟨"ticks", 0, 32, .rw, (fun _ => 0x7a120), .sage, (fun v => decide (1000 ≤ v ∧ v ≤ 100000000))⟩]⟩,
    ⟨"RING_BATON_TO", 0x50018, 0x0, 1, .tsuquel, anyRow,
      [⟨"ticks", 0, 32, .rw, (fun _ => 0xf4240), .sage, (fun v => decide (1000 ≤ v ∧ v ≤ 100000000))⟩]⟩,
    ⟨"RING_TS_PERIOD", 0x5001C, 0x0, 1, .tsuquel, anyRow,
      [⟨"ticks", 0, 32, .rw, (fun _ => 0xf4240), .sage, (fun v => decide (100000 ≤ v ∧ v ≤ 100000000))⟩]⟩,
    ⟨"RING_ERR", 0x50020, 0x4, 2, .tsuquel, anyRow,
      [⟨"crc", 0, 16, .ro, (fun _ => 0), .sage, anyOk⟩,
       ⟨"code", 16, 16, .ro, (fun _ => 0), .sage, anyOk⟩]⟩,
    ⟨"RING_DROP", 0x50028, 0x0, 1, .tsuquel, anyRow,
      [⟨"hops", 0, 16, .ro, (fun _ => 0), .sage, anyOk⟩,
       ⟨"nobuf", 16, 16, .ro, (fun _ => 0), .sage, anyOk⟩]⟩,
    ⟨"RING_TS_OFFSET_LO", 0x50030, 0x0, 1, .tsuquel, anyRow,
      [⟨"lo", 0, 32, .ro, (fun _ => 0), .sage, anyOk⟩]⟩,
    ⟨"RING_TS_OFFSET_HI", 0x50034, 0x0, 1, .tsuquel, anyRow,
      [⟨"hi", 0, 32, .ro, (fun _ => 0), .sage, anyOk⟩]⟩]
  ++ [⟨"RING_PBUF_WR", 0x50040, 0x0, 1, .tsuquel, anyRow,
      [⟨"wr", 0, 32, .ro, (fun _ => 0), .power, anyOk⟩]⟩,
    ⟨"RING_PBUF_RD", 0x50044, 0x0, 1, .parkReader, anyRow,
      [⟨"rd", 0, 32, .rw, (fun _ => 0), .power, anyOk⟩]⟩,
    ⟨"RING_PBUF_LOST", 0x50048, 0x0, 1, .tsuquel, anyRow,
      [⟨"lost", 0, 32, .ro, (fun _ => 0), .power, anyOk⟩]⟩]

/-- The SAF_ block (R602). -/
def rowsSAF : List RegRow :=
  [
⟨"SAF_STATUS", 0x60000, 0x0, 1, .tsuquel, anyRow,
      [⟨"safe", 0, 1, .ro, (fun _ => 0), .sage, anyOk⟩,
       ⟨"cp_restarting", 1, 1, .ro, (fun _ => 0), .sage, anyOk⟩,
       ⟨"tri_resync", 2, 1, .ro, (fun _ => 0), .sage, anyOk⟩,
       ⟨"tri_restarting", 3, 1, .ro, (fun _ => 0), .sage, anyOk⟩,
       ⟨"last_cause", 8, 8, .ro, (fun _ => 0), .power, anyOk⟩]⟩,
    ⟨"SAF_FAULT", 0x60004, 0x0, 1, .tsuquel, anyRow,
      [⟨"causes", 0, 8, .ro, (fun _ => 0), .sage, anyOk⟩,
       ⟨"fault_n", 8, 1, .ro, (fun _ => 0), .sage, anyOk⟩]⟩,
    ⟨"SAF_SAFE_COUNT", 0x60008, 0x0, 1, .tsuquel, anyRow,
      [⟨"n", 0, 32, .ro, (fun _ => 0), .power, anyOk⟩]⟩,
    ⟨"SAF_LAST_ENTRY_LO", 0x6000C, 0x0, 1, .tsuquel, anyRow,
      [⟨"lo", 0, 32, .ro, (fun _ => 0), .power, anyOk⟩]⟩,
    ⟨"SAF_LAST_ENTRY_HI", 0x60010, 0x0, 1, .tsuquel, anyRow,
      [⟨"hi", 0, 32, .ro, (fun _ => 0), .power, anyOk⟩]⟩,
    ⟨"SAF_LAST_LEN", 0x60014, 0x0, 1, .tsuquel, anyRow,
      [⟨"ticks", 0, 32, .ro, (fun _ => 0), .power, anyOk⟩]⟩,
    ⟨"SAF_LS_MISMATCH", 0x60018, 0x0, 1, .tsuquel, anyRow,
      [⟨"n", 0, 32, .ro, (fun _ => 0), .power, anyOk⟩]⟩,
    ⟨"SAF_TRI", 0x6001C, 0x0, 1, .tsuquel, anyRow,
      [⟨"resyncs", 0, 16, .ro, (fun _ => 0), .sage, anyOk⟩,
       ⟨"odd", 16, 2, .ro, (fun _ => 0), .sage, anyOk⟩,
       ⟨"retired", 18, 2, .ro, (fun _ => 0), .sage, anyOk⟩,
       ⟨"degraded", 20, 1, .ro, (fun _ => 0), .sage, anyOk⟩]⟩,
    ⟨"SAF_TRI_FAIL", 0x60020, 0x0, 1, .tsuquel, anyRow,
      [⟨"n", 0, 32, .ro, (fun _ => 0), .power, anyOk⟩]⟩,
    ⟨"SAF_CP_RESTARTS", 0x60024, 0x0, 1, .tsuquel, anyRow,
      [⟨"n", 0, 32, .ro, (fun _ => 0), .power, anyOk⟩]⟩,
    ⟨"SAF_HEARTBEAT", 0x60028, 0x0, 1, .tsuquel, anyRow,
      [⟨"n", 0, 32, .ro, (fun _ => 0), .sage, anyOk⟩]⟩,
    ⟨"SAF_TEST_RESULT", 0x6002C, 0x0, 1, .tsuquel, anyRow,
      [⟨"failed", 1, 13, .ro, (fun _ => 0), .sage, anyOk⟩]⟩]
  ++ [⟨"SAF_TEST_FULL_LO", 0x60030, 0x0, 1, .tsuquel, anyRow,
      [⟨"lo", 0, 32, .ro, (fun _ => 0), .sage, anyOk⟩]⟩,
    ⟨"SAF_TEST_FULL_HI", 0x60034, 0x0, 1, .tsuquel, anyRow,
      [⟨"hi", 0, 32, .ro, (fun _ => 0), .sage, anyOk⟩]⟩,
    ⟨"SAF_CLKMON", 0x60038, 0x0, 1, .tsuquel, anyRow,
      [⟨"refclk_bad", 0, 1, .ro, (fun _ => 0), .sage, anyOk⟩,
       ⟨"pll_unlock", 1, 1, .ro, (fun _ => 0), .sage, anyOk⟩]⟩]

/-- The PAD_ block (R602). -/
def rowsPAD : List RegRow :=
  [
⟨"PAD_IN", 0x70000, 0x4, 2, .tsuquel, anyRow,
      [⟨"in", 0, 32, .ro, (fun _ => 0), .power, anyOk⟩]⟩,
    ⟨"PAD_OUT", 0x70008, 0x4, 2, .padBits, anyRow,
      [⟨"out", 0, 32, .rw, (fun _ => 0), .power, anyOk⟩]⟩,
    ⟨"PAD_OUT_SET", 0x70010, 0x4, 2, .padBits, anyRow,
      [⟨"set", 0, 32, .w1s, (fun _ => 0), .power, anyOk⟩]⟩,
    ⟨"PAD_OUT_CLR", 0x70018, 0x4, 2, .padBits, anyRow,
      [⟨"clr", 0, 32, .w1c, (fun _ => 0), .power, anyOk⟩]⟩,
    ⟨"PAD_OE", 0x70020, 0x4, 2, .padBits, anyRow,
      [⟨"oe", 0, 32, .rw, (fun _ => 0), .power, anyOk⟩]⟩,
    ⟨"PAD_PARKING", 0x70028, 0x4, 2, .tsuquel, anyRow,
      [⟨"parking", 0, 32, .ro, (fun _ => 0), .power, anyOk⟩]⟩,
    ⟨"PAD_JTAG", 0x70030, 0x0, 1, .manager, anyRow,
      [⟨"extest_en", 0, 1, .rwl, (fun _ => 1), .power, anyOk⟩]⟩,
    ⟨"PAD_SWITCHES", 0x70034, 0x0, 1, .tsuquel, anyRow,
      [⟨"n", 0, 32, .ro, (fun _ => 0), .power, anyOk⟩]⟩,
    ⟨"PAD_LOCK", 0x700FC, 0x0, 1, .manager, anyRow,
      [⟨"lock", 31, 1, .w1s, (fun _ => 0), .power, anyOk⟩]⟩,
    ⟨"PAD_CFG", 0x70100, 0x4, 64, .manager, padFuncRow,
      [⟨"func", 0, 3, .rwl, (fun _ => 0), .power, anyOk⟩,
       ⟨"park", 3, 2, .rwl, (fun _ => 0), .power, anyOk⟩,
       ⟨"pull", 5, 2, .rwl, (fun _ => 2), .power, (fun v => decide (v ≤ 2))⟩,
       ⟨"drive", 7, 2, .rwl, (fun _ => 1), .power, anyOk⟩,
       ⟨"od", 9, 1, .rwl, (fun _ => 0), .power, anyOk⟩,
       ⟨"owner", 16, 4, .rwl, (fun _ => 0), .power, anyOk⟩]⟩,
    ⟨"PAD_EVT_START_LO", 0x70200, 0x20, 4, .evtOwner, anyRow,
      [⟨"lo", 0, 32, .rw, (fun _ => 0), .power, anyOk⟩]⟩,
    ⟨"PAD_EVT_START_HI", 0x70204, 0x20, 4, .evtOwner, anyRow,
      [⟨"hi", 0, 32, .rw, (fun _ => 0), .power, anyOk⟩]⟩]
  ++ [⟨"PAD_EVT_PERIOD", 0x70208, 0x20, 4, .evtOwner, anyRow,
      [⟨"p", 0, 32, .rw, (fun _ => 0), .power, (fun v => decide (v ≠ 1))⟩]⟩,
    ⟨"PAD_EVT_WIDTH", 0x7020C, 0x20, 4, .evtOwner, anyRow,
      [⟨"wd", 0, 32, .rw, (fun _ => 1), .power, (fun v => decide (v ≠ 0))⟩]⟩,
    ⟨"PAD_EVT_CTRL", 0x70210, 0x20, 4, .evtOwner, anyRow,
      [⟨"en", 0, 1, .rw, (fun _ => 0), .power, anyOk⟩,
       ⟨"active_low", 1, 1, .rw, (fun _ => 0), .power, anyOk⟩]⟩,
    ⟨"PAD_EVT_COUNT", 0x70214, 0x20, 4, .tsuquel, anyRow,
      [⟨"n", 0, 32, .ro, (fun _ => 0), .power, anyOk⟩]⟩]

/-- The CAN_ block (R602). -/
def rowsCAN : List RegRow :=
  [
⟨"CAN_STATE", 0x80100, 0x40, 16, .tsuquel, anyRow,
      [⟨"mode", 0, 2, .ro, (fun _ => 0), .sage, anyOk⟩,
       ⟨"bus", 2, 2, .ro, (fun _ => 0), .sage, anyOk⟩,
       ⟨"owner", 4, 4, .ro, (fun _ => 0), .sage, anyOk⟩,
       ⟨"tec", 8, 8, .ro, (fun _ => 0), .sage, anyOk⟩,
       ⟨"rec", 16, 8, .ro, (fun _ => 0), .sage, anyOk⟩]⟩,
    ⟨"CAN_RX_WR", 0x80104, 0x40, 16, .tsuquel, anyRow,
      [⟨"wr", 0, 32, .ro, (fun _ => 0), .sage, anyOk⟩]⟩,
    ⟨"CAN_RX_RD", 0x80108, 0x40, 16, .canOwner, anyRow,
      [⟨"rd", 0, 32, .rw, (fun _ => 0), .sage, anyOk⟩]⟩,
    ⟨"CAN_RX_DROP", 0x8010C, 0x40, 16, .tsuquel, anyRow,
      [⟨"n", 0, 32, .ro, (fun _ => 0), .sage, anyOk⟩]⟩,
    ⟨"CAN_TX_SENT", 0x80110, 0x40, 16, .tsuquel, anyRow,
      [⟨"n", 0, 32, .ro, (fun _ => 0), .sage, anyOk⟩]⟩,
    ⟨"CAN_TX_DROP", 0x80114, 0x40, 16, .tsuquel, anyRow,
      [⟨"n", 0, 32, .ro, (fun _ => 0), .sage, anyOk⟩]⟩,
    ⟨"CAN_ROUTE_FWD", 0x80118, 0x40, 16, .tsuquel, anyRow,
      [⟨"n", 0, 32, .ro, (fun _ => 0), .sage, anyOk⟩]⟩,
    ⟨"CAN_ROUTE_DROP", 0x8011C, 0x40, 16, .tsuquel, anyRow,
      [⟨"n", 0, 32, .ro, (fun _ => 0), .sage, anyOk⟩]⟩,
    ⟨"CAN_ERR", 0x80120, 0x40, 16, .tsuquel, anyRow,
      [⟨"n", 0, 32, .ro, (fun _ => 0), .sage, anyOk⟩]⟩]

/-- The INST_ block (R602). -/
def rowsINST : List RegRow :=
  [
⟨"INST_CTRL", 0x90000, 0x0, 1, .manager, anyRow,
      [⟨"manager", 0, 4, .rwl, (fun _ => 0), .sage, anyOk⟩,
       ⟨"lock", 31, 1, .w1s, (fun _ => 0), .sage, anyOk⟩]⟩,
    ⟨"INST_STATE", 0x90100, 0x40, 16, .instOrManager, anyRow,
      [⟨"state", 0, 2, .ro, (fun _ => 0), .sage, anyOk⟩,
       ⟨"held_quiesce", 2, 1, .ro, (fun _ => 0), .sage, anyOk⟩,
       ⟨"is_manager", 3, 1, .ro, (fun _ => 0), .sage, anyOk⟩,
       ⟨"restored", 4, 1, .w1c, (fun _ => 0), .sage, anyOk⟩,
       ⟨"mbox_err", 5, 1, .w1c, (fun _ => 0), .sage, anyOk⟩]⟩,
    ⟨"INST_RIGHTS", 0x90104, 0x40, 16, .tsuquel, anyRow,
      [⟨"class_mask", 0, 9, .ro, (fun _ => 0), .sage, anyOk⟩,
       ⟨"lane_mask", 16, 8, .ro, (fun _ => 0), .sage, anyOk⟩,
       ⟨"lc_mask", 24, 8, .ro, (fun _ => 0), .sage, anyOk⟩]⟩,
    ⟨"INST_MBOX_LO", 0x90108, 0x40, 16, .manager, anyRow,
      [⟨"lo", 12, 20, .rw, (fun _ => 0), .sage, anyOk⟩]⟩,
    ⟨"INST_MBOX_HI", 0x9010C, 0x40, 16, .manager, anyRow,
      [⟨"hi", 0, 8, .rw, (fun _ => 0), .sage, anyOk⟩]⟩,
    ⟨"INST_MBOX_DB", 0x90110, 0x40, 16, .mboxDb, anyRow,
      [⟨"ring_mgr", 0, 1, .wo, (fun _ => 0), .sage, anyOk⟩,
       ⟨"ring_ten", 1, 1, .wo, (fun _ => 0), .sage, anyOk⟩]⟩,
    ⟨"INST_MBOX_PEND", 0x90114, 0x40, 16, .mboxPend, anyRow,
      [⟨"pend_mgr", 0, 1, .w1c, (fun _ => 0), .sage, anyOk⟩,
       ⟨"pend_ten", 1, 1, .w1c, (fun _ => 0), .sage, anyOk⟩]⟩,
    ⟨"INST_NOTICES", 0x90118, 0x40, 16, .tsuquel, anyRow,
      [⟨"n", 0, 32, .ro, (fun _ => 0), .sage, anyOk⟩]⟩,
    ⟨"INST_RESTORES", 0x9011C, 0x40, 16, .tsuquel, anyRow,
      [⟨"n", 0, 32, .ro, (fun _ => 0), .sage, anyOk⟩]⟩]

/-- The SYS_ block (R602). -/
def rowsSYS : List RegRow :=
  [
⟨"SYS_CHIP_ID", 0x10000000, 0x0, 1, .tsuquel, anyRow,
      [⟨"chip_id", 0, 32, .ro, (fun _ => 0xc050032), .main, anyOk⟩]⟩,
    ⟨"SYS_STEPPING", 0x10000004, 0x0, 1, .tsuquel, anyRow,
      [⟨"stepping", 0, 32, .ro, (fun _ => 0xa), .main, anyOk⟩]⟩,
    ⟨"SYS_CORE_TAG", 0x10000100, 0x4, 12, .machineMode, anyRow,
      [⟨"tag", 0, 4, .rw, (fun _ => 0), .main, anyOk⟩]⟩]

/-- The MEM_ block (R602). -/
def rowsMEM : List RegRow :=
  [
⟨"MEM_DRAM_CFG", 0x10010000, 0x0, 1, .tsuquel, anyRow,
      [⟨"capacity", 0, 2, .ro, (fun _ => 0), .main, anyOk⟩,
       ⟨"two_rank", 2, 1, .ro, (fun _ => 0), .main, anyOk⟩]⟩,
    ⟨"MEM_SHARED", 0x10010004, 0x0, 1, .tsuquel, anyRow,
      [⟨"shared_chan", 0, 16, .ro, (fun _ => 0xffff), .main, anyOk⟩,
       ⟨"shared_way", 16, 16, .ro, (fun _ => 0xffff), .main, anyOk⟩]⟩,
    ⟨"MEM_LANE_RES", 0x10010010, 0x4, 8, .tsuquel, anyRow,
      [⟨"chan_mask", 0, 16, .ro, (fun _ => 0), .main, anyOk⟩,
       ⟨"way_mask", 16, 16, .ro, (fun _ => 0), .main, anyOk⟩]⟩,
    ⟨"MEM_LANE_TILE", 0x10010030, 0x4, 8, .tsuquel, anyRow,
      [⟨"tile_mask", 0, 32, .ro, (fun _ => 0), .main, anyOk⟩]⟩,
    ⟨"MEM_LANE_BAY", 0x10010050, 0x4, 8, .tsuquel, anyRow,
      [⟨"base", 0, 9, .ro, (fun _ => 0), .main, anyOk⟩,
       ⟨"len", 16, 9, .ro, (fun _ => 0), .main, anyOk⟩]⟩,
    ⟨"MEM_ECC_CE", 0x10010080, 0x4, 4, .tsuquel, anyRow,
      [⟨"n", 0, 32, .ro, (fun _ => 0), .main, anyOk⟩]⟩,
    ⟨"MEM_ECC_UE", 0x10010090, 0x4, 4, .tsuquel, anyRow,
      [⟨"n", 0, 32, .ro, (fun _ => 0), .main, anyOk⟩]⟩,
    ⟨"MEM_POISON_LO", 0x100100A0, 0x0, 1, .tsuquel, anyRow,
      [⟨"lo", 0, 32, .ro, (fun _ => 0), .main, anyOk⟩]⟩,
    ⟨"MEM_POISON_HI", 0x100100A4, 0x0, 1, .tsuquel, anyRow,
      [⟨"hi", 0, 8, .ro, (fun _ => 0), .main, anyOk⟩]⟩,
    ⟨"MEM_POISON_INFO", 0x100100A8, 0x0, 1, .tsuquel, anyRow,
      [⟨"kind", 0, 2, .ro, (fun _ => 0), .main, anyOk⟩,
       ⟨"master", 16, 16, .ro, (fun _ => 0), .main, anyOk⟩]⟩,
    ⟨"MEM_SCRUB", 0x100100B0, 0x0, 1, .manager, anyRow,
      [⟨"scrub_en", 0, 1, .rwl, (fun _ => 1), .main, anyOk⟩]⟩,
    ⟨"MEM_SCRUB_PASS", 0x100100B4, 0x0, 1, .tsuquel, anyRow,
      [⟨"tile", 0, 16, .ro, (fun _ => 0), .main, anyOk⟩,
       ⟨"bay", 16, 16, .ro, (fun _ => 0), .main, anyOk⟩]⟩]
  ++ [⟨"MEM_LOCK", 0x100100FC, 0x0, 1, .manager, anyRow,
      [⟨"lock", 31, 1, .w1s, (fun _ => 0), .main, anyOk⟩]⟩]

/-- The XLT_ block (R602). -/
def rowsXLT : List RegRow :=
  [
⟨"XLT_WALKS", 0x10020000, 0x0, 1, .tsuquel, anyRow,
      [⟨"n", 0, 32, .ro, (fun _ => 0), .main, anyOk⟩]⟩,
    ⟨"XLT_INVALIDATES", 0x10020004, 0x0, 1, .tsuquel, anyRow,
      [⟨"n", 0, 32, .ro, (fun _ => 0), .main, anyOk⟩]⟩,
    ⟨"XLT_ROOT_LO", 0x10020100, 0x20, 16, .tsuquel, anyRow,
      [⟨"lo", 12, 20, .ro, (fun _ => 0), .main, anyOk⟩]⟩,
    ⟨"XLT_ROOT_HI", 0x10020104, 0x20, 16, .tsuquel, anyRow,
      [⟨"hi", 0, 8, .ro, (fun _ => 0), .main, anyOk⟩]⟩,
    ⟨"XLT_CFG", 0x10020108, 0x20, 16, .tsuquel, anyRow,
      [⟨"format", 0, 8, .ro, (fun _ => 0), .main, anyOk⟩,
       ⟨"key_valid", 8, 1, .ro, (fun _ => 0), .main, anyOk⟩]⟩,
    ⟨"XLT_FAULTS", 0x1002010C, 0x20, 16, .tsuquel, anyRow,
      [⟨"n", 0, 32, .ro, (fun _ => 0), .main, anyOk⟩]⟩,
    ⟨"XLT_LAST_VA_LO", 0x10020110, 0x20, 16, .tsuquel, anyRow,
      [⟨"lo", 0, 32, .ro, (fun _ => 0), .main, anyOk⟩]⟩,
    ⟨"XLT_LAST_VA_HI", 0x10020114, 0x20, 16, .tsuquel, anyRow,
      [⟨"hi", 0, 32, .ro, (fun _ => 0), .main, anyOk⟩]⟩,
    ⟨"XLT_LAST_INFO", 0x10020118, 0x20, 16, .tsuquel, anyRow,
      [⟨"reason", 0, 4, .ro, (fun _ => 0), .main, anyOk⟩,
       ⟨"level", 4, 2, .ro, (fun _ => 0), .main, anyOk⟩,
       ⟨"write", 6, 1, .ro, (fun _ => 0), .main, anyOk⟩,
       ⟨"master", 16, 16, .ro, (fun _ => 0), .main, anyOk⟩]⟩]

/-- The PACE_ block (R602). -/
def rowsPACE : List RegRow :=
  [
⟨"PACE_WINDOW", 0x10030000, 0x0, 1, .tsuquel, anyRow,
      [⟨"n", 0, 32, .ro, (fun _ => 0), .main, anyOk⟩]⟩,
    ⟨"PACE_SHARED_COUNT", 0x10030020, 0x4, 8, .tsuquel, anyRow,
      [⟨"n", 0, 32, .ro, (fun _ => 0), .main, anyOk⟩]⟩,
    ⟨"PACE_BUDGET", 0x10030100, 0x4, 64, .tsuquel, anyRow,
      [⟨"n", 0, 32, .ro, (fun _ => 0xffffffff), .main, anyOk⟩]⟩,
    ⟨"PACE_COUNT", 0x10030200, 0x4, 64, .tsuquel, anyRow,
      [⟨"n", 0, 32, .ro, (fun _ => 0), .main, anyOk⟩]⟩,
    ⟨"PACE_OVERRUN", 0x10030300, 0x4, 64, .tsuquel, anyRow,
      [⟨"n", 0, 32, .ro, (fun _ => 0), .main, anyOk⟩]⟩,
    ⟨"PACE_HOLDS", 0x10030400, 0x4, 8, .tsuquel, anyRow,
      [⟨"n", 0, 32, .ro, (fun _ => 0), .main, anyOk⟩]⟩,
    ⟨"PACE_STALL", 0x10030420, 0x4, 8, .tsuquel, anyRow,
      [⟨"ticks", 0, 32, .ro, (fun _ => 0x186a0), .main, anyOk⟩]⟩,
    ⟨"PACE_LATE", 0x10030440, 0x4, 8, .tsuquel, anyRow,
      [⟨"misses", 0, 16, .ro, (fun _ => 0), .main, anyOk⟩,
       ⟨"stalls", 16, 16, .ro, (fun _ => 0), .main, anyOk⟩]⟩,
    ⟨"PACE_OVERRUN_WIN", 0x10030460, 0x4, 8, .tsuquel, anyRow,
      [⟨"n", 0, 32, .ro, (fun _ => 0), .main, anyOk⟩]⟩,
    ⟨"PACE_URG_CFG", 0x10030500, 0x4, 8, .manager, urgRow,
      [⟨"th1", 0, 4, .rw, (fun _ => 8), .main, anyOk⟩,
       ⟨"th2", 4, 4, .rw, (fun i => if i < 4 then 4 else 12), .main, anyOk⟩,
       ⟨"th3", 8, 4, .rw, (fun i => if i < 4 then 2 else 14), .main, anyOk⟩]⟩,
    ⟨"PACE_URG_STATUS", 0x10030520, 0x0, 1, .tsuquel, anyRow,
      [⟨"urg", 0, 16, .ro, (fun _ => 0), .main, anyOk⟩]⟩,
    ⟨"PACE_URG_OVR", 0x10030524, 0x0, 1, .tsuquel, anyRow,
      [⟨"n", 0, 32, .ro, (fun _ => 0), .main, anyOk⟩]⟩]

/-- The TILE_ block (R602). -/
def rowsTILE : List RegRow :=
  [
⟨"TILE_PAIRED", 0x10040000, 0x0, 1, .tsuquel, anyRow,
      [⟨"lane_paired", 0, 8, .ro, (fun _ => 0), .main, anyOk⟩]⟩,
    ⟨"TILE_PAIR_MISMATCH", 0x10040080, 0x4, 16, .tsuquel, anyRow,
      [⟨"n", 0, 32, .ro, (fun _ => 0), .main, anyOk⟩]⟩,
    ⟨"TILE_STATE", 0x10040100, 0x40, 32, .tsuquel, anyRow,
      [⟨"busy", 0, 1, .ro, (fun _ => 0), .main, anyOk⟩,
       ⟨"lane", 1, 3, .ro, (fun _ => 0), .main, anyOk⟩,
       ⟨"instance", 4, 4, .ro, (fun _ => 0), .main, anyOk⟩,
       ⟨"logical", 8, 5, .ro, (fun _ => 0), .main, anyOk⟩,
       ⟨"checker", 13, 1, .ro, (fun _ => 0), .main, anyOk⟩]⟩,
    ⟨"TILE_PC", 0x10040104, 0x40, 32, .tsuquel, anyRow,
      [⟨"pc", 0, 11, .ro, (fun _ => 0), .main, anyOk⟩]⟩,
    ⟨"TILE_CYCLES", 0x10040108, 0x40, 32, .tsuquel, anyRow,
      [⟨"n", 0, 32, .ro, (fun _ => 0), .main, anyOk⟩]⟩,
    ⟨"TILE_BUNDLES", 0x1004010C, 0x40, 32, .tsuquel, anyRow,
      [⟨"n", 0, 32, .ro, (fun _ => 0), .main, anyOk⟩]⟩,
    ⟨"TILE_BANK_STALL", 0x10040110, 0x40, 32, .tsuquel, anyRow,
      [⟨"n", 0, 32, .ro, (fun _ => 0), .main, anyOk⟩]⟩,
    ⟨"TILE_EMPTY_WIN", 0x10040114, 0x40, 32, .tsuquel, anyRow,
      [⟨"n", 0, 32, .ro, (fun _ => 0), .main, anyOk⟩]⟩,
    ⟨"TILE_SAT", 0x10040118, 0x40, 32, .tsuquel, anyRow,
      [⟨"n", 0, 32, .ro, (fun _ => 0), .main, anyOk⟩]⟩,
    ⟨"TILE_FAULT", 0x1004011C, 0x40, 32, .tsuquel, anyRow,
      [⟨"kind", 0, 4, .ro, (fun _ => 0), .main, anyOk⟩,
       ⟨"bundle", 4, 11, .ro, (fun _ => 0), .main, anyOk⟩]⟩,
    ⟨"TILE_FAULTS", 0x10040120, 0x40, 32, .tsuquel, anyRow,
      [⟨"n", 0, 32, .ro, (fun _ => 0), .main, anyOk⟩]⟩,
    ⟨"TILE_QS_CLEAR", 0x10040F00, 0x0, 1, .laneHolder, anyRow,
      [⟨"mask", 0, 16, .wo, (fun _ => 0), .main, anyOk⟩,
       ⟨"lane", 16, 3, .wo, (fun _ => 0), .main, anyOk⟩]⟩]
  ++ [⟨"TILE_QS_COUNT", 0x10041000, 0x20, 128, .tsuquel, anyRow,
      [⟨"n", 0, 32, .ro, (fun _ => 0), .main, anyOk⟩]⟩,
    ⟨"TILE_QS_CLIPPED", 0x10041004, 0x20, 128, .tsuquel, anyRow,
      [⟨"n", 0, 32, .ro, (fun _ => 0), .main, anyOk⟩]⟩,
    ⟨"TILE_QS_NONFIN", 0x10041008, 0x20, 128, .tsuquel, anyRow,
      [⟨"n", 0, 32, .ro, (fun _ => 0), .main, anyOk⟩]⟩,
    ⟨"TILE_QS_SSE_LO", 0x10041010, 0x20, 128, .tsuquel, anyRow,
      [⟨"n", 0, 32, .ro, (fun _ => 0), .main, anyOk⟩]⟩,
    ⟨"TILE_QS_SSE_HI", 0x10041014, 0x20, 128, .tsuquel, anyRow,
      [⟨"n", 0, 32, .ro, (fun _ => 0), .main, anyOk⟩]⟩]

/-- The ATT_ block (R602). -/
def rowsATT : List RegRow :=
  [
⟨"ATT_BUCKET", 0x10050000, 0x4, 8, .tsuquel, anyRow,
      [⟨"n", 0, 32, .ro, (fun _ => 0), .main, anyOk⟩]⟩,
    ⟨"ATT_APPENDED", 0x10050020, 0x0, 1, .tsuquel, anyRow,
      [⟨"n", 0, 32, .ro, (fun _ => 0), .main, anyOk⟩]⟩,
    ⟨"ATT_CONFLICTS", 0x10050024, 0x0, 1, .tsuquel, anyRow,
      [⟨"n", 0, 32, .ro, (fun _ => 0), .main, anyOk⟩]⟩,
    ⟨"ATT_STATE", 0x10050100, 0x40, 2, .tsuquel, anyRow,
      [⟨"busy", 0, 1, .ro, (fun _ => 0), .main, anyOk⟩,
       ⟨"lane", 1, 3, .ro, (fun _ => 0), .main, anyOk⟩,
       ⟨"instance", 4, 4, .ro, (fun _ => 0), .main, anyOk⟩]⟩,
    ⟨"ATT_STEPS", 0x10050104, 0x40, 2, .tsuquel, anyRow,
      [⟨"n", 0, 32, .ro, (fun _ => 0), .main, anyOk⟩]⟩,
    ⟨"ATT_WAIT", 0x10050108, 0x40, 2, .tsuquel, anyRow,
      [⟨"n", 0, 32, .ro, (fun _ => 0), .main, anyOk⟩]⟩,
    ⟨"ATT_EMPTY", 0x1005010C, 0x40, 2, .tsuquel, anyRow,
      [⟨"n", 0, 32, .ro, (fun _ => 0), .main, anyOk⟩]⟩,
    ⟨"ATT_NONFIN", 0x10050110, 0x40, 2, .tsuquel, anyRow,
      [⟨"n", 0, 32, .ro, (fun _ => 0), .main, anyOk⟩]⟩,
    ⟨"ATT_FAULT", 0x10050114, 0x40, 2, .tsuquel, anyRow,
      [⟨"kind", 0, 4, .ro, (fun _ => 0), .main, anyOk⟩,
       ⟨"step", 4, 10, .ro, (fun _ => 0), .main, anyOk⟩,
       ⟨"entry", 16, 12, .ro, (fun _ => 0), .main, anyOk⟩]⟩,
    ⟨"ATT_FAULTS", 0x10050118, 0x40, 2, .tsuquel, anyRow,
      [⟨"n", 0, 32, .ro, (fun _ => 0), .main, anyOk⟩]⟩]

/-- The SRCH_ block (R602). -/
def rowsSRCH : List RegRow :=
  [
⟨"SRCH_IDX_LIVE", 0x10060000, 0x4, 8, .tsuquel, anyRow,
      [⟨"live", 0, 32, .ro, (fun _ => 0), .main, anyOk⟩]⟩,
    ⟨"SRCH_BADREF", 0x10060020, 0x0, 1, .tsuquel, anyRow,
      [⟨"n", 0, 32, .ro, (fun _ => 0), .main, anyOk⟩]⟩,
    ⟨"SRCH_STATE", 0x10060100, 0x40, 2, .tsuquel, anyRow,
      [⟨"busy", 0, 1, .ro, (fun _ => 0), .main, anyOk⟩,
       ⟨"lane", 1, 3, .ro, (fun _ => 0), .main, anyOk⟩,
       ⟨"instance", 4, 4, .ro, (fun _ => 0), .main, anyOk⟩,
       ⟨"a", 16, 7, .ro, (fun _ => 0x40), .main, anyOk⟩]⟩,
    ⟨"SRCH_CTX_MAX", 0x10060104, 0x40, 2, .manager, anyRow,
      [⟨"ctx_max", 0, 7, .rw, (fun _ => 0x40), .main, (fun v => decide (1 ≤ v ∧ v ≤ 64))⟩]⟩,
    ⟨"SRCH_QUERIES", 0x10060108, 0x40, 2, .tsuquel, anyRow,
      [⟨"n", 0, 32, .ro, (fun _ => 0), .main, anyOk⟩]⟩,
    ⟨"SRCH_CODES", 0x1006010C, 0x40, 2, .tsuquel, anyRow,
      [⟨"n", 0, 32, .ro, (fun _ => 0), .main, anyOk⟩]⟩,
    ⟨"SRCH_RERANKED", 0x10060110, 0x40, 2, .tsuquel, anyRow,
      [⟨"n", 0, 32, .ro, (fun _ => 0), .main, anyOk⟩]⟩,
    ⟨"SRCH_WAIT", 0x10060114, 0x40, 2, .tsuquel, anyRow,
      [⟨"n", 0, 32, .ro, (fun _ => 0), .main, anyOk⟩]⟩,
    ⟨"SRCH_ADAPT", 0x10060118, 0x40, 2, .tsuquel, anyRow,
      [⟨"n", 0, 32, .ro, (fun _ => 0), .main, anyOk⟩]⟩,
    ⟨"SRCH_EMPTY", 0x1006011C, 0x40, 2, .tsuquel, anyRow,
      [⟨"n", 0, 32, .ro, (fun _ => 0), .main, anyOk⟩]⟩]

/-- The GFX_ block (R602). -/
def rowsGFX : List RegRow :=
  [
⟨"GFX_STATE", 0x10070000, 0x0, 1, .tsuquel, anyRow,
      [⟨"busy", 0, 1, .ro, (fun _ => 0), .main, anyOk⟩,
       ⟨"mode", 1, 1, .ro, (fun _ => 0), .main, anyOk⟩,
       ⟨"lane", 2, 3, .ro, (fun _ => 0), .main, anyOk⟩,
       ⟨"instance", 5, 4, .ro, (fun _ => 0), .main, anyOk⟩,
       ⟨"ctx", 9, 4, .ro, (fun _ => 0), .main, anyOk⟩]⟩,
    ⟨"GFX_PASSES", 0x10070004, 0x0, 1, .tsuquel, anyRow,
      [⟨"n", 0, 32, .ro, (fun _ => 0), .main, anyOk⟩]⟩,
    ⟨"GFX_BINS", 0x10070008, 0x0, 1, .tsuquel, anyRow,
      [⟨"n", 0, 32, .ro, (fun _ => 0), .main, anyOk⟩]⟩,
    ⟨"GFX_SPLITS", 0x1007000C, 0x0, 1, .tsuquel, anyRow,
      [⟨"n", 0, 32, .ro, (fun _ => 0), .main, anyOk⟩]⟩,
    ⟨"GFX_SB_STALL", 0x10070010, 0x0, 1, .tsuquel, anyRow,
      [⟨"n", 0, 32, .ro, (fun _ => 0), .main, anyOk⟩]⟩,
    ⟨"GFX_BLOCKS", 0x10070014, 0x0, 1, .tsuquel, anyRow,
      [⟨"n", 0, 32, .ro, (fun _ => 0), .main, anyOk⟩]⟩,
    ⟨"GFX_SECTORS", 0x10070018, 0x0, 1, .tsuquel, anyRow,
      [⟨"n", 0, 32, .ro, (fun _ => 0), .main, anyOk⟩]⟩,
    ⟨"GFX_FAULT", 0x1007001C, 0x0, 1, .tsuquel, anyRow,
      [⟨"kind", 0, 3, .ro, (fun _ => 0), .main, anyOk⟩,
       ⟨"off", 4, 24, .ro, (fun _ => 0), .main, anyOk⟩]⟩,
    ⟨"GFX_FAULTS", 0x10070020, 0x0, 1, .tsuquel, anyRow,
      [⟨"n", 0, 32, .ro, (fun _ => 0), .main, anyOk⟩]⟩,
    ⟨"GFX_CTX", 0x10070040, 0x4, 16, .tsuquel, anyRow,
      [⟨"bound", 0, 1, .ro, (fun _ => 0), .main, anyOk⟩,
       ⟨"instance", 4, 4, .ro, (fun _ => 0), .main, anyOk⟩]⟩]

/-- The DISP_ block (R602). -/
def rowsDISP : List RegRow :=
  [
⟨"DISP_OUT_STATE", 0x10080100, 0x40, 4, .outputOwner, anyRow,
      [⟨"enabled", 0, 1, .ro, (fun _ => 0), .main, anyOk⟩,
       ⟨"showing", 1, 1, .ro, (fun _ => 0), .main, anyOk⟩,
       ⟨"link_up", 2, 1, .ro, (fun _ => 0), .main, anyOk⟩,
       ⟨"restored", 3, 1, .w1c, (fun _ => 0), .main, anyOk⟩,
       ⟨"restore_fail", 4, 1, .w1c, (fun _ => 0), .main, anyOk⟩,
       ⟨"lanes", 8, 3, .ro, (fun _ => 0), .main, anyOk⟩,
       ⟨"owner", 16, 4, .ro, (fun _ => 0), .main, anyOk⟩]⟩,
    ⟨"DISP_FRAME", 0x10080104, 0x40, 4, .tsuquel, anyRow,
      [⟨"n", 0, 32, .ro, (fun _ => 0), .main, anyOk⟩]⟩,
    ⟨"DISP_LINE", 0x10080108, 0x40, 4, .tsuquel, anyRow,
      [⟨"line", 0, 14, .ro, (fun _ => 0), .main, anyOk⟩]⟩,
    ⟨"DISP_UNDERRUN", 0x1008010C, 0x40, 4, .tsuquel, anyRow,
      [⟨"n", 0, 32, .ro, (fun _ => 0), .main, anyOk⟩]⟩,
    ⟨"DISP_POISON", 0x10080110, 0x40, 4, .tsuquel, anyRow,
      [⟨"n", 0, 32, .ro, (fun _ => 0), .main, anyOk⟩]⟩,
    ⟨"DISP_XLT", 0x10080114, 0x40, 4, .tsuquel, anyRow,
      [⟨"n", 0, 32, .ro, (fun _ => 0), .main, anyOk⟩]⟩,
    ⟨"DISP_VBLANK_LO", 0x10080118, 0x40, 4, .tsuquel, anyRow,
      [⟨"lo", 0, 32, .ro, (fun _ => 0), .main, anyOk⟩]⟩,
    ⟨"DISP_VBLANK_HI", 0x1008011C, 0x40, 4, .tsuquel, anyRow,
      [⟨"hi", 0, 32, .ro, (fun _ => 0), .main, anyOk⟩]⟩]

/-- The SENS_ block (R602). -/
def rowsSENS : List RegRow :=
  [
⟨"SENS_PORT_CFG", 0x10090000, 0x4, 4, .manager, anyRow,
      [⟨"lanes", 0, 3, .rwl, (fun _ => 4), .main, (fun v => decide (v = 1 ∨ v = 2 ∨ v = 4))⟩]⟩,
    ⟨"SENS_ECC", 0x10090010, 0x4, 4, .tsuquel, anyRow,
      [⟨"n", 0, 32, .ro, (fun _ => 0), .main, anyOk⟩]⟩,
    ⟨"SENS_OVERFLOW", 0x10090020, 0x4, 4, .tsuquel, anyRow,
      [⟨"n", 0, 32, .ro, (fun _ => 0), .main, anyOk⟩]⟩,
    ⟨"SENS_DISCARD", 0x10090030, 0x4, 4, .tsuquel, anyRow,
      [⟨"n", 0, 32, .ro, (fun _ => 0), .main, anyOk⟩]⟩,
    ⟨"SENS_IRQ_STATUS", 0x10090040, 0x0, 1, .streamBits, anyRow,
      [⟨"irq", 0, 16, .w1c, (fun _ => 0), .main, anyOk⟩]⟩,
    ⟨"SENS_LOCK", 0x100900FC, 0x0, 1, .manager, anyRow,
      [⟨"lock", 31, 1, .w1s, (fun _ => 0), .main, anyOk⟩]⟩,
    ⟨"SENS_STREAM_STATE", 0x10090100, 0x8, 16, .tsuquel, anyRow,
      [⟨"enabled", 0, 1, .ro, (fun _ => 0), .main, anyOk⟩,
       ⟨"owner", 1, 4, .ro, (fun _ => 0), .main, anyOk⟩,
       ⟨"next", 5, 6, .ro, (fun _ => 0), .main, anyOk⟩]⟩,
    ⟨"SENS_STREAM_DROP", 0x10090104, 0x8, 16, .tsuquel, anyRow,
      [⟨"n", 0, 32, .ro, (fun _ => 0), .main, anyOk⟩]⟩]

/-- The NET_ block (R602). Bits 5:0 of the ring bases are taken as reserved bits: a write drops them and is not refused
(R11, not R12). DESIGN CHOICE (assumption 117). -/
def rowsNET : List RegRow :=
  [
⟨"NET_PORT_CFG", 0x100A0000, 0x4, 6, .manager, netRateRow,
      [⟨"rate", 0, 3, .rwl, (fun _ => 3), .main, anyOk⟩,
       ⟨"owner", 3, 4, .rwl, (fun _ => 0), .main, anyOk⟩,
       ⟨"enable", 7, 1, .rwl, (fun _ => 0), .main, anyOk⟩]⟩,
    ⟨"NET_LOCK", 0x100A00FC, 0x0, 1, .manager, anyRow,
      [⟨"lock", 31, 1, .w1s, (fun _ => 0), .main, anyOk⟩]⟩,
    ⟨"NET_TX_BASE_LO", 0x100A0100, 0x40, 6, .netOwner, anyRow,
      [⟨"lo", 6, 26, .rw, (fun _ => 0), .main, anyOk⟩]⟩,
    ⟨"NET_TX_BASE_HI", 0x100A0104, 0x40, 6, .netOwner, anyRow,
      [⟨"hi", 0, 32, .rw, (fun _ => 0), .main, anyOk⟩]⟩,
    ⟨"NET_RX_BASE_LO", 0x100A0108, 0x40, 6, .netOwner, anyRow,
      [⟨"lo", 6, 26, .rw, (fun _ => 0), .main, anyOk⟩]⟩,
    ⟨"NET_RX_BASE_HI", 0x100A010C, 0x40, 6, .netOwner, anyRow,
      [⟨"hi", 0, 32, .rw, (fun _ => 0), .main, anyOk⟩]⟩,
    ⟨"NET_RING_CFG", 0x100A0110, 0x40, 6, .netOwner, anyRow,
      [⟨"tx_log2", 0, 4, .rw, (fun _ => 4), .main, (fun v => decide (4 ≤ v ∧ v ≤ 12))⟩,
       ⟨"rx_log2", 4, 4, .rw, (fun _ => 4), .main, (fun v => decide (4 ≤ v ∧ v ≤ 12))⟩,
       ⟨"tx_en", 8, 1, .rw, (fun _ => 0), .main, anyOk⟩,
       ⟨"rx_en", 9, 1, .rw, (fun _ => 0), .main, anyOk⟩]⟩,
    ⟨"NET_TX_TAIL", 0x100A0114, 0x40, 6, .netOwner, anyRow,
      [⟨"tail", 0, 32, .rw, (fun _ => 0), .main, anyOk⟩]⟩,
    ⟨"NET_RX_TAIL", 0x100A0118, 0x40, 6, .netOwner, anyRow,
      [⟨"tail", 0, 32, .rw, (fun _ => 0), .main, anyOk⟩]⟩,
    ⟨"NET_RX_DROP", 0x100A011C, 0x40, 6, .netOwner, anyRow,
      [⟨"n", 0, 32, .ro, (fun _ => 0), .main, anyOk⟩]⟩,
    ⟨"NET_RX_ERR", 0x100A0120, 0x40, 6, .netOwner, anyRow,
      [⟨"n", 0, 32, .ro, (fun _ => 0), .main, anyOk⟩]⟩,
    ⟨"NET_STATE", 0x100A0124, 0x40, 6, .netOwner, anyRow,
      [⟨"link", 0, 1, .ro, (fun _ => 0), .main, anyOk⟩]⟩]

/-- The PCIE_ block (R602). -/
def rowsPCIE : List RegRow :=
  [
⟨"PCIE_CFG", 0x100B0000, 0x40, 2, .manager, anyRow,
      [⟨"role", 0, 1, .rwl, (fun _ => 0), .main, anyOk⟩,
       ⟨"bound", 1, 4, .rwl, (fun _ => 0), .main, anyOk⟩,
       ⟨"width", 5, 3, .rwl, (fun _ => 2), .main, (fun v => decide (v ≤ 2))⟩,
       ⟨"gen", 8, 3, .rwl, (fun _ => 4), .main, (fun v => decide (1 ≤ v ∧ v ≤ 4))⟩]⟩,
    ⟨"PCIE_STATE", 0x100B0004, 0x40, 2, .tsuquel, anyRow,
      [⟨"link_up", 0, 1, .ro, (fun _ => 0), .main, anyOk⟩,
       ⟨"width", 1, 3, .ro, (fun _ => 0), .main, anyOk⟩,
       ⟨"gen", 4, 3, .ro, (fun _ => 0), .main, anyOk⟩,
       ⟨"l1", 7, 1, .ro, (fun _ => 0), .main, anyOk⟩]⟩,
    ⟨"PCIE_OUT_BASE_LO", 0x100B0008, 0x40, 2, .manager, anyRow,
      [⟨"lo", 0, 32, .rwl, (fun _ => 0), .main, anyOk⟩]⟩,
    ⟨"PCIE_OUT_BASE_HI", 0x100B000C, 0x40, 2, .manager, anyRow,
      [⟨"hi", 0, 32, .rwl, (fun _ => 0), .main, anyOk⟩]⟩,
    ⟨"PCIE_BAR2_SIZE", 0x100B0010, 0x40, 2, .manager, anyRow,
      [⟨"log2", 0, 6, .rwl, (fun _ => 0x1e), .main, (fun v => decide (20 ≤ v ∧ v ≤ 38))⟩]⟩,
    ⟨"PCIE_ERR", 0x100B0014, 0x40, 2, .tsuquel, anyRow,
      [⟨"n", 0, 32, .ro, (fun _ => 0), .main, anyOk⟩]⟩,
    ⟨"PCIE_LOCK", 0x100B00FC, 0x0, 1, .manager, anyRow,
      [⟨"lock", 31, 1, .w1s, (fun _ => 0), .main, anyOk⟩]⟩]

/-- The rows of the 64 KiB slot that an address lies in; `none` where no block has the slot (R602, R605). -/
def slotRows (a : Nat) : Option (List RegRow) :=
  match a / 0x10000 with
  | 0x0 => some rowsBOOT
  | 0x1 => some rowsCLK
  | 0x2 => some rowsTIME
  | 0x3 => some rowsPWR
  | 0x4 => some rowsCMDP
  | 0x5 => some rowsRING
  | 0x6 => some rowsSAF
  | 0x7 => some rowsPAD
  | 0x8 => some rowsCAN
  | 0x9 => some rowsINST
  | 0x1000 => some rowsSYS
  | 0x1001 => some rowsMEM
  | 0x1002 => some rowsXLT
  | 0x1003 => some rowsPACE
  | 0x1004 => some rowsTILE
  | 0x1005 => some rowsATT
  | 0x1006 => some rowsSRCH
  | 0x1007 => some rowsGFX
  | 0x1008 => some rowsDISP
  | 0x1009 => some rowsSENS
  | 0x100A => some rowsNET
  | 0x100B => some rowsPCIE
  | _ => none

/-- The index of the register a row has at an address. -/
def rowIndex (r : RegRow) (a : Nat) : Option Nat :=
  if r.stride = 0 then (if a = r.base then some 0 else none)
  else if r.base ≤ a ∧ (a - r.base) % r.stride = 0 ∧ (a - r.base) / r.stride < r.count then
    some ((a - r.base) / r.stride)
  else none

/-- The first row of a list that has a register at the address, and its index there. -/
def findIn : List RegRow → Nat → Option (RegRow × Nat)
  | [], _ => none
  | r :: t, a =>
    match rowIndex r a with
    | some i => some (r, i)
    | none => findIn t a

/-- The register at an address. -/
def findReg (a : Nat) : Option (RegRow × Nat) :=
  match slotRows a with
  | some l => findIn l a
  | none => none

/-- The reset word of a register (R15): its fields' reset values, reserved bits zero. -/
def rowReset (r : RegRow) (i : Nat) : Nat :=
  r.fields.foldl (fun v f => putBits v f.lo f.width (f.reset i)) 0

/-- What the register file reads as at an address nothing has written (R15; an empty offset reads zero, R605). -/
def regReset (a : Nat) : Word :=
  match findReg a with
  | some (r, i) => BitVec.ofNat 32 (rowReset r i)
  | none => 0

/-- How far a reset reaches: a main-die reset 0, a Sage reset 1, power-on 2. -/
def domLevel : Dom → Nat
  | .main => 0
  | .sage => 1
  | .power => 2

/-- A register's word after a reset that reaches `lvl`: the fields it clears take their reset values. -/
def rowAfterReset (lvl : Nat) (r : RegRow) (i v : Nat) : Nat :=
  r.fields.foldl (fun v f => if domLevel f.dom ≤ lvl then putBits v f.lo f.width (f.reset i) else v) v

/-- One listed register after a reset. -/
def regAfterReset (lvl a : Nat) (w : Word) : Word :=
  match findReg a with
  | some (r, i) => BitVec.ofNat 32 (rowAfterReset lvl r i w.toNat)
  | none => 0

/-- BOOT_STATUS (03 R83). -/
abbrev BOOT_STATUS.addr : Nat := 0x0
@[inherit_doc BOOT_STATUS.addr] abbrev BOOT_STATUS.phase : FRef := ⟨0x0, 0, 2⟩
@[inherit_doc BOOT_STATUS.addr] abbrev BOOT_STATUS.slot : FRef := ⟨0x0, 2, 1⟩
@[inherit_doc BOOT_STATUS.addr] abbrev BOOT_STATUS.fault_boot : FRef := ⟨0x0, 3, 1⟩
@[inherit_doc BOOT_STATUS.addr] abbrev BOOT_STATUS.in_backoff : FRef := ⟨0x0, 4, 1⟩
@[inherit_doc BOOT_STATUS.addr] abbrev BOOT_STATUS.last_cause : FRef := ⟨0x0, 8, 8⟩
/-- BOOT_ATTEMPTS (03 R89). -/
abbrev BOOT_ATTEMPTS.addr : Nat := 0x4
@[inherit_doc BOOT_ATTEMPTS.addr] abbrev BOOT_ATTEMPTS.n : FRef := ⟨0x4, 0, 32⟩
/-- BOOT_CONSEC (03 R89). -/
abbrev BOOT_CONSEC.addr : Nat := 0x8
@[inherit_doc BOOT_CONSEC.addr] abbrev BOOT_CONSEC.n : FRef := ⟨0x8, 0, 32⟩
/-- BOOT_MAIN_ATTEMPTS (03 R89). -/
abbrev BOOT_MAIN_ATTEMPTS.addr : Nat := 0xC
@[inherit_doc BOOT_MAIN_ATTEMPTS.addr] abbrev BOOT_MAIN_ATTEMPTS.n : FRef := ⟨0xC, 0, 32⟩
/-- BOOT_MAIN_CONSEC (03 R89). -/
abbrev BOOT_MAIN_CONSEC.addr : Nat := 0x10
@[inherit_doc BOOT_MAIN_CONSEC.addr] abbrev BOOT_MAIN_CONSEC.n : FRef := ⟨0x10, 0, 32⟩
/-- BOOT_BACKOFF (03 R91). -/
abbrev BOOT_BACKOFF.addr : Nat := 0x14
@[inherit_doc BOOT_BACKOFF.addr] abbrev BOOT_BACKOFF.backoff_ms : FRef := ⟨0x14, 0, 12⟩
/-- BOOT_TEST_FAIL (03 R99). -/
abbrev BOOT_TEST_FAIL.addr : Nat := 0x18
@[inherit_doc BOOT_TEST_FAIL.addr] abbrev BOOT_TEST_FAIL.ck : FRef := ⟨0x18, 1, 13⟩
/-- BOOT_IMAGE (03 R87). -/
abbrev BOOT_IMAGE.addr : Nat := 0x1C
@[inherit_doc BOOT_IMAGE.addr] abbrev BOOT_IMAGE.image_version : FRef := ⟨0x1C, 0, 32⟩
/-- BOOT_STRAP (03 R85 (fuse: read from s.keys.bootOctal)). -/
abbrev BOOT_STRAP.addr : Nat := 0x20
@[inherit_doc BOOT_STRAP.addr] abbrev BOOT_STRAP.boot_octal : FRef := ⟨0x20, 0, 1⟩
/-- BOOT_ALIVE (03 R84). -/
abbrev BOOT_ALIVE.addr : Nat := 0x24
@[inherit_doc BOOT_ALIVE.addr] abbrev BOOT_ALIVE.alive : FRef := ⟨0x24, 0, 32⟩
/-- BOOT_CTRL (03 R79). -/
abbrev BOOT_CTRL.addr : Nat := 0x28
@[inherit_doc BOOT_CTRL.addr] abbrev BOOT_CTRL.sage_reset : FRef := ⟨0x28, 0, 1⟩
/-- CLK_STATE (02 R619). -/
abbrev CLK_STATE.addr : Nat := 0x10000
@[inherit_doc CLK_STATE.addr] abbrev CLK_STATE.state : FRef := ⟨0x10000, 0, 2⟩
@[inherit_doc CLK_STATE.addr] abbrev CLK_STATE.in_sweep : FRef := ⟨0x10000, 2, 1⟩
/-- CLK_WAKE_EN (02 R59). -/
abbrev CLK_WAKE_EN.addr : Nat := 0x10004
@[inherit_doc CLK_WAKE_EN.addr] abbrev CLK_WAKE_EN.en : FRef := ⟨0x10004, 0, 10⟩
/-- CLK_WAKE_STATUS (02 R59). -/
abbrev CLK_WAKE_STATUS.addr : Nat := 0x10008
@[inherit_doc CLK_WAKE_STATUS.addr] abbrev CLK_WAKE_STATUS.hit : FRef := ⟨0x10008, 0, 4⟩
@[inherit_doc CLK_WAKE_STATUS.addr] abbrev CLK_WAKE_STATUS.hit5 : FRef := ⟨0x10008, 5, 5⟩
/-- CLK_SWEEP_PERIOD (02 R62). -/
abbrev CLK_SWEEP_PERIOD.addr : Nat := 0x1000C
@[inherit_doc CLK_SWEEP_PERIOD.addr] abbrev CLK_SWEEP_PERIOD.period_s : FRef := ⟨0x1000C, 0, 12⟩
/-- CLK_SWEEP_STATUS (02 R63). -/
abbrev CLK_SWEEP_STATUS.addr : Nat := 0x10010
@[inherit_doc CLK_SWEEP_STATUS.addr] abbrev CLK_SWEEP_STATUS.overrun_count : FRef := ⟨0x10010, 0, 16⟩
@[inherit_doc CLK_SWEEP_STATUS.addr] abbrev CLK_SWEEP_STATUS.sweep_count : FRef := ⟨0x10010, 16, 16⟩
/-- CLK_DOZE_HOLD (02 R58). -/
abbrev CLK_DOZE_HOLD.addr : Nat := 0x10014
@[inherit_doc CLK_DOZE_HOLD.addr] abbrev CLK_DOZE_HOLD.doze_hold : FRef := ⟨0x10014, 0, 31⟩
@[inherit_doc CLK_DOZE_HOLD.addr] abbrev CLK_DOZE_HOLD.doze_en : FRef := ⟨0x10014, 31, 1⟩
/-- CLK_PLL_STATUS (02 (CLK_PLL_STATUS)). -/
abbrev CLK_PLL_STATUS.addr : Nat := 0x10018
@[inherit_doc CLK_PLL_STATUS.addr] abbrev CLK_PLL_STATUS.lock : FRef := ⟨0x10018, 0, 13⟩
/-- CLK_LIMIT (02 R51). -/
abbrev CLK_LIMIT.addr : Nat := 0x1001C
@[inherit_doc CLK_LIMIT.addr] abbrev CLK_LIMIT.sprint_permit : FRef := ⟨0x1001C, 0, 1⟩
@[inherit_doc CLK_LIMIT.addr] abbrev CLK_LIMIT.lock : FRef := ⟨0x1001C, 31, 1⟩
/-- CLK_DOM_STATUS (02 R54 (SLOW/TIME step code 0)). -/
abbrev CLK_DOM_STATUS.addr (i : Nat) : Nat := 0x10100 + 0x4 * i
@[inherit_doc CLK_DOM_STATUS.addr] abbrev CLK_DOM_STATUS.cur_step (i : Nat) : FRef := ⟨0x10100 + 0x4 * i, 0, 4⟩
@[inherit_doc CLK_DOM_STATUS.addr] abbrev CLK_DOM_STATUS.target_step (i : Nat) : FRef := ⟨0x10100 + 0x4 * i, 4, 4⟩
@[inherit_doc CLK_DOM_STATUS.addr] abbrev CLK_DOM_STATUS.running (i : Nat) : FRef := ⟨0x10100 + 0x4 * i, 8, 1⟩
@[inherit_doc CLK_DOM_STATUS.addr] abbrev CLK_DOM_STATUS.fixed_broken (i : Nat) : FRef := ⟨0x10100 + 0x4 * i, 9, 1⟩
@[inherit_doc CLK_DOM_STATUS.addr] abbrev CLK_DOM_STATUS.change_count (i : Nat) : FRef := ⟨0x10100 + 0x4 * i, 16, 16⟩
/-- CLK_DOM_CTRL (02 R52 R56). -/
abbrev CLK_DOM_CTRL.addr (i : Nat) : Nat := 0x10140 + 0x4 * i
@[inherit_doc CLK_DOM_CTRL.addr] abbrev CLK_DOM_CTRL.fixed_step (i : Nat) : FRef := ⟨0x10140 + 0x4 * i, 0, 4⟩
@[inherit_doc CLK_DOM_CTRL.addr] abbrev CLK_DOM_CTRL.fixed_en (i : Nat) : FRef := ⟨0x10140 + 0x4 * i, 4, 1⟩
@[inherit_doc CLK_DOM_CTRL.addr] abbrev CLK_DOM_CTRL.idle_hold (i : Nat) : FRef := ⟨0x10140 + 0x4 * i, 8, 24⟩
/-- TIME_NOW_LO (02 R72 (view of TIME)). -/
abbrev TIME_NOW_LO.addr : Nat := 0x20000
@[inherit_doc TIME_NOW_LO.addr] abbrev TIME_NOW_LO.lo : FRef := ⟨0x20000, 0, 32⟩
/-- TIME_NOW_HI (02 R72 (per-master latch)). -/
abbrev TIME_NOW_HI.addr : Nat := 0x20004
@[inherit_doc TIME_NOW_HI.addr] abbrev TIME_NOW_HI.hi : FRef := ⟨0x20004, 0, 32⟩
/-- TIME_CTRL (02 R78). -/
abbrev TIME_CTRL.addr : Nat := 0x20008
@[inherit_doc TIME_CTRL.addr] abbrev TIME_CTRL.rate_src : FRef := ⟨0x20008, 0, 2⟩
/-- TIME_RATE_ADJ (02 R76). -/
abbrev TIME_RATE_ADJ.addr : Nat := 0x2000C
@[inherit_doc TIME_RATE_ADJ.addr] abbrev TIME_RATE_ADJ.adj : FRef := ⟨0x2000C, 0, 32⟩
/-- TIME_STATUS (02 R69 R74 R76). -/
abbrev TIME_STATUS.addr : Nat := 0x20010
@[inherit_doc TIME_STATUS.addr] abbrev TIME_STATUS.adj_clamped : FRef := ⟨0x20010, 0, 1⟩
@[inherit_doc TIME_STATUS.addr] abbrev TIME_STATUS.reloaded : FRef := ⟨0x20010, 1, 1⟩
@[inherit_doc TIME_STATUS.addr] abbrev TIME_STATUS.dist_error : FRef := ⟨0x20010, 2, 1⟩
/-- TIME_STOP_LO (02 R73). -/
abbrev TIME_STOP_LO.addr : Nat := 0x20018
@[inherit_doc TIME_STOP_LO.addr] abbrev TIME_STOP_LO.lo : FRef := ⟨0x20018, 0, 32⟩
/-- TIME_STOP_HI (02 R73). -/
abbrev TIME_STOP_HI.addr : Nat := 0x2001C
@[inherit_doc TIME_STOP_HI.addr] abbrev TIME_STOP_HI.hi : FRef := ⟨0x2001C, 0, 32⟩
/-- TIME_STOP_SLOW_LO (02 R73). -/
abbrev TIME_STOP_SLOW_LO.addr : Nat := 0x20020
@[inherit_doc TIME_STOP_SLOW_LO.addr] abbrev TIME_STOP_SLOW_LO.lo : FRef := ⟨0x20020, 0, 32⟩
/-- TIME_STOP_SLOW_HI (02 R73). -/
abbrev TIME_STOP_SLOW_HI.addr : Nat := 0x20024
@[inherit_doc TIME_STOP_SLOW_HI.addr] abbrev TIME_STOP_SLOW_HI.hi : FRef := ⟨0x20024, 0, 16⟩
/-- TIME_SLOW_LO (02 R75). -/
abbrev TIME_SLOW_LO.addr : Nat := 0x20028
@[inherit_doc TIME_SLOW_LO.addr] abbrev TIME_SLOW_LO.lo : FRef := ⟨0x20028, 0, 32⟩
/-- TIME_SLOW_HI (02 R75). -/
abbrev TIME_SLOW_HI.addr : Nat := 0x2002C
@[inherit_doc TIME_SLOW_HI.addr] abbrev TIME_SLOW_HI.hi : FRef := ⟨0x2002C, 0, 16⟩
/-- TIME_FRAC (02 R74). -/
abbrev TIME_FRAC.addr : Nat := 0x20030
@[inherit_doc TIME_FRAC.addr] abbrev TIME_FRAC.acc : FRef := ⟨0x20030, 0, 7⟩
/-- PWR_CAP_CFG (16 R490). -/
abbrev PWR_CAP_CFG.addr : Nat := 0x30000
@[inherit_doc PWR_CAP_CFG.addr] abbrev PWR_CAP_CFG.cap : FRef := ⟨0x30000, 0, 17⟩
/-- PWR_CAP_EFF (16 R490). -/
abbrev PWR_CAP_EFF.addr : Nat := 0x30004
@[inherit_doc PWR_CAP_EFF.addr] abbrev PWR_CAP_EFF.cap : FRef := ⟨0x30004, 0, 17⟩
/-- PWR_PKG (16 R489 R493). -/
abbrev PWR_PKG.addr : Nat := 0x30008
@[inherit_doc PWR_PKG.addr] abbrev PWR_PKG.p_avg : FRef := ⟨0x30008, 0, 17⟩
@[inherit_doc PWR_PKG.addr] abbrev PWR_PKG.cap_unmet : FRef := ⟨0x30008, 31, 1⟩
/-- PWR_AB_ALLOW (16 R489). -/
abbrev PWR_AB_ALLOW.addr : Nat := 0x3000C
@[inherit_doc PWR_AB_ALLOW.addr] abbrev PWR_AB_ALLOW.mw : FRef := ⟨0x3000C, 0, 16⟩
/-- PWR_THERM_CFG (16 R497 R492). -/
abbrev PWR_THERM_CFG.addr : Nat := 0x30010
@[inherit_doc PWR_THERM_CFG.addr] abbrev PWR_THERM_CFG.warn : FRef := ⟨0x30010, 0, 8⟩
@[inherit_doc PWR_THERM_CFG.addr] abbrev PWR_THERM_CFG.sprint_max : FRef := ⟨0x30010, 8, 8⟩
/-- PWR_THERM_STATUS (16 R497). -/
abbrev PWR_THERM_STATUS.addr : Nat := 0x30014
@[inherit_doc PWR_THERM_STATUS.addr] abbrev PWR_THERM_STATUS.hottest : FRef := ⟨0x30014, 0, 8⟩
@[inherit_doc PWR_THERM_STATUS.addr] abbrev PWR_THERM_STATUS.index : FRef := ⟨0x30014, 8, 4⟩
@[inherit_doc PWR_THERM_STATUS.addr] abbrev PWR_THERM_STATUS.warn : FRef := ⟨0x30014, 12, 1⟩
@[inherit_doc PWR_THERM_STATUS.addr] abbrev PWR_THERM_STATUS.hot : FRef := ⟨0x30014, 13, 1⟩
@[inherit_doc PWR_THERM_STATUS.addr] abbrev PWR_THERM_STATUS.critical : FRef := ⟨0x30014, 14, 1⟩
/-- PWR_TEMP (16 R496). -/
abbrev PWR_TEMP.addr (i : Nat) : Nat := 0x30020 + 0x4 * i
@[inherit_doc PWR_TEMP.addr] abbrev PWR_TEMP.temp (i : Nat) : FRef := ⟨0x30020 + 0x4 * i, 0, 8⟩
@[inherit_doc PWR_TEMP.addr] abbrev PWR_TEMP.max (i : Nat) : FRef := ⟨0x30020 + 0x4 * i, 8, 8⟩
/-- PWR_RAIL (16 R488). -/
abbrev PWR_RAIL.addr (i : Nat) : Nat := 0x30060 + 0x4 * i
@[inherit_doc PWR_RAIL.addr] abbrev PWR_RAIL.cur (i : Nat) : FRef := ⟨0x30060 + 0x4 * i, 0, 16⟩
@[inherit_doc PWR_RAIL.addr] abbrev PWR_RAIL.mv (i : Nat) : FRef := ⟨0x30060 + 0x4 * i, 16, 16⟩
/-- PWR_STATUS (16 R488). -/
abbrev PWR_STATUS.addr : Nat := 0x30074
@[inherit_doc PWR_STATUS.addr] abbrev PWR_STATUS.fault : FRef := ⟨0x30074, 0, 5⟩
@[inherit_doc PWR_STATUS.addr] abbrev PWR_STATUS.telem_err : FRef := ⟨0x30074, 5, 5⟩
/-- PWR_OVR_THERM (16 R500 R501). -/
abbrev PWR_OVR_THERM.addr : Nat := 0x30080
@[inherit_doc PWR_OVR_THERM.addr] abbrev PWR_OVR_THERM.n : FRef := ⟨0x30080, 0, 32⟩
/-- PWR_OVR_DROOP (16 R500 R501). -/
abbrev PWR_OVR_DROOP.addr : Nat := 0x30084
@[inherit_doc PWR_OVR_DROOP.addr] abbrev PWR_OVR_DROOP.n : FRef := ⟨0x30084, 0, 32⟩
/-- PWR_OVR_CAP (16 R500 R501). -/
abbrev PWR_OVR_CAP.addr : Nat := 0x30088
@[inherit_doc PWR_OVR_CAP.addr] abbrev PWR_OVR_CAP.n : FRef := ⟨0x30088, 0, 32⟩
/-- PWR_OVR_MULTI (16 R500 R501). -/
abbrev PWR_OVR_MULTI.addr : Nat := 0x3008C
@[inherit_doc PWR_OVR_MULTI.addr] abbrev PWR_OVR_MULTI.n : FRef := ⟨0x3008C, 0, 32⟩
/-- PWR_MULTI_CFG (16 R506 R507). -/
abbrev PWR_MULTI_CFG.addr : Nat := 0x300A0
@[inherit_doc PWR_MULTI_CFG.addr] abbrev PWR_MULTI_CFG.mode : FRef := ⟨0x300A0, 0, 2⟩
@[inherit_doc PWR_MULTI_CFG.addr] abbrev PWR_MULTI_CFG.count : FRef := ⟨0x300A0, 2, 3⟩
@[inherit_doc PWR_MULTI_CFG.addr] abbrev PWR_MULTI_CFG.shift_w : FRef := ⟨0x300A0, 8, 8⟩
@[inherit_doc PWR_MULTI_CFG.addr] abbrev PWR_MULTI_CFG.lag_margin : FRef := ⟨0x300A0, 16, 8⟩
/-- PWR_MULTI_NODES (05 R184). -/
abbrev PWR_MULTI_NODES.addr : Nat := 0x300A4
@[inherit_doc PWR_MULTI_NODES.addr] abbrev PWR_MULTI_NODES.nodes : FRef := ⟨0x300A4, 0, 32⟩
/-- PWR_MULTI_STATUS (16 R506). -/
abbrev PWR_MULTI_STATUS.addr : Nat := 0x300A8
@[inherit_doc PWR_MULTI_STATUS.addr] abbrev PWR_MULTI_STATUS.joined : FRef := ⟨0x300A8, 0, 1⟩
@[inherit_doc PWR_MULTI_STATUS.addr] abbrev PWR_MULTI_STATUS.claim : FRef := ⟨0x300A8, 1, 1⟩
@[inherit_doc PWR_MULTI_STATUS.addr] abbrev PWR_MULTI_STATUS.donating : FRef := ⟨0x300A8, 2, 1⟩
@[inherit_doc PWR_MULTI_STATUS.addr] abbrev PWR_MULTI_STATUS.raised : FRef := ⟨0x300A8, 3, 1⟩
@[inherit_doc PWR_MULTI_STATUS.addr] abbrev PWR_MULTI_STATUS.group : FRef := ⟨0x300A8, 4, 4⟩
@[inherit_doc PWR_MULTI_STATUS.addr] abbrev PWR_MULTI_STATUS.missed : FRef := ⟨0x300A8, 8, 8⟩
/-- PWR_LAG (16 R503). -/
abbrev PWR_LAG.addr : Nat := 0x300AC
@[inherit_doc PWR_LAG.addr] abbrev PWR_LAG.lag : FRef := ⟨0x300AC, 0, 32⟩
/-- PWR_LOCK (21 R611). -/
abbrev PWR_LOCK.addr : Nat := 0x300FC
@[inherit_doc PWR_LOCK.addr] abbrev PWR_LOCK.lock : FRef := ⟨0x300FC, 31, 1⟩
/-- PWR_RAIL_STATUS (01 R39). -/
abbrev PWR_RAIL_STATUS.addr : Nat := 0x30100
@[inherit_doc PWR_RAIL_STATUS.addr] abbrev PWR_RAIL_STATUS.good : FRef := ⟨0x30100, 0, 9⟩
@[inherit_doc PWR_RAIL_STATUS.addr] abbrev PWR_RAIL_STATUS.trip : FRef := ⟨0x30100, 17, 8⟩
@[inherit_doc PWR_RAIL_STATUS.addr] abbrev PWR_RAIL_STATUS.trip_count : FRef := ⟨0x30100, 25, 7⟩
/-- PWR_COEF (16 R509). -/
abbrev PWR_COEF.addr (i : Nat) : Nat := 0x30180 + 0x4 * i
@[inherit_doc PWR_COEF.addr] abbrev PWR_COEF.fj (i : Nat) : FRef := ⟨0x30180 + 0x4 * i, 0, 32⟩
/-- CMDP_STATUS (04 (CMDP_STATUS)). -/
abbrev CMDP_STATUS.addr : Nat := 0x40000
@[inherit_doc CMDP_STATUS.addr] abbrev CMDP_STATUS.accepting : FRef := ⟨0x40000, 0, 1⟩
/-- CMDP_VLOG_WR (04 R139). -/
abbrev CMDP_VLOG_WR.addr : Nat := 0x40010
@[inherit_doc CMDP_VLOG_WR.addr] abbrev CMDP_VLOG_WR.wr : FRef := ⟨0x40010, 0, 32⟩
/-- CMDP_VLOG_RD (04 R140). -/
abbrev CMDP_VLOG_RD.addr : Nat := 0x40014
@[inherit_doc CMDP_VLOG_RD.addr] abbrev CMDP_VLOG_RD.rd : FRef := ⟨0x40014, 0, 32⟩
/-- CMDP_VLOG_LOST (04 R139). -/
abbrev CMDP_VLOG_LOST.addr : Nat := 0x40018
@[inherit_doc CMDP_VLOG_LOST.addr] abbrev CMDP_VLOG_LOST.lost : FRef := ⟨0x40018, 0, 32⟩
/-- CMDP_IRQ_STATUS (04 R136). -/
abbrev CMDP_IRQ_STATUS.addr (i : Nat) : Nat := 0x40020 + 0x4 * i
@[inherit_doc CMDP_IRQ_STATUS.addr] abbrev CMDP_IRQ_STATUS.irq (i : Nat) : FRef := ⟨0x40020 + 0x4 * i, 0, 32⟩
/-- CMDP_IRQ_EN (04 R136). -/
abbrev CMDP_IRQ_EN.addr (i : Nat) : Nat := 0x40028 + 0x4 * i
@[inherit_doc CMDP_IRQ_EN.addr] abbrev CMDP_IRQ_EN.en (i : Nat) : FRef := ⟨0x40028 + 0x4 * i, 0, 32⟩
/-- CMDP_VLOG (04 R137 (64 entries of 8 words)). -/
abbrev CMDP_VLOG.addr (i : Nat) : Nat := 0x40800 + 0x4 * i
@[inherit_doc CMDP_VLOG.addr] abbrev CMDP_VLOG.word (i : Nat) : FRef := ⟨0x40800 + 0x4 * i, 0, 32⟩
/-- CMDP_QBASE_LO (04 R116). -/
abbrev CMDP_QBASE_LO.addr (i : Nat) : Nat := 0x41000 + 0x40 * i
@[inherit_doc CMDP_QBASE_LO.addr] abbrev CMDP_QBASE_LO.lo (i : Nat) : FRef := ⟨0x41000 + 0x40 * i, 0, 32⟩
/-- CMDP_QBASE_HI (04 R116). -/
abbrev CMDP_QBASE_HI.addr (i : Nat) : Nat := 0x41004 + 0x40 * i
@[inherit_doc CMDP_QBASE_HI.addr] abbrev CMDP_QBASE_HI.hi (i : Nat) : FRef := ⟨0x41004 + 0x40 * i, 0, 32⟩
/-- CMDP_QCFG (04 R116 R117). -/
abbrev CMDP_QCFG.addr (i : Nat) : Nat := 0x41008 + 0x40 * i
@[inherit_doc CMDP_QCFG.addr] abbrev CMDP_QCFG.log2_entries (i : Nat) : FRef := ⟨0x41008 + 0x40 * i, 0, 4⟩
@[inherit_doc CMDP_QCFG.addr] abbrev CMDP_QCFG.slot_code (i : Nat) : FRef := ⟨0x41008 + 0x40 * i, 4, 4⟩
@[inherit_doc CMDP_QCFG.addr] abbrev CMDP_QCFG.enable (i : Nat) : FRef := ⟨0x41008 + 0x40 * i, 8, 1⟩
/-- CMDP_QSTAT_LO (04 R116). -/
abbrev CMDP_QSTAT_LO.addr (i : Nat) : Nat := 0x4100C + 0x40 * i
@[inherit_doc CMDP_QSTAT_LO.addr] abbrev CMDP_QSTAT_LO.lo (i : Nat) : FRef := ⟨0x4100C + 0x40 * i, 0, 32⟩
/-- CMDP_QSTAT_HI (04 R116). -/
abbrev CMDP_QSTAT_HI.addr (i : Nat) : Nat := 0x41010 + 0x40 * i
@[inherit_doc CMDP_QSTAT_HI.addr] abbrev CMDP_QSTAT_HI.hi (i : Nat) : FRef := ⟨0x41010 + 0x40 * i, 0, 32⟩
/-- CMDP_DB (04 R121). -/
abbrev CMDP_DB.addr (i : Nat) : Nat := 0x41014 + 0x40 * i
@[inherit_doc CMDP_DB.addr] abbrev CMDP_DB.tail (i : Nat) : FRef := ⟨0x41014 + 0x40 * i, 0, 32⟩
/-- CMDP_QSTATE (04 (drained and in_flight are views)). -/
abbrev CMDP_QSTATE.addr (i : Nat) : Nat := 0x41018 + 0x40 * i
@[inherit_doc CMDP_QSTATE.addr] abbrev CMDP_QSTATE.error (i : Nat) : FRef := ⟨0x41018 + 0x40 * i, 0, 1⟩
@[inherit_doc CMDP_QSTATE.addr] abbrev CMDP_QSTATE.reason (i : Nat) : FRef := ⟨0x41018 + 0x40 * i, 8, 8⟩
/-- RING_CTRL (06 R198). -/
abbrev RING_CTRL.addr : Nat := 0x50000
@[inherit_doc RING_CTRL.addr] abbrev RING_CTRL.node : FRef := ⟨0x50000, 0, 4⟩
@[inherit_doc RING_CTRL.addr] abbrev RING_CTRL.port_a_en : FRef := ⟨0x50000, 4, 1⟩
@[inherit_doc RING_CTRL.addr] abbrev RING_CTRL.port_b_en : FRef := ⟨0x50000, 5, 1⟩
@[inherit_doc RING_CTRL.addr] abbrev RING_CTRL.ts_en : FRef := ⟨0x50000, 6, 1⟩
/-- RING_STATUS (06 R205 R207 R233 R210). -/
abbrev RING_STATUS.addr : Nat := 0x50004
@[inherit_doc RING_STATUS.addr] abbrev RING_STATUS.a_state : FRef := ⟨0x50004, 0, 3⟩
@[inherit_doc RING_STATUS.addr] abbrev RING_STATUS.b_state : FRef := ⟨0x50004, 3, 3⟩
@[inherit_doc RING_STATUS.addr] abbrev RING_STATUS.wrap_a : FRef := ⟨0x50004, 6, 1⟩
@[inherit_doc RING_STATUS.addr] abbrev RING_STATUS.wrap_b : FRef := ⟨0x50004, 7, 1⟩
@[inherit_doc RING_STATUS.addr] abbrev RING_STATUS.bypass_closed : FRef := ⟨0x50004, 8, 1⟩
@[inherit_doc RING_STATUS.addr] abbrev RING_STATUS.miswire_a : FRef := ⟨0x50004, 9, 1⟩
@[inherit_doc RING_STATUS.addr] abbrev RING_STATUS.miswire_b : FRef := ⟨0x50004, 10, 1⟩
/-- RING_NEIGH (06 (RING_NEIGH)). -/
abbrev RING_NEIGH.addr : Nat := 0x50008
@[inherit_doc RING_NEIGH.addr] abbrev RING_NEIGH.a : FRef := ⟨0x50008, 0, 4⟩
@[inherit_doc RING_NEIGH.addr] abbrev RING_NEIGH.a_valid : FRef := ⟨0x50008, 7, 1⟩
@[inherit_doc RING_NEIGH.addr] abbrev RING_NEIGH.b : FRef := ⟨0x50008, 8, 4⟩
@[inherit_doc RING_NEIGH.addr] abbrev RING_NEIGH.b_valid : FRef := ⟨0x50008, 15, 1⟩
/-- RING_MEMBERS (06 R241). -/
abbrev RING_MEMBERS.addr : Nat := 0x5000C
@[inherit_doc RING_MEMBERS.addr] abbrev RING_MEMBERS.members : FRef := ⟨0x5000C, 0, 16⟩
@[inherit_doc RING_MEMBERS.addr] abbrev RING_MEMBERS.dup : FRef := ⟨0x5000C, 16, 16⟩
/-- RING_SWEEP_ID (06 R231). -/
abbrev RING_SWEEP_ID.addr : Nat := 0x50010
@[inherit_doc RING_SWEEP_ID.addr] abbrev RING_SWEEP_ID.id : FRef := ⟨0x50010, 0, 32⟩
/-- RING_LEG_TO (06 R235). -/
abbrev RING_LEG_TO.addr : Nat := 0x50014
@[inherit_doc RING_LEG_TO.addr] abbrev RING_LEG_TO.ticks : FRef := ⟨0x50014, 0, 32⟩
/-- RING_BATON_TO (06 R221). -/
abbrev RING_BATON_TO.addr : Nat := 0x50018
@[inherit_doc RING_BATON_TO.addr] abbrev RING_BATON_TO.ticks : FRef := ⟨0x50018, 0, 32⟩
/-- RING_TS_PERIOD (06 R225). -/
abbrev RING_TS_PERIOD.addr : Nat := 0x5001C
@[inherit_doc RING_TS_PERIOD.addr] abbrev RING_TS_PERIOD.ticks : FRef := ⟨0x5001C, 0, 32⟩
/-- RING_ERR (06 R215 (A, B)). -/
abbrev RING_ERR.addr (i : Nat) : Nat := 0x50020 + 0x4 * i
@[inherit_doc RING_ERR.addr] abbrev RING_ERR.crc (i : Nat) : FRef := ⟨0x50020 + 0x4 * i, 0, 16⟩
@[inherit_doc RING_ERR.addr] abbrev RING_ERR.code (i : Nat) : FRef := ⟨0x50020 + 0x4 * i, 16, 16⟩
/-- RING_DROP (06 R216 R222). -/
abbrev RING_DROP.addr : Nat := 0x50028
@[inherit_doc RING_DROP.addr] abbrev RING_DROP.hops : FRef := ⟨0x50028, 0, 16⟩
@[inherit_doc RING_DROP.addr] abbrev RING_DROP.nobuf : FRef := ⟨0x50028, 16, 16⟩
/-- RING_TS_OFFSET_LO (06 R228). -/
abbrev RING_TS_OFFSET_LO.addr : Nat := 0x50030
@[inherit_doc RING_TS_OFFSET_LO.addr] abbrev RING_TS_OFFSET_LO.lo : FRef := ⟨0x50030, 0, 32⟩
/-- RING_TS_OFFSET_HI (06 R228). -/
abbrev RING_TS_OFFSET_HI.addr : Nat := 0x50034
@[inherit_doc RING_TS_OFFSET_HI.addr] abbrev RING_TS_OFFSET_HI.hi : FRef := ⟨0x50034, 0, 32⟩
/-- RING_PBUF_WR (06 R242). -/
abbrev RING_PBUF_WR.addr : Nat := 0x50040
@[inherit_doc RING_PBUF_WR.addr] abbrev RING_PBUF_WR.wr : FRef := ⟨0x50040, 0, 32⟩
/-- RING_PBUF_RD (06 R242). -/
abbrev RING_PBUF_RD.addr : Nat := 0x50044
@[inherit_doc RING_PBUF_RD.addr] abbrev RING_PBUF_RD.rd : FRef := ⟨0x50044, 0, 32⟩
/-- RING_PBUF_LOST (06 R242). -/
abbrev RING_PBUF_LOST.addr : Nat := 0x50048
@[inherit_doc RING_PBUF_LOST.addr] abbrev RING_PBUF_LOST.lost : FRef := ⟨0x50048, 0, 32⟩
/-- SAF_STATUS (17 R524 R534). -/
abbrev SAF_STATUS.addr : Nat := 0x60000
@[inherit_doc SAF_STATUS.addr] abbrev SAF_STATUS.safe : FRef := ⟨0x60000, 0, 1⟩
@[inherit_doc SAF_STATUS.addr] abbrev SAF_STATUS.cp_restarting : FRef := ⟨0x60000, 1, 1⟩
@[inherit_doc SAF_STATUS.addr] abbrev SAF_STATUS.tri_resync : FRef := ⟨0x60000, 2, 1⟩
@[inherit_doc SAF_STATUS.addr] abbrev SAF_STATUS.tri_restarting : FRef := ⟨0x60000, 3, 1⟩
@[inherit_doc SAF_STATUS.addr] abbrev SAF_STATUS.last_cause : FRef := ⟨0x60000, 8, 8⟩
/-- SAF_FAULT (17 R529). -/
abbrev SAF_FAULT.addr : Nat := 0x60004
@[inherit_doc SAF_FAULT.addr] abbrev SAF_FAULT.causes : FRef := ⟨0x60004, 0, 8⟩
@[inherit_doc SAF_FAULT.addr] abbrev SAF_FAULT.fault_n : FRef := ⟨0x60004, 8, 1⟩
/-- SAF_SAFE_COUNT (17 R534). -/
abbrev SAF_SAFE_COUNT.addr : Nat := 0x60008
@[inherit_doc SAF_SAFE_COUNT.addr] abbrev SAF_SAFE_COUNT.n : FRef := ⟨0x60008, 0, 32⟩
/-- SAF_LAST_ENTRY_LO (17 R534). -/
abbrev SAF_LAST_ENTRY_LO.addr : Nat := 0x6000C
@[inherit_doc SAF_LAST_ENTRY_LO.addr] abbrev SAF_LAST_ENTRY_LO.lo : FRef := ⟨0x6000C, 0, 32⟩
/-- SAF_LAST_ENTRY_HI (17 R534). -/
abbrev SAF_LAST_ENTRY_HI.addr : Nat := 0x60010
@[inherit_doc SAF_LAST_ENTRY_HI.addr] abbrev SAF_LAST_ENTRY_HI.hi : FRef := ⟨0x60010, 0, 32⟩
/-- SAF_LAST_LEN (17 R534). -/
abbrev SAF_LAST_LEN.addr : Nat := 0x60014
@[inherit_doc SAF_LAST_LEN.addr] abbrev SAF_LAST_LEN.ticks : FRef := ⟨0x60014, 0, 32⟩
/-- SAF_LS_MISMATCH (17 R512). -/
abbrev SAF_LS_MISMATCH.addr : Nat := 0x60018
@[inherit_doc SAF_LS_MISMATCH.addr] abbrev SAF_LS_MISMATCH.n : FRef := ⟨0x60018, 0, 32⟩
/-- SAF_TRI (17 R516 R519). -/
abbrev SAF_TRI.addr : Nat := 0x6001C
@[inherit_doc SAF_TRI.addr] abbrev SAF_TRI.resyncs : FRef := ⟨0x6001C, 0, 16⟩
@[inherit_doc SAF_TRI.addr] abbrev SAF_TRI.odd : FRef := ⟨0x6001C, 16, 2⟩
@[inherit_doc SAF_TRI.addr] abbrev SAF_TRI.retired : FRef := ⟨0x6001C, 18, 2⟩
@[inherit_doc SAF_TRI.addr] abbrev SAF_TRI.degraded : FRef := ⟨0x6001C, 20, 1⟩
/-- SAF_TRI_FAIL (17 R515 R517). -/
abbrev SAF_TRI_FAIL.addr : Nat := 0x60020
@[inherit_doc SAF_TRI_FAIL.addr] abbrev SAF_TRI_FAIL.n : FRef := ⟨0x60020, 0, 32⟩
/-- SAF_CP_RESTARTS (17 R513). -/
abbrev SAF_CP_RESTARTS.addr : Nat := 0x60024
@[inherit_doc SAF_CP_RESTARTS.addr] abbrev SAF_CP_RESTARTS.n : FRef := ⟨0x60024, 0, 32⟩
/-- SAF_HEARTBEAT (17 R514). -/
abbrev SAF_HEARTBEAT.addr : Nat := 0x60028
@[inherit_doc SAF_HEARTBEAT.addr] abbrev SAF_HEARTBEAT.n : FRef := ⟨0x60028, 0, 32⟩
/-- SAF_TEST_RESULT (17 R523). -/
abbrev SAF_TEST_RESULT.addr : Nat := 0x6002C
@[inherit_doc SAF_TEST_RESULT.addr] abbrev SAF_TEST_RESULT.failed : FRef := ⟨0x6002C, 1, 13⟩
/-- SAF_TEST_FULL_LO (17 R534). -/
abbrev SAF_TEST_FULL_LO.addr : Nat := 0x60030
@[inherit_doc SAF_TEST_FULL_LO.addr] abbrev SAF_TEST_FULL_LO.lo : FRef := ⟨0x60030, 0, 32⟩
/-- SAF_TEST_FULL_HI (17 R534). -/
abbrev SAF_TEST_FULL_HI.addr : Nat := 0x60034
@[inherit_doc SAF_TEST_FULL_HI.addr] abbrev SAF_TEST_FULL_HI.hi : FRef := ⟨0x60034, 0, 32⟩
/-- SAF_CLKMON (17 R528). -/
abbrev SAF_CLKMON.addr : Nat := 0x60038
@[inherit_doc SAF_CLKMON.addr] abbrev SAF_CLKMON.refclk_bad : FRef := ⟨0x60038, 0, 1⟩
@[inherit_doc SAF_CLKMON.addr] abbrev SAF_CLKMON.pll_unlock : FRef := ⟨0x60038, 1, 1⟩
/-- PAD_IN (19 R566). -/
abbrev PAD_IN.addr (i : Nat) : Nat := 0x70000 + 0x4 * i
@[inherit_doc PAD_IN.addr] abbrev PAD_IN.inp (i : Nat) : FRef := ⟨0x70000 + 0x4 * i, 0, 32⟩
/-- PAD_OUT (19 R565). -/
abbrev PAD_OUT.addr (i : Nat) : Nat := 0x70008 + 0x4 * i
@[inherit_doc PAD_OUT.addr] abbrev PAD_OUT.out (i : Nat) : FRef := ⟨0x70008 + 0x4 * i, 0, 32⟩
/-- PAD_OUT_SET (19 (view of PAD_OUT)). -/
abbrev PAD_OUT_SET.addr (i : Nat) : Nat := 0x70010 + 0x4 * i
@[inherit_doc PAD_OUT_SET.addr] abbrev PAD_OUT_SET.set (i : Nat) : FRef := ⟨0x70010 + 0x4 * i, 0, 32⟩
/-- PAD_OUT_CLR (19 (view of PAD_OUT)). -/
abbrev PAD_OUT_CLR.addr (i : Nat) : Nat := 0x70018 + 0x4 * i
@[inherit_doc PAD_OUT_CLR.addr] abbrev PAD_OUT_CLR.clr (i : Nat) : FRef := ⟨0x70018 + 0x4 * i, 0, 32⟩
/-- PAD_OE (19 R565). -/
abbrev PAD_OE.addr (i : Nat) : Nat := 0x70020 + 0x4 * i
@[inherit_doc PAD_OE.addr] abbrev PAD_OE.oe (i : Nat) : FRef := ⟨0x70020 + 0x4 * i, 0, 32⟩
/-- PAD_PARKING (19 R566). -/
abbrev PAD_PARKING.addr (i : Nat) : Nat := 0x70028 + 0x4 * i
@[inherit_doc PAD_PARKING.addr] abbrev PAD_PARKING.parking (i : Nat) : FRef := ⟨0x70028 + 0x4 * i, 0, 32⟩
/-- PAD_JTAG (19 R581). -/
abbrev PAD_JTAG.addr : Nat := 0x70030
@[inherit_doc PAD_JTAG.addr] abbrev PAD_JTAG.extest_en : FRef := ⟨0x70030, 0, 1⟩
/-- PAD_SWITCHES (19 (PAD_SWITCHES)). -/
abbrev PAD_SWITCHES.addr : Nat := 0x70034
@[inherit_doc PAD_SWITCHES.addr] abbrev PAD_SWITCHES.n : FRef := ⟨0x70034, 0, 32⟩
/-- PAD_LOCK (21 R611). -/
abbrev PAD_LOCK.addr : Nat := 0x700FC
@[inherit_doc PAD_LOCK.addr] abbrev PAD_LOCK.lock : FRef := ⟨0x700FC, 31, 1⟩
/-- PAD_CFG (19 R563 R568). -/
abbrev PAD_CFG.addr (i : Nat) : Nat := 0x70100 + 0x4 * i
@[inherit_doc PAD_CFG.addr] abbrev PAD_CFG.func (i : Nat) : FRef := ⟨0x70100 + 0x4 * i, 0, 3⟩
@[inherit_doc PAD_CFG.addr] abbrev PAD_CFG.park (i : Nat) : FRef := ⟨0x70100 + 0x4 * i, 3, 2⟩
@[inherit_doc PAD_CFG.addr] abbrev PAD_CFG.pull (i : Nat) : FRef := ⟨0x70100 + 0x4 * i, 5, 2⟩
@[inherit_doc PAD_CFG.addr] abbrev PAD_CFG.drive (i : Nat) : FRef := ⟨0x70100 + 0x4 * i, 7, 2⟩
@[inherit_doc PAD_CFG.addr] abbrev PAD_CFG.od (i : Nat) : FRef := ⟨0x70100 + 0x4 * i, 9, 1⟩
@[inherit_doc PAD_CFG.addr] abbrev PAD_CFG.owner (i : Nat) : FRef := ⟨0x70100 + 0x4 * i, 16, 4⟩
/-- PAD_EVT_START_LO (19 R576). -/
abbrev PAD_EVT_START_LO.addr (i : Nat) : Nat := 0x70200 + 0x20 * i
@[inherit_doc PAD_EVT_START_LO.addr] abbrev PAD_EVT_START_LO.lo (i : Nat) : FRef := ⟨0x70200 + 0x20 * i, 0, 32⟩
/-- PAD_EVT_START_HI (19 R576). -/
abbrev PAD_EVT_START_HI.addr (i : Nat) : Nat := 0x70204 + 0x20 * i
@[inherit_doc PAD_EVT_START_HI.addr] abbrev PAD_EVT_START_HI.hi (i : Nat) : FRef := ⟨0x70204 + 0x20 * i, 0, 32⟩
/-- PAD_EVT_PERIOD (19 R576). -/
abbrev PAD_EVT_PERIOD.addr (i : Nat) : Nat := 0x70208 + 0x20 * i
@[inherit_doc PAD_EVT_PERIOD.addr] abbrev PAD_EVT_PERIOD.p (i : Nat) : FRef := ⟨0x70208 + 0x20 * i, 0, 32⟩
/-- PAD_EVT_WIDTH (19 R576). -/
abbrev PAD_EVT_WIDTH.addr (i : Nat) : Nat := 0x7020C + 0x20 * i
@[inherit_doc PAD_EVT_WIDTH.addr] abbrev PAD_EVT_WIDTH.wd (i : Nat) : FRef := ⟨0x7020C + 0x20 * i, 0, 32⟩
/-- PAD_EVT_CTRL (19 R575). -/
abbrev PAD_EVT_CTRL.addr (i : Nat) : Nat := 0x70210 + 0x20 * i
@[inherit_doc PAD_EVT_CTRL.addr] abbrev PAD_EVT_CTRL.en (i : Nat) : FRef := ⟨0x70210 + 0x20 * i, 0, 1⟩
@[inherit_doc PAD_EVT_CTRL.addr] abbrev PAD_EVT_CTRL.active_low (i : Nat) : FRef := ⟨0x70210 + 0x20 * i, 1, 1⟩
/-- PAD_EVT_COUNT (19 R576). -/
abbrev PAD_EVT_COUNT.addr (i : Nat) : Nat := 0x70214 + 0x20 * i
@[inherit_doc PAD_EVT_COUNT.addr] abbrev PAD_EVT_COUNT.n (i : Nat) : FRef := ⟨0x70214 + 0x20 * i, 0, 32⟩
/-- CAN_STATE (14 R451 R453). -/
abbrev CAN_STATE.addr (i : Nat) : Nat := 0x80100 + 0x40 * i
@[inherit_doc CAN_STATE.addr] abbrev CAN_STATE.mode (i : Nat) : FRef := ⟨0x80100 + 0x40 * i, 0, 2⟩
@[inherit_doc CAN_STATE.addr] abbrev CAN_STATE.bus (i : Nat) : FRef := ⟨0x80100 + 0x40 * i, 2, 2⟩
@[inherit_doc CAN_STATE.addr] abbrev CAN_STATE.owner (i : Nat) : FRef := ⟨0x80100 + 0x40 * i, 4, 4⟩
@[inherit_doc CAN_STATE.addr] abbrev CAN_STATE.tec (i : Nat) : FRef := ⟨0x80100 + 0x40 * i, 8, 8⟩
@[inherit_doc CAN_STATE.addr] abbrev CAN_STATE.rec (i : Nat) : FRef := ⟨0x80100 + 0x40 * i, 16, 8⟩
/-- CAN_RX_WR (14 R450). -/
abbrev CAN_RX_WR.addr (i : Nat) : Nat := 0x80104 + 0x40 * i
@[inherit_doc CAN_RX_WR.addr] abbrev CAN_RX_WR.wr (i : Nat) : FRef := ⟨0x80104 + 0x40 * i, 0, 32⟩
/-- CAN_RX_RD (14 R450). -/
abbrev CAN_RX_RD.addr (i : Nat) : Nat := 0x80108 + 0x40 * i
@[inherit_doc CAN_RX_RD.addr] abbrev CAN_RX_RD.rd (i : Nat) : FRef := ⟨0x80108 + 0x40 * i, 0, 32⟩
/-- CAN_RX_DROP (14 R450 R453 R457). -/
abbrev CAN_RX_DROP.addr (i : Nat) : Nat := 0x8010C + 0x40 * i
@[inherit_doc CAN_RX_DROP.addr] abbrev CAN_RX_DROP.n (i : Nat) : FRef := ⟨0x8010C + 0x40 * i, 0, 32⟩
/-- CAN_TX_SENT (14 R450 R453 R457). -/
abbrev CAN_TX_SENT.addr (i : Nat) : Nat := 0x80110 + 0x40 * i
@[inherit_doc CAN_TX_SENT.addr] abbrev CAN_TX_SENT.n (i : Nat) : FRef := ⟨0x80110 + 0x40 * i, 0, 32⟩
/-- CAN_TX_DROP (14 R450 R453 R457). -/
abbrev CAN_TX_DROP.addr (i : Nat) : Nat := 0x80114 + 0x40 * i
@[inherit_doc CAN_TX_DROP.addr] abbrev CAN_TX_DROP.n (i : Nat) : FRef := ⟨0x80114 + 0x40 * i, 0, 32⟩
/-- CAN_ROUTE_FWD (14 R450 R453 R457). -/
abbrev CAN_ROUTE_FWD.addr (i : Nat) : Nat := 0x80118 + 0x40 * i
@[inherit_doc CAN_ROUTE_FWD.addr] abbrev CAN_ROUTE_FWD.n (i : Nat) : FRef := ⟨0x80118 + 0x40 * i, 0, 32⟩
/-- CAN_ROUTE_DROP (14 R450 R453 R457). -/
abbrev CAN_ROUTE_DROP.addr (i : Nat) : Nat := 0x8011C + 0x40 * i
@[inherit_doc CAN_ROUTE_DROP.addr] abbrev CAN_ROUTE_DROP.n (i : Nat) : FRef := ⟨0x8011C + 0x40 * i, 0, 32⟩
/-- CAN_ERR (14 R450 R453 R457). -/
abbrev CAN_ERR.addr (i : Nat) : Nat := 0x80120 + 0x40 * i
@[inherit_doc CAN_ERR.addr] abbrev CAN_ERR.n (i : Nat) : FRef := ⟨0x80120 + 0x40 * i, 0, 32⟩
/-- INST_CTRL (15 R463). -/
abbrev INST_CTRL.addr : Nat := 0x90000
@[inherit_doc INST_CTRL.addr] abbrev INST_CTRL.manager : FRef := ⟨0x90000, 0, 4⟩
@[inherit_doc INST_CTRL.addr] abbrev INST_CTRL.lock : FRef := ⟨0x90000, 31, 1⟩
/-- INST_STATE (15 R466 (is_manager is a view)). -/
abbrev INST_STATE.addr (i : Nat) : Nat := 0x90100 + 0x40 * i
@[inherit_doc INST_STATE.addr] abbrev INST_STATE.state (i : Nat) : FRef := ⟨0x90100 + 0x40 * i, 0, 2⟩
@[inherit_doc INST_STATE.addr] abbrev INST_STATE.held_quiesce (i : Nat) : FRef := ⟨0x90100 + 0x40 * i, 2, 1⟩
@[inherit_doc INST_STATE.addr] abbrev INST_STATE.is_manager (i : Nat) : FRef := ⟨0x90100 + 0x40 * i, 3, 1⟩
@[inherit_doc INST_STATE.addr] abbrev INST_STATE.restored (i : Nat) : FRef := ⟨0x90100 + 0x40 * i, 4, 1⟩
@[inherit_doc INST_STATE.addr] abbrev INST_STATE.mbox_err (i : Nat) : FRef := ⟨0x90100 + 0x40 * i, 5, 1⟩
/-- INST_RIGHTS (15 R464 (manager reads 0xFFFF_01FF)). -/
abbrev INST_RIGHTS.addr (i : Nat) : Nat := 0x90104 + 0x40 * i
@[inherit_doc INST_RIGHTS.addr] abbrev INST_RIGHTS.class_mask (i : Nat) : FRef := ⟨0x90104 + 0x40 * i, 0, 9⟩
@[inherit_doc INST_RIGHTS.addr] abbrev INST_RIGHTS.lane_mask (i : Nat) : FRef := ⟨0x90104 + 0x40 * i, 16, 8⟩
@[inherit_doc INST_RIGHTS.addr] abbrev INST_RIGHTS.lc_mask (i : Nat) : FRef := ⟨0x90104 + 0x40 * i, 24, 8⟩
/-- INST_MBOX_LO (15 R468). -/
abbrev INST_MBOX_LO.addr (i : Nat) : Nat := 0x90108 + 0x40 * i
@[inherit_doc INST_MBOX_LO.addr] abbrev INST_MBOX_LO.lo (i : Nat) : FRef := ⟨0x90108 + 0x40 * i, 12, 20⟩
/-- INST_MBOX_HI (15 R468). -/
abbrev INST_MBOX_HI.addr (i : Nat) : Nat := 0x9010C + 0x40 * i
@[inherit_doc INST_MBOX_HI.addr] abbrev INST_MBOX_HI.hi (i : Nat) : FRef := ⟨0x9010C + 0x40 * i, 0, 8⟩
/-- INST_MBOX_DB (15 R469). -/
abbrev INST_MBOX_DB.addr (i : Nat) : Nat := 0x90110 + 0x40 * i
@[inherit_doc INST_MBOX_DB.addr] abbrev INST_MBOX_DB.ring_mgr (i : Nat) : FRef := ⟨0x90110 + 0x40 * i, 0, 1⟩
@[inherit_doc INST_MBOX_DB.addr] abbrev INST_MBOX_DB.ring_ten (i : Nat) : FRef := ⟨0x90110 + 0x40 * i, 1, 1⟩
/-- INST_MBOX_PEND (15 R469). -/
abbrev INST_MBOX_PEND.addr (i : Nat) : Nat := 0x90114 + 0x40 * i
@[inherit_doc INST_MBOX_PEND.addr] abbrev INST_MBOX_PEND.pend_mgr (i : Nat) : FRef := ⟨0x90114 + 0x40 * i, 0, 1⟩
@[inherit_doc INST_MBOX_PEND.addr] abbrev INST_MBOX_PEND.pend_ten (i : Nat) : FRef := ⟨0x90114 + 0x40 * i, 1, 1⟩
/-- INST_NOTICES (15 R470). -/
abbrev INST_NOTICES.addr (i : Nat) : Nat := 0x90118 + 0x40 * i
@[inherit_doc INST_NOTICES.addr] abbrev INST_NOTICES.n (i : Nat) : FRef := ⟨0x90118 + 0x40 * i, 0, 32⟩
/-- INST_RESTORES (15 R481). -/
abbrev INST_RESTORES.addr (i : Nat) : Nat := 0x9011C + 0x40 * i
@[inherit_doc INST_RESTORES.addr] abbrev INST_RESTORES.n (i : Nat) : FRef := ⟨0x9011C + 0x40 * i, 0, 32⟩
/-- SYS_CHIP_ID (21 R604). -/
abbrev SYS_CHIP_ID.addr : Nat := 0x10000000
@[inherit_doc SYS_CHIP_ID.addr] abbrev SYS_CHIP_ID.chip_id : FRef := ⟨0x10000000, 0, 32⟩
/-- SYS_STEPPING (21 R604). -/
abbrev SYS_STEPPING.addr : Nat := 0x10000004
@[inherit_doc SYS_STEPPING.addr] abbrev SYS_STEPPING.stepping : FRef := ⟨0x10000004, 0, 32⟩
/-- SYS_CORE_TAG (21 R604 (reset: INST_CTRL.manager)). -/
abbrev SYS_CORE_TAG.addr (i : Nat) : Nat := 0x10000100 + 0x4 * i
@[inherit_doc SYS_CORE_TAG.addr] abbrev SYS_CORE_TAG.tag (i : Nat) : FRef := ⟨0x10000100 + 0x4 * i, 0, 4⟩
/-- MEM_DRAM_CFG (07 R258). -/
abbrev MEM_DRAM_CFG.addr : Nat := 0x10010000
@[inherit_doc MEM_DRAM_CFG.addr] abbrev MEM_DRAM_CFG.capacity : FRef := ⟨0x10010000, 0, 2⟩
@[inherit_doc MEM_DRAM_CFG.addr] abbrev MEM_DRAM_CFG.two_rank : FRef := ⟨0x10010000, 2, 1⟩
/-- MEM_SHARED (07 R260). -/
abbrev MEM_SHARED.addr : Nat := 0x10010004
@[inherit_doc MEM_SHARED.addr] abbrev MEM_SHARED.shared_chan : FRef := ⟨0x10010004, 0, 16⟩
@[inherit_doc MEM_SHARED.addr] abbrev MEM_SHARED.shared_way : FRef := ⟨0x10010004, 16, 16⟩
/-- MEM_LANE_RES (07 R260). -/
abbrev MEM_LANE_RES.addr (i : Nat) : Nat := 0x10010010 + 0x4 * i
@[inherit_doc MEM_LANE_RES.addr] abbrev MEM_LANE_RES.chan_mask (i : Nat) : FRef := ⟨0x10010010 + 0x4 * i, 0, 16⟩
@[inherit_doc MEM_LANE_RES.addr] abbrev MEM_LANE_RES.way_mask (i : Nat) : FRef := ⟨0x10010010 + 0x4 * i, 16, 16⟩
/-- MEM_LANE_TILE (07 R260). -/
abbrev MEM_LANE_TILE.addr (i : Nat) : Nat := 0x10010030 + 0x4 * i
@[inherit_doc MEM_LANE_TILE.addr] abbrev MEM_LANE_TILE.tile_mask (i : Nat) : FRef := ⟨0x10010030 + 0x4 * i, 0, 32⟩
/-- MEM_LANE_BAY (07 R260). -/
abbrev MEM_LANE_BAY.addr (i : Nat) : Nat := 0x10010050 + 0x4 * i
@[inherit_doc MEM_LANE_BAY.addr] abbrev MEM_LANE_BAY.base (i : Nat) : FRef := ⟨0x10010050 + 0x4 * i, 0, 9⟩
@[inherit_doc MEM_LANE_BAY.addr] abbrev MEM_LANE_BAY.len (i : Nat) : FRef := ⟨0x10010050 + 0x4 * i, 16, 9⟩
/-- MEM_ECC_CE (07 R259). -/
abbrev MEM_ECC_CE.addr (i : Nat) : Nat := 0x10010080 + 0x4 * i
@[inherit_doc MEM_ECC_CE.addr] abbrev MEM_ECC_CE.n (i : Nat) : FRef := ⟨0x10010080 + 0x4 * i, 0, 32⟩
/-- MEM_ECC_UE (07 R277). -/
abbrev MEM_ECC_UE.addr (i : Nat) : Nat := 0x10010090 + 0x4 * i
@[inherit_doc MEM_ECC_UE.addr] abbrev MEM_ECC_UE.n (i : Nat) : FRef := ⟨0x10010090 + 0x4 * i, 0, 32⟩
/-- MEM_POISON_LO (07 R277). -/
abbrev MEM_POISON_LO.addr : Nat := 0x100100A0
@[inherit_doc MEM_POISON_LO.addr] abbrev MEM_POISON_LO.lo : FRef := ⟨0x100100A0, 0, 32⟩
/-- MEM_POISON_HI (07 R277). -/
abbrev MEM_POISON_HI.addr : Nat := 0x100100A4
@[inherit_doc MEM_POISON_HI.addr] abbrev MEM_POISON_HI.hi : FRef := ⟨0x100100A4, 0, 8⟩
/-- MEM_POISON_INFO (07 R277). -/
abbrev MEM_POISON_INFO.addr : Nat := 0x100100A8
@[inherit_doc MEM_POISON_INFO.addr] abbrev MEM_POISON_INFO.kind : FRef := ⟨0x100100A8, 0, 2⟩
@[inherit_doc MEM_POISON_INFO.addr] abbrev MEM_POISON_INFO.master : FRef := ⟨0x100100A8, 16, 16⟩
/-- MEM_SCRUB (07 R252). -/
abbrev MEM_SCRUB.addr : Nat := 0x100100B0
@[inherit_doc MEM_SCRUB.addr] abbrev MEM_SCRUB.scrub_en : FRef := ⟨0x100100B0, 0, 1⟩
/-- MEM_SCRUB_PASS (07 R252). -/
abbrev MEM_SCRUB_PASS.addr : Nat := 0x100100B4
@[inherit_doc MEM_SCRUB_PASS.addr] abbrev MEM_SCRUB_PASS.tile : FRef := ⟨0x100100B4, 0, 16⟩
@[inherit_doc MEM_SCRUB_PASS.addr] abbrev MEM_SCRUB_PASS.bay : FRef := ⟨0x100100B4, 16, 16⟩
/-- MEM_LOCK (21 R611). -/
abbrev MEM_LOCK.addr : Nat := 0x100100FC
@[inherit_doc MEM_LOCK.addr] abbrev MEM_LOCK.lock : FRef := ⟨0x100100FC, 31, 1⟩
/-- XLT_WALKS (07 (XLT_WALKS)). -/
abbrev XLT_WALKS.addr : Nat := 0x10020000
@[inherit_doc XLT_WALKS.addr] abbrev XLT_WALKS.n : FRef := ⟨0x10020000, 0, 32⟩
/-- XLT_INVALIDATES (07 (XLT_INVALIDATES)). -/
abbrev XLT_INVALIDATES.addr : Nat := 0x10020004
@[inherit_doc XLT_INVALIDATES.addr] abbrev XLT_INVALIDATES.n : FRef := ⟨0x10020004, 0, 32⟩
/-- XLT_ROOT_LO (07 R267). -/
abbrev XLT_ROOT_LO.addr (i : Nat) : Nat := 0x10020100 + 0x20 * i
@[inherit_doc XLT_ROOT_LO.addr] abbrev XLT_ROOT_LO.lo (i : Nat) : FRef := ⟨0x10020100 + 0x20 * i, 12, 20⟩
/-- XLT_ROOT_HI (07 R267). -/
abbrev XLT_ROOT_HI.addr (i : Nat) : Nat := 0x10020104 + 0x20 * i
@[inherit_doc XLT_ROOT_HI.addr] abbrev XLT_ROOT_HI.hi (i : Nat) : FRef := ⟨0x10020104 + 0x20 * i, 0, 8⟩
/-- XLT_CFG (07 R267 R274). -/
abbrev XLT_CFG.addr (i : Nat) : Nat := 0x10020108 + 0x20 * i
@[inherit_doc XLT_CFG.addr] abbrev XLT_CFG.format (i : Nat) : FRef := ⟨0x10020108 + 0x20 * i, 0, 8⟩
@[inherit_doc XLT_CFG.addr] abbrev XLT_CFG.key_valid (i : Nat) : FRef := ⟨0x10020108 + 0x20 * i, 8, 1⟩
/-- XLT_FAULTS (07 R272). -/
abbrev XLT_FAULTS.addr (i : Nat) : Nat := 0x1002010C + 0x20 * i
@[inherit_doc XLT_FAULTS.addr] abbrev XLT_FAULTS.n (i : Nat) : FRef := ⟨0x1002010C + 0x20 * i, 0, 32⟩
/-- XLT_LAST_VA_LO (07 R272). -/
abbrev XLT_LAST_VA_LO.addr (i : Nat) : Nat := 0x10020110 + 0x20 * i
@[inherit_doc XLT_LAST_VA_LO.addr] abbrev XLT_LAST_VA_LO.lo (i : Nat) : FRef := ⟨0x10020110 + 0x20 * i, 0, 32⟩
/-- XLT_LAST_VA_HI (07 R272). -/
abbrev XLT_LAST_VA_HI.addr (i : Nat) : Nat := 0x10020114 + 0x20 * i
@[inherit_doc XLT_LAST_VA_HI.addr] abbrev XLT_LAST_VA_HI.hi (i : Nat) : FRef := ⟨0x10020114 + 0x20 * i, 0, 32⟩
/-- XLT_LAST_INFO (07 R272). -/
abbrev XLT_LAST_INFO.addr (i : Nat) : Nat := 0x10020118 + 0x20 * i
@[inherit_doc XLT_LAST_INFO.addr] abbrev XLT_LAST_INFO.reason (i : Nat) : FRef := ⟨0x10020118 + 0x20 * i, 0, 4⟩
@[inherit_doc XLT_LAST_INFO.addr] abbrev XLT_LAST_INFO.level (i : Nat) : FRef := ⟨0x10020118 + 0x20 * i, 4, 2⟩
@[inherit_doc XLT_LAST_INFO.addr] abbrev XLT_LAST_INFO.write (i : Nat) : FRef := ⟨0x10020118 + 0x20 * i, 6, 1⟩
@[inherit_doc XLT_LAST_INFO.addr] abbrev XLT_LAST_INFO.master (i : Nat) : FRef := ⟨0x10020118 + 0x20 * i, 16, 16⟩
/-- PACE_WINDOW (08 R281 (view: TIME ÷ 1,000)). -/
abbrev PACE_WINDOW.addr : Nat := 0x10030000
@[inherit_doc PACE_WINDOW.addr] abbrev PACE_WINDOW.n : FRef := ⟨0x10030000, 0, 32⟩
/-- PACE_SHARED_COUNT (08 R280). -/
abbrev PACE_SHARED_COUNT.addr (i : Nat) : Nat := 0x10030020 + 0x4 * i
@[inherit_doc PACE_SHARED_COUNT.addr] abbrev PACE_SHARED_COUNT.n (i : Nat) : FRef := ⟨0x10030020 + 0x4 * i, 0, 32⟩
/-- PACE_BUDGET (08 R283). -/
abbrev PACE_BUDGET.addr (i : Nat) : Nat := 0x10030100 + 0x4 * i
@[inherit_doc PACE_BUDGET.addr] abbrev PACE_BUDGET.n (i : Nat) : FRef := ⟨0x10030100 + 0x4 * i, 0, 32⟩
/-- PACE_COUNT (08 R282). -/
abbrev PACE_COUNT.addr (i : Nat) : Nat := 0x10030200 + 0x4 * i
@[inherit_doc PACE_COUNT.addr] abbrev PACE_COUNT.n (i : Nat) : FRef := ⟨0x10030200 + 0x4 * i, 0, 32⟩
/-- PACE_OVERRUN (08 R289). -/
abbrev PACE_OVERRUN.addr (i : Nat) : Nat := 0x10030300 + 0x4 * i
@[inherit_doc PACE_OVERRUN.addr] abbrev PACE_OVERRUN.n (i : Nat) : FRef := ⟨0x10030300 + 0x4 * i, 0, 32⟩
/-- PACE_HOLDS (08 (PACE_HOLDS)). -/
abbrev PACE_HOLDS.addr (i : Nat) : Nat := 0x10030400 + 0x4 * i
@[inherit_doc PACE_HOLDS.addr] abbrev PACE_HOLDS.n (i : Nat) : FRef := ⟨0x10030400 + 0x4 * i, 0, 32⟩
/-- PACE_STALL (08 R299). -/
abbrev PACE_STALL.addr (i : Nat) : Nat := 0x10030420 + 0x4 * i
@[inherit_doc PACE_STALL.addr] abbrev PACE_STALL.ticks (i : Nat) : FRef := ⟨0x10030420 + 0x4 * i, 0, 32⟩
/-- PACE_LATE (08 (PACE_LATE)). -/
abbrev PACE_LATE.addr (i : Nat) : Nat := 0x10030440 + 0x4 * i
@[inherit_doc PACE_LATE.addr] abbrev PACE_LATE.misses (i : Nat) : FRef := ⟨0x10030440 + 0x4 * i, 0, 16⟩
@[inherit_doc PACE_LATE.addr] abbrev PACE_LATE.stalls (i : Nat) : FRef := ⟨0x10030440 + 0x4 * i, 16, 16⟩
/-- PACE_OVERRUN_WIN (08 R289). -/
abbrev PACE_OVERRUN_WIN.addr (i : Nat) : Nat := 0x10030460 + 0x4 * i
@[inherit_doc PACE_OVERRUN_WIN.addr] abbrev PACE_OVERRUN_WIN.n (i : Nat) : FRef := ⟨0x10030460 + 0x4 * i, 0, 32⟩
/-- PACE_URG_CFG (08 R304). -/
abbrev PACE_URG_CFG.addr (i : Nat) : Nat := 0x10030500 + 0x4 * i
@[inherit_doc PACE_URG_CFG.addr] abbrev PACE_URG_CFG.th1 (i : Nat) : FRef := ⟨0x10030500 + 0x4 * i, 0, 4⟩
@[inherit_doc PACE_URG_CFG.addr] abbrev PACE_URG_CFG.th2 (i : Nat) : FRef := ⟨0x10030500 + 0x4 * i, 4, 4⟩
@[inherit_doc PACE_URG_CFG.addr] abbrev PACE_URG_CFG.th3 (i : Nat) : FRef := ⟨0x10030500 + 0x4 * i, 8, 4⟩
/-- PACE_URG_STATUS (08 R287). -/
abbrev PACE_URG_STATUS.addr : Nat := 0x10030520
@[inherit_doc PACE_URG_STATUS.addr] abbrev PACE_URG_STATUS.urg : FRef := ⟨0x10030520, 0, 16⟩
/-- PACE_URG_OVR (08 R289). -/
abbrev PACE_URG_OVR.addr : Nat := 0x10030524
@[inherit_doc PACE_URG_OVR.addr] abbrev PACE_URG_OVR.n : FRef := ⟨0x10030524, 0, 32⟩
/-- TILE_PAIRED (09 R336). -/
abbrev TILE_PAIRED.addr : Nat := 0x10040000
@[inherit_doc TILE_PAIRED.addr] abbrev TILE_PAIRED.lane_paired : FRef := ⟨0x10040000, 0, 8⟩
/-- TILE_PAIR_MISMATCH (09 R338). -/
abbrev TILE_PAIR_MISMATCH.addr (i : Nat) : Nat := 0x10040080 + 0x4 * i
@[inherit_doc TILE_PAIR_MISMATCH.addr] abbrev TILE_PAIR_MISMATCH.n (i : Nat) : FRef := ⟨0x10040080 + 0x4 * i, 0, 32⟩
/-- TILE_STATE (09 (TILE_ block)). -/
abbrev TILE_STATE.addr (i : Nat) : Nat := 0x10040100 + 0x40 * i
@[inherit_doc TILE_STATE.addr] abbrev TILE_STATE.busy (i : Nat) : FRef := ⟨0x10040100 + 0x40 * i, 0, 1⟩
@[inherit_doc TILE_STATE.addr] abbrev TILE_STATE.lane (i : Nat) : FRef := ⟨0x10040100 + 0x40 * i, 1, 3⟩
@[inherit_doc TILE_STATE.addr] abbrev TILE_STATE.instance (i : Nat) : FRef := ⟨0x10040100 + 0x40 * i, 4, 4⟩
@[inherit_doc TILE_STATE.addr] abbrev TILE_STATE.logical (i : Nat) : FRef := ⟨0x10040100 + 0x40 * i, 8, 5⟩
@[inherit_doc TILE_STATE.addr] abbrev TILE_STATE.checker (i : Nat) : FRef := ⟨0x10040100 + 0x40 * i, 13, 1⟩
/-- TILE_PC (09 (TILE_ block)). -/
abbrev TILE_PC.addr (i : Nat) : Nat := 0x10040104 + 0x40 * i
@[inherit_doc TILE_PC.addr] abbrev TILE_PC.pc (i : Nat) : FRef := ⟨0x10040104 + 0x40 * i, 0, 11⟩
/-- TILE_CYCLES (09 (TILE_ block)). -/
abbrev TILE_CYCLES.addr (i : Nat) : Nat := 0x10040108 + 0x40 * i
@[inherit_doc TILE_CYCLES.addr] abbrev TILE_CYCLES.n (i : Nat) : FRef := ⟨0x10040108 + 0x40 * i, 0, 32⟩
/-- TILE_BUNDLES (09 (TILE_ block)). -/
abbrev TILE_BUNDLES.addr (i : Nat) : Nat := 0x1004010C + 0x40 * i
@[inherit_doc TILE_BUNDLES.addr] abbrev TILE_BUNDLES.n (i : Nat) : FRef := ⟨0x1004010C + 0x40 * i, 0, 32⟩
/-- TILE_BANK_STALL (09 (TILE_ block)). -/
abbrev TILE_BANK_STALL.addr (i : Nat) : Nat := 0x10040110 + 0x40 * i
@[inherit_doc TILE_BANK_STALL.addr] abbrev TILE_BANK_STALL.n (i : Nat) : FRef := ⟨0x10040110 + 0x40 * i, 0, 32⟩
/-- TILE_EMPTY_WIN (09 (TILE_ block)). -/
abbrev TILE_EMPTY_WIN.addr (i : Nat) : Nat := 0x10040114 + 0x40 * i
@[inherit_doc TILE_EMPTY_WIN.addr] abbrev TILE_EMPTY_WIN.n (i : Nat) : FRef := ⟨0x10040114 + 0x40 * i, 0, 32⟩
/-- TILE_SAT (09 (TILE_ block)). -/
abbrev TILE_SAT.addr (i : Nat) : Nat := 0x10040118 + 0x40 * i
@[inherit_doc TILE_SAT.addr] abbrev TILE_SAT.n (i : Nat) : FRef := ⟨0x10040118 + 0x40 * i, 0, 32⟩
/-- TILE_FAULT (09 (TILE_ block)). -/
abbrev TILE_FAULT.addr (i : Nat) : Nat := 0x1004011C + 0x40 * i
@[inherit_doc TILE_FAULT.addr] abbrev TILE_FAULT.kind (i : Nat) : FRef := ⟨0x1004011C + 0x40 * i, 0, 4⟩
@[inherit_doc TILE_FAULT.addr] abbrev TILE_FAULT.bundle (i : Nat) : FRef := ⟨0x1004011C + 0x40 * i, 4, 11⟩
/-- TILE_FAULTS (09 (TILE_ block)). -/
abbrev TILE_FAULTS.addr (i : Nat) : Nat := 0x10040120 + 0x40 * i
@[inherit_doc TILE_FAULTS.addr] abbrev TILE_FAULTS.n (i : Nat) : FRef := ⟨0x10040120 + 0x40 * i, 0, 32⟩
/-- TILE_QS_CLEAR (10 R359). -/
abbrev TILE_QS_CLEAR.addr : Nat := 0x10040F00
@[inherit_doc TILE_QS_CLEAR.addr] abbrev TILE_QS_CLEAR.mask : FRef := ⟨0x10040F00, 0, 16⟩
@[inherit_doc TILE_QS_CLEAR.addr] abbrev TILE_QS_CLEAR.lane : FRef := ⟨0x10040F00, 16, 3⟩
/-- TILE_QS_COUNT (10 R359). -/
abbrev TILE_QS_COUNT.addr (i : Nat) : Nat := 0x10041000 + 0x20 * i
@[inherit_doc TILE_QS_COUNT.addr] abbrev TILE_QS_COUNT.n (i : Nat) : FRef := ⟨0x10041000 + 0x20 * i, 0, 32⟩
/-- TILE_QS_CLIPPED (10 R359). -/
abbrev TILE_QS_CLIPPED.addr (i : Nat) : Nat := 0x10041004 + 0x20 * i
@[inherit_doc TILE_QS_CLIPPED.addr] abbrev TILE_QS_CLIPPED.n (i : Nat) : FRef := ⟨0x10041004 + 0x20 * i, 0, 32⟩
/-- TILE_QS_NONFIN (10 R359). -/
abbrev TILE_QS_NONFIN.addr (i : Nat) : Nat := 0x10041008 + 0x20 * i
@[inherit_doc TILE_QS_NONFIN.addr] abbrev TILE_QS_NONFIN.n (i : Nat) : FRef := ⟨0x10041008 + 0x20 * i, 0, 32⟩
/-- TILE_QS_SSE_LO (10 R359). -/
abbrev TILE_QS_SSE_LO.addr (i : Nat) : Nat := 0x10041010 + 0x20 * i
@[inherit_doc TILE_QS_SSE_LO.addr] abbrev TILE_QS_SSE_LO.n (i : Nat) : FRef := ⟨0x10041010 + 0x20 * i, 0, 32⟩
/-- TILE_QS_SSE_HI (10 R359). -/
abbrev TILE_QS_SSE_HI.addr (i : Nat) : Nat := 0x10041014 + 0x20 * i
@[inherit_doc TILE_QS_SSE_HI.addr] abbrev TILE_QS_SSE_HI.n (i : Nat) : FRef := ⟨0x10041014 + 0x20 * i, 0, 32⟩
/-- ATT_BUCKET (11 R378). -/
abbrev ATT_BUCKET.addr (i : Nat) : Nat := 0x10050000 + 0x4 * i
@[inherit_doc ATT_BUCKET.addr] abbrev ATT_BUCKET.n (i : Nat) : FRef := ⟨0x10050000 + 0x4 * i, 0, 32⟩
/-- ATT_APPENDED (11 R376). -/
abbrev ATT_APPENDED.addr : Nat := 0x10050020
@[inherit_doc ATT_APPENDED.addr] abbrev ATT_APPENDED.n : FRef := ⟨0x10050020, 0, 32⟩
/-- ATT_CONFLICTS (11 R377). -/
abbrev ATT_CONFLICTS.addr : Nat := 0x10050024
@[inherit_doc ATT_CONFLICTS.addr] abbrev ATT_CONFLICTS.n : FRef := ⟨0x10050024, 0, 32⟩
/-- ATT_STATE (11 (ATT_ block)). -/
abbrev ATT_STATE.addr (i : Nat) : Nat := 0x10050100 + 0x40 * i
@[inherit_doc ATT_STATE.addr] abbrev ATT_STATE.busy (i : Nat) : FRef := ⟨0x10050100 + 0x40 * i, 0, 1⟩
@[inherit_doc ATT_STATE.addr] abbrev ATT_STATE.lane (i : Nat) : FRef := ⟨0x10050100 + 0x40 * i, 1, 3⟩
@[inherit_doc ATT_STATE.addr] abbrev ATT_STATE.instance (i : Nat) : FRef := ⟨0x10050100 + 0x40 * i, 4, 4⟩
/-- ATT_STEPS (11 (ATT_ block)). -/
abbrev ATT_STEPS.addr (i : Nat) : Nat := 0x10050104 + 0x40 * i
@[inherit_doc ATT_STEPS.addr] abbrev ATT_STEPS.n (i : Nat) : FRef := ⟨0x10050104 + 0x40 * i, 0, 32⟩
/-- ATT_WAIT (11 (ATT_ block)). -/
abbrev ATT_WAIT.addr (i : Nat) : Nat := 0x10050108 + 0x40 * i
@[inherit_doc ATT_WAIT.addr] abbrev ATT_WAIT.n (i : Nat) : FRef := ⟨0x10050108 + 0x40 * i, 0, 32⟩
/-- ATT_EMPTY (11 (ATT_ block)). -/
abbrev ATT_EMPTY.addr (i : Nat) : Nat := 0x1005010C + 0x40 * i
@[inherit_doc ATT_EMPTY.addr] abbrev ATT_EMPTY.n (i : Nat) : FRef := ⟨0x1005010C + 0x40 * i, 0, 32⟩
/-- ATT_NONFIN (11 (ATT_ block)). -/
abbrev ATT_NONFIN.addr (i : Nat) : Nat := 0x10050110 + 0x40 * i
@[inherit_doc ATT_NONFIN.addr] abbrev ATT_NONFIN.n (i : Nat) : FRef := ⟨0x10050110 + 0x40 * i, 0, 32⟩
/-- ATT_FAULT (11 (ATT_ block)). -/
abbrev ATT_FAULT.addr (i : Nat) : Nat := 0x10050114 + 0x40 * i
@[inherit_doc ATT_FAULT.addr] abbrev ATT_FAULT.kind (i : Nat) : FRef := ⟨0x10050114 + 0x40 * i, 0, 4⟩
@[inherit_doc ATT_FAULT.addr] abbrev ATT_FAULT.step (i : Nat) : FRef := ⟨0x10050114 + 0x40 * i, 4, 10⟩
@[inherit_doc ATT_FAULT.addr] abbrev ATT_FAULT.entry (i : Nat) : FRef := ⟨0x10050114 + 0x40 * i, 16, 12⟩
/-- ATT_FAULTS (11 (ATT_ block)). -/
abbrev ATT_FAULTS.addr (i : Nat) : Nat := 0x10050118 + 0x40 * i
@[inherit_doc ATT_FAULTS.addr] abbrev ATT_FAULTS.n (i : Nat) : FRef := ⟨0x10050118 + 0x40 * i, 0, 32⟩
/-- SRCH_IDX_LIVE (12 (SRCH_IDX_LIVE)). -/
abbrev SRCH_IDX_LIVE.addr (i : Nat) : Nat := 0x10060000 + 0x4 * i
@[inherit_doc SRCH_IDX_LIVE.addr] abbrev SRCH_IDX_LIVE.live (i : Nat) : FRef := ⟨0x10060000 + 0x4 * i, 0, 32⟩
/-- SRCH_BADREF (12 R395). -/
abbrev SRCH_BADREF.addr : Nat := 0x10060020
@[inherit_doc SRCH_BADREF.addr] abbrev SRCH_BADREF.n : FRef := ⟨0x10060020, 0, 32⟩
/-- SRCH_STATE (12 (SRCH_ block)). -/
abbrev SRCH_STATE.addr (i : Nat) : Nat := 0x10060100 + 0x40 * i
@[inherit_doc SRCH_STATE.addr] abbrev SRCH_STATE.busy (i : Nat) : FRef := ⟨0x10060100 + 0x40 * i, 0, 1⟩
@[inherit_doc SRCH_STATE.addr] abbrev SRCH_STATE.lane (i : Nat) : FRef := ⟨0x10060100 + 0x40 * i, 1, 3⟩
@[inherit_doc SRCH_STATE.addr] abbrev SRCH_STATE.instance (i : Nat) : FRef := ⟨0x10060100 + 0x40 * i, 4, 4⟩
@[inherit_doc SRCH_STATE.addr] abbrev SRCH_STATE.a (i : Nat) : FRef := ⟨0x10060100 + 0x40 * i, 16, 7⟩
/-- SRCH_CTX_MAX (12 (SRCH_ block)). -/
abbrev SRCH_CTX_MAX.addr (i : Nat) : Nat := 0x10060104 + 0x40 * i
@[inherit_doc SRCH_CTX_MAX.addr] abbrev SRCH_CTX_MAX.ctx_max (i : Nat) : FRef := ⟨0x10060104 + 0x40 * i, 0, 7⟩
/-- SRCH_QUERIES (12 (SRCH_ block)). -/
abbrev SRCH_QUERIES.addr (i : Nat) : Nat := 0x10060108 + 0x40 * i
@[inherit_doc SRCH_QUERIES.addr] abbrev SRCH_QUERIES.n (i : Nat) : FRef := ⟨0x10060108 + 0x40 * i, 0, 32⟩
/-- SRCH_CODES (12 (SRCH_ block)). -/
abbrev SRCH_CODES.addr (i : Nat) : Nat := 0x1006010C + 0x40 * i
@[inherit_doc SRCH_CODES.addr] abbrev SRCH_CODES.n (i : Nat) : FRef := ⟨0x1006010C + 0x40 * i, 0, 32⟩
/-- SRCH_RERANKED (12 (SRCH_ block)). -/
abbrev SRCH_RERANKED.addr (i : Nat) : Nat := 0x10060110 + 0x40 * i
@[inherit_doc SRCH_RERANKED.addr] abbrev SRCH_RERANKED.n (i : Nat) : FRef := ⟨0x10060110 + 0x40 * i, 0, 32⟩
/-- SRCH_WAIT (12 (SRCH_ block)). -/
abbrev SRCH_WAIT.addr (i : Nat) : Nat := 0x10060114 + 0x40 * i
@[inherit_doc SRCH_WAIT.addr] abbrev SRCH_WAIT.n (i : Nat) : FRef := ⟨0x10060114 + 0x40 * i, 0, 32⟩
/-- SRCH_ADAPT (12 (SRCH_ block)). -/
abbrev SRCH_ADAPT.addr (i : Nat) : Nat := 0x10060118 + 0x40 * i
@[inherit_doc SRCH_ADAPT.addr] abbrev SRCH_ADAPT.n (i : Nat) : FRef := ⟨0x10060118 + 0x40 * i, 0, 32⟩
/-- SRCH_EMPTY (12 (SRCH_ block)). -/
abbrev SRCH_EMPTY.addr (i : Nat) : Nat := 0x1006011C + 0x40 * i
@[inherit_doc SRCH_EMPTY.addr] abbrev SRCH_EMPTY.n (i : Nat) : FRef := ⟨0x1006011C + 0x40 * i, 0, 32⟩
/-- GFX_STATE (13 (GFX_ block)). -/
abbrev GFX_STATE.addr : Nat := 0x10070000
@[inherit_doc GFX_STATE.addr] abbrev GFX_STATE.busy : FRef := ⟨0x10070000, 0, 1⟩
@[inherit_doc GFX_STATE.addr] abbrev GFX_STATE.mode : FRef := ⟨0x10070000, 1, 1⟩
@[inherit_doc GFX_STATE.addr] abbrev GFX_STATE.lane : FRef := ⟨0x10070000, 2, 3⟩
@[inherit_doc GFX_STATE.addr] abbrev GFX_STATE.instance : FRef := ⟨0x10070000, 5, 4⟩
@[inherit_doc GFX_STATE.addr] abbrev GFX_STATE.ctx : FRef := ⟨0x10070000, 9, 4⟩
/-- GFX_PASSES (13 (GFX_ block)). -/
abbrev GFX_PASSES.addr : Nat := 0x10070004
@[inherit_doc GFX_PASSES.addr] abbrev GFX_PASSES.n : FRef := ⟨0x10070004, 0, 32⟩
/-- GFX_BINS (13 (GFX_ block)). -/
abbrev GFX_BINS.addr : Nat := 0x10070008
@[inherit_doc GFX_BINS.addr] abbrev GFX_BINS.n : FRef := ⟨0x10070008, 0, 32⟩
/-- GFX_SPLITS (13 (GFX_ block)). -/
abbrev GFX_SPLITS.addr : Nat := 0x1007000C
@[inherit_doc GFX_SPLITS.addr] abbrev GFX_SPLITS.n : FRef := ⟨0x1007000C, 0, 32⟩
/-- GFX_SB_STALL (13 (GFX_ block)). -/
abbrev GFX_SB_STALL.addr : Nat := 0x10070010
@[inherit_doc GFX_SB_STALL.addr] abbrev GFX_SB_STALL.n : FRef := ⟨0x10070010, 0, 32⟩
/-- GFX_BLOCKS (13 (GFX_ block)). -/
abbrev GFX_BLOCKS.addr : Nat := 0x10070014
@[inherit_doc GFX_BLOCKS.addr] abbrev GFX_BLOCKS.n : FRef := ⟨0x10070014, 0, 32⟩
/-- GFX_SECTORS (13 (GFX_ block)). -/
abbrev GFX_SECTORS.addr : Nat := 0x10070018
@[inherit_doc GFX_SECTORS.addr] abbrev GFX_SECTORS.n : FRef := ⟨0x10070018, 0, 32⟩
/-- GFX_FAULT (13 (GFX_ block)). -/
abbrev GFX_FAULT.addr : Nat := 0x1007001C
@[inherit_doc GFX_FAULT.addr] abbrev GFX_FAULT.kind : FRef := ⟨0x1007001C, 0, 3⟩
@[inherit_doc GFX_FAULT.addr] abbrev GFX_FAULT.off : FRef := ⟨0x1007001C, 4, 24⟩
/-- GFX_FAULTS (13 (GFX_ block)). -/
abbrev GFX_FAULTS.addr : Nat := 0x10070020
@[inherit_doc GFX_FAULTS.addr] abbrev GFX_FAULTS.n : FRef := ⟨0x10070020, 0, 32⟩
/-- GFX_CTX (13 R416). -/
abbrev GFX_CTX.addr (i : Nat) : Nat := 0x10070040 + 0x4 * i
@[inherit_doc GFX_CTX.addr] abbrev GFX_CTX.bound (i : Nat) : FRef := ⟨0x10070040 + 0x4 * i, 0, 1⟩
@[inherit_doc GFX_CTX.addr] abbrev GFX_CTX.instance (i : Nat) : FRef := ⟨0x10070040 + 0x4 * i, 4, 4⟩
/-- DISP_OUT_STATE (13 (DISP_ block)). -/
abbrev DISP_OUT_STATE.addr (i : Nat) : Nat := 0x10080100 + 0x40 * i
@[inherit_doc DISP_OUT_STATE.addr] abbrev DISP_OUT_STATE.enabled (i : Nat) : FRef := ⟨0x10080100 + 0x40 * i, 0, 1⟩
@[inherit_doc DISP_OUT_STATE.addr] abbrev DISP_OUT_STATE.showing (i : Nat) : FRef := ⟨0x10080100 + 0x40 * i, 1, 1⟩
@[inherit_doc DISP_OUT_STATE.addr] abbrev DISP_OUT_STATE.link_up (i : Nat) : FRef := ⟨0x10080100 + 0x40 * i, 2, 1⟩
@[inherit_doc DISP_OUT_STATE.addr] abbrev DISP_OUT_STATE.restored (i : Nat) : FRef := ⟨0x10080100 + 0x40 * i, 3, 1⟩
@[inherit_doc DISP_OUT_STATE.addr] abbrev DISP_OUT_STATE.restore_fail (i : Nat) : FRef := ⟨0x10080100 + 0x40 * i, 4, 1⟩
@[inherit_doc DISP_OUT_STATE.addr] abbrev DISP_OUT_STATE.lanes (i : Nat) : FRef := ⟨0x10080100 + 0x40 * i, 8, 3⟩
@[inherit_doc DISP_OUT_STATE.addr] abbrev DISP_OUT_STATE.owner (i : Nat) : FRef := ⟨0x10080100 + 0x40 * i, 16, 4⟩
/-- DISP_FRAME (13 (DISP_ block)). -/
abbrev DISP_FRAME.addr (i : Nat) : Nat := 0x10080104 + 0x40 * i
@[inherit_doc DISP_FRAME.addr] abbrev DISP_FRAME.n (i : Nat) : FRef := ⟨0x10080104 + 0x40 * i, 0, 32⟩
/-- DISP_LINE (13 (DISP_ block)). -/
abbrev DISP_LINE.addr (i : Nat) : Nat := 0x10080108 + 0x40 * i
@[inherit_doc DISP_LINE.addr] abbrev DISP_LINE.line (i : Nat) : FRef := ⟨0x10080108 + 0x40 * i, 0, 14⟩
/-- DISP_UNDERRUN (13 (DISP_ block)). -/
abbrev DISP_UNDERRUN.addr (i : Nat) : Nat := 0x1008010C + 0x40 * i
@[inherit_doc DISP_UNDERRUN.addr] abbrev DISP_UNDERRUN.n (i : Nat) : FRef := ⟨0x1008010C + 0x40 * i, 0, 32⟩
/-- DISP_POISON (13 (DISP_ block)). -/
abbrev DISP_POISON.addr (i : Nat) : Nat := 0x10080110 + 0x40 * i
@[inherit_doc DISP_POISON.addr] abbrev DISP_POISON.n (i : Nat) : FRef := ⟨0x10080110 + 0x40 * i, 0, 32⟩
/-- DISP_XLT (13 (DISP_ block)). -/
abbrev DISP_XLT.addr (i : Nat) : Nat := 0x10080114 + 0x40 * i
@[inherit_doc DISP_XLT.addr] abbrev DISP_XLT.n (i : Nat) : FRef := ⟨0x10080114 + 0x40 * i, 0, 32⟩
/-- DISP_VBLANK_LO (13 (DISP_ block)). -/
abbrev DISP_VBLANK_LO.addr (i : Nat) : Nat := 0x10080118 + 0x40 * i
@[inherit_doc DISP_VBLANK_LO.addr] abbrev DISP_VBLANK_LO.lo (i : Nat) : FRef := ⟨0x10080118 + 0x40 * i, 0, 32⟩
/-- DISP_VBLANK_HI (13 (DISP_ block)). -/
abbrev DISP_VBLANK_HI.addr (i : Nat) : Nat := 0x1008011C + 0x40 * i
@[inherit_doc DISP_VBLANK_HI.addr] abbrev DISP_VBLANK_HI.hi (i : Nat) : FRef := ⟨0x1008011C + 0x40 * i, 0, 32⟩
/-- SENS_PORT_CFG (14 R435). -/
abbrev SENS_PORT_CFG.addr (i : Nat) : Nat := 0x10090000 + 0x4 * i
@[inherit_doc SENS_PORT_CFG.addr] abbrev SENS_PORT_CFG.lanes (i : Nat) : FRef := ⟨0x10090000 + 0x4 * i, 0, 3⟩
/-- SENS_ECC (14 R440). -/
abbrev SENS_ECC.addr (i : Nat) : Nat := 0x10090010 + 0x4 * i
@[inherit_doc SENS_ECC.addr] abbrev SENS_ECC.n (i : Nat) : FRef := ⟨0x10090010 + 0x4 * i, 0, 32⟩
/-- SENS_OVERFLOW (14 R440). -/
abbrev SENS_OVERFLOW.addr (i : Nat) : Nat := 0x10090020 + 0x4 * i
@[inherit_doc SENS_OVERFLOW.addr] abbrev SENS_OVERFLOW.n (i : Nat) : FRef := ⟨0x10090020 + 0x4 * i, 0, 32⟩
/-- SENS_DISCARD (14 R440). -/
abbrev SENS_DISCARD.addr (i : Nat) : Nat := 0x10090030 + 0x4 * i
@[inherit_doc SENS_DISCARD.addr] abbrev SENS_DISCARD.n (i : Nat) : FRef := ⟨0x10090030 + 0x4 * i, 0, 32⟩
/-- SENS_IRQ_STATUS (14 R439). -/
abbrev SENS_IRQ_STATUS.addr : Nat := 0x10090040
@[inherit_doc SENS_IRQ_STATUS.addr] abbrev SENS_IRQ_STATUS.irq : FRef := ⟨0x10090040, 0, 16⟩
/-- SENS_LOCK (21 R603). -/
abbrev SENS_LOCK.addr : Nat := 0x100900FC
@[inherit_doc SENS_LOCK.addr] abbrev SENS_LOCK.lock : FRef := ⟨0x100900FC, 31, 1⟩
/-- SENS_STREAM_STATE (14 R441). -/
abbrev SENS_STREAM_STATE.addr (i : Nat) : Nat := 0x10090100 + 0x8 * i
@[inherit_doc SENS_STREAM_STATE.addr] abbrev SENS_STREAM_STATE.enabled (i : Nat) : FRef := ⟨0x10090100 + 0x8 * i, 0, 1⟩
@[inherit_doc SENS_STREAM_STATE.addr] abbrev SENS_STREAM_STATE.owner (i : Nat) : FRef := ⟨0x10090100 + 0x8 * i, 1, 4⟩
@[inherit_doc SENS_STREAM_STATE.addr] abbrev SENS_STREAM_STATE.next (i : Nat) : FRef := ⟨0x10090100 + 0x8 * i, 5, 6⟩
/-- SENS_STREAM_DROP (14 R439). -/
abbrev SENS_STREAM_DROP.addr (i : Nat) : Nat := 0x10090104 + 0x8 * i
@[inherit_doc SENS_STREAM_DROP.addr] abbrev SENS_STREAM_DROP.n (i : Nat) : FRef := ⟨0x10090104 + 0x8 * i, 0, 32⟩
/-- NET_PORT_CFG (14 R443). -/
abbrev NET_PORT_CFG.addr (i : Nat) : Nat := 0x100A0000 + 0x4 * i
@[inherit_doc NET_PORT_CFG.addr] abbrev NET_PORT_CFG.rate (i : Nat) : FRef := ⟨0x100A0000 + 0x4 * i, 0, 3⟩
@[inherit_doc NET_PORT_CFG.addr] abbrev NET_PORT_CFG.owner (i : Nat) : FRef := ⟨0x100A0000 + 0x4 * i, 3, 4⟩
@[inherit_doc NET_PORT_CFG.addr] abbrev NET_PORT_CFG.enable (i : Nat) : FRef := ⟨0x100A0000 + 0x4 * i, 7, 1⟩
/-- NET_LOCK (21 R603). -/
abbrev NET_LOCK.addr : Nat := 0x100A00FC
@[inherit_doc NET_LOCK.addr] abbrev NET_LOCK.lock : FRef := ⟨0x100A00FC, 31, 1⟩
/-- NET_TX_BASE_LO (14 R444). -/
abbrev NET_TX_BASE_LO.addr (i : Nat) : Nat := 0x100A0100 + 0x40 * i
@[inherit_doc NET_TX_BASE_LO.addr] abbrev NET_TX_BASE_LO.lo (i : Nat) : FRef := ⟨0x100A0100 + 0x40 * i, 6, 26⟩
/-- NET_TX_BASE_HI (14 R444). -/
abbrev NET_TX_BASE_HI.addr (i : Nat) : Nat := 0x100A0104 + 0x40 * i
@[inherit_doc NET_TX_BASE_HI.addr] abbrev NET_TX_BASE_HI.hi (i : Nat) : FRef := ⟨0x100A0104 + 0x40 * i, 0, 32⟩
/-- NET_RX_BASE_LO (14 R444). -/
abbrev NET_RX_BASE_LO.addr (i : Nat) : Nat := 0x100A0108 + 0x40 * i
@[inherit_doc NET_RX_BASE_LO.addr] abbrev NET_RX_BASE_LO.lo (i : Nat) : FRef := ⟨0x100A0108 + 0x40 * i, 6, 26⟩
/-- NET_RX_BASE_HI (14 R444). -/
abbrev NET_RX_BASE_HI.addr (i : Nat) : Nat := 0x100A010C + 0x40 * i
@[inherit_doc NET_RX_BASE_HI.addr] abbrev NET_RX_BASE_HI.hi (i : Nat) : FRef := ⟨0x100A010C + 0x40 * i, 0, 32⟩
/-- NET_RING_CFG (14 R444). -/
abbrev NET_RING_CFG.addr (i : Nat) : Nat := 0x100A0110 + 0x40 * i
@[inherit_doc NET_RING_CFG.addr] abbrev NET_RING_CFG.tx_log2 (i : Nat) : FRef := ⟨0x100A0110 + 0x40 * i, 0, 4⟩
@[inherit_doc NET_RING_CFG.addr] abbrev NET_RING_CFG.rx_log2 (i : Nat) : FRef := ⟨0x100A0110 + 0x40 * i, 4, 4⟩
@[inherit_doc NET_RING_CFG.addr] abbrev NET_RING_CFG.tx_en (i : Nat) : FRef := ⟨0x100A0110 + 0x40 * i, 8, 1⟩
@[inherit_doc NET_RING_CFG.addr] abbrev NET_RING_CFG.rx_en (i : Nat) : FRef := ⟨0x100A0110 + 0x40 * i, 9, 1⟩
/-- NET_TX_TAIL (14 R444). -/
abbrev NET_TX_TAIL.addr (i : Nat) : Nat := 0x100A0114 + 0x40 * i
@[inherit_doc NET_TX_TAIL.addr] abbrev NET_TX_TAIL.tail (i : Nat) : FRef := ⟨0x100A0114 + 0x40 * i, 0, 32⟩
/-- NET_RX_TAIL (14 R444). -/
abbrev NET_RX_TAIL.addr (i : Nat) : Nat := 0x100A0118 + 0x40 * i
@[inherit_doc NET_RX_TAIL.addr] abbrev NET_RX_TAIL.tail (i : Nat) : FRef := ⟨0x100A0118 + 0x40 * i, 0, 32⟩
/-- NET_RX_DROP (14 R444). -/
abbrev NET_RX_DROP.addr (i : Nat) : Nat := 0x100A011C + 0x40 * i
@[inherit_doc NET_RX_DROP.addr] abbrev NET_RX_DROP.n (i : Nat) : FRef := ⟨0x100A011C + 0x40 * i, 0, 32⟩
/-- NET_RX_ERR (14 R444). -/
abbrev NET_RX_ERR.addr (i : Nat) : Nat := 0x100A0120 + 0x40 * i
@[inherit_doc NET_RX_ERR.addr] abbrev NET_RX_ERR.n (i : Nat) : FRef := ⟨0x100A0120 + 0x40 * i, 0, 32⟩
/-- NET_STATE (14 R444). -/
abbrev NET_STATE.addr (i : Nat) : Nat := 0x100A0124 + 0x40 * i
@[inherit_doc NET_STATE.addr] abbrev NET_STATE.link (i : Nat) : FRef := ⟨0x100A0124 + 0x40 * i, 0, 1⟩
/-- PCIE_CFG (14 R458). -/
abbrev PCIE_CFG.addr (i : Nat) : Nat := 0x100B0000 + 0x40 * i
@[inherit_doc PCIE_CFG.addr] abbrev PCIE_CFG.role (i : Nat) : FRef := ⟨0x100B0000 + 0x40 * i, 0, 1⟩
@[inherit_doc PCIE_CFG.addr] abbrev PCIE_CFG.bound (i : Nat) : FRef := ⟨0x100B0000 + 0x40 * i, 1, 4⟩
@[inherit_doc PCIE_CFG.addr] abbrev PCIE_CFG.width (i : Nat) : FRef := ⟨0x100B0000 + 0x40 * i, 5, 3⟩
@[inherit_doc PCIE_CFG.addr] abbrev PCIE_CFG.gen (i : Nat) : FRef := ⟨0x100B0000 + 0x40 * i, 8, 3⟩
/-- PCIE_STATE (14 R458). -/
abbrev PCIE_STATE.addr (i : Nat) : Nat := 0x100B0004 + 0x40 * i
@[inherit_doc PCIE_STATE.addr] abbrev PCIE_STATE.link_up (i : Nat) : FRef := ⟨0x100B0004 + 0x40 * i, 0, 1⟩
@[inherit_doc PCIE_STATE.addr] abbrev PCIE_STATE.width (i : Nat) : FRef := ⟨0x100B0004 + 0x40 * i, 1, 3⟩
@[inherit_doc PCIE_STATE.addr] abbrev PCIE_STATE.gen (i : Nat) : FRef := ⟨0x100B0004 + 0x40 * i, 4, 3⟩
@[inherit_doc PCIE_STATE.addr] abbrev PCIE_STATE.l1 (i : Nat) : FRef := ⟨0x100B0004 + 0x40 * i, 7, 1⟩
/-- PCIE_OUT_BASE_LO (14 R458). -/
abbrev PCIE_OUT_BASE_LO.addr (i : Nat) : Nat := 0x100B0008 + 0x40 * i
@[inherit_doc PCIE_OUT_BASE_LO.addr] abbrev PCIE_OUT_BASE_LO.lo (i : Nat) : FRef := ⟨0x100B0008 + 0x40 * i, 0, 32⟩
/-- PCIE_OUT_BASE_HI (14 R458). -/
abbrev PCIE_OUT_BASE_HI.addr (i : Nat) : Nat := 0x100B000C + 0x40 * i
@[inherit_doc PCIE_OUT_BASE_HI.addr] abbrev PCIE_OUT_BASE_HI.hi (i : Nat) : FRef := ⟨0x100B000C + 0x40 * i, 0, 32⟩
/-- PCIE_BAR2_SIZE (14 R458). -/
abbrev PCIE_BAR2_SIZE.addr (i : Nat) : Nat := 0x100B0010 + 0x40 * i
@[inherit_doc PCIE_BAR2_SIZE.addr] abbrev PCIE_BAR2_SIZE.log2 (i : Nat) : FRef := ⟨0x100B0010 + 0x40 * i, 0, 6⟩
/-- PCIE_ERR (14 R458). -/
abbrev PCIE_ERR.addr (i : Nat) : Nat := 0x100B0014 + 0x40 * i
@[inherit_doc PCIE_ERR.addr] abbrev PCIE_ERR.n (i : Nat) : FRef := ⟨0x100B0014 + 0x40 * i, 0, 32⟩
/-- PCIE_LOCK (21 R603). -/
abbrev PCIE_LOCK.addr : Nat := 0x100B00FC
@[inherit_doc PCIE_LOCK.addr] abbrev PCIE_LOCK.lock : FRef := ⟨0x100B00FC, 31, 1⟩

end Sys2Proof.Machine
end

