-- ==== Sys2Proof/Machine/Tab.lean ====
section
/-! DEFINITION. Sparse tables: lists of (key, value) pairs in one canonical form. Keys rise strictly and no entry equals
what an unlisted key reads as, so equal tables are equal data. Memory, the register file and every numbered set of
units (queues, tiles, instances, ...) are held this way. -/

namespace Sys2Proof.Machine

/-- The value at a key; `d` says what an unlisted key reads as. -/
def tabGet {α : Type} (d : Nat → α) : List (Nat × α) → Nat → α
  | [], k => d k
  | e :: t, k => if k = e.1 then e.2 else tabGet d t k

/-- Write a value at a key, keeping the canonical form: writing what an unlisted key reads as removes the entry. -/
def tabPut {α : Type} [DecidableEq α] (d : Nat → α) : List (Nat × α) → Nat → α → List (Nat × α)
  | [], k, v => if v = d k then [] else [(k, v)]
  | e :: t, k, v =>
    if k < e.1 then (if v = d k then e :: t else (k, v) :: e :: t)
    else if k = e.1 then (if v = d k then t else (k, v) :: t)
    else e :: tabPut d t k v

/-- Remove every entry whose key satisfies `p`: those keys read as unlisted again. -/
def tabErase {α : Type} (p : Nat → Bool) (t : List (Nat × α)) : List (Nat × α) :=
  t.filter fun e => !p e.1

/-- Every key of the tail lies above `k`, keys rise and no entry holds the default. -/
def tabWfFrom {α : Type} [DecidableEq α] (d : Nat → α) : Option Nat → List (Nat × α) → Bool
  | _, [] => true
  | b, e :: t =>
    (match b with | none => true | some k => decide (k < e.1)) && decide (e.2 ≠ d e.1) && tabWfFrom d (some e.1) t

/-- The canonical form of a sparse table. -/
def tabWf {α : Type} [DecidableEq α] (d : Nat → α) (t : List (Nat × α)) : Bool := tabWfFrom d none t

/-- Sorted insertion into a strictly rising list of numbers (a set of line numbers). -/
def setAdd : List Nat → Nat → List Nat
  | [], k => [k]
  | a :: t, k => if k < a then k :: a :: t else if k = a then a :: t else a :: setAdd t k

/-- Removal from a set of numbers. -/
def setDel (l : List Nat) (k : Nat) : List Nat := l.filter fun a => a ≠ k

end Sys2Proof.Machine
end

