-- ==== Sys2Proof/Machine/State.lean ====
section
/-! DEFINITION. The state of the T32 and the state right after a power-on reset. Every register a master can read stands
once, in `regs`; the records below hold what the spec gives the machine beside its registers. -/

namespace Sys2Proof.Machine

/-- The power states of R58, with the two entries before their commit points (R61, R66) kept apart. -/
inductive PowerMode where
  | off | on | parkEntry | park | dozeEntry | doze
deriving DecidableEq, Repr

/-- How far a Sage start has come (R82). -/
inductive SageStage where
  /-- Held in reset: POR_N low, or a group B rail missing. -/
  | held
  /-- Step 3: CK01 to CK04 are running. -/
  | romTests
  /-- Step 4: waiting out the backoff. -/
  | backoff
  /-- Step 7 done: Tsuquel runs, the boot watchdog is armed. -/
  | waitAlive
  /-- BOOT_ALIVE written. -/
  | up
deriving DecidableEq, Repr

/-- How far a main-die attempt has come (R100). -/
inductive MainStage where
  /-- No attempt: the main die is held in reset (before BOOT_ALIVE, in PARK, after a shutdown). -/
  | idle
  /-- Waiting out the backoff of R91. -/
  | backoff
  /-- An attempt is due and has not begun. -/
  | start
  /-- Step 1: group C rail `k` of the order of R30 is commanded on and not yet good. -/
  | rails (k : Nat)
  /-- Step 1 done; steps 2 to 6 are due. -/
  | step2
  /-- Step 5: some checker tests have not been judged yet. -/
  | tests
  /-- Steps 1 to 6 done; acceptance is due. -/
  | ready
  /-- Jobs are accepted. -/
  | up
deriving DecidableEq, Repr

/-- Which run of checker tests is open (R97, R522, R188). -/
inductive TestRun where
  | none | rom | bringUp | background | safTest
deriving DecidableEq, Repr

/-- One group C rail: commanded on, when its ON command was sent, whether its monitor watches it (R34), and when its OFF
command was sent. -/
structure RailState where
  on : Bool
  onAt : Nat
  watched : Bool
  offAt : Nat
deriving DecidableEq, Repr

/-- Why group C is being taken down (R32): for PARK (stop after VDD_SOC), for OFF, after a failed attempt, or to cycle it
after a rail loss (R37). -/
inductive DownFor where
  | park | off | failed | cycle
deriving DecidableEq, Repr

/-- Start and retry (spec/03). -/
structure BootState where
  sage : SageStage
  main : MainStage
  /-- TIME tick at which the backoff of the Sage sequence ends, and that of the main-die sequence (R91). -/
  backoffUntil : Nat
  mainUntil : Nat
  /-- A Sage start whose TIME restart waits for a SLOW rising edge (R74, R82 step 1). -/
  startDue : Option SageStart
  /-- Expiry tick of the boot watchdog (R82 step 7). -/
  watchdog : Nat
  /-- The Sage attempt in progress has been counted in BOOT_ATTEMPTS (R90). -/
  counted : Bool
  /-- The main-die attempt in progress has been counted. -/
  mainCounted : Bool
  /-- What the xSPI controller reports in the reads of this start. -/
  xspiError : Bool
  /-- The safety triplet has run in this Sage start (R621). -/
  tripletRan : Bool
  /-- Tick at which the present main-die step began. -/
  stepAt : Nat
  /-- The open run of checker tests and the tests of it that have not been judged. -/
  run : TestRun
  left : List Nat
  /-- The latest start values of a main-die attempt, kept while its tests are open. -/
  env : MainStart
  /-- LPDDR5X has kept its contents since they were last written (R79, R101). -/
  dramKept : Bool
  /-- The copy of the verified main part in the region of LPDDR5X that no lane can map (R101). The region has no address in
  the model, so no access reaches it (assumption 115). -/
  mainCopy : Option (List Byte)
  /-- The attempt belongs to a PARK exit (R96, R530). -/
  parkExit : Bool
  /-- LPDDR5X contents were lost at the safe state now being recovered (R554). -/
  dramLost : Bool
  /-- The installed capacity and ranks Tsuquel has recorded (R258). -/
  dramCap : Nat
  dramRank : Bool
deriving DecidableEq, Repr

/-- The output pins the spec gives the package outside the GPIO pads; true means asserted. -/
structure Pins where
  pwrOn : Bool
  safeState : Bool
  dispFallback : Bool
  faultN : Bool
  refreq : Bool
  /-- POR_N is low, or VDD_AO is not in range yet: a power-on reset lasts. -/
  powerOn : Bool
  /-- XSPI_RESET_N is asserted: until step 5 of the ROM sequence. -/
  xspiReset : Bool
deriving DecidableEq, Repr

/-- One clock domain beside its CLK_DOM registers: the tick of its last demand, the step it restarts at, the software
request (16: none), the ceilings of the cap loop, the warn throttle and level mode (8: none), the hot trip, and the
override episodes in progress (R501). -/
structure DomState where
  lastDemand : Nat
  held : Nat
  req : Nat
  capCeil : Nat
  warnCeil : Nat
  levelCeil : Nat
  hot : Bool
  epTherm : Bool
  epCap : Bool
  epMulti : Bool
deriving DecidableEq, Repr

/-- A domain nothing has touched. -/
def DomState.init : DomState := ⟨0, 0, 16, 8, 8, 8, false, false, false, false⟩

/-- TIME, SLOW and the power states (spec/02). -/
structure ClockState where
  time : Nat
  running : Bool
  slow : Nat
  /-- A (TIME, SLOW) pair has been recorded since power-on reset (R74). -/
  stopValid : Bool
  /-- TIME is to stop on the next SLOW rising edge (R61 step 4). -/
  stopDue : Bool
  /-- TIME is to restart on the next SLOW rising edge (R74). -/
  restartDue : Bool
  mode : PowerMode
  /-- A DOZE exit is under way (R66). -/
  dozeExit : Bool
  /-- SLOW count of the next PARK sweep-timer expiry; `none` while period_s is 0 (R62). -/
  nextSweep : Option Nat
  /-- The last samples of each WAKE_N pin, newest in bit 0 (R599). -/
  wakeHist : List Nat
  /-- The tick after the one in which each wake event was latched last (R599). -/
  wakeAt : List (Nat × Nat)
  /-- A wake event enabled for the present state was latched at or after the commit point (R61, R66). -/
  wakePending : Bool
  /-- The main die is isolated and in reset already, before the commit point of a PARK entry (R61 step 2). -/
  entryReset : Bool
  doms : List (Nat × DomState)
  /-- The main-die TIME copies (R69), by domain: how many ticks each is ahead of the master. -/
  copies : List (Nat × Int)
  /-- The host cores' timer compares that a DOZE entry moved to the Sage die (R60), by core. -/
  compares : List (Nat × Nat)
  /-- The tick since which every domain of R58's DOZE condition has been gated. -/
  gatedSince : Nat
deriving DecidableEq, Repr

/-- Rails, telemetry and the power loops (spec/01, spec/16). -/
structure PowerState where
  rails : List (Nat × RailState)
  /-- Group C rails still to be commanded off after the one now falling, and why. -/
  down : List Nat
  downFor : DownFor
  /-- VDD_TILE's set value in mV, and the tick at which the last AVSBus change has settled (R23). -/
  vTile : Nat
  avsDue : Option Nat
  /-- The last 8 samples of package power in mW, newest first (R489). -/
  samples : List Nat
  /-- Consecutive samples at or below 95 % of the cap (R491). -/
  capGood : Nat
  /-- Sprint was permitted at the last sample (R492). -/
  sprintOk : Bool
  /-- Domains the cap loop has lowered, latest first. -/
  lowered : List Nat
  /-- Consecutive missed AVSBus samples of each rail. -/
  missed : List (Nat × Nat)
  /-- A set cap that takes effect at the next sample (R490). -/
  capNext : Option Nat
  /-- Droop detectors now stretching: 0 to 3 the tile clusters, 4 and 5 the fabric (R494). -/
  droop : Nat
  /-- The tick of the warn throttle's last move (R497). -/
  warnAt : Nat
  /-- TIME of the last sample (R510). -/
  sampleAt : Nat
  /-- Power shifting: the words of the last rounds by node (R504), the tick of the last round, the tick at which another
  member's claim was last seen, consecutive rounds with this package's claim, its raise and its donation in mW, the group
  step seen last and whether the package was a leader (R507, R508). -/
  words : List (Nat × Nat)
  roundAt : Nat
  claimSeen : Nat
  claimRounds : Nat
  raise_ : Nat
  donation : Nat
  groupSeen : Nat
  /-- The PWR_QUERY block of the last sample (R510). -/
  snap : List Byte
deriving DecidableEq, Repr

/-- What an acceptance of jobs ended (R105, R527): a cause detected in its very tick counts as before it, and these come back. -/
structure AcceptMark where
  at_ : Nat
  consec : Nat
  mode : PowerMode
  clkState : Nat
  parkExit : Bool
  safe : Bool
  safePins : Bool
  len : Nat
  causes : Nat
  pllUnlock : Nat
deriving DecidableEq, Repr

/-- The safety mechanisms beside their registers (spec/17). -/
structure SafetyState where
  /-- Entry times of the last four safe states, newest first (R529 bit 6, always-on domain). -/
  entries : List Nat
  /-- FAULT_N stays asserted until this tick at least. -/
  holdUntil : Nat
  /-- The start-up hold of R601 is in force. -/
  startHold : Bool
  /-- The tick of the last change of SAF_HEARTBEAT in the present watch (R514). -/
  beatAt : Nat
  /-- Ticks at which each triplet core was the odd one (R519): pairs (core, tick), newest first. -/
  odds : List (Nat × Nat)
  /-- A core is being resynchronised, and a core is retired. -/
  resync : Option Nat
  retired : Option Nat
  /-- The tick at which refclk_bad was last set (R528). -/
  refBadAt : Nat
  /-- The tick of the last background run of CK01 to CK04 (R522). -/
  bgAt : Nat
  /-- The length of Tsuquel's code region, from the start of Sage working SRAM, and its SHA-384 recorded when it was
  loaded (R513). -/
  codeLen : Nat
  codeHash : List Byte
  /-- The ticks at which the last command-processor restart and the last triplet restart began, while they may still run
  (R513, R518). -/
  cpAt : Option Nat
  triAt : Option Nat
  /-- The tick at which each cause of FAULT_N was set last (R529). -/
  causeAt : List (Nat × Nat)
  /-- The last acceptance after a main-die attempt. -/
  accept : Option AcceptMark
deriving DecidableEq, Repr

/-- A field of one GPIO pad's park (R566): the function it had, the tick (or SLOW count) at which the park ends, the
frozen input and the level driven, if any. -/
structure PadState where
  /-- The function now connected: 0, 1, or 2 for isolation and 3 for boundary scan. -/
  func : Nat
  /-- The function that will take the pad at the end of the park. -/
  target : Nat
  parking : Bool
  /-- The end of the park, in ticks or, when `slowPark`, in SLOW counts. -/
  endAt : Nat
  slowPark : Bool
  /-- The level the pad is driven to or, when not driven by a function, held at. -/
  level : Bool
  /-- The old function drives its level through the park (R569). -/
  keepDrive : Bool
  /-- What the connected function's input sees, apart from the samples still in its two-stage synchroniser (R567): whether
  SLOW clocks them, the count at which each is visible, and its value, oldest first. -/
  inp : Bool
  pend : List (Bool × Nat × Bool)
  /-- The value frozen for function 0. -/
  frozen : Bool
  /-- The value function 1's input last saw. -/
  frozen1 : Bool
deriving DecidableEq, Repr

def PadState.init : PadState := ⟨0, 0, false, 0, false, false, false, false, [], false, false⟩

/-- The JTAG TAP (R579 to R581): the selected instruction's code, the boundary register and whether scan holds the pads. -/
structure TapState where
  ir : Nat
  boundary : List Bool
  holds : Bool
deriving DecidableEq, Repr

/-- The event generators: whether each drives its active level, and the next pulse number (R575). -/
structure EvtState where
  active : Bool
  nextK : Nat
deriving DecidableEq, Repr

/-- A reply's variable fields (R112). -/
structure Reply where
  status : Nat
  detail : Nat
  energy : Nat
  ctime : Nat
  faultAddr : Nat
deriving DecidableEq, Repr

/-- How far a consumed packet has come: validated, its work started, waiting for an arrival or an event, its output due to be
written, or ended with its record not yet written (R135). -/
inductive PktPhase where
  | consumed | started | waiting | writing | ended
deriving DecidableEq, Repr

/-- The output of a packet whose wait is over: where it goes, its bytes, and the status and detail that follow. -/
structure PktOut where
  va : Nat
  bytes : List Byte
  status : Nat
  detail : Nat
deriving DecidableEq, Repr

/-- Tsuquel's own copy of a consumed packet (R119) whose completion record has not been written. -/
structure Pkt where
  q : Nat
  idx : Nat
  slotAddr : Nat
  opcode : Nat
  flags : Nat
  seq : Nat
  inst : Nat
  lane : Nat
  lc : Bool
  deadline : Nat
  replyAddr : Nat
  params : List Byte
  /-- TIME of consumption (R293), and of the start of its work (R471). -/
  at_ : Nat
  began : Nat
  phase : PktPhase
  reply : Option Reply
  /-- Progress of an opcode that works in several steps: frames sent or received so far. -/
  prog : Nat
  /-- The output due to be written (phase `writing`). -/
  out : Option PktOut
deriving DecidableEq, Repr

/-- One command queue beside its registers (R118, R122): head, done, orphan_count, orphan_reply, how often its
completion interrupt was raised, and whether a write of its status block is due. -/
structure QueueState where
  head : Nat
  done : Nat
  orphans : Nat
  orphan : List Byte
  irqs : Nat
  due : Bool
deriving DecidableEq, Repr

def QueueState.init : QueueState := ⟨0, 0, 0, [], 0, false⟩

/-- One access offered to a pacer: its master_id, its urgency master (0 to 3 a display output, 4 to 7 a sensor port, 8 CAN,
9 none), 8 × lane + class, its units, and whether it was admitted when it was offered. -/
structure PaceAcc where
  master : Nat
  urg : Nat
  key : Nat
  units : Nat
  ok : Bool
deriving DecidableEq, Repr

/-- What the pacers do with the accesses of the effect being carried out: count them, offer them one by one and list them
(latest first), or nothing, because they have been admitted already. Between steps it is always `direct`. -/
inductive PaceMode where
  | direct | collect (l : List PaceAcc) | mute
deriving DecidableEq, Repr

/-- A device's work whose accesses may wait for the pacers: a host core's load or store, a PCIe request, what a sensor port
received (FS, FE, a line) or timed out, an Ethernet descriptor to send, and a received Ethernet frame. -/
inductive DevAct where
  | host (core : Nat) (machine : Bool) (addr len : Nat) (store : Option (List Byte))
  | pcie (k : Nat) (req : PcieReq)
  | frameStart (t : Nat) (ecc : HeaderEcc)
  | frameEnd (t : Nat) (ecc : HeaderEcc)
  | line (t : Nat) (ecc : HeaderEcc) (dt : Nat) (crcBad : Bool) (kept : Option Nat) (pixels : List Nat)
  | frameTimeout (t : Nat)
  | netTx (n : Nat)
  | netRx (n : Nat) (fcsOk : Bool) (frame : List Byte)
deriving DecidableEq, Repr

/-- What waits for the pacers: the start of a packet's work, the consumption of a queue's next packet, a packet's effect, a
completion record, a status block, a job's present work, the accesses of copy `n` of a tile, a display output's frame, the
blocks of an output restored at an acceptance, a CAN receive-ring entry, or the work of another device. -/
inductive HeldAct where
  | start (q idx : Nat) | consume (q : Nat) | packet (q idx : Nat) | record (q : Nat) | status (q : Nat)
  | job (q idx : Nat) | copy (t n : Nat) | frame (o : Nat) | latch (o : Nat) | canRx (c : Nat) | device (c : DevAct)
deriving DecidableEq, Repr

/-- Work that waits at the fabric entry (R283, R285): whether its accesses have been offered, those not admitted yet, and the
tick at which it came. -/
structure Wait where
  act : HeldAct
  seen : Bool
  todo : List PaceAcc
  at_ : Nat
deriving DecidableEq, Repr

/-- The pacers beside their registers (spec/08): what they do with accesses now, the work that waits in the order in which it
came, the lane each display output and sensor port was last charged to plus one (R287), the master served last (R286), the
(lane, class) pairs that held or overran in this window, the budgets that take effect at the next boundary, the window
last begun and how many FAB cycles (of 64) a lower URG condition has held per master. -/
structure PaceState where
  mode : PaceMode
  waits : List Wait
  urgLane : List (Nat × Nat)
  served : Nat
  held : List Nat
  overran : List Nat
  budgetNext : List (Nat × Nat)
  /-- The words of PACE_URG_CFG (keys 0 to 7) and SRCH_CTX_MAX (keys 8, 9) still in effect until the next boundary after a
  write of the register (R304, R410). -/
  urgOld : List (Nat × Nat)
  window : Nat
  /-- Budgets and stall limits of the defined lanes on the Sage die. -/
  budgetRec : List (Nat × Nat)
  stallRec : List (Nat × Nat)
  /-- ctx_max of each Sorrel engine on the Sage die (R410). -/
  ctxRec : List (Nat × Nat)
deriving DecidableEq, Repr

/-- A lane as LANE_CONFIG defined it (R161, R260), kept on the Sage die. -/
structure LaneRec where
  tiles : Nat
  chans : Nat
  ways : Nat
  bayBase : Nat
  bayLen : Nat
  ckptBase : Nat
  ckptLen : Nat
  retry : Nat
  paired : Bool
deriving DecidableEq, Repr

/-- A Bay reload record (R165): the lane, the Bay offset in bytes and the physical source pieces (address, length, key
slot). -/
structure ReloadRec where
  lane : Nat
  bayOff : Nat
  segs : List (Nat × Nat × Nat)
deriving DecidableEq, Repr

/-- An instance beside its registers: the event flags (R152), the quiesce or freeze in progress (0 none, 1 quiesce in
drain mode, 2 in stop mode, 3 freeze) with the packet that asked for it and how many packets have ended with ST_QUIESCED
or paused in it, the notices since its mailbox was registered (R470), the tick of its last
instance-class opcode (R467), and the Sage record of its translation format and root (R620). -/
structure InstRec where
  events : Nat
  busy : Nat
  op : Option (Nat × Nat)
  ended : Nat
  notices : Nat
  changedAt : Nat
  fmt : Nat
  root : Nat
deriving DecidableEq, Repr

def InstRec.init : InstRec := ⟨0, 0, none, 0, 0, 0, 0, 0⟩

/-- A search index (R172, R391 to R405), kept on the Sage die (R396): its owner, the parameters of IDX_CREATE, the layout,
the published and the oldest retained epoch, the first epoch of each area, the active area, slots published and staged,
the graph entry slots, the list blocks in use, whether anything is staged, and whether IDX_DESTROY has begun. -/
structure IdxRec where
  owner : Nat
  structure_ : Nat
  code : Nat
  dim : Nat
  m : Nat
  sketch : Nat
  shape : Nat
  cap : Nat
  storeVa : Nat
  storeLen : Nat
  params : List Byte
  layout : Nat
  epoch : Nat
  oldest : Nat
  areaStart : List Nat
  active : Nat
  slotsPub : Nat
  slotsStaged : Nat
  entrySlot : List Nat
  poolNext : Nat
  dirty : Bool
  closing : Bool
deriving DecidableEq, Repr

/-- The job opcodes (R146). -/
inductive JobKind where
  | run | search | gfx | build
deriving DecidableEq, Repr

/-- Where a job stands: its next kernel is ready, a kernel runs, it is paused by a freeze (R474), its last kernel has
ended, or its journal entry is sealed (R546). -/
inductive JobPhase where
  | ready | running | paused | ended | sealed
deriving DecidableEq, Repr

/-- A 64-byte unit of a destination in staging (R542): its key slot and bytes. -/
structure StagedUnit where
  slot : Nat
  bytes : List Byte
  /-- Part of the unit comes from a poisoned line of the destination that no write of the attempt covers (R277). -/
  bad : Bool
deriving DecidableEq, Repr

/-- One conversion statistics slot (R357). -/
structure QStat where
  count : Nat
  clipped : Nat
  nonfin : Nat
  sse : Nat
deriving DecidableEq, Repr

def QStat.init : QStat := ⟨0, 0, 0, 0⟩

/-- A sequence an attempt has appended to (R374): the Bay address of its entry, the committed length it started from and
the attempt's length. -/
structure KvRec where
  entry : Nat
  start : Nat
  len : Nat
deriving DecidableEq, Repr

/-- The state of a graphics context (R416, R417): the surface descriptors bound to slots 0 to 4, the shader binaries'
addresses plus 1 (0: none), the STATE, VERTEX and BINS commands as submitted (empty: not set). -/
structure GfxState where
  targets : List (Nat × List Byte)
  vertexShader : Nat
  fragShader : Nat
  state : List Byte
  vertex : List Byte
  bins : List Byte
deriving DecidableEq, Repr

def GfxState.init : GfxState := ⟨[], 0, 0, [], [], []⟩

/-- A graphics context: the instance it is bound to and its committed state. -/
structure GfxCtx where
  owner : Option Nat
  st : GfxState
deriving DecidableEq, Repr

def GfxCtx.init : GfxCtx := ⟨none, GfxState.init⟩

/-- A job's claim of a sequence (R377): its entry's address, the tick of the first append, and the pipeline, kernel, step and
entry that made it. -/
structure Claim where
  entry : Nat
  since : Nat
  pipe : Nat
  kernel : Nat
  step : Nat
  item : Nat
deriving DecidableEq, Repr

/-- A job: the packet it belongs to, its attempt (R537 to R539), its kernel, its placement, staging, checkpoint copies and
commit. -/
structure Job where
  q : Nat
  idx : Nat
  inst : Nat
  lane : Nat
  kind : JobKind
  phase : JobPhase
  kernel : Nat
  nKernel : Nat
  /-- Restarts allowed, restarts that consumed a retry, restarts used, and the attempt number (R157, R538, R315). -/
  retries : Nat
  used : Nat
  restarts : Nat
  attempt : Nat
  /-- The attempt's stall limit and the tick of its last progress event (R299, R300). -/
  stall : Nat
  progressAt : Nat
  /-- The tick at which its kernel was dispatched (R375). -/
  kernelAt : Nat
  readyAt : Nat
  /-- Its first kernel has been dispatched (R471). -/
  started : Bool
  /-- Primary physical tile of each logical tile (R314); shared engines held: 0, 1 attention pipelines, 2, 3 Sorrel
  engines, 4 the graphics core. -/
  bind : List Nat
  units : List Nat
  /-- The job image, or the graphics stream, as Tsuquel read it at the start. -/
  image : List Byte
  /-- Checkpoint copies by physical address and key slot, and the 4 KiB pages they take (R543). -/
  ckpt : List (Nat × Nat × List Byte)
  ckptPages : Nat
  /-- Staged units by line of the destination (R542). -/
  staging : List (Nat × Option StagedUnit)
  /-- Lines of the in-place buffers that were poisoned when the checkpoint copies were made. -/
  ckptBad : List Nat
  /-- A master waits for a staging page (R544): the virtual address of the write. -/
  waitPage : Option Nat
  /-- Side-effect descriptors, and how many are done (R546). -/
  sides : List (List Byte)
  sidesDone : Nat
  /-- The epoch and slots_pub each publication side effect writes, fixed at the seal (R546). -/
  pubs : List (Option (Nat × Nat))
  /-- Step of a sealed commit: 0 nothing copied yet, 1 copied. -/
  copied : Bool
  /-- The tick at which its last kernel ended (R547). -/
  endedAt : Nat
  stats : List (Nat × QStat)
  /-- Energy in units of 1 fJ ÷ 722,500 (R509). -/
  energy : Nat
  kv : List KvRec
  /-- Sequences the job owns (R377). -/
  owns : List Claim
  /-- What the running attention kernel sees (R375): the committed lengths and the attempt's own at its start. -/
  kvSeen : List Nat
  kvBase : List KvRec
  /-- The step reached in an attention kernel's list, or the byte position in a graphics stream. -/
  pos : Nat
  /-- The epoch a search batch is bound to (R160); for an IDX_BUILD, 1 once its index has been destroyed. -/
  epoch : Nat
  /-- The slot bound of a search batch (R400), its queries that ended EMPTY, and the job's status so far (R160). For an
  IDX_BUILD: the slots of the area built, its list blocks, and its entry slot in `pos`. -/
  bound : Nat
  empties : Nat
  status : Nat
  /-- Graphics (R413, R417, R422): the context state, whether the pass has drawn, whether BINS has come in it, its binned
  entries so far, whether END has come, and the fragments in flight. -/
  gfx : GfxState
  drew : Bool
  binned : Bool
  binFill : Nat
  gfxEnd : Bool
  frags : List Frag
  /-- The restart of R553 or R483: the attempt begins at thaw. -/
  fresh : Bool
deriving DecidableEq, Repr

/-- A piece of a translated range: physical address, key slot, length, and whether its page forbids cache allocation. -/
structure Piece where
  pa : Nat
  slot : Nat
  len : Nat
  noAlloc : Bool
deriving DecidableEq, Repr

/-- A copy in flight (R321, R324): its number, its direction, the remote pieces, the local address, the token, whether staged
bytes stand for its remote location (R323, R541), and the untranslated address of its first byte. -/
structure Copy where
  num : Nat
  load : Bool
  remote : List Piece
  local_ : Nat
  tok : Nat
  staged : Bool
  va : Nat
deriving DecidableEq, Repr

/-- A weight buffer (R315, R349): the mode of the WLD that last filled it (3: none) and its block. -/
structure WBuf where
  mode : Nat
  bytes : List Byte
deriving DecidableEq, Repr

/-- A matrix operation in the unit (R325): the slot's word and the descriptor it reads. -/
structure MatOp where
  word : Nat
  feeder : List Byte
deriving DecidableEq, Repr

/-- A write a slot of the bundle will make when the bundle retires (R317 to R319). -/
inductive SlotWrite where
  | sreg (d v : Nat)
  | vreg (d : Nat) (lanes : List Nat)
  | acc (row : Nat) (lanes : List Nat)
  | mem (addr : Nat) (bytes : List Byte)
  | stat (slot : Nat) (x : QStat)
  | copy (c : Copy)
  | weights (w mode addr : Nat)
  | matrix (m : MatOp)
  | feeder (f : Nat) (bytes : List Byte)
  | sat (n : Nat)
deriving DecidableEq, Repr

/-- An active loop (R327): first bundle of the body, the bundle after it, and the runs left. -/
structure LoopRec where
  first : Nat
  after : Nat
  left : Nat
deriving DecidableEq, Repr

/-- What a bundle does to the tile's control flow when it retires. -/
inductive CtlOp where
  | step
  | jump (target : Nat)
  | loop (body count : Nat)
  | stop
deriving DecidableEq, Repr

/-- A wait that holds a bundle (R328): for tokens, at a barrier, or at END. -/
inductive TileWait where
  | tokens (mask : Nat) | bar | endCopies
deriving DecidableEq, Repr

/-- A tile in a kernel, beside its TILE_ registers. -/
structure TileRec where
  /-- The packet of the job whose kernel runs here. -/
  job : Option (Nat × Nat)
  /-- The instance whose kernel ran here last (R309). -/
  lastInst : Option Nat
  code : List Byte
  pc : Nat
  sregs : List (Nat × Nat)
  /-- Lane `j` of v[d] at 64 × d + j; accumulator lanes likewise by row. -/
  vregs : List (Nat × Nat)
  acc : List (Nat × Nat)
  weights : List (Nat × WBuf)
  /-- Weight loads under way: buffer, mode, local address and bundle. -/
  loading : List (Nat × Nat × Nat × Nat)
  feeders : List (Nat × List Byte)
  tokens : List (Nat × Nat)
  copies : List Copy
  loops : List LoopRec
  matrix : Option MatOp
  stats : List (Nat × QStat)
  /-- Slots of the present bundle already carried out (bits 0 LS, 1 MX, 2 VX, 3 CT), their writes and the control effect. -/
  slots : Nat
  writes : List SlotWrite
  ctl : CtlOp
  wait : Option TileWait
  ended : Bool
deriving DecidableEq, Repr

def TileRec.init : TileRec :=
  ⟨none, none, [], 0, [], [], [], [], [], [], [], [], [], none, [], 0, [], .step, none, false⟩

/-- A sensor frame being received (R438, R439): its descriptor's index, buffer, FS time, number, lines written and flags. -/
structure SensFrame where
  desc : Nat
  buf : Nat
  time : Nat
  no : Nat
  lines : Nat
  flags : Nat
deriving DecidableEq, Repr

/-- The record of an enabled stream, kept on the Sage die (R442): owner, STREAM_SENSOR parameters, next descriptor, frames
started; whether the next frame written carries gap or restart; and the frame now open, with whether it is dropped. -/
structure SensRec where
  owner : Nat
  params : List Byte
  next : Nat
  frames : Nat
  gap : Bool
  restart : Bool
  frame : Option SensFrame
  dropping : Bool
deriving DecidableEq, Repr

/-- What a display output has latched (R430): its layer entries and timing block, and the pixels of its present frame at
output depth, row by row (R427). -/
structure DispRec where
  layers : List (List Byte)
  timing : List Byte
  pixels : List (List (List Nat))
deriving DecidableEq, Repr

def DispRec.init : DispRec := ⟨[], [], []⟩

/-- A frame in a host queue of a CAN controller, with the STREAM_CAN_TX packet it belongs to, if any. -/
structure CanQueued where
  frame : CanFrame
  pkt : Option (Nat × Nat)
deriving DecidableEq, Repr

/-- A CAN controller beside its registers (R448 to R454): its rates, receive ring, filters, frames received so far, the
router and host queues, and the entries held while memory is out of reach. -/
structure CanRec where
  nominal : Nat
  dataRate : Nat
  rxAddr : Nat
  rxLog2 : Nat
  filters : List (List Byte)
  seq : Nat
  router : List CanFrame
  host : List CanQueued
  held : List (List Byte)
deriving DecidableEq, Repr

def CanRec.init : CanRec := ⟨0, 0, 0, 0, [], 0, [], [], []⟩

/-- Display, sensors, Ethernet, CAN and PCIe (spec/13, spec/14). -/
structure IoState where
  sens : List (Nat × Option SensRec)
  disp : List (Nat × DispRec)
  /-- The Sage record of an enabled output (R433): owner, layer_addr and timing_addr. -/
  dispSaved : List (Nat × Option (Nat × Nat × Nat))
  /-- Next transmit and receive descriptor of each Ethernet port. -/
  net : List (Nat × (Nat × Nat))
  /-- Ethernet frames sent, by port, newest first, without their FCS. -/
  netOut : List (Nat × List Byte)
  can : List (Nat × CanRec)
  /-- CAN frames sent, by controller, newest first. -/
  canOut : List (Nat × CanFrame)
  /-- Fallback router entries of 8 bytes as STREAM_ROUTER gives them (R456). -/
  routes : List (Nat × List Byte)
  /-- Controllers that a dominant level has woken in PARK (R455). -/
  canAwake : List Nat
  /-- MSI-X table bytes, at 64 × port + offset. -/
  msix : List (Nat × Byte)
  /-- The latest completion of an inbound read: port, 0 success, 1 Unsupported Request, 2 EP set, and its data (R459). -/
  completion : Option (Nat × Nat × List Byte)
deriving DecidableEq, Repr

/-- A ring port in training or in relocking (R205, R244): consecutive training sets and /TS2/ received, /TS2/ sent, the tick
at which the training run began, and the tick at which a sleeping receiver detected signal. -/
structure RingPort where
  seen : Nat
  seen2 : Nat
  sent2 : Nat
  since : Nat
  signalAt : Option Nat
  ts1 : Nat
  rxRd : Option Bool
deriving DecidableEq, Repr

def RingPort.init : RingPort := ⟨0, 0, 0, 0, none, 0, none⟩

/-- A DATA frame at its source (R222 to R224): destination, payload, the RING_SEND packet or the side effect (job and descriptor)
that waits for it, its seq once sent, RESYNC, transmissions so far, and when it last left, while it is out. -/
structure DataOut where
  dst : Nat
  payload : List Byte
  pkt : Option (Nat × Nat)
  side : Option (Nat × Nat × Nat)
  seq : Nat
  resync : Bool
  sends : Nat
  sentAt : Nat
  flying : Bool
deriving DecidableEq, Repr

/-- The sweep node 0 runs (R235): its sweep_id, the RING_SWEEP packet or none for a PARK sweep, legs so far, the lane of the
leg now out, since when it waits, the members asked for a RECOLLECT that have not replied (empty: a leg is out), the first
leg's start time, the members expected, the records by node (recollected ones marked), and whether its next move waits until
the main die accepts jobs. -/
structure SweepRun where
  id : Nat
  pkt : Option (Nat × Nat)
  legs : Nat
  second : Bool
  since : Nat
  asked : List Nat
  asking : Bool
  start : Nat
  expected : Nat
  records : List (Nat × List Byte)
  due : Bool
deriving DecidableEq, Repr

/-- The probe node 0 runs (R240, R241): its probe_id, packet, legs, lane, waiting since, whether a leg has returned, the
entries in order of arrival, and whether its end waits until the main die accepts jobs. -/
structure ProbeRun where
  id : Nat
  pkt : Nat × Nat
  legs : Nat
  second : Bool
  since : Nat
  returned : Bool
  entries : List (List Byte)
  due : Bool
deriving DecidableEq, Repr

/-- A RECOLLECT request whose reply is awaited: its seq, the node asked, the sweep_id, and the RING_RECOLLECT packet, or
none for a request of the sweep; and the record that came back while the main die did not accept jobs. -/
structure RingAsk where
  seq : Nat
  node : Nat
  id : Nat
  pkt : Option (Nat × Nat)
  got : Option (List Byte)
deriving DecidableEq, Repr

/-- The ring beside its registers (spec/06). Ports: 0 A, 1 B. -/
structure RingState where
  ports : List (Nat × RingPort)
  /-- The held sweep_id and record (R230), the last probe_id appended to, and the last probe_id issued. -/
  holdId : Nat
  holdRec : List Byte
  probeSeen : List Nat
  probeId : Nat
  /-- The number of the last RECOLLECT request sent, and those answered. -/
  askSeq : Nat
  answered : List Nat
  asks : List RingAsk
  /-- Baton (R220, R221): the generations used here; at node 0 the one last issued and since when it is out. -/
  batonUsed : List Nat
  batonGen : Nat
  batonOut : Option Nat
  /-- Node 0 sends the sleep sequence when it next holds the baton (R244). -/
  sleepDue : Bool
  dataOut : List DataOut
  /-- The last seq used towards each destination, and the destinations whose next frame carries no RESYNC. -/
  txSeq : List (Nat × Nat)
  synced : List Nat
  /-- The last seq delivered from each source, plus one (0: none), and the receive queue as 528-byte records (R239). -/
  rxSeq : List (Nat × Nat)
  rxQueue : List (List Byte)
  /-- The latest WRAP notice of each node: port, state, and the hops it had made (R234, R236); and the notices acted on, by
  node, port, state and held sweep_id. -/
  seams : List (Nat × (Nat × Nat × Nat))
  wrapSeen : List (Nat × Nat × Nat × Nat)
  /-- Own frames that came back on the port they left by and went on: type, seq, tag and wrap_node (R216). -/
  passed : List (Nat × Nat × Nat × Nat)
  /-- The last sync count sent, those received, when the last came or went, and the lag words as they returned to node 0. -/
  syncCount : Nat
  syncSeen : List Nat
  syncAt : Nat
  lags : List Nat
  sweep : Option SweepRun
  probe : Option ProbeRun
  /-- T32 nodes of the latest RING_PROBE table (R184). -/
  t32s : Nat
  /-- RING_PARK_CFG in effect: fill_kib and thresholds; and one that takes effect at the next sweep-timer expiry. -/
  fillKib : Nat
  thresholds : List (List Byte)
  parkNext : Option (Nat × List (List Byte))
  /-- A PARK sweep waits for the ports to relock. -/
  parkDue : Bool
  /-- RING_CONFIG has set the node address since reset (R198, SYS_INFO). -/
  configured : Bool
  /-- What A_TX and B_TX sent, newest first: port and 8b/10b code-groups (R202); and the running disparity each port left. -/
  sent : List (Nat × List Nat)
  txRd : List (Nat × Bool)
deriving DecidableEq, Repr

def RingState.init : RingState :=
  ⟨[], 0, [], [], 0, 0, [], [], [], 0, none, false, [], [], [], [], [], [], [], [], 0, [], 0, [], none, none, 0, 448, [], none, false,
   false, [], []⟩

/-- A line of the system-level cache (R254 to R256, R276). -/
structure CacheLine where
  line : Nat
  way : Nat
  slot : Nat
  dirty : Bool
  stamp : Nat
deriving DecidableEq, Repr

/-- A cached translation (R270): instance, level of the leaf, virtual page number at that level and the entry. -/
structure TlbEntry where
  inst : Nat
  level : Nat
  vpn : Nat
  entry : Nat
deriving DecidableEq, Repr

/-- Memories and the translation unit (spec/07). -/
structure MemState where
  /-- Tile SRAM, Bay SRAM, LPDDR5X, Sage working SRAM and retention SRAM by physical address. -/
  mem : List (Nat × Byte)
  /-- Ranges (first address, address after the last, number of the loss) whose contents were lost (R36) and that nothing has
  written since: their bytes are Config.lostByte. -/
  lost : List (Nat × Nat × Nat)
  /-- Boot flash by flash address; an unlisted byte is erased (0xFF). -/
  flash : List (Nat × Byte)
  /-- Lines (physical address ÷ 64) that are poisoned (R277). -/
  poison : List Nat
  /-- The tick after that of the last poisoning recorded, and of each instance's last recorded fault (0: none): of several in
  one tick the registers hold the one of R272 and of MEM_POISON. -/
  poisonAt : Nat
  faultAt : List (Nat × Nat)
  /-- The key slot an LPDDR5X line is held under: 0 plaintext, i + 1 instance i (R276). -/
  lineKey : List (Nat × Nat)
  cache : List CacheLine
  cacheClock : Nat
  tlb : List TlbEntry
  /-- The instances' AES-XTS key pairs in the key store (R274). -/
  keys : List (Nat × List Byte)
  /-- The key store's rollback floor (R87, R155). -/
  floor : Nat
  /-- The Sage record of the main-die blocks' RWL fields and LOCK bits, by register address (R613). -/
  lockRec : List (Nat × Word)
  /-- Patrol scrub positions, in words of tile and Bay SRAM (R252). -/
  scrubTile : Nat
  scrubBay : Nat
deriving DecidableEq, Repr

/-- What the bus answered the last access with: the data, and whether it was an error response (for a host core, an
access-fault exception). -/
structure BusState where
  data : Nat
  fault : Bool
  /-- Upper halves latched by a read of a _LO register: key master × 2^40 + address of the _HI register (R607). -/
  latches : List (Nat × Nat)
  /-- Interrupts raised, by source: how many times each. Host-core sources 32 + queue, 96 + stream (R462), 112 + instance
  and 128 + instance for a mailbox (R469), 160 + core for a timer (R60); 256 + 4 × port + vector for MSI-X. -/
  irqs : List (Nat × Nat)
deriving DecidableEq, Repr

/-- Why a step stops. -/
inductive Fault where
  /-- An access to physical memory outside every memory the package has, made with the physical tag by a meaning. No
  meaning raises it: every access is checked first. Safe. -/
  | noSuchMemory (addr : Nat)
deriving DecidableEq, Repr

/-- Why a command has no meaning. -/
inductive Refusal where
  /-- The command is not modelled yet. Safe. -/
  | notModelled (mnemonic : String)
deriving DecidableEq, Repr

/-- The T32. -/
structure State where
  regs : List (Nat × Word)
  clk : ClockState
  boot : BootState
  pins : Pins
  pwr : PowerState
  saf : SafetyState
  pads : List (Nat × PadState)
  tap : TapState
  evts : List (Nat × EvtState)
  ms : MemState
  bus : BusState
  queues : List (Nat × QueueState)
  /-- Consumed packets without a completion record, in the order of consumption. -/
  pkts : List Pkt
  pace : PaceState
  /-- Defined lanes by number. -/
  lanes : List (Nat × Option LaneRec)
  reloads : List ReloadRec
  /-- PCIe links that are up, and what has gone out through the outbound windows: port, PCIe address and bytes, newest
  first. -/
  pcieUp : List Nat
  pcieOut : List (Nat × Nat × List Byte)
  insts : List (Nat × InstRec)
  idxs : List (Nat × Option IdxRec)
  jobs : List Job
  tiles : List (Nat × TileRec)
  /-- Graphics contexts 0 to 15 (R416). -/
  gctx : List (Nat × GfxCtx)
  /-- The lane served last by each shared engine kind for best-effort work (R293). -/
  rrLane : Nat
  /-- Lanes held at their kernel boundaries by a SAF_TEST (R188). -/
  testHold : Bool
  io : IoState
  ring : RingState
  /-- The model's own: how many free values have been used. -/
  free : Nat
  /-- Commands waiting, first in, first out. -/
  pending : List Instr
deriving DecidableEq, Repr

/-- The machine right after a power-on reset, POR_N still low (R79, R15). -/
def State.reset : State where
  regs := []
  clk := ⟨0, false, 0, false, false, false, .off, false, none, [7, 7, 7, 7], [], false, false, [], [], [], 0⟩
  boot := ⟨.held, .idle, 0, 0, none, 0, false, false, false, false, 0, .none, [], ⟨0, false, false, false, [], false, []⟩,
    false, none, false, false, 0, false⟩
  pins := ⟨false, true, true, true, false, true, true⟩
  pwr := ⟨[], [], .failed, 0, none, [], 0, false, [], [], none, 0, 0, 0, [], 0, 0, 0, 0, 0, 0, []⟩
  saf := ⟨[], 0, true, 0, [], none, none, 0, 0, 0, [], none, none, [], none⟩
  pads := []
  tap := ⟨2, [], false⟩
  evts := []
  ms := ⟨[], [], [], [], 0, [], [], [], 0, [], [], 0, [], 0, 0⟩
  bus := ⟨0, false, [], []⟩
  queues := []
  pkts := []
  pace := ⟨.direct, [], [], 0, [], [], [], [], 0, [], [], []⟩
  lanes := []
  reloads := []
  pcieUp := []
  pcieOut := []
  insts := []
  idxs := []
  jobs := []
  tiles := []
  gctx := []
  rrLane := 0
  testHold := false
  io := ⟨[], [], [], [], [], [], [], [], [], [], none⟩
  ring := RingState.init
  free := 0
  pending := []

end Sys2Proof.Machine
end

