-- ==== Sys2Proof/Machine/Ops.lean ====
section
/-! DEFINITION. The named operations over registers, the violation log, physical memory, the translation unit and DMA
that every meaning uses. -/

namespace Sys2Proof.Machine

/-- What a meaning answers. -/
abbrev Res := Host.Outcome State Fault Refusal

/-! ### Registers -/

/-- The word a register holds. -/
def State.rd (s : State) (a : Nat) : Word := tabGet regReset s.regs a

/-- A hardware or firmware update of a whole register. -/
def State.wr (s : State) (a : Nat) (v : Word) : State := { s with regs := tabPut regReset s.regs a v }

/-- A field of a register, as a number. -/
def State.getF (s : State) (f : FRef) : Nat := bits (s.rd f.addr).toNat f.lo f.width

/-- A hardware or firmware update of one field. -/
def State.setF (s : State) (f : FRef) (x : Nat) : State :=
  s.wr f.addr (BitVec.ofNat 32 (putBits (s.rd f.addr).toNat f.lo f.width x))

/-- A one-bit field as a Boolean. -/
def State.flag (s : State) (f : FRef) : Bool := s.getF f ≠ 0

/-- A wrapping count. -/
def State.addWrap (s : State) (f : FRef) (n : Nat) : State := s.setF f (s.getF f + n)

/-- A saturating count. -/
def State.addSat (s : State) (f : FRef) (n : Nat) : State := s.setF f (min (s.getF f + n) (2 ^ f.width - 1))

/-- A 64-bit value held in a LO and a HI field. -/
def State.get64 (s : State) (lo hi : FRef) : Nat := s.getF lo + 2 ^ 32 * s.getF hi

@[inherit_doc State.get64] def State.set64 (s : State) (lo hi : FRef) (v : Nat) : State :=
  (s.setF lo (v % 2 ^ 32)).setF hi (v / 2 ^ 32)

/-- Master TIME (R68). -/
def State.now (s : State) : Nat := s.clk.time

/-- What the TIME copy of a main-die domain shows at a master tick (R69): what the events of that domain are stamped with. -/
def State.timeAt (s : State) (d tick : Nat) : Nat :=
  (((tick : Int) + tabGet (fun _ => (0 : Int)) s.clk.copies d) % (2 : Int) ^ 64).toNat

@[inherit_doc State.timeAt] def State.nowAt (s : State) (d : Nat) : Nat := s.timeAt d s.clk.time

/-- Draw a free value. -/
def State.fresh (s : State) : Nat × State := (Config.freeValue s.free, { s with free := s.free + 1 })

/-- Raise an interrupt of a source (R136, R469, R439, R60). -/
def State.raise (s : State) (src : Nat) : State :=
  { s with bus := { s.bus with irqs := tabPut (fun _ => 0) s.bus.irqs src (tabGet (fun _ => 0) s.bus.irqs src + 1) } }

/-- Registers after a reset that reaches `lvl` (R79): 0 the main die, 1 the Sage die too, 2 everything. -/
def resetRegs (lvl : Nat) (regs : List (Nat × Word)) : List (Nat × Word) :=
  regs.filterMap fun e =>
    let w := regAfterReset lvl e.1 e.2
    if w = regReset e.1 then none else some (e.1, w)

/-! ### The violation log (R137 to R139) -/

/-- The packet an entry is about: queue, low byte of the status, opcode and seq. -/
structure LogCtx where
  queue : Nat
  status : Nat
  opcode : Nat
  seq : Nat
deriving DecidableEq, Repr

/-- An entry that concerns no packet. -/
def noCtx : LogCtx := ⟨0xFF, 0, 0, 0⟩

/-- Write the 8 words of an entry. -/
def writeWords (s : State) (a : Nat) : List Nat → State
  | [] => s
  | w :: ws => writeWords (s.wr a (BitVec.ofNat 32 w)) (a + 4) ws

/-- A violation-log entry (R139): written at slot WR mod 64; when the log is full the oldest entry goes. -/
def vlog (s : State) (kind addr master : Nat) (inst : Option Nat) (c : LogCtx) : State :=
  let wr := s.getF CMDP_VLOG_WR.wr
  let rd := s.getF CMDP_VLOG_RD.rd
  let full := (wr + 2 ^ 32 - rd) % 2 ^ 32 = 64
  let i := match inst with | some i => i % 16 | none => 0x80
  let s1 := writeWords s (CMDP_VLOG.addr (8 * (wr % 64)))
    [s.now % 2 ^ 32, s.now / 2 ^ 32, addr % 2 ^ 32, addr / 2 ^ 32, master + 2 ^ 16 * i + 2 ^ 24 * kind,
     c.queue + 2 ^ 8 * c.status + 2 ^ 16 * c.opcode, c.seq, wr]
  let s2 := s1.setF CMDP_VLOG_WR.wr (wr + 1)
  if full then (s2.setF CMDP_VLOG_RD.rd (rd + 1)).addSat CMDP_VLOG_LOST.lost 1 else s2

/-! ### Instances, lanes and rights -/

/-- The manager's instance (INST_CTRL). -/
def State.manager (s : State) : Nat := s.getF INST_CTRL.manager

/-- An instance's rights (R464): the manager's are all. -/
def classMask (s : State) (i : Nat) : Nat := if i = s.manager then 0x1FF else s.getF (INST_RIGHTS.class_mask i)
@[inherit_doc classMask] def laneMask (s : State) (i : Nat) : Nat :=
  if i = s.manager then 0xFF else s.getF (INST_RIGHTS.lane_mask i)
@[inherit_doc classMask] def lcMask (s : State) (i : Nat) : Nat :=
  if i = s.manager then 0xFF else s.getF (INST_RIGHTS.lc_mask i)

def State.lane (s : State) (l : Nat) : Option LaneRec := tabGet (fun _ => none) s.lanes l

/-- The defined lanes with their numbers. -/
def definedLanes (s : State) : List (Nat × LaneRec) :=
  (List.range 8).filterMap fun l => (s.lane l).map fun r => (l, r)

/-- Channels in no defined lane (R260). -/
def sharedChans (s : State) : Nat :=
  clrN 0xFFFF ((definedLanes s).foldl (fun m e => orN m e.2.chans) 0)

@[inherit_doc sharedChans] def sharedWays (s : State) : Nat :=
  clrN 0xFFFF ((definedLanes s).foldl (fun m e => orN m e.2.ways) 0)

/-! ### The physical address map (R246, R247) -/

/-- What a physical address reaches. -/
inductive Region where
  | sageRegs | sageSram | retention | mainRegs
  | bay (off : Nat)
  | tile (t : Nat)
  | dram (ch : Nat)
  | pcie (port : Nat)
  | nothing
deriving DecidableEq, Repr

/-- Bytes populated in each LPDDR5X slice (R247, R258). -/
def slicePop (s : State) : Nat := 2 ^ 29 * 2 ^ s.boot.dramCap

/-- The address map of R246. -/
def region (s : State) (pa : Nat) : Region :=
  if pa < 0x8000000 then .sageRegs
  else if pa < 0x8100000 then .sageSram
  else if pa < 0x8180000 then .retention
  else if 0x10000000 ≤ pa ∧ pa < 0x20000000 then .mainRegs
  else if 0x40000000 ≤ pa ∧ pa < 0x58000000 then .bay (pa - 0x40000000)
  else if 0x60000000 ≤ pa ∧ pa < 0x68000000 then .tile ((pa - 0x60000000) / 0x400000)
  else if 0x800000000 ≤ pa ∧ pa < 0x1000000000 then
    if (pa - 0x800000000) % 0x80000000 < slicePop s then .dram ((pa - 0x800000000) / 0x80000000) else .nothing
  else if 0x1000000000 ≤ pa ∧ pa < 0x5000000000 then .pcie 0
  else if 0x5000000000 ≤ pa ∧ pa < 0x9000000000 then .pcie 1
  else .nothing

/-- The lane that owns a target, if any (R280). -/
def ownerLane (s : State) (r : Region) : Option Nat :=
  ((definedLanes s).find? fun e => match r with
    | .bay off => decide (e.2.bayBase * 0x100000 ≤ off ∧ off < (e.2.bayBase + e.2.bayLen) * 0x100000)
    | .tile t => bitB e.2.tiles t
    | .dram ch => bitB e.2.chans ch
    | _ => false).map Prod.fst

/-! ### Physical memory -/

/-- What a byte nothing has written reads as: zero (Bay and tile SRAM by R253). -/
def memInit (_ : Nat) : Byte := 0

/-- The number of the loss that took the contents of an address, while nothing has written it since (R36). -/
def lostAt : List (Nat × Nat × Nat) → Nat → Option Nat
  | [], _ => none
  | e :: t, a => if e.1 ≤ a ∧ a < e.2.1 then some e.2.2 else lostAt t a

/-- Take the addresses from `lo` up to `hi` out of the lost ranges. -/
def unlose (lo hi : Nat) (l : List (Nat × Nat × Nat)) : List (Nat × Nat × Nat) :=
  l.flatMap fun e =>
    if hi ≤ lo ∨ e.2.1 ≤ lo ∨ hi ≤ e.1 then [e]
    else (if e.1 < lo then [(e.1, lo, e.2.2)] else []) ++ (if hi < e.2.1 then [(hi, e.2.1, e.2.2)] else [])

/-- A byte of physical memory; one whose contents were lost is a free value. -/
def rdByte (s : State) (pa : Nat) : Byte :=
  match lostAt s.ms.lost pa with
  | some n => Config.lostByte n pa
  | none => tabGet memInit s.ms.mem pa

/-- `n` bytes as they are held. -/
def rdRaw (s : State) (pa n : Nat) : List Byte := (List.range n).map fun i => rdByte s (pa + i)

def putBytes (m : List (Nat × Byte)) : Nat → List Byte → List (Nat × Byte)
  | _, [] => m
  | a, b :: bs => putBytes (tabPut memInit m a b) (a + 1) bs

/-- Store bytes as they are held. -/
def wrRaw (s : State) (pa : Nat) (bs : List Byte) : State :=
  { s with ms := { s.ms with mem := putBytes s.ms.mem pa bs, lost := unlose pa (pa + bs.length) s.ms.lost } }

/-- Fill a range with zeros (R253): its bytes read as unwritten, its lines lose their poison. -/
def zeroFill (s : State) (pa n : Nat) : State :=
  { s with ms := { s.ms with
      mem := tabErase (fun a => decide (pa ≤ a ∧ a < pa + n)) s.ms.mem
      lost := unlose pa (pa + n) s.ms.lost
      poison := s.ms.poison.filter fun l => !decide (pa ≤ 64 * l ∧ 64 * l + 64 ≤ pa + n)
      lineKey := tabErase (fun l => decide (pa ≤ 64 * l ∧ 64 * l + 64 ≤ pa + n)) s.ms.lineKey } }

/-- The key of a slot other than 0 (R274). -/
def slotKey (s : State) (k : Nat) : List Byte := tabGet (fun _ => []) s.ms.keys (k - 1)

def lineSlot (s : State) (line : Nat) : Nat := tabGet (fun _ => 0) s.ms.lineKey line

/-- Lines of LPDDR5X pass the cipher; others are held in plaintext (R275). -/
def dramLine (line : Nat) : Bool := decide (0x800000000 / 64 ≤ line ∧ line < 0x1000000000 / 64)

/-- A line as an access under key slot `k` sees it (R276): what the devices hold under its own slot, deciphered with the
access's. -/
def viewLine (s : State) (line k : Nat) : List Byte :=
  let raw := rdRaw s (64 * line) 64
  let j := lineSlot s line
  if dramLine line then
    if j = k then raw
    else
      let dev := if j = 0 then raw else xtsEnc (slotKey s j) (64 * line) raw
      if k = 0 then dev else xtsDec (slotKey s k) (64 * line) dev
  else raw

/-- The pieces of a range that lie in one 64-byte line each: (line, offset, length). -/
def lineSegsFuel : Nat → Nat → Nat → List (Nat × Nat × Nat)
  | 0, _, _ => []
  | f + 1, pa, n =>
    if n = 0 then [] else
      let l := min n (64 - pa % 64)
      (pa / 64, pa % 64, l) :: lineSegsFuel f (pa + l) (n - l)

def lineSegs (pa n : Nat) : List (Nat × Nat × Nat) := lineSegsFuel (n / 64 + 2) pa n

/-- Bytes of physical memory under a key slot. -/
def rdMem (s : State) (pa n slot : Nat) : List Byte :=
  (lineSegs pa n).flatMap fun g => slice (viewLine s g.1 slot) g.2.1 g.2.2

/-- Write one piece of a line under a key slot; a write of all 64 bytes clears poison (R277). -/
def wrSeg (s : State) (g : Nat × Nat × Nat) (slot : Nat) (bs : List Byte) : State :=
  let s0 := if g.2.2 = 64 then { s with ms := { s.ms with poison := setDel s.ms.poison g.1 } } else s
  if dramLine g.1 && decide (lineSlot s g.1 ≠ slot) then
    let whole := patch (viewLine s g.1 slot) g.2.1 bs
    let s1 := wrRaw s0 (64 * g.1) whole
    { s1 with ms := { s1.ms with lineKey := tabPut (fun _ => 0) s1.ms.lineKey g.1 slot } }
  else wrRaw s0 (64 * g.1 + g.2.1) bs

def wrSegs (s : State) (slot : Nat) : List (Nat × Nat × Nat) → List Byte → State
  | [], _ => s
  | g :: gs, bs => wrSegs (wrSeg s g slot (bs.take g.2.2)) slot gs (bs.drop g.2.2)

/-- Store bytes in physical memory under a key slot. -/
def wrMem (s : State) (pa slot : Nat) (bs : List Byte) : State := wrSegs s slot (lineSegs pa bs.length) bs

/-- The first poisoned line of a range. -/
def poisonIn (s : State) (pa n : Nat) : Option Nat :=
  s.ms.poison.find? fun l => decide (pa < 64 * l + 64 ∧ 64 * l < pa + n)

/-- MEM_POISON takes a poisoning: of several in one tick the one with the lower address. -/
def poisonShow (s : State) (line kind master : Nat) : State :=
  if s.ms.poisonAt = s.now + 1 ∧ s.get64 MEM_POISON_LO.lo MEM_POISON_HI.hi ≤ 64 * line then s
  else
    let s1 := (s.set64 MEM_POISON_LO.lo MEM_POISON_HI.hi (64 * line)).setF MEM_POISON_INFO.kind kind
    let s2 := s1.setF MEM_POISON_INFO.master master
    { s2 with ms := { s2.ms with poisonAt := s.now + 1 } }

/-- Record a poisoning (R277): the line, its kind (0 tile SRAM, 1 Bay SRAM, 2 cache, 3 LPDDR5X) and the first reader. -/
def poisonLine (s : State) (pa kind master : Nat) : State :=
  let s1 := poisonShow { s with ms := { s.ms with poison := setAdd s.ms.poison (pa / 64) } } (pa / 64) kind master
  s1.addSat (MEM_ECC_UE.n kind) 1

/-- The kind of memory an address lies in, in the order of MEM_ECC_UE. -/
def memKind (s : State) (pa : Nat) : Nat :=
  match region s pa with
  | .tile _ => 0
  | .bay _ => 1
  | _ => 3

/-- Destroy an instance's key (R196, R274): lines held under its slot keep the ciphertext the devices hold. -/
def dropKey (s : State) (i : Nat) : State :=
  let s1 := (s.ms.lineKey.filter fun e => decide (e.2 = i + 1)).foldl (fun t e =>
    let dev := viewLine t e.1 0
    let t1 := wrRaw t (64 * e.1) dev
    { t1 with ms := { t1.ms with lineKey := tabPut (fun _ => 0) t1.ms.lineKey e.1 0 } }) s
  { s1 with ms := { s1.ms with keys := tabPut (fun _ => []) s1.ms.keys i [] } }

/-! ### The system-level cache (R254 to R256, R276) -/

/-- One access to an LPDDR5X line: a hit in any way renews it; a miss allocates in the least recently used of the
permitted ways of its set. A hit under another key slot refills the line under the new one. -/
def cacheTouch (s : State) (line ways slot : Nat) (wr : Bool) : State :=
  let c := s.ms.cache
  let n := s.ms.cacheClock + 1
  match c.find? fun e => decide (e.line = line) with
  | some e =>
    let e' := { e with slot := slot, dirty := (e.slot = slot && e.dirty) || wr, stamp := n }
    { s with ms := { s.ms with cache := c.map (fun x => if x = e then e' else x), cacheClock := n } }
  | none =>
    let set := c.filter fun e => decide (e.line % 32768 = line % 32768)
    let allowed := maskBits 16 ways
    match allowed.find? fun w => !(set.any fun e => decide (e.way = w)) with
    | some w => { s with ms := { s.ms with cache := ⟨line, w, slot, wr, n⟩ :: c, cacheClock := n } }
    | none =>
      let cand := set.filter fun e => decide (e.way ∈ allowed)
      match cand.foldl (fun (b : Option CacheLine) e => match b with
          | none => some e
          | some x => if e.stamp < x.stamp then some e else b) none with
      | none => s
      | some v => { s with ms := { s.ms with
          cache := ⟨line, v.way, slot, wr, n⟩ :: c.filter (fun e => e ≠ v), cacheClock := n } }

/-- Touch every LPDDR5X line of some segments. -/
def touchLines (s : State) (ways slot : Nat) (wr : Bool) (segs : List (Nat × Nat × Nat)) : State :=
  segs.foldl (fun t g => if dramLine g.1 then cacheTouch t g.1 ways slot wr else t) s

/-- A physical-tag access passes the cache and may allocate in the shared ways (R254, R255, R264). -/
def physTouch (s : State) (pa n slot : Nat) (wr : Bool) : State := touchLines s (sharedWays s) slot wr (lineSegs pa n)

/-- The pieces (address, length, key slot) of a physical-tag read pass the cache. -/
def physRead (s : State) (segs : List (Nat × Nat × Nat)) : State :=
  segs.foldl (fun t g => physTouch t g.1 g.2.1 g.2.2 false) s

/-- A physical-tag write (R264). -/
def physWr (s : State) (pa slot : Nat) (bs : List Byte) : State := wrMem (physTouch s pa bs.length slot true) pa slot bs

/-- Where the poisoned lines lie in a read of pieces, as (offset, length) from its start. -/
def badSpans (s : State) : Nat → List (Nat × Nat × Nat) → List (Nat × Nat)
  | _, [] => []
  | o, g :: gs =>
    ((lineSegs g.1 g.2.1).filterMap fun l =>
      if l.1 ∈ s.ms.poison then some (o + (64 * l.1 + l.2.1 - g.1), l.2.2) else none) ++ badSpans s (o + g.2.1) gs

/-- Poison the lines of a list that lie in memory (R277). -/
def poisonAll (s : State) (lines : List Nat) : State :=
  lines.foldl (fun t l => poisonLine t (64 * l) (memKind t (64 * l)) 0x70) s

/-- A copy that Tsuquel makes carries poison with it, as a commit's does (R549). The spec leaves it to Tsuquel (R277).
DESIGN CHOICE (assumption 127). -/
def carryPoison (s : State) (dst : Nat) (bad : List (Nat × Nat)) : State :=
  poisonAll s ((bad.flatMap fun e => (lineSegs (dst + e.1) e.2).map Prod.fst).eraseDups)

/-- Drop every line held in some ways (R261). -/
def cacheFlushWays (s : State) (ways : Nat) : State :=
  { s with ms := { s.ms with cache := s.ms.cache.filter fun e => !bitB ways e.way } }

/-! ### Accesses through the translation unit -/

/-- Who makes an access: master_id, instance, the job's lane, the pacer class (8: none), its urgency master (PaceAcc.urg), and
the packet it is made for. -/
structure Who where
  master : Nat
  inst : Nat
  lane : Option Nat
  cls : Nat
  urg : Nat
  ctx : LogCtx
deriving DecidableEq, Repr

/-- Why an access gives no data: a translation fault (untranslated address, reason of R271, level) or a poisoned line. -/
inductive MErr where
  | xlat (va reason level : Nat)
  | poison (pa : Nat)
deriving DecidableEq, Repr

/-- Where an access lands. -/
inductive Land where
  | mem (pa slot : Nat) (noAlloc : Bool)
  | pcie (port pa : Nat)
  /-- A forbidden register access (R249, R263): a read gives zeros, a write is discarded. -/
  | forbidden (pa : Nat)
deriving DecidableEq, Repr

/-- May a job of a lane reach a target (R262)? -/
def jobReach (s : State) (l : Nat) (pa : Nat) : Bool :=
  match region s pa with
  | .dram ch => bitB (sharedChans s) ch || decide (ownerLane s (.dram ch) = some l)
  | .tile t => decide (ownerLane s (.tile t) = some l)
  | .bay o => decide (ownerLane s (.bay o) = some l)
  | .pcie p => decide (p ∈ s.pcieUp)
  | _ => false

/-- What a non-job instance-tagged access reaches (R263, R249): nothing, a forbidden register access, or its target. -/
def instReach (s : State) (i pa : Nat) (wr : Bool) : Option Bool :=
  let owned (r : Region) : Bool := match ownerLane s r with
    | some l => bitB (laneMask s i) l
    | none => false
  match region s pa with
  | .dram ch => if bitB (sharedChans s) ch || owned (.dram ch) then some true else none
  | .tile t => if owned (.tile t) then some true else none
  | .bay o => if owned (.bay o) then some true else none
  | .pcie p => if p ∈ s.pcieUp then some true else none
  | .retention => if wr then some false else some true
  | .sageSram => some false
  | _ => none

/-- A permitted physical target of an access, after translation. -/
def landAt (s : State) (w : Who) (pa : Nat) (wr : Bool) (enc noAlloc : Bool) : Option Land :=
  let slot := if enc && dramLine (pa / 64) then w.inst + 1 else 0
  match w.lane with
  | some l =>
    if jobReach s l pa then
      match region s pa with
      | .pcie p => some (.pcie p pa)
      | _ => some (.mem pa slot noAlloc)
    else none
  | none =>
    match instReach s w.inst pa wr with
    | none => none
    | some false => some (.forbidden pa)
    | some true =>
      match region s pa with
      | .pcie p => some (.pcie p pa)
      | _ => some (.mem pa slot noAlloc)

/-- A translation table entry is well formed at its level (R269): `none` when v is 0, else whether a reserved bit or
encoding is used. -/
def entryBad (level e : Nat) : Bool :=
  let leaf := bitB e 3
  decide (bits e 7 5 ≠ 0) || decide (bits e 40 24 ≠ 0) ||
  (if leaf then
    decide (bits e 4 2 = 3) || decide (level = 0) ||
    (decide (level = 1) && decide (bits e 12 18 ≠ 0)) || (decide (level = 2) && decide (bits e 12 9 ≠ 0))
   else decide (level = 3) || decide (bits e 1 2 ≠ 0) || decide (bits e 4 3 ≠ 0))

/-- The walk of R268 from a table at a level: the leaf entry and its level, or the fault's reason and level. -/
def walkFuel (va : Nat) : Nat → State → Nat → Nat → State × Except (Nat × Nat) (Nat × Nat)
  | 0, s, _, level => (s, .error (3, level))
  | f + 1, s, table, level =>
    match region s table with
    | .dram _ =>
      let a := table + 8 * bits va (39 - 9 * level) 9
      let s1 := physTouch s a 8 0 false
      match poisonIn s1 a 8 with
      | some _ => (s1, .error (5, level))
      | none =>
        let e := leNat (rdMem s1 a 8 0)
        if !bitB e 0 then (s1, .error (1, level))
        else if entryBad level e then (s1, .error (3, level))
        else if bitB e 3 then (s1, .ok (e, level))
        else walkFuel va f s1 (bits e 12 28 * 4096) (level + 1)
    | _ => (s, .error (4, level))

/-- The end of a walk: a leaf is kept (R270). -/
def xlateKeep (s : State) (i va : Nat) : Except (Nat × Nat) (Nat × Nat) → State × Except (Nat × Nat) (Nat × Nat)
  | .error e => (s, .error e)
  | .ok (e, l) =>
    ({ s with ms := { s.ms with tlb := ⟨i, l, va / 2 ^ (39 - 9 * l), e⟩ :: s.ms.tlb } }, .ok (e, l))

/-- The root table of an instance's translation. -/
def xlateRoot (s : State) (i : Nat) : Nat := s.getF (XLT_ROOT_LO.lo i) * 4096 + s.getF (XLT_ROOT_HI.hi i) * 2 ^ 32

/-- An address with no cached leaf: the walk, its count and the leaf kept (R268 to R270). -/
def xlateMiss (s : State) (i va start : Nat) : State × Except (Nat × Nat) (Nat × Nat) :=
  let w := walkFuel va 4 (s.addWrap XLT_WALKS.n 1) (xlateRoot s i) start
  xlateKeep w.1 i va w.2

/-- Translate an address for an instance (R267 to R271): a cached leaf serves until it is invalidated (R270); otherwise a
walk starts and is counted. The answer is the leaf entry with its level. -/
def xlateEntry (s : State) (i va : Nat) : State × Except (Nat × Nat) (Nat × Nat) :=
  let fmt := s.getF (XLT_CFG.format i)
  let start := if fmt = 1 then 0 else 1
  if fmt = 0 then (s, .error (6, 0))
  else if (fmt = 1 ∧ 2 ^ 48 ≤ va) ∨ (fmt ≠ 1 ∧ 2 ^ 39 ≤ va) then (s, .error (1, start))
  else
    match s.ms.tlb.find? fun t => decide (t.inst = i ∧ t.vpn = va / 2 ^ (39 - 9 * t.level)) with
    | some t => (s, .ok (t.entry, t.level))
    | none => xlateMiss s i va start

/-- The whole check of one access within a page: translation, permission, reach. -/
def xlate (s : State) (w : Who) (va : Nat) (wr : Bool) : State × Except MErr Land :=
  match xlateEntry s w.inst va with
  | (s1, .error (r, l)) => (s1, .error (.xlat va r l))
  | (s1, .ok (e, l)) =>
    if !(if wr then bitB e 2 else bitB e 1) then (s1, .error (.xlat va 2 l))
    else
      let pa := bits e 12 28 * 4096 + va % 2 ^ (39 - 9 * l)
      match landAt s1 w pa wr (bitB e 6) (decide (bits e 4 2 ≠ 0)) with
      | some t => (s1, .ok t)
      | none => (s1, .error (.xlat va 4 l))

/-- XLT_LAST_ takes a fault: of several of one instance in one tick the one with the lowest master_id (R272), the later of
equal ones. -/
def xltShow (s : State) (w : Who) (va reason level : Nat) (wr : Bool) : State :=
  let i := w.inst
  if tabGet (fun _ => 0) s.ms.faultAt i = s.now + 1 ∧ s.getF (XLT_LAST_INFO.master i) < w.master then s
  else
    let s1 := s.set64 (XLT_LAST_VA_LO.lo i) (XLT_LAST_VA_HI.hi i) va
    let s2 := ((s1.setF (XLT_LAST_INFO.reason i) reason).setF (XLT_LAST_INFO.level i) level).setF
      (XLT_LAST_INFO.write i) (b2n wr)
    let s3 := s2.setF (XLT_LAST_INFO.master i) w.master
    { s3 with ms := { s3.ms with faultAt := tabPut (fun _ => 0) s.ms.faultAt i (s.now + 1) } }

/-- Record a translation fault (R272). -/
def xltRecord (s : State) (w : Who) (va reason level : Nat) (wr : Bool) : State :=
  vlog ((xltShow s w va reason level wr).addSat (XLT_FAULTS.n w.inst) 1) 3 va w.master (some w.inst) w.ctx

/-! ### Pacers (R279 to R289) -/

/-- The URG level of a master (R287): 0 to 3 the display outputs, 4 to 7 the sensor ports. -/
def urgLevel (s : State) (k : Nat) : Nat := bits (s.getF PACE_URG_STATUS.urg) (2 * k) 2

/-- A master of the class at URG 2 or 3 is charged to the lane (R287): the lane of its last access. -/
def laneUrgent (s : State) (l c : Nat) : Bool :=
  (List.range 8).any fun k => decide (2 ≤ urgLevel s k ∧ (if k < 4 then 0 else 1) = c ∧
    tabGet (fun _ => 0) s.pace.urgLane k = l + 1)

/-- The limit of a class (R287, R288). -/
def paceLimit (s : State) (key : Nat) : Nat :=
  let b := s.getF (PACE_BUDGET.n key)
  if laneUrgent s (key / 8) (key % 8) then b + b / 4 else b

/-- The class of a lane admits an access now (R283, R284). -/
def paceAdmits (s : State) (key : Nat) : Bool :=
  decide (s.getF (PACE_BUDGET.n key) = 0xFFFFFFFF ∨ s.getF (PACE_COUNT.n key) < paceLimit s key)

/-- An earlier access of the same master waits in the same class of the same lane (R285). -/
def paceBehind (ws : List Wait) (a : PaceAcc) : Bool :=
  ws.any fun w => w.todo.any fun b => decide (b.master = a.master ∧ b.key = a.key)

def State.paceMode (s : State) (m : PaceMode) : State := { s with pace := { s.pace with mode := m } }

/-- Count an admitted access (R282), and what lies beyond the budget (R289). -/
def paceCount (s : State) (a : PaceAcc) : State :=
  let n := s.getF (PACE_COUNT.n a.key)
  let b := s.getF (PACE_BUDGET.n a.key)
  let s1 := s.addSat (PACE_COUNT.n a.key) a.units
  let beyond := if b = 0xFFFFFFFF then 0 else (n + a.units) - max n b
  if beyond = 0 then s1
  else
    let s2 := s1.addSat (PACE_OVERRUN.n a.key) beyond
    if a.key ∈ s.pace.overran ∨ n < b then s2
    else
      let s3 := (s2.addSat (PACE_OVERRUN_WIN.n (a.key / 8)) 1).addSat PACE_URG_OVR.n 1
      { s3 with pace := { s3.pace with overran := a.key :: s3.pace.overran } }

/-- The lane an urgency master is charged to. -/
def paceUrg (s : State) (a : PaceAcc) : State :=
  if a.urg < 8 then { s with pace := { s.pace with urgLane := tabPut (fun _ => 0) s.pace.urgLane a.urg (a.key / 8 + 1) } }
  else s

/-- Offer one access of at most 4 units to its pacer. -/
def paceOffer (s0 : State) (a : PaceAcc) : State :=
  let s := paceUrg s0 a
  match s.pace.mode with
  | .mute => s
  | .direct => paceCount s a
  | .collect l =>
    let ok := paceAdmits s a.key && !paceBehind s.pace.waits a
    (if ok then paceCount s a else s).paceMode (.collect ({ a with ok := ok } :: l))

/-- Offer a transfer of `n` bytes as accesses of at most 256 bytes (R282). -/
def paceFuel : Nat → State → PaceAcc → Nat → State
  | 0, s, _, _ => s
  | f + 1, s, a, n =>
    let k := min n 256
    let s1 := paceOffer s { a with units := max 1 ((k + 63) / 64) }
    if n ≤ 256 then s1 else paceFuel f s1 a (n - 256)

/-- The lane an access is charged to (R280), and the charge. -/
def paceCharge (s : State) (w : Who) (pa n : Nat) : State :=
  if 8 ≤ w.cls then s
  else
    match (match w.lane with | some l => some l | none => ownerLane s (region s pa)) with
    | some l => paceFuel (n / 256 + 1) s ⟨w.master, w.urg, 8 * l + w.cls, 0, false⟩ n
    | none => s.addSat (PACE_SHARED_COUNT.n w.cls) (max 1 ((n + 63) / 64))

/-- A wait of R283, noted for PACE_HOLDS. -/
def paceHold (s : State) (key : Nat) : State :=
  { s with pace := { s.pace with held := if key ∈ s.pace.held then s.pace.held else key :: s.pace.held } }

/-- The accesses of an effect of which some were not admitted: those admitted are issued, the others wait. -/
def paceIssue (s : State) (l : List PaceAcc) : State :=
  l.foldl (fun t a => let u := paceUrg t a; if a.ok then paceCount u a else paceHold u a.key) s

/-- Carry out an effect if the pacers admit every access it makes; otherwise the state with what was admitted, and the
accesses that wait (R283). -/
def paceTry (f : State → State) (s : State) : State × Option (List PaceAcc) :=
  let t := f (s.paceMode (.collect []))
  match t.pace.mode with
  | .collect l =>
    if l.all PaceAcc.ok then (t.paceMode s.pace.mode, none)
    else (paceIssue s l.reverse, some (l.reverse.filter fun a => !a.ok))
  | _ => (t.paceMode s.pace.mode, none)

/-- Carry out an effect whose accesses have all been admitted. -/
def paceDone (f : State → State) (s : State) : State := (f (s.paceMode .mute)).paceMode s.pace.mode

/-- The device port that its work goes through: it keeps its order there. -/
def devicePort : DevAct → Nat × Nat
  | .host c _ _ _ _ => (1, c)
  | .pcie k _ => (2, k)
  | .frameStart t _ => (3, t / 4)
  | .frameEnd t _ => (3, t / 4)
  | .line t _ _ _ _ _ => (3, t / 4)
  | .frameTimeout t => (3, t / 4)
  | .netTx n => (4, n)
  | .netRx n _ _ => (5, n)

/-- Two pieces of work go through one fabric entry in order. -/
def sameEntry : HeldAct → HeldAct → Bool
  | .device c, .device d => decide (devicePort c = devicePort d)
  | a, b => decide (a = b)

def paceDrop (s : State) (p : HeldAct → Bool) : State :=
  { s with pace := { s.pace with waits := s.pace.waits.filter fun w => !p w.act } }

def paceWait (s : State) (w : Wait) : State := { s with pace := { s.pace with waits := s.pace.waits ++ [w] } }

/-- Carry out a piece of work, or let it wait for its accesses (R283 to R285). Work that has waited goes on once every access
it waited for has been admitted. -/
def paceAct (act : HeldAct) (f : State → State) (s : State) : State :=
  match s.pace.waits.find? fun w => sameEntry w.act act with
  | none =>
    (match paceTry f s with
     | (t, none) => t
     | (t, some l) => paceWait t ⟨act, true, l, s.now⟩)
  | some w =>
    match act with
    | .device _ => paceWait s ⟨act, false, [], s.now⟩
    | _ => if w.seen ∧ w.todo = [] then paceDone f (paceDrop s fun x => sameEntry x act) else s

/-- The pacers admit a piece of work in `s`, and it leaves `t`: either nothing of it waits and every access it makes is admitted
at once, or it has waited and its last access has been admitted. -/
def Admitted (act : HeldAct) (f : State → State) (s t : State) : Prop :=
  match s.pace.waits.find? fun w => sameEntry w.act act with
  | none => paceTry f s = (t, none)
  | some w => (∀ c, act ≠ .device c) ∧ w.seen = true ∧ w.todo = [] ∧ t = paceDone f (paceDrop s fun x => sameEntry x act)

/-- The class of a job's access by its target (R279). -/
def jobClass (s : State) (pa : Nat) (wr : Bool) : Nat :=
  match region s pa with
  | .dram _ => if wr then 4 else 3
  | .bay _ => 5
  | .tile _ => 5
  | _ => 3

/-! ### DMA -/

/-- The pieces of a virtual range that lie in one 4 KiB page each. -/
def pageSegsFuel : Nat → Nat → Nat → List (Nat × Nat)
  | 0, _, _ => []
  | f + 1, va, n =>
    if n = 0 then [] else
      let l := min n (4096 - va % 4096)
      (va, l) :: pageSegsFuel f (va + l) (n - l)

def pageSegs (va n : Nat) : List (Nat × Nat) := pageSegsFuel (n / 4096 + 2) va n

/-- Translate every page of a range; the first fault is recorded and ends it. -/
def xlateAll (w : Who) (wr : Bool) : List (Nat × Nat) → State → State × Except MErr (List (Land × Nat))
  | [], s => (s, .ok [])
  | g :: gs, s =>
    match xlate s w g.1 wr with
    | (s1, .error (.xlat va r l)) => (xltRecord s1 w va r l wr, .error (.xlat va r l))
    | (s1, .error e) => (s1, .error e)
    | (s1, .ok t) =>
      match xlateAll w wr gs s1 with
      | (s2, .ok ts) => (s2, .ok ((t, g.2) :: ts))
      | (s2, .error e) => (s2, .error e)

/-- Does a range translate with a permission (checks 8, R144)? Faults are not recorded here. -/
def rangeOk (w : Who) (wr : Bool) : List (Nat × Nat) → State → State × Option (Nat × Nat × Nat)
  | [], s => (s, none)
  | g :: gs, s =>
    match xlate s w g.1 wr with
    | (s1, .error (.xlat va r l)) => (s1, some (va, r, l))
    | (s1, .error (.poison pa)) => (s1, some (pa, 5, 0))
    | (s1, .ok _) => rangeOk w wr gs s1

/-- The cache ways an access may allocate in (R255). -/
def allocWays (s : State) (w : Who) (noAlloc : Bool) : Nat :=
  if noAlloc then 0 else
    match w.lane with
    | some l => match s.lane l with | some r => r.ways | none => 0
    | none => sharedWays s

/-- A write leaves through an outbound window: the range maps linearly from PCIE_OUT_BASE (R458). -/
def pcieSend (s : State) (pa : Nat) (bs : List Byte) : State :=
  let k := if pa < 0x5000000000 then 0 else 1
  let off := pa - (if k = 0 then 0x1000000000 else 0x5000000000)
  let a := (s.get64 (PCIE_OUT_BASE_LO.lo k) (PCIE_OUT_BASE_HI.hi k) + off) % 2 ^ 64
  { s with pcieOut := (k, a, bs) :: s.pcieOut }

/-- Read one landed piece of a range. -/
def readLand (w : Who) (l : Land) (n : Nat) (s : State) : State × Except MErr (List Byte) :=
  match l with
  | .forbidden pa => (vlog s 4 pa w.master (some w.inst) w.ctx, .ok (List.replicate n 0))
  | .pcie _ pa =>
    let f := s.fresh
    (paceCharge f.2 w pa n, .ok (leBytes n f.1))
  | .mem pa slot na =>
    let w1 := if w.lane.isSome then { w with cls := jobClass s pa false } else w
    let s1 := touchLines (paceCharge s w1 pa n) (allocWays s w na) slot false (lineSegs pa n)
    match poisonIn s pa n with
    | some l => (s1, .error (.poison (64 * l)))
    | none => (s1, .ok (rdMem s pa n slot))

/-- Read the landed pieces of a range. -/
def readLands (w : Who) : List (Land × Nat) → State → State × Except MErr (List Byte)
  | [], s => (s, .ok [])
  | l :: ts, s =>
    match readLand w l.1 l.2 s with
    | (s1, .ok a) =>
      (match readLands w ts s1 with
       | (s2, .ok bs) => (s2, .ok (a ++ bs))
       | r => r)
    | r => r

/-- Store to one landed piece of a range: a forbidden page is logged, a PCIe window sends the bytes, memory takes them. -/
def writeLand (w : Who) (l : Land) (n : Nat) (bs : List Byte) (s : State) : State :=
  match l with
  | .forbidden pa => vlog s 4 pa w.master (some w.inst) w.ctx
  | .pcie _ pa => pcieSend (paceCharge s w pa n) pa (bs.take n)
  | .mem pa slot na =>
    let w1 := if w.lane.isSome then { w with cls := jobClass s pa true } else w
    let s1 := touchLines (paceCharge s w1 pa n) (allocWays s w na) slot true (lineSegs pa n)
    wrMem s1 pa slot (bs.take n)

/-- Store to the landed pieces of a range. -/
def writeLands (w : Who) : List (Land × Nat) → List Byte → State → State
  | [], _, s => s
  | l :: ts, bs, s => writeLands w ts (bs.drop l.2) (writeLand w l.1 l.2 bs s)

/-- A DMA read: every page is translated first, then the bytes are read. -/
def dmaRead (s : State) (w : Who) (va n : Nat) : State × Except MErr (List Byte) :=
  match xlateAll w false (pageSegs va n) s with
  | (s1, .ok ts) => readLands w ts s1
  | (s1, .error e) => (s1, .error e)

/-- A DMA write: every page is translated first; a faulting write stores nothing (R272). -/
def dmaWrite (s : State) (w : Who) (va : Nat) (bs : List Byte) : State × Option MErr :=
  match xlateAll w true (pageSegs va bs.length) s with
  | (s1, .ok ts) => (writeLands w ts bs s1, none)
  | (s1, .error e) => (s1, some e)

/-- No piece of a landed range is a forbidden register access. -/
def allPermitted (ts : List (Land × Nat)) : Bool :=
  ts.all fun t => match t.1 with
    | .forbidden _ => false
    | _ => true

/-- The command processor acting for a packet (R115, class 7). -/
def cpWho (i : Nat) (c : LogCtx) : Who := ⟨0x70, i, none, 7, 9, c⟩

end Sys2Proof.Machine
end

