-- ==== Sys2Proof/Machine/Access.lean ====
section
/-! DEFINITION. Register accesses (spec/21): masters and their instances (R606), who may write which bits (R608), the
effect of a plain write (R10 to R14, R609), LOCK bits (R611) and the Sage record of locked main-die settings (R613). -/

namespace Sys2Proof.Machine

/-- The master_id of a bus master (R137). -/
def masterId : BusMaster → Nat
  | .hostCore c _ => c
  | .pcie k => 0x60 + k
  | .tsuquel => 0x70
  | .triplet => 0x71
  | .jtag => 0x80

/-- The instance behind an access (R606); none for the Sage-side cores. -/
def masterInst (s : State) : BusMaster → Option Nat
  | .hostCore _ true => some s.manager
  | .hostCore c false => some (s.getF (SYS_CORE_TAG.tag c))
  | .pcie k => some (s.getF (PCIE_CFG.bound k))
  | .jtag => some s.manager
  | _ => none

/-- The writer is Tsuquel or the triplet. -/
def isFirmware : BusMaster → Bool
  | .tsuquel => true
  | .triplet => true
  | _ => false

def allBits : Nat := 0xFFFFFFFF

/-- The owner of a CAN controller (CAN_STATE). -/
def canOwner (s : State) (c : Nat) : Nat := s.getF (CAN_STATE.owner c)

/-- The bits of register `row`, index `i`, that an instance may write (R608); `v` is the value written. -/
def instMask (s : State) (inst : Nat) (machine : Bool) (r : RegRow) (i v : Nat) : Nat :=
  let mgr := decide (inst = s.manager)
  let all (b : Bool) : Nat := if b then allBits else 0
  match r.writer with
  | .tsuquel => 0
  | .manager => all mgr
  | .queueOwner => all (mgr || decide (i / 4 = inst))
  | .queueBits => if mgr then allBits else bitsMask ((List.range 32).filter fun b => decide ((32 * i + b) / 4 = inst))
  | .padBits =>
    if mgr then allBits else bitsMask ((List.range 32).filter fun b => decide (s.getF (PAD_CFG.owner (32 * i + b)) = inst))
  | .evtOwner => all (mgr || decide (s.getF (PAD_CFG.owner (18 + i)) = inst))
  | .streamBits => if mgr then allBits else
      bitsMask ((List.range 16).filter fun b => decide (s.getF (SENS_STREAM_STATE.owner b) = inst))
  | .outputOwner => all (mgr || decide (s.getF (DISP_OUT_STATE.owner i) = inst))
  | .canOwner => all (mgr || decide (canOwner s i = inst))
  | .instOrManager => all (mgr || decide (i = inst))
  | .mboxDb => if mgr then 3 else if i = inst then 1 else 0
  | .mboxPend => if mgr then 3 else if i = inst then 2 else 0
  | .netOwner => all (decide (s.getF (NET_PORT_CFG.owner i) = inst))
  | .laneHolder => all (mgr || bitB (laneMask s inst) (bits v 16 3))
  | .parkReader => all (mgr || bitB (classMask s inst) 5)
  | .machineMode => all machine

/-- The bits of a register a master may write (R606, R608). -/
def writeMask (s : State) (m : BusMaster) (r : RegRow) (i v : Nat) : Nat :=
  let machine := match m with | .hostCore _ b => b | _ => false
  if isFirmware m then (if r.writer = .machineMode then 0 else allBits)
  else if m = .jtag && s.flag PAD_LOCK.lock then 0
  else match masterInst s m with
    | some inst => instMask s inst machine r i v
    | none => 0

/-- The LOCK bit that governs the RWL fields of the block an address lies in (R611). -/
def blockLock (a : Nat) : Option FRef :=
  match a / 0x10000 with
  | 0x1 => some CLK_LIMIT.lock
  | 0x3 => some PWR_LOCK.lock
  | 0x7 => some PAD_LOCK.lock
  | 0x9 => some INST_CTRL.lock
  | 0x1001 => some MEM_LOCK.lock
  | 0x1009 => some SENS_LOCK.lock
  | 0x100A => some NET_LOCK.lock
  | 0x100B => some PCIE_LOCK.lock
  | _ => none

def isLocked (s : State) (a : Nat) : Bool :=
  match blockLock a with
  | some f => s.flag f
  | none => false

/-- The word mask of a field. -/
def fieldMask (f : FieldSpec) : Nat := (2 ^ f.width - 1) * 2 ^ f.lo

/-- The word a write leaves (R10), field by field: `m` the bits the writer may write, `lk` whether the LOCK holds. A write
has no effect on a RO field, whoever the writer is. -/
def writtenWord (r : RegRow) (cur v m : Nat) (lk : Bool) : Nat :=
  r.fields.foldl (fun acc f =>
    let fm := fieldMask f
    let ok := andN fm m
    match f.acc with
    | .rw => orN (clrN acc ok) (andN v ok)
    | .rwl => if lk then acc else orN (clrN acc ok) (andN v ok)
    | .w1c => clrN acc (andN v ok)
    | .w1s => orN acc (andN v ok)
    | .ro => acc
    | .wo => acc) cur

/-- Does the write change or act on a bit the writer may not write (R609)? -/
def refusedBits (r : RegRow) (cur v m : Nat) : Bool :=
  r.fields.any fun f =>
    let no := clrN (fieldMask f) m
    match f.acc with
    | .rw => decide (andN (xorN cur v) no ≠ 0)
    | .rwl => decide (andN (xorN cur v) no ≠ 0)
    | .w1c => decide (andN v no ≠ 0)
    | .w1s => decide (andN v no ≠ 0)
    | .wo => decide (andN v no ≠ 0)
    | .ro => false

/-- Does the write differ from an RWL field that its LOCK holds (R14)? -/
def refusedRwl (r : RegRow) (cur v m : Nat) : Bool :=
  r.fields.any fun f => decide (f.acc = .rwl) && decide (andN (xorN cur v) (andN (fieldMask f) m) ≠ 0)

/-- Does the value stay inside every range and reserved encoding (R12)? -/
def valueOk (r : RegRow) (i new : Nat) : Bool :=
  (r.fields.all fun f => match f.acc with
    | .rw => f.ok (bits new f.lo f.width)
    | .rwl => f.ok (bits new f.lo f.width)
    | _ => true) && r.rowOk i new

/-- The instance the log names: none for JTAG, which only acts as the manager (R606, R137). -/
def logInst (s : State) : BusMaster → Option Nat
  | .jtag => none
  | m => masterInst s m

/-- A refused register write, logged (R138, R14). -/
def forbid (s : State) (m : BusMaster) (addr kind : Nat) : State :=
  vlog s kind addr (masterId m) (logInst s m) noCtx

/-- What a plain write of a register does (R609): the new state and whether it took effect. -/
def plainWrite (s : State) (m : BusMaster) (addr : Nat) (v : Nat) : State × Bool :=
  match findReg addr with
  | none =>
    -- an empty offset of a slot ignores the write; elsewhere the caller handles the reserved address (R605)
    (s, false)
  | some (r, i) =>
    let mask := writeMask s m r i v
    if mask = 0 then (forbid s m addr 4, false)
    else
      let cur := (s.rd addr).toNat
      let setsLock := match blockLock addr with
        | some f => decide (f.addr = addr) && bitB v f.lo && bitB mask f.lo
        | none => false
      let lk := isLocked s addr || setsLock
      let new := writtenWord r cur v mask lk
      if !valueOk r i (writtenWord r cur v mask false) && !lk then (forbid s m addr 4, false)
      else
        let s1 := if refusedBits r cur v mask then forbid s m addr 4 else s
        let s2 := if lk && refusedRwl r cur v mask then forbid s1 m addr 5 else s1
        let s3 := s2.wr addr (BitVec.ofNat 32 new)
        let s4 := if 0x10000000 ≤ addr && (blockLock addr).isSome && (r.fields.any fun f => f.acc = .rwl || f.acc = .w1s)
          then { s3 with ms := { s3.ms with lockRec := tabPut regReset s3.ms.lockRec addr (BitVec.ofNat 32 new) } }
          else s3
        (s4, true)

/-- The main die is out of reset and isolation (R17, R100). -/
def mainReleased (s : State) : Bool :=
  (match s.boot.main with
   | .tests => true
   | .ready => true
   | .up => true
   | _ => false) && !s.clk.entryReset

/-- Jobs are accepted (CMDP_STATUS.accepting). -/
def accepting (s : State) : Bool := s.flag CMDP_STATUS.accepting

/-- The queue state view: drained and in_flight of CMDP_QSTATE. -/
def qstateWord (s : State) (q : Nat) : Nat :=
  let base := (s.rd (CMDP_QSTATE.addr q)).toNat
  let qs := tabGet (fun _ => QueueState.init) s.queues q
  let flight := (qs.head + 2 ^ 32 - qs.done) % 2 ^ 32
  let drained := !s.flag (CMDP_QCFG.enable q) && decide (flight = 0)
  putBits (putBits base 1 1 (b2n drained)) 16 16 (min flight 65535)

/-! ### What a pad's functions see (R563, R566, R567) -/

def State.pad (s : State) (n : Nat) : PadState := tabGet (fun _ => PadState.init) s.pads n

/-- A sample has passed the synchroniser; one clocked by TIME has by the time TIME stops. -/
def sampleDue (s : State) (e : Bool × Nat × Bool) : Bool :=
  if e.1 then decide (e.2.1 ≤ s.clk.slow) else !s.clk.running || decide (e.2.1 ≤ s.now)

/-- What the connected function's input sees now. -/
def seenOf (s : State) (p : PadState) : Bool := p.pend.foldl (fun v e => if sampleDue s e then e.2.2 else v) p.inp

/-- What function `f` (0 or 1) of a pad sees: frozen while it is not connected, or in a park (R566). -/
def padSees (s : State) (n f : Nat) : Bool :=
  let p := s.pad n
  if p.func = f ∧ p.parking = false then seenOf s p else if f = 0 then p.frozen else p.frozen1

/-- PAD_IN of 32 pads. -/
def padInWord (s : State) (k : Nat) : Nat := bitsMask ((List.range 32).filter fun b => padSees s (32 * k + b) 0)

/-- The word a read of a register returns before any latching (R10): registers that are views of other state are computed
here. -/
def viewWord (s : State) (a : Nat) : Nat :=
  let t := s.clk.time
  if a = TIME_NOW_LO.addr then t % 2 ^ 32
  else if a = TIME_SLOW_LO.addr then s.clk.slow % 2 ^ 32
  else if a = TIME_SLOW_HI.addr then s.clk.slow / 2 ^ 32 % 2 ^ 16
  else if a = PACE_WINDOW.addr then s.nowAt 11 / 1000 % 2 ^ 32
  else if a = BOOT_STRAP.addr then b2n Config.bootOctal
  else if a = PAD_OUT_SET.addr 0 ∨ a = PAD_OUT_CLR.addr 0 then (s.rd (PAD_OUT.addr 0)).toNat
  else if a = PAD_OUT_SET.addr 1 ∨ a = PAD_OUT_CLR.addr 1 then (s.rd (PAD_OUT.addr 1)).toNat
  else
    match findReg a with
    | none => 0
    | some (r, i) =>
      if r.name = "CMDP_QSTATE" then qstateWord s i
      else if r.name = "PAD_IN" then padInWord s i
      else if r.name = "INST_RIGHTS" ∧ i = s.manager then 0xFFFF01FF
      else if r.name = "INST_STATE" then putBits (s.rd a).toNat 3 1 (b2n (decide (i = s.manager)))
      else (s.rd a).toNat

/-- The _HI register that a read of a latching register latches, with the value latched (R607, R72, R359). -/
def latchPairs (s : State) (a : Nat) : List (Nat × Nat) :=
  if a = TIME_NOW_LO.addr then [(TIME_NOW_HI.addr, s.clk.time / 2 ^ 32 % 2 ^ 32)]
  else if a = SAF_LAST_ENTRY_LO.addr then [(SAF_LAST_ENTRY_HI.addr, (s.rd SAF_LAST_ENTRY_HI.addr).toNat)]
  else if a = SAF_TEST_FULL_LO.addr then [(SAF_TEST_FULL_HI.addr, (s.rd SAF_TEST_FULL_HI.addr).toNat)]
  else
    match findReg a with
    | some (r, i) =>
      if r.name = "TILE_QS_COUNT" then
        [TILE_QS_CLIPPED.addr i, TILE_QS_NONFIN.addr i, TILE_QS_SSE_LO.addr i, TILE_QS_SSE_HI.addr i].map
          fun b => (b, (s.rd b).toNat)
      else if r.name = "DISP_VBLANK_LO" then [(DISP_VBLANK_HI.addr i, (s.rd (DISP_VBLANK_HI.addr i)).toNat)]
      else []
    | none => []

/-- The address is a latched partner: it reads the master's own copy (R72, R607). -/
def isLatched (a : Nat) : Bool :=
  decide (a = TIME_NOW_HI.addr ∨ a = SAF_LAST_ENTRY_HI.addr ∨ a = SAF_TEST_FULL_HI.addr) ||
  (match findReg a with
   | some (r, _) => r.name = "TILE_QS_CLIPPED" || r.name = "TILE_QS_NONFIN" || r.name = "TILE_QS_SSE_LO" ||
      r.name = "TILE_QS_SSE_HI" || r.name = "DISP_VBLANK_HI"
   | none => false)

def latchKey (m : BusMaster) (a : Nat) : Nat := masterId m * 2 ^ 40 + a

/-- The block of an address answers: the Sage die's always, the main die's while it is not isolated (R17). -/
def blockUp (s : State) (a : Nat) : Bool := decide (a < 0x8000000) || mainReleased s

/-- The bus answered the last access, with or without an error response. -/
def answered (s : State) (err : Bool) : State := { s with bus := { s.bus with fault := err } }

/-- A restart of a Sage-side core that began at a tick may still run: it takes no more than 500,000 ticks (R513, R518). -/
def mayRestart (s : State) (at_ : Option Nat) : Bool := match at_ with
  | some t => decide (s.now ≤ t + 500000)
  | none => false

/-- The bits of a register whose reading is open at this moment: the line a running output sends (DISP_LINE), whose moments are
not modelled, and cp_restarting and tri_restarting of SAF_STATUS for as long as a restart may take. -/
def openBits (s : State) (a : Nat) : Nat :=
  match findReg a with
  | some (r, i) =>
    if r.name = "DISP_LINE" then (if s.flag (DISP_OUT_STATE.enabled i) then 2 ^ 14 - 1 else 0)
    else if r.name = "SAF_STATUS" then 2 * b2n (mayRestart s s.saf.cpAt) + 8 * b2n (mayRestart s s.saf.triAt)
    else 0
  | none => 0

/-- A register read by a master (R607): the data on the bus, and the latches a _LO read sets. A read of a main-die register
during isolation gives all ones and an error response (R17). -/
def regRead (s : State) (m : BusMaster) (a : Nat) : State :=
  if !blockUp s a then { s with bus := { s.bus with data := 0xFFFFFFFF, fault := true } } else
  let f := s.fresh
  let k := openBits s a
  if k ≠ 0 then { f.2 with bus := { s.bus with data := orN (clrN (viewWord s a) k) (andN f.1 k), fault := false } } else
  let v := if isLatched a then tabGet (fun _ => 0) s.bus.latches (latchKey m a) else viewWord s a
  let ls := (latchPairs s a).foldl (fun t p => tabPut (fun _ => 0) t (latchKey m p.1) p.2) s.bus.latches
  { s with bus := { s.bus with data := v, fault := false, latches := ls } }

end Sys2Proof.Machine
end

