-- ==== Sys2Proof/Machine/Clock.lean ====
section
/-! DEFINITION. Clock domains and their steps (R44 to R57, R500 to R502), VDD_TILE changes (R23, R49), TIME across a stop
(R73, R74) and the wake events (R59). -/

namespace Sys2Proof.Machine

/-- Speed order of step codes: sprint first, then S0 to S6, then gated. -/
def stepRank (c : Nat) : Nat := if c = 8 then 0 else c + 1

/-- The slower of two step codes. -/
def slower (a b : Nat) : Nat := if stepRank a < stepRank b then b else a

/-- The step codes of a domain (R45), fastest first. -/
def domSteps : Nat → List Nat
  | 2 => [0, 1, 2, 3, 7]
  | 3 => [0, 1, 2, 3, 4, 7]
  | 4 => [8, 0, 1, 2, 3, 4, 5, 6, 7]
  | 5 => [0, 1, 2, 3, 7]
  | 6 => [0, 1, 2, 3, 7]
  | 7 => [0, 1, 2, 3, 4, 7]
  | 8 => [0, 1, 2, 7]
  | 9 => [0, 1, 7]
  | 10 => [0, 1, 2, 3, 4, 7]
  | 11 => [0, 1, 2, 3, 7]
  | 12 => [0, 1, 7]
  | 13 => [0, 7]
  | _ => [0]

/-- The lowest ungated step of a domain (R491). -/
def lowestStep (d : Nat) : Nat := ((domSteps d).filter fun c => c ≠ 7).getLastD 0

/-- One step slower or faster within a domain's table, ends kept. -/
def stepDown (d c : Nat) : Nat :=
  (((domSteps d).filter fun x => x ≠ 7).find? fun x => decide (stepRank c < stepRank x)).getD (lowestStep d)
@[inherit_doc stepDown] def stepUp (d c : Nat) : Nat :=
  (((domSteps d).filter fun x => x ≠ 7).reverse.find? fun x => decide (stepRank x < stepRank c)).getD 8

/-- VDD_TILE's voltage at a TILE step, in mV (R45). -/
def tileVolt (c : Nat) : Nat :=
  if c = 8 then 900 else if 6 < c then 550 else 850 - 50 * c

/-- The domain frequency of TILE in cycles per tick × 1000 (R503: 16 at S0). -/
def tileFreq (c : Nat) : Nat :=
  if c = 8 then 18000 else [16000, 14000, 12000, 10000, 8000, 6000, 4000].getD c 4000

def State.dom (s : State) (d : Nat) : DomState := tabGet (fun _ => DomState.init) s.clk.doms d
def State.setDom (s : State) (d : Nat) (x : DomState) : State :=
  { s with clk := { s.clk with doms := tabPut (fun _ => DomState.init) s.clk.doms d x } }

/-- A domain is gated when its clock does not run. -/
def gated (s : State) (d : Nat) : Bool := !s.flag (CLK_DOM_STATUS.running d)

/-- What rank 3 asks for (R46, R51, R52): the fixed step, or the request with sprint only where it is permitted. Sprint that is
withdrawn ends at the next sample (R492). -/
def wantStep (s : State) (d : Nat) : Nat :=
  if s.flag (CLK_DOM_CTRL.fixed_en d) then s.getF (CLK_DOM_CTRL.fixed_step d)
  else
    let r := (s.dom d).req
    if r = 16 then 0
    else if r = 8 then (if d = 4 && (s.flag CLK_LIMIT.sprint_permit || s.pwr.sprintOk) then 8 else 0)
    else r

/-- The cap loop's ceiling, with sprint withdrawn where R492 does not permit it. -/
def capCeilOf (s : State) (d : Nat) : Nat :=
  let c := (s.dom d).capCeil
  if d = 4 && !s.pwr.sprintOk then slower c 0 else c

/-- The step a domain is to run at: the slowest of the request and every ceiling (R491, R500). -/
def domGoal (s : State) (d : Nat) : Nat :=
  let x := s.dom d
  slower (if x.hot then 7 else 8) (slower x.warnCeil (slower x.levelCeil (slower (capCeilOf s d) (wantStep s d))))

/-- Main-die domains other than DRAM and FAB: the ones R58 counts before DOZE. -/
def dozeDoms : List Nat := [3, 4, 5, 6, 7, 8, 9, 12]

/-- Put a domain at a step and count the change; the tick at which a domain of R58's condition was gated last is kept. -/
def setStep (s : State) (d c : Nat) : State :=
  let s0 := if c = 7 ∧ d ∈ dozeDoms ∧ gated s d = false then { s with clk := { s.clk with gatedSince := s.now } } else s
  let s1 := s0.setF (CLK_DOM_STATUS.running d) (b2n (decide (c ≠ 7)))
  if s.getF (CLK_DOM_STATUS.cur_step d) = c then s1
  else (s1.setF (CLK_DOM_STATUS.cur_step d) c).addSat (CLK_DOM_STATUS.change_count d) 1

/-- One override episode: counted when it begins, with fixed_broken in a fixed-frequency domain (R501, R54). -/
def episode (s : State) (d : Nat) (was now_ : Bool) (ctr : FRef) : State :=
  if now_ && !was then
    let s1 := s.addSat ctr 1
    if s.flag (CLK_DOM_CTRL.fixed_en d) then s1.setF (CLK_DOM_STATUS.fixed_broken d) 1 else s1
  else s

/-- Settle one domain after any change of its request, mode or ceilings: episodes are counted, the target is set, and a
running domain other than TILE and DRAM takes it at once (R48); TILE and DRAM move by their own steps (R49, R50). SAGE stays
at S3 while a PARK sweep window is open (R62). -/
def refreshDom (s : State) (d : Nat) : State :=
  let x := s.dom d
  let want := wantStep s d
  let cap := capCeilOf s d
  let low := slower want (slower cap x.levelCeil)
  let therm := slower x.warnCeil (if x.hot then 7 else 8)
  let tH := decide (stepRank low < stepRank therm)
  let cH := decide (stepRank want < stepRank cap ∧ stepRank x.levelCeil ≤ stepRank cap) && !tH
  let mH := decide (stepRank want < stepRank x.levelCeil ∧ stepRank cap < stepRank x.levelCeil) && !tH
  let s1 := episode s d x.epTherm tH PWR_OVR_THERM.n
  let s2 := episode s1 d x.epCap cH PWR_OVR_CAP.n
  let s3 := episode s2 d x.epMulti mH PWR_OVR_MULTI.n
  let s4 := s3.setDom d { x with epTherm := tH, epCap := cH, epMulti := mH }
  let goal := slower low therm
  if gated s4 d ∨ (d = 2 ∧ s4.flag CLK_STATE.in_sweep = true) then s4
  else
    let s5 := s4.setF (CLK_DOM_STATUS.target_step d) goal
    if goal = 7 then setStep (s5.setDom d { s5.dom d with held := lowestStep d }) d 7
    else if d = 4 ∨ d = 10 then s5
    else setStep s5 d goal

def refreshDoms (s : State) : State := (List.range 14).foldl (fun t d => if d < 2 then t else refreshDom t d) s

/-- Move VDD_TILE toward a voltage by one change of at most 50 mV; while the 20 µs of an earlier change run, nothing goes
out (R23). -/
def avsToward (s : State) (mv : Nat) : State :=
  let v := s.pwr.vTile
  if v = mv ∨ s.pwr.avsDue.isSome = true then s
  else
    let v' := if v < mv then min mv (v + 50) else max mv (v - 50)
    { s with pwr := { s.pwr with vTile := v', avsDue := some (s.now + 2000) } }

/-- The next move of TILE toward its target (R49): voltage first when rising, frequency first when falling. -/
def tileAdvance (s : State) : State :=
  if s.pwr.avsDue.isSome || gated s 4 then s
  else
    let cur := s.getF (CLK_DOM_STATUS.cur_step 4)
    let goal := s.getF (CLK_DOM_STATUS.target_step 4)
    if cur = goal then avsToward s (tileVolt goal)
    else if stepRank goal < stepRank cur then
      if tileVolt goal ≤ s.pwr.vTile then setStep s 4 goal else avsToward s (tileVolt goal)
    else avsToward (setStep s 4 goal) (tileVolt goal)

/-- Gate a domain (R56): its step becomes the gated one and it remembers what it held. -/
def gateDom (s : State) (d : Nat) : State :=
  if gated s d then s
  else
    let cur := s.getF (CLK_DOM_STATUS.cur_step d)
    let s1 := s.setDom d { s.dom d with held := cur }
    setStep (s1.setF (CLK_DOM_STATUS.target_step d) 7) d 7

/-- A gated domain runs at the step it last held. -/
def restartDom (s : State) (d : Nat) : State :=
  let h := (s.dom d).held
  refreshDom (setStep (s.setF (CLK_DOM_STATUS.target_step d) h) d h) d

/-- DRAM is at S0 whenever DISP or SENS runs (R50). -/
def dramFull (s : State) (d : Nat) : State :=
  if (d = 8 ∨ d = 9) ∧ gated s 10 = false then setStep s 10 0 else s

/-- A demand that DOZE entry sees before its commit point cancels the entry (R66): what it gated starts on demand again. -/
def dozeCancel (s : State) : State :=
  let s1 := { s with clk := { s.clk with mode := .on, compares := [] } }
  [10, 11].foldl restartDom s1

/-- A demand on a domain (R55): a gated domain restarts at the step it last held, unless a hot trip holds it. -/
def demand (s : State) (d : Nat) : State :=
  let s0 := if s.clk.mode = .dozeEntry ∧ d ≠ 13 then dozeCancel s else s
  let s1 := s0.setDom d { s0.dom d with lastDemand := s0.now }
  if gated s1 d && !(s1.dom d).hot && decide (s1.clk.mode = .on) && (decide (d = 13) || mainReleased s1) then
    restartDom (dramFull s1 d) d
  else s1

/-- An interrupt to a host core is a demand on HOST; an MSI-X message leaves through NET (R55). -/
def raiseHost (s : State) (src : Nat) : State := demand (s.raise src) (if src < 256 then 3 else 12)

/-- An access of a host core, or one that comes in over PCIe, is traffic of HOST or of NET (R55). -/
def masterDemand (s : State) : BusMaster → State
  | .hostCore _ _ => demand s 3
  | .pcie _ => demand s 12
  | _ => s

/-- The clock domain behind a main-die register block (R602). -/
def blockDom (a : Nat) : Option Nat :=
  match a / 0x10000 with
  | 0x1000 => some 11
  | 0x1001 => some 11
  | 0x1002 => some 11
  | 0x1003 => some 11
  | 0x1004 => some 4
  | 0x1005 => some 5
  | 0x1006 => some 6
  | 0x1007 => some 7
  | 0x1008 => some 8
  | 0x1009 => some 9
  | 0x100A => some 12
  | 0x100B => some 12
  | _ => none

/-- The demands a register access makes (R55): on its master's domain and on the domain of the block it reaches. -/
def busDemand (s : State) (m : BusMaster) (a : Nat) : State :=
  match blockDom a with
  | some d => demand (masterDemand s m) d
  | none => masterDemand s m

/-- The domains a hot trip forces (R497). -/
def hotDoms : List Nat := [4, 5, 6, 7]

/-- Start the main-die domains of a bring-up (R46): each at S0 or its fixed step, TILE at S6, and DRAM at S0 beside the
running DISP and SENS (R50). A hot trip still on keeps its domains gated (R497). -/
def startMainDoms (s : State) : State :=
  let s1 := (List.range 14).foldl (fun t d =>
    if d < 3 ∨ d = 13 then t
    else
      let c := if d = 4 then 6 else if d = 10 then 0 else if t.flag (CLK_DOM_CTRL.fixed_en d) then t.getF (CLK_DOM_CTRL.fixed_step d) else 0
      let t1 := t.setDom d { t.dom d with
        held := c
        lastDemand := t.now
        hot := t.flag PWR_THERM_STATUS.hot && decide (d ∈ hotDoms) }
      refreshDom (setStep (t1.setF (CLK_DOM_STATUS.target_step d) c) d c) d) s
  s1

/-- Set the REFCLK request (R43). -/
def setRefreq (s : State) (b : Bool) : State := { s with pins := { s.pins with refreq := b } }

/-- Stop every main-die domain (R17, R65). -/
def stopMainDoms (s : State) : State :=
  [3, 4, 5, 6, 7, 8, 9, 10, 11, 12].foldl gateDom s

/-- Set PLL lock bits (CLK_PLL_STATUS), by mask. -/
def setPlls (s : State) (mask : Nat) (on : Bool) : State :=
  let v := s.getF CLK_PLL_STATUS.lock
  s.setF CLK_PLL_STATUS.lock (if on then orN v mask else clrN v mask)

/-- SPLL, TPLL and LPLL; the main-die PLLs (MPLL0 to 3, DPLL, XPLL0 to 3); PPLL. -/
def sagePlls : Nat := 7
@[inherit_doc sagePlls] def mainPlls : Nat := 0xFF8
@[inherit_doc sagePlls] def ppll : Nat := 0x1000

/-- TIME runs again, from a value; the heartbeat watch resumes with a fresh interval (R514). -/
def timeFrom (s : State) (t : Nat) : State :=
  let s1 := s.setF (CLK_DOM_STATUS.running 1) 1
  { s1 with
    clk := { s1.clk with time := t, running := true, restartDue := false, stopDue := false }
    saf := { s1.saf with beatAt := t } }

/-- TIME stops where it stands. -/
def timeStop (s : State) : State :=
  let s1 := s.setF (CLK_DOM_STATUS.running 1) 0
  { s1 with clk := { s1.clk with running := false, restartDue := false, stopDue := false } }

/-- The extrapolated restart of TIME (R74) at the present SLOW count, in 64-bit arithmetic; TIME restarts at 0 where no pair
was recorded. -/
def timeRestart (s : State) : State :=
  if s.clk.stopValid then
    let ts := s.get64 TIME_STOP_LO.lo TIME_STOP_HI.hi
    let ss := s.get64 TIME_STOP_SLOW_LO.lo TIME_STOP_SLOW_HI.hi
    let num := ((s.clk.slow + 2 ^ 64 - ss) * 390625 + s.getF TIME_FRAC.acc) % 2 ^ 64
    let t := max (ts + num / 128) (ts + 3052) % 2 ^ 64
    timeFrom ((s.setF TIME_FRAC.acc (num % 128)).setF TIME_STATUS.reloaded 1) t
  else timeFrom s 0

/-- The main-die TIME copies are reloaded from the master (R70). -/
def reloadCopies (s : State) : State := { s with clk := { s.clk with copies := [] } }

/-- The Sage clocks at the end of a PARK entry or of a sweep window: SAGE and RING gated, their PLLs off, TIME stopped and
the REFCLK request down (R43, R61, R62). -/
def sageSleep (s : State) : State :=
  timeStop (setPlls (setRefreq (gateDom (gateDom s 2) 13) false) sagePlls false)

/-- Record the pair (TIME, SLOW count) (R73). -/
def recordPair (s : State) : State :=
  let s1 := (s.set64 TIME_STOP_LO.lo TIME_STOP_HI.hi s.clk.time).set64 TIME_STOP_SLOW_LO.lo TIME_STOP_SLOW_HI.hi s.clk.slow
  { s1 with clk := { s1.clk with stopValid := true } }

/-- Store a rate adjustment, clamped to 200 ppm (R76). -/
def rateAdjust (s : State) (v : Int) : State :=
  let c := clampI (-219902325) 219902325 v
  let s1 := s.setF TIME_RATE_ADJ.adj (toBits 32 c)
  if c = v then s1 else s1.setF TIME_STATUS.adj_clamped 1

/-- SAGE runs throughout ON (R57) and RING at its one step: they start again at the steps they held before PARK. -/
def sageWake (s : State) : State :=
  [2, 13].foldl (fun t d => if gated t d then restartDom t d else t) (setPlls s sagePlls true)

/-- Begin a PARK exit (R64): the REFCLK request, TIME and the Sage clocks on the next SLOW edge, and a main-die attempt. -/
def parkExit (s : State) : State :=
  let s1 := setRefreq s true
  { s1 with
    clk := { s1.clk with restartDue := !s1.clk.running, stopDue := false, wakePending := false }
    boot := { s1.boot with main := .start, parkExit := true, mainCounted := false } }

/-- The rails are still falling, or TIME has not stopped yet: the PARK entry has not ended (R61). -/
def parkEntering (s : State) : Bool :=
  decide (s.clk.mode = .park) && (!s.pwr.down.isEmpty || s.clk.stopDue) && decide (s.boot.main = .idle)

/-- A DOZE entry has ended: VDD_TILE has settled at 0.55 V (R66). -/
def dozeEnded (s : State) : Bool := s.pwr.avsDue.isNone && decide (s.pwr.vTile = 550)

/-- Begin a DOZE exit (R66): main PLLs start and VDD_TILE climbs. -/
def dozeExit (s : State) : State :=
  if s.clk.dozeExit then s
  else
    let s1 := setPlls s mainPlls true
    let c := if s1.flag (CLK_DOM_CTRL.fixed_en 4) then s1.getF (CLK_DOM_CTRL.fixed_step 4) else 0
    let s2 := s1.setDom 4 { s1.dom 4 with held := c }
    avsToward { s2 with clk := { s2.clk with dozeExit := true, wakePending := false } } (tileVolt c)

/-- A wake event (R59): latched always; it acts when its enable bit is 1 and it is valid in the present state. In PARK any
latched event asserts the REFCLK request (R43). During a DOZE entry it cancels the entry before the commit point; from there
on it waits for the entry to end (R66). -/
def wakeEvent (s : State) (bit : Nat) : State :=
  let f := if bit < 4 then CLK_WAKE_STATUS.hit else CLK_WAKE_STATUS.hit5
  let off := if bit < 4 then bit else bit - 5
  let s0 := s.setF f (orN (s.getF f) (2 ^ off))
  let s1 := { s0 with clk := { s0.clk with wakeAt := tabPut (fun _ => 0) s0.clk.wakeAt bit (s0.now + 1) } }
  let en := bitB (s.getF CLK_WAKE_EN.en) bit
  let inPark := decide (bit ≠ 5 ∧ bit ≠ 7)
  let inDoze := decide (bit ≠ 8 ∧ bit ≠ 9)
  match s1.clk.mode with
  | .park =>
    let s2 := setRefreq s1 true
    if en && inPark then
      if parkEntering s2 then { s2 with clk := { s2.clk with wakePending := true } }
      else if s2.boot.main = .idle then parkExit s2 else s2
    else s2
  | .dozeEntry => if en && inDoze then dozeCancel s1 else s1
  | .doze =>
    if en && inDoze then (if dozeEnded s1 then dozeExit s1 else { s1 with clk := { s1.clk with wakePending := true } })
    else s1
  | .parkEntry => if en && inPark then { s1 with clk := { s1.clk with wakePending := true } } else s1
  | _ => s1

end Sys2Proof.Machine
end

