-- ==== Sys2Proof/Machine/Pads.lean ====
section
/-! DEFINITION. GPIO pads: functions, parks and isolation (R563 to R573), the event generators (R575, R576) and the JTAG
TAP (R579 to R581). -/

namespace Sys2Proof.Machine

def State.setPad (s : State) (n : Nat) (p : PadState) : State :=
  { s with pads := tabPut (fun _ => PadState.init) s.pads n p }

/-- A bit of a LO/HI pair of pad registers. -/
def padBit (s : State) (a : Nat → Nat) (n : Nat) : Bool := bitB (s.rd (a (n / 32))).toNat (n % 32)

def setPadBit (s : State) (a : Nat → Nat) (n : Nat) (b : Bool) : State :=
  s.wr (a (n / 32)) (BitVec.ofNat 32 (putBits (s.rd (a (n / 32))).toNat (n % 32) 1 (b2n b)))

def State.evt (s : State) (e : Nat) : EvtState := tabGet (fun _ => ⟨false, 0⟩) s.evts e
def State.setEvt (s : State) (e : Nat) (x : EvtState) : State :=
  { s with evts := tabPut (fun _ => ⟨false, 0⟩) s.evts e x }

/-- Is the main die isolated (R17, R572)? -/
def isolated (s : State) : Bool := !mainReleased s

/-- Boundary scan holds the pads (R581). -/
def scanHolds (s : State) : Bool := s.tap.holds && s.flag PAD_JTAG.extest_en

/-- The role of a PCIe port, root or not, as the Sage die keeps it while the main die is in reset (R613). -/
def rootPort (s : State) (k : Nat) : Bool :=
  if mainReleased s then s.flag (PCIE_CFG.role k) else bitB (tabGet regReset s.ms.lockRec (PCIE_CFG.addr k)).toNat 0

/-- What a function drives on a pad: `none` when it is an input (R563, R564). Function 2 is isolation, 3 boundary scan. In a Sage
reset a PERST_N drives its inactive level (R573). -/
def padDrives (s : State) (n func : Nat) : Option Bool :=
  if func = 0 then
    if padBit s PAD_OE.addr n then
      let out := padBit s PAD_OUT.addr n
      if s.flag (PAD_CFG.od n) && out then none else some out
    else none
  else if func = 1 then
    if n = 0 then some s.pins.refreq
    else if n = 1 ∨ n = 2 then
      if s.boot.sage = .held then some true
      else if rootPort s (n - 1) then some (mainReleased s) else none
    else if 18 ≤ n ∧ n ≤ 21 then
      let e := n - 18
      some ((s.evt e).active != s.flag (PAD_EVT_CTRL.active_low e))
    else none
  else none

/-- The function a pad is to have now: boundary scan, isolation of a main-die pad, or PAD_CFG.func (R566). -/
def wantFunc (s : State) (n : Nat) : Nat :=
  if scanHolds s then 3 else if 16 ≤ n && isolated s then 2 else s.getF (PAD_CFG.func n)

/-- The level a pad's park state gives it (R568): the keeper and hi-Z leave the last level. -/
def parkLevel (s : State) (n : Nat) (last : Bool) : Bool :=
  match s.getF (PAD_CFG.park n) with
  | 1 => true
  | 2 => false
  | _ => last

/-- Start or restart a park when the pad's function changes (R566, R569, R571, R572). -/
def padChange (s : State) (n : Nat) : State :=
  let p := s.pad n
  let want := wantFunc s n
  if (if p.parking then p.target else p.func) = want then s
  else
    let slow := !s.clk.running
    let endAt := if slow then s.clk.slow + 1 else s.now + 4
    if p.parking then s.setPad n { p with target := want, endAt := endAt, slowPark := slow }
    else
      let old := padDrives s n p.func
      let last := old.getD p.level
      let keep := match old with
        | none => false
        | some _ => if want = 2 then decide (s.getF (PAD_CFG.park n) = 0) else (padDrives s n want).isSome
      let p1 := { p with
        target := want, parking := true, endAt := endAt, slowPark := slow, keepDrive := keep,
        level := if keep then last else parkLevel s n last,
        frozen := padSees s n 0
        frozen1 := padSees s n 1
        inp := seenOf s p
        pend := [] }
      setPadBit (s.setPad n p1) PAD_PARKING.addr n true

/-- Every pad looks at its function again (isolation or scan taken or released). -/
def padsChange (s : State) : State := (List.range 64).foldl padChange s

/-- The clock cycles in ticks until a sample taken `extra` edges from now is visible (R567): two cycles of TIME, or of SLOW
while TIME is stopped; two cycles of DISP, the clock of a hot-plug detect, fit into one tick. -/
def syncDelay (n func extra : Nat) : Nat := if func = 1 ∧ (n = 16 ∨ n = 17) then 1 else 2 + extra

/-- A level at a pad enters the synchroniser of the function `p.func`. -/
def padPush (s : State) (n : Nat) (p : PadState) (lv : Bool) (extra : Nat) : State :=
  let slow := !s.clk.running
  let at_ := (if slow then s.clk.slow else s.now) + syncDelay n p.func extra
  let rest := p.pend.filter fun e => !sampleDue s e
  let inp := seenOf s p
  let last := match rest.getLast? with
    | some e => e.2.2
    | none => inp
  s.setPad n { p with level := lv, inp := inp, pend := if last = lv then rest else rest ++ [(slow, at_, lv)] }

/-- PERST_N of an endpoint port sampled low holds its link down (R564). -/
def perstLow (s : State) (k : Nat) : Bool :=
  let p := s.pad (1 + k)
  decide (s.getF (PCIE_CFG.role k) = 0 ∧ (p.func = 1 ∨ s.getF (PAD_CFG.func (1 + k)) = 1)) &&
    (!padSees s (1 + k) 1 || p.pend.any fun e => !e.2.2)

/-- Take a link down (R461). -/
def linkDown (s : State) (k : Nat) : State :=
  let s1 := ((s.setF (PCIE_STATE.link_up k) 0).setF (PCIE_STATE.width k) 0).setF (PCIE_STATE.gen k) 0
  { s1.setF (PCIE_STATE.l1 k) 0 with pcieUp := s.pcieUp.filter fun x => decide (x ≠ k) }

/-- A link whose endpoint's PERST_N is low goes down (R564). -/
def perstCheck (s : State) : State :=
  [0, 1].foldl (fun t k => if k ∈ t.pcieUp ∧ perstLow t k = true then linkDown t k else t) s

/-- The end of a park (R566, R567): the target function takes the pad; until its first sample is visible it sees what its input
held before, or 0 if it was never selected. -/
def padEnd (s : State) (n : Nat) (level : Bool) : State :=
  let p := s.pad n
  let lv := (padDrives s n p.target).getD level
  let held := if p.target = 0 then p.frozen else if p.target = 1 then p.frozen1 else false
  let p1 := { p with func := p.target, parking := false, keepDrive := false, inp := held, pend := [] }
  perstCheck ((setPadBit (padPush s n p1 lv 1) PAD_PARKING.addr n false).addWrap PAD_SWITCHES.n 1)

/-- The sampled levels of the GPIO pads enter the synchronisers of pads in function 0 or 1 (R563); a driven pad reads back its
own level. -/
def padSample (s : State) (levels : Nat) : State :=
  perstCheck ((List.range 64).foldl (fun t n =>
    let p := t.pad n
    if p.parking then t else padPush t n p ((padDrives t n p.func).getD (bitB levels n)) 0) s)

/-- The start tick of pulse `k` of a generator (R575). -/
def evtStart (s : State) (e k : Nat) : Nat :=
  s.get64 (PAD_EVT_START_LO.lo e) (PAD_EVT_START_HI.hi e) + k * s.getF (PAD_EVT_PERIOD.p e)

/-- The first pulse whose start is not earlier than now (R576); with period 0 only pulse 0 exists. -/
def evtNext (s : State) (e : Nat) : Nat :=
  let st := evtStart s e 0
  let p := s.getF (PAD_EVT_PERIOD.p e)
  if s.now ≤ st then 0
  else if p = 0 then 1
  else (s.now - st + p - 1) / p

/-- Skip past pulses of every enabled generator (R576: enabling, a DOZE wake, release from isolation). -/
def evtSkip (s : State) : State :=
  (List.range 4).foldl (fun t e =>
    if t.flag (PAD_EVT_CTRL.en e) then t.setEvt e ⟨false, evtNext t e⟩ else t) s

/-- Every generator drives its inactive level: no main-die reset or DOZE carries a pulse over (R574). -/
def evtQuiet (s : State) : State :=
  (List.range 4).foldl (fun t e => t.setEvt e { t.evt e with active := false }) s

/-- The level of every output pin outside the GPIO pads in a reset (R561). -/
def resetPins (power : Bool) (p : Pins) : Pins :=
  { p with pwrOn := false, safeState := true, dispFallback := true, faultN := true, refreq := !power, powerOn := power, xspiReset := true }

end Sys2Proof.Machine
end

