-- ==== Sys2Proof/Machine/Reset.lean ====
section
/-! DEFINITION. What each reset does to the state (R79), FAULT_N and its causes (R529), and the loss of memory contents
(R36). -/

namespace Sys2Proof.Machine

/-- A range of SRAM whose contents are lost and that Tsuquel fills with zeros before any master may read it (R253); its poison
goes with it. -/
def memLose (s : State) (lo hi : Nat) : State :=
  { s with ms := { s.ms with
      mem := tabErase (fun a => decide (lo ≤ a ∧ a < hi)) s.ms.mem
      poison := s.ms.poison.filter fun l => !decide (lo ≤ 64 * l ∧ 64 * l < hi)
      lineKey := tabErase (fun l => decide (lo ≤ 64 * l ∧ 64 * l < hi)) s.ms.lineKey } }

/-- A range whose contents are undefined afterwards (R36): each byte of it is a free value until something writes it. -/
def memForget (s : State) (lo hi : Nat) : State :=
  let s1 := memLose s lo hi
  { s1 with ms := { s1.ms with lost := (lo, hi, s1.free) :: unlose lo hi s1.ms.lost }, free := s1.free + 1 }

/-- LPDDR5X contents are lost (R36): the devices and the copy of the main part. -/
def loseDram (s : State) : State :=
  let s1 := memForget s 0x800000000 0x1000000000
  { s1 with boot := { s1.boot with dramKept := false, mainCopy := none } }

/-- Tile SRAM and Bay SRAM lose their contents (R36). -/
def loseTiles (s : State) : State := memLose s 0x60000000 0x68000000
@[inherit_doc loseTiles] def loseBay (s : State) : State := memLose s 0x40000000 0x58000000

/-- The causes of FAULT_N that hold (R529). -/
def faultCauses (s : State) : Nat := s.getF SAF_FAULT.causes

/-- FAULT_N follows its causes, the tick until which it stays asserted (R529, R600) and the start-up hold (R601). -/
def faultPin (s : State) : State :=
  let on := s.saf.startHold || decide (faultCauses s ≠ 0) || decide (s.now < s.saf.holdUntil)
  let s1 := s.setF SAF_FAULT.fault_n (b2n on)
  { s1 with pins := { s1.pins with faultN := on } }

/-- A cause of FAULT_N is set: an assertion that it begins lasts 10,000 ticks at least (R600). -/
def causeOn (s : State) (bit : Nat) : State :=
  if bitB (faultCauses s) bit then s
  else
    let hold := if s.flag SAF_FAULT.fault_n then s.saf.holdUntil else s.now + 10000
    { s.setF SAF_FAULT.causes (orN (faultCauses s) (2 ^ bit)) with
      saf := { s.saf with causeAt := tabPut (fun _ => 0) s.saf.causeAt bit s.now, holdUntil := hold } }

/-- A cause of FAULT_N is released: the pin goes high in the next tick, and 10,000 ticks later where the cause was set in this
very tick (R529). -/
def causeOff (s : State) (bit : Nat) : State :=
  if bitB (faultCauses s) bit then
    let hold := if tabGet (fun _ => 0) s.saf.causeAt bit = s.now then s.now + 10000 else s.now + 1
    { s.setF SAF_FAULT.causes (clrN (faultCauses s) (2 ^ bit)) with
      saf := { s.saf with holdUntil := max s.saf.holdUntil hold } }
  else s

/-- Set or release one cause of FAULT_N. -/
def setCause (s : State) (bit : Nat) (on : Bool) : State := faultPin (if on then causeOn s bit else causeOff s bit)

/-- fault_boot follows the two consecutive counters (R95). -/
def updFaultBoot (s : State) : State :=
  let on := decide (3 ≤ s.getF BOOT_CONSEC.n ∨ 3 ≤ s.getF BOOT_MAIN_CONSEC.n)
  setCause (s.setF BOOT_STATUS.fault_boot (b2n on)) 0 on

/-- Assert or deassert SAFE_STATE_N and DISP_FALLBACK together (R525, R530). -/
def setSafePins (s : State) (on : Bool) : State :=
  { s with pins := { s.pins with safeState := on, dispFallback := on } }

/-- The tags of R604 take the manager's instance at a main-die reset. -/
def resetTags (s : State) : State :=
  (List.range 12).foldl (fun t c => t.setF (SYS_CORE_TAG.tag c) t.manager) s

/-- The state a main-die reset leaves outside the registers: caches, translations, pacers, engines, streams and links
restart empty (R79). -/
def mainUnitsReset (s : State) : State :=
  { s with
    ms := { s.ms with cache := [], tlb := [], scrubTile := 0, scrubBay := 0, poisonAt := 0, faultAt := [] }
    pace := { s.pace with waits := [], urgLane := [], served := 0, held := [], overran := [], budgetNext := [], urgOld := [] }
    pcieUp := []
    tiles := (s.tiles.map fun e => (e.1, { TileRec.init with lastInst := e.2.lastInst })).filter
      fun e => decide (e.2 ≠ TileRec.init)
    io := { s.io with
      sens := s.io.sens.map fun e => (e.1, e.2.map fun r => { r with frame := none, dropping := false })
      disp := []
      net := []
      msix := [] }
    testHold := false }

/-- A main-die reset (R79): the main die and the Bay dies; jobs are no longer accepted; main-die pads park in isolation
(R572). -/
def mainDieReset (s : State) : State :=
  let s1 := { s with regs := resetRegs 0 s.regs }
  let s2 := mainUnitsReset (stopMainDoms s1)
  let s3 := setPlls (resetTags (s2.setF CMDP_STATUS.accepting 0)) (mainPlls + ppll) false
  padsChange (evtQuiet s3)

/-- Every domain but SLOW stands at its gated step without its rail (R18, R36); TIME has stopped (R73). -/
def stopAllDoms (s : State) : State :=
  let s1 := ((List.range 14).drop 2).foldl (fun t d => setStep (t.setF (CLK_DOM_STATUS.target_step d) 7) d 7) s
  s1.setF (CLK_DOM_STATUS.running 1) 0

/-- The state a Sage reset leaves (R79): the always-on domain, flash, the key store, retention SRAM and the pads stay;
every queue, packet, lane, right and engine starts from reset. TIME stops without waiting for a SLOW edge (R73), group C
is down with PWR_ON low, the main die is in reset and the ring bypass is closed. LPDDR5X, Bay and tile SRAM lose their
supply, and no domain but SLOW runs. CLK_STATE keeps its state until jobs are accepted again (R619). -/
def sageResetState (s : State) : State :=
  let r := State.reset
  let s1 : State := { r with
    regs := resetRegs 1 s.regs
    clk := { s.clk with running := false, stopDue := false, restartDue := false, mode := .on, dozeExit := false,
                        wakePending := false, entryReset := false, doms := [], copies := [], compares := [] }
    boot := { r.boot with backoffUntil := s.boot.backoffUntil, mainUntil := s.boot.mainUntil, dramCap := s.boot.dramCap,
                          dramRank := s.boot.dramRank }
    pins := resetPins false s.pins
    saf := { r.saf with entries := s.saf.entries }
    pads := s.pads
    tap := s.tap
    evts := s.evts
    ms := { r.ms with mem := s.ms.mem, lost := s.ms.lost, flash := s.ms.flash, keys := s.ms.keys, floor := s.ms.floor,
                      poison := s.ms.poison, lineKey := s.ms.lineKey }
    free := s.free
    pending := s.pending }
  let s2 := s1.setF PWR_RAIL_STATUS.good (andN (s1.getF PWR_RAIL_STATUS.good) 0xF)
  let s3 := stopAllDoms (memForget (loseBay (loseTiles (loseDram s2))) 0x8000000 0x8100000)
  padsChange (evtQuiet (resetTags ((s3.setF CLK_PLL_STATUS.lock 0).setF CLK_STATE.in_sweep 0)))

/-- The state a power-on reset leaves (R79): flash, fuses and the key store stay. -/
def powerOnState (s : State) : State :=
  let r := State.reset
  { r with
    ms := { r.ms with flash := s.ms.flash, keys := s.ms.keys, floor := s.ms.floor }
    free := s.free
    pending := s.pending }

end Sys2Proof.Machine
end

