-- ==== Sys2Proof/Machine/Boot.lean ====
section
/-! DEFINITION. Start and endless retry: the Sage ROM sequence (R82 to R95), group C rails (R30 to R32) and the main-die
attempt (R97 to R102). -/

namespace Sys2Proof.Machine

/-! ### Boot flash (R86 to R88) -/

def rdFlash (s : State) (a n : Nat) : List Byte :=
  (List.range n).map fun i => tabGet (fun _ => (0xFF : Byte)) s.ms.flash (a + i)

/-- The flash address of a slot: A at 0, B at 4 MiB (R86). -/
def slotBase (slot : Nat) : Nat := slot * 0x400000

def hdrField (h : List Byte) (off n : Nat) : Nat := leAt h off n

/-- Are the lengths, the entry and every reserved field inside their rules (R87)? -/
def hdrShapeOk (h : List Byte) : Bool :=
  let sl := hdrField h 0x10 4
  let ml := hdrField h 0x14 4
  let en := hdrField h 0x18 4
  decide (sl % 256 = 0 ∧ 256 ≤ sl ∧ sl ≤ 786432 ∧ ml % 256 = 0 ∧ 256 ≤ ml ∧ ml ≤ 3145728 ∧ en < sl ∧ en % 4 = 0) &&
  decide (hdrField h 5 3 = 0 ∧ hdrField h 0x1C 4 = 0) && (slice h 0x50 80).all fun b => b = 0

/-- The Sage part and the main part of a slot (R86). -/
def sagePart (s : State) (slot : Nat) : List Byte :=
  rdFlash s (slotBase slot + 256) (hdrField (rdFlash s (slotBase slot) 256) 0x10 4)
@[inherit_doc sagePart] def mainPart (s : State) (slot : Nat) : List Byte :=
  let h := rdFlash s (slotBase slot) 256
  rdFlash s (slotBase slot + 256 + hdrField h 0x10 4) (hdrField h 0x14 4)

/-- Does a main part match the hash in its slot's header (R87, R93)? -/
def bodyHashOf (s : State) (slot : Nat) (main : List Byte) : Bool :=
  decide (sha384 (sagePart s slot ++ main) = slice (rdFlash s (slotBase slot) 256) 0x20 48)

/-- Does the body of a slot match its header's hash? -/
def bodyHashOk (s : State) (slot : Nat) : Bool := bodyHashOf s slot (mainPart s slot)

/-- The checks of R88 in order on a slot: the cause of the first that fails, or 0. A data-strobe or timing error ends the
check with cause 0x01. -/
def slotCause (s : State) (slot : Nat) (xspiError : Bool) : Nat :=
  let h := rdFlash s (slotBase slot) 256
  if xspiError then 0x01
  else if hdrField h 0 4 ≠ 0x4C515354 ∨ hdrField h 4 1 ≠ 1 then 0x02
  else if !hdrShapeOk h then 0x03
  else if !ecdsaVerify Config.bootPublicKey (sha384 (h.take 0xA0)) (slice h 0xA0 96) then 0x05
  else if hdrField h 0xC 4 < s.ms.floor then 0x06
  else if !bodyHashOk s slot then 0x04
  else 0

/-! ### Retry (R89 to R95) -/

/-- The backoff after the n-th consecutive failure, in ms (R91). -/
def backoffMs (n : Nat) : Nat := min (10 * 2 ^ (n - 1)) 2000

/-- A backoff is being waited out. -/
def showBackoff (s : State) (n : Nat) : State :=
  (s.setF BOOT_STATUS.in_backoff 1).setF BOOT_BACKOFF.backoff_ms (backoffMs n)

/-- The backoff of the Sage sequence counts from now. -/
def startBackoff (s : State) (n : Nat) : State :=
  let s1 := showBackoff s n
  { s1 with boot := { s1.boot with backoffUntil := s.now + backoffMs n * 100000 } }

/-- The backoff of the main-die sequence counts from now. -/
def startMainBackoff (s : State) (n : Nat) : State :=
  let s1 := showBackoff s n
  { s1 with boot := { s1.boot with mainUntil := s.now + backoffMs n * 100000 } }

def endBackoff (s : State) : State := (s.setF BOOT_STATUS.in_backoff 0).setF BOOT_BACKOFF.backoff_ms 0

/-- A failed Sage attempt (R83, R90, R92): cause, counters, the other slot, the backoff's start. -/
def sageFail (s : State) (cause : Nat) : State :=
  let s1 := if s.boot.counted then s else s.addSat BOOT_ATTEMPTS.n 1
  let s2 := (s1.setF BOOT_STATUS.last_cause cause).addSat BOOT_CONSEC.n 1
  let s3 := s2.setF BOOT_STATUS.slot (1 - s2.getF BOOT_STATUS.slot)
  let s4 := updFaultBoot (startBackoff s3 (s3.getF BOOT_CONSEC.n))
  { s4 with boot := { s4.boot with counted := false, sage := .backoff } }

/-- A Sage reset (R79); it ends with the next POR_N_RELEASE. From OFF no Sage reset leads anywhere: only a power-on reset
does (R58). -/
def sageReset (s : State) : State := if s.clk.mode = .off then s else sageResetState s

/-- The Sage part is kept in Sage working SRAM (R82 step 6), and the hash of this code region is recorded (R513). -/
def keepSagePart (s : State) (slot : Nat) : State :=
  let code := sagePart s slot
  let s1 := wrRaw s 0x8000000 code
  { s1 with saf := { s1.saf with codeLen := code.length, codeHash := sha384 code } }

/-- Tsuquel's code region still has the hash recorded when it was loaded (R513). -/
def codeOk (s : State) : Bool := decide (sha384 (rdMem s 0x8000000 s.saf.codeLen 0) = s.saf.codeHash)

/-- Step 4 to 7 of the ROM (R82): the attempt is counted, the slot is checked, and Tsuquel starts or the attempt fails. -/
def sageAttempt (s : State) : State :=
  let s1 := endBackoff (s.addSat BOOT_ATTEMPTS.n 1)
  let s2 := { s1 with boot := { s1.boot with counted := true }, pins := { s1.pins with xspiReset := false } }
  let slot := s2.getF BOOT_STATUS.slot
  let c := slotCause s2 slot s2.boot.xspiError
  if c = 0 then
    let h := rdFlash s2 (slotBase slot) 256
    let s3 := ((keepSagePart s2 slot).setF BOOT_IMAGE.image_version (hdrField h 8 4)).setF BOOT_STATUS.phase 1
    setRefreq { s3 with
      boot := { s3.boot with sage := .waitAlive, watchdog := s3.now + 50000000 } } false
  else sageFail s2 c

/-- Step 4: wait out the backoff BOOT_CONSEC requires, or go on. -/
def romBackoff (s : State) : State :=
  if 0 < s.getF BOOT_CONSEC.n ∧ s.now < s.boot.backoffUntil then
    let s1 := showBackoff s (s.getF BOOT_CONSEC.n)
    { s1 with boot := { s1.boot with sage := .backoff } }
  else sageAttempt s

/-! ### Checker tests (R97 to R99) -/

/-- The tests of a mask whose bit k stands for CKk. -/
def testBit (k : Nat) : Nat := 2 ^ (k - 1)

/-- Open a run of checker tests: BOOT_TEST_FAIL is cleared as the run begins. -/
def openRun (s : State) (run : TestRun) (tests : List Nat) : State :=
  let s1 := s.setF BOOT_TEST_FAIL.ck 0
  { s1 with boot := { s1.boot with run := run, left := tests } }

/-- One test of the open run is judged (R98): missing or other patterns fail it. -/
def markTest (s : State) (k : Nat) (r : InjReport) : State :=
  let s1 := { s with boot := { s.boot with left := s.boot.left.filter fun x => x ≠ k } }
  if r = .expected then s1
  else s1.setF BOOT_TEST_FAIL.ck (orN (s1.getF BOOT_TEST_FAIL.ck) (testBit k))

/-- The safe-state cause a real fault that was not corrected brings in operation, from the checkers whose reaction is no
more than that (R98). -/
def heldCause (k : Nat) : Option Nat :=
  match k with
  | 4 => some 0x05
  | 5 => some 0x06
  | 11 => some 0x0C
  | 12 => some 0x0C
  | _ => none

/-- The memory that CK07 to CK10 test, in the order of MEM_ECC_CE (R98). -/
def testedMem (k : Nat) : Option Nat := if 7 ≤ k ∧ k ≤ 10 then some (k - 7) else none

/-- A real fault in a memory under test (R98, R277): corrected and counted, or the line poisoned and counted. -/
def memTestFault (s : State) (kind : Nat) (correctable : Bool) (addr : Nat) : State :=
  if correctable then s.addSat (MEM_ECC_CE.n kind) 1 else poisonLine s addr kind 0x70

/-! ### Group C rails (R30 to R32) -/

/-- Rails of group C in the order of R30. -/
def railIdx : Rail → Option Nat
  | .vdd2h => some 0
  | .vddq => some 1
  | .soc => some 2
  | .bay => some 3
  | .tile => some 4
  | _ => none

/-- Group C rail `k` of the order of R30: its commands and its monitor. -/
def State.rail (s : State) (k : Nat) : RailState := tabGet (fun _ => ⟨false, 0, false, 0⟩) s.pwr.rails k
def State.setRail (s : State) (k : Nat) (r : RailState) : State :=
  { s with pwr := { s.pwr with rails := tabPut (fun _ => ⟨false, 0, false, 0⟩) s.pwr.rails k r } }

/-- Good bit 4 + k of PWR_RAIL_STATUS (R39). -/
def railGood (s : State) (k : Nat) : Bool := bitB (s.getF PWR_RAIL_STATUS.good) (4 + k)
/-- Set one of the good bits. -/
def setRailGood (s : State) (bit : Nat) (on : Bool) : State :=
  let g := s.getF PWR_RAIL_STATUS.good
  s.setF PWR_RAIL_STATUS.good (if on then orN g (2 ^ bit) else clrN g (2 ^ bit))

def setPwrOn (s : State) (b : Bool) : State := { s with pins := { s.pins with pwrOn := b } }

/-- Command a rail on at a tick: the ON goes out when TIME reaches it. VDD_TILE comes up at 0.55 V (R30). -/
def railOn (s : State) (k at_ : Nat) : State :=
  let s1 := setPwrOn (s.setRail k ⟨true, at_, false, 0⟩) true
  let s2 := if k = 4 then { s1 with pwr := { s1.pwr with vTile := 550, avsDue := none } } else s1
  { s2 with boot := { s2.boot with main := .rails k } }

/-- The rail's ON command has gone out. -/
def railUp (s : State) (k : Nat) : Bool := (s.rail k).on && decide ((s.rail k).onAt ≤ s.now)

/-- The first group C rail of the order that is not up. -/
def nextRail (s : State) : Option Nat :=
  (List.range 5).find? fun k => !((s.rail k).on && railGood s k)

/-- Send OPERATION OFF to a rail (R32). `watched` keeps whether the monitor watched it until then (R35). -/
def railOff (s : State) (k : Nat) : State :=
  s.setRail k { s.rail k with on := false, offAt := s.now }

/-- ON commands that have not gone out yet are dropped. -/
def dropOns (s : State) : State :=
  (List.range 5).foldl (fun t k => if (t.rail k).on && !railUp t k then t.setRail k ⟨false, 0, false, 0⟩ else t) s

/-- The power-down order has ended (R32): PWR_ON falls on the way to OFF, where TIME stops on the next SLOW edge (R73), and
after a bring-up that failed; in PARK entry TIME stops on the next SLOW edge (R61 step 4), unless a sweep window is open. -/
def downDone (s : State) : State :=
  match s.pwr.downFor with
  | .off =>
    let s1 := setPwrOn s false
    { s1 with clk := { s1.clk with mode := .off, stopDue := true } }
  | .failed => if (List.range 5).any fun k => (s.rail k).on then s else setPwrOn s false
  | .park => if s.flag CLK_STATE.in_sweep then s else { s with clk := { s.clk with stopDue := true } }
  | .cycle => s

/-- Take group C rails down in the order given (R32). A rail that is falling already comes first: the next OFF goes out when it
has fallen; else the first OFF goes out now. -/
def takeDown (s : State) (ks : List Nat) (why : DownFor) : State :=
  match s.pwr.down with
  | f :: _ => { s with pwr := { s.pwr with down := f :: ks.filter (fun k => k ≠ f), downFor := why } }
  | [] =>
    match ks with
    | [] => downDone { s with pwr := { s.pwr with downFor := why } }
    | k :: _ => { railOff s k with pwr := { (railOff s k).pwr with down := ks, downFor := why } }

/-- Rails raised now, in the power-down order of R32, down to rail `lo`. -/
def raised (s : State) (lo : Nat) : List Nat :=
  ([4, 3, 2, 1, 0] : List Nat).filter fun k => decide (lo ≤ k) && railUp s k

/-- What is lost when rail `k` goes down (R36, R79). -/
def railLoses (s : State) (k : Nat) : State :=
  match k with
  | 0 => loseDram s
  | 1 => loseDram s
  | 2 => loseTiles s
  | 3 => loseBay s
  | _ => s

/-! ### Main-die attempts (R100 to R102) -/

/-- The rails that go down after a failure or a loss: all but VDD2H and VDDQ_DRAM, each of which stays while it is good (R37,
R102). -/
def cycled (s : State) : List Nat := (raised s 0).filter fun k => decide (2 ≤ k) || !railGood s k

/-- A failed main-die attempt (R90, R91, R102): cause, counters, backoff; the main die is in reset, and the rails `ks` go
down. A PARK exit asserts the safe pins from its first failure (R96). -/
def mainFailed (s : State) (cause : Nat) (ks : State → List Nat) : State :=
  let s1 := if s.boot.mainCounted then s else s.addSat BOOT_MAIN_ATTEMPTS.n 1
  let s2 := (s1.setF BOOT_STATUS.last_cause cause).addSat BOOT_MAIN_CONSEC.n 1
  let s3 := { s2 with boot := { s2.boot with main := .backoff, mainCounted := false, run := .none, left := [] } }
  let s4 := mainDieReset s3
  let s5 := updFaultBoot (startMainBackoff s4 (s4.getF BOOT_MAIN_CONSEC.n))
  let s6 := if s5.boot.parkExit then setSafePins s5 true else s5
  let s7 := dropOns s6
  takeDown s7 (ks s7) .failed

/-- An attempt that fails at a step of its own or through a fault from outside: VDD2H and VDDQ_DRAM stay while good. -/
def mainFail (s : State) (cause : Nat) : State := mainFailed s cause cycled

/-- An attempt that fails because a rail did not come up takes down every rail it raised (R31). -/
def railFail (s : State) : State := mainFailed s 0x10 fun t => raised t 0

/-- The cause that last_cause records for an attempt ended by a fault from outside (R106): that of the step the attempt is in.
The spec gives causes for the steps' own failures only. DESIGN CHOICE (assumption 118). -/
def stepCause (s : State) : Nat :=
  match s.boot.main with
  | .rails _ => 0x10
  | .tests => 0x13
  | .start => 0x10
  | _ => 0x14

/-- A main-die attempt is in progress: begun and not yet accepted. -/
def attemptOpen (s : State) : Bool :=
  match s.boot.main with
  | .rails _ => true
  | .step2 => true
  | .tests => true
  | .ready => true
  | .start => true
  | .backoff => true
  | _ => false

/-- Reload one record into Bay SRAM (R28, R165). -/
def reloadOne (s : State) (r : ReloadRec) : State :=
  let s := physRead s r.segs
  let bytes := r.segs.flatMap fun g => rdMem s g.1 g.2.1 g.2.2
  let base := match s.lane r.lane with | some l => l.bayBase * 0x100000 | none => 0
  carryPoison (wrMem s (0x40000000 + base + r.bayOff) 0 bytes) (0x40000000 + base + r.bayOff) (badSpans s 0 r.segs)

/-- Step 6 of R100: Bay SRAM is written with zeros, then every record is reloaded in order. -/
def bayStep (s : State) : State :=
  s.reloads.foldl reloadOne (zeroFill s 0x40000000 0x18000000)

/-- The run of a bring-up ends (R99), then step 6; the attempt fails or is ready for acceptance. -/
def afterTests (s : State) : State :=
  let failed := s.getF BOOT_TEST_FAIL.ck
  let s1 := (s.setF SAF_TEST_RESULT.failed failed)
  if failed ≠ 0 then mainFail s1 0x13
  else
    let s2 := s1.set64 SAF_TEST_FULL_LO.lo SAF_TEST_FULL_HI.hi s1.now
    let s3 := setCause s2 7 false
    if s3.boot.env.bayOk then
      let s4 := bayStep s3
      { s4 with boot := { s4.boot with main := .ready, run := .none, stepAt := s4.now } }
    else mainFail s3 0x15

/-! ### Temperatures (R496) -/

/-- A reading of one sensor. -/
def tempPut (s : State) (n t : Nat) : State :=
  (s.setF (PWR_TEMP.temp n) t).setF (PWR_TEMP.max n) (max t (s.getF (PWR_TEMP.max n)))

def tempsPut (s : State) (l : List (Nat × Nat)) : State := l.foldl (fun t e => tempPut t e.1 e.2) s

/-- The sensors that can be read now: 0 to 11 while VDD_SOC is good, 12 always. -/
def sensorRead (s : State) (n : Nat) : Bool := decide (n = 12) || railGood s 2

/-- The readings taken now, by sensor. -/
def readTemps (s : State) (temps : List (Option Nat)) : List (Nat × Nat) :=
  (List.range 13).filterMap fun n => if sensorRead s n then (temps.getD n none).map fun t => (n, min t 255) else none

/-- Step 1 begins (R100, R499): the attempt is counted, the sensors are read, and the first rail that is down is
commanded on. -/
def mainBegin (s : State) (env : MainStart) : State :=
  let s0 := if s.boot.mainCounted then s else s.addSat BOOT_MAIN_ATTEMPTS.n 1
  let s1 := (s0.setF BOOT_STATUS.phase 2)
  let s2 := { s1 with boot := { s1.boot with mainCounted := true, env := env, stepAt := s1.now } }
  let l := readTemps s2 env.temps
  let s3 := tempsPut s2 l
  if l.any fun e => decide (182 ≤ e.2) then mainFail s3 0x16
  else
    match nextRail s3 with
    | some k => railOn s3 k s3.now
    | none => { s3 with boot := { s3.boot with main := .step2, stepAt := s3.now } }

end Sys2Proof.Machine
end

