-- ==== Sys2Proof/Machine/Safety.lean ====
section
/-! DEFINITION. The safe state (R524 to R527), the restarts of the Sage-side cores (R513, R517 to R519) and the runs of
checker tests (R98, R522, R523). -/

namespace Sys2Proof.Machine

/-- The safe state begins (R525): pins, isolation, main-die reset, records and the rate cause; a warm restart is due. -/
def safeStateEntry (s : State) (code : Nat) : State :=
  let n := s.now
  let s1 := ((s.setF SAF_STATUS.safe 1).setF SAF_STATUS.last_cause code).addSat SAF_SAFE_COUNT.n 1
  let s2 := (s1.set64 SAF_LAST_ENTRY_LO.lo SAF_LAST_ENTRY_HI.hi n).setF SAF_LAST_LEN.ticks 0xFFFFFFFF
  let ents := (n :: s2.saf.entries).take 4
  let s3 := { s2 with saf := { s2.saf with entries := ents } }
  let s4 := if ents.length = 4 ∧ n - ents.getD 3 0 ≤ 1000000000 then setCause s3 6 true else s3
  let s5 := { s4 with
    boot := { s4.boot with main := .start, mainCounted := false, parkExit := false, run := .none, left := [] }
    clk := { s4.clk with mode := if s4.clk.mode = .park then .park else .on,
                         dozeExit := false, entryReset := false, compares := [] } }
  mainDieReset (setSafePins s5 true)

/-- A safe state began in this very tick: a further cause joins it (R527). -/
def sameTickEntry (s : State) : Bool :=
  s.flag SAF_STATUS.safe && decide (s.boot.main = .start) &&
  decide (s.get64 SAF_LAST_ENTRY_LO.lo SAF_LAST_ENTRY_HI.hi = s.now)

/-- The state before the acceptance of this very tick, as far as the acceptance ended the safe state, its causes and the
attempt; what it had handed out already stays (R527). -/
def unaccept (s : State) (a : AcceptMark) : State :=
  let s1 := ((s.setF BOOT_MAIN_CONSEC.n a.consec).setF BOOT_STATUS.phase 2).setF CLK_STATE.state a.clkState
  let s2 := ((s1.setF SAF_STATUS.safe (b2n a.safe)).setF SAF_LAST_LEN.ticks a.len).setF SAF_CLKMON.pll_unlock a.pllUnlock
  let s3 := s2.setF SAF_FAULT.causes (orN (faultCauses s2) a.causes)
  faultPin { s3 with
    boot := { s3.boot with main := .ready, mainCounted := true, parkExit := a.parkExit }
    clk := { s3.clk with mode := a.mode }
    saf := { s3.saf with accept := none } }

/-- The acceptance that a cause detected now comes before, if it is in this tick (R527). -/
def acceptedNow (s : State) : Option AcceptMark := s.saf.accept.filter fun a => decide (a.at_ = s.now)

/-- A cause detected with the main die up: the safe state, or, in the tick of the acceptance, the failure of the attempt. -/
def upCause (s : State) (code : Nat) : State :=
  match acceptedNow s with
  | none => safeStateEntry s code
  | some a => let t := unaccept s a; setSafePins (mainFail t (stepCause t)) (a.safePins || a.parkExit)

/-- A cause of R524 is detected: it starts the safe state, fails the attempt in progress (R106, R527), or, with the main
die in reset for PARK or a shutdown or before Tsuquel runs, does neither. Of several in one tick the lowest code is
recorded. -/
def safeCause (s : State) (code : Nat) : State :=
  match s.boot.sage with
  | .up =>
    match s.boot.main with
    | .up => upCause s code
    | .idle => s
    | .backoff => s
    | _ =>
      if sameTickEntry s then s.setF SAF_STATUS.last_cause (min code (s.getF SAF_STATUS.last_cause))
      else mainFail s (stepCause s)
  | _ => s

/-- A PARK sweep window is open (CLK_STATE.in_sweep). -/
def inSweep (s : State) : Bool := s.flag CLK_STATE.in_sweep

/-- Tsuquel runs: after the ROM's jump and, in PARK, only inside a sweep window. -/
def tsuquelRuns (s : State) : Bool :=
  (match s.boot.sage with | .waitAlive => true | .up => true | _ => false) &&
  (decide (s.clk.mode ≠ .park) || inSweep s || decide (s.boot.main ≠ .idle)) && decide (s.clk.mode ≠ .off)

/-- A core fault in a PARK sweep window ends the sweep with no park-buffer entry and latches wake event 9 (R527). -/
def sweepFault (s : State) : State :=
  if inSweep s && decide (s.clk.mode = .park) then
    let r := { s.ring with
      sweep := s.ring.sweep.bind fun x => if x.pkt = none then none else some x
      parkDue := false
      sleepDue := false }
    let s1 := wakeEvent ({ s with ring := r }.setF CLK_STATE.in_sweep 0) 9
    if s1.boot.main = .idle then { s1 with clk := { s1.clk with stopDue := true } } else s1
  else s

/-- A command-processor restart (R513): counted; a code region that fails its hash causes a Sage reset. Tsuquel runs again
within 500,000 ticks; when in them is open, and no rule but SAF_STATUS shows it. -/
def cpRestart (s : State) : State :=
  let s1 := s.addSat SAF_CP_RESTARTS.n 1
  if codeOk s1 then { s1 with saf := { s1.saf with beatAt := s1.now, cpAt := some s1.now } } else sageReset s1

/-- R621: before the triplet first runs, a core fault fails the Sage attempt with cause 0x09 and causes a Sage reset. -/
def preTripletFault (s : State) : State :=
  match s.boot.sage with
  | .held => s
  | _ => sageReset (sageFail s 0x09)

/-- A lockstep mismatch (R512, R527). -/
def lockstepMismatch (s : State) : State :=
  if !s.boot.tripletRan then preTripletFault s
  else
    let s1 := setCause (s.addSat SAF_LS_MISMATCH.n 1) 2 true
    cpRestart (safeCause (sweepFault s1) 0x02)

/-- A triplet failure with its restart (R517, R518): every core returns to service. `held` says that it is the held reaction of
a test in a bring-up, whose attempt fails at the end of the run (R99). -/
def tripletFailure (s : State) (held : Bool) : State :=
  let s1 := setCause (s.addSat SAF_TRI_FAIL.n 1) 3 true
  let s2 := if held then s1 else safeCause (sweepFault s1) 0x04
  let s3 := { s2 with saf := { s2.saf with resync := none, retired := none, odds := [], triAt := some s2.now, beatAt := s2.now } }
  let s4 := setCause (((s3.setF SAF_TRI.degraded 0).setF SAF_TRI.retired 0).setF SAF_STATUS.tri_resync 0) 4 false
  if codeOk s4 then s4 else sageReset s4

/-- A triplet disagreement (R515 to R519): `odd` is the core the other two outvote, none when no two agree. -/
def tripletDisagree (s : State) (odd : Option Nat) (held : Bool) : State :=
  if !s.boot.tripletRan then s
  else match odd with
    | none => tripletFailure s held
    | some k =>
      if s.saf.resync.isSome || s.saf.retired.isSome then tripletFailure s held
      else
        let odds := (k, s.now) :: s.saf.odds.filter fun e => decide (s.now ≤ e.2 + 100000000)
        let s1 := s.setF SAF_TRI.odd k
        if 4 ≤ (odds.filter fun e => decide (e.1 = k)).length then
          let s2 := { s1 with saf := { s1.saf with odds := [], retired := some k } }
          setCause ((s2.setF SAF_TRI.retired k).setF SAF_TRI.degraded 1) 4 true
        else
          let s2 := { s1 with saf := { s1.saf with odds := odds, resync := some k } }
          (s2.addSat SAF_TRI.resyncs 1).setF SAF_STATUS.tri_resync 1

/-- The held reaction of a checker to a real fault at the end of its window (R98): its reaction in operation. In a bring-up a
cause starts no safe state; it fails the attempt, at once where the command processor stops (CK01, CK03) and else at the end
of the run, whose test has failed (R99, R106). -/
def heldReaction (s : State) (k : Nat) (correctable : Bool) (core : Option Nat) (addr : Nat) : State :=
  let held := decide (s.boot.run = .bringUp)
  match k with
  | 1 => lockstepMismatch s
  | 2 => tripletDisagree s core held
  | 3 => if correctable then s else cpRestart (safeCause (setCause s 2 true) 0x0D)
  | k => match testedMem k with
    | some kind => memTestFault s kind correctable addr
    | none =>
      if held || (decide (k = 4) && correctable) then s
      else match heldCause k with
        | some c => safeCause s c
        | none => s

/-- A run-time run of tests ends (R523): a failure starts the safe state with cause 0x09 and sets the test cause. -/
def endRuntimeRun (s : State) : State :=
  let failed := s.getF BOOT_TEST_FAIL.ck
  let s1 := { s.setF SAF_TEST_RESULT.failed failed with boot := { s.boot with run := .none, left := [] } }
  if failed ≠ 0 then safeCause (setCause s1 7 true) 0x09 else s1

/-- The ROM's run of CK01 to CK04 ends (R83, R99): a failure counts and causes a Sage reset; else step 4 follows. -/
def endRomRun (s : State) : State :=
  let s1 := { s with boot := { s.boot with run := .none, left := [] } }
  if s1.getF BOOT_TEST_FAIL.ck ≠ 0 then sageReset (sageFail s1 0x07) else romBackoff s1

/-- Every test of the open run has been judged: what follows depends on the run. -/
def endRun (s : State) : State :=
  match s.boot.run with
  | .none => s
  | .rom => endRomRun s
  | .bringUp => afterTests s
  | .background => endRuntimeRun s
  | .safTest => endRuntimeRun s

/-- Judge one window (R98): mark the test; a real fault also brings the checker's held reaction, which in the ROM adds
nothing to the failed test unless it is a core fault. -/
def windowEnd (s : State) (k : Nat) (r : InjReport) : State :=
  if k ∈ s.boot.left then
    let s1 := markTest s k r
    let s2 := match r with
      | .other correctable core addr =>
        if s1.boot.run = .rom then (if k = 1 ∨ (k = 3 ∧ correctable = false) then preTripletFault s1 else s1)
        else heldReaction s1 k correctable core addr
      | _ => s1
    if s2.boot.run ≠ .none ∧ s2.boot.left.isEmpty then endRun s2 else s2
  else s

/-- Judge reports in order for the tests of the open run. -/
def windowEnds (s : State) : List Nat → List InjReport → State
  | k :: ks, r :: rs => windowEnds (windowEnd s k r) ks rs
  | _, _ => s

/-- The warm restart's end for a cause bit: bits 2 and 3 are released at an acceptance (R529). -/
def releaseCauses (s : State) : State := setCause (setCause s 2 false) 3 false

end Sys2Proof.Machine
end

