-- ==== Sys2Proof/Machine/Packets.lean ====
section
/-! DEFINITION. Command queues and completion records (R112 to R136): queue memory, replies, orphans, status blocks,
held records, and the choice of the final status (R132, R149). -/

namespace Sys2Proof.Machine

def State.queue (s : State) (q : Nat) : QueueState := tabGet (fun _ => QueueState.init) s.queues q
def State.setQueue (s : State) (q : Nat) (x : QueueState) : State :=
  { s with queues := tabPut (fun _ => QueueState.init) s.queues q x }

def State.inst (s : State) (i : Nat) : InstRec := tabGet (fun _ => InstRec.init) s.insts i
def State.setInst (s : State) (i : Nat) (x : InstRec) : State :=
  { s with insts := tabPut (fun _ => InstRec.init) s.insts i x }

/-- Slots of a queue and the bytes of each (R116). -/
def qSlots (s : State) (q : Nat) : Nat := 2 ^ s.getF (CMDP_QCFG.log2_entries q)
@[inherit_doc qSlots] def qSlotSize (s : State) (q : Nat) : Nat := 64 * 2 ^ s.getF (CMDP_QCFG.slot_code q)
def qBase (s : State) (q : Nat) : Nat := s.get64 (CMDP_QBASE_LO.lo q) (CMDP_QBASE_HI.hi q)
def qStat (s : State) (q : Nat) : Nat := s.get64 (CMDP_QSTAT_LO.lo q) (CMDP_QSTAT_HI.hi q)
/-- The owner of a queue (R115). -/
def qOwner (q : Nat) : Nat := q / 4

def u32 (n : Nat) : Nat := n % 2 ^ 32

/-- Difference of two 32-bit counters (R118). -/
def sub32 (a b : Nat) : Nat := (a + 2 ^ 32 - b % 2 ^ 32) % 2 ^ 32

/-- Stop a queue (R121, R124): the reason is that of the latest cause. -/
def stopQueue (s : State) (q reason : Nat) : State :=
  (s.setF (CMDP_QSTATE.error q) 1).setF (CMDP_QSTATE.reason q) reason

/-- The 64 bytes of a status block (R122). -/
def statusBytes (s : State) (q : Nat) : List Byte :=
  let x := s.queue q
  let err := s.getF (CMDP_QSTATE.error q) + 256 * s.getF (CMDP_QSTATE.reason q)
  leBytes 4 x.head ++ leBytes 4 x.done ++ leBytes 4 err ++ leBytes 4 x.orphans ++ slice x.orphan 0 32 ++ leBytes 16 0

/-- The command processor's log context for a queue. -/
def qCtx (q : Nat) : LogCtx := ⟨q, 0, 0, 0⟩

/-- A write of the command processor to a queue's own memory: whether all of it landed (R124). It is a demand on the fabric
(R55). -/
def cpWrite (s : State) (w : Who) (va : Nat) (bs : List Byte) : State × Bool :=
  match xlateAll w true (pageSegs va bs.length) (demand s 11) with
  | (s1, .ok ts) => (writeLands w ts bs s1, allPermitted ts)
  | (s1, .error _) => (s1, false)

/-- The status block is written, or its fault stops the queue (R122, R124). -/
def statusNow (s : State) (q : Nat) : State :=
  let s0 := s.setQueue q { s.queue q with due := false }
  let r := cpWrite s0 (cpWho (qOwner q) (qCtx q)) (qStat s0 q) (statusBytes s0 q)
  if r.2 then r.1 else stopQueue (vlog r.1 7 (qStat s0 q) 0x70 (some (qOwner q)) (qCtx q)) q 2

/-- Write a queue's status block; while the main die does not accept jobs, or the pacer holds it, the write stays due (R122,
R124, R283). -/
def writeStatus (s : State) (q : Nat) : State :=
  let s1 := s.setQueue q { s.queue q with due := true }
  if accepting s then paceAct (.status q) (fun t => statusNow t q) s1 else s1

/-- The 32 bytes of a reply (R112). -/
def replyBytes (p : Pkt) (r : Reply) : List Byte :=
  leBytes 2 r.status ++ leBytes 2 p.opcode ++ leBytes 4 p.seq ++ leBytes 4 r.detail ++ leBytes 4 r.energy ++
  leBytes 8 r.ctime ++ leBytes 8 r.faultAddr

def pktCtx (p : Pkt) (status : Nat) : LogCtx := ⟨p.q, status % 256, p.opcode, p.seq⟩

/-- Write a reply at reply_addr, or into orphan_reply (R113, R124). -/
def writeReply (s : State) (p : Pkt) (r : Reply) : State :=
  let bs := replyBytes p r
  let c := pktCtx p r.status
  let orphan (t : State) : State :=
    let x := t.queue p.q
    let t1 := t.setQueue p.q { x with orphans := u32 (x.orphans + 1), orphan := bs }
    writeStatus (vlog t1 7 p.replyAddr 0x70 (some (qOwner p.q)) c) p.q
  if p.replyAddr % 32 ≠ 0 then orphan s
  else
    let r := cpWrite s (cpWho (qOwner p.q) c) p.replyAddr bs
    if r.2 then r.1 else orphan r.1

/-- The interim reply of R109 and R114. R133 gives a completion_time to completed effects only; here it is the tick of the
validation (DESIGN CHOICE, assumption 121). -/
def acceptedReply (s : State) : Reply := ⟨1, 0, 0, s.now, 0⟩

def samePkt (q idx : Nat) (p : Pkt) : Bool := decide (p.q = q ∧ p.idx = idx)

/-- The consumed packet with an index of a queue. -/
def State.pkt (s : State) (q idx : Nat) : Option Pkt := s.pkts.find? (samePkt q idx)

/-- Replace one packet. -/
def State.setPkt (s : State) (p : Pkt) : State :=
  { s with pkts := s.pkts.map fun x => if samePkt p.q p.idx x then p else x }

/-- An MSI-X table byte of a port; a vector is masked until it is unmasked. -/
def msixByte (s : State) (port off : Nat) : Byte :=
  tabGet (fun k => if k % 16 = 12 then 1 else 0) s.io.msix (64 * port + off)

/-- Where a queue's interrupt goes (R462): an MSI-X vector of an endpoint port that is up and bound to its instance, or
the host cores' interrupt controller. -/
def irqSource (s : State) (q : Nat) : Nat :=
  match [0, 1].find? fun k => s.getF (PCIE_CFG.role k) = 0 && s.getF (PCIE_CFG.bound k) = qOwner q &&
      decide (k ∈ s.pcieUp) && decide ((msixByte s k (16 * (q % 4) + 12)).toNat % 2 = 0) with
  | some k => 256 + 4 * k + q % 4
  | none => 32 + q

/-- Set the completion interrupt of a queue (R136). -/
def qIrq (s : State) (q : Nat) : State :=
  let k := q / 32
  let m := s.getF (CMDP_IRQ_STATUS.irq k)
  let s1 := s.setF (CMDP_IRQ_STATUS.irq k) (orN m (2 ^ (q % 32)))
  if bitB (s1.getF (CMDP_IRQ_EN.en k)) (q % 32) then
    raiseHost (s1.setQueue q { s1.queue q with irqs := (s1.queue q).irqs + 1 }) (irqSource s1 q)
  else s1

/-- The completion record of a packet that has ended (R114, R122, R135): its reply, done, the status block, the interrupt. -/
def recordNow (p : Pkt) (r : Reply) (s : State) : State :=
  let q := p.q
  let s1 := writeReply s p r
  let x := s1.queue q
  let s2 := (s1.setQueue q { x with done := u32 (x.done + 1) })
  let s3 := writeStatus { s2 with pkts := s2.pkts.filter fun x => !samePkt q p.idx x } q
  if bitB p.flags 0 then qIrq s3 q else s3

/-- Write the completion record of a queue's oldest packet if it has ended; the pacer may hold it. -/
def flushOne (s : State) (q : Nat) : State :=
  match s.pkt q (s.queue q).done with
  | none => s
  | some p =>
    match p.phase, p.reply with
    | .ended, some r => paceAct (.record q) (recordNow { p with q := q } r) s
    | _, _ => s

def flushFuel : Nat → State → Nat → State
  | 0, s, _ => s
  | f + 1, s, q =>
    let t := flushOne s q
    if (t.queue q).done = (s.queue q).done then t else flushFuel f t q

/-- Write every record of a queue that is due, in index order; memory must be reachable. -/
def flush (s : State) (q : Nat) : State := if accepting s then flushFuel (s.pkts.length + 1) s q else s

/-- Nothing of a packet waits for the pacers any more. -/
def dropPktWaits (s : State) (q idx : Nat) : State :=
  paceDrop s fun a => decide (a = .start q idx ∨ a = .packet q idx ∨ a = .job q idx)

/-- Every queue: status blocks and records that fell due while the main die was down (R122, R552). -/
def flushAll (s : State) : State :=
  (List.range 64).foldl (fun t q => flush (if (t.queue q).due then writeStatus t q else t) q) s

/-- A packet ends: its record is written when those before it are (R133, R135). -/
def endPkt (s : State) (q idx : Nat) (r : Reply) : State :=
  match s.pkt q idx with
  | none => s
  | some p => flush (dropPktWaits (s.setPkt { p with phase := .ended, reply := some r, out := none }) q idx) q

/-- The statuses of R149 that no lateness replaces. -/
def fixedStatus (st : Nat) : Bool := decide (st ∈ ([0x20, 0x40, 0x41, 0x50, 0x61, 0x60] : List Nat))

/-- The final status and detail of a packet that ran (R132, R149). -/
def judge (deadline ctime restarts st detail : Nat) : Nat × Nat :=
  if fixedStatus st then (st, detail)
  else
    let job (late : Nat) : Nat := min late 0x0FFFFFFF + 2 ^ 28 * min restarts 7
    if deadline ≠ 0 ∧ deadline < ctime then (0x30, job (ctime - deadline))
    else if restarts ≠ 0 then (0x31, job 0)
    else (st, detail)

/-- A non-job packet completes now with a status, a detail and a fault address (R147). -/
def complete (s : State) (p : Pkt) (st detail fault : Nat) : State :=
  let j := judge p.deadline s.now 0 st detail
  endPkt s p.q p.idx ⟨j.1, j.2, 0, s.now, fault⟩

/-- A packet ends by a check whose status the deadline does not touch (R149). -/
def endPlain (s : State) (p : Pkt) (st detail fault : Nat) : State :=
  endPkt s p.q p.idx ⟨st, detail, 0, s.now, fault⟩

/-- A packet that has started and not ended, with the opcode named, is the one the command carries out; while the main
die does not accept jobs no opcode takes effect (R147). -/
def startedPkt (s : State) (q idx code : Nat) : Option Pkt :=
  match s.pkt q idx with
  | some p => if p.opcode = code ∧ p.phase = .started ∧ accepting s then some p else none
  | none => none

/-- Parameter fields. -/
def Pkt.u (p : Pkt) (off n : Nat) : Nat := leAt p.params off n

/-- A precondition fails (R143): check 10, the packet offset `d` of the field concerned, logged. -/
def preFail (s : State) (p : Pkt) (d : Nat) : State :=
  let s1 := vlog s 1 (p.slotAddr + d) 0x70 (some (qOwner p.q)) (pktCtx p 0x11)
  endPlain s1 p 0x11 (d + 10 * 2 ^ 16) 0

/-- The deferred part of check 8 fails (R144): the walk's fault is already recorded and logged. -/
def deferFail (s : State) (p : Pkt) (off va : Nat) : State :=
  endPlain s p 0x20 (0x20 + off + 8 * 2 ^ 16) va

/-- What a check at work start answers: nothing wrong, a precondition (with the packet offset), the deferred check 8, a frozen target, or poison
in bytes that Tsuquel reads (R277). -/
inductive PreFail where
  | ok | bad (off : Nat) | xlat (off va : Nat) | frozen | poison (pa : Nat)
deriving DecidableEq, Repr

/-- End a packet whose start check failed; `none` where it passed. -/
def endPre (s : State) (p : Pkt) : PreFail → Option State
  | .ok => none
  | .bad off => some (preFail s p off)
  | .xlat off va => some (deferFail s p off va)
  | .frozen => some (endPlain s p 0x80 0 0)
  | .poison pa => some (endPlain s p 0x40 0 pa)

/-- The first failure of a list of (condition holds, parameter offset). -/
def firstPre : List (Bool × Nat) → PreFail
  | [] => .ok
  | (c, off) :: t => if c then firstPre t else .bad (0x20 + off)

/-- Read bytes the packet names for Tsuquel (class 7), with the reach of `w`; nothing is recorded when they do not translate. -/
def peekBytes (s : State) (w : Who) (va n : Nat) : State × Except MErr (List Byte) :=
  match rangeOk w false (pageSegs va n) s with
  | (s1, some (a, r, l)) => (s1, .error (.xlat a r l))
  | (s1, none) =>
    match xlateAll w false (pageSegs va n) s1 with
    | (s2, .ok ts) => readLands { w with lane := none, cls := 7 } ts s2
    | (s2, .error e) => (s2, .error e)

/-- A check of a range at work start (R144): its fault is recorded and logged. -/
def rangeCheck (s : State) (w : Who) (off va n : Nat) (wr : Bool) : State × PreFail :=
  match xlateAll w wr (pageSegs va n) s with
  | (s1, .ok _) => (s1, .ok)
  | (s1, .error (.xlat a _ _)) => (s1, .xlat off a)
  | (s1, .error (.poison pa)) => (s1, .poison pa)

/-- Who makes a packet's accesses: the job's lane for a job opcode (R144), the instance's lanes otherwise. -/
def pktWho (p : Pkt) (job : Bool) : Who :=
  { cpWho p.inst (pktCtx p 0x20) with lane := if job then some p.lane else none }

/-- An output as it is written: a sweep's block holds the reply's status and completion_time (R237). -/
def outBytes (s : State) (p : Pkt) (o : PktOut) : List Byte :=
  if p.opcode = 0x5001 then
    patch (patch o.bytes 4 (leBytes 2 (judge p.deadline s.now 0 o.status o.detail).1)) 0x10 (leBytes 8 s.now)
  else o.bytes

/-- The frames that RING_RECV writes leave the receive queue (R180, R239). -/
def outTaken (s : State) (p : Pkt) (o : PktOut) : State :=
  if p.opcode = 0x5004 then
    let gone := (List.range (o.bytes.length / 528)).map fun k => slice o.bytes (528 * k) 528
    { s with ring := { s.ring with rxQueue := s.ring.rxQueue.filter fun b => decide (b ∉ gone) } }
  else s

/-- Write a non-job packet's output and complete it with a status; a fault ends it (R130). -/
def outNow (s : State) (p : Pkt) (o : PktOut) : State :=
  match dmaWrite s (pktWho p false) o.va (outBytes s p o) with
  | (s1, none) => complete (outTaken s1 p o) p o.status o.detail 0
  | (s1, some (.xlat a _ _)) => complete s1 p 0x20 0 a
  | (s1, some (.poison pa)) => complete s1 p 0x40 0 pa

/-- The output of a started packet, completed with ST_OK. -/
def outAndEnd (s : State) (p : Pkt) (va : Nat) (bs : List Byte) (detail : Nat) : State := outNow s p ⟨va, bs, 0, detail⟩

/-- The wait of a packet is over and its output is due (R283: the pacer may hold it). -/
def outWaited (s : State) (p : Pkt) (o : PktOut) : State :=
  paceAct (.packet p.q p.idx) (fun t => outNow t p o) (s.setPkt { p with phase := .writing, out := some o })

/-- End a started packet for an error of one of its reads. -/
def endErr (s : State) (p : Pkt) : MErr → State
  | .xlat va _ _ => complete s p 0x20 0 va
  | .poison pa => complete s p 0x40 0 pa

/-- The preconditions of a packet, and its effect where they hold. -/
def preThen (p : Pkt) (pre : State → Pkt → State × PreFail) (eff : State → Pkt → State) (s : State) : State :=
  let r := pre s p
  match endPre r.1 p r.2 with
  | some t => t
  | none => eff r.1 p

/-- Carry out a started packet of an opcode that makes no accesses of its own: its preconditions are checked with its effect
(R143, R147). -/
def carry (s : State) (q idx code : Nat) (pre : State → Pkt → State × PreFail) (eff : State → Pkt → State) : Res :=
  .next (match startedPkt s q idx code with
    | none => s
    | some p => preThen p pre eff s)

/-- Carry out a started packet of an opcode that makes accesses, which its pacers may hold (R283). -/
def carryDma (s : State) (q idx code : Nat) (pre : State → Pkt → State × PreFail) (eff : State → Pkt → State) : Res :=
  .next (match startedPkt s q idx code with
    | none => s
    | some p => paceAct (.packet q idx) (preThen p pre eff) s)

/-- No precondition of its own. -/
def noPre (s : State) (_ : Pkt) : State × PreFail := (s, .ok)

/-- The events a quiesce counts: a packet ends with ST_QUIESCED (R191, R472). -/
def endQuiesced (s : State) (p : Pkt) : State :=
  let i := qOwner p.q
  let x := s.inst i
  endPlain (s.setInst i { x with ended := if x.busy = 0 then x.ended else x.ended + 1 }) p 0x50 0 0

end Sys2Proof.Machine
end

