-- ==== Sys2Proof/Machine/Validate.lean ====
section
/-! DEFINITION. Validation of a consumed packet (R127): the opcode table of spec/05, the parameter rules of every opcode
(check 7), the addresses of check 8, and the nine checks in order. -/

namespace Sys2Proof.Machine

/-- The opcodes of R141. -/
def opcodes : List Nat :=
  [0x0000, 0x0001, 0x0002, 0x0003, 0x0004, 0x0010, 0x0011, 0x0012, 0x1000, 0x1001, 0x1002] ++
  [0x2000, 0x2001, 0x2002, 0x2003, 0x2004, 0x2005, 0x2006, 0x3000, 0x3001, 0x3002, 0x3003, 0x3004, 0x3005] ++
  [0x4000, 0x4001, 0x4002, 0x4003, 0x4004, 0x4005, 0x4006, 0x5000, 0x5001, 0x5002, 0x5003, 0x5004, 0x5005, 0x5006] ++
  [0x6000, 0x6001, 0x6002, 0x6003, 0x6004, 0x6005, 0x7000, 0x7001, 0x7002, 0x7003, 0x7004] ++
  [0x8000, 0x8001, 0x8002, 0x8003, 0x8004, 0x8005, 0x8006, 0x8007, 0x8008]

/-- Opcodes that need the manager right (R145). -/
def needsManager (op : Nat) : Bool :=
  decide (op ∈ ([0x0002, 0x0010, 0x0011, 0x0012, 0x2000, 0x2002, 0x2006, 0x3004, 0x5000, 0x5006, 0x6000, 0x6001, 0x6002,
    0x6003, 0x6004, 0x7000, 0x7001, 0x7002, 0x7003] : List Nat)) || decide (op / 0x1000 = 8)

/-- The job opcodes (R146). -/
def isJobOp (op : Nat) : Bool := decide (op ∈ ([0x1000, 0x1001, 0x1002, 0x4001] : List Nat))

/-- Check 6: is param_len a length the opcode defines (R142)? -/
def lenOk (op len : Nat) (ps : List Byte) : Bool :=
  match op with
  | 0x0000 => decide (len = 0)
  | 0x0001 => decide (len = 1)
  | 0x0002 => decide (len = 1)
  | 0x0003 => decide (len = 1)
  | 0x0004 => decide (len = 2)
  | 0x0010 => decide (len = 3)
  | 0x0011 => decide (len = 1)
  | 0x0012 => decide (len = 1)
  | 0x1000 => decide (6 ≤ len ∧ len ≤ 254 ∧ len = 4 + 2 * leAt ps 8 2)
  | 0x1001 => decide (len = 8)
  | 0x1002 => decide (len = 4)
  | 0x2000 => decide (len = 8)
  | 0x2001 => decide (len = 2)
  | 0x2002 => decide (len = 2)
  | 0x2003 => decide (len = 3)
  | 0x2004 => decide (len = 3)
  | 0x2005 => decide (len = 3)
  | 0x2006 => decide (len = 5)
  | 0x3000 => decide (len = 4)
  | 0x3001 => decide (len = 4)
  | 0x3002 => decide (len = 4)
  | 0x3003 => decide (1 ≤ leAt ps 1 1 ∧ leAt ps 1 1 ≤ 28 ∧ len = 1 + 9 * leAt ps 1 1)
  | 0x3004 => decide (1 ≤ leAt ps 1 1 ∧ leAt ps 1 1 ≤ 254 ∧ len = 1 + leAt ps 1 1)
  | 0x3005 => decide (len = 1)
  | 0x4000 => decide (len = 4)
  | 0x4001 => decide (len = 4)
  | 0x4002 => decide (len = 3)
  | 0x4003 => decide (len = 2)
  | 0x4004 => decide (len = 1)
  | 0x4005 => decide (len = 2)
  | 0x4006 => decide (len = 1)
  | 0x5000 => decide (len = 1)
  | 0x5001 => decide (len = 3)
  | 0x5002 => decide (len = 3)
  | 0x5003 => decide (len = 2 + (leAt ps 2 2 + 7) / 8)
  | 0x5004 => decide (len = 3)
  | 0x5005 => decide (len = 2)
  | 0x5006 => decide (1 ≤ len ∧ len = 1 + 2 * leAt ps 4 1 ∧ leAt ps 4 1 ≤ 64)
  | 0x6000 => decide (len = 1)
  | 0x6001 => decide (len = 1)
  | 0x6002 => decide (len = 1)
  | 0x6003 => decide (len = 1)
  | 0x6004 => decide (len = 0)
  | 0x6005 => decide (len = 1)
  | 0x7000 => decide (len = 1)
  | 0x7001 => decide (len = 1)
  | 0x7002 => decide (len = 1)
  | 0x7003 => decide (len = 0)
  | 0x7004 => decide (len = 1)
  | 0x8000 => decide (len = 2)
  | 0x8005 => decide (len = 3)
  | 0x8006 => decide (len = 3)
  | _ => decide (len = 1)

/-- A rule of check 7: the parameter's offset and whether its value keeps it. -/
abbrev PRule := Nat × Bool

/-- `n` reserved bytes at an offset. -/
def zeros (ps : List Byte) (off n : Nat) : PRule := (off, decide (leAt ps off n = 0))

/-- The retries and stall_ticks fields of the job opcodes. -/
def retryRule (ps : List Byte) (off : Nat) : PRule := (off, decide (leAt ps off 1 ≤ 7 ∨ leAt ps off 1 = 0xFF))
@[inherit_doc retryRule] def stallRule (ps : List Byte) (off : Nat) : PRule :=
  (off, decide (leAt ps off 4 = 0 ∨ (1000 ≤ leAt ps off 4 ∧ leAt ps off 4 ≤ 100000000)))

/-- A CAN identifier field (R159): bits 30:29 zero, 11 bits without the extended bit. -/
def canIdOk (id : Nat) : Bool :=
  decide (bits id 29 2 = 0) && (bitB id 31 || decide (bits id 11 18 = 0))

/-- The lengths a CAN frame may have. -/
def canLenOk (n : Nat) : Bool := decide (n ≤ 8 ∨ n ∈ ([12, 16, 20, 24, 32, 48, 64] : List Nat))

/-- The len, flags rules of R159 for one frame. -/
def canFrameOk (len flags : Nat) : Bool :=
  canLenOk len && decide (flags ≤ 3) && (!bitB flags 1 || bitB flags 0) && (bitB flags 0 || decide (len ≤ 8))

/-- A side-effect descriptor keeps its rules (R157, R159). -/
def sideOk (d : List Byte) : Bool :=
  let kind := leAt d 0 1
  let tgt := leAt d 1 1
  let len := leAt d 2 2
  let id := leAt d 4 4
  let fl := leAt d 0x10 1
  decide (leAt d 0x11 15 = 0) &&
  (match kind with
   | 1 => decide (tgt ≤ 15 ∧ 1 ≤ len ∧ len ≤ 512 ∧ id = 0 ∧ fl = 0)
   | 2 => decide (tgt ≤ 15) && canIdOk id && canFrameOk len fl
   | 3 => decide (tgt = 0 ∧ len = 0 ∧ id ≤ 255 ∧ fl = 0)
   | _ => false)

/-- The records of a byte string. -/
def records (n : Nat) (bs : List Byte) (count : Nat) : List (List Byte) :=
  (List.range count).map fun i => slice bs (n * i) n

/-- The CAN receive block and filters of R449 keep their rules. -/
def canBlockOk (d : List Byte) (count : Nat) : Bool :=
  decide (leAt d 0 8 % 128 = 0 ∧ leAt d 8 1 ≤ 12 ∧ leAt d 9 7 = 0) &&
  (records 16 (d.drop 16) count).all fun f =>
    canIdOk (leAt f 0 4) && decide (bits (leAt f 4 4) 29 3 = 0) && decide (leAt f 8 1 ≤ 3) && decide (leAt f 9 7 = 0)

/-- The rates of R448. -/
def canRatesOk (mode nom dat : Nat) : Bool :=
  decide (nom ∈ ([125000, 250000, 500000, 1000000] : List Nat)) &&
  (if mode = 1 then decide (dat ∈ ([1000000, 2000000, 4000000, 5000000, 8000000] : List Nat) ∧ nom ≤ dat)
   else decide (dat = 0))

/-- The timing block of R429 for an output (0, 1 eDP; 2, 3 DSI). -/
def timingOk (o : Nat) (t : List Byte) : Bool :=
  let hv := [4, 12].all fun b =>
    decide (64 ≤ leAt t b 2 ∧ leAt t b 2 ≤ 8192) &&
    [2, 4, 6].all fun k => decide (1 ≤ leAt t (b + k) 2 ∧ leAt t (b + k) 2 ≤ 4095)
  let lanes := leAt t 0x15 1
  let rate := leAt t 0x16 1
  decide (25000 ≤ leAt t 0 4 ∧ leAt t 0 4 ≤ 600000) && hv && decide (leAt t 0x14 1 ≤ 7) &&
  (if o < 2 then decide (lanes = 1 ∨ lanes = 2 ∨ lanes = 4) && decide (rate ≤ 3)
   else decide (1 ≤ lanes ∧ lanes ≤ 4 ∧ rate = 0)) &&
  decide (leAt t 0x17 1 = 0 ∧ leAt t 0x1C 4 = 0)

/-- The head of a layer block (R428). -/
def layerHeadOk (h : List Byte) : Bool := decide (1 ≤ leAt h 0 1 ∧ leAt h 0 1 ≤ 4 ∧ leAt h 1 7 = 0)

/-- Bytes per pixel of the sensor data types (R436); `none` for any other. -/
def sensorBpp : Nat → Option Nat
  | 0x1E => some 2
  | 0x24 => some 3
  | 0x2A => some 1
  | 0x2B => some 2
  | 0x2C => some 2
  | 0x2E => some 2
  | _ => none

/-- Step codes PWR_STEP takes (R44, R52, R182). -/
def pwrStepOk (d mode c : Nat) : Bool :=
  if 2 ≤ mode then true
  else decide (c ∈ domSteps d) && decide (c ≠ 7) && (decide (mode = 0) || decide (c ≠ 8))

/-- The direct rules of check 7 for an opcode, in order of offset. -/
def paramRules (s : State) (op : Nat) (ps : List Byte) : List PRule :=
  let u (off n : Nat) : Nat := leAt ps off n
  let z (off n : Nat) : PRule := zeros ps off n
  match op with
  | 0x0002 => [(0, decide (u 0 1 ≤ 2)), (1, decide (u 1 1 ≤ 1)), z 2 2]
  | 0x0003 => [(0, decide (u 0 1 < 64)), z 1 7]
  | 0x0004 => [(0, decide (u 0 1 < 64)), (1, decide (u 1 1 ≤ 1)), z 2 6]
  | 0x0010 => [(0, decide (u 0 4 % 4096 = 0)), (4, decide (u 4 4 % 4096 = 0 ∧ 4096 ≤ u 4 4 ∧ u 4 4 ≤ 8388608)), z 0x10 8]
  | 0x0011 => [(0, decide (u 0 1 ≤ 1)), z 1 7]
  | 0x0012 => [z 4 4]
  | 0x1000 =>
    [(8, decide (1 ≤ u 8 2 ∧ u 8 2 ≤ 125)), retryRule ps 0xA, z 0xB 1, stallRule ps 0xC,
     (0x18, decide (u 0x18 2 ≤ 64)), z 0x1A 6] ++
    (List.range (u 8 2)).flatMap fun i =>
      [(0x28 + 16 * i, decide (1 ≤ u (0x28 + 16 * i) 4)),
       (0x2C + 16 * i, decide (1 ≤ u (0x2C + 16 * i) 4 ∧ u (0x2C + 16 * i) 4 ≤ 3))]
  | 0x1001 =>
    [(0, decide (u 0 2 ≤ 255)), (2, decide (1 ≤ u 2 2 ∧ u 2 2 ≤ 1024)), (4, decide (1 ≤ u 4 4 ∧ u 4 4 ≤ 65536)),
     (0x1E, decide (u 0x1E 2 = 0 ∨ (u 2 2 ≤ u 0x1E 2 ∧ u 0x1E 2 ≤ 4096))), retryRule ps 0x20, z 0x21 3,
     stallRule ps 0x24, z 0x28 24]
  | 0x1002 =>
    [(8, decide (u 8 4 % 16 = 0 ∧ 16 ≤ u 8 4 ∧ u 8 4 ≤ 16777216)), (0xC, decide (u 0xC 1 ≤ 15)),
     (0xD, decide (u 0xD 1 ≤ 1)), retryRule ps 0xE, z 0xF 1, stallRule ps 0x10, z 0x14 12]
  | 0x2000 =>
    if u 1 1 = 1 then [(0, decide (u 0 1 ≤ 7)), z 3 1, z 0xC 4, z 0x24 28]
    else
      [(0, decide (u 0 1 ≤ 7)), (1, decide (u 1 1 ≤ 1)), (2, decide (u 2 1 ≤ 7)), z 3 1, (8, decide (u 8 2 ≠ 0)),
       (0xA, decide (u 0xA 2 ≠ 0)), z 0xC 4, (0x10, decide (u 0x10 4 % 0x100000 = 0)),
       (0x14, decide (u 0x14 4 % 0x100000 = 0 ∧ u 0x14 4 ≤ 384 * 0x100000)),
       (0x18, decide (u 0x18 8 % 0x10000 = 0) && (match region s (u 0x18 8) with | .dram _ => true | _ => false)),
       (0x20, decide (u 0x20 4 % 0x10000 = 0 ∧ u 0x20 4 ≤ 0x40000000) && (decide (u 0x20 4 = 0) ||
          (match region s (u 0x18 8 + u 0x20 4 - 1) with | .dram _ => true | _ => false))), z 0x24 28]
  | 0x2001 => [(0, decide (u 0 1 ≤ 7)), z 1 7]
  | 0x2002 => [(0, decide (u 0 1 ≤ 15)), (1, decide (u 1 1 ≤ 2)), z 2 6]
  | 0x2003 => [(0, decide (u 0 1 ≤ 15)), z 1 7]
  | 0x2004 => [(0x10, decide (1 ≤ u 0x10 4 ∧ u 0x10 4 ≤ 268435456)), (0x14, decide (u 0x14 4 ≤ 1))]
  | 0x2005 => [(0, decide (u 0 4 % 4096 = 0)), (4, decide (u 4 4 % 4096 = 0) && (decide (u 4 4 ≠ 0) || bitB (u 0x10 1) 1)),
      (0x10, decide (u 0x10 1 ≤ 3)), z 0x11 7]
  | 0x2006 => [(0, decide (u 0 1 ≤ 7)), z 1 7]
  | 0x3000 =>
    [(0, decide (u 0 1 ≤ 3)), (1, decide (u 1 1 ≤ 3)), (2, (sensorBpp (u 2 1)).isSome), z 3 1,
     (4, decide (1 ≤ u 4 2 ∧ u 4 2 ≤ 8192)), (6, decide (1 ≤ u 6 2 ∧ u 6 2 ≤ 8192)), (8, decide (u 8 8 % 64 = 0)),
     (0x10, decide (2 ≤ u 0x10 2 ∧ u 0x10 2 ≤ 64)), z 0x12 2,
     (0x14, decide (u 0x14 4 % 4096 = 0 ∧ u 0x14 4 ≠ 0)), z 0x18 8]
  | 0x3001 => [(0, decide (u 0 1 ≤ 3)), (1, decide (u 1 1 ≤ 1)), z 2 6, z 0x18 8]
  | 0x3002 =>
    [(0, decide (u 0 1 ≤ 15)), (1, decide (u 1 1 ≤ 2)), z 2 2] ++
    (if u 1 1 = 0 then [] else
      [(4, decide (u 4 4 ∈ ([125000, 250000, 500000, 1000000] : List Nat))),
       (8, canRatesOk (u 1 1) (u 4 4) (u 8 4) || !decide (u 4 4 ∈ ([125000, 250000, 500000, 1000000] : List Nat))),
       (0xC, decide (u 0xC 2 ≤ 128))]) ++ [z 0xE 2, z 0x18 8]
  | 0x3003 =>
    [(0, decide (u 0 1 ≤ 15)), z 2 6] ++
    (List.range (u 1 1)).flatMap fun i =>
      let b := 8 + 72 * i
      [(b, canIdOk (u b 4)), (b + 4, canLenOk (u (b + 4) 1) && (bitB (u (b + 5) 1) 0 || decide (u (b + 4) 1 ≤ 8))),
       (b + 5, decide (u (b + 5) 1 ≤ 3) && (!bitB (u (b + 5) 1) 1 || bitB (u (b + 5) 1) 0)), z (b + 6) 2]
  | 0x3004 =>
    z 2 6 :: (List.range (u 1 1)).flatMap fun i =>
      let b := 8 + 8 * i
      [(b, decide (u b 1 ≤ 15)), (b + 1, decide (u (b + 1) 1 ≤ 1)),
       (b + 4, if bitB (u (b + 1) 1) 0 then decide (bits (u (b + 4) 4) 29 3 = 0) else decide (bits (u (b + 4) 4) 11 21 = 0))]
  | 0x3005 => [(0, decide (u 0 1 ≤ 2)), (1, decide (u 1 1 < if u 0 1 = 1 then 4 else 16)), z 2 6]
  | 0x4000 =>
    [(0, decide (u 0 2 ≤ 255)), (2, decide (u 2 1 = 1 ∨ u 2 1 = 2)), (3, decide (u 3 1 = 1 ∨ u 3 1 = 2)),
     (4, decide (1 ≤ u 4 2 ∧ u 4 2 ≤ 2048)),
     (6, decide (u 3 1 ≠ 1 ∨ u 6 1 ∈ ([8, 16, 32, 64] : List Nat))), (7, decide (u 3 1 ≠ 2 ∨ u 7 1 ≤ 2)),
     (8, decide (1 ≤ u 8 4) && (if u 2 1 = 2 then decide (u 8 4 ≤ 64) else decide (u 8 4 ≤ 65536))),
     (0xC, decide (1 ≤ u 0xC 4 ∧ u 0xC 4 ≤ 2 ^ 31)), (0x18, decide (u 0x18 8 ≠ 0))]
  | 0x4001 => [(0, decide (u 0 2 ≤ 255)), retryRule ps 2, z 3 1, (4, decide (u 4 4 ≠ 0)), z 0x18 8]
  | 0x4002 => [(0, decide (u 0 2 ≤ 255)), z 2 2, (4, decide (1 ≤ u 4 4 ∧ u 4 4 ≤ 65536))]
  | 0x4003 => [(0, decide (u 0 2 ≤ 255)), z 2 2, (4, decide (1 ≤ u 4 4 ∧ u 4 4 ≤ 65536))]
  | 0x4004 => [(0, decide (u 0 2 ≤ 255)), z 2 6]
  | 0x4005 => [(0, decide (u 0 2 ≤ 255)), z 2 2]
  | 0x4006 => [(0, decide (u 0 2 ≤ 255)), z 2 6]
  | 0x5000 => [(0, decide (u 0 1 ≤ 15)), (1, decide (u 1 1 ≤ 3)), (2, decide (u 2 1 ≤ 1)), z 3 5]
  | 0x5001 => [(8, decide (u 8 4 ≠ 0)), z 0xC 4]
  | 0x5002 => [(0, decide (u 0 1 ≤ 15)), z 1 3]
  | 0x5003 => [(0, decide (u 0 1 ≤ 15)), z 1 1, (2, decide (1 ≤ u 2 2 ∧ u 2 2 ≤ 512)), z 4 4]
  | 0x5004 => [(0, decide (u 0 1 ≤ 15 ∨ u 0 1 = 0xFF)), z 1 3, (4, decide (1 ≤ u 4 4 ∧ u 4 4 ≤ 256))]
  | 0x5006 =>
    [(0, decide (u 0 2 ≤ 3600)), (2, decide (1 ≤ u 2 2 ∧ u 2 2 ≤ 448)), z 5 3] ++
    (List.range (u 4 1)).flatMap fun i =>
      let b := 8 + 16 * i
      [(b, decide (u b 1 ≤ 15)), (b + 2, decide (u (b + 2) 1 ∈ ([1, 2, 4] : List Nat))),
       (b + 3, decide (u (b + 3) 1 ≤ 1)), z (b + 4) 4]
  | 0x6000 => [(0, decide (3 ≤ u 0 1 ∧ u 0 1 ≤ 12)), (1, decide (u 1 1 ≤ 3)),
      (2, pwrStepOk (u 0 1) (u 1 1) (u 2 1)), z 3 5]
  | 0x6001 => [(0, decide (10000 ≤ u 0 4 ∧ u 0 4 ≤ 130000)), z 4 4]
  | 0x6002 => [(0, decide (u 0 1 ≤ 2)), (1, decide (u 0 1 = 0 ∨ (2 ≤ u 1 1 ∧ u 1 1 ≤ 4))), z 2 2,
      (4, (List.range 4).all fun k =>
        if u 0 1 = 0 then decide (u (4 + k) 1 ≤ 15 ∨ u (4 + k) 1 = 0xFF)
        else if k < u 1 1 then decide (u (4 + k) 1 ≤ 15) else decide (u (4 + k) 1 = 0xFF))]
  | 0x6003 => [(0, decide (u 0 4 < 1024)), z 4 4]
  | 0x7000 => [(0, decide (u 0 1 ≤ 7)), z 1 3, (4, decide (1000 ≤ u 4 4 ∧ u 4 4 ≤ 100000000))]
  | 0x7001 => [(0, decide (u 0 1 ≤ 7)), (1, decide (u 1 1 ≤ 1)), z 2 6]
  | 0x7002 => [(0, decide (andN (u 0 2) 0xC01F = 0)), z 2 6]
  | 0x8000 => [(0, decide (u 0 1 ≤ 15)), (1, decide (u 1 1 ≤ 1)), (2, decide (u 2 2 < 512)),
      (5, decide (clrN (u 5 1) (u 4 1) = 0)), z 6 10]
  | 0x8001 => [(0, decide (u 0 1 ≤ 15)), (1, decide (u 1 1 ≤ 1)), z 2 6]
  | 0x8005 => [(0, decide (u 0 1 ≤ 15)), z 1 7]
  | 0x8006 => [(0, decide (u 0 1 ≤ 15)), z 1 7, (0x10, decide (u 0x10 8 ≠ 0))]
  | 0x8002 => [(0, decide (u 0 1 ≤ 15)), z 1 7]
  | 0x8003 => [(0, decide (u 0 1 ≤ 15)), z 1 7]
  | 0x8004 => [(0, decide (u 0 1 ≤ 15)), z 1 7]
  | 0x8007 => [(0, decide (u 0 1 ≤ 15)), z 1 7]
  | 0x8008 => [(0, decide (u 0 1 ≤ 15)), z 1 7]
  | _ => []

/-- The bytes in memory that check 7 judges: the address parameter's offset, the address, the length and the rule. -/
def memRules (op : Nat) (ps : List Byte) : List (Nat × Nat × Nat × (List Byte → Bool)) :=
  match op with
  | 0x1000 =>
    let n := leAt ps 0x18 2
    if n = 0 ∨ 64 < n then [] else [(0x10, leAt ps 0x10 8, 32 * n, fun bs => (records 32 bs n).all sideOk)]
  | 0x3001 =>
    if leAt ps 1 1 = 0 then [] else
      [(8, leAt ps 8 8, 8, layerHeadOk), (0x10, leAt ps 0x10 8, 32, timingOk (leAt ps 0 1))]
  | 0x3002 =>
    if leAt ps 1 1 = 0 ∨ 128 < leAt ps 0xC 2 then [] else
      [(0x10, leAt ps 0x10 8, 16 + 16 * leAt ps 0xC 2, fun bs => canBlockOk bs (leAt ps 0xC 2))]
  | _ => []

/-- An index as its parameter names it. -/
def State.gfxCtx (s : State) (c : Nat) : GfxCtx := tabGet (fun _ => GfxCtx.init) s.gctx c
def State.idx (s : State) (id : Nat) : Option IdxRec := tabGet (fun _ => none) s.idxs id

/-- The stride of a vector (R386). -/
def vecStride (dim : Nat) : Nat := 64 * ((dim + 31) / 32)

/-- The ranges check 8 covers (R144): offset of the address, address, length, write permission needed. -/
def addrRules (s : State) (op : Nat) (ps : List Byte) : List (Nat × Nat × Nat × Bool) :=
  let u (off n : Nat) : Nat := leAt ps off n
  let vecs : List (Nat × Nat × Nat × Bool) := match s.idx (u 0 2) with
    | some x => [(8, u 8 8, u 4 4 * vecStride x.dim, false)]
    | none => []
  match op with
  | 0x0001 => [(0, u 0 8, 64, true)]
  | 0x0010 => [(8, u 8 8, u 4 4, false)]
  | 0x1000 =>
    [(0, u 0 8, 64, false)] ++ (if u 0x18 2 = 0 then [] else [(0x10, u 0x10 8, 32 * u 0x18 2, false)]) ++
    (List.range (u 8 2)).flatMap fun i =>
      let b := 0x20 + 16 * i
      (if bitB (u (b + 12) 4) 0 then [(b, u b 8, u (b + 8) 4, false)] else []) ++
      (if bitB (u (b + 12) 4) 1 then [(b, u b 8, u (b + 8) 4, true)] else [])
  | 0x1001 => [(0x10, u 0x10 8, 16 + u 4 4 * (8 + 16 * u 2 2), true)]
  | 0x1002 => [(0, u 0 8, u 8 4, false)]
  | 0x2001 => [(8, u 8 8, 64, true)]
  | 0x2004 => [(0, u 0 8, u 0x10 4, true)] ++ (if bitB (u 0x14 4) 0 then [] else [(8, u 8 8, u 0x10 4, false)])
  | 0x2005 => [(8, u 8 8, u 4 4, false)]
  | 0x3000 => [(8, u 8 8, 32 * u 0x10 2, false), (8, u 8 8, 32 * u 0x10 2, true)]
  | 0x3001 => if u 1 1 = 0 then [] else [(8, u 8 8, 8, false), (0x10, u 0x10 8, 32, false)]
  | 0x3002 => if u 1 1 = 0 then [] else [(0x10, u 0x10 8, 16 + 16 * u 0xC 2, false)]
  | 0x4000 => [(0x10, u 0x10 8, u 0x18 8, false), (0x10, u 0x10 8, u 0x18 8, true)]
  | 0x4001 => vecs ++ [(0x10, u 0x10 8, 8 * u 4 4, false)]
  | 0x4002 => vecs ++ [(0x10, u 0x10 8, 8 * u 4 4, false)]
  | 0x4003 => [(8, u 8 8, 8 * u 4 4, false)]
  | 0x5001 => [(0, u 0 8, u 8 4, true)]
  | 0x5002 => [(8, u 8 8, 272, true)]
  | 0x5004 => [(8, u 8 8, 528 * u 4 4, true)]
  | 0x5005 => [(0, u 0 8, 144, true)]
  | 0x6005 => [(0, u 0 8, 64, true)]
  | 0x7004 => [(0, u 0 8, 64, true)]
  | 0x8005 => if u 0x10 8 = 0 then [] else [(8, u 8 8, u 0x10 8, true)]
  | 0x8006 => [(8, u 8 8, u 0x10 8, false)]
  | _ => []

/-- A unit the packet names that another instance owns (check 5): the parameter's offset. A field that the packet is too short
to hold names no unit. -/
def ownerRule (s : State) (inst op : Nat) (ps : List Byte) : Option Nat :=
  let u (off n : Nat) : Nat := if off + n ≤ ps.length then leAt ps off n else 0xFFFF
  let idx : Option Nat := match s.idx (u 0 2) with
    | some x => if x.owner = inst then none else some 0
    | none => none
  let other (on : Bool) (owner off : Nat) : Option Nat := if on && decide (owner ≠ inst) then some off else none
  let can (c off : Nat) : Option Nat := other (decide (s.getF (CAN_STATE.mode c) ≠ 0)) (s.getF (CAN_STATE.owner c)) off
  let out (o off : Nat) : Option Nat :=
    other (s.flag (DISP_OUT_STATE.enabled o)) (s.getF (DISP_OUT_STATE.owner o)) off
  let sen (t off : Nat) : Option Nat :=
    other (s.flag (SENS_STREAM_STATE.enabled t)) (s.getF (SENS_STREAM_STATE.owner t)) off
  match op with
  | 0x1001 => idx
  | 0x1002 => if u 0xC 1 < 16 then
      (match (s.gfxCtx (u 0xC 1)).owner with
       | some o => if o = inst then none else some 0xC
       | none => none) else none
  | 0x3000 => if u 0 1 < 4 ∧ u 1 1 < 4 then sen (4 * u 0 1 + u 1 1) 0 else none
  | 0x3001 => if u 0 1 < 4 then out (u 0 1) 0 else none
  | 0x3002 => if u 0 1 < 16 then can (u 0 1) 0 else none
  | 0x3003 => if u 0 1 < 16 then can (u 0 1) 0 else none
  | 0x3005 =>
    match u 0 1 with
    | 0 => if u 1 1 < 16 then sen (u 1 1) 1 else none
    | 1 => if u 1 1 < 4 then out (u 1 1) 1 else none
    | 2 => if u 1 1 < 16 then can (u 1 1) 1 else none
    | _ => none
  | 0x4000 => idx
  | 0x4001 => idx
  | 0x4002 => idx
  | 0x4003 => idx
  | 0x4004 => idx
  | 0x4005 => idx
  | 0x4006 => idx
  | _ => none

/-- INST opcodes that need a running target (check 9). -/
def needsRunning (op : Nat) : Bool := decide (op ∈ ([0x8000, 0x8001, 0x8002, 0x8003] : List Nat))

/-- The state of an instance (R466). -/
def instState (s : State) (i : Nat) : Nat := s.getF (INST_STATE.state i)

/-- The least offset of a failed rule. -/
def firstBad (l : List PRule) : Option Nat :=
  l.foldl (fun b r => if r.2 then b else match b with
    | none => some r.1
    | some x => some (min x r.1)) none

/-- What validation answers: pass, a failed check with its packet offset and fault address, or poison read in bytes that
check 7 judges. -/
inductive Verdict where
  | pass
  | fail (check off fault : Nat)
  | poison (pa : Nat)
deriving DecidableEq, Repr

/-- Check 7's bytes in memory: those that do not translate pass. -/
def memCheck (w : Who) : List (Nat × Nat × Nat × (List Byte → Bool)) → State → State × List PRule × Option Nat
  | [], s => (s, [], none)
  | (off, va, n, ok) :: t, s =>
    match peekBytes s w va n with
    | (s1, .ok bs) =>
      let r := memCheck w t s1
      (r.1, (off, ok bs) :: r.2.1, r.2.2)
    | (s1, .error (.poison pa)) => (s1, [], some pa)
    | (s1, .error _) => memCheck w t s1

/-- Check 8's ranges in order of offset: the first that does not translate. -/
def addrCheck (w : Who) : List (Nat × Nat × Nat × Bool) → State → State × Option (Nat × Nat)
  | [], s => (s, none)
  | (off, va, n, wr) :: t, s =>
    match rangeOk w wr (pageSegs va n) s with
    | (s1, none) => addrCheck w t s1
    | (s1, some (a, r, l)) => (xltRecord s1 w a r l wr, some (off, a))

/-- The header rules of check 2, in order of offset. -/
def headerRules (h : List Byte) : List PRule :=
  [(2, decide (leAt h 2 1 < 32)), (3, decide (leAt h 3 1 = 1)), (0xB, decide (leAt h 0xB 1 = 0)),
   (0xC, decide (leAt h 0xC 4 = 0))]

/-- Checks 4 and 5 (R115, R127, R145, R172). -/
def rightsCheck (s : State) (q : Nat) (h ps : List Byte) : Verdict :=
  let op := leAt h 0 2
  let inst := bits (leAt h 8 1) 0 4
  let lane := bits (leAt h 8 1) 4 3
  let lc := bitB (leAt h 8 1) 7
  if inst ≠ qOwner q then .fail 4 8 0
  else if !bitB (classMask s inst) (op / 0x1000) || (needsManager op && decide (inst ≠ s.manager)) then .fail 5 0 0
  else if !bitB (laneMask s inst) lane || (lc && !bitB (lcMask s inst) lane) then .fail 5 8 0
  else match ownerRule s inst op ps with
    | some off => .fail 5 (0x20 + off) 0
    | none => .pass

/-- The checks of R127 in order. `h` is the header, `ps` the parameters, `size` the slot's bytes. -/
def validate (s : State) (q size : Nat) (h ps : List Byte) : State × Verdict :=
  let op := leAt h 0 2
  let len := leAt h 9 2
  if 256 ≤ len ∨ size < 32 + 8 * len then (s, .fail 1 9 0)
  else match firstBad (headerRules h) with
    | some off => (s, .fail 2 off 0)
    | none =>
      if op ∉ opcodes then (s, .fail 3 0 0)
      else match rightsCheck s q h ps with
        | .pass =>
          if !lenOk op len ps then (s, .fail 6 9 0)
          else
            let inst := qOwner q
            let w : Who := { cpWho inst ⟨q, 0x20, op, leAt h 4 4⟩ with
              lane := if isJobOp op then some (bits (leAt h 8 1) 4 3) else none }
            match memCheck w (memRules op ps) s with
            | (s1, _, some pa) => (s1, .poison pa)
            | (s1, rs, none) =>
              match firstBad (paramRules s1 op ps ++ rs) with
              | some off => (s1, .fail 7 (0x20 + off) 0)
              | none =>
                match addrCheck w (addrRules s1 op ps) s1 with
                | (s2, some (off, va)) => (s2, .fail 8 (0x20 + off) va)
                | (s2, none) =>
                  if needsRunning op && decide (instState s2 (leAt ps 0 1) = 3) then (s2, .fail 9 0 0)
                  else (s2, .pass)
        | v => (s, v)

/-- The status of a failed check (R127). -/
def checkStatus : Nat → Nat
  | 1 => 0x12
  | 2 => 0x11
  | 3 => 0x10
  | 4 => 0x20
  | 5 => 0x20
  | 6 => 0x12
  | 7 => 0x11
  | 8 => 0x20
  | _ => 0x80

end Sys2Proof.Machine
end

