-- ==== Sys2Proof/Machine/InstOps.lean ====
section
/-! DEFINITION. Instance states and mailbox notices (R466, R470), and what happens to the packets of an instance. -/

namespace Sys2Proof.Machine

/-- The mailbox page of an instance; 0 is none (R468). -/
def mboxAddr (s : State) (i : Nat) : Nat := s.getF (INST_MBOX_LO.lo i) * 4096 + s.getF (INST_MBOX_HI.hi i) * 2 ^ 32

/-- The page lies in populated LPDDR5X, in a shared channel (R468). -/
def mboxOk (s : State) (pa : Nat) : Bool :=
  match region s pa with
  | .dram ch => bitB (sharedChans s) ch
  | _ => false

/-- The notice line (R470). -/
def noticeBytes (count old new op time flags : Nat) : List Byte :=
  leBytes 4 count ++ leBytes 1 old ++ leBytes 1 new ++ leBytes 2 op ++ leBytes 8 time ++ leBytes 4 flags ++ leBytes 44 0

/-- Write a notice and set pend_ten, or set mbox_err (R470); without a mailbox nothing is written. -/
def notice (s : State) (i old new op : Nat) (migrated : Bool) : State :=
  let pg := mboxAddr s i
  if pg = 0 then s
  else if mainReleased s && mboxOk s pg && (poisonIn s (pg + 0xFC0) 64).isNone then
    let x := s.inst i
    let n := u32 (x.notices + 1)
    let fl := b2n migrated + 2 * s.getF (INST_STATE.held_quiesce i)
    let s1 := physWr (s.setInst i { x with notices := n }) (pg + 0xFC0) 0 (noticeBytes n old new op s.now fl)
    raiseHost ((s1.addWrap (INST_NOTICES.n i) 1).setF (INST_MBOX_PEND.pend_ten i) 1) (128 + i)
  else s.setF (INST_STATE.mbox_err i) 1

/-- Change an instance's state with its notice (R466, R470). -/
def setInstState (s : State) (i new op : Nat) : State :=
  let old := instState s i
  if old = new then s else notice (s.setF (INST_STATE.state i) new) i old new op false

/-- Is a queue of an instance enabled? -/
def anyQueue (s : State) (i : Nat) : Bool := (List.range 4).any fun k => s.flag (CMDP_QCFG.enable (4 * i + k))

/-- An Empty instance that gains rights, a queue or a translation format runs (R466). -/
def wakeEmpty (s : State) (i op : Nat) : State :=
  if instState s i = 0 then setInstState s i 1 op else s

/-- An INST_REMOVE of the instance is under way: what it owns stops as STREAM_STOP would stop it (R473). -/
def leaving (s : State) (i : Nat) : Bool := s.pkts.any fun p => decide (p.opcode = 0x8008 ∧ p.phase = .waiting ∧ p.u 0 1 = i)

/-- Packets of an instance that have no completion record. -/
def instPkts (s : State) (i : Nat) : List Pkt := s.pkts.filter fun p => decide (qOwner p.q = i)

/-- A packet's effect is still to come or in progress. -/
def unfinished (p : Pkt) : Bool := decide (p.phase ≠ .ended)

/-- A lane is named by the header of a consumed packet whose effect is not complete (R161, R187). -/
def laneInFlight (s : State) (l q idx : Nat) : Bool :=
  s.pkts.any fun p => unfinished p && decide (p.lane = l) && !samePkt q idx p

/-- Tsuquel consumes no packet while a PWR_PARK or a PWR_SHUTDOWN drains the queues (R185, R186). -/
def draining (s : State) : Bool :=
  s.pkts.any fun p => decide (p.opcode = 0x6003 ∨ p.opcode = 0x6004) && decide (p.phase = .started ∨ p.phase = .waiting)

/-- Packets of the target end with ST_QUIESCED: those selected. -/
def quiesceThese (s : State) (l : List Pkt) : State := l.foldl endQuiesced s

/-- The waits that a quiesce or a freeze ends (R472): SYS_WAIT, IDX_WAIT and RING_RECV. -/
def isWaitOp (op : Nat) : Bool := decide (op = 0x0004 ∨ op = 0x4005 ∨ op = 0x5004)

/-- The instance's packets may start or go on (R191, R193, R471). -/
def mayStart (s : State) (i : Nat) : Bool := decide (instState s i ≠ 2 ∧ instState s i ≠ 3 ∧ (s.inst i).busy = 0)

end Sys2Proof.Machine
end

