-- ==== Sys2Proof/Machine/PacketCmds.lean ====
section
/-! DEFINITION. The meanings of the queue commands (spec/04): doorbells, enabling and disabling, consumption and the
drain of the violation log. -/

namespace Sys2Proof.Machine

/-- A register write with an effect of its own: refused and logged where the writer may write no bit (R608, R609). -/
def guarded (s : State) (m : BusMaster) (addr v : Nat) (f : State → State) : State :=
  match findReg addr with
  | none => s
  | some (r, i) => if writeMask s m r i v = 0 then forbid s m addr 4 else f s

/-- A doorbell value is valid (R121). -/
def doorbellOk (s : State) (q d : Nat) : Bool :=
  let tail := s.getF (CMDP_DB.tail q)
  decide (sub32 d tail ≤ sub32 (qSlots s q) (sub32 tail (s.queue q).done))

/-- The effect of a doorbell (R121). -/
def doorbell (s : State) (m : BusMaster) (q d : Nat) : State :=
  if !s.flag (CMDP_QCFG.enable q) then s
  else if d = s.getF (CMDP_DB.tail q) then s
  else if doorbellOk s q d then s.setF (CMDP_DB.tail q) d
  else
    let s1 := vlog s 6 (CMDP_DB.addr q) (masterId m) (masterInst s m) (qCtx q)
    writeStatus (stopQueue s1 q 1) q

/-- DOORBELL_WRITE (R121). -/
def execDoorbellWrite (m : BusMaster) (q : Nat) (v : Word) (s : State) : Res :=
  .next (if q < 64 then guarded (masterDemand s m) m (CMDP_DB.addr q) v.toNat (fun t => doorbell t m q v.toNat) else s)

/-- No consumed packet of the queue lacks its record, and the queue is disabled (R125). -/
def drained (s : State) (q : Nat) : Bool :=
  !s.flag (CMDP_QCFG.enable q) && decide ((s.queue q).head = (s.queue q).done)

/-- The registers of the queue hold values enable may take (R117). -/
def queueSetOk (s : State) (q : Nat) : Bool :=
  decide (s.getF (CMDP_QCFG.log2_entries q) ≤ 12 ∧ s.getF (CMDP_QCFG.slot_code q) ≤ 6) &&
  decide (qBase s q % qSlotSize s q = 0 ∧ qStat s q % 64 = 0)

/-- Enable a queue (R117, R122, R466): counters from 0, the status block written. -/
def enableQueue (s : State) (q : Nat) : State :=
  let s1 := ((s.setF (CMDP_QCFG.enable q) 1).setF (CMDP_DB.tail q) 0).setF (CMDP_QSTATE.error q) 0
  let s2 := (s1.setF (CMDP_QSTATE.reason q) 0).setQueue q { QueueState.init with irqs := (s.queue q).irqs }
  wakeEmpty (writeStatus (paceDrop s2 fun a => decide (a = .consume q ∨ a = .status q)) q) (qOwner q) 0

/-- The effect of a write to CMDP_QCFG (R116, R117, R125). -/
def qcfgWrite (s : State) (m : BusMaster) (q v : Nat) : State :=
  let a := CMDP_QCFG.addr q
  let en := bitB v 8
  if s.flag (CMDP_QCFG.enable q) then
    let s1 := if (s.rd a).toNat % 256 = v % 256 then s else forbid s m a 4
    if en then s1 else s1.setF (CMDP_QCFG.enable q) 0
  else if en && !drained s q then forbid s m a 4
  else
    let s1 := (s.setF (CMDP_QCFG.log2_entries q) (bits v 0 4)).setF (CMDP_QCFG.slot_code q) (bits v 4 4)
    if !en then s1
    else if queueSetOk s1 q then enableQueue s1 q else forbid s1 m a 4

/-- QUEUE_ENABLE (R117): a write to CMDP_QCFG with enable 1. -/
def execQueueEnable (m : BusMaster) (q : Nat) (v : Word) (s : State) : Res :=
  let x := putBits v.toNat 8 1 1
  .next (if q < 64 then guarded (masterDemand s m) m (CMDP_QCFG.addr q) x (fun t => qcfgWrite t m q x) else s)

/-- QUEUE_DISABLE (R125): a write to CMDP_QCFG with enable 0. -/
def execQueueDisable (m : BusMaster) (q : Nat) (v : Word) (s : State) : Res :=
  let x := putBits v.toNat 8 1 0
  .next (if q < 64 then guarded (masterDemand s m) m (CMDP_QCFG.addr q) x (fun t => qcfgWrite t m q x) else s)

/-- The slot address of an index (R118). -/
def slotAddr (s : State) (q n : Nat) : Nat := (qBase s q + n % qSlots s q * qSlotSize s q) % 2 ^ 64

/-- A packet as Tsuquel holds it (R107). -/
def mkPkt (s : State) (q n va : Nat) (h ps : List Byte) : Pkt where
  q := q
  idx := n
  slotAddr := va
  opcode := leAt h 0 2
  flags := leAt h 2 1
  seq := leAt h 4 4
  inst := bits (leAt h 8 1) 0 4
  lane := bits (leAt h 8 1) 4 3
  lc := bitB (leAt h 8 1) 7
  deadline := leAt h 0x10 8
  replyAddr := leAt h 0x18 8
  params := ps
  at_ := s.now
  began := 0
  phase := .consumed
  reply := none
  prog := 0
  out := none

/-- A packet that failed a check of R127 ends, and is logged unless frozen (R128). Check 8's entry is that of R272. -/
def failCheck (s : State) (p : Pkt) (check off fault : Nat) : State :=
  let st := checkStatus check
  let log (k : Nat) : State := vlog s k (p.slotAddr + off) 0x70 (some (qOwner p.q)) (pktCtx p st)
  match check with
  | 9 => endPlain s p st 0 0
  | 8 => endPlain s p st (off + 8 * 2 ^ 16) fault
  | 4 => endPlain (log 2) p st (off + 4 * 2 ^ 16) 0
  | 5 => endPlain (log 2) p st (off + 5 * 2 ^ 16) 0
  | c => endPlain (log 1) p st (off + c * 2 ^ 16) 0

/-- The first JOB_GFX that names a context binds it to its instance (R416). -/
def bindCtx (s : State) (p : Pkt) : State :=
  let c := p.u 0xC 1
  if p.opcode = 0x1002 then
    let t : State := { s with gctx := tabPut (fun _ => GfxCtx.init) s.gctx c { s.gfxCtx c with owner := some p.inst } }
    (t.setF (GFX_CTX.bound c) 1).setF (GFX_CTX.instance c) p.inst
  else s

/-- What follows a packet's validation (R109, R127, R191). -/
def afterCheck (s : State) (p : Pkt) : Verdict → State
  | .fail c off fault => failCheck s p c off fault
  | .poison pa => endPlain s p 0x40 0 pa
  | .pass =>
    let s0 := bindCtx s p
    let s1 := if bitB p.flags 1 then writeReply s0 p (acceptedReply s0) else s0
    let i := qOwner p.q
    if (s1.inst i).busy = 1 ∨ (s1.inst i).busy = 2 ∨ instState s1 i = 2 then endQuiesced s1 p else s1

/-- A queue memory fault on the slot itself (R124): the queue stops. -/
def slotFault (s : State) (q va : Nat) : State :=
  writeStatus (stopQueue (vlog s 7 va 0x70 (some (qOwner q)) (qCtx q)) q 2) q

/-- The slot's packet has been read: head advances and the packet is validated (R118, R122, R127). -/
def takePacket (s : State) (q va : Nat) (h ps : List Byte) : State :=
  let x := s.queue q
  let p := mkPkt s q x.head va h ps
  let s1 := writeStatus ({ s with pkts := s.pkts ++ [p] }.setQueue q { x with head := u32 (x.head + 1) }) q
  let r := validate s1 q (qSlotSize s1 q) h ps
  afterCheck r.1 p r.2

/-- Read the packet at head and consume it (R119, R123). -/
def consume (s : State) (q : Nat) : State :=
  let va := slotAddr s q (s.queue q).head
  let w := cpWho (qOwner q) (qCtx q)
  match dmaRead (demand s 11) w va 32 with
  | (s1, .error _) => slotFault s1 q va
  | (s1, .ok h) =>
    let len := leAt h 9 2
    if len = 0 ∨ 256 ≤ len ∨ qSlotSize s1 q < 32 + 8 * len then takePacket s1 q va h []
    else match dmaRead s1 w (va + 32) (8 * len) with
      | (s2, .error _) => slotFault s2 q va
      | (s2, .ok ps) => takePacket s2 q va h ps

/-- A packet of the queue may be consumed now (R123, R185, R193). -/
def mayConsume (s : State) (q : Nat) : Bool :=
  accepting s && s.flag (CMDP_QCFG.enable q) && !s.flag (CMDP_QSTATE.error q) &&
  decide ((s.queue q).head ≠ s.getF (CMDP_DB.tail q)) && !draining s &&
  decide (instState s (qOwner q) ≠ 3 ∧ (s.inst (qOwner q)).busy ≠ 3)

/-- PACKET_CONSUME (R119, R123, R127). -/
def execPacketConsume (q : Nat) (s : State) : Res := .next (if q < 64 ∧ mayConsume s q then
    paceAct (.consume q) (fun t => consume t q) s else s)

/-- The drain rule of R140 and R242 for a ring of `cap` entries: the new RD, or none where the write is discarded. -/
def drainRd (cap wr rd v : Nat) : Option Nat :=
  if cap < sub32 wr v then none
  else if 1 ≤ sub32 rd v ∧ sub32 rd v ≤ cap then some rd
  else some v

/-- CMDP_VLOG_RD takes the new RD, or the write is logged and discarded. -/
def vlogRdSet (s : State) (m : BusMaster) : Option Nat → State
  | none => forbid s m CMDP_VLOG_RD.addr 4
  | some r => s.setF CMDP_VLOG_RD.rd r

/-- The effect of a write to CMDP_VLOG_RD (R140). -/
def vlogRd (s : State) (m : BusMaster) (v : Nat) : State :=
  vlogRdSet s m (drainRd 64 (s.getF CMDP_VLOG_WR.wr) (s.getF CMDP_VLOG_RD.rd) v)

/-- VLOG_RD_WRITE (R140). -/
def execVlogRdWrite (m : BusMaster) (v : Word) (s : State) : Res :=
  .next (guarded (masterDemand s m) m CMDP_VLOG_RD.addr v.toNat (fun t => vlogRd t m v.toNat))

end Sys2Proof.Machine
end

