-- ==== Sys2Proof/Machine/SystemCmds.lean ====
section
/-! DEFINITION. The system class (spec/05: SYS_NOP to SYS_ROLLBACK) and its preconditions. -/

namespace Sys2Proof.Machine

/-- The ring node address; none until RING_CONFIG has set it (R198, SYS_INFO). -/
def ringNode (s : State) : Option Nat := if s.ring.configured then some (s.getF RING_CTRL.node) else none

/-- SYS_NOP. -/
def execSysNop (q idx : Nat) (s : State) : Res := carry s q idx 0x0000 noPre fun t p => complete t p 0 0 0

/-- INST_RIGHTS bytes 0x01 to 0x05 of an instance. -/
def rightsBytes (s : State) (i : Nat) : List Byte :=
  leBytes 1 (b2n (decide (i = s.manager))) ++ leBytes 2 (classMask s i) ++ leBytes 1 (laneMask s i) ++
  leBytes 1 (lcMask s i)

/-- The 64-byte block of SYS_INFO. -/
def sysInfoBytes (s : State) (i : Nat) : List Byte :=
  leBytes 4 (s.getF SYS_CHIP_ID.chip_id) ++ leBytes 4 (s.getF SYS_STEPPING.stepping) ++
  leBytes 4 (Config.tsuquelVersion (s.getF BOOT_IMAGE.image_version)) ++ leBytes 4 (s.getF BOOT_IMAGE.image_version) ++
  leBytes 1 (s.getF BOOT_STATUS.slot) ++ leBytes 1 ((ringNode s).getD 0xFF) ++
  leBytes 1 (bitsMask ((definedLanes s).map Prod.fst)) ++ leBytes 1 0 ++ leBytes 4 (16 * 512 * 2 ^ s.boot.dramCap) ++
  leBytes 8 s.now ++ rightsBytes s i ++ leBytes 3 0 ++ leBytes 24 0

/-- SYS_INFO. -/
def execSysInfo (q idx : Nat) (s : State) : Res :=
  carryDma s q idx 0x0001 noPre fun t p => outAndEnd t p (p.u 0 8) (sysInfoBytes t p.inst) 0

/-- The preconditions of SYS_TIME (R151). -/
def preSysTime (s : State) (p : Pkt) : State × PreFail :=
  (s, firstPre [(decide (p.u 0 1 ≠ 2) || (decide (s.getF RING_CTRL.node ≠ 0) && (ringNode s).isSome), 0),
                (decide (p.u 1 1 = 0 ∨ p.u 0 1 = 1), 1)])

/-- SYS_TIME (R151, R78). -/
def execSysTime (q idx : Nat) (s : State) : Res :=
  carry s q idx 0x0002 preSysTime fun t p =>
    let t1 := t.setF TIME_CTRL.rate_src (p.u 0 1)
    let t2 := if p.u 1 1 = 1 then rateAdjust t1 (sext 32 (p.u 4 4)) else t1
    complete t2 p 0 (t2.getF TIME_RATE_ADJ.adj) 0

/-- An instance's event flag (R152). -/
def eventSet (s : State) (i e : Nat) : Bool := bitB (s.inst i).events e
def putEvent (s : State) (i e : Nat) (b : Bool) : State :=
  s.setInst i { s.inst i with events := putBits (s.inst i).events e 1 (b2n b) }

/-- A timeout has expired before now (R134, R150): an arrival in its own tick still wins. -/
def expired (s : State) (timeout : Nat) : Bool := decide (timeout ≠ 0 ∧ timeout < s.now)

/-- The flag is set (R152): every wait pending on it completes, and the flag is cleared if any of them asks for it. A
wait whose timeout has passed ends by its timeout. -/
def signalEvent (s : State) (i e : Nat) : State :=
  let ws := (instPkts s i).filter fun p =>
    decide (p.opcode = 0x0004 ∧ p.phase = .waiting ∧ p.u 0 1 = e) && !expired s (p.u 8 8)
  let s1 := ws.foldl (fun t p => complete t p 0 e 0) (putEvent s i e true)
  if ws.any fun p => bitB (p.u 1 1) 0 then putEvent s1 i e false else s1

/-- SYS_SIGNAL (R152). -/
def execSysSignal (q idx : Nat) (s : State) : Res :=
  carry s q idx 0x0003 noPre fun t p => signalEvent (complete t p 0 0 0) (qOwner q) (p.u 0 1)

/-- SYS_WAIT (R152): it completes at once when the flag is set, and otherwise waits. -/
def execSysWait (q idx : Nat) (s : State) : Res :=
  carry s q idx 0x0004 noPre fun t p =>
    let i := qOwner q
    let e := p.u 0 1
    if eventSet t i e then complete (if bitB (p.u 1 1) 0 then putEvent t i e false else t) p 0 e 0
    else t.setPkt { p with phase := .waiting }

/-- Bytes of the flash device (R85). -/
def flashBytes : Nat := 0x100000 * min 256 (max 8 Config.flashMiB)

/-- The preconditions of SYS_FLASH_WRITE (R153). -/
def preFlashWrite (s : State) (p : Pkt) : State × PreFail :=
  let a := p.u 0 4
  let n := p.u 4 4
  let slot := slotBase (1 - s.getF BOOT_STATUS.slot)
  (s, firstPre [(decide ((slot ≤ a ∧ a + n ≤ slot + 0x400000) ∨ (0x800000 ≤ a ∧ a + n ≤ flashBytes)), 0)])

def putFlash (s : State) (a : Nat) (bs : List Byte) : State :=
  let f (m : List (Nat × Byte)) (e : Byte × Nat) : List (Nat × Byte) := tabPut (fun _ => (0xFF : Byte)) m (a + e.2) e.1
  { s with ms := { s.ms with flash := (bs.zipIdx).foldl f s.ms.flash } }

/-- Program a range; sector `bad` fails its retries and keeps bytes the spec does not give (R153). -/
def flashWrite (s : State) (p : Pkt) (bs : List Byte) (bad : Option Nat) : State :=
  let a := p.u 0 4
  match bad with
  | some k =>
    if 4096 * k < bs.length then
      let f := (putFlash s a (bs.take (4096 * k))).fresh
      complete (putFlash f.2 (a + 4096 * k) (leBytes 4096 f.1)) p 0x40 (3 * 2 ^ 28) (a + 4096 * k)
    else complete (putFlash s a bs) p 0 0 0
  | none => complete (putFlash s a bs) p 0 0 0

/-- SYS_FLASH_WRITE (R153). `badSector` is the first sector of the range that fails 3 retries, if any. -/
def execSysFlashWrite (q idx : Nat) (badSector : Option Nat) (s : State) : Res :=
  carryDma s q idx 0x0010 preFlashWrite fun t p =>
    match dmaRead t (pktWho p false) (p.u 8 8) (p.u 4 4) with
    | (t1, .ok bs) => flashWrite t1 p bs badSector
    | (t1, .error e) => endErr t1 p e

/-- SYS_FLASH_CHECK (R154). -/
def execSysFlashCheck (q idx : Nat) (xspiError : Bool) (s : State) : Res :=
  carry s q idx 0x0011 noPre fun t p => complete t p 0 (slotCause t (p.u 0 1) xspiError) 0

/-- The rollback field of the running slot's header (R87). -/
def runningRollback (s : State) : Nat := hdrField (rdFlash s (slotBase (s.getF BOOT_STATUS.slot)) 256) 0xC 4

/-- The precondition of SYS_ROLLBACK (R155). -/
def preRollback (s : State) (p : Pkt) : State × PreFail :=
  (s, firstPre [(decide (p.u 0 4 ≤ runningRollback s), 0)])

/-- SYS_ROLLBACK (R155). -/
def execSysRollback (q idx : Nat) (s : State) : Res :=
  carry s q idx 0x0012 preRollback fun t p =>
    let t1 := { t with ms := { t.ms with floor := max t.ms.floor (p.u 0 4) } }
    complete t1 p 0 t1.ms.floor 0

end Sys2Proof.Machine
end

