-- ==== Sys2Proof/Machine/LaneOps.lean ====
section
/-! DEFINITION. Lanes as registers and records: what LANE_CONFIG, SAF_PAIR, MEM_PACE and a bring-up write (R161, R260,
R620), and cached translations (R270). -/

namespace Sys2Proof.Machine

def State.setLane (s : State) (l : Nat) (r : Option LaneRec) : State :=
  { s with lanes := tabPut (fun _ => none) s.lanes l r }

/-- The registers that show one lane (R260, R336): zero where it is undefined. -/
def laneRegs (s : State) (l : Nat) : State :=
  match s.lane l with
  | some r =>
    let s1 := (s.setF (MEM_LANE_RES.chan_mask l) r.chans).setF (MEM_LANE_RES.way_mask l) r.ways
    (((s1.setF (MEM_LANE_TILE.tile_mask l) r.tiles).setF (MEM_LANE_BAY.base l) r.bayBase).setF (MEM_LANE_BAY.len l)
      r.bayLen).setF TILE_PAIRED.lane_paired (putBits (s.getF TILE_PAIRED.lane_paired) l 1 (b2n r.paired))
  | none =>
    let s1 := (s.setF (MEM_LANE_RES.chan_mask l) 0).setF (MEM_LANE_RES.way_mask l) 0
    (((s1.setF (MEM_LANE_TILE.tile_mask l) 0).setF (MEM_LANE_BAY.base l) 0).setF (MEM_LANE_BAY.len l)
      0).setF TILE_PAIRED.lane_paired (putBits (s.getF TILE_PAIRED.lane_paired) l 1 0)

/-- MEM_SHARED (R260). -/
def sharedRegs (s : State) : State :=
  (s.setF MEM_SHARED.shared_chan (sharedChans s)).setF MEM_SHARED.shared_way (sharedWays s)

/-- The pacer registers of a lane return to reset values (R161; those of an undefined lane read theirs). -/
def paceReset (s : State) (l : Nat) : State :=
  let s1 := (List.range 8).foldl (fun t c =>
    let k := 8 * l + c
    ((t.setF (PACE_BUDGET.n k) 0xFFFFFFFF).setF (PACE_COUNT.n k) 0).setF (PACE_OVERRUN.n k) 0) s
  let s2 := ((s1.setF (PACE_HOLDS.n l) 0).setF (PACE_STALL.ticks l) 100000).setF (PACE_LATE.misses l) 0
  let s3 := (s2.setF (PACE_LATE.stalls l) 0).setF (PACE_OVERRUN_WIN.n l) 0
  let mine (e : Nat × Nat) : Bool := decide (e.1 / 8 = l)
  { s3 with pace := { s3.pace with
      budgetNext := s3.pace.budgetNext.filter fun e => !mine e
      budgetRec := s3.pace.budgetRec.filter fun e => !mine e
      stallRec := s3.pace.stallRec.filter fun e => decide (e.1 ≠ l) } }

/-- Drop cached translations of an instance in a virtual range; length 0 means all (R163, R270). -/
def dropXlt (s : State) (i va len : Nat) : State :=
  { s with ms := { s.ms with tlb := s.ms.tlb.filter fun t =>
      let sz := 2 ^ (39 - 9 * t.level)
      !(decide (t.inst = i) && (decide (len = 0) || decide (t.vpn * sz < va + len ∧ va < (t.vpn + 1) * sz))) } }

/-- The tile statistics slots of a lane (R359): 16 per lane. -/
def qsClear (s : State) (l mask : Nat) : State :=
  (maskBits 16 mask).foldl (fun t k =>
    let i := 16 * l + k
    ((((t.setF (TILE_QS_COUNT.n i) 0).setF (TILE_QS_CLIPPED.n i) 0).setF (TILE_QS_NONFIN.n i) 0).setF
      (TILE_QS_SSE_LO.n i) 0).setF (TILE_QS_SSE_HI.n i) 0) s

end Sys2Proof.Machine
end

