-- ==== Sys2Proof/Machine/MemCmds.lean ====
section
/-! DEFINITION. The memory and lanes class (spec/05: LANE_CONFIG to MEM_PACE). -/

namespace Sys2Proof.Machine

/-- Two ranges of numbers share one. -/
def overlaps (a n b m : Nat) : Bool := decide (0 < n ∧ 0 < m ∧ a < b + m ∧ b < a + n)

/-- The preconditions of LANE_CONFIG (R161). -/
def preLaneConfig (s : State) (p : Pkt) : State × PreFail :=
  let l := p.u 0 1
  let others := definedLanes s
  let free (f : LaneRec → Nat) (m : Nat) : Bool := others.all fun e => decide (andN (f e.2) m = 0)
  let bb := p.u 0x10 4 / 0x100000
  let bl := p.u 0x14 4 / 0x100000
  if p.u 1 1 = 1 then (s, firstPre [(!laneInFlight s l p.q p.idx, 0)])
  else (s, firstPre
    [((s.lane l).isNone, 0), (free LaneRec.tiles (p.u 4 4), 4), (free LaneRec.chans (p.u 8 2), 8),
     (free LaneRec.ways (p.u 0xA 2), 0xA),
     (decide (bb + bl ≤ 384) && others.all fun e => !overlaps bb bl e.2.bayBase e.2.bayLen, 0x10),
     (others.all fun e => !overlaps (p.u 0x18 8) (p.u 0x20 4) e.2.ckptBase e.2.ckptLen, 0x18)])

/-- Fill a lane's tile SRAM and Bay range with zeros (R253, R261). -/
def laneZero (s : State) (r : LaneRec) : State :=
  let s1 := (maskBits 32 r.tiles).foldl (fun t k => zeroFill t (0x60000000 + 0x400000 * k) 0x400000) s
  zeroFill s1 (0x40000000 + 0x100000 * r.bayBase) (0x100000 * r.bayLen)

/-- Define a lane (R161, R261, R359). -/
def laneDefine (s : State) (p : Pkt) : State :=
  let l := p.u 0 1
  let r : LaneRec := ⟨p.u 4 4, p.u 8 2, p.u 0xA 2, p.u 0x10 4 / 0x100000, p.u 0x14 4 / 0x100000, p.u 0x18 8, p.u 0x20 4,
    p.u 2 1, false⟩
  let s1 := laneZero (cacheFlushWays s r.ways) r
  sharedRegs (laneRegs (qsClear (paceReset (s1.setLane l (some r)) l) l 0xFFFF) l)

/-- Dissolve a lane (R161, R261). -/
def laneDissolve (s : State) (l : Nat) : State :=
  match s.lane l with
  | none => s
  | some r =>
    let s1 := (cacheFlushWays s r.ways).setLane l none
    sharedRegs (laneRegs (paceReset { s1 with reloads := s1.reloads.filter fun x => decide (x.lane ≠ l) } l) l)

/-- LANE_CONFIG (R161). -/
def execLaneConfig (q idx : Nat) (s : State) : Res :=
  carry s q idx 0x2000 preLaneConfig fun t p =>
    complete (if p.u 1 1 = 1 then laneDissolve t (p.u 0 1) else laneDefine t p) p 0 0 0

/-- The LANE_CONFIG block in effect for a lane. -/
def laneBlock (s : State) (l : Nat) : List Byte :=
  match s.lane l with
  | some r =>
    leBytes 1 l ++ leBytes 1 0 ++ leBytes 1 r.retry ++ leBytes 1 0 ++ leBytes 4 r.tiles ++ leBytes 2 r.chans ++
    leBytes 2 r.ways ++ leBytes 4 0 ++ leBytes 4 (r.bayBase * 0x100000) ++ leBytes 4 (r.bayLen * 0x100000) ++
    leBytes 8 r.ckptBase ++ leBytes 4 r.ckptLen ++ leBytes 28 0
  | none => leBytes 1 l ++ leBytes 1 0xFF ++ leBytes 62 0

/-- LANE_QUERY. -/
def execLaneQuery (q idx : Nat) (s : State) : Res :=
  carryDma s q idx 0x2001 noPre fun t p => outAndEnd t p (p.u 8 8) (laneBlock t (p.u 0 1)) 0

/-- MEM_ROOT needs its target quiesced or without an enabled queue (R162). -/
def preMemRoot (s : State) (p : Pkt) : State × PreFail :=
  (s, firstPre [(decide (instState s (p.u 0 1) = 2) || !anyQueue s (p.u 0 1), 0)])

/-- The 64 bytes of a new key pair, from the random source (R274). -/
def newKey (s : State) (i : Nat) : State :=
  if tabGet (fun _ => []) s.ms.keys i = [] then
    let t := s.fresh.2
    { t with ms := { t.ms with keys := tabPut (fun _ => []) t.ms.keys i (leBytes 64 s.fresh.1) } }
  else s

/-- Set an instance's translation (R162, R267, R274, R466). -/
def setRoot (s : State) (i fmt root op : Nat) : State :=
  let s1 := (s.setF (XLT_ROOT_LO.lo i) (root / 4096 % 2 ^ 20)).setF (XLT_ROOT_HI.hi i) (root / 2 ^ 32 % 2 ^ 8)
  let s2 := dropXlt ((s1.setF (XLT_CFG.format i) fmt).setInst i { s1.inst i with fmt := fmt, root := root }) i 0 0
  if fmt = 0 then s2
  else wakeEmpty ((newKey s2 i).setF (XLT_CFG.key_valid i) 1) i op

/-- MEM_ROOT (R162). -/
def execMemRoot (q idx : Nat) (s : State) : Res :=
  carry s q idx 0x2002 preMemRoot fun t p =>
    complete ((setRoot t (p.u 0 1) (p.u 1 1) (p.u 8 8) 0x2002).addWrap XLT_INVALIDATES.n 1) p 0 0 0

/-- A submitter without the manager right names itself (R163). -/
def preInvalidate (s : State) (p : Pkt) : State × PreFail :=
  (s, firstPre [(decide (p.u 0 1 = qOwner p.q ∨ qOwner p.q = s.manager), 0)])

/-- MEM_INVALIDATE (R163, R270). -/
def execMemInvalidate (q idx : Nat) (s : State) : Res :=
  carry s q idx 0x2003 preInvalidate fun t p =>
    complete ((dropXlt t (p.u 0 1) (p.u 8 8) (p.u 0x10 8)).addWrap XLT_INVALIDATES.n 1) p 0 0 0

/-- MEM_COPY's ranges do not overlap (R164); no one parameter is concerned. -/
def preMemCopy (s : State) (p : Pkt) : State × PreFail :=
  (s, if !bitB (p.u 0x14 4) 0 && overlaps (p.u 0 8) (p.u 0x10 4) (p.u 8 8) (p.u 0x10 4) then .bad 0x20 else .ok)

/-- The destination of a copy that a fault ended holds undefined bytes wherever it can be written (R164). -/
def undefinedRange (s : State) (w : Who) (va n : Nat) : State :=
  let f := s.fresh
  (pageSegs va n).foldl (fun t g => match xlate t w g.1 true with
    | (t1, .ok (.mem pa slot _)) => wrMem t1 pa slot (slice (leBytes n f.1) (g.1 - va) g.2)
    | (t1, _) => t1) f.2

/-- The physical ranges that landed pieces of memory share with others: address, length and the key slot of the first. -/
def sharedRanges (as bs : List (Land × Nat)) : List (Nat × Nat × Nat) :=
  as.flatMap fun a => bs.filterMap fun b => match a.1, b.1 with
    | .mem pa slot _, .mem pb _ _ =>
      let lo := max pa pb
      let hi := min (pa + a.2) (pb + b.2)
      if lo < hi then some (lo, hi - lo, slot) else none
    | _, _ => none

/-- Where source and destination meet in physical memory, the destination's content is undefined (R164): a free value. -/
def copyAliased (s : State) (dst src : List (Land × Nat)) : State :=
  match sharedRanges dst src with
  | [] => s
  | rs =>
    let f := s.fresh
    rs.foldl (fun t r => wrMem t r.1 r.2.2 (leBytes r.2.1 f.1)) f.2

/-- MEM_COPY with a fill (R164): the destination is filled with zeros. -/
def memFill (s : State) (p : Pkt) (n : Nat) : State :=
  let w := pktWho p false
  match dmaWrite s w (p.u 0 8) (List.replicate n 0) with
  | (s1, none) => complete s1 p 0 0 0
  | (s1, some e) => endErr (undefinedRange s1 w (p.u 0 8) n) p e

/-- MEM_COPY (R164): a copy, or a fill with zeros. A fault on either range leaves the destination undefined. -/
def memCopy (s : State) (p : Pkt) : State :=
  let w := pktWho p false
  let n := p.u 0x10 4
  let undef (t : State) (e : MErr) : State := endErr (undefinedRange t w (p.u 0 8) n) p e
  if bitB (p.u 0x14 4) 0 then memFill s p n
  else match xlateAll w false (pageSegs (p.u 8 8) n) s with
    | (s1, .error e) => undef s1 e
    | (s1, .ok src) =>
      match readLands w src s1 with
      | (s2, .error e) => undef s2 e
      | (s2, .ok bs) =>
        match xlateAll w true (pageSegs (p.u 0 8) n) s2 with
        | (s3, .error e) => undef s3 e
        | (s3, .ok dst) => complete (copyAliased (writeLands w dst bs s3) dst src) p 0 0 0

/-- MEM_COPY. -/
def execMemCopy (q idx : Nat) (s : State) : Res := carryDma s q idx 0x2004 preMemCopy memCopy

/-- The physical pieces of landed ranges in LPDDR5X; none where a piece lies elsewhere. -/
def dramSegs (s : State) : List (Land × Nat) → Option (List (Nat × Nat × Nat))
  | [] => some []
  | (.mem pa slot _, n) :: t =>
    (match region s pa, dramSegs s t with
     | .dram _, some r => some ((pa, n, slot) :: r)
     | _, _ => none)
  | _ :: _ => none

/-- The reload records of a lane. -/
def laneReloads (s : State) (l : Nat) : List ReloadRec := s.reloads.filter fun r => decide (r.lane = l)

/-- The preconditions of MEM_BAY_LOAD (R165): within the lane's Bay range, at most 64 records, an LPDDR5X source. -/
def preBayLoad (s : State) (p : Pkt) : State × PreFail :=
  let bay := match s.lane p.lane with | some r => r.bayLen * 0x100000 | none => 0
  let held := if bitB (p.u 0x10 1) 1 then 0 else (laneReloads s p.lane).length
  if bay < p.u 0 4 + p.u 4 4 then (s, .bad 0x20)
  else
    match xlateAll (pktWho p false) false (pageSegs (p.u 8 8) (p.u 4 4)) s with
    | (s1, .ok ts) =>
      (s1, firstPre [((dramSegs s1 ts).isSome, 8),
                     (!bitB (p.u 0x10 1) 0 || decide (p.u 4 4 = 0) || decide (held < 64), 0x10)])
    | (s1, .error (.xlat va _ _)) => (s1, .xlat 8 va)
    | (s1, .error (.poison pa)) => (s1, .poison pa)

/-- The copy into the lane's Bay range, with its record (R165). -/
def bayLoad (s : State) (p : Pkt) : State :=
  let w := pktWho p false
  let n := p.u 4 4
  match xlateAll w false (pageSegs (p.u 8 8) n) s with
  | (s1, .error e) => endErr s1 p e
  | (s1, .ok ts) =>
    match readLands w ts s1 with
    | (s2, .error e) => endErr s2 p e
    | (s2, .ok bs) =>
      let base := match s2.lane p.lane with | some r => r.bayBase * 0x100000 | none => 0
      let s3 := wrMem s2 (0x40000000 + base + p.u 0 4) 0 bs
      let s4 := if bitB (p.u 0x10 1) 0 && decide (n ≠ 0) then
          { s3 with reloads := s3.reloads ++ [⟨p.lane, p.u 0 4, (dramSegs s3 ts).getD []⟩] } else s3
      complete s4 p 0 0 0

/-- MEM_BAY_LOAD (R165). -/
def execMemBayLoad (q idx : Nat) (s : State) : Res :=
  carryDma s q idx 0x2005 preBayLoad fun t p =>
    bayLoad (if bitB (p.u 0x10 1) 1 then
      { t with reloads := t.reloads.filter fun r => decide (r.lane ≠ p.lane) } else t) p

/-- A lane named by a parameter is defined. -/
def preParamLane (s : State) (p : Pkt) : State × PreFail := (s, firstPre [((s.lane (p.u 0 1)).isSome, 0)])

/-- MEM_PACE (R166): the budgets wait for the next window boundary. -/
def execMemPace (q idx : Nat) (s : State) : Res :=
  carry s q idx 0x2006 preParamLane fun t p =>
    let l := p.u 0 1
    let bs := (List.range 8).map fun c => (8 * l + c, p.u (8 + 4 * c) 4)
    let keep (old : List (Nat × Nat)) : List (Nat × Nat) := old.filter (fun e => decide (e.1 / 8 ≠ l)) ++ bs
    complete { t with pace := { t.pace with budgetNext := keep t.pace.budgetNext, budgetRec := keep t.pace.budgetRec } }
      p 0 0 0

end Sys2Proof.Machine
end

