-- ==== Sys2Proof/Machine/JobOps.lean ====
section
/-! DEFINITION. Jobs (spec/08, spec/18): their record, staging, checkpoint copies, restarts and ends. -/

namespace Sys2Proof.Machine

def sameJob (q idx : Nat) (j : Job) : Bool := decide (j.q = q ∧ j.idx = idx)
def State.job (s : State) (q idx : Nat) : Option Job := s.jobs.find? (sameJob q idx)
def State.setJob (s : State) (j : Job) : State :=
  { s with jobs := s.jobs.map fun x => if sameJob j.q j.idx x then j else x }
def State.dropJob (s : State) (j : Job) : State := { s with jobs := s.jobs.filter fun x => !sameJob j.q j.idx x }

def State.tile (s : State) (t : Nat) : TileRec := tabGet (fun _ => TileRec.init) s.tiles t
def State.setTile (s : State) (t : Nat) (r : TileRec) : State :=
  { s with tiles := tabPut (fun _ => TileRec.init) s.tiles t r }

/-- The packet flags of a job: commit and checkpoint (R109). -/
def pktFlag (s : State) (q idx bit : Nat) : Bool := match s.pkt q idx with
  | some p => bitB p.flags bit
  | none => false

/-- Who makes a job's accesses (R262, R279). -/
def jobWho (j : Job) (master op seq : Nat) : Who := ⟨master, j.inst, some j.lane, 3, 9, ⟨j.q, 0x20, op, seq⟩⟩

/-! ### Energy (R509) -/

/-- The VDD_TILE set value squared, in mV², for the TILE kinds. -/
def energyScale (s : State) (k : Nat) : Nat :=
  if k ≤ 5 then (let v := tileVolt (s.getF (CLK_DOM_STATUS.cur_step 4)); v * v) else 722500

/-- Count `n` events of kind `k` for a job. -/
def energyAdd (s : State) (q idx k n : Nat) : State :=
  match s.job q idx with
  | some j => s.setJob { j with energy := j.energy + n * s.getF (PWR_COEF.fj k) * energyScale s k }
  | none => s

/-- energy_uj: rounded to the nearest µJ, ties to even, saturating (R509, R112). -/
def energyUj (e : Nat) : Nat := min (divRne e (722500 * 1000000000)) 0xFFFFFFFF

/-- Count the pacer units of a job's access: kind 6 for Bay and tile SRAM, kind 7 for LPDDR5X. -/
def energyAccess (s : State) (q idx pa n : Nat) : State :=
  let units := max 1 ((n + 63) / 64)
  match region s pa with
  | .bay _ => energyAdd s q idx 6 units
  | .tile _ => energyAdd s q idx 6 units
  | .dram _ => energyAdd s q idx 7 units
  | _ => s

/-- Offer a job's access to its pacer: the class goes by the target (R279). -/
def jobCharge (s : State) (w : Who) (wr : Bool) (p : Piece) : State :=
  paceCharge s { w with cls := jobClass s p.pa wr } p.pa p.len

/-- A job's access reaches its target: cache (R255) and energy. -/
def jobLand (s : State) (j : Job) (w : Who) (wr : Bool) (p : Piece) : State :=
  energyAccess (touchLines s (allocWays s w p.noAlloc) p.slot wr (lineSegs p.pa p.len)) j.q j.idx p.pa p.len

/-- A job's own access to a physical target: pacer, cache and energy. -/
def jobTouch (s : State) (j : Job) (w : Who) (wr : Bool) (p : Piece) : State := jobLand (jobCharge s w wr p) j w wr p

/-- The physical pieces of landed ranges. -/
def landPieces (ls : List (Land × Nat)) : List Piece :=
  ls.filterMap fun l => match l.1 with
    | .mem pa slot na => some ⟨pa, slot, l.2, na⟩
    | .pcie _ pa => some ⟨pa, 0, l.2, true⟩
    | .forbidden _ => none

/-! ### Progress and placement -/

/-- A progress event of the attempt (R300). -/
def progress (s : State) (q idx : Nat) : State :=
  match s.job q idx with
  | some j => s.setJob { j with progressAt := s.now }
  | none => s

/-- The lane's pairs or tiles that an attempt may bind (R336): primaries in rising order. -/
def laneUnits (r : LaneRec) : List Nat :=
  if r.paired then ((List.range 16).filter fun k => bitB r.tiles (2 * k) && bitB r.tiles (2 * k + 1)).map fun k => 2 * k
  else maskBits 32 r.tiles

def lanePaired (s : State) (l : Nat) : Bool := match s.lane l with | some r => r.paired | none => false

/-- The physical tiles behind a primary: itself, and its checker in paired-tile mode. -/
def tilePair (s : State) (l t : Nat) : List Nat := if lanePaired s l then [t, t + 1] else [t]

/-- A tile leaves its kernel. -/
def freeTile (s : State) (t : Nat) : State :=
  paceDrop ((s.setTile t { TileRec.init with lastInst := (s.tile t).lastInst }).wr (TILE_STATE.addr t) 0) fun a =>
    match a with
    | .copy k _ => decide (k = t)
    | _ => false

/-- A shared engine is released: 0, 1 attention pipelines; 2, 3 Sorrel engines; 4 the graphics core. -/
def freeUnit (s : State) (u : Nat) : State :=
  match u with
  | 0 => s.setF (ATT_STATE.busy 0) 0
  | 1 => s.setF (ATT_STATE.busy 1) 0
  | 2 => s.setF (SRCH_STATE.busy 0) 0
  | 3 => s.setF (SRCH_STATE.busy 1) 0
  | _ => s.setF GFX_STATE.busy 0

/-! ### What a kernel's cycles count (R509) -/

/-- The cycles and bank retries of a tile that leaves its kernel are timing: free values. -/
def tileCycles (q idx : Nat) (s : State) (t : Nat) : State :=
  let c := s.fresh
  let b := c.2.fresh
  energyAdd ((b.2.addWrap (TILE_CYCLES.n t) c.1).addSat (TILE_BANK_STALL.n t) b.1) q idx 5 c.1

/-- A count of a kernel, shared by the engines it holds: how two engines divide it is open (a free value). -/
def engineShare (add : Nat → Nat → State → State) (n : Nat) (j : Job) (s : State) : State :=
  match j.units with
  | [u, v] =>
    let f := s.fresh
    let k := f.1 % (n + 1)
    add (v - 2) (n - k) (add (u - 2) k f.2)
  | us => add (us.headD 2 - 2) n s

/-- SRCH_WAIT's cycles are timing: a free value for each engine held. -/
def engineWaits (j : Job) (s : State) : State :=
  j.units.foldl (fun t u => let f := t.fresh; f.2.addSat (SRCH_WAIT.n (u - 2)) f.1) s

/-- Counters and energy of a build's kernel: the spec does not say how many of its distances the engine computes. -/
def buildCount (s : State) (j : Job) : State :=
  let a := s.fresh
  let b := a.2.fresh
  let s1 := engineShare (fun e n t => t.addWrap (SRCH_CODES.n e) n) a.1 j b.2
  let s2 := engineShare (fun e n t => t.addWrap (SRCH_RERANKED.n e) n) b.1 j s1
  energyAdd (energyAdd (engineWaits j s2) j.q j.idx 9 a.1) j.q j.idx 10 b.1

/-- Counters and energy of a search kernel that is stopped: how far it had come is timing. -/
def searchStopped (s : State) (j : Job) : State :=
  let a := s.fresh
  let b := a.2.fresh
  let c := b.2.fresh
  let s1 := engineShare (fun e n t => t.addWrap (SRCH_QUERIES.n e) n) a.1 j c.2
  buildCount ((engineShare (fun e n t => t.addSat (SRCH_EMPTY.n e) n) b.1 j s1).addSat SRCH_BADREF.n c.1) j

/-- Block, sector and cycle counts of a graphics pass are open: blocks and sectors only where compressed targets were drawn
to. -/
def passCount (s : State) (j : Job) (comp : Bool) : State :=
  let a := s.fresh
  let b := a.2.fresh
  let c := b.2.fresh
  let s1 := if comp then (c.2.addWrap GFX_BLOCKS.n a.1).addWrap GFX_SECTORS.n b.1 else c.2
  energyAdd s1 j.q j.idx 11 c.1

/-- What a kernel that is stopped has counted so far on its tiles, pipelines and engines (R509). -/
def stopCounts (s : State) (j : Job) : State :=
  let mine := (List.range 32).filter fun t => decide ((s.tile t).job = some (j.q, j.idx))
  let s1 := mine.foldl (tileCycles j.q j.idx) s
  if j.units = [] then s1
  else match j.kind with
    | .run => let f := s1.fresh; energyAdd f.2 j.q j.idx 8 (f.1 * j.units.length)
    | .search => searchStopped s1 j
    | .build => buildCount s1 j
    | .gfx => passCount s1 j j.drew

/-- A job's kernel leaves every tile, pipeline and engine. -/
def dropKernel (s : State) (j : Job) : State :=
  let mine := (List.range 32).filter fun t => decide ((s.tile t).job = some (j.q, j.idx))
  let s1 := mine.foldl freeTile s
  let s2 := paceDrop (j.units.foldl freeUnit s1) fun a => decide (a = .job j.q j.idx)
  match s2.job j.q j.idx with
  | some x => s2.setJob { x with units := [] }
  | none => s2

/-- Stop a job's kernel on every tile, pipeline and engine (R539). -/
def stopKernel (s : State) (j : Job) : State := dropKernel (stopCounts s j) j

/-! ### Checkpoint area (R542 to R544) -/

/-- Staging pages a job holds: one for each distinct 4 KiB page of a destination. -/
def stagingPages (j : Job) : List Nat := (j.staging.map fun e => e.1 / 64).eraseDups

/-- Pages of a lane's checkpoint area held by its jobs, one job apart. -/
def ckptHeld (s : State) (l q idx : Nat) : Nat :=
  ((s.jobs.filter fun j => decide (j.lane = l) && !sameJob q idx j).map fun j => j.ckptPages + (stagingPages j).length).foldl
    (· + ·) 0

def ckptRoom (s : State) (l : Nat) : Nat := match s.lane l with | some r => r.ckptLen / 4096 | none => 0

/-- The job may hold `n` more pages. -/
def ckptFits (s : State) (j : Job) (n : Nat) : Bool :=
  decide (ckptHeld s j.lane j.q j.idx + j.ckptPages + (stagingPages j).length + n ≤ ckptRoom s j.lane)

def stagedAt (j : Job) (line : Nat) : Option StagedUnit := tabGet (fun _ => none) j.staging line

/-- A line as the attempt sees it: staged, or committed (R323). -/
def attemptLine (s : State) (j : Job) (line slot : Nat) : List Byte :=
  match stagedAt j line with
  | some u => u.bytes
  | none => rdMem s (64 * line) 64 slot

/-- Bytes as the attempt sees them. -/
def attemptRead (s : State) (j : Job) (pa n slot : Nat) : List Byte :=
  (lineSegs pa n).flatMap fun g => slice (attemptLine s j g.1 slot) g.2.1 g.2.2

/-- Stage a write (R542). -/
def stageSegs (s : State) (slot : Nat) : List (Nat × Nat × Nat) → List Byte → Job → Job
  | [], _, j => j
  | g :: gs, bs, j =>
    let bad := decide (g.2.2 ≠ 64) && (match stagedAt j g.1 with | some u => u.bad | none => decide (g.1 ∈ s.ms.poison))
    let u : StagedUnit := ⟨slot, patch (attemptLine s j g.1 slot) g.2.1 (bs.take g.2.2), bad⟩
    stageSegs s slot gs (bs.drop g.2.2) { j with staging := tabPut (fun _ => none) j.staging g.1 (some u) }

def stageWrite (s : State) (j : Job) (pa slot : Nat) (bs : List Byte) : Job :=
  stageSegs s slot (lineSegs pa bs.length) bs j

/-- New staging pages a write needs. -/
def newPages (j : Job) (pa n : Nat) : Nat :=
  (((lineSegs pa n).map fun g => g.1 / 64).eraseDups.filter fun p => decide (p ∉ stagingPages j)).length

/-- Copy the staged units to their destinations (R546 step 2, R551); a poisoned unit poisons its destination (R549). -/
def applyStaging (s : State) (j : Job) (bad : List Nat) : State :=
  j.staging.foldl (fun t e => match e.2 with
    | none => t
    | some u =>
      if 0x1000000000 ≤ 64 * e.1 then pcieSend t (64 * e.1) u.bytes
      else if e.1 ∈ bad ∨ u.bad = true then poisonLine t (64 * e.1) (memKind t (64 * e.1)) 0x70
      else physWr t (64 * e.1) u.slot u.bytes) s

/-- Copy each checkpoint copy back over its buffer (R539 step 3); what was poisoned when it was made stays so. -/
def restoreCkpt (s : State) (j : Job) : State :=
  poisonAll (j.ckpt.foldl (fun t c => physWr t c.1 c.2.1 c.2.2) s) j.ckptBad

/-- The poisoned lines among the ranges of checkpoint copies. -/
def ckptPoison (s : State) (ckpt : List (Nat × Nat × List Byte)) : List Nat :=
  ((ckpt.flatMap fun c => (lineSegs c.1 c.2.2.length).map Prod.fst).filter fun l => decide (l ∈ s.ms.poison)).eraseDups

/-! ### The end of a job -/

/-- Add the attempt's statistics to the lane's slots (R358, R359). -/
def addStats (s : State) (l : Nat) (st : List (Nat × QStat)) : State :=
  st.foldl (fun t e =>
    let i := 16 * l + e.1
    let x := e.2
    let sse := min (t.get64 (TILE_QS_SSE_LO.n i) (TILE_QS_SSE_HI.n i) + x.sse) (2 ^ 64 - 1)
    (((t.addSat (TILE_QS_COUNT.n i) x.count).addSat (TILE_QS_CLIPPED.n i) x.clipped).addSat (TILE_QS_NONFIN.n i)
      x.nonfin).set64 (TILE_QS_SSE_LO.n i) (TILE_QS_SSE_HI.n i) sse) s

/-- cycles × tiles of a kernel descriptor of kind 0 (R503). -/
def descLoad (d : List Byte) : Nat := if leAt d 0 1 = 0 then leAt d 0x10 4 * leAt d 1 1 else 0

/-- Σ cycles × tiles of a job's kernels that have not ended (R503). -/
def kernelLoad (j : Job) : Nat :=
  if j.kind = .run then
    (((List.range j.nKernel).filter fun k => decide (j.kernel ≤ k)).map fun k =>
      descLoad (slice j.image (leAt j.image 0x10 4 + 32 * k) 32)).sum
  else 0

/-- The same of a consumed JOB_RUN whose job has not started: its image is read where it stands, and one that cannot be read
adds nothing. -/
def packetLoad (s : State) (p : Pkt) : Nat :=
  if p.opcode = 0x1000 ∧ p.phase ≠ .ended ∧ (s.job p.q p.idx).isNone then
    let w : Who := ⟨0x70, p.inst, some p.lane, 3, 9, ⟨p.q, 0x20, 0x1000, 0⟩⟩
    match (peekBytes s w (p.u 0 8) 64).2 with
    | .ok h =>
      match (peekBytes s w (p.u 0 8 + leAt h 0x10 4) (32 * min (leAt h 8 2) 4096)).2 with
      | .ok t => ((List.range (t.length / 32)).map fun k => descLoad (slice t (32 * k) 32)).sum
      | .error _ => 0
    | .error _ => 0
  else 0

/-- PWR_LAG, updated at each dispatch and each kernel end (R503). -/
def updLag (s : State) : State :=
  let c := s.getF (CLK_DOM_STATUS.cur_step 4)
  let f := tileFreq (if c = 7 then 6 else c)
  s.setF PWR_LAG.lag (min (((s.jobs.map kernelLoad).sum + (s.pkts.map (packetLoad s)).sum) * 1000 / (32 * f)) 0xFFFFFFFF)

/-- A job ends (R132, R149): its record, the lane's counters, its statistics and everything it held. A job that ends
without its commit leaves the committed content in its in-place buffers (R541). -/
def endJob (s : State) (j : Job) (st detail fault : Nat) : State :=
  match s.pkt j.q j.idx, s.job j.q j.idx with
  | some p, some j0 =>
    let r := judge p.deadline s.now j.restarts st detail
    let s0 := if fixedStatus st && decide (j0.phase ≠ .sealed) then restoreCkpt s j0 else s
    let s1 := stopKernel s0 j0
    let s2 := if fixedStatus r.1 || decide (r.1 = 0x70) then s1 else addStats s1 j.lane j.stats
    let s3 := if r.1 = 0x30 then s2.addSat (PACE_LATE.misses j.lane) 1 else s2
    updLag (endPkt (s3.dropJob j) j.q j.idx ⟨r.1, r.2, energyUj j0.energy, s.now, fault⟩)
  | _, _ => s

/-- The detail of ST_JOB_FAULT and ST_STALLED (R131). -/
def faultDetail (j : Job) : Nat := 2 ^ 28 * min j.restarts 7

/-- A translation fault ends the job (R130). -/
def endAccess (s : State) (j : Job) (va : Nat) : State := endJob s j 0x20 0 va

/-- The instance's packets and jobs held at a kernel boundary: by a quiesce in stop mode the job ends, by a freeze it pauses
(R191, R474). -/
def boundary (s : State) (j : Job) : State :=
  let i := s.inst j.inst
  if i.busy = 2 ∧ j.started then
    endJob (s.setInst j.inst { i with ended := i.ended + 1 }) j 0x50 0 0
  else if (i.busy = 3 ∨ instState s j.inst = 3) ∧ j.started then
    s.setJob { j with phase := .paused }
  else s

/-- The graphics context a job names (R416). -/
def jobCtx (s : State) (j : Job) : Nat := match s.pkt j.q j.idx with | some p => p.u 0xC 1 | none => 0

/-- A job before the first kernel of an attempt (R539): nothing is staged, appended or counted. -/
def atStart (s : State) (j : Job) : Job :=
  { j with
    phase := .ready, kernel := 0, pos := 0, units := [], bind := [], staging := [], kv := [], stats := [],
    kvBase := [], kvSeen := [], drew := false, binned := false, binFill := 0, gfxEnd := false, frags := [],
    gfx := if j.kind = .gfx then (s.gfxCtx (jobCtx s j)).st else j.gfx, empties := 0, status := 0,
    waitPage := none, readyAt := s.now, progressAt := s.now }

/-- A new attempt (R539): the old kernel is stopped, staging discarded, checkpoint copies copied back, KV lengths and
statistics dropped. -/
def newAttempt (s : State) (j : Job) (retry count : Bool) : State :=
  let s1 := restoreCkpt (stopKernel s j) j
  let j1 := { atStart s j with
    attempt := j.attempt + 1, restarts := if count then j.restarts + 1 else j.restarts,
    used := if retry then j.used + 1 else j.used, fresh := false,
    energy := match s1.job j.q j.idx with | some x => x.energy | none => j.energy }
  boundary (updLag (s1.setJob j1)) j1

/-- The kernel dispatched in this tick is taken back (R471): the job stands at the boundary before it; one whose first kernel
that was has not started. A graphics pass of which commands have been carried out stays. -/
def undispatch (s : State) (j : Job) : State :=
  if j.phase ≠ .running ∨ j.kernelAt ≠ s.now then s
  else if j.kernel = 0 then
    let again := decide (j.attempt ≠ 0)
    (dropKernel s j).setJob { atStart s j with
      started := again, ckptBad := if again then j.ckptBad else [], ckpt := if again then j.ckpt else [], ckptPages := if again then j.ckptPages else 0 }
  else if j.kind = .gfx ∧ (j.drew ∨ leAt j.image j.pos 1 ≠ 1) then s
  else (dropKernel s j).setJob { j with phase := .ready, units := [], kv := j.kvBase, kvSeen := [], kvBase := [], waitPage := none }

/-- A restart event of R537 (R538): with no retry left the job ends with `st`. -/
def restartJob (s : State) (j : Job) (st fault : Nat) : State :=
  if j.retries ≤ j.used then endJob s j st (faultDetail j) fault else newAttempt s j true true

/-- The committed lengths of the sequences of a job's attention kernel (R375). -/
def seqLens (s : State) (j : Job) : List Nat :=
  let h := slice j.image (leAt (slice j.image (leAt j.image 0x10 4 + 32 * j.kernel) 32) 0x14 4) 64
  match s.lane j.lane with
  | none => []
  | some l => (List.range (leAt h 0xC 2)).map fun k =>
      leNat (rdMem s (0x40000000 + 0x100000 * l.bayBase + leAt h 8 4 + 16 * k + 8) 4 0)

/-- A commit in the tick in which an attention kernel started is included in what that kernel sees (R375). -/
def seenAgain (s : State) (j : Job) : State :=
  if decide (j.phase = .running ∧ j.kernelAt = s.now) && !j.kvSeen.isEmpty then s.setJob { j with kvSeen := seqLens s j } else s

/-- A commit = 0 job ends: its staged writes become committed (R551). -/
def commitPlain (s : State) (j : Job) (st detail : Nat) : State := endJob (applyStaging s j []) j st detail 0

/-- The jobs of an instance. -/
def instJobs (s : State) (i : Nat) : List Job := s.jobs.filter fun j => decide (j.inst = i)

end Sys2Proof.Machine
end

