-- ==== Sys2Proof/Machine/TileRegs.lean ====
section
/-! DEFINITION. A tile (spec/09): the bundle's slots and which encodings are reserved (R317, R318), its registers and its local
SRAM. -/

namespace Sys2Proof.Machine

/-! ### The bundle (R317, R318) -/

/-- The bundle at the tile's pc as one number. -/
def bundleAt (r : TileRec) (i : Nat) : Nat := leNat (slice r.code (32 * i) 32)
def lsWord (b : Nat) : Nat := bits b 0 64
def mxWord (b : Nat) : Nat := bits b 64 64
def vxWord (b : Nat) : Nat := bits b 128 96
def ctWord (b : Nat) : Nat := bits b 224 32

def opOf (w : Nat) : Nat := bits w 0 6

/-- LS fields. -/
def lsD (w : Nat) : Nat := bits w 6 5
@[inherit_doc lsD] def lsSa (w : Nat) : Nat := bits w 11 5
@[inherit_doc lsD] def lsSb (w : Nat) : Nat := bits w 16 5
@[inherit_doc lsD] def lsSc (w : Nat) : Nat := bits w 21 5
@[inherit_doc lsD] def lsTok (w : Nat) : Nat := bits w 26 4
@[inherit_doc lsD] def lsCls (w : Nat) : Nat := bits w 30 2
@[inherit_doc lsD] def lsBuf (w : Nat) : Nat := bits w 32 7
@[inherit_doc lsD] def lsW (w : Nat) : Nat := bits w 39 1
@[inherit_doc lsD] def lsImm (w : Nat) : Nat := bits w 40 22
/-- MX fields. -/
def mxW (w : Nat) : Nat := bits w 6 1
@[inherit_doc mxW] def mxAdd (w : Nat) : Bool := bitB w 7
@[inherit_doc mxW] def mxRow (w : Nat) : Nat := bits w 8 9
@[inherit_doc mxW] def mxF (w : Nat) : Nat := bits w 17 2
@[inherit_doc mxW] def mxMode (w : Nat) : Nat := bits w 19 2
@[inherit_doc mxW] def mxDy (w : Nat) : Nat := bits w 21 3
@[inherit_doc mxW] def mxDx (w : Nat) : Nat := bits w 24 3
@[inherit_doc mxW] def mxKh (w : Nat) : Nat := bits w 27 3 + 1
@[inherit_doc mxW] def mxKw (w : Nat) : Nat := bits w 30 3 + 1
@[inherit_doc mxW] def mxPmode (w : Nat) : Nat := bits w 33 1
@[inherit_doc mxW] def mxPad (w : Nat) : Bool := bitB w 34
/-- VX fields. -/
def vxTy (w : Nat) : Nat := bits w 6 2
@[inherit_doc vxTy] def vxVd (w : Nat) : Nat := bits w 8 5
@[inherit_doc vxTy] def vxVa (w : Nat) : Nat := bits w 13 5
@[inherit_doc vxTy] def vxVb (w : Nat) : Nat := bits w 18 5
@[inherit_doc vxTy] def vxVc (w : Nat) : Nat := bits w 23 5
@[inherit_doc vxTy] def vxRow (w : Nat) : Nat := bits w 28 9
@[inherit_doc vxTy] def vxClr (w : Nat) : Bool := bitB w 37
@[inherit_doc vxTy] def vxCvt (w : Nat) : Nat := bits w 38 8
@[inherit_doc vxTy] def vxImm (w : Nat) : Nat := bits w 46 16
/-- CT fields. -/
def ctSd (w : Nat) : Nat := bits w 6 5
@[inherit_doc ctSd] def ctSa (w : Nat) : Nat := bits w 11 5
@[inherit_doc ctSd] def ctImm (w : Nat) : Nat := bits w 16 16

/-- A word whose bits outside the fields listed (low bit, width) are all zero; the operation code is always named. -/
def onlyFields (w : Nat) (fs : List (Nat × Nat)) : Bool :=
  decide (((0, 6) :: fs).foldl (fun v f => putBits v f.1 f.2 0) w = 0)

def lsLegal (w nBuf : Nat) : Bool :=
  let mem : Bool := onlyFields w [(6, 5), (11, 5), (40, 22)]
  let copy : Bool := onlyFields w [(11, 5), (16, 5), (21, 5), (26, 4), (30, 2), (32, 7), (40, 22)] &&
    decide (lsCls w ≠ 3) && (decide (lsCls w ≠ 0) || decide (lsBuf w < nBuf))
  match opOf w with
  | 0x00 => decide (w = 0)
  | 0x01 => mem
  | 0x02 => mem
  | 0x03 => mem
  | 0x04 => mem
  | 0x08 => onlyFields w [(11, 5), (39, 1), (40, 22)]
  | 0x10 => copy
  | 0x11 => copy
  | _ => false

/-- `wld`: the bundle's LS slot holds a WLD, whose block mode is the MX mode field. -/
def mxLegal (w : Nat) (wld : Bool) : Bool :=
  let m : List (Nat × Nat) := if wld then [(19, 2)] else []
  decide (mxMode w ≠ 3) &&
  match opOf w with
  | 0x00 => onlyFields w m
  | 0x01 => onlyFields w [(6, 1), (7, 1), (8, 9), (17, 2), (19, 2), (21, 3), (24, 3)]
  | 0x02 => onlyFields w (m ++ [(8, 9), (17, 2), (27, 3), (30, 3), (33, 1), (34, 1)])
  | _ => false

/-- The number of parts of a conversion, by op (R353). -/
def cvtParts (op : Nat) : Nat :=
  match op with
  | 0x0 => 1
  | 0x1 => 1
  | 0x2 => 4
  | 0x3 => 2
  | 0x4 => 2
  | 0x5 => 4
  | 0x6 => 4
  | 0x7 => 2
  | 0x8 => 2
  | 0x9 => 4
  | 0xA => 4
  | 0xB => 4
  | _ => 0

/-- The rules of R353 for a VCVT. -/
def cvtLegal (w : Nat) : Bool :=
  let c := vxCvt w
  let op := bits c 0 4
  let imm := vxImm w
  onlyFields w [(8, 5), (13, 5), (18, 5), (38, 8), (46, 16)] &&
  decide (bits imm 0 2 < cvtParts op) && decide (bits imm 2 2 = 0 ∧ bits imm 8 8 = 0) &&
  (bitB c 4 || decide (vxVb w = 0)) && (!bitB c 5 || decide (op = 3 ∨ op = 4 ∨ op = 6)) &&
  (if bitB c 6 then decide (1 ≤ op ∧ op ≤ 6) else decide (bits imm 4 4 = 0)) && !bitB c 7

def vxLegal (w : Nat) : Bool :=
  let ty : Bool := decide (vxTy w ≤ 1)
  let f2 : List (Nat × Nat) := [(8, 5), (13, 5), (18, 5)]
  match opOf w with
  | 0x00 => decide (w = 0)
  | 0x01 => ty && onlyFields w ((6, 2) :: f2)
  | 0x02 => ty && onlyFields w ((6, 2) :: f2)
  | 0x03 => ty && onlyFields w ((6, 2) :: f2)
  | 0x04 => decide (vxTy w = 1) && onlyFields w ((6, 2) :: (23, 5) :: f2)
  | 0x05 => ty && onlyFields w ((6, 2) :: f2)
  | 0x06 => ty && onlyFields w ((6, 2) :: f2)
  | 0x07 => ty && onlyFields w [(6, 2), (8, 5), (13, 5)]
  | 0x08 => onlyFields w [(8, 5), (13, 5), (46, 5)]
  | 0x09 => ty && onlyFields w ((6, 2) :: (23, 5) :: f2)
  | 0x0A => ty && onlyFields w ((6, 2) :: (46, 3) :: f2) && decide (bits (vxImm w) 0 3 ≤ 5)
  | 0x0B => onlyFields w ((23, 5) :: f2)
  | 0x0C => onlyFields w f2
  | 0x0D => ty && onlyFields w [(6, 2), (8, 5), (13, 5), (46, 1)]
  | 0x0E => onlyFields w [(8, 5), (13, 5)]
  | 0x10 => ty && onlyFields w [(6, 2), (8, 5), (13, 5)]
  | 0x11 => ty && onlyFields w [(6, 2), (8, 5), (13, 5)]
  | 0x12 => ty && onlyFields w [(6, 2), (8, 5), (13, 5)]
  | 0x18 => onlyFields w [(8, 5), (28, 9), (37, 1)]
  | 0x19 => cvtLegal w
  | 0x1A => onlyFields w [(8, 5), (13, 5), (46, 6)]
  | _ => false

def ctLegal (w : Nat) : Bool :=
  match opOf w with
  | 0x00 => decide (w = 0)
  | 0x01 => onlyFields w [(6, 5), (11, 5), (16, 16)]
  | 0x02 => onlyFields w [(6, 5), (16, 16)]
  | 0x03 => onlyFields w [(6, 5), (11, 5), (16, 10)] && decide (bits (ctImm w) 5 5 ≤ 12)
  | 0x08 => onlyFields w [(11, 5), (16, 16)] && decide (1 ≤ ctImm w ∧ ctImm w ≤ 2048)
  | 0x09 => onlyFields w [(11, 5), (16, 16)]
  | 0x0A => onlyFields w [(16, 16)]
  | 0x10 => onlyFields w [(6, 2), (11, 5)]
  | 0x11 => onlyFields w [(16, 16)]
  | 0x12 => onlyFields w []
  | 0x13 => onlyFields w []
  | _ => false

/-- A bundle without a reserved encoding (R317). -/
def bundleLegal (b nBuf : Nat) : Bool :=
  lsLegal (lsWord b) nBuf && mxLegal (mxWord b) (decide (opOf (lsWord b) = 0x08)) && vxLegal (vxWord b) && ctLegal (ctWord b)

/-! ### Registers and local SRAM -/

def sreg (r : TileRec) (n : Nat) : Nat := if n = 0 then 0 else tabGet (fun _ => 0) r.sregs n
def setSreg (r : TileRec) (n v : Nat) : TileRec :=
  if n = 0 then r else { r with sregs := tabPut (fun _ => 0) r.sregs n (v % 2 ^ 64) }
def vreg (r : TileRec) (d : Nat) : List Nat := (List.range 64).map fun j => tabGet (fun _ => 0) r.vregs (64 * d + j)
def putLanes (t : List (Nat × Nat)) (d : Nat) (ls : List Nat) : List (Nat × Nat) :=
  (ls.zipIdx).foldl (fun m e => tabPut (fun _ => 0) m (64 * d + e.2) (e.1 % 2 ^ 32)) t
def accRow (r : TileRec) (n : Nat) : List Nat := (List.range 64).map fun j => tabGet (fun _ => 0) r.acc (64 * n + j)
def feeder (r : TileRec) (f : Nat) : List Byte := tabGet (fun _ => []) r.feeders f
def wbuf (r : TileRec) (w : Nat) : WBuf := tabGet (fun _ => ⟨3, []⟩) r.weights w
def token (r : TileRec) (k : Nat) : Nat := tabGet (fun _ => 0) r.tokens k

/-- A tile's SRAM window (R246). -/
def tileBase (t : Nat) : Nat := 0x60000000 + 0x400000 * t

/-- A local address is legal at an alignment (R318). -/
def localOk (a n align : Nat) : Bool := decide (a < 0x400000 ∧ a % align = 0 ∧ a + n ≤ 0x400000)

def ldLocal (s : State) (t a n : Nat) : List Byte := rdMem s (tileBase t + a) n 0
def localPoison (s : State) (t a n : Nat) : Option Nat := poisonIn s (tileBase t + a) n

/-- The 64 lanes in 256 bytes. -/
def lanesOf (bs : List Byte) : List Nat := (List.range 64).map fun j => leAt bs (4 * j) 4
def bytesOf (ls : List Nat) : List Byte := ls.flatMap fun v => leBytes 4 v

end Sys2Proof.Machine
end

