-- ==== Sys2Proof/Machine/TileFn.lean ====
section
/-! DEFINITION. What the operations of a bundle compute (spec/09, spec/10), as functions of a tile's registers and its local
SRAM. A tile and its checker (R337) use the same functions. -/

namespace Sys2Proof.Machine

/-! ### The load/store slot -/

/-- The local address of a load/store operation: sa + imm22 in 64 bits. -/
def lsAddr (r : TileRec) (w : Nat) : Nat := (sreg r (lsSa w) + lsImm w) % 2 ^ 64

/-- Bytes of a weight block by mode (R320, R345). -/
def blockLen (mode : Nat) : Nat := if mode = 0 then 4096 else if mode = 1 then 4544 else 8192

/-- The parts of an MMQ block (R345 to R348). -/
def qCode (b : List Byte) : Nat := leAt b 0x1180 1
@[inherit_doc qCode] def qGroup (b : List Byte) : Nat := if leAt b 0x1181 1 = 1 then 64 else 32
@[inherit_doc qCode] def qScale (b : List Byte) (g n : Nat) : Num := decodeF e4m3 (leAt b (0x1000 + 64 * g + n) 1)
@[inherit_doc qCode] def qChan (b : List Byte) (n : Nat) : Num := decodeF fp16 (leAt b (0x1100 + 2 * n) 2)

/-- The block passes the loader's checks (R348). -/
def mmqBlockOk (b : List Byte) : Bool :=
  decide (1 ≤ qCode b ∧ qCode b ≤ 3) && decide (leAt b 0x1181 1 ≤ 1) && decide (leNat (slice b 0x1182 62) = 0) &&
  ((List.range (64 * (128 / qGroup b))).all fun i => decide (decodeF e4m3 (leAt b (0x1000 + i) 1) ≠ .nan)) &&
  ((List.range 64).all fun n => match qChan b n with | .fin _ _ _ => true | _ => false)

/-- What a copy asks for at its issue: operation, class, buffer, token, local address, remote offset and length. The fabric
takes the primary's request once the checker's has been compared (R337). -/
def copyAsks (r : TileRec) (w : Nat) : List Nat :=
  [opOf w, lsCls w, lsBuf w, lsTok w, lsAddr r w, sreg r (lsSb w), sreg r (lsSc w)]

/-- The writes of the LS slot, copies apart. -/
def lsFn (s : State) (t mode : Nat) (r : TileRec) (w : Nat) : List SlotWrite :=
  let a := lsAddr r w
  match opOf w with
  | 0x01 => [.vreg (lsD w) (lanesOf (ldLocal s t a 256))]
  | 0x02 => [.mem a (bytesOf (vreg r (lsD w)))]
  | 0x03 => [.sreg (lsD w) (leNat (ldLocal s t a 8))]
  | 0x04 => [.mem a (leBytes 8 (sreg r (lsD w)))]
  | 0x08 => [.weights (lsW w) mode a]
  | _ => []

/-! ### Feeder descriptors (R331, R332) -/

/-- The fields of a feeder descriptor (R331). -/
def fdBase (d : List Byte) : Nat := leAt d 0 4
@[inherit_doc fdBase] def fdInW (d : List Byte) : Nat := leAt d 4 2
@[inherit_doc fdBase] def fdInH (d : List Byte) : Nat := leAt d 6 2
@[inherit_doc fdBase] def fdRowPitch (d : List Byte) : Nat := leAt d 8 4
@[inherit_doc fdBase] def fdPixPitch (d : List Byte) : Nat := leAt d 0xC 2
@[inherit_doc fdBase] def fdElem (d : List Byte) : Nat := leAt d 0xE 1
@[inherit_doc fdBase] def fdSy (d : List Byte) : Nat := leAt d 0xF 1 % 16 + 1
@[inherit_doc fdBase] def fdSx (d : List Byte) : Nat := leAt d 0xF 1 / 16 + 1
@[inherit_doc fdBase] def fdOutW (d : List Byte) : Nat := leAt d 0x10 2
@[inherit_doc fdBase] def fdOutH (d : List Byte) : Nat := leAt d 0x12 2
@[inherit_doc fdBase] def fdOy0 (d : List Byte) : Int := sext 16 (leAt d 0x14 2)
@[inherit_doc fdBase] def fdOx0 (d : List Byte) : Int := sext 16 (leAt d 0x16 2)
@[inherit_doc fdBase] def fdPadT (d : List Byte) : Nat := leAt d 0x18 1
@[inherit_doc fdBase] def fdPadL (d : List Byte) : Nat := leAt d 0x19 1

/-- Bytes of a pixel of 64 elements, or of 128 in MMQ. -/
def pixLen (elem mode : Nat) : Nat := (if elem = 1 ∨ elem = 2 then 128 else 64) * (if mode = 1 then 2 else 1)

/-- No pixel of the map wraps past the end of local SRAM. -/
def pixFit (d : List Byte) (n : Nat) : Bool :=
  decide (fdBase d + (fdInH d - 1) * fdRowPitch d + (fdInW d - 1) * fdPixPitch d + n ≤ 0x400000)

/-- A descriptor obeys its rules (R331); the mode is not known yet, so the 64-element pixel counts. -/
def feederOk (d : List Byte) : Bool :=
  let n := pixLen (fdElem d) 0
  decide (fdBase d % 64 = 0) && decide (1 ≤ fdInW d ∧ fdInW d ≤ 4096) && decide (1 ≤ fdInH d ∧ fdInH d ≤ 4096) &&
  decide (fdRowPitch d % 64 = 0) && decide (fdPixPitch d % 64 = 0 ∧ n ≤ fdPixPitch d) && decide (fdElem d ≤ 4) &&
  decide (fdSy d ≤ 8 ∧ fdSx d ≤ 8) && decide (1 ≤ fdOutW d ∧ fdOutW d ≤ 512) && decide (1 ≤ fdOutH d ∧ fdOutH d ≤ 512) &&
  decide (fdOutW d * fdOutH d ≤ 512) && decide (fdPadT d ≤ 7 ∧ fdPadL d ≤ 7) && decide (leNat (slice d 0x1A 38) = 0) &&
  pixFit d n

/-- Rows of a feeder stream. -/
def feederRows (d : List Byte) : Nat := fdOutW d * fdOutH d

/-- The local address of the input pixel of row `i` at a tap; none for a padding pixel (R332). -/
def pixAddr (d : List Byte) (i dy dx : Nat) : Option Nat :=
  let iy : Int := (fdOy0 d + (i / fdOutW d : Nat)) * fdSy d + dy - fdPadT d
  let ix : Int := (fdOx0 d + (i % fdOutW d : Nat)) * fdSx d + dx - fdPadL d
  if 0 ≤ iy ∧ iy < fdInH d ∧ 0 ≤ ix ∧ ix < fdInW d then
    some (fdBase d + iy.toNat * fdRowPitch d + ix.toNat * fdPixPitch d)
  else none

/-- A pixel's bytes: zeros for padding. -/
def pixBytes (s : State) (t : Nat) (n : Nat) : Option Nat → List Byte
  | some a => ldLocal s t a n
  | none => List.replicate n 0

/-- The activation element `k` of a pixel. -/
def actNum (elem : Nat) (px : List Byte) (k : Nat) : Num :=
  match elem with
  | 1 => decodeF fp16 (leAt px (2 * k) 2)
  | 2 => decodeF bf16 (leAt px (2 * k) 2)
  | 3 => decodeF e4m3 (leAt px k 1)
  | 4 => decodeF e5m2 (leAt px k 1)
  | _ => numInt (sext 8 (leAt px k 1))

/-! ### One row (R306, R344, R351, R352) -/

def mm8Lane (px blk : List Byte) (n : Nat) : Int :=
  ((List.range 64).map fun k => sext 8 (leAt px k 1) * sext 8 (leAt blk (64 * k + n) 1)).foldl (· + ·) 0

/-- MM8: exact sum, saturating addition; the lane and whether it saturated. -/
def mm8Row (px blk : List Byte) (acc : List Nat) : List (Nat × Nat) :=
  (List.range 64).map fun n =>
    let v := sext 32 (acc.getD n 0) + mm8Lane px blk n
    (toBits 32 (satS 32 v), b2n (decide (satS 32 v ≠ v)))

/-- MMF: exact sum, one rounding to FP32 with the accumulator. A buffer not loaded adds no product (R349). -/
def mmfRow (elem : Nat) (px blk : List Byte) (acc : List Nat) : List (Nat × Nat) :=
  let f := if elem = 2 then bf16 else fp16
  (List.range 64).map fun n =>
    let ps := if blk.isEmpty then [] else (List.range 64).map fun k => (actNum elem px k).mul (decodeF f (leAt blk (128 * k + 2 * n) 2))
    (toF32 (Num.sum (f32 (acc.getD n 0) :: ps)), 0)

/-- The code of (k, n) (R346). -/
def codeAt (blk : List Byte) (b k n : Nat) : Int := sext b (bits (leAt blk (8 * b * k) (8 * b)) (b * n) b)

/-- The code width of a block; a block not loaded holds zeros. -/
def codeWidth (blk : List Byte) : Nat := match qCode blk with
  | 2 => 3
  | 3 => 2
  | _ => 4

/-- MMQ: product tables, group scales, one rounding with the accumulator (R350 to R352). A buffer not loaded adds no product
(R349). -/
def mmqRow (elem : Nat) (px blk : List Byte) (acc : List Nat) : List (Nat × Nat) :=
  let g := qGroup blk
  let b := codeWidth blk
  let acts := (List.range 128).map (actNum elem px)
  let bad := acts.any fun a => decide (a = .nan)
  (List.range 64).map fun n =>
    if bad then (nanBits fp32, 0) else
    let v := if blk.isEmpty then [] else (List.range (128 / g)).map fun i =>
      let p := Num.sum ((List.range g).map fun k => (acts.getD (i * g + k) .nan).mul (numInt (codeAt blk b (i * g + k) n)))
      p.mul ((qScale blk i n).mul (qChan blk n))
    (toF32 (Num.sum (f32 (acc.getD n 0) :: v)), 0)

/-- One row of an MMT. -/
def mmtRow (mode elem : Nat) (px blk : List Byte) (acc : List Nat) : List (Nat × Nat) :=
  match mode with
  | 0 => mm8Row px blk acc
  | 1 => mmqRow elem px blk acc
  | _ => mmfRow elem px blk acc

/-! ### Pooling (R334, R335) -/

/-- The larger of two FP32 values; the result with a NaN, or of two zeros of different sign, is open. -/
def fpMax (op a b : Nat) : Nat :=
  match (f32 a).cmp (f32 b) with
  | some c => if c = 0 ∧ a ≠ b then Config.openLane op a b % 2 ^ 32 else if c < 0 then b else a
  | none => Config.openLane op a b % 2 ^ 32
@[inherit_doc fpMax] def fpMin (op a b : Nat) : Nat :=
  match (f32 a).cmp (f32 b) with
  | some c => if c = 0 ∧ a ≠ b then Config.openLane op a b % 2 ^ 32 else if 0 < c then b else a
  | none => Config.openLane op a b % 2 ^ 32

/-- FP32 addition, rounded. -/
def addF32 (a b : Nat) : Nat := toF32 ((f32 a).add (f32 b))

/-- Signed quotient to nearest, ties to even. -/
def divRneI (a : Int) (b : Nat) : Int := if a < 0 then -(divRne a.natAbs b : Nat) else (divRne a.natAbs b : Nat)

/-- One lane of a pooling window over its non-padding values, in raster order. -/
def poolLane (pmode elem cnt : Nat) (vs : List Num) : Nat :=
  if elem = 0 then
    let is := vs.map fun v => match v with
      | .fin n m _ => (if n then -(m : Int) else (m : Int))
      | _ => 0
    match pmode, is with
    | 0, i :: t => toBits 32 (t.foldl max i)
    | _, l => toBits 32 (divRneI (l.foldl (· + ·) 0) cnt)
  else
    match pmode, vs.map toF32 with
    | _, [] => 0
    | 0, x :: t => t.foldl (fpMax 0x102) x
    | _, x :: t =>
      match f32 (t.foldl addF32 x) with
      | .fin n m e => divF32 n m e cnt 0
      | v => toF32 v

/-- The non-padding pixel addresses of a window. -/
def windowPixels (d : List Byte) (i kh kw : Nat) : List Nat :=
  (List.range kh).flatMap fun dy => (List.range kw).filterMap fun dx => pixAddr d i dy dx

/-- One row of an MPOOL. -/
def poolRow (s : State) (t : Nat) (d : List Byte) (w i : Nat) : List (Nat × Nat) :=
  let ps := (windowPixels d i (mxKh w) (mxKw w)).map fun a => ldLocal s t a (pixLen (fdElem d) 0)
  let cnt := if mxPad w then mxKh w * mxKw w else ps.length
  (List.range 64).map fun n =>
    (if ps.isEmpty then 0 else poolLane (mxPmode w) (fdElem d) cnt (ps.map fun px => actNum (fdElem d) px n), 0)

/-- The pixel addresses a matrix operation reads, in order. -/
def matrixPixels (m : MatOp) : List Nat :=
  (List.range (feederRows m.feeder)).flatMap fun i =>
    if opOf m.word = 1 then (pixAddr m.feeder i (mxDy m.word) (mxDx m.word)).toList
    else windowPixels m.feeder i (mxKh m.word) (mxKw m.word)

/-- The rows an operation gives: (accumulator row, lanes with a saturation mark each). -/
def matrixRows (s : State) (t : Nat) (r : TileRec) (m : MatOp) : List (Nat × List (Nat × Nat)) :=
  let w := m.word
  let d := m.feeder
  let n := pixLen (fdElem d) (mxMode w)
  (List.range (feederRows d)).map fun i =>
    let row := mxRow w + i
    let acc := if mxAdd w then accRow r row else []
    (row, if opOf w = 1 then
        mmtRow (mxMode w) (fdElem d) (pixBytes s t n (pixAddr d i (mxDy w) (mxDx w))) (wbuf r (mxW w)).bytes acc
      else poolRow s t d w i)

/-- Windows that hold only padding pixels (R335). -/
def emptyWindows (m : MatOp) : Nat :=
  if opOf m.word = 2 then
    ((List.range (feederRows m.feeder)).filter fun i => (windowPixels m.feeder i (mxKh m.word) (mxKw m.word)).isEmpty).length
  else 0

/-! ### The vector slot (R318, R326, R353 to R357) -/

/-- Lanes of two registers through a lane function. -/
def vx2 (f : Nat → Nat → Nat → Nat) (r : TileRec) (w : Nat) : List Nat :=
  List.zipWith (f (vxTy w)) (vreg r (vxVa w)) (vreg r (vxVb w))
@[inherit_doc vx2] def vx1 (f : Nat → Nat) (r : TileRec) (w : Nat) : List Nat := (vreg r (vxVa w)).map f

/-- Write lanes to vd. -/
def toVd (w : Nat) (ls : List Nat) : List SlotWrite := [.vreg (vxVd w) ls]

/-- An INT32 operation that saturates, with its saturation count (R326), or an FP32 one. -/
def vxArith (fi : Int → Int → Int) (ff : Num → Num → Num) (r : TileRec) (w : Nat) : List SlotWrite :=
  if vxTy w = 0 then
    let xs := List.zipWith (fun a b => fi (sext 32 a) (sext 32 b)) (vreg r (vxVa w)) (vreg r (vxVb w))
    let n := (xs.filter fun x => decide (satS 32 x ≠ x)).length
    toVd w (xs.map fun x => toBits 32 (satS 32 x)) ++ [.sat n]
  else toVd w (List.zipWith (fun a b => toF32 (ff (f32 a) (f32 b))) (vreg r (vxVa w)) (vreg r (vxVb w)))

/-- Lane maximum and minimum. -/
def laneMax (ty a b : Nat) : Nat :=
  if ty = 0 then (if sext 32 a < sext 32 b then b else a) else fpMax 0x05 a b
@[inherit_doc laneMax] def laneMin (ty a b : Nat) : Nat :=
  if ty = 0 then (if sext 32 b < sext 32 a then b else a) else fpMin 0x06 a b

/-- Lane absolute value; |−2^31| overflows and saturates. -/
def laneAbs (ty a : Nat) : Nat := if ty = 0 then min (sext 32 a).natAbs (2 ^ 31 - 1) else bits a 0 31

/-- VABS: an INT32 lane that overflows saturates and counts. -/
def vxAbs (r : TileRec) (w : Nat) : List SlotWrite :=
  let va := vreg r (vxVa w)
  toVd w (va.map (laneAbs (vxTy w))) ++
    (if vxTy w = 0 then [.sat (va.filter fun a => decide (a % 2 ^ 32 = 2 ^ 31)).length] else [])

/-- Arithmetic right shift of an integer, to nearest, ties to even. -/
def shrRne (v : Int) (n : Nat) : Int := divRneI v (2 ^ n)

/-- A comparison of R318 on the order −1, 0, 1; none is a NaN, of which only ne holds. -/
def cmpHolds (k : Nat) (c : Option Int) : Bool :=
  match k, c with
  | 0, some x => decide (x = 0)
  | 1, some x => decide (x ≠ 0)
  | 2, some x => decide (x < 0)
  | 3, some x => decide (x ≤ 0)
  | 4, some x => decide (0 < x)
  | 5, some x => decide (0 ≤ x)
  | 1, none => true
  | _, _ => false

def laneCmp (k ty a b : Nat) : Nat :=
  let c := if ty = 0 then some (if sext 32 a < sext 32 b then -1 else if a = b then 0 else 1) else (f32 a).cmp (f32 b)
  if cmpHolds k c then 0xFFFFFFFF else 0

/-- Neighbouring lanes combined, six times: the fixed pairwise tree of R326. -/
def pairUp (f : Nat → Nat → Nat) : List Nat → List Nat
  | a :: b :: t => f a b :: pairUp f t
  | l => l

def tree (f : Nat → Nat → Nat) (ls : List Nat) : Nat :=
  ((List.range 6).foldl (fun l _ => pairUp f l) ls).getD 0 0

/-- The value of a VRED. -/
def redLane (ty k : Nat) (ls : List Nat) : Nat :=
  if k = 1 then tree (laneMax ty) ls
  else if ty = 1 then tree addF32 ls
  else toBits 32 (satS 32 ((ls.map (sext 32)).foldl (· + ·) 0))

/-- VRED: an INT32 sum that overflows saturates and counts (R326). -/
def vxRed (r : TileRec) (w : Nat) : List SlotWrite :=
  let va := vreg r (vxVa w)
  let k := bits (vxImm w) 0 1
  let v := (va.map (sext 32)).foldl (· + ·) 0
  toVd w (redLane (vxTy w) k va :: List.replicate 63 0) ++
    (if vxTy w = 0 ∧ k = 0 then [.sat (b2n (decide (satS 32 v ≠ v)))] else [])

def addQStat (a b : QStat) : QStat := ⟨a.count + b.count, a.clipped + b.clipped, a.nonfin + b.nonfin, a.sse + b.sse⟩

/-- Source and destination of a conversion: element bytes of the source (0: FP32 or INT32 lanes) and of the result. -/
def cvtFmt (op : Nat) : Option Fmt :=
  match op with
  | 0x3 => some fp16
  | 0x4 => some bf16
  | 0x5 => some e4m3
  | 0x6 => some e5m2
  | 0x7 => some fp16
  | 0x8 => some bf16
  | 0x9 => some e4m3
  | 0xA => some e5m2
  | _ => none

/-- The exact input of lane `j` (R354, R355). -/
def cvtInput (op part : Nat) (va : List Nat) (j : Nat) : Num :=
  let img := bytesOf va
  let at_ (n : Nat) : Nat := leAt img (64 * n * part + n * j) n
  match op with
  | 0x0 => numInt (sext 32 (va.getD j 0))
  | 0x7 => decodeF fp16 (at_ 2)
  | 0x8 => decodeF bf16 (at_ 2)
  | 0x9 => decodeF e4m3 (at_ 1)
  | 0xA => decodeF e5m2 (at_ 1)
  | 0xB => numInt (sext 8 (at_ 1))
  | _ => f32 (va.getD j 0)

/-- A finite value rounded to an integer, ties to even. -/
def roundInt (neg : Bool) (m : Nat) (e : Int) : Int :=
  let k : Nat := if 0 ≤ e then m * 2 ^ e.toNat else divRne m (2 ^ (-e).toNat)
  if neg then -(k : Int) else k

/-- The squared error of a result in units of 2^-32 (R357): (|x| − |q|)² ÷ u², to a multiple of 2^-32, ties to even; x is
m × 2^e, q is k × 2^b and u is 2^u. -/
def sqErr (m : Nat) (e : Int) (k : Nat) (b u : Int) : Nat :=
  let lo := min e (min b u)
  let d := ((m * 2 ^ (e - lo).toNat : Nat) : Int) - ((k * 2 ^ (b - lo).toNat : Nat) : Int)
  let n := d.natAbs
  divRne (n * n * 2 ^ 32) ((2 ^ (u - lo).toNat) ^ 2)

/-- One converted lane: the bits of the result and its contribution to the statistics. -/
def cvtLane (op : Nat) (infBit : Bool) (x : Num) : Nat × QStat :=
  let nonfin : QStat := ⟨1, 0, 1, 0⟩
  let clip : QStat := ⟨1, 1, 0, 0⟩
  let intOut (w : Nat) : Nat × QStat :=
    match x with
    | .nan => (0, nonfin)
    | .inf n => (toBits w (if n then -((2 : Int) ^ (w - 1)) else (2 : Int) ^ (w - 1) - 1), nonfin)
    | .fin n m e =>
      let k := roundInt n m e
      if satS w k = k then (toBits w k, ⟨1, 0, 0, sqErr m e k.natAbs 0 0⟩) else (toBits w (satS w k), clip)
  let floatOut (f : Fmt) : Nat × QStat :=
    match x with
    | .nan => (nanBits f, nonfin)
    | .inf n => (signBits f n + (if infBit then infBits f else maxFin f), nonfin)
    | .fin n m e =>
      let k := roundMag divRne f m e
      if maxFin f < k then (signBits f n + (if infBit then infBits f else maxFin f), clip)
      else
        let u := if m = 0 then minExp f else placeExp f m e
        let q := match decodeF f k with | .fin _ a b => (a, b) | _ => (0, 0)
        (signBits f n + k, ⟨1, 0, 0, sqErr m e q.1 q.2 u⟩)
  match op with
  | 0x1 => intOut 32
  | 0x2 => intOut 8
  | 0x3 => floatOut fp16
  | 0x4 => floatOut bf16
  | 0x5 => floatOut e4m3
  | 0x6 => floatOut e5m2
  | _ =>
    match x with
    | .fin n m e => (signBits fp32 n + min (roundMag divRne fp32 m e) (maxFin fp32), QStat.init)
    | y => (toF32 y, QStat.init)

/-- Element bytes of a narrowing result; 4 for lane results. -/
def cvtOutBytes (op : Nat) : Nat :=
  match op with
  | 0x2 => 1
  | 0x3 => 2
  | 0x4 => 2
  | 0x5 => 1
  | 0x6 => 1
  | _ => 4

/-- The 64 results and their statistics. -/
def cvtAll (op : Nat) (scaled infBit : Bool) (part : Nat) (va vb : List Nat) : List (Nat × QStat) :=
  (List.range 64).map fun j =>
    let x := cvtInput op part va j
    cvtLane op infBit (if scaled then x.mul (f32 (vb.getD j 0)) else x)

/-- VCVT's writes: the part of vd, and the statistics slot. -/
def cvtWrites (r : TileRec) (w : Nat) : List SlotWrite :=
  let c := vxCvt w
  let op := bits c 0 4
  let part := bits (vxImm w) 0 2
  let n := cvtOutBytes op
  let rs := cvtAll op (bitB c 4) (bitB c 5) part (vreg r (vxVa w)) (vreg r (vxVb w))
  let out := if n = 4 then rs.map Prod.fst
    else lanesOf (patch (bytesOf (vreg r (vxVd w))) (64 * n * part) (rs.flatMap fun e => leBytes n e.1))
  toVd w out ++ (if bitB c 6 then [.stat (bits (vxImm w) 4 4) ((rs.map Prod.snd).foldl addQStat QStat.init)] else [])

/-- The writes of a vector operation. -/
def vxFn (r : TileRec) (w : Nat) : List SlotWrite :=
  match opOf w with
  | 0x01 => vxArith (· + ·) Num.add r w
  | 0x02 => vxArith (· - ·) (fun a b => a.add b.neg) r w
  | 0x03 => vxArith (· * ·) Num.mul r w
  | 0x04 => toVd w (List.zipWith (fun p c => toF32 (p.add (f32 c)))
      (List.zipWith (fun a b => (f32 a).mul (f32 b)) (vreg r (vxVa w)) (vreg r (vxVb w))) (vreg r (vxVc w)))
  | 0x05 => toVd w (vx2 laneMax r w)
  | 0x06 => toVd w (vx2 laneMin r w)
  | 0x07 => vxAbs r w
  | 0x08 => toVd w (vx1 (fun a => toBits 32 (shrRne (sext 32 a) (bits (vxImm w) 0 5))) r w)
  | 0x09 => toVd w (List.zipWith (laneMin (vxTy w)) (vx2 laneMax r w) (vreg r (vxVc w)))
  | 0x0A => toVd w (vx2 (laneCmp (bits (vxImm w) 0 3)) r w)
  | 0x0B => toVd w (List.zipWith (fun (p : Nat × Nat) c => if c = 0 then p.2 else p.1)
      ((vreg r (vxVa w)).zip (vreg r (vxVb w))) (vreg r (vxVc w)))
  | 0x0C => toVd w ((vreg r (vxVb w)).map fun i => (vreg r (vxVa w)).getD (i % 64) 0)
  | 0x0D => vxRed r w
  | 0x0E => toVd w (List.replicate 64 (sreg r (vxVa w) % 2 ^ 32))
  | 0x10 => toVd w (vx1 (fun a => exp2Num 0x10 a (f32 a)) r w)
  | 0x11 => toVd w (vx1 (rcpF32 0x11) r w)
  | 0x12 => toVd w (vx1 (rsqrtF32 0x12) r w)
  | 0x18 => toVd w (accRow r (vxRow w)) ++ (if vxClr w then [.acc (vxRow w) (List.replicate 64 0)] else [])
  | 0x19 => cvtWrites r w
  | 0x1A => [.sreg (vxVd w) (toBits 64 (sext 32 ((vreg r (vxVa w)).getD (bits (vxImm w) 0 6) 0)))]
  | _ => []

/-! ### The control slot (R318, R327, R331) -/

/-- The scalar functions of R318; a shift by 64 or more has no stated result. -/
def salu (func a b : Nat) : Nat :=
  let sh (v : Nat) : Nat := if b < 64 then v else Config.openLane (0x200 + func) a b
  let lt : Bool := decide (sext 64 a < sext 64 b)
  match func with
  | 0 => a + b
  | 1 => a + 2 ^ 64 - b
  | 2 => a * b
  | 3 => andN a b
  | 4 => orN a b
  | 5 => xorN a b
  | 6 => sh (a * 2 ^ (b % 64))
  | 7 => sh (a / 2 ^ (b % 64))
  | 8 => sh (toBits 64 (sext 64 a / 2 ^ (b % 64)))
  | 9 => b2n lt
  | 10 => b2n (decide (a < b))
  | 11 => if lt then a else b
  | _ => if lt then b else a

/-- The target of a jump; one before the kernel's code is given as one beyond it, which is refused alike (R327). -/
def jumpTo (r : TileRec) (w : Nat) : CtlOp :=
  let v : Int := (r.pc : Int) + sext 16 (ctImm w)
  .jump (if v < 0 then r.code.length else v.toNat)

/-- The writes of the control slot and its control effect; WAITT, BAR and END make none. -/
def ctFn (s : State) (t : Nat) (r : TileRec) (w : Nat) : List SlotWrite × CtlOp :=
  match opOf w with
  | 0x01 => ([.sreg (ctSd w) (toBits 64 ((sreg r (ctSa w) : Int) + sext 16 (ctImm w)))], .step)
  | 0x02 => ([.sreg (ctSd w) (toBits 64 (sext 32 (ctImm w * 2 ^ 16)))], .step)
  | 0x03 => ([.sreg (ctSd w) (salu (bits (ctImm w) 5 5) (sreg r (ctSa w)) (sreg r (bits (ctImm w) 0 5)) % 2 ^ 64)], .step)
  | 0x08 => ([], .loop (ctImm w) (sreg r (ctSa w)))
  | 0x09 => ([], if sreg r (ctSa w) ≠ 0 then jumpTo r w else .step)
  | 0x0A => ([], jumpTo r w)
  | 0x10 => ([.feeder (bits w 6 2) (ldLocal s t (sreg r (ctSa w)) 64)], .step)
  | 0x13 => ([], .stop)
  | _ => ([], .step)

/-! ### A whole bundle -/

/-- The writes of every slot of a bundle on a tile, copies apart, its control effect, and what its copy asks for. -/
def bundleFn (s : State) (t : Nat) (r : TileRec) (b : Nat) : List SlotWrite × CtlOp × List Nat :=
  let l := lsWord b
  let m := mxWord b
  let c := ctFn s t r (ctWord b)
  let mat : List SlotWrite := if opOf m = 1 ∨ opOf m = 2 then [.matrix ⟨m, feeder r (mxF m)⟩] else []
  (lsFn s t (mxMode m) r l ++ mat ++ vxFn r (vxWord b) ++ c.1, c.2, if opOf l = 0x10 ∨ opOf l = 0x11 then copyAsks r l else [])

/-- The writes that a pair compares (R337): to local SRAM and to the accumulator. -/
def compared (ws : List SlotWrite) : List SlotWrite :=
  (ws.filter fun x => match x with | .mem _ _ => true | _ => false) ++
  ws.filter fun x => match x with | .acc _ _ => true | _ => false

end Sys2Proof.Machine
end

