-- ==== Sys2Proof/Machine/TileOps.lean ====
section
/-! DEFINITION. A tile's running (spec/09): tile faults (R339), the issue and retiring of a bundle, its loops and branches
(R327), and pairs of tiles (R336 to R338). -/

namespace Sys2Proof.Machine

/-- The first poisoned line of a local range, in the tile or in its checker. -/
def pairPoison (s : State) (j : Job) (t a n : Nat) : Option Nat := (tilePair s j.lane t).findSome? fun k => localPoison s k a n

/-- Data from the fabric lands in local SRAM; in paired-tile mode in both tiles of the pair (R337). -/
def stLocal (s : State) (l t a : Nat) (bs : List Byte) : State :=
  (tilePair s l t).foldl (fun u k => wrMem u (tileBase k + a) 0 bs) s

/-! ### Faults (R339) -/

/-- Descriptor of a kernel in an image (R311). -/
def kernelDesc (j : Job) (k : Nat) : List Byte := slice j.image (leAt j.image 0x10 4 + 32 * k) 32

/-- The address of a bundle in the image (R339). -/
def bundleVa (s : State) (j : Job) (i : Nat) : Nat :=
  let img := match s.pkt j.q j.idx with | some p => p.u 0 8 | none => 0
  img + leAt j.image 0x1C 4 + 32 * (leAt (kernelDesc j j.kernel) 4 4 + i)

/-- A tile fault of a bundle: recorded on the tile, and the job restarts. -/
def tileFaultAt (s : State) (t kind pc : Nat) : State :=
  let r := s.tile t
  let s1 := ((s.setF (TILE_FAULT.kind t) kind).setF (TILE_FAULT.bundle t) pc).addSat (TILE_FAULTS.n t) 1
  match r.job with
  | none => s
  | some k => match s1.job k.1 k.2 with
    | none => s
    | some j => restartJob s1 j 0x40 (bundleVa s1 j pc)

/-- A tile fault of the tile's present bundle. -/
def tileFault (s : State) (t kind : Nat) : State := tileFaultAt s t kind (s.tile t).pc

/-- Rewrite from its source every poisoned 4 KiB range that a reload record of a lane covers (R278). -/
def mendBay (s : State) (l : Nat) : State :=
  (s.reloads.filter fun r => decide (r.lane = l)).foldl (fun t r =>
    let t := physRead t r.segs
    let bytes := r.segs.flatMap fun g => rdMem t g.1 g.2.1 g.2.2
    let base := 0x40000000 + r.bayOff + (match t.lane r.lane with | some x => x.bayBase * 0x100000 | none => 0)
    (List.range ((bytes.length + 4095) / 4096)).foldl (fun u k =>
      let b := (bytes.drop (4096 * k)).take 4096
      let bad := (badSpans t 0 r.segs).filter fun e => decide (4096 * k ≤ e.1 ∧ e.1 < 4096 * k + 4096)
      if (poisonIn u (base + 4096 * k) b.length).isSome then carryPoison (wrMem u (base + 4096 * k) 0 b) base bad
      else u) t) s

/-- An uncorrectable error in a line a job reads restarts it (R277, R278, R537). -/
def jobPoison (s : State) (j : Job) (pa : Nat) : State :=
  let s1 := match region s pa with
    | .bay _ => mendBay s j.lane
    | _ => s
  restartJob s1 j 0x40 pa

/-! ### Issue and retire -/

/-- The tile may carry out the slot `k` (0 LS, 1 MX, 2 VX, 3 CT) of its bundle, and that slot's operation is `op`: its
record, its job and the slot's word. A bundle with WAITT or BAR is held whole until that slot is released (R328). -/
def issue (s : State) (t k op : Nat) : Option (TileRec × Job × Nat) :=
  let r := s.tile t
  match r.job with
  | none => none
  | some id => match s.job id.1 id.2 with
    | none => none
    | some j =>
      let b := bundleAt r r.pc
      let w := [lsWord b, mxWord b, vxWord b, ctWord b].getD k 0
      let held := decide (k ≠ 3) && decide (opOf (ctWord b) = 0x11 ∨ opOf (ctWord b) = 0x12) && !bitB r.slots 3
      if accepting s && !gated s 4 && decide (j.phase = .running) && !r.ended && r.wait.isNone && !bitB r.slots k && !held &&
          bundleLegal b (leAt j.image 6 2) && decide (opOf w = op) && decide (r.pc * 32 < r.code.length) then some (r, j, w)
      else none

/-- The tiles of a kernel, by their primaries. -/
def kernelTiles (s : State) (j : Job) : List Nat :=
  (List.range 32).filter fun t => decide ((s.tile t).job = some (j.q, j.idx)) && !s.flag (TILE_STATE.checker t)

/-- Who makes a tile's remote accesses. -/
def tileWho (s : State) (j : Job) (t : Nat) : Who :=
  match s.pkt j.q j.idx with
  | some p => jobWho j (0x10 + t) p.opcode p.seq
  | none => jobWho j (0x10 + t) 0 0

/-- A copy begins: its accesses are offered to the pacer as it issues them (R282), and it takes the next number of its tile. -/
def copyBegin (s : State) (t : Nat) (c : Copy) : State :=
  let r := s.tile t
  let n := 1 + (r.copies.map Copy.num).foldl max 0
  let s1 := s.setTile t { r with
    copies := r.copies ++ [{ c with num := n }], tokens := tabPut (fun _ => 0) r.tokens c.tok (token r c.tok + 1) }
  match r.job.bind fun id => s.job id.1 id.2 with
  | none => s1
  | some j => paceAct (.copy t n) (fun u => c.remote.foldl (fun v p => jobCharge v (tileWho v j t) (!c.load) p) u) s1

/-- One slot's write takes effect on a tile. -/
def applyWrite (t : Nat) (s : State) : SlotWrite → State
  | .sreg d v => let r := s.tile t; s.setTile t (setSreg r d v)
  | .vreg d ls => let r := s.tile t; s.setTile t { r with vregs := putLanes r.vregs d ls }
  | .acc n ls => let r := s.tile t; s.setTile t { r with acc := putLanes r.acc n ls }
  | .mem a bs => wrMem s (tileBase t + a) 0 bs
  | .stat k x => let r := s.tile t; s.setTile t { r with
      stats := tabPut (fun _ => QStat.init) r.stats k (addQStat (tabGet (fun _ => QStat.init) r.stats k) x) }
  | .copy c => copyBegin s t c
  | .weights w m a => let r := s.tile t; s.setTile t { r with loading := r.loading ++ [(w, m, a, r.pc)] }
  | .matrix m => let r := s.tile t; s.setTile t { r with matrix := some m }
  | .feeder f bs => let r := s.tile t; s.setTile t { r with feeders := tabPut (fun _ => []) r.feeders f bs }
  | .sat n => s.addSat (TILE_SAT.n t) n

/-- Falling off the end of loop bodies at `next` (R327): the innermost loop whose body ends there runs again or is left. -/
def loopBack : List LoopRec → Nat → List LoopRec × Nat
  | [], n => ([], n)
  | l :: ls, n =>
    if l.after = n then
      (if 1 < l.left then ({ l with left := l.left - 1 } :: ls, l.first) else loopBack ls n)
    else (l :: ls, n)

/-- Loops left by a jump, or none where the target is outside the innermost body and not after it. -/
def loopJump : List LoopRec → Nat → Option (List LoopRec)
  | [], _ => some []
  | l :: ls, n => if n < l.first then none else if n < l.after then some (l :: ls) else loopJump ls n

/-- A tile that executed END may stop: its copies have completed, and a pair has compared every write (R316, R338). -/
def endReady (s : State) (l : Nat) (r : TileRec) : Bool := r.copies.isEmpty && (!lanePaired s l || r.matrix.isNone)

/-- The tile executed END (R316, R338). -/
def endTile (s : State) (t l : Nat) : State :=
  let r := s.tile t
  if endReady s l r then s.setTile t { r with ended := true, wait := none }
  else s.setTile t { r with wait := some .endCopies }

/-- The last copy or matrix operation that END waited for is over. -/
def endGoes (s : State) (t l : Nat) : State :=
  if (s.tile t).wait = some .endCopies then endTile s t l else s

/-- Control flow after a bundle (R327). -/
def advance (s : State) (t l : Nat) (c : CtlOp) : State :=
  let r := s.tile t
  let n := r.code.length / 32
  match c with
  | .stop => endTile s t l
  | .step =>
    let x := loopBack r.loops (r.pc + 1)
    if x.2 < n then s.setTile t { r with pc := x.2, loops := x.1 } else tileFault s t 3
  | .jump tgt =>
    (match loopJump r.loops tgt with
     | some ls => if tgt < n then s.setTile t { r with pc := tgt, loops := ls } else tileFault s t 3
     | none => tileFault s t 3)
  | .loop body cnt =>
    if n < r.pc + 1 + body then tileFault s t 3
    else if cnt = 0 then
      (let x := loopBack r.loops (r.pc + 1 + body)
       if x.2 < n then s.setTile t { r with pc := x.2, loops := x.1 } else tileFault s t 3)
    else if 4 ≤ r.loops.length then tileFault s t 4
    else s.setTile t { r with pc := r.pc + 1, loops := ⟨r.pc + 1, r.pc + 1 + body, cnt⟩ :: r.loops }

/-- A compare mismatch (R338): counted for the pair, and a tile fault of kind 0x7. -/
def pairFault (s : State) (t : Nat) : State := tileFault (s.addSat (TILE_PAIR_MISMATCH.n (t / 2)) 1) t 7

/-- The primary and its checker ask for, write and decide the same in a bundle (R337). -/
def pairAgrees (r : TileRec) (w : Nat) (c : List SlotWrite × CtlOp × List Nat) : Bool :=
  decide (compared r.writes = compared c.1 ∧ r.ctl = c.2.1) &&
  decide (c.2.2 = if opOf w = 0x10 ∨ opOf w = 0x11 then copyAsks r w else [])

/-- The checker goes on as its primary does. -/
def follow (s : State) (t : Nat) : State :=
  let r := s.tile t
  s.setTile (t + 1) { s.tile (t + 1) with pc := r.pc, loops := r.loops, wait := r.wait, ended := r.ended }

/-- The bundle's writes on a tile, and TILE_BUNDLES and TILE_PC. -/
def bundleLands (s : State) (t pc : Nat) (ws : List SlotWrite) : State :=
  ((ws.foldl (applyWrite t) s).addWrap (TILE_BUNDLES.n t) 1).setF (TILE_PC.pc t) pc

/-- A bundle retires: its slots' writes take effect together, then control moves on. The checker of a pair carries out the
bundle on its own registers and SRAM, and their writes are compared (R337). -/
def retire (s : State) (t : Nat) (j : Job) : State :=
  let r := s.tile t
  let b := bundleAt r r.pc
  let s1 := s.setTile t { r with slots := 0, writes := [], ctl := .step }
  if lanePaired s j.lane then
    let c := bundleFn s (t + 1) (s.tile (t + 1)) b
    if pairAgrees r (lsWord b) c then
      follow (advance (progress (bundleLands (bundleLands s1 t r.pc r.writes) (t + 1) r.pc c.1) j.q j.idx) t j.lane r.ctl) t
    else pairFault s1 t
  else advance (progress (bundleLands s1 t r.pc r.writes) j.q j.idx) t j.lane r.ctl

/-- A slot is done: its writes wait for the bundle, which retires with its last slot. -/
def slotDone (s : State) (t k : Nat) (j : Job) (ws : List SlotWrite) (c : CtlOp) : State :=
  let r := s.tile t
  let r1 := { r with slots := r.slots + 2 ^ k, writes := r.writes ++ ws, ctl := if k = 3 then c else r.ctl }
  let s1 := s.setTile t r1
  if r1.slots = 15 then retire s1 t j else s1

end Sys2Proof.Machine
end

