-- ==== Sys2Proof/Machine/TileLs.lean ====
section
/-! DEFINITION. The load/store slot of a tile (R318 to R324): VLD to XST, the completion of a weight load and the landing of
a copy. -/

namespace Sys2Proof.Machine

/-- Count events of the tile, and of its checker, as energy (R509). -/
def tileEnergy (s : State) (j : Job) (t k n : Nat) : State :=
  energyAdd s j.q j.idx k (n * (tilePair s j.lane t).length)

/-- A load or store of the LS slot at a local address of `n` bytes aligned to `n`: out of range is kind 0x2 (R318), a
poisoned line restarts the job (R339), otherwise the slot makes its write. -/
def lsAccess (s : State) (t op n : Nat) (rd : Bool) : State :=
  match issue s t 0 op with
  | none => s
  | some (r, j, w) =>
    if !localOk (lsAddr r w) n n then tileFault s t 2
    else match (if rd then pairPoison s j t (lsAddr r w) n else none) with
      | some l => jobPoison s j (64 * l)
      | none => slotDone (tileEnergy s j t 4 (max 1 (n / 64))) t 0 j (lsFn s t 0 r w) .step

/-- VLD (R318). -/
def execVld (t : Nat) (s : State) : Res := .next (lsAccess s t 0x01 256 true)

/-- VST (R319). -/
def execVst (t : Nat) (s : State) : Res := .next (lsAccess s t 0x02 256 false)

/-- SLD (R318). -/
def execSld (t : Nat) (s : State) : Res := .next (lsAccess s t 0x03 8 true)

/-- SST (R319). -/
def execSst (t : Nat) (s : State) : Res := .next (lsAccess s t 0x04 8 false)

/-- A matrix operation in the unit reads a weight buffer. -/
def matrixReads (r : TileRec) (w : Nat) : Bool := match r.matrix with
  | some m => decide (opOf m.word = 0x01 ∧ mxW m.word = w)
  | none => false

def weightLoading (r : TileRec) (w : Nat) : Bool := r.loading.any fun e => decide (e.1 = w)

/-- WLD (R320): it waits while the buffer is read or being loaded. -/
def execWld (t : Nat) (s : State) : Res :=
  .next (match issue s t 0 0x08 with
    | none => s
    | some (r, j, w) =>
      let mode := mxMode (mxWord (bundleAt r r.pc))
      let a := lsAddr r w
      let n := blockLen mode
      if matrixReads r (lsW w) || weightLoading r (lsW w) then s
      else if !localOk a n 64 then tileFault s t 2
      else slotDone (tileEnergy s j t 4 (n / 64)) t 0 j (lsFn s t mode r w) .step)

/-- A tile's weight buffer takes the block that its loader has read (R349). -/
def weightsIn (s : State) (t w : Nat) : State :=
  let r := s.tile t
  match r.loading.find? fun e => decide (e.1 = w) with
  | some (_, mode, a, _) => s.setTile t { r with
      weights := tabPut (fun _ => ⟨3, []⟩) r.weights w ⟨mode, ldLocal s t a (blockLen mode)⟩
      loading := r.loading.filter fun e => decide (e.1 ≠ w) }
  | none => s

/-- The load of weight buffer `w` completes (R320, R348, R349). -/
def execWldComplete (t w : Nat) (s : State) : Res :=
  .next (
    let r := s.tile t
    match r.loading.find? fun e => decide (e.1 = w), r.job with
    | some (_, mode, a, pc), some id =>
      (match s.job id.1 id.2 with
       | none => s
       | some j =>
         if !accepting s || gated s 4 || matrixReads r w then s
         else match pairPoison s j t a (blockLen mode) with
           | some l => jobPoison s j (64 * l)
           | none =>
             if mode = 1 && !mmqBlockOk (ldLocal s t a (blockLen mode)) then tileFaultAt s t 5 pc
             else (tilePair s j.lane t).foldl (fun u k => weightsIn u k w) s)
    | _, _ => s)

/-- The buffer descriptor `i` of a JOB_RUN: base, length, access bits. -/
def bufDesc (s : State) (j : Job) (i : Nat) : Nat × Nat × Nat := match s.pkt j.q j.idx with
  | some p => (p.u (0x20 + 16 * i) 8, p.u (0x28 + 16 * i) 4, p.u (0x2C + 16 * i) 4)
  | none => (0, 0, 0)

/-- A copy issues (R321 to R324): its form is checked first, then its reach; with its token full it waits. A store to a
write-only buffer is staged, one to an in-place buffer is not (R541). -/
def copyIssue (s : State) (t op : Nat) (load : Bool) : State :=
  match issue s t 0 op with
  | none => s
  | some (r, j, w) =>
    let a := lsAddr r w
    let sb := sreg r (lsSb w)
    let n := sreg r (lsSc w)
    let cls := lsCls w
    let off := if cls = 2 then sb % 2 ^ 22 else sb
    let peer := bits sb 32 16
    let who := tileWho s j t
    let go (u : State) (rem : List Piece) (va : Nat) (staged : Bool) : State :=
      slotDone u t 0 j [.copy ⟨0, load, rem, a, lsTok w, staged, va⟩] .step
    if n < 64 ∨ 1048576 < n ∨ n % 64 ≠ 0 ∨ off % 64 ≠ 0 then tileFault s t 8
    else if !localOk a n 64 then tileFault s t 2
    else if cls = 2 ∧ leAt (kernelDesc j j.kernel) 1 1 ≤ peer then tileFault s t 6
    else if cls = 2 ∧ 0x400000 < off + n then tileFault s t 2
    else if 255 ≤ token r (lsTok w) then s
    else if cls = 2 then go s [⟨tileBase (j.bind.getD peer 0) + off, 0, n, true⟩] 0 false
    else if cls = 1 then
      (match s.lane j.lane with
       | none => s
       | some l =>
         let pa := 0x40000000 + 0x100000 * l.bayBase + sb
         if 0x100000 * l.bayLen < sb + n then endAccess (xltRecord s who pa 4 0 (!load)) j pa
         else go s [⟨pa, 0, n, true⟩] pa false)
    else
      let b := bufDesc s j (lsBuf w)
      let va := (b.1 + sb) % 2 ^ 64
      if b.2.1 < sb + n ∨ !bitB b.2.2 (if load then 0 else 1) then endAccess (xltRecord s who va 2 0 (!load)) j va
      else match xlateAll who (!load) (pageSegs va n) s with
        | (s1, .ok ls) => go s1 (landPieces ls) va (load || !bitB b.2.2 0)
        | (s1, .error (.xlat x _ _)) => endAccess s1 j x
        | (s1, .error (.poison pa)) => jobPoison s1 j pa

/-- XLD (R321, R322). -/
def execXld (t : Nat) (s : State) : Res := .next (copyIssue s t 0x10 true)

/-- XST (R321 to R323). -/
def execXst (t : Nat) (s : State) : Res := .next (copyIssue s t 0x11 false)

/-- Bytes a load copy finds at its pieces: staged bytes of a buffer written by the same attempt (R323), else what is held;
an outbound PCIe read gives bytes the model leaves free. -/
def copyRead (j : Job) (staged : Bool) : List Piece → State → State × List Byte
  | [], s => (s, [])
  | p :: ps, s =>
    if 0x1000000000 ≤ p.pa then
      let f := s.fresh
      let r := copyRead j staged ps f.2
      (r.1, leBytes p.len f.1 ++ r.2)
    else
      let bs := if staged then attemptRead s j p.pa p.len p.slot else rdMem s p.pa p.len p.slot
      let r := copyRead j staged ps s
      (r.1, bs ++ r.2)

/-- The first poisoned line among pieces that are not staged. -/
def piecesPoison (s : State) (j : Job) (staged : Bool) (ps : List Piece) : Option Nat :=
  ps.findSome? fun p => (s.ms.poison.find? fun l => decide (p.pa < 64 * l + 64 ∧ 64 * l < p.pa + p.len) &&
    !(staged && (stagedAt j l).isSome))

/-- Write the pieces of an unstaged store: a peer's SRAM takes it in both tiles of its pair (R337). -/
def copyWrite (s : State) (j : Job) : List Piece → List Byte → State
  | [], _ => s
  | p :: ps, bs =>
    let s1 := match region s p.pa with
      | .tile k => stLocal s j.lane k (p.pa - tileBase k) (bs.take p.len)
      | .pcie _ => pcieSend s p.pa (bs.take p.len)
      | _ => wrMem s p.pa p.slot (bs.take p.len)
    copyWrite s1 j ps (bs.drop p.len)

def stagePieces (s : State) : List Piece → List Byte → Job → Job
  | [], _, j => j
  | p :: ps, bs, j => stagePieces s ps (bs.drop p.len) (stageWrite s j p.pa p.slot (bs.take p.len))

/-- Distinct new staging pages of a copy's pieces. -/
def copyNewPages (j : Job) (ps : List Piece) : Nat :=
  ((ps.flatMap fun p => (lineSegs p.pa p.len).map fun g => g.1 / 64).eraseDups.filter
    fun p => decide (p ∉ stagingPages j)).length

/-- The master waits for a staging page, or the job ends where no page can be freed (R544). -/
def waitStaging (s : State) (j : Job) (va : Nat) : State :=
  if ckptHeld s j.lane j.q j.idx = 0 then endJob s j 0x40 (faultDetail j) va
  else if j.waitPage.isSome then s
  else s.setJob { j with waitPage := some va, readyAt := s.now }

/-- A copy has landed: it leaves the tile, its token drops, and END goes on when it was the last (R324, R316). -/
def copyDone (s : State) (t n : Nat) (c : Copy) (j : Job) : State :=
  let r := s.tile t
  let r1 := { r with
    copies := r.copies.eraseIdx n, tokens := tabPut (fun _ => 0) r.tokens c.tok (token r c.tok - 1) }
  progress (endGoes (s.setTile t r1) t j.lane) j.q j.idx

/-- Every piece of a copy reaches its target; its accesses were offered to the pacer as they were issued. -/
def copyTouch (s : State) (j : Job) (w : Who) (wr : Bool) (ps : List Piece) : State :=
  ps.foldl (fun u p => jobLand u j w wr p) s

/-- Work still waits for its accesses at the fabric entry (R283). -/
def paceHolds (s : State) (a : HeldAct) : Bool := s.pace.waits.any fun w => decide (w.act = a)

/-- The last byte of copy `n` of a tile lands (R323, R324, R308). -/
def execCopyLand (t n : Nat) (s : State) : Res :=
  .next (
    let r := s.tile t
    match r.copies[n]?, r.job with
    | some c, some id =>
      (match s.job id.1 id.2 with
       | none => s
       | some j =>
         if !accepting s || decide (j.phase ≠ .running) then s
         else if paceHolds s (.copy t c.num) then s
         else if c.load then
           (match piecesPoison s j c.staged c.remote with
            | some l => jobPoison s j (64 * l)
            | none =>
              let x := copyRead j c.staged c.remote (copyTouch s j (tileWho s j t) false c.remote)
              copyDone (stLocal x.1 j.lane t c.local_ x.2) t n c j)
         else
           let len := (c.remote.map Piece.len).foldl (· + ·) 0
           match localPoison s t c.local_ len with
           | some l => jobPoison s j (64 * l)
           | none =>
             let bs := ldLocal s t c.local_ len
             if !c.staged then copyDone (copyWrite (copyTouch s j (tileWho s j t) true c.remote) j c.remote bs) t n c j
             else if ckptFits s j (copyNewPages j c.remote) then
               let s1 := copyTouch s j (tileWho s j t) true c.remote
               match s1.job j.q j.idx with
               | none => s
               | some j1 => copyDone (s1.setJob { stagePieces s1 c.remote bs j1 with waitPage := none }) t n c j
             else waitStaging s j c.va)
    | _, _ => s)

end Sys2Proof.Machine
end

