-- ==== Sys2Proof/Machine/TileMx.lean ====
section
/-! DEFINITION. The matrix slot of a tile (R305, R306, R325, R331 to R335, R344 to R352): feeder descriptors, MMT and MPOOL,
and the end of a matrix operation. -/

namespace Sys2Proof.Machine

/-! ### The operations -/

/-- The element format suits the mode (R325). -/
def elemOk (mode elem : Nat) : Bool :=
  match mode with
  | 0 => decide (elem = 0)
  | 1 => decide (elem = 0 ∨ elem = 3 ∨ elem = 4)
  | _ => decide (1 ≤ elem)

/-- MMT (R325, R349): it waits for the unit and for its weights; an invalid operation is kind 0x5. -/
def execMmt (t : Nat) (s : State) : Res :=
  .next (match issue s t 1 0x01 with
    | none => s
    | some (r, j, w) =>
      let d := feeder r (mxF w)
      let mode := mxMode w
      let wb := wbuf r (mxW w)
      if r.matrix.isSome || weightLoading r (mxW w) then s
      else if d.isEmpty || decide (512 < mxRow w + feederRows d) || !elemOk mode (fdElem d) ||
          (decide (wb.mode ≠ 3) && decide (wb.mode ≠ mode)) || !pixFit d (pixLen (fdElem d) mode) ||
          decide (fdPixPitch d < pixLen (fdElem d) mode) then tileFault s t 5
      else slotDone s t 1 j [.matrix ⟨w, d⟩] .step)

/-- MPOOL (R325, R334). -/
def execMpool (t : Nat) (s : State) : Res :=
  .next (match issue s t 1 0x02 with
    | none => s
    | some (r, j, w) =>
      let d := feeder r (mxF w)
      if r.matrix.isSome then s
      else if d.isEmpty || decide (512 < mxRow w + feederRows d) then tileFault s t 5
      else slotDone s t 1 j [.matrix ⟨w, d⟩] .step)

/-- A tile's busy matrix operation ends: its rows are in the accumulator file (R325, R306, R335). -/
def matrixLands (s : State) (t : Nat) : State :=
  let r := s.tile t
  match r.matrix with
  | none => s
  | some m =>
    let rows := matrixRows s t r m
    let acc := rows.foldl (fun a e => putLanes a e.1 (e.2.map Prod.fst)) r.acc
    let sat := (rows.map fun e => (e.2.map Prod.snd).foldl (· + ·) 0).foldl (· + ·) 0
    ((s.setTile t { r with acc := acc, matrix := none }).addSat (TILE_SAT.n t) sat).addSat (TILE_EMPTY_WIN.n t) (emptyWindows m)

/-- The accumulator rows that a tile's matrix operation writes. -/
def matrixGives (s : State) (t : Nat) : List (Nat × List (Nat × Nat)) :=
  match (s.tile t).matrix with
  | some m => matrixRows s t (s.tile t) m
  | none => []

/-- MATRIX_OP_END (R325, R337): a pair compares the rows, by row and data. -/
def execMatrixOpEnd (t : Nat) (s : State) : Res :=
  .next (
    let r := s.tile t
    match r.matrix, r.job with
    | some m, some id =>
      (match s.job id.1 id.2 with
       | none => s
       | some j =>
         if !accepting s || gated s 4 then s
         else
           let n := pixLen (fdElem m.feeder) (if opOf m.word = 1 then mxMode m.word else 0)
           let px := matrixPixels m
           match px.findSome? fun a => pairPoison s j t a n with
           | some l => jobPoison s j (64 * l)
           | none =>
             let s1 := (tilePair s j.lane t).foldl matrixLands s
             if lanePaired s j.lane ∧ matrixGives s t ≠ matrixGives s (t + 1) then pairFault s1 t
             else
               let s2 := endGoes (tileEnergy s1 j t 4 (px.length * (n / 64))) t j.lane
               if opOf m.word = 1 then
                 tileEnergy s2 j t (mxMode m.word) (feederRows m.feeder * (if mxMode m.word = 2 then 4 else 1))
               else s2)
    | _, _ => s)

end Sys2Proof.Machine
end

