-- ==== Sys2Proof/Machine/TileVx.lean ====
section
/-! DEFINITION. The vector slot of a tile (R318, R326, R353 to R357). -/

namespace Sys2Proof.Machine

/-- A vector slot operation; each one counts as an event of kind 3 (R509). -/
def vxOp (s : State) (t op : Nat) : State :=
  match issue s t 2 op with
  | none => s
  | some (r, j, w) => slotDone (tileEnergy s j t 3 1) t 2 j (vxFn r w) .step

/-- VADD (R326). -/
def execVadd (t : Nat) (s : State) : Res := .next (vxOp s t 0x01)

/-- VSUB (R326). -/
def execVsub (t : Nat) (s : State) : Res := .next (vxOp s t 0x02)

/-- VMUL (R326). -/
def execVmul (t : Nat) (s : State) : Res := .next (vxOp s t 0x03)

/-- VFMA (R326): one rounding. -/
def execVfma (t : Nat) (s : State) : Res := .next (vxOp s t 0x04)

/-- VMAX (R326). -/
def execVmax (t : Nat) (s : State) : Res := .next (vxOp s t 0x05)

/-- VMIN (R326). -/
def execVmin (t : Nat) (s : State) : Res := .next (vxOp s t 0x06)

/-- VABS (R326). -/
def execVabs (t : Nat) (s : State) : Res := .next (vxOp s t 0x07)

/-- VSHR (R326). -/
def execVshr (t : Nat) (s : State) : Res := .next (vxOp s t 0x08)

/-- VCLAMP (R326): min(max(va, vb), vc). -/
def execVclamp (t : Nat) (s : State) : Res := .next (vxOp s t 0x09)

/-- VCMP (R326). -/
def execVcmp (t : Nat) (s : State) : Res := .next (vxOp s t 0x0A)

/-- VSEL (R326). -/
def execVsel (t : Nat) (s : State) : Res := .next (vxOp s t 0x0B)

/-- VPERM (R326). -/
def execVperm (t : Nat) (s : State) : Res := .next (vxOp s t 0x0C)

/-- VRED (R326). -/
def execVred (t : Nat) (s : State) : Res := .next (vxOp s t 0x0D)

/-- VBCST (R318): the low 32 bits of s[va]. -/
def execVbcst (t : Nat) (s : State) : Res := .next (vxOp s t 0x0E)

/-- VEXP2 (R326). -/
def execVexp2 (t : Nat) (s : State) : Res := .next (vxOp s t 0x10)

/-- VRCP (R326). -/
def execVrcp (t : Nat) (s : State) : Res := .next (vxOp s t 0x11)

/-- VRSQRT (R326). -/
def execVrsqrt (t : Nat) (s : State) : Res := .next (vxOp s t 0x12)

/-- The busy matrix operation writes an accumulator row. -/
def matrixWrites (r : TileRec) (row : Nat) : Bool := match r.matrix with
  | some m => decide (mxRow m.word ≤ row ∧ row < mxRow m.word + feederRows m.feeder)
  | none => false

/-- VACC (R318): it waits while the matrix unit still writes the row (R329). -/
def execVacc (t : Nat) (s : State) : Res :=
  .next (match issue s t 2 0x18 with
    | none => s
    | some (r, _, w) => if matrixWrites r (vxRow w) then s else vxOp s t 0x18)

/-- VCVT (R353 to R357). -/
def execVcvt (t : Nat) (s : State) : Res := .next (vxOp s t 0x19)

/-- VMOVS (R318). -/
def execVmovs (t : Nat) (s : State) : Res := .next (vxOp s t 0x1A)

end Sys2Proof.Machine
end

