-- ==== Sys2Proof/Machine/TileCt.lean ====
section
/-! DEFINITION. The control slot of a tile (R318, R327, R328, R331), waits and barriers, NOP, illegal bundles (R317) and pair
mismatches (R338). -/

namespace Sys2Proof.Machine

/-- A control operation without a wait. -/
def ctOp (s : State) (t op : Nat) : State :=
  match issue s t 3 op with
  | none => s
  | some (r, j, w) => slotDone s t 3 j (ctFn s t r w).1 (ctFn s t r w).2

/-- SADDI (R318). -/
def execSaddi (t : Nat) (s : State) : Res := .next (ctOp s t 0x01)

/-- SLUI (R318). -/
def execSlui (t : Nat) (s : State) : Res := .next (ctOp s t 0x02)

/-- SALU (R318). -/
def execSalu (t : Nat) (s : State) : Res := .next (ctOp s t 0x03)

/-- LOOP (R327). -/
def execTileLoop (t : Nat) (s : State) : Res := .next (ctOp s t 0x08)

/-- BNZ (R327). -/
def execTileBnz (t : Nat) (s : State) : Res := .next (ctOp s t 0x09)

/-- JMP (R327). -/
def execTileJmp (t : Nat) (s : State) : Res := .next (ctOp s t 0x0A)

/-- FSET (R331). -/
def execTileFset (t : Nat) (s : State) : Res :=
  .next (match issue s t 3 0x10 with
    | none => s
    | some (r, j, w) =>
      let a := sreg r (ctSa w)
      if !localOk a 64 64 then tileFault s t 2
      else match pairPoison s j t a 64 with
        | some l => jobPoison s j (64 * l)
        | none =>
          if feederOk (ldLocal s t a 64) then slotDone (tileEnergy s j t 4 1) t 3 j (ctFn s t r w).1 .step else tileFault s t 5)

/-- Every token in a mask has count 0. -/
def tokensClear (r : TileRec) (mask : Nat) : Bool := (maskBits 16 mask).all fun k => decide (token r k = 0)

/-- WAITT (R328): released at once when its tokens are clear. -/
def execTileWaitt (t : Nat) (s : State) : Res :=
  .next (match issue s t 3 0x11 with
    | none => s
    | some (r, j, w) =>
      if tokensClear r (ctImm w) then slotDone s t 3 j [] .step
      else s.setTile t { r with wait := some (.tokens (ctImm w)) })

/-- A wait of the control slot ends: the slot is done. -/
def releaseWait (s : State) (t : Nat) : State :=
  let r := s.tile t
  match r.job with
  | none => s
  | some id => match s.job id.1 id.2 with
    | none => s
    | some j => slotDone (s.setTile t { r with wait := none }) t 3 j [] .step

/-- WAITT_RELEASE (R328). -/
def execTileWaittRelease (t : Nat) (s : State) : Res :=
  .next (match (s.tile t).wait with
    | some (.tokens m) => if accepting s && tokensClear (s.tile t) m then releaseWait s t else s
    | _ => s)

/-- BAR (R328). -/
def execTileBar (t : Nat) (s : State) : Res :=
  .next (match issue s t 3 0x12 with
    | none => s
    | some (r, _, _) => s.setTile t { r with wait := some .bar })

/-- Every tile of the kernel has reached a BAR or ended, and no copy is in flight (R328). -/
def barReady (s : State) (j : Job) : Bool :=
  (kernelTiles s j).all fun k =>
    let r := s.tile k
    r.ended || (decide (r.wait = some .bar) && r.copies.isEmpty)

/-- BAR_RELEASE (R328), named by any tile at the barrier. -/
def execTileBarRelease (t : Nat) (s : State) : Res :=
  .next (match (s.tile t).job with
    | none => s
    | some id => match s.job id.1 id.2 with
      | none => s
      | some j =>
        if accepting s && decide ((s.tile t).wait = some .bar) && barReady s j then
          ((kernelTiles s j).filter fun k => decide ((s.tile k).wait = some .bar)).foldl releaseWait s
        else s)

/-- END (R316): it takes effect when its bundle retires. -/
def execTileEnd (t : Nat) (s : State) : Res := .next (ctOp s t 0x13)

/-- NOP in a slot (R317). -/
def execTileNop (t slot : Nat) (s : State) : Res :=
  .next (match issue s t slot 0x00 with
    | none => s
    | some (_, j, _) => slotDone s t slot j [] .step)

/-- A bundle with a reserved encoding (R317): kind 0x1, nothing retires. -/
def execIllegalBundle (t : Nat) (s : State) : Res :=
  .next (
    let r := s.tile t
    match r.job with
    | none => s
    | some id => match s.job id.1 id.2 with
      | none => s
      | some j =>
        if accepting s && !gated s 4 && decide (j.phase = .running) && !r.ended && r.wait.isNone &&
            decide (r.pc * 32 < r.code.length) && !bundleLegal (bundleAt r r.pc) (leAt j.image 6 2)
        then tileFault s t 1 else s)

/-- A pair's compared writes differ (R338). -/
def execPairMismatch (k : Nat) (s : State) : Res :=
  .next (match (s.tile (2 * k)).job with
    | none => s
    | some id => match s.job id.1 id.2 with
      | none => s
      | some j =>
        if accepting s && decide (k < 16) && lanePaired s j.lane && decide (j.phase = .running) then
          pairFault s (2 * k)
        else s)

end Sys2Proof.Machine
end

