-- ==== Sys2Proof/Machine/Image.lean ====
section
/-! DEFINITION. Job images (R310 to R313, R369) and the checks made when a job starts (R143, R144, R156, R159). -/

namespace Sys2Proof.Machine

/-- Header fields of an image (R310). -/
def imgNBuf (m : List Byte) : Nat := leAt m 6 2
@[inherit_doc imgNBuf] def imgNKernel (m : List Byte) : Nat := leAt m 8 2
@[inherit_doc imgNBuf] def imgMaxTiles (m : List Byte) : Nat := leAt m 0xA 1
@[inherit_doc imgNBuf] def imgLen (m : List Byte) : Nat := leAt m 0xC 4
@[inherit_doc imgNBuf] def imgCodeOff (m : List Byte) : Nat := leAt m 0x1C 4
@[inherit_doc imgNBuf] def imgCodeLen (m : List Byte) : Nat := leAt m 0x20 4
@[inherit_doc imgNBuf] def imgArgsOff (m : List Byte) : Nat := leAt m 0x24 4

/-- Kernel descriptor `k` (R311) and resident descriptor `i` (R312). -/
def imgKernel (m : List Byte) (k : Nat) : List Byte := slice m (leAt m 0x10 4 + 32 * k) 32
@[inherit_doc imgKernel] def imgResident (m : List Byte) (i : Nat) : List Byte := slice m (leAt m 0x14 4 + 16 * i) 16
def imgNResident (m : List Byte) : Nat := leAt m 0x18 2

/-- A part of the image starts at a multiple and lies within it. -/
def within (m : List Byte) (off align n : Nat) : Bool := decide (off % align = 0 ∧ off + n ≤ imgLen m)

/-- The attention step list of a kernel (R369): header, then steps. -/
def attnHead (m d : List Byte) : List Byte := slice m (leAt d 0x14 4) 64
def attnStep (m d : List Byte) (i : Nat) : List Byte := slice m (leAt d 0x14 4 + 64 + 32 * i) 32

/-- Bytes of a KV element, and of a page (R365). -/
def kvWidth (e : Nat) : Nat := if e = 1 ∨ e = 2 then 2 else 1
def kvPage (h : List Byte) : Nat := 64 * leAt h 2 2 * kvWidth (leAt h 4 1)

def finiteF32 (x : Nat) : Bool := match f32 x with
  | .fin _ _ _ => true
  | _ => false

/-- The step-list header keeps its rules in a lane (R369). -/
def attnOk (m d : List Byte) (l : LaneRec) (commit : Bool) : Bool :=
  let h := attnHead m d
  let n := leAt h 0 2
  let bay := 0x100000 * l.bayLen
  within m (leAt d 0x14 4) 64 (64 + 32 * n) && decide (leAt d 0x14 4 ≠ 0) && decide (1 ≤ n ∧ n ≤ 1024) &&
  decide (16 ≤ leAt h 2 2 ∧ leAt h 2 2 ≤ 256 ∧ leAt h 2 2 % 16 = 0) && decide (1 ≤ leAt h 4 1 ∧ leAt h 4 1 ≤ 4) &&
  decide (1 ≤ leAt h 5 1 ∧ leAt h 5 1 ≤ 4) && decide (leAt h 6 1 ≤ 2 ∧ leAt h 7 1 = 0) && decide (leAt h 8 4 % 64 = 0) &&
  decide (1 ≤ leAt h 0xC 2 ∧ leAt h 0xC 2 ≤ 4096 ∧ leAt h 0xE 2 = 0) && decide (leAt h 0x10 4 % 4096 = 0) &&
  decide (1 ≤ leAt h 0x14 4 ∧ leAt h 0x14 4 ≤ 393216) && finiteF32 (leAt h 0x18 4) &&
  decide (leNat (slice h 0x1C 36) = 0) && decide (leAt h 8 4 + 16 * leAt h 0xC 2 ≤ bay) &&
  decide (leAt h 0x10 4 + leAt h 0x14 4 * kvPage h ≤ bay) &&
  (commit || (List.range n).all fun i => decide (leAt (attnStep m d i) 0 1 ≠ 2 ∧ leAt (attnStep m d i) 0 1 ≠ 3))

/-- A kernel descriptor keeps its rules (R311). -/
def kernelOk (m d : List Byte) (l : LaneRec) (commit : Bool) : Bool :=
  decide (leAt d 2 2 = 0 ∧ leAt d 0xB 1 = 0 ∧ leNat (slice d 0x18 8) = 0) && decide (leAt d 0xA 1 ≤ 16) &&
  decide (1 ≤ leAt d 8 2 ∧ leAt d 8 2 ≤ 2048) && decide (32 * (leAt d 4 4 + leAt d 8 2) ≤ imgCodeLen m) &&
  decide (leAt d 0xC 4 % 8 = 0) && within m (imgArgsOff m + leAt d 0xC 4) 8 (8 * leAt d 0xA 1) &&
  (match leAt d 0 1 with
   | 0 => decide (1 ≤ leAt d 1 1 ∧ leAt d 1 1 ≤ imgMaxTiles m ∧ leAt d 1 1 ≤ (laneUnits l).length) &&
      decide (leAt d 0x14 4 = 0)
   | 1 => decide (leAt d 1 1 = 0) && attnOk m d l commit
   | _ => false)

/-- A resident descriptor keeps its rules (R312). -/
def residentOk (m d : List Byte) : Bool :=
  decide (leAt d 0 1 < imgMaxTiles m ∧ leNat (slice d 1 3) = 0) && decide (leAt d 4 4 % 4096 = 0 ∧ leAt d 8 4 % 4096 = 0) &&
  decide (leAt d 4 4 + leAt d 8 4 ≤ 0x400000) && decide (leAt d 0xC 2 ≤ leAt d 0xE 2 ∧ leAt d 0xE 2 < imgNKernel m)

/-- The largest tile count of the tile kernels. -/
def imgTilesMax (m : List Byte) : Nat :=
  ((List.range (imgNKernel m)).map fun k => leAt (imgKernel m k) 1 1).foldl max 0

/-- The image header keeps its rules (R310). -/
def headOk (m : List Byte) (nBuf : Nat) : Bool :=
  decide (leAt m 0 4 = 0x31494E52 ∧ leAt m 4 2 = 1) && decide (imgNBuf m = nBuf) &&
  decide (1 ≤ imgNKernel m ∧ imgNKernel m ≤ 4096) && decide (1 ≤ imgMaxTiles m ∧ imgMaxTiles m ≤ 32) &&
  decide (leAt m 0xB 1 = 0 ∧ leAt m 0x1A 2 = 0 ∧ leNat (slice m 0x28 24) = 0) &&
  decide (64 ≤ imgLen m ∧ imgLen m ≤ 16777216) && decide (imgNResident m ≤ 256)

/-- The whole image keeps its rules (R310 to R313, R369); `m` holds image_len bytes. -/
def imageOk (m : List Byte) (l : LaneRec) (commit : Bool) : Bool :=
  within m (leAt m 0x10 4) 32 (32 * imgNKernel m) &&
  (if imgNResident m = 0 then decide (leAt m 0x14 4 = 0) else within m (leAt m 0x14 4) 16 (16 * imgNResident m)) &&
  within m (imgCodeOff m) 32 (imgCodeLen m) && decide (imgCodeLen m % 32 = 0) && decide (imgArgsOff m % 8 = 0) &&
  (decide (imgTilesMax m = 0) || decide (imgTilesMax m = imgMaxTiles m)) &&
  ((List.range (imgNKernel m)).all fun k => kernelOk m (imgKernel m k) l commit) &&
  ((List.range (imgNResident m)).all fun i => residentOk m (imgResident m i))

/-! ### JOB_RUN's preconditions -/

/-- Buffer `i`: base, length, access. -/
def jrBuf (p : Pkt) (i : Nat) : Nat × Nat × Nat := (p.u (0x20 + 16 * i) 8, p.u (0x28 + 16 * i) 4, p.u (0x2C + 16 * i) 4)

def jrBufs (p : Pkt) : List (Nat × Nat × Nat) := (List.range (p.u 8 2)).map (jrBuf p)

def bufsOverlap (a b : Nat × Nat × Nat) : Bool := decide (a.1 < b.1 + b.2.1 ∧ b.1 < a.1 + a.2.1)

/-- Each write buffer overlaps no other buffer (R156). -/
def bufsApart (p : Pkt) : List (Bool × Nat) :=
  (List.range (p.u 8 2)).map fun i =>
    (!(bitB (jrBuf p i).2.2 1) || (List.range (p.u 8 2)).all fun k => decide (k = i) || !bufsOverlap (jrBuf p i) (jrBuf p k),
     0x20 + 16 * i)

def inPlace (b : Nat × Nat × Nat) : Bool := decide (b.2.2 % 4 = 3)

/-- A CAN side effect names a controller of the instance in a mode that suits the frame (R159). -/
def canFits (s : State) (inst ctl flags : Nat) : Bool :=
  let m := s.getF (CAN_STATE.mode ctl)
  decide (s.getF (CAN_STATE.owner ctl) = inst) && (if bitB flags 0 then decide (m = 1) else decide (m = 1 ∨ m = 2))

def sideFits (s : State) (inst : Nat) (d : List Byte) : Bool :=
  decide (leAt d 0 1 ≠ 2) || canFits s inst (leAt d 1 1) (leAt d 0x10 1)

/-- Bytes a job packet names, as Tsuquel reads them when its work starts: a range that does not translate fails the
deferred check 8 at the address parameter's offset. -/
def startBytes (s : State) (p : Pkt) (off va n : Nat) : State × Except PreFail (List Byte) :=
  match rangeCheck s (pktWho p true) off va n false with
  | (s1, .ok) =>
    (match peekBytes s1 (pktWho p true) va n with
     | (s2, .ok bs) => (s2, .ok bs)
     | (s2, .error (.poison pa)) => (s2, .error (.poison pa))
     | (s2, .error (.xlat a _ _)) => (s2, .error (.xlat off a)))
  | (s1, e) => (s1, .error e)

/-- The image of a JOB_RUN: its header, then the whole. -/
def readImage (s : State) (p : Pkt) : State × Except PreFail (List Byte) :=
  match startBytes s p 0 (p.u 0 8) 64 with
  | (s1, .error e) => (s1, .error e)
  | (s1, .ok h) =>
    if headOk h (p.u 8 2) then startBytes s1 p 0 (p.u 0 8) (imgLen h) else (s1, .error (.bad 0x20))

/-- The side-effect list of a JOB_RUN. -/
def readSides (s : State) (p : Pkt) : State × Except PreFail (List (List Byte)) :=
  if p.u 0x18 2 = 0 then (s, .ok [])
  else match startBytes s p 0x10 (p.u 0x10 8) (32 * p.u 0x18 2) with
    | (s1, .ok bs) => (s1, .ok (records 32 bs (p.u 0x18 2)))
    | (s1, .error e) => (s1, .error e)

/-- The preconditions of JOB_RUN (R156, R159, R313). -/
def jobRunPre (s : State) (p : Pkt) : State × PreFail :=
  match s.lane p.lane, readImage s p with
  | none, (s1, _) => (s1, .bad 8)
  | some _, (s1, .error e) => (s1, e)
  | some l, (s1, .ok m) =>
    match readSides s1 p with
    | (s2, .error e) => (s2, e)
    | (s2, .ok sides) =>
      let ip := (jrBufs p).filter inPlace
      (s2, firstPre ([(imageOk m l (bitB p.flags 3), 0)] ++ bufsApart p ++
        [(ip.isEmpty || bitB p.flags 4, 0x20), (decide ((ip.map fun b => b.2.1).foldl (· + ·) 0 ≤ l.ckptLen), 0x20),
         (sides.isEmpty || bitB p.flags 3, 0x18), (sides.all (sideFits s2 p.inst), 0x10)]))

end Sys2Proof.Machine
end

