-- ==== Sys2Proof/Machine/Jobs.lean ====
section
/-! DEFINITION. Job scheduling (R291 to R303, R309, R314, R315, R361, R384, R413, R543, R544): starting a job, dispatching a
kernel, the stall limit and staging pages. -/

namespace Sys2Proof.Machine

/-! ### A job starts -/

/-- Restarts allowed (R157). -/
def retriesOf (s : State) (lane r : Nat) : Nat := if r = 0xFF then (match s.lane lane with | some l => l.retry | none => 0) else r

/-- A job that has just started: its first kernel is ready (R292). -/
def newJob (s : State) (p : Pkt) (kind : JobKind) (nKernel retries : Nat) : Job where
  q := p.q
  idx := p.idx
  inst := p.inst
  lane := p.lane
  kind := kind
  phase := .ready
  kernel := 0
  nKernel := nKernel
  retries := retriesOf s p.lane retries
  used := 0
  restarts := 0
  attempt := 0
  stall := 0
  progressAt := s.now
  kernelAt := s.now
  readyAt := s.now
  started := false
  bind := []
  units := []
  image := []
  ckpt := []
  ckptBad := []
  ckptPages := 0
  staging := []
  waitPage := none
  sides := []
  sidesDone := 0
  pubs := []
  copied := false
  endedAt := 0
  stats := []
  energy := 0
  kv := []
  owns := []
  kvSeen := []
  kvBase := []
  pos := 0
  epoch := 0
  bound := 0
  empties := 0
  status := 0
  gfx := GfxState.init
  drew := false
  binned := false
  binFill := 0
  gfxEnd := false
  frags := []
  fresh := false

/-- A job's packet waits for the job. -/
def startJob (s : State) (p : Pkt) (j : Job) : State :=
  { s.setPkt { p with phase := .waiting } with jobs := s.jobs ++ [j] }

/-- A JOB_RUN starts (R146, R156). -/
def startRun (s : State) (p : Pkt) : State :=
  match readImage s p, readSides s p with
  | (_, .ok m), (_, .ok sides) =>
    startJob s p { newJob s p .run (imgNKernel m) (p.u 0xA 1) with image := m, sides := sides }
  | _, _ => s

/-- JOB_RUN (R146, R156). -/
def execJobRun (q idx : Nat) (s : State) : Res := carryDma s q idx 0x1000 jobRunPre startRun

/-! ### Resources (R291, R296, R361, R384) -/

/-- What the next kernel of a job declares: 0 tiles, 1 an attention pipeline, 2 a Sorrel engine, 3 the graphics core. -/
def needKind (j : Job) : Nat :=
  match j.kind with
  | .run => if leAt (kernelDesc j j.kernel) 0 1 = 0 then 0 else 1
  | .search => 2
  | .build => 2
  | .gfx => 3

/-- The shared units of a kind, and those of them that are free. -/
def kindUnits (k : Nat) : List Nat :=
  match k with
  | 1 => [0, 1]
  | 2 => [2, 3]
  | 3 => [4]
  | _ => []

def freeUnits (s : State) (k : Nat) : List Nat := (kindUnits k).filter fun u => s.jobs.all fun j => decide (u ∉ j.units)

/-- A logical tile holds a resident region of a job between kernels (R312): from the end of first_kernel on. -/
def residentTile (j : Job) (i : Nat) : Bool :=
  (List.range (imgNResident j.image)).any fun r =>
    let d := imgResident j.image r
    decide (leAt d 0 1 = i ∧ leAt d 0xC 2 < j.kernel ∧
      (j.kernel < leAt d 0xE 2 ∨ (j.kernel = leAt d 0xE 2 ∧ (j.phase = .ready ∨ j.phase = .paused))))

/-- A physical tile is protected by another unfinished job (R296). -/
def residentHeld (s : State) (q idx t : Nat) : Bool :=
  s.jobs.any fun j => !sameJob q idx j && decide (j.kind = .run) &&
    (List.range j.bind.length).any fun i => decide (j.bind.getD i 32 = t) && residentTile j i

/-- A tile is free for a kernel of a job. -/
def tileFree (s : State) (j : Job) (t : Nat) : Bool :=
  (tilePair s j.lane t).all fun k => (s.tile k).job.isNone && !residentHeld s j.q j.idx k

/-- The binding an attempt uses: its own, or, at its first dispatch, the free tiles of the lane in rising order and then
the others (R314). -/
def bindOf (s : State) (j : Job) : List Nat :=
  if !j.bind.isEmpty then j.bind
  else match s.lane j.lane with
    | none => []
    | some l =>
      let us := laneUnits l
      ((us.filter (tileFree s j)) ++ us.filter fun t => !tileFree s j t).take (imgMaxTiles j.image)

/-- The checkpoint copies the first attempt needs fit in the lane's area (R543). -/
def ckptPagesOf (s : State) (j : Job) : Nat := match s.pkt j.q j.idx with
  | some p => if j.kind = .run then (((jrBufs p).filter inPlace).map fun b => (b.2.1 + 4095) / 4096).foldl (· + ·) 0 else 0
  | none => 0

def ckptReady (s : State) (j : Job) : Bool :=
  decide (j.attempt ≠ 0 ∨ j.started) || decide (ckptHeld s j.lane j.q j.idx + ckptPagesOf s j ≤ ckptRoom s j.lane)

/-- The next kernel of a job fits the free resources. -/
def fits (s : State) (j : Job) : Bool :=
  ckptReady s j &&
  (if needKind j = 0 then ((bindOf s j).take (leAt (kernelDesc j j.kernel) 1 1)).all (tileFree s j)
   else !(freeUnits s (needKind j)).isEmpty)

/-! ### The order of R293 -/

def jobPkt (s : State) (j : Job) : Pkt := (s.pkt j.q j.idx).getD
  ⟨j.q, j.idx, 0, 0, 0, 0, j.inst, j.lane, false, 0, 0, [], 0, 0, .ended, none, 0, none⟩

/-- The key of a kernel: class, deadline or the lane's turn, consumption, queue, index. -/
def orderKey (s : State) (j : Job) : List Nat :=
  let p := jobPkt s j
  let cls := if p.lc then (if p.deadline ≠ 0 then 0 else 1) else 2
  let mid := if cls = 0 then p.deadline
    else if cls = 2 ∧ needKind j ≠ 0 then (j.lane + 7 - s.rrLane) % 8 else 0
  [cls, mid, p.at_, j.q, j.idx]

/-- Lexicographic order of keys. -/
def keyLt : List Nat → List Nat → Bool
  | a :: as, b :: bs => decide (a < b) || (decide (a = b) && keyLt as bs)
  | _, _ => false

/-- No JOB_GFX on the context of a graphics job that was consumed before it is still in flight (R417). -/
def ctxTurn (s : State) (j : Job) : Bool :=
  s.pkts.all fun p => decide (p.opcode ≠ 0x1002 ∨ p.u 0xC 1 ≠ jobCtx s j ∨ p.phase = .ended) || sameJob p.q p.idx j ||
    keyLt [(jobPkt s j).at_, j.q, j.idx] [p.at_, p.q, p.idx]

/-- Kernels wait for the earlier jobs of their context (R417), for the batches of older epochs (R404), or at their boundary
(R188, R191, R474). -/
def mayDispatch (s : State) (j : Job) : Bool :=
  let i := s.inst j.inst
  decide (j.phase = .ready) && !s.testHold && decide (instState s j.inst ≠ 2 ∧ instState s j.inst ≠ 3) &&
  (decide (i.busy = 0) || (decide (i.busy = 1) && j.started)) &&
  (match j.kind with
   | .gfx => ctxTurn s j
   | .build => s.jobs.all fun k => decide (k.kind ≠ .search) || decide ((jobPkt s k).u 0 2 ≠ (jobPkt s j).u 0 2) ||
      (match s.idx ((jobPkt s j).u 0 2) with | some x => decide (x.oldest ≤ k.epoch) | none => true)
   | _ => true)

/-- The tiles the next kernel of a job takes. -/
def nextTiles (s : State) (j : Job) : List Nat := (bindOf s j).take (leAt (kernelDesc j j.kernel) 1 1)

/-- The next kernels of two jobs need the same resources: units of one kind, or tiles of one lane, which are particular ones
once an attempt's binding is fixed (R314). -/
def needShared (s : State) (k j : Job) : Bool :=
  decide (needKind k = needKind j) &&
  (decide (needKind k ≠ 0) ||
    (decide (k.lane = j.lane) && (k.bind.isEmpty || (nextTiles s k).any fun t => decide (t ∈ nextTiles s j))))

/-- A latency-critical kernel that has waited 100,000 ticks keeps best-effort kernels off what it needs (R295). -/
def heldBack (s : State) (j : Job) : Bool :=
  !(jobPkt s j).lc && s.jobs.any fun k => (jobPkt s k).lc && mayDispatch s k && !fits s k &&
    decide (k.readyAt + 100000 ≤ s.now) && needShared s k j

/-- The kernel Tsuquel dispatches next (R293, R295). -/
def nextKernel (s : State) : Option Job :=
  (s.jobs.filter fun j => mayDispatch s j && fits s j && !heldBack s j).foldl (fun b j => match b with
    | none => some j
    | some x => if keyLt (orderKey s j) (orderKey s x) then some j else some x) none

/-! ### Dispatch -/

/-- Make the checkpoint copies of the in-place buffers (R543); a translation fault there ends the job (R130). -/
def takeCkpt (s : State) (j : Job) : List (Nat × Nat × Nat) → List (Nat × Nat × List Byte) →
    State × Except Nat (List (Nat × Nat × List Byte))
  | [], acc => (s, .ok acc)
  | b :: bs, acc =>
    match xlateAll (jobWho j 0x70 0x1000 0) false (pageSegs b.1 b.2.1) s with
    | (s1, .ok ls) => takeCkpt s1 j bs (acc ++ (landPieces ls).map fun p => (p.pa, p.slot, rdMem s1 p.pa p.len p.slot))
    | (s1, .error (.xlat va _ _)) => (s1, .error va)
    | (s1, .error (.poison pa)) => (s1, .error pa)

/-- Registers at the start of a tile kernel (R315). -/
def kernelSregs (j : Job) (i : Nat) : List (Nat × Nat) :=
  let d := kernelDesc j j.kernel
  let args := (List.range (leAt d 0xA 1)).map fun k => (8 + k, leAt j.image (imgArgsOff j.image + leAt d 0xC 4 + 8 * k) 8)
  ([(1, i), (2, leAt d 1 1), (3, j.kernel), (4, j.attempt)] ++ args).foldl
    (fun (t : List (Nat × Nat)) (e : Nat × Nat) => tabPut (fun _ => 0) t e.1 e.2) []

/-- Place logical tile `i` on a physical tile (R309, R315): SRAM last used by another instance is zeroed first. -/
def placeTile (j : Job) (checker : Bool) (i : Nat) (s : State) (t : Nat) : State :=
  let r := s.tile t
  let d := kernelDesc j j.kernel
  let s1 := match r.lastInst with
    | some x => if x = j.inst then s else zeroFill s (tileBase t) 0x400000
    | none => s
  let code := slice j.image (imgCodeOff j.image + 32 * leAt d 4 4) (32 * leAt d 8 2)
  let s2 := s1.setTile t { TileRec.init with
    job := some (j.q, j.idx), lastInst := some j.inst, code := code, sregs := kernelSregs j i }
  ((((s2.setF (TILE_STATE.busy t) 1).setF (TILE_STATE.lane t) j.lane).setF (TILE_STATE.instance t) j.inst).setF
    (TILE_STATE.logical t) i).setF (TILE_STATE.checker t) (b2n checker)

/-- Place a tile kernel. -/
def placeTiles (s : State) (j : Job) (bind : List Nat) : State :=
  (List.range (leAt (kernelDesc j j.kernel) 1 1)).foldl (fun u i =>
    let t := bind.getD i 0
    let u1 := placeTile j false i u t
    if lanePaired u j.lane then placeTile j true i u1 (t + 1) else u1) s

/-- Take a shared unit for a job. -/
def holdUnit (j : Job) (ctx mode : Nat) (s : State) (u : Nat) : State :=
  match u with
  | 0 => ((s.setF (ATT_STATE.busy 0) 1).setF (ATT_STATE.lane 0) j.lane).setF (ATT_STATE.instance 0) j.inst
  | 1 => ((s.setF (ATT_STATE.busy 1) 1).setF (ATT_STATE.lane 1) j.lane).setF (ATT_STATE.instance 1) j.inst
  | 2 => ((s.setF (SRCH_STATE.busy 0) 1).setF (SRCH_STATE.lane 0) j.lane).setF (SRCH_STATE.instance 0) j.inst
  | 3 => ((s.setF (SRCH_STATE.busy 1) 1).setF (SRCH_STATE.lane 1) j.lane).setF (SRCH_STATE.instance 1) j.inst
  | _ => ((((s.setF GFX_STATE.busy 1).setF GFX_STATE.mode mode).setF GFX_STATE.lane j.lane).setF GFX_STATE.instance
      j.inst).setF GFX_STATE.ctx ctx

/-- The stall_ticks of a job's packet (R157, R160); an IDX_BUILD has none. -/
def stallTicks (p : Pkt) : JobKind → Nat
  | .run => p.u 0xC 4
  | .search => p.u 0x24 4
  | .gfx => p.u 0x10 4
  | .build => 0

/-- The stall limit of an attempt (R187, R299), taken as its first kernel is dispatched. -/
def stallOf (s : State) (j : Job) : Nat :=
  if j.kernel ≠ 0 then j.stall
  else
    let n := stallTicks (jobPkt s j) j.kind
    if n = 0 then s.getF (PACE_STALL.ticks j.lane) else n

/-- Dispatch a kernel: it binds, takes its resources and runs. The dispatch is a demand on its engine's domain (R55). -/
def dispatch (s : State) (j : Job) (ckpt : List (Nat × Nat × List Byte)) : State :=
  let k := needKind j
  let bind := if j.kind = .run then bindOf s j else []
  let units := if k = 0 then [] else freeUnits s k
  let pages := if j.started then j.ckptPages else ckptPagesOf s j
  let j1 := { j with
    phase := .running, started := true, progressAt := s.now, kernelAt := s.now, stall := stallOf s j, bind := bind, units := units,
    ckpt := ckpt, ckptBad := if j.started then j.ckptBad else ckptPoison s ckpt, ckptPages := pages,
    kvBase := j.kv, kvSeen := if k = 1 then seqLens s j else [], pos := if k = 1 then 0 else j.pos,
    gfx := if j.kind = .gfx ∧ !j.started then (s.gfxCtx (jobCtx s j)).st else j.gfx }
  let s1 := (demand s (4 + k)).setJob j1
  let s2 := if k = 0 then placeTiles s1 j1 bind
    else units.foldl (holdUnit j1 (jobCtx s j) ((jobPkt s j).u 0xD 1)) s1
  let s3 := if k ≠ 0 ∧ !(jobPkt s j).lc then { s2 with rrLane := j.lane } else s2
  updLag s3

/-- The choice of R293 is carried out: one kernel is dispatched, if any can be. -/
def execKernelDispatch (s : State) : Res :=
  .next (if accepting s then
    match nextKernel s with
    | none => s
    | some j =>
      if j.started then dispatch s j j.ckpt
      else
        let bufs := if j.kind = .run then (jrBufs (jobPkt s j)).filter inPlace else []
        match takeCkpt s j bufs [] with
        | (s1, .ok c) => dispatch s1 j c
        | (s1, .error va) => endAccess s1 j va
  else s)

/-! ### The stall limit and staging pages -/

/-- The running kernel makes no progress: a Sorrel engine steps all the time unless a pacer holds its accesses (R300); every
other kernel shows its progress in its own commands. -/
def standsStill (s : State) (j : Job) : Bool :=
  match j.kind with
  | .search => paceHolds s (.job j.q j.idx)
  | .build => paceHolds s (.job j.q j.idx)
  | _ => true

/-- The stall counter has passed its limit (R300 to R302): it runs while a kernel is dispatched, and not while a master waits for
a staging page (R544). A progress event of the expiry's own tick wins, so the expiry acts once that tick is over. -/
def execStallLimitExpiry (q idx : Nat) (s : State) : Res :=
  .next (match s.job q idx with
    | none => s
    | some j =>
      if accepting s && decide (j.phase = .running) && j.waitPage.isNone && decide (j.progressAt + j.stall < s.now) &&
          decide (instState s j.inst ≠ 3) && standsStill s j then
        restartJob (s.addSat (PACE_LATE.stalls j.lane) 1) j 0x41 0
      else s)

/-- Space has become free for a waiting master (R544), or can never become free. -/
def execStagingPageGrant (q idx : Nat) (s : State) : Res :=
  .next (match s.job q idx with
    | none => s
    | some j =>
      match j.waitPage with
      | none => s
      | some va =>
        if !accepting s then s
        else if ckptFits s j 1 then
          s.setJob { j with waitPage := none, progressAt := j.progressAt + (s.now - j.readyAt) }
        else if ckptHeld s j.lane j.q j.idx = 0 then endJob s j 0x40 (faultDetail j) va
        else s)

end Sys2Proof.Machine
end

