-- ==== Sys2Proof/Machine/Attention.lean ====
section
/-! DEFINITION. Attention steps (spec/11): ATTEND, APPEND and SCATTER on the step list of a kind 1 kernel, KV spaces, the
numerics of R380 and R381, and attention faults (R382). -/

namespace Sys2Proof.Machine

/-- Why a step stops: an attention fault of a kind at a batch or list entry, or a poisoned line. -/
inductive AErr where
  | fault (kind entry : Nat)
  | poison (pa : Nat)
deriving DecidableEq, Repr

/-- The kernel's first pipeline, where its faults are recorded. -/
def firstPipe (j : Job) : Nat := j.units.headD 0

/-- The pipeline that takes an entry. Which of the two it is when the kernel holds both is left open (R361): a free
value. -/
def entryPipe (s : State) (j : Job) : Nat × State :=
  if j.units.length = 2 then
    let f := s.fresh
    (f.1 % 2, f.2)
  else (firstPipe j, s)

/-- Where a job's attention kernel is, at an entry of its step. -/
def claimHere (s : State) (j : Job) (seq item : Nat) : Claim := ⟨seq, s.now, firstPipe j, j.kernel, j.pos, item⟩

/-- An attention fault at a place (R382). -/
def attnFaultAt (s : State) (j : Job) (c : Claim) (kind : Nat) : State :=
  let s1 := ((s.setF (ATT_FAULT.kind c.pipe) kind).setF (ATT_FAULT.step c.pipe) c.step).setF (ATT_FAULT.entry c.pipe) c.item
  let s2 := s1.addSat (ATT_FAULTS.n c.pipe) 1
  let s3 := if kind = 4 then s2.addSat ATT_CONFLICTS.n 1 else s2
  restartJob s3 j 0x40 ((jobPkt s j).u 0 8 + leAt (kernelDesc j c.kernel) 0x14 4 + 64 + 32 * c.step)

/-- An attention fault of the step that runs (R382). -/
def attnFault (s : State) (j : Job) (kind entry : Nat) : State := attnFaultAt s j (claimHere s j 0 entry) kind

/-- The job whose attention kernel is at a step of an operation, with the step-list header and the step; a reserved
operation is a fault of kind 0x1 whichever command meets it (R370). -/
def attnAt (s : State) (q idx op : Nat) : Option (Job × List Byte × List Byte × Bool) :=
  match s.job q idx with
  | none => none
  | some j =>
    let d := kernelDesc j j.kernel
    let h := attnHead j.image d
    let st := attnStep j.image d j.pos
    let o := leAt st 0 1
    if accepting s && !gated s 5 && decide (j.kind = .run ∧ j.phase = .running) && decide (leAt d 0 1 = 1) &&
        decide (j.pos < leAt h 0 2) && decide (o = op ∨ o = 0 ∨ 3 < o) then some (j, h, st, decide (o = op)) else none

/-- A step's accesses to the Bay fall into class 5 of its job's lane (R279). -/
def attnPaced (q idx op : Nat) (s : State) (f : State → State) : State :=
  match attnAt s q idx op with
  | none => s
  | some (j, _) => paceAct (.job j.q j.idx) f s

/-- The header's numbers. -/
def hdDim (h : List Byte) : Nat := leAt h 2 2
@[inherit_doc hdDim] def hdKv (h : List Byte) : Nat := leAt h 4 1
@[inherit_doc hdDim] def hdQ (h : List Byte) : Nat := leAt h 5 1
@[inherit_doc hdDim] def hdOut (h : List Byte) : Nat := leAt h 6 1
@[inherit_doc hdDim] def hdNSeq (h : List Byte) : Nat := leAt h 0xC 2
/-- Bytes of an output element, and a row pitch in tile SRAM (R370). -/
def outWidth (e : Nat) : Nat := if e = 0 then 4 else 2
def rowPitch (n : Nat) : Nat := (n + 63) / 64 * 64

/-- The physical address of an offset in the lane's Bay range. -/
def bayPa (s : State) (j : Job) (off : Nat) : Nat := match s.lane j.lane with
  | some l => 0x40000000 + 0x100000 * l.bayBase + off
  | none => 0x40000000 + off

/-- An extent of a logical tile's SRAM: its primary's tile, or a fault of kind 0x5. -/
def tileSpan (j : Job) (k off n entry : Nat) : Except AErr Nat :=
  if k < imgMaxTiles j.image ∧ k < j.bind.length ∧ off + n ≤ 0x400000 then .ok (j.bind.getD k 0) else .error (.fault 5 entry)

/-- Charge an access of the pipeline (R362). -/
def attnTouch (s : State) (j : Job) (pa n : Nat) (wr : Bool) : State :=
  jobTouch s j { jobWho j (0x30 + firstPipe j) (jobPkt s j).opcode (jobPkt s j).seq with cls := 5 } wr ⟨pa, 0, n, true⟩

/-- What part of a step gives, after its accesses. -/
abbrev ARes (α : Type) := State × Except AErr α

/-- Go on with the value of a part, unless it stopped. -/
def ARes.andThen {α β : Type} (r : ARes α) (f : α → State → ARes β) : ARes β :=
  match r with
  | (s, .ok a) => f a s
  | (s, .error e) => (s, .error e)

/-- Read tile SRAM or Bay SRAM for a step: the access is charged, and poison ends it (R277, R362). -/
def attnRead (j : Job) (pa n : Nat) (s : State) : ARes (List Byte) :=
  let s1 := attnTouch s j pa n false
  match poisonIn s1 pa n with
  | some l => (s1, .error (.poison (64 * l)))
  | none => (s1, .ok (rdMem s1 pa n 0))

/-- Write tile SRAM for a step. -/
def attnStore (s : State) (j : Job) (t off : Nat) (bs : List Byte) : State :=
  stLocal (attnTouch s j (tileBase t + off) bs.length true) j.lane t off bs

/-- A KV element's value (R365). -/
def kvNum (e : Nat) (row : List Byte) (i : Nat) : Num := actNum e row i

/-! ### Sequences and pages (R363 to R366) -/

def seqEntry (s : State) (j : Job) (h : List Byte) (k : Nat) : Nat := bayPa s j (leAt h 8 4 + 16 * k)

/-- A sequence entry's bytes keep their rules; an all-zero entry is empty. -/
def seqOk (e : List Byte) : Bool :=
  decide (leAt e 0 4 % 8 = 0) && decide (1 ≤ leAt e 4 2 ∧ leAt e 4 2 ≤ 2048) && decide (leAt e 6 2 = 0 ∧ leAt e 0xC 4 = 0) &&
  decide (leAt e 8 4 ≤ min 65536 (32 * leAt e 4 2))

/-- The visible length of a sequence for the running kernel (R375), and the part of it that is committed. -/
def visLen (s : State) (j : Job) (h : List Byte) (k : Nat) : Nat × Nat :=
  match j.kvBase.find? fun r => decide (r.entry = seqEntry s j h k) with
  | some r => (r.len, r.start)
  | none => (j.kvSeen.getD k 0, j.kvSeen.getD k 0)

/-- The page-table entry of a position: its pool page, or a fault of kind 0x2. -/
def pageOf (j : Job) (h e : List Byte) (pos need entry : Nat) (s : State) : ARes Nat :=
  let i := pos / 32
  let off := leAt e 0 4 + 8 * i
  match s.lane j.lane with
  | none => (s, .error (.fault 2 entry))
  | some l =>
    if leAt e 4 2 ≤ i ∨ 0x100000 * l.bayLen < off + 8 then (s, .error (.fault 2 entry))
    else (attnRead j (bayPa s j off) 8 s).andThen fun bs s1 =>
      let v := leNat bs
      let cnt := bits v 1 6
      if !bitB v 0 || decide (32 < cnt) || bitB v 7 || decide (bits v 32 32 ≠ 0) || decide (leAt h 0x14 4 ≤ bits v 8 24) ||
          decide (cnt < need) then (s1, .error (.fault 2 entry)) else (s1, .ok (bits v 8 24))

/-- The Bay address of a token's key row or value row (R365). -/
def kvRow (s : State) (j : Job) (h : List Byte) (page pos : Nat) (value : Bool) : Nat :=
  let n := hdDim h * kvWidth (hdKv h)
  bayPa s j (leAt h 0x10 4 + page * kvPage h + (pos % 32 + if value then 32 else 0) * n)

/-! ### Numerics (R380, R381) -/

/-- e(x) of R380; VEXP2 of 0 is 1. -/
def expE (x : Num) : Nat :=
  let y := toF32 (x.mul (f32 0x3FB8AA3B))
  if (f32 y).isZero then 0x3F800000 else exp2Num 0x10 y (f32 y)

/-- atanh of n ÷ d × 2^300 for n < d, by its series. -/
def atanhFix (n d : Nat) : Nat :=
  let z := n * 2 ^ 300 / d
  let z2 := z * z / 2 ^ 300
  ((List.range 160).foldl (fun (a : Nat × Nat) k => (a.1 + a.2 / (2 * k + 1), a.2 * z2 / 2 ^ 300)) (0, z)).1

/-- The natural logarithm of a positive FP32 value, within 1 ulp; ln 1 is 0. -/
def lnF32 (x : Nat) : Nat :=
  match f32 x with
  | .fin false m e =>
    if m = 0 then Config.openLane 0x103 x 0 % 2 ^ 32
    else
      let b := Nat.log2 m
      if m = 2 ^ b ∧ e + b = 0 then 0
      else
        let frac := 2 * atanhFix (m - 2 ^ b) (m + 2 ^ b)
        let v : Int := (e + b) * ((ln2Fix / 2 ^ 20 : Nat) : Int) + (frac : Int)
        ulpResult 0x103 x (decide (v < 0)) v.natAbs (-300) false
  | _ => Config.openLane 0x103 x 0 % 2 ^ 32

/-- The positions a row sees (R372). -/
def keysOf (mask window L p : Nat) : List Nat :=
  (List.range L).filter fun k => match mask with
    | 0 => true
    | 1 => decide (k ≤ p)
    | _ => decide (p < k + window ∧ k ≤ p)

/-- The running maximum, sum and output lanes of a row. -/
structure OnePass where
  m : Option Nat
  l : Nat
  o : List Nat
deriving DecidableEq, Repr

/-- One key block (R380 step 3): scores, and value rows. -/
def blockStep (d : Nat) (a : OnePass) (ks : List (Nat × List Num)) : OnePass :=
  match ks with
  | [] => a
  | (s0, _) :: _ =>
    let mx (x y : Nat) : Nat := match (f32 x).cmp (f32 y) with
      | some c => if c < 0 then y else x
      | none => x
    let m' := (ks.map Prod.fst).foldl mx (match a.m with | some m => m | none => s0)
    let sub (x : Nat) : Num := f32 (toF32 ((f32 x).add (f32 m').neg))
    let al := match a.m with | some m => f32 (expE (sub m)) | none => .fin false 0 0
    let ps := ks.map fun k => (f32 (expE (sub k.1)), k.2)
    ⟨some m', toF32 (Num.sum ((al.mul (f32 a.l)) :: ps.map Prod.fst)),
     (List.range d).map fun i =>
       toF32 (Num.sum ((al.mul (f32 (a.o.getD i 0))) :: ps.map fun p => p.1.mul (p.2.getD i .nan)))⟩

/-- Quotient of two FP32 values, correctly rounded. -/
def quotF32 (a b : Nat) : Nat :=
  match f32 a, f32 b with
  | .fin na ma ea, .fin nb mb eb => if mb = 0 then nanBits fp32 else divF32 (na != nb) ma ea mb eb
  | .inf n, .fin nb _ _ => signBits fp32 (n != nb) + infBits fp32
  | .fin na _ _, .inf n => signBits fp32 (na != n)
  | _, _ => nanBits fp32

/-- Conversion to out_elem (R355). -/
def toOut (e : Nat) (x : Num) : List Byte :=
  match e with
  | 0 => leBytes 4 (cvtLane 0xB false x).1
  | 1 => leBytes 2 (cvtLane 3 false x).1
  | _ => leBytes 2 (cvtLane 4 false x).1

/-- The FP32 output of a special non-finite lane keeps IEEE 754's value in FP32. -/
def toOutF (e x : Nat) : List Byte := if e = 0 then leBytes 4 x else toOut e (f32 x)

/-- The canonical NaN of out_elem. -/
def outNan (e : Nat) : List Byte :=
  match e with
  | 0 => leBytes 4 (nanBits fp32)
  | 1 => leBytes 2 (nanBits fp16)
  | _ => leBytes 2 (nanBits bf16)

/-- A row's output, log-sum-exp and flags, from its keys in rising order: position, score, value row. -/
def rowResult (h : List Byte) (ks : List (Nat × Nat × List Num)) : List Byte × Nat × Nat :=
  let d := hdDim h
  let e := hdOut h
  match ks with
  | [] => (List.replicate (d * outWidth e) 0, 0xFF800000, 1)
  | _ =>
    if ks.any fun k => !finiteF32 k.2.1 then ((List.range d).flatMap fun _ => outNan e, nanBits fp32, 2)
    else match ks with
      | [k] => ((List.range d).flatMap fun i => toOut e (k.2.2.getD i .nan), k.2.1, 0)
      | _ =>
        let nb := ((ks.map fun k => k.1 / 64).foldl max 0) + 1
        let r := (List.range nb).foldl (fun a b =>
          blockStep d a ((ks.filter fun k => decide (k.1 / 64 = b)).map fun k => (k.2.1, k.2.2))) ⟨none, 0, List.replicate d 0⟩
        ((List.range d).flatMap fun i => toOutF e (quotF32 (r.o.getD i 0) r.l),
         toF32 ((f32 (r.m.getD 0)).add (f32 (lnF32 r.l))), 0)

/-! ### ATTEND -/

/-- A batch entry keeps its rules (R371). -/
def entryOk (h b : List Byte) : Bool :=
  decide (leAt b 0 2 < hdNSeq h) && decide (1 ≤ leAt b 2 2 ∧ leAt b 2 2 ≤ 4096) && decide (leNat (slice b 0xA 6) = 0) &&
  decide (leAt b 0x10 4 % 64 = 0 ∧ leAt b 0x14 4 % 64 = 0 ∧ leAt b 0x18 4 % 8 = 0 ∧ leAt b 0x1C 4 = 0)

/-- The bucket of a key span (R378). -/
def bucketOf (n : Nat) : Nat :=
  if n ≤ 512 then 0 else ((List.range 8).find? fun b => decide (n ≤ 2 ^ (9 + b))).getD 7

/-- The step's mask, window, and an entry's last row position. -/
def stepKeys (st : List Byte) (L p : Nat) : List Nat := keysOf (leAt st 1 1) (leAt st 2 2) L p

/-- Key and value rows of the positions an entry's rows see; the page-table entry of a page is read once. -/
def loadKeys (j : Job) (h e : List Byte) (c entry : Nat) : Option (Nat × Nat) → List Nat → State →
    ARes (List (Nat × List Num × List Num))
  | _, [], u => (u, .ok [])
  | known, k :: ks, u =>
    let n := hdDim h * kvWidth (hdKv h)
    let page : ARes Nat := match known.filter fun x => decide (x.1 = k / 32) with
      | some x => (u, .ok x.2)
      | none => pageOf j h e k (min 32 (c - 32 * (k / 32))) entry u
    page.andThen fun pg u1 =>
    (attnRead j (kvRow u1 j h pg k false) n u1).andThen fun kb u2 =>
    (attnRead j (kvRow u2 j h pg k true) n u2).andThen fun vb u3 =>
    (loadKeys j h e c entry (some (k / 32, pg)) ks u3).andThen fun t u4 =>
      (u4, .ok ((k, (List.range (hdDim h)).map (kvNum (hdKv h) kb), (List.range (hdDim h)).map (kvNum (hdKv h) vb)) :: t))

/-- A score (R380 step 2). -/
def scoreOf (h : List Byte) (q k : List Num) : Nat :=
  toF32 ((f32 (leAt h 0x18 4)).mul (Num.sum (List.zipWith Num.mul q k)))

/-- Pipeline steps of an entry (R379). -/
def entrySteps (st : List Byte) (nq pos L : Nat) : Nat :=
  ((List.range ((nq + 15) / 16)).map fun g =>
    let rows := (List.range 16).filterMap fun i => if 16 * g + i < nq then some (pos + 16 * g + i) else none
    (((rows.flatMap (stepKeys st L)).map fun k => k / 64).eraseDups).length).foldl (· + ·) 0

/-- The rows of an entry: output, log-sum-exp and flags of each. -/
def entryRows (h st qb : List Byte) (nq pos L : Nat) (kv : List (Nat × List Num × List Num)) : List (List Byte × Nat × Nat) :=
  let qn := hdDim h * kvWidth (hdQ h)
  (List.range nq).map fun i =>
    let qr := (List.range (hdDim h)).map fun x => kvNum (hdQ h) (slice qb (i * rowPitch qn) qn) x
    let ks := stepKeys st L (pos + i)
    rowResult h ((kv.filter fun k => decide (k.1 ∈ ks)).map fun k => (k.1, scoreOf h qr k.2.1, k.2.2))

/-- The rows of an entry are written and counted. -/
def entryLands (s : State) (j : Job) (h st b : List Byte) (ot L : Nat) (rows : List (List Byte × Nat × Nat)) : State :=
  let on := hdDim h * outWidth (hdOut h)
  let s1 := (rows.zipIdx).foldl (fun u r =>
    attnStore (attnStore u j ot (leAt b 0x14 4 + r.2 * rowPitch on) r.1.1) j ot (leAt b 0x18 4 + 8 * r.2)
      (leBytes 4 r.1.2.1 ++ leBytes 4 r.1.2.2)) s
  let pp := entryPipe s1 j
  let n (f : Nat) : Nat := (rows.filter fun r => decide (r.2.2 = f)).length
  ((pp.2.addSat (ATT_EMPTY.n pp.1) (n 1)).addSat (ATT_NONFIN.n pp.1) (n 2)).addWrap (ATT_STEPS.n pp.1)
    (entrySteps st (leAt b 2 2) (leAt b 4 4) L)

/-- One batch entry (R371 to R381). -/
def attendEntry (s : State) (j : Job) (h st : List Byte) (entry : Nat) (b : List Byte) : ARes Unit :=
  let nq := leAt b 2 2
  let pos := leAt b 4 4
  let qn := hdDim h * kvWidth (hdQ h)
  let on := hdDim h * outWidth (hdOut h)
  let seq := leAt b 0 2
  if !entryOk h b then (s, .error (.fault 1 entry))
  else match tileSpan j (leAt b 8 1) (leAt b 0x10 4) (nq * rowPitch qn) entry,
      tileSpan j (leAt b 9 1) (leAt b 0x14 4) (nq * rowPitch on) entry,
      tileSpan j (leAt b 9 1) (leAt b 0x18 4) (nq * 8) entry with
    | .ok qt, .ok ot, .ok _ =>
      let L := visLen s j h seq
      (attnRead j (seqEntry s j h seq) 16 s).andThen fun e s1 =>
      if decide (L.1 ≠ 0) && !seqOk e then (s1, .error (.fault 2 entry))
      else (attnRead j (tileBase qt + leAt b 0x10 4) (nq * rowPitch qn) s1).andThen fun qb s2 =>
        let seen := ((List.range nq).flatMap fun i => stepKeys st L.1 (pos + i)).mergeSort.eraseDups
        (loadKeys j h e L.2 entry none seen s2).andThen fun kv s3 =>
          (entryLands s3 j h st b ot L.1 (entryRows h st qb nq pos L.1 kv), .ok ())
    | .error x, _, _ => (s, .error x)
    | _, .error x, _ => (s, .error x)
    | _, _, .error x => (s, .error x)

/-- The entries of a batch in the order of their buckets (R378), each with its index. -/
def bucketOrder (s : State) (j : Job) (h st : List Byte) (bs : List (List Byte)) : List (Nat × Nat × List Byte) :=
  let es := bs.zipIdx.map fun e =>
    let b := e.1
    (bucketOf (stepKeys st (visLen s j h (leAt b 0 2)).1 (leAt b 4 4 + leAt b 2 2 - 1)).length, e.2, b)
  (List.range 8).reverse.flatMap fun k => es.filter fun e => decide (e.1 = k)

/-- Entries in order. -/
def attendAll (j : Job) (h st : List Byte) : List (Nat × Nat × List Byte) → State → ARes Unit
  | [], s => (s, .ok ())
  | e :: es, s => (attendEntry s j h st e.2.1 e.2.2).andThen fun _ s1 => attendAll j h st es s1

/-- The batch is sorted at the start of its step, and each entry counted in its bucket (R378). -/
def attendBatch (j : Job) (h st bs : List Byte) (s : State) : ARes Unit :=
  let es := bucketOrder s j h st (records 32 bs (leAt st 4 2))
  attendAll j h st es (es.foldl (fun u e => u.addWrap (ATT_BUCKET.n e.1) 1) s)

/-- A step ends: the next is due, or the step stopped on an error. -/
def stepDone (s : State) (j : Job) : Except AErr Unit → State
  | .error (.fault k e) => match s.job j.q j.idx with | some x => attnFault s x k e | none => s
  | .error (.poison pa) => match s.job j.q j.idx with | some x => jobPoison s x pa | none => s
  | .ok _ => match s.job j.q j.idx with
    | some x => let f := s.fresh
      progress ((f.2.setJob { x with pos := x.pos + 1 }).addSat (ATT_WAIT.n (firstPipe j)) f.1) j.q j.idx
    | none => s

/-- The step of an ATTEND (R370 to R381). -/
def attendStep (q idx : Nat) (s : State) : State :=
  match attnAt s q idx 1 with
  | none => s
  | some (j, h, st, ok) =>
    let n := leAt st 4 2
    if !ok || decide (2 < leAt st 1 1) || (decide (leAt st 1 1 = 2) && decide (leAt st 2 2 = 0)) ||
        decide (n = 0 ∨ 4096 < n) || decide (leAt st 6 2 ≠ 0 ∨ leNat (slice st 9 3) ≠ 0 ∨ leNat (slice st 0x10 16) ≠ 0) ||
        decide (leAt st 0xC 4 % 32 ≠ 0) then attnFault s j 1 0
    else
      let r : ARes Unit := match tileSpan j (leAt st 8 1) (leAt st 0xC 4) (32 * n) 0 with
        | .error x => (s, .error x)
        | .ok t => (attnRead j (tileBase t + leAt st 0xC 4) (32 * n) s).andThen (attendBatch j h st)
      stepDone r.1 j r.2

/-- ATTEND (R370 to R381). -/
def execAttend (q idx : Nat) (s : State) : Res := .next (attnPaced q idx 1 s (attendStep q idx))

/-! ### APPEND and SCATTER (R373, R374, R377) -/

/-- The other job that owns a sequence, with its claim. -/
def ownerOf (s : State) (q idx entry : Nat) : Option (Job × Claim) :=
  s.jobs.findSome? fun j => if sameJob q idx j then none else (j.owns.find? fun o => decide (o.entry = entry)).map fun o => (j, o)

/-- A job takes a sequence that it does not own yet. -/
def takeSeq (s : State) (j : Job) (c : Claim) : State :=
  match s.job j.q j.idx with
  | some x => if x.owns.any fun o => decide (o.entry = c.entry) then s else s.setJob { x with owns := c :: x.owns }
  | none => s

/-- A claim that lost to another of its tick (R377): its append was a fault of kind 0x4, and the job restarts, unless its
commit is sealed. -/
def loseSeq (s : State) (k : Job) (c : Claim) : State :=
  let s1 := s.setJob { k with owns := k.owns.filter fun o => decide (o.entry ≠ c.entry) }
  match s1.job k.q k.idx with
  | some x => if x.phase = .sealed then s1 else attnFaultAt s1 x c 4
  | none => s1

/-- Claim a sequence for a job (R377): a claim of the same tick gives way to the job first in the order of R293. -/
def claim (s : State) (j : Job) (entry item : Nat) : Option State :=
  let c := claimHere s j entry item
  match ownerOf s j.q j.idx entry with
  | none => some (takeSeq s j c)
  | some (k, o) => if o.since = s.now ∧ keyLt (orderKey s j) (orderKey s k) then some (takeSeq (loseSeq s k o) j c) else none

/-- Append one token to a sequence (R374). -/
def appendToken (j : Job) (h : List Byte) (seq item : Nat) (kb vb : List Byte) (s : State) : ARes Unit :=
  let ea := seqEntry s j h seq
  (attnRead j ea 16 s).andThen fun e s0 =>
  match claim s0 j ea item with
  | none => (s0, .error (.fault 4 item))
  | some s1 =>
    match s1.job j.q j.idx with
    | none => (s1, .ok ())
    | some x =>
      let r := (x.kv.find? fun r => decide (r.entry = ea)).getD ⟨ea, leAt e 8 4, leAt e 8 4⟩
      if decide (leNat e ≠ 0) && !seqOk e then (s1, .error (.fault 2 item))
      else if 65536 ≤ r.len ∨ 32 * leAt e 4 2 ≤ r.len then (s1, .error (.fault 3 item))
      else (pageOf j h e r.len 0 item s1).andThen fun pg s2 =>
        let ka := kvRow s2 j h pg r.len false
        let va := kvRow s2 j h pg r.len true
        let s3 := wrMem (wrMem (attnTouch (attnTouch s2 j ka kb.length true) j va vb.length true) ka 0 kb) va 0 vb
        match s3.job j.q j.idx with
        | none => (s3, .ok ())
        | some y =>
          (s3.setJob { y with kv := { r with len := r.len + 1 } :: y.kv.filter fun z => decide (z.entry ≠ ea) }, .ok ())

/-- Tokens in order. -/
def appendAll (j : Job) (h : List Byte) : List (Nat × Nat × List Byte × List Byte) → State → ARes Unit
  | [], s => (s, .ok ())
  | (seq, item, kb, vb) :: ts, s => (appendToken j h seq item kb vb s).andThen fun _ s1 => appendAll j h ts s1

/-- The rows of an APPEND (R373). -/
def appendRows (j : Job) (h st : List Byte) (t : Nat) (s : State) : ARes Unit :=
  let n := leAt st 4 2
  let w := hdDim h * kvWidth (hdKv h)
  (attnRead j (tileBase t + leAt st 0xC 4) (n * rowPitch w) s).andThen fun kb s1 =>
  (attnRead j (tileBase t + leAt st 0x10 4) (n * rowPitch w) s1).andThen fun vb s2 =>
    appendAll j h ((List.range n).map fun i =>
      (leAt st 2 2, 0, slice kb (i * rowPitch w) w, slice vb (i * rowPitch w) w)) s2

/-- The step of an APPEND (R373). -/
def appendStep (q idx : Nat) (s : State) : State :=
  match attnAt s q idx 2 with
  | none => s
  | some (j, h, st, ok) =>
    let n := leAt st 4 2
    let w := hdDim h * kvWidth (hdKv h)
    let ko := leAt st 0xC 4
    let vo := leAt st 0x10 4
    if !ok || decide (hdNSeq h ≤ leAt st 2 2) || decide (n = 0 ∨ 4096 < n) ||
        decide (leAt st 1 1 ≠ 0 ∨ leAt st 6 2 ≠ 0 ∨ leNat (slice st 9 3) ≠ 0 ∨ leNat (slice st 0x14 12) ≠ 0) ||
        decide (ko % 64 ≠ 0 ∨ vo % 64 ≠ 0) then attnFault s j 1 0
    else
      let r : ARes Unit := match tileSpan j (leAt st 8 1) ko (n * rowPitch w) 0, tileSpan j (leAt st 8 1) vo (n * rowPitch w) 0 with
        | .ok t, .ok _ => appendRows j h st t s
        | .error x, _ => (s, .error x)
        | _, .error x => (s, .error x)
      stepDone r.1 j r.2

/-- APPEND (R373). -/
def execAppend (q idx : Nat) (s : State) : Res := .next (attnPaced q idx 2 s (appendStep q idx))

/-- The lines that hold the elements of a scattered row, each once. -/
def rowLines (base stride w d : Nat) : List Nat :=
  ((List.range d).flatMap fun i => (lineSegs (base + i * stride) w).map fun g => g.1).eraseDups

/-- Read some lines, for the elements in them. -/
def readLines (j : Job) : List Nat → State → ARes Unit
  | [], s => (s, .ok ())
  | l :: ls, s => (attnRead j (64 * l) 64 s).andThen fun _ s1 => readLines j ls s1

/-- A row gathered element by element (R373): only the elements are read. -/
def gatherRow (j : Job) (base stride w d : Nat) (s : State) : ARes (List Byte) :=
  (readLines j (rowLines base stride w d) s).andThen fun _ s1 =>
    (s1, .ok ((List.range d).flatMap fun i => rdMem s1 (base + i * stride) w 0))

/-- The tokens of a SCATTER list, in list order; each entry is judged when it is reached. -/
def scatterAll (j : Job) (h : List Byte) (t tile stride : Nat) : List (List Byte × Nat) → State → ARes Unit
  | [], s => (s, .ok ())
  | (e, i) :: es, s =>
    let w := kvWidth (hdKv h)
    let d := hdDim h
    if hdNSeq h ≤ leAt e 0 2 ∨ leAt e 2 2 ≠ 0 ∨ leAt e 0xC 4 ≠ 0 ∨ leAt e 4 4 % w ≠ 0 ∨ leAt e 8 4 % w ≠ 0 then
      (s, .error (.fault 1 i))
    else match tileSpan j tile (leAt e 4 4) ((d - 1) * stride + w) i, tileSpan j tile (leAt e 8 4) ((d - 1) * stride + w) i with
      | .ok _, .ok _ =>
        (gatherRow j (tileBase t + leAt e 4 4) stride w d s).andThen fun kb s1 =>
        (gatherRow j (tileBase t + leAt e 8 4) stride w d s1).andThen fun vb s2 =>
        (appendToken j h (leAt e 0 2) i kb vb s2).andThen fun _ s3 => scatterAll j h t tile stride es s3
      | .error x, _ => (s, .error x)
      | _, .error x => (s, .error x)

/-- The step of a SCATTER (R373). -/
def scatterStep (q idx : Nat) (s : State) : State :=
  match attnAt s q idx 3 with
  | none => s
  | some (j, h, st, ok) =>
    let n := leAt st 4 2
    let stride := leAt st 2 2
    let w := kvWidth (hdKv h)
    if !ok || decide (stride % w ≠ 0 ∨ stride < w ∨ 4096 < stride) || decide (n = 0 ∨ 4096 < n) ||
        decide (leAt st 1 1 ≠ 0 ∨ leAt st 6 2 ≠ 0 ∨ leNat (slice st 9 3) ≠ 0 ∨ leNat (slice st 0x10 16) ≠ 0) ||
        decide (leAt st 0xC 4 % 16 ≠ 0) then attnFault s j 1 0
    else
      let r : ARes Unit := match tileSpan j (leAt st 8 1) (leAt st 0xC 4) (16 * n) 0 with
        | .error x => (s, .error x)
        | .ok t => (attnRead j (tileBase t + leAt st 0xC 4) (16 * n) s).andThen fun bs s1 =>
          scatterAll j h t (leAt st 8 1) stride ((records 16 bs n).zipIdx) s1
      stepDone r.1 j r.2

/-- SCATTER (R373). -/
def execScatter (q idx : Nat) (s : State) : Res := .next (attnPaced q idx 3 s (scatterStep q idx))

/-! ### At the commit (R376) -/

/-- Write the counts of every entry that changed, then len. -/
def commitSeq (s : State) (j : Job) (r : KvRec) : State :=
  let e := rdMem s r.entry 16 0
  let s1 := (List.range (leAt e 4 2)).foldl (fun u i =>
    if r.start / 32 ≤ i ∧ 32 * i < r.len then
      let a := bayPa s j (leAt e 0 4 + 8 * i)
      let v := leNat (rdMem u a 8 0)
      wrMem u a 0 (leBytes 8 (putBits v 1 6 (min 32 (r.len - 32 * i))))
    else u) s
  (wrMem s1 (r.entry + 8) 0 (leBytes 4 r.len)).addWrap ATT_APPENDED.n (r.len - r.start)

end Sys2Proof.Machine
end

