-- ==== Sys2Proof/Machine/Search.lean ====
section
/-! DEFINITION. Sorrel search (spec/12): the index store, distances, staged changes, epochs and walks. -/

namespace Sys2Proof.Machine

/-! ### Accesses that stop at the first error -/

/-- A state with the first error met. -/
structure Io where
  s : State
  err : Option MErr

def Io.rd (io : Io) (w : Who) (va n : Nat) : Io × List Byte :=
  match io.err with
  | some _ => (io, List.replicate n 0)
  | none => match dmaRead io.s w va n with
    | (s1, .ok bs) => (⟨s1, none⟩, bs)
    | (s1, .error e) => (⟨s1, some e⟩, List.replicate n 0)

def Io.wr (io : Io) (w : Who) (va : Nat) (bs : List Byte) : Io :=
  match io.err with
  | some _ => io
  | none => match dmaWrite io.s w va bs with
    | (s1, e) => ⟨s1, e⟩

/-- A little-endian number read through the translation unit. -/
def Io.num (io : Io) (w : Who) (va n : Nat) : Io × Nat := let r := io.rd w va n; (r.1, leNat r.2)

/-! ### The store (R391 to R394) -/

def pageUp (n : Nat) : Nat := (n + 4095) / 4096 * 4096
def lineUp (n : Nat) : Nat := (n + 63) / 64 * 64

/-- Sketch bits. -/
def idxB (x : IdxRec) : Nat := 256 * 2 ^ x.sketch
/-- Code bytes C, record bytes R, vector stride V, id map entries H. -/
def idxC (x : IdxRec) : Nat := if x.code = 1 then x.m else idxB x / 8
@[inherit_doc idxC] def idxR (x : IdxRec) : Nat := 16 + (idxC x + 15) / 16 * 16
@[inherit_doc idxC] def idxV (x : IdxRec) : Nat := vecStride x.dim
@[inherit_doc idxC] def idxH (x : IdxRec) : Nat := 2 ^ Nat.clog 2 (2 * x.cap)

/-- The coarse centroids, the product codebook or hyperplanes, and the end of the codebook area, as store offsets. -/
def coarseOff : Nat := 0x1000
def codesOff (x : IdxRec) : Nat := coarseOff + if x.structure_ = 1 then pageUp (x.shape * idxV x) else 0
def areasOff (x : IdxRec) : Nat := codesOff x + if x.code = 1 then pageUp (512 * x.dim) else pageUp (idxB x * idxV x)

/-- Offsets of the parts within an area: records, vectors, links, and its size. -/
def recsOff (x : IdxRec) : Nat := lineUp (16 * idxH x)
def vecsOff (x : IdxRec) : Nat := lineUp (recsOff x + x.cap * idxR x)
def linksOff (x : IdxRec) (vecs : Bool) : Nat := if vecs then lineUp (vecsOff x + x.cap * idxV x) else vecsOff x
def listBlocks (x : IdxRec) : Nat := x.shape + (x.cap + 13) / 14
def areaSize (x : IdxRec) (vecs : Bool) : Nat :=
  pageUp (linksOff x vecs + if x.structure_ = 2 then x.cap * x.shape * 8 else 64 * listBlocks x)

/-- The first layout of R392 that fits, 0 where none does. -/
def layoutOf (x : IdxRec) : Nat :=
  if areasOff x + 2 * areaSize x true ≤ x.storeLen then 1
  else if areasOff x + areaSize x true ≤ x.storeLen then 2
  else if x.code = 1 ∧ areasOff x + areaSize x false ≤ x.storeLen then 3
  else 0

def keepsVecs (x : IdxRec) : Bool := decide (x.layout ≤ 2)

/-- Addresses in the store: an area, a slot's record and vector, a graph link, a list block. -/
def areaVa (x : IdxRec) (a : Nat) : Nat := x.storeVa + areasOff x + a * areaSize x (keepsVecs x)
@[inherit_doc areaVa] def recVa (x : IdxRec) (a i : Nat) : Nat := areaVa x a + recsOff x + i * idxR x
@[inherit_doc areaVa] def vecVa (x : IdxRec) (a i : Nat) : Nat := areaVa x a + vecsOff x + i * idxV x
@[inherit_doc areaVa] def linkVa (x : IdxRec) (a i k : Nat) : Nat :=
  areaVa x a + linksOff x (keepsVecs x) + (i * x.shape + k) * 8
@[inherit_doc areaVa] def blockVa (x : IdxRec) (a b : Nat) : Nat := areaVa x a + linksOff x (keepsVecs x) + 64 * b

/-- The header's bytes up to 0x3C (R394). -/
def headerBytes (x : IdxRec) : List Byte :=
  leBytes 4 0x5352524C ++ leBytes 1 x.layout ++ leBytes 3 0 ++ leBytes 4 x.epoch ++ leBytes 4 x.oldest ++
  slice x.params 0 16 ++ leBytes 4 (x.areaStart.getD 0 0) ++ leBytes 4 (x.areaStart.getD 1 0xFFFFFFFF) ++
  leBytes 1 x.active ++ leBytes 3 0 ++ leBytes 4 x.slotsPub ++ leBytes 4 x.slotsStaged ++
  leBytes 4 (x.entrySlot.getD 0 0xFFFFFFFF) ++ leBytes 4 (x.entrySlot.getD 1 0xFFFFFFFF)

def State.setIdx (s : State) (id : Nat) (x : Option IdxRec) : State :=
  { s with idxs := tabPut (fun _ => none) s.idxs id x }

/-- Keep a changed index and write its header. -/
def putIdx (io : Io) (w : Who) (id : Nat) (x : IdxRec) : Io :=
  let io1 := io.wr w x.storeVa (headerBytes x)
  ⟨io1.s.setIdx id (some x), io1.err⟩

/-! ### Vectors, codes and distances (R386 to R390) -/

/-- The elements of a vector. -/
def vecNums (d : Nat) (bs : List Byte) : List Num := (List.range d).map fun i => decodeF fp16 (leAt bs (2 * i) 2)

def isFin : Num → Bool
  | .fin _ _ _ => true
  | _ => false

/-- Σ (a − b)², exactly. -/
def sqDist (a b : List Num) : Num :=
  Num.sum (List.zipWith (fun x y => let d := x.add y.neg; d.mul d) a b)

/-- The exact distance of R389. -/
def exactDist (a b : List Num) : Nat := toF32 (sqDist a b)

/-- Subvector `j` of m. -/
def subVec (m j : Nat) (v : List Num) : List Num := (v.drop (j * (v.length / m))).take (v.length / m)

/-- Centroid `c` of subspace `j` in the codebook's bytes. -/
def centroid (x : IdxRec) (cb : List Byte) (j c : Nat) : List Num :=
  let n := x.dim / x.m
  vecNums n (slice cb ((256 * j + c) * n * 2) (2 * n))

/-- The first index with the least value, by a strict order. -/
def argMin {α : Type} (lt : α → α → Bool) : List α → Nat
  | [] => 0
  | a :: t => ((t.zipIdx 1).foldl (fun (b : α × Nat) e => if lt e.1 b.1 then e else b) (a, 0)).2

/-- Exact values in order. -/
def numLt (a b : Num) : Bool := match a.cmp b with | some c => decide (c < 0) | none => false

/-- The code bytes of a vector (R387, R388), given the codebook part. -/
def codeOf (x : IdxRec) (cb : List Byte) (v : List Num) : List Byte :=
  if x.code = 1 then
    (List.range x.m).map fun j =>
      BitVec.ofNat 8 (argMin numLt ((List.range 256).map fun c => sqDist (subVec x.m j v) (centroid x cb j c)))
  else
    let bit (j : Nat) : Bool :=
      match Num.sum (List.zipWith Num.mul (vecNums x.dim (slice cb (j * idxV x) (idxV x))) v) with
      | .fin n m _ => !n || decide (m = 0)
      | .inf n => !n
      | .nan => false
    leBytes (idxB x / 8) (bitsMask ((List.range (idxB x)).filter bit))

/-- The distance table of a query (R387). -/
def distTable (x : IdxRec) (cb : List Byte) (v : List Num) : List (List Nat) :=
  (List.range x.m).map fun j => (List.range 256).map fun c => toF32 (sqDist (subVec x.m j v) (centroid x cb j c))

/-- What a query needs for code distances: the table, or its sketch; a NaN element makes every distance NaN. -/
structure QueryCtx where
  table : List (List Nat)
  sketch : List Byte
  nan : Bool

def queryCtx (x : IdxRec) (cb : List Byte) (v : List Num) : QueryCtx :=
  ⟨if x.code = 1 then distTable x cb v else [], if x.code = 2 then codeOf x cb v else [], v.any fun e => decide (e = .nan)⟩

/-- A code distance as FP32 bits (R387, R388). -/
def codeDist (x : IdxRec) (c : QueryCtx) (code : List Byte) : Nat :=
  if c.nan then nanBits fp32
  else if x.code = 1 then
    toF32 (Num.sum ((List.range x.m).map fun j => f32 ((c.table.getD j []).getD (leAt code j 1) 0)))
  else toF32 (numInt (popCount (idxB x) (xorN (leNat code) (leNat c.sketch))))

/-- The codebook part of the code kind. -/
def readCodes (io : Io) (w : Who) (x : IdxRec) : Io × List Byte :=
  io.rd w (x.storeVa + codesOff x) (if x.code = 1 then 512 * x.dim else idxB x * idxV x)

def readVec (io : Io) (w : Who) (x : IdxRec) (va : Nat) : Io × List Num :=
  let r := io.rd w va (2 * x.dim)
  (r.1, vecNums x.dim r.2)

/-- A record: id, birth, death, code. -/
structure Rec where
  id : Nat
  birth : Nat
  death : Nat
  code : List Byte

def readRec (io : Io) (w : Who) (x : IdxRec) (a i : Nat) : Io × Rec :=
  let r := io.rd w (recVa x a i) (16 + idxC x)
  (r.1, ⟨leAt r.2 0 8, leAt r.2 8 4, leAt r.2 12 4, slice r.2 16 (idxC x)⟩)

/-- Exact distances to the coarse centroids (R390, R406). -/
def coarseDists (io : Io) (w : Who) (x : IdxRec) (v : List Num) : Io × List Nat :=
  (List.range x.shape).foldl (fun (a : Io × List Nat) l =>
    let r := readVec a.1 w x (x.storeVa + coarseOff + l * idxV x)
    (r.1, a.2 ++ [exactDist v r.2])) (io, [])

/-! ### Walks (R406) -/

/-- A slot in a walk's queue: code distance, slot, expanded, and its record. -/
structure Seen where
  dist : Nat
  slot : Nat
  done : Bool
  r : Rec

def seenLe (a b : Seen) : Bool := decide (a.dist < b.dist) || (decide (a.dist = b.dist) && decide (a.slot ≤ b.slot))

/-- What a graph walk may pass: the slot bound, the edges and slots it sees. -/
structure WalkRule where
  bound : Nat
  edge : Nat → Bool
  slot : Rec → Bool

/-- A walk's progress: memory, queue, slots scored, bad references. -/
structure WalkState where
  io : Io
  queue : List Seen
  scored : List Nat
  bad : Nat
  codes : Nat

/-- Score a slot once and keep the breadth best. -/
def visit (w : Who) (x : IdxRec) (c : QueryCtx) (rule : WalkRule) (a breadth : Nat) (st : WalkState) (i : Nat) : WalkState :=
  if rule.bound ≤ i then { st with bad := st.bad + 1 }
  else if i ∈ st.scored then st
  else
    let r := readRec st.io w x a i
    if rule.slot r.2 then
      let q := (st.queue ++ [(⟨codeDist x c r.2.code, i, false, r.2⟩ : Seen)]).mergeSort seenLe
      { st with io := r.1, queue := q.take breadth, scored := i :: st.scored, codes := st.codes + 1 }
    else { st with io := r.1, scored := i :: st.scored }

/-- Expand the nearest unexpanded slot until none is left. -/
def walkGraph (w : Who) (x : IdxRec) (c : QueryCtx) (rule : WalkRule) (a breadth : Nat) : Nat → WalkState → WalkState
  | 0, st => st
  | f + 1, st =>
    match st.queue.find? fun e => !e.done with
    | none => st
    | some e =>
      let st1 := { st with queue := st.queue.map fun y => if y.slot = e.slot then { y with done := true } else y }
      let st2 := (List.range x.shape).foldl (fun u k =>
        let l := u.io.rd w (linkVa x a e.slot k) 8
        let u1 := { u with io := l.1 }
        let t := leAt l.2 0 4
        if t = 0xFFFFFFFF ∨ rule.edge (leAt l.2 4 4) = false then u1 else visit w x c rule a breadth u1 t) st1
      walkGraph w x c rule a breadth f st2

/-- The slots of a list, in order; a bad reference is counted and skipped. -/
def listSlots (w : Who) (x : IdxRec) (a : Nat) : Nat → Nat → Io × List Nat × Nat → Io × List Nat × Nat
  | 0, _, r => r
  | f + 1, b, (io, sl, bad) =>
    let r := io.rd w (blockVa x a b) 64
    let n := min (leAt r.2 60 4) 14
    let sl1 := sl ++ (List.range n).map fun k => leAt r.2 (4 * k) 4
    let nx := leAt r.2 56 4
    -- a zero-filled list head has 0 as its next block: a list's own first block is never a next block
    if nx = 0xFFFFFFFF ∨ nx < x.shape then (r.1, sl1, bad)
    else if listBlocks x ≤ nx then (r.1, sl1, bad + 1)
    else listSlots w x a f nx (r.1, sl1, bad)

/-! ### Staged changes (R398, R399, R402) -/

/-- An area under change: its slots in use, entry slot and list blocks in use. -/
structure Area where
  a : Nat
  slots : Nat
  entry : Nat
  pool : Nat

/-- The id's slot with death 0, if any. -/
def liveSlot (w : Who) (x : IdxRec) (ar : Area) (id : Nat) (io : Io) : Io × Option Nat :=
  (List.range ar.slots).foldl (fun (r : Io × Option Nat) i =>
    let e := readRec r.1 w x ar.a i
    (e.1, if e.2.id = id ∧ e.2.death = 0 then some i else r.2)) (io, none)

/-- Set a death. -/
def kill (w : Who) (x : IdxRec) (a i epoch : Nat) (io : Io) : Io := io.wr w (recVa x a i + 12) (leBytes 4 epoch)

/-- The id map's layout is open in the spec: an entry whose place and bytes the model leaves free changes. -/
def idMapNote (w : Who) (x : IdxRec) (a : Nat) (io : Io) : Io :=
  let f := io.s.fresh
  let g := f.2.fresh
  (⟨g.2, io.err⟩ : Io).wr w (areaVa x a + 16 * (f.1 % idxH x)) (leBytes 16 g.1)

/-- Append a slot to the tail block of its list. -/
def linkList (w : Who) (x : IdxRec) (ar : Area) (i l : Nat) : Nat → Nat → Io → Io × Area
  | 0, _, io => (io, ar)
  | f + 1, b, io =>
    let r := io.rd w (blockVa x ar.a b) 64
    let n := leAt r.2 60 4
    let nx := leAt r.2 56 4
    if n < 14 then
      ((r.1.wr w (blockVa x ar.a b + 4 * n) (leBytes 4 i)).wr w (blockVa x ar.a b + 60) (leBytes 4 (n + 1)), ar)
    else if nx ≠ 0xFFFFFFFF ∧ x.shape ≤ nx ∧ nx < listBlocks x then linkList w x ar i l f nx r.1
    else
      let nb := x.shape + ar.pool
      let blk := leBytes 4 i ++ leBytes 52 0 ++ leBytes 4 0xFFFFFFFF ++ leBytes 4 1
      ((r.1.wr w (blockVa x ar.a nb) blk).wr w (blockVa x ar.a b + 56) (leBytes 4 nb), { ar with pool := ar.pool + 1 })

/-- Link a new graph slot: forward edges to the nearest live slots, then reverse edges where a link is empty. -/
def linkGraph (w : Who) (x : IdxRec) (ar : Area) (i epoch : Nat) (c : QueryCtx) (io : Io) : Io :=
  let rule : WalkRule := ⟨i, fun _ => true, fun _ => true⟩
  let st : WalkState := if ar.entry = 0xFFFFFFFF then ⟨io, [], [], 0, 0⟩
    else walkGraph w x c rule ar.a 128 (i + 1) (visit w x c rule ar.a 128 ⟨io, [], [], 0, 0⟩ ar.entry)
  let near := ((st.queue.filter fun e => decide (e.r.death = 0)).map fun e => e.slot).take x.shape
  let links := (near.flatMap fun t => leBytes 4 t ++ leBytes 4 epoch) ++
    ((List.range (x.shape - near.length)).flatMap fun _ => leBytes 4 0xFFFFFFFF ++ leBytes 4 0)
  near.foldl (fun u t =>
    let r := u.rd w (linkVa x ar.a t 0) (8 * x.shape)
    match (List.range x.shape).find? fun k => decide (leAt r.2 (8 * k) 4 = 0xFFFFFFFF) with
    | some k => r.1.wr w (linkVa x ar.a t k) (leBytes 4 i ++ leBytes 4 epoch)
    | none => r.1) (st.io.wr w (linkVa x ar.a i 0) links)

/-- Insert one vector (R398, R399, R402). -/
def insertOne (w : Who) (x : IdxRec) (cb : List Byte) (epoch : Nat) (id : Nat) (v : List Byte) (r : Io × Area) : Io × Area :=
  let (io, ar) := r
  let i := ar.slots
  let vec := vecNums x.dim v
  let old := liveSlot w x ar id io
  let io1 := match old.2 with
    | some k => kill w x ar.a k epoch old.1
    | none => old.1
  let code := codeOf x cb vec
  let io2 := io1.wr w (recVa x ar.a i)
    (leBytes 8 id ++ leBytes 4 epoch ++ leBytes 4 0 ++ code ++ List.replicate (idxR x - 16 - idxC x) 0)
  let io3 := if keepsVecs x then io2.wr w (vecVa x ar.a i) (slice v 0 (idxV x)) else io2
  let io4 := idMapNote w x ar.a io3
  if x.structure_ = 1 then
    let ds := coarseDists io4 w x vec
    let l := argMin (fun a b => decide (a < b)) ds.2
    let t := linkList w x ar i l (listBlocks x + 1) l ds.1
    (t.1, { t.2 with slots := i + 1 })
  else
    (linkGraph w x ar i epoch (queryCtx x cb vec) io4,
      { ar with slots := i + 1, entry := if ar.entry = 0xFFFFFFFF then i else ar.entry })

/-- Insert a list of (id, vector bytes). -/
def insertAll (w : Who) (x : IdxRec) (cb : List Byte) (epoch : Nat) (r : Io × Area) (es : List (Nat × List Byte)) : Io × Area :=
  es.foldl (fun t e => insertOne w x cb epoch e.1 e.2 t) r

/-- Ids and vectors of a packet or a build. -/
def idVecs (x : IdxRec) (n : Nat) (ids vecs : List Byte) : List (Nat × List Byte) :=
  (List.range n).map fun i => (leAt ids (8 * i) 8, slice vecs (i * idxV x) (idxV x))

/-- Every element of every vector is finite (R386). -/
def vecsFinite (x : IdxRec) (n : Nat) (vecs : List Byte) : Bool :=
  (List.range n).all fun i => (vecNums x.dim (slice vecs (i * idxV x) (idxV x))).all isFin

def activeArea (x : IdxRec) : Area := ⟨x.active, x.slotsStaged, x.entrySlot.getD x.active 0xFFFFFFFF, x.poolNext⟩

/-- The index after staged changes of its active area. -/
def withArea (x : IdxRec) (ar : Area) : IdxRec :=
  { x with slotsStaged := ar.slots, entrySlot := x.entrySlot.set ar.a ar.entry, poolNext := ar.pool, dirty := true }

/-- End an index opcode: on an error it has had no effect on the store or the index (R147). -/
def idxEnd (s0 : State) (io : Io) (p : Pkt) (detail : Nat) : State :=
  match io.err with
  | none => complete io.s p 0 detail 0
  | some e => endErr { io.s with ms := { io.s.ms with mem := s0.ms.mem, lost := s0.ms.lost, lineKey := s0.ms.lineKey }, idxs := s0.idxs } p e

/-! ### Queries (R397, R400, R406, R408) -/

/-- Visible and tombstoned at an epoch (R397). -/
def recVisible (r : Rec) (e : Nat) : Bool := decide (r.birth ≤ e) && (decide (r.death = 0) || decide (e < r.death))

/-- The area that serves an epoch (R397). -/
def areaAt (x : IdxRec) (e : Nat) : Nat :=
  let a0 := x.areaStart.getD 0 0
  let a1 := x.areaStart.getD 1 0xFFFFFFFF
  if a1 ≤ e ∧ a1 ≠ 0xFFFFFFFF ∧ (e < a0 ∨ a0 ≤ a1) then 1 else 0

/-- A candidate: distance bits, id, slot. -/
abbrev Cand := Nat × Nat × Nat
def candLe (a b : Cand) : Bool := decide (a.1 < b.1) || (decide (a.1 = b.1) && decide (a.2.1 ≤ b.2.1))
def notNan (c : Cand) : Bool := match f32 c.1 with | .nan => false | _ => true

/-- The counts of one query: code distances, exact distances, bad references. -/
structure QueryCost where
  codes : Nat
  exact_ : Nat
  bad : Nat

/-- The candidates of a query. -/
def candidates (io : Io) (w : Who) (x : IdxRec) (c : QueryCtx) (v : List Num) (e bound breadth : Nat) :
    Io × List Cand × QueryCost :=
  let a := areaAt x e
  if x.structure_ = 1 then
    let ds := coarseDists io w x v
    let order := ((ds.2.zipIdx).mergeSort fun p q => decide (p.1 < q.1) || (decide (p.1 = q.1) && decide (p.2 ≤ q.2))).map Prod.snd
    let lists := if breadth = 0 then order else order.take breadth
    let sl := lists.foldl (fun (r : Io × List Nat × Nat) l => listSlots w x a (listBlocks x + 1) l r) (ds.1, [], 0)
    let good := (sl.2.1.filter fun i => decide (i < bound)).eraseDups
    let r := good.foldl (fun (t : Io × List Cand) i =>
      let q := readRec t.1 w x a i
      if recVisible q.2 e then (q.1, (codeDist x c q.2.code, q.2.id, i) :: t.2) else (q.1, t.2)) (sl.1, [])
    (r.1, r.2, ⟨r.2.length, x.shape, sl.2.2 + (sl.2.1.filter fun i => decide (bound ≤ i)).length⟩)
  else
    let en := x.entrySlot.getD a 0xFFFFFFFF
    if bound ≤ en then (io, [], ⟨0, 0, 0⟩)
    else
      let r0 := readRec io w x a en
      if e < r0.2.birth then (r0.1, [], ⟨0, 0, 0⟩)
      else
        let rule : WalkRule := ⟨bound, fun b => decide (b ≤ e), fun r => decide (r.birth ≤ e)⟩
        let st := walkGraph w x c rule a breadth (bound + 1) (visit w x c rule a breadth ⟨r0.1, [], [], 0, 0⟩ en)
        (st.io, (st.queue.filter fun q => recVisible q.r e).map fun q => (q.dist, q.r.id, q.slot), ⟨st.codes, 0, st.bad⟩)

/-- One query: its entry of the result block, and what it cost. -/
def queryOne (io : Io) (w : Who) (x : IdxRec) (cb : List Byte) (e bound k breadth rerank va : Nat) :
    Io × List Byte × Nat × QueryCost :=
  let v := readVec io w x va
  let c := candidates v.1 w x (queryCtx x cb v.2) v.2 e bound breadth
  let best := (c.2.1.filter notNan).mergeSort candLe
  let rr := if rerank = 0 then (c.1, best)
    else (best.take rerank).foldl (fun (t : Io × List Cand) q =>
      let u := readVec t.1 w x (vecVa x (areaAt x e) q.2.2)
      (u.1, t.2 ++ [(exactDist v.2 u.2, q.2.1, q.2.2)])) (c.1, [])
  let res := ((if rerank = 0 then rr.2 else (rr.2.filter notNan).mergeSort candLe)).take k
  let bytes := leBytes 4 res.length ++ leBytes 4 (b2n res.isEmpty) ++
    (res.flatMap fun q => leBytes 8 q.2.1 ++ leBytes 4 q.1 ++ leBytes 4 0) ++ List.replicate (16 * (k - res.length)) 0
  (rr.1, bytes, res.length, ⟨c.2.2.codes, c.2.2.exact_ + if rerank = 0 then 0 else min rerank best.length, c.2.2.bad⟩)

/-- Queries `lo ..< hi` of a batch. -/
def queryRange (io : Io) (w : Who) (x : IdxRec) (cb : List Byte) (e bound k breadth rerank va lo hi : Nat) :
    Io × List Byte × Nat × QueryCost :=
  (List.range (hi - lo)).foldl (fun (a : Io × List Byte × Nat × QueryCost) i =>
    let r := queryOne a.1 w x cb e bound k breadth rerank (va + (lo + i) * idxV x)
    (r.1, a.2.1 ++ r.2.1, a.2.2.1 + b2n (decide (r.2.2.1 = 0)),
      ⟨a.2.2.2.codes + r.2.2.2.codes, a.2.2.2.exact_ + r.2.2.2.exact_, a.2.2.2.bad + r.2.2.2.bad⟩)) (io, [], 0, ⟨0, 0, 0⟩)

end Sys2Proof.Machine
end

