-- ==== Sys2Proof/Machine/IdxCmds.lean ====
section
/-! DEFINITION. The index opcodes (R172 to R176, R392, R398 to R405) and search batches (R160, R384, R407, R408). -/

namespace Sys2Proof.Machine

/-- The index a packet names and may still use. -/
def pktIdx (s : State) (p : Pkt) : Option IdxRec := match s.idx (p.u 0 2) with
  | some x => if x.owner = p.inst then some x else none
  | none => none

/-- SRCH_IDX_LIVE. -/
def idxLive (s : State) (id : Nat) (on : Bool) : State :=
  let f := SRCH_IDX_LIVE.live (id / 32)
  s.setF f (putBits (s.getF f) (id % 32) 1 (b2n on))

/-- The index IDX_CREATE's parameters describe (R391, R392). -/
def newIdx (p : Pkt) : IdxRec :=
  let x : IdxRec :=
    ⟨p.inst, p.u 2 1, p.u 3 1, p.u 4 2, p.u 6 1, p.u 7 1, p.u 8 4, p.u 0xC 4, p.u 0x10 8, p.u 0x18 8, slice p.params 0 16,
     0, 0, 0, [0, 0xFFFFFFFF], 0, 0, 0, [0xFFFFFFFF, 0xFFFFFFFF], 0, false, false⟩
  { x with layout := layoutOf x }

/-- The whole store translates to LPDDR5X or PCIe outbound (R392). -/
def storeOk (s : State) (w : Who) (va n : Nat) : Bool :=
  (pageSegs va n).all fun g => match xlate s w g.1 true with
    | (s1, .ok (.mem pa _ _)) => (match region s1 pa with | .dram _ => true | _ => false)
    | (_, .ok (.pcie _ _)) => true
    | _ => false

/-- No NaN and no infinity in the elements of a codebook part. -/
def halvesFinite (bs : List Byte) : Bool := (List.range (bs.length / 2)).all fun i => isFin (decodeF fp16 (leAt bs (2 * i) 2))

/-- The codebook area holds finite elements (R392); padding is ignored. -/
def codebookOk (io : Io) (w : Who) (x : IdxRec) : Io × Bool :=
  let r := if x.structure_ = 1 then (List.range x.shape).foldl (fun (a : Io × Bool) l =>
      let v := readVec a.1 w x (x.storeVa + coarseOff + l * idxV x)
      (v.1, a.2 && v.2.all isFin)) (io, true) else (io, true)
  let c := readCodes r.1 w x
  (c.1, r.2 && (if x.code = 1 then halvesFinite c.2
    else (List.range (idxB x)).all fun k => (vecNums x.dim (slice c.2 (k * idxV x) (idxV x))).all isFin))

/-- The preconditions of IDX_CREATE (R172, R392). -/
def idxCreatePre (s : State) (p : Pkt) : State × PreFail :=
  let x := newIdx p
  let w := pktWho p false
  match firstPre [((s.idx (p.u 0 2)).isNone, 0), (decide (x.code = 2 ∨ x.dim % x.m = 0), 6), (decide (x.layout ≠ 0), 0x18),
      (decide (x.storeVa % 4096 = 0), 0x10), (storeOk s w x.storeVa x.storeLen, 0x10)] with
  | .ok =>
    (match codebookOk ⟨s, none⟩ w x with
     | (io, ok) => match io.err with
       | none => (io.s, if ok then .ok else .bad 0x30)
       | some (.poison pa) => (io.s, .poison pa)
       | some (.xlat va _ _) => (io.s, .xlat 0x10 va))
  | e => (s, e)

/-- Zero-fill the id map and the list heads of an area (R392). -/
def clearArea (w : Who) (x : IdxRec) (a : Nat) (io : Io) : Io :=
  let io1 := io.wr w (areaVa x a) (List.replicate (16 * idxH x) 0)
  if x.structure_ = 1 then io1.wr w (blockVa x a 0) (List.replicate (64 * x.shape) 0) else io1

/-- An index is created (R172, R392): epoch 0 is published. -/
def createIdx (s : State) (p : Pkt) : State :=
  let x := newIdx p
  let w := pktWho p false
  let io := putIdx (clearArea w x 0 ⟨s, none⟩) w (p.u 0 2) x
  idxEnd s ⟨idxLive io.s (p.u 0 2) true, io.err⟩ p 0

/-- IDX_CREATE (R172, R392). -/
def execIdxCreate (q idx : Nat) (s : State) : Res := carryDma s q idx 0x4000 idxCreatePre createIdx

/-- The ids and vectors a packet names, as bytes. -/
def readIdVecs (s : State) (w : Who) (p : Pkt) (x : IdxRec) : Io × List Byte × List Byte :=
  let v := (⟨s, none⟩ : Io).rd w (p.u 8 8) (p.u 4 4 * idxV x)
  let i := v.1.rd w (p.u 0x10 8) (8 * p.u 4 4)
  (i.1, i.2, v.2)

/-- A precondition result from reads that may fail. -/
def ioPre (io : Io) (off : Nat) (r : PreFail) : State × PreFail :=
  match io.err with
  | none => (io.s, r)
  | some (.poison pa) => (io.s, .poison pa)
  | some (.xlat va _ _) => (io.s, .xlat off va)

/-- The preconditions of IDX_INSERT (R173, R386). -/
def idxInsertPre (s : State) (p : Pkt) : State × PreFail :=
  match pktIdx s p with
  | none => (s, .bad 0x20)
  | some x =>
    if x.closing then (s, .bad 0x20)
    else
      let r := readIdVecs s (pktWho p false) p x
      ioPre r.1 8 (firstPre [(decide (x.slotsStaged + p.u 4 4 ≤ x.cap), 4), (vecsFinite x (p.u 4 4) r.2.2, 8)])

/-- Records are inserted with the next epoch as their birth (R173, R398, R402). -/
def insertRecords (s : State) (p : Pkt) : State :=
  match pktIdx s p with
  | none => s
  | some x =>
    let w := pktWho p false
    let r := readIdVecs s w p x
    let cb := readCodes r.1 w x
    let ins := insertAll w x cb.2 (x.epoch + 1) (cb.1, activeArea x) (idVecs x (p.u 4 4) r.2.1 r.2.2)
    idxEnd s (putIdx ins.1 w (p.u 0 2) (withArea x ins.2)) p (p.u 4 4)

/-- IDX_INSERT (R173, R398, R402). -/
def execIdxInsert (q idx : Nat) (s : State) : Res := carryDma s q idx 0x4002 idxInsertPre insertRecords

/-- An index opcode needs an index of its instance that is not being destroyed. DESIGN CHOICE (log 124): R176 names only
JOB_SEARCH for an index being destroyed. -/
def idxPre (s : State) (p : Pkt) : State × PreFail :=
  match pktIdx s p with
  | none => (s, .bad 0x20)
  | some x => if x.closing then (s, .bad 0x20) else (s, .ok)

/-- The live slots of the ids a packet names get their death; how many there were (R173, R398). -/
def killIds (s : State) (p : Pkt) (x : IdxRec) : Io × Nat :=
  let w := pktWho p false
  let ids := (⟨s, none⟩ : Io).rd w (p.u 8 8) (8 * p.u 4 4)
  (List.range (p.u 4 4)).foldl (fun (a : Io × Nat) i =>
    let l := liveSlot w x (activeArea x) (leAt ids.2 (8 * i) 8) a.1
    match l.2 with
    | some k => (kill w x x.active k (x.epoch + 1) l.1, a.2 + 1)
    | none => (l.1, a.2)) (ids.1, 0)

/-- Records are deleted (R173, R398): the detail counts the ids whose slot got a death. -/
def deleteRecords (s : State) (p : Pkt) : State :=
  match pktIdx s p with
  | none => s
  | some x =>
    let r := killIds s p x
    idxEnd s (putIdx r.1 (pktWho p false) (p.u 0 2) { x with dirty := x.dirty || decide (r.2 ≠ 0) }) p r.2

/-- IDX_DELETE (R173, R398). -/
def execIdxDelete (q idx : Nat) (s : State) : Res := carryDma s q idx 0x4003 idxPre deleteRecords

/-- IDX_WAIT's detail (R175). -/
def waitDetail (epoch : Nat) : Nat := min epoch 0x7FFFFFFF

/-- A batch that started in the tick of a publication of its index is bound to the new epoch (R160). -/
def bindAgain (id : Nat) (y : IdxRec) (s : State) (j : Job) : State :=
  let p := jobPkt s j
  if j.kind = .search ∧ p.u 0 2 = id ∧ p.u 0x18 4 = 0 ∧ j.kernel = 0 ∧ j.attempt = 0 ∧ j.readyAt = s.now ∧
      (j.phase = .ready ∨ j.phase = .running)
  then s.setJob { j with epoch := y.epoch, bound := y.slotsPub } else s

/-- What a publication brings about (R160, R175): every wait the new epoch satisfies completes. -/
def published (s : State) (id : Nat) (y : IdxRec) : State :=
  let ws := s.pkts.filter fun p =>
    decide (p.opcode = 0x4005 ∧ p.phase = .waiting ∧ p.u 0 2 = id ∧ p.u 4 4 ≤ y.epoch) && !expired s (p.u 8 8)
  let s1 := ws.foldl (fun t p => complete t p 0 (waitDetail y.epoch) 0) s
  s1.jobs.foldl (bindAgain id y) s1

/-- Write a published index and its header, or, on an error, leave the index as it was (R174, R400). -/
def putPublished (s : State) (w : Who) (id : Nat) (x y : IdxRec) : Io :=
  let io := putIdx ⟨s, none⟩ w id y
  match io.err with
  | some _ => ⟨io.s.setIdx id (some x), io.err⟩
  | none => ⟨published io.s id y, none⟩

/-- Publish what is staged in an index (R174, R400). -/
def publish (s : State) (w : Who) (id : Nat) (x : IdxRec) : Io :=
  if x.dirty then putPublished s w id x { x with slotsPub := x.slotsStaged, epoch := x.epoch + 1, dirty := false }
  else ⟨s, none⟩

/-- The precondition of IDX_PUBLISH (R174). -/
def idxPublishPre (s : State) (p : Pkt) : State × PreFail :=
  match pktIdx s p with
  | none => (s, .bad 0x20)
  | some x => if x.closing ∨ x.epoch = 0xFFFFFFFF then (s, .bad 0x20) else (s, .ok)

/-- What is staged is published, and the epoch answered (R174, R400). -/
def publishIdx (s : State) (p : Pkt) : State :=
  match pktIdx s p with
  | none => s
  | some x =>
    let io := publish s (pktWho p false) (p.u 0 2) x
    idxEnd s io p (match io.s.idx (p.u 0 2) with | some y => y.epoch | none => 0)

/-- IDX_PUBLISH (R174, R400). -/
def execIdxPublish (q idx : Nat) (s : State) : Res := carryDma s q idx 0x4004 idxPublishPre publishIdx

/-- IDX_WAIT (R175). -/
def execIdxWait (q idx : Nat) (s : State) : Res :=
  carry s q idx 0x4005 idxPre fun t p =>
    match pktIdx t p with
    | none => t
    | some x => if p.u 4 4 ≤ x.epoch then complete t p 0 (waitDetail x.epoch) 0 else t.setPkt { p with phase := .waiting }

/-- A batch of an index has not ended (R176). -/
def idxBusy (s : State) (id : Nat) : Bool :=
  s.jobs.any fun j => decide (j.kind = .search) && decide ((jobPkt s j).u 0 2 = id)

/-- The index goes: its id is free. DESIGN CHOICE (log 124): an IDX_BUILD of it that has not ended changes nothing more. -/
def idxGone (s : State) (p : Pkt) : State :=
  let s1 := s.jobs.foldl (fun t j =>
    if j.kind = .build ∧ (jobPkt t j).u 0 2 = p.u 0 2 then t.setJob { j with epoch := 1 } else t) s
  complete (idxLive (s1.setIdx (p.u 0 2) none) (p.u 0 2) false) p 0 0 0

/-- IDX_DESTROY (R176): it stops new batches, and ends when those already bound have ended; the row is met again while it
waits. -/
def execIdxDestroy (q idx : Nat) (s : State) : Res :=
  match s.pkt q idx with
  | none => .next s
  | some p =>
    if p.opcode = 0x4006 ∧ p.phase = .waiting ∧ accepting s then
      .next (if idxBusy s (p.u 0 2) then s else idxGone s p)
    else carry s q idx 0x4006 idxPre fun t p =>
      match pktIdx t p with
      | none => t
      | some x =>
        let t1 := t.setIdx (p.u 0 2) (some { x with closing := true })
        if idxBusy t1 (p.u 0 2) then t1.setPkt { p with phase := .waiting } else idxGone t1 p

/-! ### IDX_BUILD (R403, R404) -/

/-- The area a build writes: in layout 1 the one that does not serve the published epoch. -/
def buildArea (x : IdxRec) : Nat := if x.layout = 1 then 1 - areaAt x x.epoch else 0

/-- The preconditions of IDX_BUILD. -/
def idxBuildPre (s : State) (p : Pkt) : State × PreFail :=
  match pktIdx s p with
  | none => (s, .bad 0x20)
  | some x =>
    if x.closing then (s, .bad 0x20)
    else if !bitB p.flags 3 then (s, .bad 2)
    else
      let r := readIdVecs s (pktWho p true) p x
      ioPre r.1 8 (firstPre [(decide (x.layout = 1 ∨ x.slotsPub = 0), 0), (decide (p.u 4 4 ≤ x.cap), 4),
        (vecsFinite x (p.u 4 4) r.2.2, 8)])

/-- An IDX_BUILD starts (R404): in layout 1 the oldest retained epoch moves. -/
def startBuild (s : State) (p : Pkt) : State :=
  match pktIdx s p with
  | none => s
  | some x =>
    let y := if x.layout = 1 then { x with oldest := x.areaStart.getD (areaAt x x.epoch) 0 } else x
    let io := putIdx ⟨s, none⟩ (pktWho p true) (p.u 0 2) y
    match io.err with
    | some e => endErr io.s p e
    | none => startJob io.s p (newJob io.s p .build 1 (p.u 2 1))

/-- IDX_BUILD (R403, R404). -/
def execIdxBuild (q idx : Nat) (s : State) : Res := carryDma s q idx 0x4001 idxBuildPre startBuild

/-- Who makes a Sorrel engine's accesses (R385). -/
def engineWho (s : State) (j : Job) : Who :=
  jobWho j (0x38 + (j.units.headD 2 - 2)) (jobPkt s j).opcode (jobPkt s j).seq

/-- The index a build still builds: none once IDX_DESTROY has freed it. -/
def buildIdx (s : State) (j : Job) : Option IdxRec := if j.epoch = 0 then s.idx ((jobPkt s j).u 0 2) else none

/-- The build's kernel: the area is written from empty (R403). -/
def buildRun (s : State) (j : Job) : Io × Job :=
  let p := jobPkt s j
  match buildIdx s j with
  | none => (⟨s, none⟩, j)
  | some x =>
    let w := engineWho s j
    let a := buildArea x
    let r := readIdVecs s w p x
    let cb := readCodes (clearArea w x a r.1) w x
    let ins := insertAll w x cb.2 (x.epoch + 1) (cb.1, ⟨a, 0, 0xFFFFFFFF, 0⟩) (idVecs x (p.u 4 4) r.2.1 r.2.2)
    (ins.1, { j with bound := ins.2.slots, pos := ins.2.entry, empties := ins.2.pool })

/-- The commit of a build (R403): the area is the staged content from the next epoch. -/
def buildCommit (s : State) (j : Job) : State :=
  let p := jobPkt s j
  match buildIdx s j with
  | none => s
  | some x =>
    let a := buildArea x
    (putIdx ⟨s, none⟩ (engineWho s j) (p.u 0 2) { x with
      active := a, areaStart := if x.layout = 1 then x.areaStart.set a (x.epoch + 1) else x.areaStart,
      slotsStaged := j.bound, entrySlot := x.entrySlot.set a j.pos, poolNext := j.empties, dirty := true }).s

/-! ### JOB_SEARCH (R160, R384, R407) -/

/-- The preconditions of JOB_SEARCH. -/
def jobSearchPre (s : State) (p : Pkt) : State × PreFail :=
  match pktIdx s p with
  | none => (s, .bad 0x20)
  | some x =>
    let e := p.u 0x18 4
    let k := p.u 2 2
    let b := p.u 0x1C 2
    let rr := p.u 0x1E 2
    match firstPre [(!x.closing, 0), (decide (e = 0 ∨ (x.oldest ≤ e ∧ e ≤ x.epoch)), 0x18),
        (decide (x.structure_ = 1 ∨ (k ≤ b ∧ b ≤ 512)), 0x1C), (decide (x.code = 1 ∨ k ≤ rr), 0x1E),
        (decide (rr = 0) || keepsVecs x, 0x1E)] with
    | .ok => rangeCheck s (pktWho p true) 8 (p.u 8 8) (p.u 4 4 * idxV x) false
    | r => (s, r)

/-- A JOB_SEARCH starts: the batch binds to an epoch and a slot bound (R160, R400). -/
def startSearch (s : State) (p : Pkt) : State :=
  match pktIdx s p with
  | none => s
  | some x =>
    let e := if p.u 0x18 4 = 0 then x.epoch else p.u 0x18 4
    startJob s p { newJob s p .search ((p.u 4 4 + 1023) / 1024) (p.u 0x20 1) with epoch := e, bound := x.slotsPub }

/-- JOB_SEARCH (R160). -/
def execJobSearch (q idx : Nat) (s : State) : Res := carryDma s q idx 0x1001 jobSearchPre startSearch

/-- Bytes of one query's result. -/
def resultLen (p : Pkt) : Nat := 8 + 16 * p.u 2 2

/-- Physical pieces of a virtual range for a job's write. -/
def jobPieces (s : State) (w : Who) (va n : Nat) (wr : Bool) : State × Except MErr (List Piece) :=
  match xlateAll w wr (pageSegs va n) s with
  | (s1, .ok ls) => (s1, .ok (landPieces ls))
  | (s1, .error e) => (s1, .error e)

/-- One kernel of a batch: its queries' results, and, with the last kernel, the header (R384, R408). -/
def searchRun (s : State) (j : Job) (x : IdxRec) : Io × List Byte × Nat × QueryCost :=
  let p := jobPkt s j
  let w := engineWho s j
  let lo := 1024 * j.kernel
  let hi := min (p.u 4 4) (lo + 1024)
  let cb := readCodes ⟨s, none⟩ w x
  queryRange cb.1 w x cb.2 j.epoch j.bound (p.u 2 2) (p.u 0x1C 2) (p.u 0x1E 2) (p.u 8 8) lo hi

/-- The result block's header (R160). -/
def resultHead (p : Pkt) (j : Job) (empties : Nat) : List Byte :=
  leBytes 4 j.epoch ++ leBytes 4 (p.u 4 4) ++ leBytes 4 empties ++ leBytes 4 0

/-- Counters and energy of a search kernel (R509). -/
def searchCount (s : State) (j : Job) (nq empties : Nat) (c : QueryCost) : State :=
  let s1 := engineShare (fun e n t => t.addWrap (SRCH_QUERIES.n e) n) nq j s
  let s2 := engineShare (fun e n t => t.addWrap (SRCH_CODES.n e) n) c.codes j s1
  let s3 := engineShare (fun e n t => t.addWrap (SRCH_RERANKED.n e) n) c.exact_ j s2
  let s4 := engineShare (fun e n t => t.addSat (SRCH_EMPTY.n e) n) empties j s3
  energyAdd (energyAdd (engineWaits j (s4.addSat SRCH_BADREF.n c.bad)) j.q j.idx 9 c.codes) j.q j.idx 10 c.exact_

end Sys2Proof.Machine
end

