-- ==== Sys2Proof/Machine/Surface.lean ====
section
/-! DEFINITION. Surfaces (R418), pixels, and the block compression of R424 to R426. -/

namespace Sys2Proof.Machine

/-- Descriptor fields (R418). -/
def sdData (d : List Byte) : Nat := leAt d 0 8
@[inherit_doc sdData] def sdMeta (d : List Byte) : Nat := leAt d 8 8
@[inherit_doc sdData] def sdPitch (d : List Byte) : Nat := leAt d 0x10 4
@[inherit_doc sdData] def sdW (d : List Byte) : Nat := leAt d 0x14 2
@[inherit_doc sdData] def sdH (d : List Byte) : Nat := leAt d 0x16 2
@[inherit_doc sdData] def sdFmt (d : List Byte) : Nat := leAt d 0x18 1
@[inherit_doc sdData] def sdClear (d : List Byte) : List Byte := slice d 0x1C 4

/-- Bytes of a pixel of a format. -/
def pixSize (f : Nat) : Nat := if f = 4 then 8 else if f = 6 then 2 else 4

/-- A descriptor keeps the rules of R418. -/
def surfaceOk (d : List Byte) : Bool :=
  let f := sdFmt d
  decide (sdData d % 256 = 0 ∧ sdMeta d % 64 = 0) && decide (1 ≤ sdW d ∧ sdW d ≤ 8192 ∧ 1 ≤ sdH d ∧ sdH d ≤ 8192) &&
  decide (1 ≤ f ∧ f ≤ 6 ∧ leNat (slice d 0x19 3) = 0) &&
  (if sdMeta d = 0 then decide (sdPitch d % 64 = 0 ∧ sdW d * pixSize f ≤ sdPitch d ∧ leAt d 0x1C 4 = 0)
   else decide (f ≤ 2 ∧ sdPitch d = 0))

/-- The format suits a colour slot, the depth slot, or a display layer. -/
def targetFmt (slot f : Nat) : Bool := if slot = 4 then decide (f = 5) else decide (1 ≤ f ∧ f ≤ 4)
def layerFmt (f : Nat) : Bool := decide (f = 1 ∨ f = 2 ∨ f = 3 ∨ f = 6)

/-! ### Blocks (R424, R425) -/

def blocksW (d : List Byte) : Nat := (sdW d + 7) / 8
def blocksH (d : List Byte) : Nat := (sdH d + 7) / 8

/-- Logical (R, G, B, A) of a pixel's bytes in formats 1 and 2, and back. -/
def logical (f : Nat) (p : List Byte) : List Nat :=
  let b (i : Nat) : Nat := leAt p i 1
  if f = 2 then [b 2, b 1, b 0, b 3] else [b 0, b 1, b 2, b 3]
def physical (f : Nat) (c : List Nat) : List Byte :=
  let b (i : Nat) : Byte := BitVec.ofNat 8 (c.getD i 0)
  if f = 2 then [b 2, b 1, b 0, b 3] else [b 0, b 1, b 2, b 3]

/-- The coded channels G, R − G, B − G, A of a pixel, and back. -/
def codedOf (c : List Nat) : List Nat :=
  let r := c.getD 0 0
  let g := c.getD 1 0
  let b := c.getD 2 0
  [g, (r + 256 - g) % 256, (b + 256 - g) % 256, c.getD 3 0]
def uncoded (c : List Nat) : List Nat :=
  let g := c.getD 0 0
  [(c.getD 1 0 + g) % 256, g, (c.getD 2 0 + g) % 256, c.getD 3 0]

/-- The zigzag code of a residual, and its inverse. -/
def zig (r : Nat) : Nat := if r < 128 then 2 * r else 2 * (256 - r) - 1
def unzig (z : Nat) : Nat := if z % 2 = 0 then z / 2 else (256 - (z + 1) / 2) % 256

/-- The residuals of one channel, in raster order from (1, 0); `ch` holds its 64 values. -/
def residuals (ch : List Nat) : List Nat :=
  (List.range 63).map fun k =>
    let i := k + 1
    let p := if i % 8 = 0 then i - 8 else i - 1
    zig ((ch.getD i 0 + 256 - ch.getD p 0) % 256)

/-- The least width that holds every value. -/
def widthOf (zs : List Nat) : Nat :=
  ((List.range 9).find? fun w => zs.all fun z => decide (z < 2 ^ w)).getD 8

/-- Append fields (value, width) to a bit stream held as a number with its length. -/
def packBits (fs : List (Nat × Nat)) : Nat × Nat :=
  fs.foldl (fun (a : Nat × Nat) f => (a.1 + 2 ^ a.2 * (f.1 % 2 ^ f.2), a.2 + f.2)) (0, 0)

/-- The bit stream of a block of 64 logical pixels: its value and its number of bits. -/
def encodeBits (px : List (List Nat)) : Nat × Nat :=
  let cs := px.map codedOf
  let chans := (List.range 4).map fun c => cs.map fun p => p.getD c 0
  let zs := chans.map residuals
  packBits ((List.zipWith (fun ch z => [(ch.getD 0 0, 8), (widthOf z, 4)]) chans zs).flatten ++
    (zs.flatMap fun z => z.map fun v => (v, widthOf z)))

/-- A block as R426 writes it: metadata code and the sectors' bytes. -/
def encodeBlock (f : Nat) (clear : List Nat) (px : List (List Nat)) : Nat × List Byte :=
  if px.all fun p => decide (p = clear) then (0, [])
  else
    let e := encodeBits px
    let m := (e.2 + 255) / 256
    if m ≤ 7 then (m, leBytes (32 * m) e.1) else (8, px.flatMap (physical f))

/-- Values of a channel from its first value and residuals. -/
def unresidual (v0 : Nat) (zs : List Nat) : List Nat :=
  zs.foldl (fun (ch : List Nat) z =>
    let i := ch.length
    let p := if i % 8 = 0 then i - 8 else i - 1
    ch ++ [(ch.getD p 0 + unzig z) % 256]) [v0]

/-- The 64 logical pixels of a block; none for a reserved code (R426). -/
def decodeBlock (f : Nat) (clear : List Nat) (code : Nat) (slot : List Byte) : Option (List (List Nat)) :=
  if code = 0 then some (List.replicate 64 clear)
  else if code = 8 then some ((List.range 64).map fun i => logical f (slice slot (4 * i) 4))
  else if 8 < code then none
  else
    let v := leNat (slice slot 0 (32 * code))
    let ws := (List.range 4).map fun c => bits v (12 * c + 8) 4
    if ws.any fun w => decide (8 < w) then none
    else
      let offs := (List.range 4).map fun c => 48 + 63 * ((ws.take c).foldl (· + ·) 0)
      let chans := (List.range 4).map fun c =>
        let w := ws.getD c 0
        unresidual (bits v (12 * c) 8) ((List.range 63).map fun k => bits v (offs.getD c 0 + w * k) w)
      some ((List.range 64).map fun i => uncoded (chans.map fun ch => ch.getD i 0))

/-- Pixels of a block beyond the surface's edge repeat the nearest pixel of their row, or of the row above (R424). -/
def padBlock (d : List Byte) (bx by_ : Nat) (px : List (List Nat)) : List (List Nat) :=
  (List.range 64).map fun i =>
    let x := min (i % 8) (sdW d - 1 - 8 * bx)
    let y := min (i / 8) (sdH d - 1 - 8 * by_)
    px.getD (8 * y + x) []

/-! ### Channel values -/

/-- A fraction n ÷ 255 as a value good for one rounding. -/
def over255 (n : Nat) : Num := let q := n * 2 ^ 64 / 255; .fin false (2 * q + b2n (decide (n * 2 ^ 64 % 255 ≠ 0))) (-65)

/-- Channel maxima of a fixed-point format. -/
def chanMax (f : Nat) : List Nat := if f = 3 then [1023, 1023, 1023, 3] else if f = 6 then [31, 63, 31, 0] else [255, 255, 255, 255]

/-- The channels of a pixel's bytes as integers (fixed-point formats). -/
def unpackPix (f : Nat) (p : List Byte) : List Nat :=
  let v := leNat p
  match f with
  | 3 => [bits v 0 10, bits v 10 10, bits v 20 10, bits v 30 2]
  | 6 => [bits v 11 5, bits v 5 6, bits v 0 5, 0]
  | _ => logical f p

def packPix (f : Nat) (c : List Nat) : List Byte :=
  let g (i : Nat) : Nat := c.getD i 0
  match f with
  | 3 => leBytes 4 (g 0 + 2 ^ 10 * g 1 + 2 ^ 20 * g 2 + 2 ^ 30 * g 3)
  | 6 => leBytes 2 (g 2 + 2 ^ 5 * g 1 + 2 ^ 11 * g 0)
  | _ => physical f c

/-- A value times a maximum, rounded to nearest, ties to even; a value outside 0 to 1 has no stated result. -/
def toUnorm (mx : Nat) (scaled : Num) : Nat :=
  match scaled with
  | .fin n m e =>
    let k := roundInt n m e
    if 0 ≤ k ∧ k ≤ mx then k.toNat else Config.openLane 0x104 mx (toBits 64 k) % (mx + 1)
  | x => Config.openLane 0x104 mx (toF32 x) % (mx + 1)

/-- Premultiplied source-over of one fixed-point channel, scaled by its maximum: src × max + dst × (1 − α) (R427). -/
def overUnorm (mx dst : Nat) (src alpha : Num) : Nat :=
  toUnorm mx ((src.mul (numInt mx)).add ((numInt dst).mul ((numInt 1).add alpha.neg)))

/-- A colour's bytes in a target's format: `blend` over the bytes held, or in their place. -/
def colourBytes (f : Nat) (blend : Bool) (held : List Byte) (src : List Num) : List Byte :=
  let a := src.getD 3 .nan
  if f = 4 then
    (List.range 4).flatMap fun i =>
      let s := src.getD i .nan
      let v := if blend then s.add ((decodeF fp16 (leAt held (2 * i) 2)).mul ((numInt 1).add a.neg)) else s
      leBytes 2 (cvtLane 3 true v).1
  else
    let ms := chanMax f
    let cs := unpackPix f held
    packPix f ((List.range 4).map fun i =>
      overUnorm (ms.getD i 0) (if blend then cs.getD i 0 else 0) (src.getD i .nan) (if blend then a else numInt 1))

/-- A clear colour's bytes in a format. -/
def clearBytes (f : Nat) (rgba : List Byte) : List Byte :=
  if f ≤ 2 then physical f ((List.range 4).map fun i => leAt rgba i 1)
  else colourBytes f false [] ((List.range 4).map fun i => over255 (leAt rgba i 1))

end Sys2Proof.Machine
end

