-- ==== Sys2Proof/Machine/Graphics.lean ====
section
/-! DEFINITION. Graphics jobs (R411 to R423): the command stream, contexts, passes, clears, draws and the scoreboard. The
shader binaries' format is private (R412): the fragments of a DRAW come with the command. -/

namespace Sys2Proof.Machine

/-- Why a graphics command stops: a memory error, a wait for a staging page, or a graphics fault. -/
inductive GErr where
  | mem (e : MErr)
  | wait (va : Nat)
  | fault (kind : Nat)
deriving DecidableEq, Repr

/-- The job's state with the first error met. -/
structure Gio where
  s : State
  q : Nat
  idx : Nat
  err : Option GErr

def Gio.job (g : Gio) : Option Job := g.s.job g.q g.idx
def Gio.fail (g : Gio) (e : GErr) : Gio := { g with err := match g.err with | some x => some x | none => some e }

/-- The graphics core's accesses. -/
def gfxWho (s : State) (j : Job) : Who := jobWho j 0x40 (jobPkt s j).opcode (jobPkt s j).seq

/-- An engine's access to the pieces of a range. -/
def piecesTouch (s : State) (j : Job) (w : Who) (wr : Bool) (ps : List Piece) : State :=
  ps.foldl (fun u p => jobTouch u j w wr p) s

/-- Read as the attempt sees memory (R323, R415). -/
def Gio.rd (g : Gio) (va n : Nat) : Gio × List Byte :=
  let zero := List.replicate n (0 : Byte)
  match g.err, g.job with
  | none, some j =>
    let w := gfxWho g.s j
    (match jobPieces g.s w va n false with
     | (s1, .error e) => ({ g with s := s1, err := some (.mem e) }, zero)
     | (s1, .ok ps) =>
       match piecesPoison s1 j true ps with
       | some l => ({ g with s := s1, err := some (.mem (.poison (64 * l))) }, zero)
       | none =>
         let r := copyRead j true ps (piecesTouch s1 j w false ps)
         ({ g with s := r.1 }, r.2))
  | _, _ => (g, zero)

/-- Stage a write (R415, R544). -/
def Gio.wr (g : Gio) (va : Nat) (bs : List Byte) : Gio :=
  match g.err, g.job with
  | none, some j =>
    let w := gfxWho g.s j
    (match jobPieces g.s w va bs.length true with
     | (s1, .error e) => { g with s := s1, err := some (.mem e) }
     | (s1, .ok ps) =>
       if !ckptFits s1 j (copyNewPages j ps) then { g with err := some (.wait va) }
       else
         let s2 := piecesTouch s1 j w true ps
         match s2.job g.q g.idx with
         | none => g
         | some x => { g with s := s2.setJob { stagePieces s2 ps bs x with waitPage := none } })
  | _, _ => g

/-! ### Pixels of a target -/

/-- Nibble `n` of the metadata. -/
def metaCode (g : Gio) (d : List Byte) (n : Nat) : Gio × Nat :=
  let r := g.rd (sdMeta d + n / 2) 1
  (r.1, if n % 2 = 0 then leNat r.2 % 16 else leNat r.2 / 16)

def setMeta (g : Gio) (d : List Byte) (n code : Nat) : Gio :=
  let r := g.rd (sdMeta d + n / 2) 1
  let v := leNat r.2
  r.1.wr (sdMeta d + n / 2) (leBytes 1 (if n % 2 = 0 then v / 16 * 16 + code else v % 16 + 16 * code))

/-- The 64 logical pixels of a block; a reserved code is poison (R426). -/
def readBlock (g : Gio) (d : List Byte) (bx by_ : Nat) : Gio × List (List Nat) :=
  let n := by_ * blocksW d + bx
  let c := metaCode g d n
  let r := if c.2 = 0 then (c.1, []) else c.1.rd (sdData d + 256 * n) (32 * min c.2 8)
  match decodeBlock (sdFmt d) (logical 1 (sdClear d)) c.2 r.2 with
  | some px => (r.1, px)
  | none =>
    let pa := match r.1.job with
      | some j => (match jobPieces r.1.s (gfxWho r.1.s j) (sdData d + 256 * n) 64 false with
        | (_, .ok (p :: _)) => p.pa
        | _ => 0)
      | none => 0
    (r.1.fail (.mem (.poison pa)), List.replicate 64 [0, 0, 0, 0])

/-- Write a block as R426 says; the sectors written. -/
def writeBlock (g : Gio) (d : List Byte) (bx by_ : Nat) (px : List (List Nat)) : Gio × Nat :=
  let n := by_ * blocksW d + bx
  let e := encodeBlock (sdFmt d) (logical 1 (sdClear d)) (padBlock d bx by_ px)
  let g1 := if e.2.isEmpty then g else g.wr (sdData d + 256 * n) e.2
  (setMeta g1 d n e.1, e.2.length / 32)

/-- One pixel's bytes. -/
def getPixel (g : Gio) (d : List Byte) (x y : Nat) : Gio × List Byte :=
  if sdMeta d = 0 then g.rd (sdData d + y * sdPitch d + x * pixSize (sdFmt d)) (pixSize (sdFmt d))
  else
    let r := readBlock g d (x / 8) (y / 8)
    (r.1, physical (sdFmt d) (r.2.getD (8 * (y % 8) + x % 8) []))

def setPixel (g : Gio) (d : List Byte) (x y : Nat) (bs : List Byte) : Gio :=
  if sdMeta d = 0 then g.wr (sdData d + y * sdPitch d + x * pixSize (sdFmt d)) bs
  else
    let r := readBlock g d (x / 8) (y / 8)
    (writeBlock r.1 d (x / 8) (y / 8) (r.2.set (8 * (y % 8) + x % 8) (logical (sdFmt d) bs))).1

/-! ### The command stream (R411) -/

/-- Units of each operation; 0 for a reserved one. -/
def gfxUnits (op : Nat) : Nat :=
  match op with
  | 0x01 => 1
  | 0x02 => 1
  | 0x03 => 2
  | 0x04 => 2
  | 0x05 => 1
  | 0x06 => 2
  | 0x07 => 1
  | 0x0F => 1
  | _ => 0

/-- A graphics fault (R423). -/
def gfxFault (s : State) (j : Job) (kind : Nat) : State :=
  let s1 := ((s.setF GFX_FAULT.kind kind).setF GFX_FAULT.off (j.pos / 16)).addSat GFX_FAULTS.n 1
  restartJob s1 j 0x40 ((jobPkt s j).u 0 8 + j.pos)

/-- What the command at the stream position is for a row: not its turn, a faulty command, or the command's bytes. -/
inductive GfxAt where
  | no
  | bad (j : Job) (kind : Nat)
  | cmd (j : Job) (bytes : List Byte)

def gfxAt (s : State) (q idx op : Nat) : GfxAt :=
  match s.job q idx with
  | none => .no
  | some j =>
    if accepting s && !gated s 7 && decide (j.kind = .gfx ∧ j.phase = .running) && !j.gfxEnd && j.frags.isEmpty then
      if j.image.length < j.pos + 16 then .bad j 4
      else
        let w := leAt j.image j.pos 4
        let n := gfxUnits (bits w 0 8)
        if n = 0 ∨ bits w 8 8 ≠ n ∨ bits w 16 16 ≠ 0 then .bad j 1
        else if j.image.length < j.pos + 16 * n then .bad j 4
        else if bits w 0 8 = op then .cmd j (slice j.image j.pos (16 * n)) else .no
    else .no

/-- The command took effect: the stream moves on. -/
def gfxNext (s : State) (q idx n : Nat) (f : Job → Job) : State :=
  match s.job q idx with
  | some j => progress (s.setJob { f j with pos := j.pos + 16 * n }) q idx
  | none => s

/-- The end of a command that used memory: what it did, or its error; a command that must wait for a staging page has had
no effect and is carried out again. -/
def gfxEndCmd (s0 : State) (g : Gio) (n : Nat) (f : Job → Job) : State :=
  match g.err with
  | none => gfxNext g.s g.q g.idx n f
  | some (.wait va) => (match s0.job g.q g.idx with | some j => waitStaging s0 j va | none => s0)
  | some (.fault k) => (match g.job with | some j => gfxFault g.s j k | none => s0)
  | some (.mem (.xlat va _ _)) => (match g.job with | some j => endAccess g.s j va | none => s0)
  | some (.mem (.poison pa)) => (match g.job with | some j => jobPoison g.s j pa | none => s0)

/-- Carry out the command at the position: its rules (kind 0x1), then its effect. -/
def gfxCmd (s : State) (q idx op : Nat) (ok : List Byte → Bool) (eff : Job → List Byte → State) : State :=
  match gfxAt s q idx op with
  | .no => s
  | .bad j k => gfxFault s j k
  | .cmd j c => if ok c then eff j c else gfxFault s j 1

def gio (s : State) (q idx : Nat) : Gio := ⟨s, q, idx, none⟩

/-- TARGET (R411, R418); one that follows a DRAW or CLEAR begins the next pass, and waits for it (R413). -/
def execGfxTarget (q idx : Nat) (s : State) : Res :=
  .next (gfxCmd s q idx 0x01 (fun c => decide (leAt c 4 1 ≤ 4 ∧ leAt c 5 3 = 0)) fun j c =>
    let slot := leAt c 4 1
    let va := leAt c 8 8
    if j.drew then s
    else if va = 0 then gfxNext s q idx 1 fun x => { x with gfx := { x.gfx with targets := tabPut (fun _ => []) x.gfx.targets slot [] } }
    else
      let r := (gio s q idx).rd va 32
      let g := if surfaceOk r.2 && targetFmt slot (sdFmt r.2) then r.1 else r.1.fail (.fault 3)
      gfxEndCmd s g 1 fun x => { x with gfx := { x.gfx with targets := tabPut (fun _ => []) x.gfx.targets slot r.2 } })

/-- SHADER (R412). -/
def execGfxShader (q idx : Nat) (s : State) : Res :=
  .next (gfxCmd s q idx 0x02 (fun c => decide (leAt c 4 1 ≤ 1 ∧ leAt c 5 3 = 0)) fun _ c =>
    let va := leAt c 8 8
    let r := (gio s q idx).rd va 16
    let ok := decide (leAt r.2 0 4 = 0x52484453 ∧ leAt r.2 4 2 = 1 ∧ leNat (slice r.2 6 10) = 0)
    gfxEndCmd s (if ok then r.1 else r.1.fail (.fault 2)) 1 fun x =>
      { x with gfx := if leAt c 4 1 = 0 then { x.gfx with vertexShader := va + 1 } else { x.gfx with fragShader := va + 1 } })

/-- STATE (R411). -/
def execGfxState (q idx : Nat) (s : State) : Res :=
  .next (gfxCmd s q idx 0x03
    (fun c => decide (bits (leAt c 4 4) 5 2 ≠ 3 ∧ bits (leAt c 4 4) 12 20 = 0 ∧ leAt c 0x18 8 = 0)) fun _ c =>
    gfxNext s q idx 2 fun x => { x with gfx := { x.gfx with state := c } })

/-- VERTEX (R411). -/
def execGfxVertex (q idx : Nat) (s : State) : Res :=
  .next (gfxCmd s q idx 0x04
    (fun c => decide (4 ≤ leAt c 4 2 ∧ leAt c 4 2 ≤ 256 ∧ leAt c 4 2 % 4 = 0) &&
      decide (leAt c 6 2 = 0 ∧ leAt c 0x14 1 ≤ 2 ∧ leAt c 0x15 3 = 0)) fun _ c =>
    gfxNext s q idx 2 fun x => { x with gfx := { x.gfx with vertex := c } })

/-- A bound slot's descriptor; empty where none is bound. -/
def targetOf (g : GfxState) (slot : Nat) : List Byte := tabGet (fun _ => []) g.targets slot

/-- The descriptors bound, with their slots. -/
def boundTargets (g : GfxState) : List (Nat × List Byte) :=
  (List.range 5).filterMap fun k => if (targetOf g k).isEmpty then none else some (k, targetOf g k)

/-- The smallest width and height of the bound targets, and the bins of the pass (R420). -/
def passExtent (g : GfxState) : Nat × Nat :=
  match boundTargets g with
  | [] => (0, 0)
  | t :: ts => ts.foldl (fun e u => (min e.1 (sdW u.2), min e.2 (sdH u.2))) (sdW t.2, sdH t.2)

def passBins (g : GfxState) : Nat := let e := passExtent g; ((e.1 + 31) / 32) * ((e.2 + 31) / 32)

/-- BINS (R420). -/
def execGfxBins (q idx : Nat) (s : State) : Res :=
  .next (gfxCmd s q idx 0x07 (fun _ => true) fun j c =>
    if leAt c 4 4 % 4096 ≠ 0 ∨ leAt c 8 8 % 4096 ≠ 0 ∨ leAt c 4 4 < 64 * passBins j.gfx + 4096 then gfxFault s j 3
    else gfxNext s q idx 1 fun x => { x with gfx := { x.gfx with bins := c }, binned := true, binFill := 0 })

/-! ### CLEAR (R419) -/

/-- Clear one slot: metadata alone where the colour is the surface's clear, every pixel otherwise. -/
def clearSlot (g : Gio) (slot : Nat) (d rgba depth : List Byte) : Gio × Nat × Nat :=
  let f := sdFmt d
  let px := if slot = 4 then depth else clearBytes f rgba
  if sdMeta d = 0 then
    ((List.range (sdH d)).foldl (fun u y =>
      u.wr (sdData d + y * sdPitch d) ((List.range (sdW d)).flatMap fun _ => px)) g, 0, 0)
  else if rgba = sdClear d then
    ((List.range (blocksW d * blocksH d)).foldl (fun u n => setMeta u d n 0) g, 0, 0)
  else
    (List.range (blocksW d * blocksH d)).foldl (fun (u : Gio × Nat × Nat) n =>
      let r := writeBlock u.1 d (n % blocksW d) (n / blocksW d) (List.replicate 64 (logical f px))
      (r.1, u.2.1 + 1, u.2.2 + r.2)) (g, 0, 0)

/-- CLEAR (R411, R419): slots that are not bound are passed over. -/
def execGfxClear (q idx : Nat) (s : State) : Res :=
  .next (gfxCmd s q idx 0x06
    (fun c => decide (leAt c 4 1 < 32 ∧ leAt c 5 3 = 0 ∧ leNat (slice c 0x10 16) = 0)) fun j c =>
    let ts := (boundTargets j.gfx).filter fun t => bitB (leAt c 4 1) t.1
    let r := ts.foldl (fun (a : Gio × Nat × Nat) t =>
      let x := clearSlot a.1 t.1 t.2 (slice c 8 4) (slice c 0xC 4)
      (x.1, a.2.1 + x.2.1, a.2.2 + x.2.2)) (gio s q idx, 0, 0)
    let g := { r.1 with s := (r.1.s.addWrap GFX_BLOCKS.n r.2.1).addWrap GFX_SECTORS.n r.2.2 }
    gfxEndCmd s g 2 fun x => { x with drew := true })

/-! ### DRAW (R412, R414, R420 to R422) -/

/-- STATE's fields; zero for a context not yet used. -/
def gsFlags (g : GfxState) : Nat := leAt g.state 4 4
def gsScissor (g : GfxState) : Nat × Nat × Nat × Nat := (leAt g.state 0x10 2, leAt g.state 0x12 2, leAt g.state 0x14 2, leAt g.state 0x16 2)

/-- A fragment lies in the targets and the scissor. -/
def fragInside (g : GfxState) (f : Frag) : Bool :=
  let e := passExtent g
  let sc := gsScissor g
  decide (f.x < e.1 ∧ f.y < e.2) && decide (sc.1 ≤ f.x ∧ f.x < sc.1 + sc.2.2.1) &&
  decide (sc.2.1 ≤ f.y ∧ f.y < sc.2.1 + sc.2.2.2)

/-- The fragments are in submission order, with at most one fragment per pixel and primitive (R414). -/
def fragsOrdered : List Frag → Bool
  | [] => true
  | f :: t =>
    (t.all fun g => decide (f.prim < g.prim) || (decide (f.prim = g.prim) && !decide (f.x = g.x ∧ f.y = g.y))) && fragsOrdered t

/-- The primitives of a draw: lists take 3, 2 or 1 vertices each, a strip one per vertex after the second. -/
def primCount (topology count : Nat) : Nat :=
  match topology with
  | 0 => count / 3
  | 1 => count - 2
  | 2 => count / 2
  | _ => count

/-- The depth functions of R411. -/
def depthPass (k new old : Nat) : Bool :=
  let c := (f32 new).cmp (f32 old)
  match k with
  | 0 => false
  | 1 => c = some (-1)
  | 2 => c = some 0
  | 3 => c = some (-1) || c = some 0
  | 4 => c = some 1
  | 5 => c ≠ some 0
  | 6 => c = some 1 || c = some 0
  | _ => true

/-- A fragment performs its depth test, depth write and blend (R414, R422). -/
def applyFrag (st : GfxState) (g : Gio) (f : Frag) : Gio :=
  let fl := gsFlags st
  let dd := targetOf st 4
  let t := if dd.isEmpty then (g, [])
    else getPixel g dd f.x f.y
  let pass := dd.isEmpty || !bitB fl 0 || depthPass (bits fl 2 3) f.depth (leNat t.2)
  if !pass then t.1
  else
    let g1 := if !dd.isEmpty && bitB fl 1 then setPixel t.1 dd f.x f.y (leBytes 4 f.depth) else t.1
    (List.range 4).foldl (fun u k =>
      let d := targetOf st k
      if d.isEmpty then u
      else
        let p := getPixel u d f.x f.y
        setPixel p.1 d f.x f.y (colourBytes (sdFmt d) (bitB fl (8 + k)) p.2 ((f.colours.getD k []).map f32))) g1

/-- Vertex and index reads of a draw. -/
def drawReads (st : GfxState) (c : List Byte) (g : Gio) : Gio :=
  let v := st.vertex
  let first := leAt c 8 4
  let n := leAt c 0xC 4
  let stride := leAt v 4 2
  let addr := leAt v 8 8
  let len := leAt v 0x10 4
  let vertex (u : Gio) (i : Nat) : Gio := if stride * (i + 1) ≤ len then (u.rd (addr + stride * i) stride).1 else u
  if v.isEmpty then g
  else if leAt v 0x14 1 = 0 then (List.range n).foldl (fun u i => vertex u (first + i)) g
  else
    let w := 2 * leAt v 0x14 1
    let r := g.rd (leAt v 0x18 8 + w * first) (w * n)
    (List.range n).foldl (fun u i => vertex u (leAt r.2 (w * i) w)) r.1

/-- The bins each primitive covers, by its fragments. -/
def primBins (frags : List Frag) (p : Nat) : Nat :=
  (((frags.filter fun f => decide (f.prim = p)).map fun f => (f.x / 32, f.y / 32)).eraseDups).length

/-- Bin the primitives of a draw (R420, R421): entries used, splits, or a primitive that fits no empty buffer. -/
def binAll (cap : Nat) : List Nat → Nat × Nat → Option (Nat × Nat)
  | [], a => some a
  | n :: ns, (fill, splits) =>
    if cap < n then none
    else if cap < fill + n then binAll cap ns (n, splits + 1)
    else binAll cap ns (fill + n, splits)

/-- The bin buffer's bytes have no stated format: those used are free. -/
def binBytes (g : Gio) (st : GfxState) (fill : Nat) : Gio :=
  let f := g.s.fresh
  ({ g with s := f.2 } : Gio).wr (leAt st.bins 8 8) (leBytes (64 * passBins st + 8 * fill) f.1)

/-- DRAW (R411, R414): in binned mode its primitives are binned and its fragments apply in submission order, in direct
mode they go into flight and retire one by one. -/
def execGfxDraw (q idx : Nat) (frags : List Frag) (s : State) : Res :=
  .next (gfxCmd s q idx 0x05
    (fun c => decide (leAt c 4 1 ≤ 3 ∧ leAt c 5 3 = 0 ∧ 1 ≤ leAt c 0xC 4 ∧ leAt c 0xC 4 ≤ 16777216)) fun j c =>
    let st := j.gfx
    let direct := decide ((jobPkt s j).u 0xD 1 = 1)
    let fs := frags.filter (fragInside st)
    let np := primCount (leAt c 4 1) (leAt c 0xC 4)
    if st.vertexShader = 0 ∨ st.fragShader = 0 ∨ (boundTargets st).isEmpty ∨ (!direct && !j.binned) then gfxFault s j 5
    else if !fragsOrdered fs || fs.any (fun f => decide (np ≤ f.prim)) then s
    else
      let g := drawReads st c (gio s q idx)
      if direct then
        let w := g.s.fresh
        let g1 := if 16384 < ((fs.map fun f => (f.x, f.y)).eraseDups).length then
          { g with s := w.2.addSat GFX_SB_STALL.n w.1 } else g
        gfxEndCmd s g1 1 fun x => { x with drew := true, frags := fs }
      else if leAt st.bins 4 4 < 64 * passBins st + 4096 then gfxFault s j 3
      else
        match binAll ((leAt st.bins 4 4 - 64 * passBins st) / 8) ((List.range np).map (primBins fs)) (j.binFill, 0) with
        | none => gfxEndCmd s (g.fail (.fault 5)) 1 id
        | some (fill, splits) =>
          let g1 := fs.foldl (applyFrag st) (binBytes g st fill)
          let g2 := { g1 with s := (g1.s.addSat GFX_SPLITS.n splits).addWrap GFX_BINS.n (splits * passBins st) }
          gfxEndCmd s g2 1 fun x => { x with drew := true, binFill := fill })

/-- Fragment `n` in flight may retire (R422): every earlier fragment at its pixel has retired, and its pixel holds one of the
16,384 entries of the scoreboard, given out in submission order. -/
def mayRetire (fs : List Frag) (n : Nat) (f : Frag) : Bool :=
  !((fs.take n).any fun g => decide (g.x = f.x ∧ g.y = f.y)) &&
  decide (((fs.take n).map fun g => (g.x, g.y)).eraseDups.length < 16384)

/-- Fragment `n` in flight retires (R422). -/
def execFragmentRetire (q idx n : Nat) (s : State) : Res :=
  .next (match s.job q idx with
    | none => s
    | some j =>
      match j.frags[n]? with
      | none => s
      | some f =>
        if accepting s && !gated s 7 && decide (j.phase = .running) && mayRetire j.frags n f then
          gfxEndCmd s (applyFrag j.gfx (gio s q idx) f) 0 fun x => { x with frags := x.frags.eraseIdx n }
        else s)

/-- END (R411). -/
def execGfxEnd (q idx : Nat) (s : State) : Res :=
  .next (gfxCmd s q idx 0x0F (fun c => decide (leNat (slice c 4 12) = 0)) fun _ _ =>
    gfxNext s q idx 1 fun x => { x with gfxEnd := true })

/-! ### The job -/

/-- A JOB_GFX starts (R411, R417): its stream is read. -/
def startGfx (s : State) (p : Pkt) : State :=
  match startBytes s p 0 (p.u 0 8) (p.u 8 4) with
  | (t, .error e) => (match endPre t p e with | some u => u | none => t)
  | (t, .ok bs) => startJob t p { newJob t p .gfx 1 (p.u 0xE 1) with image := bs, gfx := (t.gfxCtx (p.u 0xC 1)).st }

/-- JOB_GFX (R411, R416, R417). -/
def execJobGfx (q idx : Nat) (s : State) : Res := carryDma s q idx 0x1002 noPre startGfx

/-- A pass has ended: the next command is the TARGET of the next pass, or END has come (R413). -/
def passOver (j : Job) : Bool :=
  j.frags.isEmpty && (j.gfxEnd || (j.drew && decide (leAt j.image j.pos 1 = 0x01)))

/-- The committed context state (R417). -/
def ctxCommit (s : State) (j : Job) : State :=
  let c := jobCtx s j
  { s with gctx := tabPut (fun _ => GfxCtx.init) s.gctx c { s.gfxCtx c with st := j.gfx } }

/-- Release the contexts of an instance (R416). -/
def dropCtxs (s : State) (i : Nat) : State :=
  (List.range 16).foldl (fun t c =>
    if (t.gfxCtx c).owner = some i then
      ({ t with gctx := tabPut (fun _ => GfxCtx.init) t.gctx c GfxCtx.init } : State).wr (GFX_CTX.addr c) 0
    else t) s

end Sys2Proof.Machine
end

