-- ==== Sys2Proof/Machine/KernelEnd.lean ====
section
/-! DEFINITION. The end of a kernel (R292, R294, R316, R358, R361, R384, R413, R540, R551). -/

namespace Sys2Proof.Machine

/-- The commit flag of a job's packet (R109). -/
def jobCommits (s : State) (j : Job) : Bool := bitB (jobPkt s j).flags 3

/-- A kernel of a job has ended: the next is ready, or the job's last has ended; with commit = 0 its staged writes become
committed at once (R551). A quiesce in stop mode ends the job at this boundary, nothing of it committed (R191). -/
def kernelDone (s : State) (q idx : Nat) (last : Bool) : State :=
  match s.job q idx with
  | none => s
  | some j =>
    let s1 := j.units.foldl freeUnit s
    let j1 := { j with kernel := j.kernel + 1, units := [], kvSeen := [], kvBase := [], progressAt := s.now }
    if last then
      let j2 := { j1 with phase := .ended, endedAt := s.now }
      let s2 := updLag (s1.setJob j2)
      if (s.inst j.inst).busy = 2 then boundary s2 j2
      else if jobCommits s j then s2 else commitPlain s2 j2 j2.status 0
    else
      let j2 := { j1 with phase := .ready, readyAt := s.now }
      boundary (updLag (s1.setJob j2)) j2

/-- A tile leaves its kernel (R358): its statistics join the attempt's; its cycle and retry counts are timing. -/
def leaveTile (q idx : Nat) (checker : Bool) (s : State) (t : Nat) : State :=
  let r := s.tile t
  let s2 := tileCycles q idx s t
  let s3 := match s2.job q idx with
    | some j => if checker then s2 else s2.setJob { j with stats := r.stats.foldl (fun (m : List (Nat × QStat)) e =>
        tabPut (fun _ => QStat.init) m e.1 (addQStat (tabGet (fun _ => QStat.init) m e.1) e.2)) j.stats }
    | none => s2
  freeTile s3 t

/-- A tile kernel ends when all its tiles have executed END (R316). -/
def endTiles (s : State) (j : Job) : State :=
  let ts := kernelTiles s j
  if ts.all fun t => (s.tile t).ended then
    let s1 := ts.foldl (fun u t =>
      let u1 := leaveTile j.q j.idx false u t
      if lanePaired s j.lane then leaveTile j.q j.idx true u1 (t + 1) else u1) s
    kernelDone s1 j.q j.idx (decide (j.nKernel ≤ j.kernel + 1))
  else s

/-- An attention kernel ends after its last step. -/
def endAttn (s : State) (j : Job) : State :=
  if leAt (attnHead j.image (kernelDesc j j.kernel)) 0 2 ≤ j.pos then
    let f := s.fresh
    kernelDone (energyAdd f.2 j.q j.idx 8 (f.1 * j.units.length)) j.q j.idx (decide (j.nKernel ≤ j.kernel + 1))
  else s

/-- A search kernel: its results are staged; the last one adds the header (R160, R384). -/
def endSearch (s : State) (j : Job) : State :=
  let p := jobPkt s j
  match s.idx (p.u 0 2) with
  | none => s
  | some x =>
    let last := decide (j.nKernel ≤ j.kernel + 1)
    let nq := min (p.u 4 4) (1024 * j.kernel + 1024) - 1024 * j.kernel
    let r := searchRun s j x
    match r.1.err with
    | some (.xlat va _ _) => endAccess r.1.s j va
    | some (.poison pa) => jobPoison r.1.s j pa
    | none =>
      let em := j.empties + r.2.2.1
      let g0 : Gio := ⟨r.1.s, j.q, j.idx, none⟩
      let g1 := g0.wr (p.u 0x10 8 + 16 + 1024 * j.kernel * resultLen p) r.2.1
      let g := if last then g1.wr (p.u 0x10 8) (resultHead p j em) else g1
      match g.err with
      | some (.wait va) => waitStaging s j va
      | some (.mem (.xlat va _ _)) => endAccess g.s j va
      | some (.mem (.poison pa)) => jobPoison g.s j pa
      | some (.fault _) => s
      | none =>
        let s1 := searchCount g.s j nq r.2.2.1 r.2.2.2
        match s1.job j.q j.idx with
        | none => s
        | some y => kernelDone (s1.setJob { y with
            empties := em, status := if last ∧ em = p.u 4 4 then 0x70 else 0 }) j.q j.idx last

/-- The build's kernel (R403). -/
def endBuild (s : State) (j : Job) : State :=
  let r := buildRun s j
  match r.1.err with
  | some (.xlat va _ _) => endAccess r.1.s j va
  | some (.poison pa) => jobPoison r.1.s j pa
  | none =>
    let s1 := buildCount r.1.s j
    match s1.job j.q j.idx with
    | none => s
    | some y => kernelDone (s1.setJob { y with bound := r.2.bound, pos := r.2.pos, empties := r.2.empties }) j.q j.idx true

/-- A graphics pass ends (R413, R421): its bins have been rendered; block, sector and cycle counts of its draws are open. -/
def endPass (s : State) (j : Job) : State :=
  if passOver j then
    let s1 := (s.addWrap GFX_PASSES.n 1).addWrap GFX_BINS.n (if j.binned ∧ j.drew then passBins j.gfx else 0)
    let comp := (boundTargets j.gfx).any fun t => decide (sdMeta t.2 ≠ 0)
    let s3 := passCount s1 j (comp && j.drew)
    match s3.job j.q j.idx with
    | none => s
    | some y => kernelDone (s3.setJob { y with drew := false, binned := false, binFill := 0 }) j.q j.idx j.gfxEnd
  else s

/-- KERNEL_END (R292, R294): the running kernel of a job ends once its work is done. -/
def execKernelEnd (q idx : Nat) (s : State) : Res :=
  .next (match s.job q idx with
    | none => s
    | some j =>
      if accepting s && decide (j.phase = .running) then
        match j.kind with
        | .run => if needKind j = 0 then endTiles s j else endAttn s j
        | .search => if gated s 6 then s else paceAct (.job q idx) (fun t => endSearch t j) s
        | .build => if gated s 6 then s else paceAct (.job q idx) (fun t => endBuild t j) s
        | .gfx => endPass s j
      else s)

end Sys2Proof.Machine
end

