-- ==== Sys2Proof/Machine/Display.lean ====
section
/-! DEFINITION. The display engine (R427 to R434) and its opcode STREAM_DISPLAY (R168): latching at a vertical blank, link
training, composition, underruns and the hot-plug inputs. -/

namespace Sys2Proof.Machine

def State.disp (s : State) (o : Nat) : DispRec := tabGet (fun _ => DispRec.init) s.io.disp o
def State.setDisp (s : State) (o : Nat) (r : DispRec) : State :=
  { s with io := { s.io with disp := tabPut (fun _ => DispRec.init) s.io.disp o r } }

/-- The Sage record of an output (R433). -/
def State.setDispSaved (s : State) (o : Nat) (r : Option (Nat × Nat × Nat)) : State :=
  { s with io := { s.io with dispSaved := tabPut (fun _ => none) s.io.dispSaved o r } }

/-- A device acting for an instance (R263); `urg` names its urgency master (R286). -/
def devWho (master inst cls urg : Nat) : Who := ⟨master, inst, none, cls, urg, noCtx⟩

/-- The display engine fetching for an output. -/
def dispWho (s : State) (o : Nat) : Who := devWho 0x48 (s.getF (DISP_OUT_STATE.owner o)) 0 o

/-! ### Timing blocks -/

/-- Active pixels of a line, and active lines of a frame. -/
def tmHActive (t : List Byte) : Nat := leAt t 4 2
@[inherit_doc tmHActive] def tmVActive (t : List Byte) : Nat := leAt t 0xC 2
/-- Bits per pixel of an output (R429). -/
def tmBpp (t : List Byte) : Nat := if bitB (leAt t 0x14 1) 2 then 30 else 24
/-- The largest channel value of an output. -/
def tmMax (t : List Byte) : Nat := if bitB (leAt t 0x14 1) 2 then 1023 else 255

/-- The link carries the pixel clock (R429): rates in kbit/s. -/
def linkCarries (o : Nat) (t : List Byte) : Bool :=
  let need := leAt t 0 4 * tmBpp t
  let lanes := leAt t 0x15 1
  if o < 2 then decide (need * 10 ≤ lanes * ([1620000, 2700000, 5400000, 8100000] : List Nat).getD (leAt t 0x16 1) 0 * 8)
  else decide (need ≤ 2500000 * lanes)

/-! ### Layer entries (R428) -/

/-- The fields of a layer entry that have rules of their own. -/
def layerEntryOk (e : List Byte) : Bool := decide (leAt e 0x25 1 ≤ 1 ∧ leAt e 0x26 10 = 0)

/-- The surface of a layer entry may be shown (R418); otherwise the layer is at fault and supplies transparent pixels. -/
def layerShown (e : List Byte) : Bool := surfaceOk (e.take 32) && layerFmt (sdFmt e)

/-- Bytes a packet names, read when its work starts with the reach of its instance. -/
def pktBytes (s : State) (p : Pkt) (off va n : Nat) : State × Except PreFail (List Byte) :=
  match rangeCheck s (pktWho p false) off va n false with
  | (s1, .ok) =>
    (match peekBytes s1 (pktWho p false) va n with
     | (s2, .ok bs) => (s2, .ok bs)
     | (s2, .error (.poison pa)) => (s2, .error (.poison pa))
     | (s2, .error (.xlat a _ _)) => (s2, .error (.xlat off a)))
  | (s1, e) => (s1, .error e)

/-- The layer and timing blocks at two addresses, judged: the layer entries and the timing block. -/
def readBlocks (s : State) (p : Pkt) (o layerVa timingVa : Nat) : State × Except PreFail (List (List Byte) × List Byte) :=
  match pktBytes s p 8 layerVa 8 with
  | (s1, .error e) => (s1, .error e)
  | (s1, .ok h) =>
    if !layerHeadOk h then (s1, .error (.bad 0x28))
    else match pktBytes s1 p 8 (layerVa + 8) (48 * leAt h 0 1) with
      | (s2, .error e) => (s2, .error e)
      | (s2, .ok bs) =>
        let es := records 48 bs (leAt h 0 1)
        match pktBytes s2 p 0x10 timingVa 32 with
        | (s3, .error e) => (s3, .error e)
        | (s3, .ok t) =>
          if !(es.all layerEntryOk) then (s3, .error (.bad 0x28))
          else if !(timingOk o t && linkCarries o t) then (s3, .error (.bad 0x30))
          else (s3, .ok (es, t))

/-- The preconditions of STREAM_DISPLAY (R144, R168, R429). -/
def preStreamDisplay (s : State) (p : Pkt) : State × PreFail :=
  if p.u 1 1 = 0 then (s, .ok)
  else match readBlocks s p (p.u 0 1) (p.u 8 8) (p.u 0x10 8) with
    | (s1, .error e) => (s1, e)
    | (s1, .ok _) => (s1, .ok)

/-- The output is enabled. -/
def outEnabled (s : State) (o : Nat) : Bool := s.flag (DISP_OUT_STATE.enabled o)

/-- A STREAM_DISPLAY waits for its output's next vertical blank; switching off a stopped output is done at once (R168). -/
def startDisplay (s : State) (p : Pkt) : State :=
  if p.u 1 1 = 0 && !outEnabled s (p.u 0 1) then complete s p 0 (s.getF (DISP_FRAME.n (p.u 0 1))) 0
  else s.setPkt { p with phase := .waiting }

/-- STREAM_DISPLAY (R168). -/
def execStreamDisplay (q idx : Nat) (s : State) : Res := carryDma s q idx 0x3001 preStreamDisplay startDisplay

/-! ### Enabling and stopping -/

/-- Stop an output and clear its record (R433). -/
def stopOutput (s : State) (o : Nat) : State :=
  let s1 := ((s.setF (DISP_OUT_STATE.enabled o) 0).setF (DISP_OUT_STATE.showing o) 0).setF (DISP_OUT_STATE.link_up o) 0
  let s2 := (s1.setF (DISP_OUT_STATE.lanes o) 0).setF (DISP_OUT_STATE.owner o) 0
  (s2.setDispSaved o none).setDisp o DispRec.init

/-- Latch blocks that have been read (R430): a changed timing block, or a stopped output, trains the link. -/
def latchOutput (s : State) (o inst layerVa timingVa : Nat) (es : List (List Byte)) (t : List Byte) : State :=
  let train := !outEnabled s o || decide ((s.disp o).timing ≠ t)
  let s1 := (s.setF (DISP_OUT_STATE.enabled o) 1).setF (DISP_OUT_STATE.owner o) inst
  let s2 := s1.setF (DISP_OUT_STATE.lanes o) (leAt t 0x15 1)
  let s3 := if train then (s2.setF (DISP_OUT_STATE.link_up o) 0).setF (DISP_OUT_STATE.showing o) 0 else s2
  (s3.setDispSaved o (some (inst, layerVa, timingVa))).setDisp o { s3.disp o with layers := es, timing := t }

/-- Packets waiting for an output's blank, in the order of consumption: STREAM_DISPLAY and STREAM_STOP. -/
def blankPkts (s : State) (o : Nat) : List Pkt :=
  s.pkts.filter fun p => decide (p.phase = .waiting) &&
    (decide (p.opcode = 0x3001 ∧ p.u 0 1 = o) || decide (p.opcode = 0x3005 ∧ p.u 0 1 = 1 ∧ p.u 1 1 = o))

/-- One waiting packet takes effect at the blank (R168, R171, R430). An output that another instance has enabled since the
packet's checks stays that instance's: the packet fails check 5. -/
def blankPkt (o : Nat) (s : State) (p : Pkt) : State :=
  let frames := s.getF (DISP_FRAME.n o)
  if outEnabled s o && decide (s.getF (DISP_OUT_STATE.owner o) ≠ p.inst) then failCheck s p 5 (if p.opcode = 0x3005 then 0x21 else 0x20) 0
  else if p.opcode = 0x3005 then complete (stopOutput s o) p 0 0 0
  else if p.u 1 1 = 0 then complete (stopOutput s o) p 0 frames 0
  else match readBlocks s p o (p.u 8 8) (p.u 0x10 8) with
    | (s1, .error e) => (endPre s1 p e).getD s1
    | (s1, .ok (es, t)) => complete (latchOutput s1 o p.inst (p.u 8 8) (p.u 0x10 8) es t) p 0 frames 0

/-! ### Fetching layers (R431) -/

/-- What a fetch in progress carries: the state, and whether the layer has met a translation fault in this frame. -/
structure Fetch where
  s : State
  dead : Bool

/-- One read of at most 64 bytes: poison counts and gives nothing; a translation fault ends the layer for the frame. -/
def fetchPart (o : Nat) (f : Fetch) (va n : Nat) : Fetch × Option (List Byte) :=
  if f.dead then (f, none)
  else match dmaRead f.s (dispWho f.s o) va n with
    | (s1, .ok bs) => ({ f with s := s1 }, some bs)
    | (s1, .error (.poison _)) => ({ f with s := s1.addSat (DISP_POISON.n o) 1 }, none)
    | (s1, .error (.xlat _ _ _)) => (⟨s1.addSat (DISP_XLT.n o) 1, true⟩, none)

/-- Consecutive reads of 64 bytes covering `n` bytes. -/
def fetchParts (o va n : Nat) (f : Fetch) : Fetch × List (Nat × Option (List Byte)) :=
  (List.range ((n + 63) / 64)).foldl (fun r k =>
    let len := min 64 (n - 64 * k)
    let x := fetchPart o r.1 (va + 64 * k) len
    (x.1, r.2 ++ [(len, x.2)])) (f, [])

/-- The channels of the pixels in one part of a row; transparent where nothing was read. -/
def partPixels (fmt : Nat) (part : Nat × Option (List Byte)) : List (Option (List Nat)) :=
  let ps := pixSize fmt
  (List.range (part.1 / ps)).map fun i => part.2.map fun bs => unpackPix fmt (slice bs (ps * i) ps)

/-- A row of an uncompressed surface. -/
def fetchRow (o : Nat) (d : List Byte) (y : Nat) (f : Fetch) : Fetch × List (Option (List Nat)) :=
  let r := fetchParts o (sdData d + sdPitch d * y) (sdW d * pixSize (sdFmt d)) f
  (r.1, r.2.flatMap (partPixels (sdFmt d)))

/-- A block of a compressed surface (R424, R426): 64 pixels, or none where it could not be read or its code is reserved. -/
def fetchBlock (o : Nat) (d : List Byte) (bx by_ : Nat) (f : Fetch) : Fetch × Option (List (List Nat)) :=
  let n := by_ * blocksW d + bx
  match fetchPart o f (sdMeta d + n / 2) 1 with
  | (f1, none) => (f1, none)
  | (f1, some m) =>
    let code := if n % 2 = 0 then leNat m % 16 else leNat m / 16
    let r := if code = 0 then (f1, []) else fetchParts o (sdData d + 256 * n) (32 * min code 8) f1
    if r.2.any fun x => x.2.isNone then (r.1, none)
    else match decodeBlock (sdFmt d) (logical 1 (sdClear d)) code (r.2.flatMap fun x => x.2.getD []) with
      | some px => (r.1, some px)
      | none => ({ r.1 with s := r.1.s.addSat (DISP_POISON.n o) 1 }, none)

/-- The eight rows of a block row. -/
def fetchBlockRow (o : Nat) (d : List Byte) (by_ : Nat) (f : Fetch) : Fetch × List (List (Option (List Nat))) :=
  let r := (List.range (blocksW d)).foldl (fun (a : Fetch × List (Option (List (List Nat)))) bx =>
    let x := fetchBlock o d bx by_ a.1
    (x.1, a.2 ++ [x.2])) (f, [])
  (r.1, (List.range 8).map fun y => (r.2.flatMap fun b => (List.range 8).map fun x =>
    b.bind fun px => px[8 * y + x]?).take (sdW d))

/-- The rows of a surface that an output of `h` lines shows with the surface's top at line `y`, by surface row. -/
def fetchLayer (o : Nat) (d : List Byte) (y : Int) (h : Nat) (f : Fetch) : Fetch × List (Nat × List (Option (List Nat))) :=
  let seen (r : Nat) : Bool := decide (0 ≤ y + r ∧ y + r < h)
  if sdMeta d = 0 then
    ((List.range (sdH d)).filter seen).foldl (fun a r => let x := fetchRow o d r a.1; (x.1, a.2 ++ [(r, x.2)])) (f, [])
  else
    ((List.range (blocksH d)).filter fun b => (List.range 8).any fun k => seen (8 * b + k)).foldl (fun a b =>
      let x := fetchBlockRow o d b a.1
      (x.1, a.2 ++ x.2.zipIdx.map fun e => (8 * b + e.2, e.1))) (f, [])

/-! ### Composition (R427) -/

/-- A layer as fetched: its position, alpha, premultiplied flag, format and rows. -/
structure LayerImg where
  x : Int
  y : Int
  galpha : Nat
  pre : Bool
  fmt : Nat
  rows : List (Nat × List (Option (List Nat)))

/-- The pixel a layer supplies at a position of the active area. -/
def layerPixel (l : LayerImg) (x y : Nat) : Option (List Nat) :=
  let dx := (x : Int) - l.x
  let dy := (y : Int) - l.y
  if dx < 0 ∨ dy < 0 then none
  else match l.rows.find? fun e => decide ((e.1 : Int) = dy) with
    | some e => (e.2[dx.toNat]?).bind id
    | none => none

/-- One channel of one layer over an exact fraction (numerator, denominator). -/
def overFrac (l : LayerImg) (c cMax a aMax : Nat) (dst : Nat × Nat) : Nat × Nat :=
  let aN := a * l.galpha
  let aD := aMax * 255
  let src := if l.pre then (c * l.galpha, cMax * 255) else (c * aN, cMax * aD)
  (src.1 * dst.2 * aD + dst.1 * (aD - aN) * src.2, src.2 * dst.2 * aD)

/-- A fraction rounded once to the output depth; one above 1 has no stated result. -/
def roundChannel (mx : Nat) (v : Nat × Nat) : Nat :=
  let r := divRne (v.1 * mx) v.2
  if r ≤ mx then r else Config.openLane 0x105 mx r % (mx + 1)

/-- The pixel an output sends: the background, then every layer above it. -/
def composePixel (mx : Nat) (bg : List Nat) (ls : List LayerImg) (x y : Nat) : List Nat :=
  (List.range 3).map fun ch =>
    roundChannel mx (ls.foldl (fun dst l => match layerPixel l x y with
      | none => dst
      | some px =>
        let ms := chanMax l.fmt
        let a := if l.fmt = 6 then (1, 1) else (px.getD 3 0, ms.getD 3 1)
        overFrac l (px.getD ch 0) (ms.getD ch 1) a.1 a.2 dst) (bg.getD ch 0, 255))

/-- The background colour of a timing block. -/
def bgOf (t : List Byte) : List Nat := (List.range 3).map fun i => leAt t (0x18 + i) 1

/-- The pixels of a whole frame. -/
def frameOf (t : List Byte) (ls : List LayerImg) : List (List (List Nat)) :=
  (List.range (tmVActive t)).map fun y => (List.range (tmHActive t)).map fun x => composePixel (tmMax t) (bgOf t) ls x y

/-- Fetch the layers of an output, lowest first; a layer at fault supplies nothing. -/
def fetchLayers (o h : Nat) (es : List (List Byte)) (s : State) : State × List LayerImg :=
  es.foldl (fun (a : State × List LayerImg) e =>
    if layerShown e then
      let y := sext 16 (leAt e 0x22 2)
      let r := fetchLayer o e y h ⟨a.1, false⟩
      (r.1.s, a.2 ++ [⟨sext 16 (leAt e 0x20 2), y, leAt e 0x24 1, bitB (leAt e 0x25 1) 0, sdFmt e, r.2⟩])
    else a) (s, [])

/-- The layers of an output's frame are fetched and composed. -/
def showFrame (o : Nat) (s : State) : State :=
  let d := s.disp o
  let r := fetchLayers o (tmVActive d.timing) d.layers s
  (r.1.setF (DISP_OUT_STATE.showing o) 1).setDisp o { d with pixels := frameOf d.timing r.2 }

/-- The frame that follows a blank begins: background until the link is up, then the composed layers. Its reads are offered to
the pacer together at its start; what is left of the frame before is not fetched any more (assumption 122). -/
def startFrame (s : State) (o : Nat) : State :=
  let d := s.disp o
  let s1 := paceDrop (s.addWrap (DISP_FRAME.n o) 1) fun a => decide (a = .frame o)
  if s1.flag (DISP_OUT_STATE.link_up o) then paceAct (.frame o) (showFrame o) s1
  else s1.setDisp o { d with pixels := frameOf d.timing [] }

/-- VERTICAL_BLANK (R430): TIME of the blank, the packets waiting for it, the stop of an output whose owner is removed (R473),
then the next frame. -/
def execVerticalBlank (o : Nat) (s : State) : Res :=
  let ps := blankPkts s o
  .next (if o < 4 ∧ accepting s ∧ (outEnabled s o ∨ ps ≠ []) then
      (let s1 := (s.set64 (DISP_VBLANK_LO.lo o) (DISP_VBLANK_HI.hi o) (s.nowAt 8)).setF (DISP_LINE.line o)
         (tmVActive (s.disp o).timing)
       let s2 := ps.foldl (fun t p => paceAct (.packet p.q p.idx) (fun u => blankPkt o u p) t) s1
       let s3 := if outEnabled s2 o && leaving s2 (s2.getF (DISP_OUT_STATE.owner o)) then stopOutput s2 o else s2
       if outEnabled s3 o then startFrame s3 o else s3)
    else s)

/-- Hot-plug detect of an output (R564): what function 1 of its pad sees, asserted where the pad has not selected it; DSI outputs
have none. -/
def hotPlug (s : State) (o : Nat) : Bool :=
  if o < 2 ∧ s.getF (PAD_CFG.func (16 + o)) = 1 then padSees s (16 + o) 1 else true

/-- DISPLAY_LINK_UP (R430, R434): composed frames start with the next one. -/
def execDisplayLinkUp (o : Nat) (s : State) : Res :=
  .next (if o < 4 ∧ outEnabled s o ∧ hotPlug s o then s.setF (DISP_OUT_STATE.link_up o) 1 else s)

/-- A row from a column on shows the background. -/
def cutRow (bg : List Nat) (x : Nat) (row : List (List Nat)) : List (List Nat) :=
  row.take x ++ List.replicate (row.length - x) bg

/-- DISPLAY_UNDERRUN (R431): the line's pixels from `x` on are the background. -/
def execDisplayUnderrun (o line x : Nat) (s : State) : Res :=
  .next (if o < 4 ∧ outEnabled s o ∧ line < tmVActive (s.disp o).timing then
      (let d := s.disp o
       let mx := tmMax d.timing
       let bg := (bgOf d.timing).map fun c => roundChannel mx (c, 255)
       let s1 := (s.addSat (DISP_UNDERRUN.n o) 1).setF (DISP_LINE.line o) line
       s1.setDisp o { d with pixels := d.pixels.modify line (cutRow bg x) })
    else s)

/-- HOT_PLUG_DETECT_CHANGE (R564): the level at the pad; an output whose display has gone has no link. -/
def execHotPlugDetectChange (o : Nat) (level : Bool) (s : State) : Res :=
  .next (if o < 2 then
      (let p := s.pad (16 + o)
       let s1 := if p.parking then s
         else if p.func = 1 then s.setPad (16 + o) { p with level := level, inp := level, pend := [] }
         else padPush s (16 + o) p level 0
       if outEnabled s1 o && !hotPlug s1 o then (s1.setF (DISP_OUT_STATE.link_up o) 0).setF (DISP_OUT_STATE.showing o) 0
       else s1)
    else s)

/-- Restart one recorded output at an acceptance (R434). -/
def restoreOutput (s : State) (o : Nat) : State :=
  match tabGet (fun _ => none) s.io.dispSaved o with
  | none => s
  | some (inst, layerVa, timingVa) =>
    let p : Pkt := ⟨4 * inst, 0, 0, 0x3001, 0, 0, inst, 0, false, 0, 0, [], s.now, s.now, .started, none, 0, none⟩
    match readBlocks s p o layerVa timingVa with
    | (s1, .ok (es, t)) => (latchOutput s1 o inst layerVa timingVa es t).setF (DISP_OUT_STATE.restored o) 1
    | (s1, .error _) => (s1.setDispSaved o none).setF (DISP_OUT_STATE.restore_fail o) 1

end Sys2Proof.Machine
end

