-- ==== Sys2Proof/Machine/Sensors.lean ====
section
/-! DEFINITION. Sensor receive (R435 to R442): STREAM_SENSOR, frames, lines, the stream buffer ring and the frame
timeout. -/

namespace Sys2Proof.Machine

def State.sens (s : State) (t : Nat) : Option SensRec := tabGet (fun _ => none) s.io.sens t
def State.setSens (s : State) (t : Nat) (r : Option SensRec) : State :=
  { s with io := { s.io with sens := tabPut (fun _ => none) s.io.sens t r } }

/-- STREAM_SENSOR parameters of a record. -/
def snWidth (r : SensRec) : Nat := leAt r.params 4 2
@[inherit_doc snWidth] def snHeight (r : SensRec) : Nat := leAt r.params 6 2
@[inherit_doc snWidth] def snRing (r : SensRec) : Nat := leAt r.params 8 8
@[inherit_doc snWidth] def snCount (r : SensRec) : Nat := leAt r.params 0x10 2
/-- Bytes per pixel, and the pitch of R437. -/
def snBpp (r : SensRec) : Nat := (sensorBpp (leAt r.params 2 1)).getD 1
@[inherit_doc snBpp] def snPitch (width bpp : Nat) : Nat := (width * bpp + 63) / 64 * 64

def streamOn (s : State) (t : Nat) : Bool := s.flag (SENS_STREAM_STATE.enabled t)

/-- The sensor block writing for a stream (class 1). -/
def sensWho (s : State) (t : Nat) : Who := devWho 0x50 (s.getF (SENS_STREAM_STATE.owner t)) 1 (4 + t / 4)

/-- The preconditions of STREAM_SENSOR (R167, R437). -/
def preStreamSensor (s : State) (p : Pkt) : State × PreFail :=
  (s, firstPre [(!streamOn s (4 * p.u 0 1 + p.u 1 1), 0),
                (decide (snPitch (p.u 4 2) ((sensorBpp (p.u 2 1)).getD 1) * p.u 6 2 ≤ p.u 0x14 4), 0x14)])

/-- The registers that show a stream's record. -/
def sensRegs (s : State) (t : Nat) (r : SensRec) : State :=
  ((s.setF (SENS_STREAM_STATE.enabled t) 1).setF (SENS_STREAM_STATE.owner t) r.owner).setF (SENS_STREAM_STATE.next t) r.next

/-- STREAM_SENSOR (R167, R439). -/
def execStreamSensor (q idx : Nat) (s : State) : Res :=
  carry s q idx 0x3000 preStreamSensor fun s1 p =>
    let t := 4 * p.u 0 1 + p.u 1 1
    let r : SensRec := ⟨p.inst, slice p.params 0 32, 0, 0, false, false, none, false⟩
    complete (sensRegs (s1.setSens t (some r)) t r) p 0 t 0

/-- Stop a stream and clear its record (R441, R442). -/
def stopStream (s : State) (t : Nat) : State :=
  (((s.setF (SENS_STREAM_STATE.enabled t) 0).setF (SENS_STREAM_STATE.owner t) 0).setF (SENS_STREAM_STATE.next t) 0).setSens t none

/-- The STREAM_STOP packets that wait for a stream's frame boundary. -/
def stopPkts (s : State) (kind unit : Nat) : List Pkt :=
  s.pkts.filter fun p => decide (p.phase = .waiting ∧ p.opcode = 0x3005 ∧ p.u 0 1 = kind ∧ p.u 1 1 = unit)

/-- The owner of a stream is being removed (R473). -/
def streamLeaves (s : State) (t : Nat) : Bool := match s.sens t with
  | some r => leaving s r.owner
  | none => false

/-- A frame boundary: a waiting STREAM_STOP, or the removal of its owner, stops the stream (R171, R473). -/
def streamBoundary (s : State) (t : Nat) : State :=
  match stopPkts s 0 t with
  | [] => if streamLeaves s t then stopStream s t else s
  | ps => ps.foldl (fun a p => complete a p 0 0 0) (stopStream s t)

/-- Close the open frame (R439, R441): one write of descriptor bytes 0x08 to 0x17 with full set, then the interrupt. -/
def closeFrame (s : State) (t : Nat) (r : SensRec) (f : SensFrame) : State :=
  let short := decide (f.lines < snHeight r) || bitB f.flags 1
  let flags := putBits (putBits f.flags 0 1 1) 1 1 (b2n short)
  let bs := leBytes 8 f.time ++ leBytes 4 f.no ++ leBytes 2 f.lines ++ leBytes 2 flags
  let s1 := (dmaWrite s (sensWho s t) (snRing r + 32 * f.desc + 8) bs).1
  let r1 := { r with frame := none, dropping := false, next := (f.desc + 1) % snCount r }
  let s2 := (s1.setSens t (some r1)).setF (SENS_STREAM_STATE.next t) r1.next
  let s3 := s2.setF SENS_IRQ_STATUS.irq (orN (s2.getF SENS_IRQ_STATUS.irq) (2 ^ t))
  streamBoundary (raiseHost s3 (96 + t)) t

/-- What ends the frame in progress: an open frame is closed, a dropped one is over. -/
def endFrame (s : State) (t : Nat) : State :=
  match s.sens t with
  | none => s
  | some r => match r.frame with
    | some f => closeFrame s t r f
    | none => if r.dropping then streamBoundary (s.setSens t (some { r with dropping := false })) t else s

/-- The start of a frame (R439) whose FS came at a tick: the next descriptor is read; a full or unreadable one drops the frame. -/
def startSensFrame (s : State) (t tick : Nat) (r : SensRec) : State :=
  let no := u32 (r.frames + 1)
  match dmaRead s (sensWho s t) (snRing r + 32 * r.next) 32 with
  | (s1, .error _) =>
    (s1.addSat (SENS_STREAM_DROP.n t) 1).setSens t (some { r with frames := no, gap := true, dropping := true })
  | (s1, .ok d) =>
    if bitB (leAt d 0x16 2) 0 then
      (s1.addSat (SENS_STREAM_DROP.n t) 1).setSens t (some { r with frames := no, gap := true, dropping := true })
    else
      let flags := 128 * b2n r.gap + 32 * b2n r.restart
      s1.setSens t (some { r with
        frames := no, gap := false, restart := false, dropping := false,
        frame := some ⟨r.next, leAt d 0 8, s.timeAt 9 tick, no, 0, flags⟩ })

/-- The header of a packet of a stream (R440): ECC results are counted; the packet goes on unless it is discarded. -/
def sensPacket (s : State) (t : Nat) (ecc : HeaderEcc) (f : State → State) : State :=
  let port := t / 4
  if 16 ≤ t ∨ !mainReleased s then s
  else match ecc with
    | .uncorrectable => s.addSat (SENS_ECC.n port) 1
    | e =>
      let s1 := if e = .corrected then s.addSat (SENS_ECC.n port) 1 else s
      if streamOn s1 t then f s1 else s1.addSat (SENS_DISCARD.n port) 1

/-- An FS that came at a tick (R439): with no FE before it, it closes the open frame first. -/
def frameStart (t : Nat) (ecc : HeaderEcc) (tick : Nat) (s : State) : State :=
  sensPacket s t ecc fun s1 =>
    let s2 := endFrame s1 t
    if streamOn s2 t then (match s2.sens t with | some r => startSensFrame s2 t tick r | none => s2) else s2

/-- SENSOR_FRAME_START (R439). A packet of a port is a demand on SENS (R55) and keeps its place behind earlier ones that wait for
a pacer. -/
def execSensorFrameStart (t : Nat) (ecc : HeaderEcc) (s : State) : Res :=
  .next (paceAct (.device (.frameStart t ecc)) (frameStart t ecc s.now) (demand s 9))

/-- An FE (R439). -/
def frameEnd (t : Nat) (ecc : HeaderEcc) (s : State) : State := sensPacket s t ecc fun s1 => endFrame s1 t

/-- SENSOR_FRAME_END (R439). -/
def execSensorFrameEnd (t : Nat) (ecc : HeaderEcc) (s : State) : Res :=
  .next (paceAct (.device (.frameEnd t ecc)) (frameEnd t ecc) (demand s 9))

/-- Write the bytes of a row page by page: a page that does not translate is discarded (R273); whether any did. -/
def writeRow (w : Who) : List (Nat × Nat) → List Byte → State → State × Bool
  | [], _, s => (s, false)
  | g :: gs, bs, s =>
    match dmaWrite s w g.1 (bs.take g.2) with
    | (s1, none) => writeRow w gs (bs.drop g.2) s1
    | (s1, some _) => ((writeRow w gs (bs.drop g.2) s1).1, true)

/-- A line of the open frame (R437, R440): `kept` is how many pixels came before the FIFO filled. -/
def putLine (s : State) (t : Nat) (r : SensRec) (f : SensFrame) (crcBad : Bool) (kept : Option Nat) (pixels : List Nat) :
    State :=
  let w := snWidth r
  let px := match kept with | some k => pixels.take k | none => pixels
  let row := ((px ++ List.replicate (w - px.length) 0).take w).flatMap (leBytes (snBpp r))
  let fl0 := if crcBad then putBits f.flags 3 1 1 else f.flags
  let fl := if kept.isSome then putBits fl0 4 1 1 else fl0
  let s0 := if kept.isSome then s.addSat (SENS_OVERFLOW.n (t / 4)) 1 else s
  if snHeight r ≤ f.lines then s0.setSens t (some { r with frame := some { f with flags := putBits fl 2 1 1 } })
  else
    let va := f.buf + snPitch w (snBpp r) * f.lines
    let x := writeRow (sensWho s0 t) (pageSegs va row.length) row s0
    x.1.setSens t (some { r with
      frame := some { f with lines := f.lines + 1, flags := if x.2 then putBits fl 6 1 1 else fl } })

/-- A line (R440): a packet of another data type is discarded. -/
def lineReceive (t : Nat) (ecc : HeaderEcc) (dt : Nat) (crcBad : Bool) (kept : Option Nat) (pixels : List Nat) (s : State) :
    State :=
  sensPacket s t ecc fun s1 =>
    match s1.sens t with
    | none => s1
    | some r =>
      if dt ≠ leAt r.params 2 1 then s1.addSat (SENS_DISCARD.n (t / 4)) 1
      else match r.frame with
        | some f => putLine s1 t r f crcBad kept pixels
        | none => s1

/-- SENSOR_LINE_RECEIVE (R440). -/
def execSensorLineReceive (t : Nat) (ecc : HeaderEcc) (dt : Nat) (crcBad : Bool) (kept : Option Nat) (pixels : List Nat)
    (s : State) : Res :=
  .next (paceAct (.device (.line t ecc dt crcBad kept pixels)) (lineReceive t ecc dt crcBad kept pixels)
    (demand s 9))

/-- The frame open in a stream, if its FE has not come within 100,000,000 ticks of its FS (R441): an FE of that tick still
wins. -/
def lateFrame (s : State) (t : Nat) : Option (SensRec × SensFrame) :=
  if t < 16 ∧ mainReleased s ∧ streamOn s t then
    (match s.sens t with
     | some r => (match r.frame with
        | some f => if f.time + 100000000 < s.nowAt 9 then some (r, f) else none
        | none => none)
     | none => none)
  else none

/-- A frame whose FE is late is closed with short (R441). -/
def frameTimeout (t : Nat) (s : State) : State :=
  match lateFrame s t with
  | some (r, f) => closeFrame s t r { f with flags := putBits f.flags 1 1 1 }
  | none => s

/-- SENSOR_FRAME_TIMEOUT (R441). -/
def execSensorFrameTimeout (t : Nat) (s : State) : Res :=
  .next (paceAct (.device (.frameTimeout t)) (frameTimeout t) s)

/-- Restart one recorded stream at an acceptance (R442). -/
def restoreStream (s : State) (t : Nat) : State :=
  match s.sens t with
  | none => s
  | some r => let r1 := { r with restart := true, frame := none, dropping := false }
              sensRegs (s.setSens t (some r1)) t r1

end Sys2Proof.Machine
end

