-- ==== Sys2Proof/Machine/Can.lean ====
section
/-! DEFINITION. The CAN FD controllers and the fallback router (R448 to R457), with STREAM_CAN_CFG, STREAM_CAN_TX,
STREAM_ROUTER (R169, R170) and STREAM_STOP (R171). -/

namespace Sys2Proof.Machine

def State.can (s : State) (c : Nat) : CanRec := tabGet (fun _ => CanRec.init) s.io.can c
def State.setCan (s : State) (c : Nat) (r : CanRec) : State :=
  { s with io := { s.io with can := tabPut (fun _ => CanRec.init) s.io.can c r } }

def canMode (s : State) (c : Nat) : Nat := s.getF (CAN_STATE.mode c)

/-- In PARK, with no exit under way: while the attempts of an exit repeat, the Sage die runs (R96). -/
def parked (s : State) : Bool := decide (s.clk.mode = .park ∧ s.boot.main = .idle)

/-- The controller has its protocol clock: not in PARK, unless a dominant level woke it (R455). -/
def canPowered (s : State) (c : Nat) : Bool :=
  decide (s.clk.mode ≠ .off) && (!parked s || decide (c ∈ s.io.canAwake))

/-- On the bus: on, powered and not bus-off. -/
def canOnBus (s : State) (c : Nat) : Bool :=
  decide (c < 16 ∧ canMode s c ≠ 0 ∧ s.getF (CAN_STATE.bus c) ≠ 2) && canPowered s c

/-- A frame of STREAM_CAN_TX, or of a side effect with its length: identifier word, length, flags and data. -/
def canFrame (id len flags : Nat) (data : List Byte) : CanFrame :=
  ⟨bits id 0 29, bitB id 31, bitB flags 0, bitB flags 1, slice data 0 len⟩

/-- Frame `i` of a STREAM_CAN_TX packet. -/
def txFrame (p : Pkt) (i : Nat) : CanFrame :=
  let b := 8 + 72 * i
  canFrame (p.u b 4) (p.u (b + 4) 1) (p.u (b + 5) 1) (slice p.params (b + 8) 64)

/-- Frames handed over and frames sent of a STREAM_CAN_TX packet. -/
def txHanded (p : Pkt) : Nat := p.prog % 256
@[inherit_doc txHanded] def txSent (p : Pkt) : Nat := p.prog / 256

/-- STREAM_CAN_TX packets at work on a controller. -/
def txPkts (s : State) (c : Nat) : List Pkt :=
  s.pkts.filter fun p => decide (p.phase = .waiting ∧ p.opcode = 0x3003 ∧ p.u 0 1 = c)

/-- Hand over frames of one packet while the host queue has room (R452). -/
def feedPkt (c : Nat) (s : State) (p : Pkt) : State :=
  let r := s.can c
  let k := min (256 - r.host.length) (p.u 1 1 - txHanded p)
  let fs := (List.range k).map fun i => CanQueued.mk (txFrame p (txHanded p + i)) (some (p.q, p.idx))
  (s.setCan c { r with host := r.host ++ fs }).setPkt { p with prog := p.prog + k }

/-- Hand over what fits, packets in order; Tsuquel does it while jobs are accepted. -/
def canFeed (s : State) (c : Nat) : State := if accepting s then (txPkts s c).foldl (feedPkt c) s else s

/-- A frame enters the host queue, if there is room. -/
def canQueue (s : State) (c : Nat) (f : CanFrame) : Option State :=
  let r := s.can c
  if r.host.length < 256 then some (s.setCan c { r with host := r.host ++ [⟨f, none⟩] }) else none

/-! ### Configuration -/

/-- Turn a controller off (R451): it loses its owner; what its router queue held is dropped. -/
def canOff (s : State) (c : Nat) : State :=
  let r := s.can c
  let s1 := s.addSat (CAN_ROUTE_DROP.n c) r.router.length
  let s2 := ((s1.setF (CAN_STATE.mode c) 0).setF (CAN_STATE.owner c) 0).setF (CAN_STATE.bus c) 0
  s2.setCan c { CanRec.init with seq := r.seq }

/-- Put a controller on the bus in a mode with its receive block (R449, R451). -/
def canOn (s : State) (p : Pkt) (c : Nat) (bs : List Byte) : State :=
  let r := s.can c
  let s1 := ((s.setF (CAN_STATE.mode c) (p.u 1 1)).setF (CAN_STATE.owner c) p.inst).setF (CAN_STATE.bus c) 0
  let s2 := ((s1.setF (CAN_STATE.tec c) 0).setF (CAN_STATE.rec c) 0).setF (CAN_RX_WR.wr c) 0
  (s2.setF (CAN_RX_RD.rd c) 0).setCan c { r with
    nominal := p.u 4 4, dataRate := p.u 8 4, rxAddr := leAt bs 0 8, rxLog2 := leAt bs 8 1
    filters := records 16 (bs.drop 16) (p.u 0xC 2), host := [], held := [] }

/-- STREAM_CAN_CFG takes effect (R448, R451): with mode 0 nothing but the mode is read. -/
def applyCanCfg (s : State) (p : Pkt) : State :=
  let c := p.u 0 1
  if p.u 1 1 = 0 then
    complete (if canMode s c = 0 then s else
      ((canOff s c).setF (CAN_RX_WR.wr c) 0).setF (CAN_RX_RD.rd c) 0) p 0 0 0
  else match pktBytes s p 0x10 (p.u 0x10 8) (16 + 16 * p.u 0xC 2) with
    | (s1, .error e) => (endPre s1 p e).getD s1
    | (s1, .ok bs) => if canBlockOk bs (p.u 0xC 2) then complete (canOn s1 p c bs) p 0 0 0 else preFail s1 p 0x30

/-- STREAM_CAN_CFG and STREAM_STOP packets that wait for a controller's host queue to empty. -/
def canWaits (s : State) (c : Nat) : List Pkt :=
  s.pkts.filter fun p => decide (p.phase = .waiting) &&
    (decide (p.opcode = 0x3002 ∧ p.u 0 1 = c) || decide (p.opcode = 0x3005 ∧ p.u 0 1 = 2 ∧ p.u 1 1 = c))

/-- The host queue may have emptied: what waits for that takes effect, and a controller whose owner is removed stops (R473). -/
def canDrained (s : State) (c : Nat) : State :=
  if (s.can c).host.isEmpty && accepting s then
    let s1 := (canWaits s c).foldl (fun t p =>
      if p.opcode = 0x3002 then paceAct (.packet p.q p.idx) (fun u => applyCanCfg u p) t
      else complete (canOff t c) p 0 0 0) s
    if canMode s1 c ≠ 0 ∧ leaving s1 (canOwner s1 c) then canOff s1 c else s1
  else s

/-- A STREAM_CAN_CFG on a controller that is on waits until the host transmit queue is empty (R451). -/
def startCanCfg (s : State) (p : Pkt) : State :=
  let c := p.u 0 1
  if canMode s c = 0 ∨ (s.can c).host.isEmpty then applyCanCfg s p else s.setPkt { p with phase := .waiting }

/-- STREAM_CAN_CFG (R451). -/
def execStreamCanCfg (q idx : Nat) (s : State) : Res := carryDma s q idx 0x3002 noPre startCanCfg

/-- The precondition of STREAM_CAN_TX (R452): every frame suits the controller's mode. -/
def preCanTx (s : State) (p : Pkt) : State × PreFail :=
  let c := p.u 0 1
  (s, firstPre ((decide (canMode s c ≠ 0), 0) ::
    (List.range (p.u 1 1)).map fun i => (canFits s p.inst c (p.u (8 + 72 * i + 5) 1), 8 + 72 * i + 5)))

/-- STREAM_CAN_TX (R169, R452). -/
def execStreamCanTx (q idx : Nat) (s : State) : Res :=
  carry s q idx 0x3003 preCanTx fun t p => canFeed (t.setPkt { p with phase := .waiting, prog := 0 }) (p.u 0 1)

/-- The precondition of STREAM_ROUTER (R170). -/
def preRouter (s : State) (p : Pkt) : State × PreFail := (s, firstPre [(decide (p.u 0 1 + p.u 1 1 ≤ 256), 0)])

/-- STREAM_ROUTER (R170): the entries are replaced as one step. -/
def execStreamRouter (q idx : Nat) (s : State) : Res :=
  carry s q idx 0x3004 preRouter fun t p =>
    let rs := (List.range (p.u 1 1)).foldl (fun m i =>
      tabPut (fun _ => []) m (p.u 0 1 + i) (slice p.params (8 + 8 * i) 8)) t.io.routes
    complete { t with io := { t.io with routes := rs } } p 0 0 0

/-- STREAM_STOP of a sensor stream (R171, R441): at once between frames. -/
def stopSensor (s : State) (p : Pkt) (t : Nat) : State :=
  match s.sens t with
  | none => complete s p 0 0 0
  | some r =>
    if r.frame.isSome || r.dropping then s.setPkt { p with phase := .waiting } else complete (stopStream s t) p 0 0 0

/-- STREAM_STOP (R171). -/
def execStreamStop (q idx : Nat) (s : State) : Res :=
  carry s q idx 0x3005 noPre fun t p =>
    let u := p.u 1 1
    match p.u 0 1 with
    | 0 => stopSensor t p u
    | 1 => if outEnabled t u then t.setPkt { p with phase := .waiting } else complete (t.setDispSaved u none) p 0 0 0
    | _ =>
      if canMode t u = 0 then complete t p 0 0 0
      else if (t.can u).host.isEmpty then complete (canOff t u) p 0 0 0
      else t.setPkt { p with phase := .waiting }

/-! ### Reception -/

/-- A filter matches a frame (R449). -/
def filterMatch (f : List Byte) (x : CanFrame) : Bool :=
  let id := leAt f 0 4
  let mask := leAt f 4 4
  decide (bitB id 31 = x.ext) && decide (andN x.ident mask = andN (bits id 0 29) mask)

/-- The identifier word of a frame. -/
def canId (x : CanFrame) : Nat := x.ident + if x.ext then 2 ^ 31 else 0

/-- A receive-ring entry (R450). -/
def rxEntry (x : CanFrame) (esi : Bool) (sof filter seq : Nat) : List Byte :=
  leBytes 8 sof ++ leBytes 4 (canId x) ++ leBytes 1 x.data.length ++ leBytes 1 (b2n x.fd + 2 * b2n x.brs + 4 * b2n esi) ++
  leBytes 1 filter ++ leBytes 1 0 ++ leBytes 4 seq ++ leBytes 12 0 ++ slice x.data 0 64 ++ leBytes 32 0

/-- Write an entry to the receive ring, or drop it (R450). -/
def rxPut (s : State) (c : Nat) (e : List Byte) : State :=
  let r := s.can c
  let wr := s.getF (CAN_RX_WR.wr c)
  let slots := 2 ^ r.rxLog2
  if sub32 wr (s.getF (CAN_RX_RD.rd c)) = slots then s.addSat (CAN_RX_DROP.n c) 1
  else match dmaWrite s (devWho 0x70 (canOwner s c) 2 8) (r.rxAddr + 128 * (wr % slots)) e with
    | (s1, none) => s1.setF (CAN_RX_WR.wr c) (wr + 1)
    | (s1, some _) => s1.addSat (CAN_RX_DROP.n c) 1

/-- The oldest held entry is written. -/
def rxFirst (c : Nat) (s : State) : State :=
  let r := s.can c
  match r.held with
  | [] => s
  | e :: es => rxPut (s.setCan c { r with held := es }) c e

def rxHeldFuel : Nat → State → Nat → State
  | 0, s, _ => s
  | f + 1, s, c =>
    let t := paceAct (.canRx c) (rxFirst c) s
    if (t.can c).held.length < (s.can c).held.length then rxHeldFuel f t c else t

/-- Held entries are written in arrival order while jobs are accepted (R454), as far as the pacer admits them. -/
def rxHeld (s : State) (c : Nat) : State := if accepting s then rxHeldFuel (s.can c).held.length s c else s

/-- Deliver an entry behind those that are held; at most 64 are held while memory is out of reach (R454). -/
def rxDeliver (s : State) (c : Nat) (e : List Byte) : State :=
  let r := s.can c
  if accepting s ∨ r.held.length < 64 then rxHeld (s.setCan c { r with held := r.held ++ [e] }) c
  else s.addSat (CAN_RX_DROP.n c) 1

/-- The first router entry that matches a frame received on a controller (R456). -/
def routeOf (s : State) (c : Nat) (x : CanFrame) : Option (List Byte) :=
  (s.io.routes.find? fun e => decide (leAt e.2 2 2 ≠ 0 ∧ leAt e.2 0 1 = c ∧ leAt e.2 4 4 = x.ident) &&
    decide (bitB (leAt e.2 1 1) 0 = x.ext)).map Prod.snd

/-- Queue a frame for forwarding on an output controller, or drop it (R457). -/
def routeTo (x : CanFrame) (s : State) (o : Nat) : State :=
  let r := s.can o
  if canMode s o = 0 ∨ s.getF (CAN_STATE.bus o) = 2 ∨ 64 ≤ r.router.length ∨ (x.fd = true ∧ canMode s o = 2) then
    s.addSat (CAN_ROUTE_DROP.n o) 1
  else (s.setCan o { r with router := r.router ++ [x] }).addWrap (CAN_ROUTE_FWD.n o) 1

/-- Forward a frame (R456); the router does not run in PARK. -/
def routeFrame (s : State) (c : Nat) (x : CanFrame) : State :=
  if parked s then s
  else match routeOf s c x with
    | none => s
    | some e => ((maskBits 16 (leAt e 2 2)).filter fun o => decide (o ≠ c)).foldl (routeTo x) s

/-- Filters, wake and delivery of a frame (R449, R450). -/
def acceptFrame (s : State) (c : Nat) (x : CanFrame) (esi : Bool) (sof : Nat) : State :=
  let r := s.can c
  let seq := u32 (r.seq + 1)
  let s1 := s.setCan c { r with seq := seq }
  let hits := r.filters.zipIdx.filter fun f => filterMatch f.1 x
  let has (b : Nat) : Bool := hits.any fun f => bitB (leAt f.1 8 1) b
  let s2 := if has 1 then wakeEvent s1 6 else s1
  if has 0 && decide (r.rxAddr ≠ 0) then
    rxDeliver s2 c (rxEntry x esi sof ((hits.map Prod.snd).headD 0) seq)
  else s2

/-- CAN_FRAME_RECEIVE (R449): remote frames are discarded and counted (R448); an FD frame does not reach a classical
controller. -/
def execCanFrameReceive (c : Nat) (frame : CanFrame) (remote esi : Bool) (sof : Nat) (s : State) : Res :=
  .next (if canOnBus s c && !scanHolds s then
      (if remote then s.addSat (CAN_ERR.n c) 1
       else if frame.fd && decide (canMode s c = 2) then s
       else acceptFrame (routeFrame s c frame) c frame esi sof)
    else s)

/-! ### Transmission -/

/-- A frame of a STREAM_CAN_TX packet has been sent (R169). -/
def txDone (s : State) (k : Nat × Nat) : State :=
  match s.pkt k.1 k.2 with
  | none => s
  | some p =>
    let p1 := { p with prog := p.prog + 256 }
    let s1 := s.setPkt p1
    if p.u 1 1 ≤ txSent p1 then complete s1 p1 0 (txSent p1) 0 else s1

/-- A frame goes on the bus. -/
def canSend (s : State) (c : Nat) (x : CanFrame) : State :=
  { s.addWrap (CAN_TX_SENT.n c) 1 with io := { s.io with canOut := (c, x) :: s.io.canOut } }

/-- CAN_FRAME_TRANSMIT (R452): the head of the router queue goes before the head of the host queue. -/
def execCanFrameTransmit (c : Nat) (s : State) : Res :=
  let r := s.can c
  .next (if !canOnBus s c then s
    else match r.router, r.host with
      | x :: rest, _ =>
        let s1 := s.setCan c { r with router := rest }
        if x.fd && decide (canMode s c = 2) then s1.addSat (CAN_ROUTE_DROP.n c) 1 else canSend s1 c x
      | [], h :: rest =>
        let s1 := canSend (s.setCan c { r with host := rest }) c h.frame
        let s2 := match h.pkt with
          | some k => txDone s1 k
          | none => s1
        canDrained (canFeed s2 c) c
      | [], [] => s)

/-- CAN_BUS_OFF (R453, R169): both queues are dropped; STREAM_CAN_TX packets end. -/
def execCanBusOff (c : Nat) (s : State) : Res :=
  let r := s.can c
  .next (if canOnBus s c then
      (let f := (s.addSat (CAN_TX_DROP.n c) (r.router.length + r.host.length)).fresh
       let s1 := ((f.2.setF (CAN_STATE.bus c) 2).setF (CAN_STATE.tec c) f.1).setCan c { r with router := [], host := [] }
       canDrained ((txPkts s1 c).foldl (fun t p => complete t p 0 (txSent p + 2 ^ 31) 0) s1) c)
    else s)

/-- CAN_BUS_RECOVER (R453). -/
def execCanBusRecover (c : Nat) (s : State) : Res :=
  .next (if c < 16 ∧ canMode s c ≠ 0 ∧ s.getF (CAN_STATE.bus c) = 2 ∧ canPowered s c then
      ((s.setF (CAN_STATE.bus c) 0).setF (CAN_STATE.tec c) 0).setF (CAN_STATE.rec c) 0 else s)

/-- CAN_WAKE_DETECT (R455): in PARK, on a controller that has a wake filter. -/
def execCanWakeDetect (c : Nat) (s : State) : Res :=
  .next (if s.clk.mode = .park ∧ c < 16 ∧ canMode s c ≠ 0 ∧ ((s.can c).filters.any fun f => bitB (leAt f 8 1) 1) then
      (let s1 := setRefreq s true
       { s1 with io := { s1.io with canAwake := if c ∈ s1.io.canAwake then s1.io.canAwake else c :: s1.io.canAwake } })
    else s)

end Sys2Proof.Machine
end

