-- ==== Sys2Proof/Machine/Network.lean ====
section
/-! DEFINITION. Ethernet (R443 to R447): descriptor rings, transmission and reception; and the state of the PCIe links
(R458, R460, R461). -/

namespace Sys2Proof.Machine

/-- Next transmit and receive descriptor of a port, as running counts. -/
def State.netNext (s : State) (n : Nat) : Nat × Nat := tabGet (fun _ => (0, 0)) s.io.net n
def State.setNetNext (s : State) (n : Nat) (x : Nat × Nat) : State :=
  { s with io := { s.io with net := tabPut (fun _ => (0, 0)) s.io.net n x } }

/-- Ethernet DMA of a port's owner (class 2). -/
def netWho (s : State) (n : Nat) : Who := devWho 0x58 (s.getF (NET_PORT_CFG.owner n)) 2 9

def netTxBase (s : State) (n : Nat) : Nat := 64 * s.getF (NET_TX_BASE_LO.lo n) + 2 ^ 32 * s.getF (NET_TX_BASE_HI.hi n)
def netRxBase (s : State) (n : Nat) : Nat := 64 * s.getF (NET_RX_BASE_LO.lo n) + 2 ^ 32 * s.getF (NET_RX_BASE_HI.hi n)
def netTxSlots (s : State) (n : Nat) : Nat := 2 ^ s.getF (NET_RING_CFG.tx_log2 n)
def netRxSlots (s : State) (n : Nat) : Nat := 2 ^ s.getF (NET_RING_CFG.rx_log2 n)

/-- The port is enabled and its link is up. -/
def netUp (s : State) (n : Nat) : Bool :=
  decide (n < 6) && mainReleased s && s.flag (NET_PORT_CFG.enable n) && s.flag (NET_STATE.link n)

/-- A ring that is not enabled starts again at descriptor 0 when it is enabled. -/
def netRingWrite (s : State) (n old : Nat) : State :=
  let x := s.netNext n
  let on (b : Nat) : Bool := !bitB old b && bitB (s.rd (NET_RING_CFG.addr n)).toNat b
  s.setNetNext n (if on 8 then 0 else x.1, if on 9 then 0 else x.2)

/-- NET_TX_TAIL_WRITE (R445): only host software of the port's owner may write it (R444). -/
def execNetTxTailWrite (m : BusMaster) (n : Nat) (v : Word) (s : State) : Res :=
  .next (if n < 6 ∧ mainReleased s then (plainWrite (busDemand s m (NET_TX_TAIL.addr n)) m (NET_TX_TAIL.addr n) v.toNat).1 else s)

/-- NET_RX_TAIL_WRITE (R445). -/
def execNetRxTailWrite (m : BusMaster) (n : Nat) (v : Word) (s : State) : Res :=
  .next (if n < 6 ∧ mainReleased s then (plainWrite (busDemand s m (NET_RX_TAIL.addr n)) m (NET_RX_TAIL.addr n) v.toNat).1 else s)

/-- TIME at the start-of-frame delimiter as the port stamps it, by the NET copy: within 2 ticks of it (R446). -/
def netStamp (s : State) (tick : Nat) : Nat × State :=
  let f := s.fresh
  (s.timeAt 12 tick + f.1 % 5 - 2, f.2)

/-- Give a descriptor back (R445): its bytes from flags to time in one write. -/
def netReturn (s : State) (n va : Nat) (d : List Byte) (flags rxLen time : Nat) : State :=
  (dmaWrite s (netWho s n) (va + 0xA) (leBytes 2 flags ++ leBytes 2 rxLen ++ slice d 0xE 2 ++ leBytes 8 time)).1

/-- Send the frame of a transmit descriptor the T32 owns (R445). -/
def netSend (s : State) (n va : Nat) (d : List Byte) : State :=
  let len := leAt d 8 2
  let flags := clrN (leAt d 0xA 2) 1
  let st := if bitB flags 1 then netStamp s s.now else s.fresh
  let fail (t : State) : State := netReturn t n va d (orN flags 4) (leAt d 0xC 2) st.1
  if len < 14 ∨ 9212 < len then fail st.2
  else match dmaRead st.2 (netWho st.2 n) (leAt d 0 8) len with
    | (s1, .error _) => fail s1
    | (s1, .ok bs) =>
      let frame := bs ++ List.replicate (60 - bs.length) 0
      netReturn { s1 with io := { s1.io with netOut := (n, frame) :: s1.io.netOut } } n va d flags (leAt d 0xC 2) st.1

/-- The next descriptor handed over is sent, in ring order (R445). -/
def netTransmit (n : Nat) (s : State) : State :=
  let x := s.netNext n
  let slots := netTxSlots s n
  if netUp s n ∧ s.flag (NET_RING_CFG.tx_en n) ∧ x.1 % slots ≠ s.getF (NET_TX_TAIL.tail n) % slots then
    let va := netTxBase s n + 32 * (x.1 % slots)
    let s1 := s.setNetNext n (x.1 + 1, x.2)
    match dmaRead s1 (netWho s1 n) va 32 with
    | (s2, .error _) => s2
    | (s2, .ok d) => if bitB (leAt d 0xA 2) 0 then netSend s2 n va d else s
  else s

/-- NET_FRAME_TRANSMIT (R445). -/
def execNetFrameTransmit (n : Nat) (s : State) : Res :=
  .next (paceAct (.device (.netTx n)) (netTransmit n) (demand s 12))

/-- Store a received frame in the descriptor's buffer and give it back (R445). -/
def netStore (s : State) (n tick va : Nat) (d frame : List Byte) : State :=
  let st := netStamp s tick
  let len := leAt d 8 2
  let k := min frame.length len
  let r := dmaWrite st.2 (netWho st.2 n) (leAt d 0 8) (frame.take k)
  let fl0 := clrN (leAt d 0xA 2) 1
  let fl1 := if len < frame.length then orN fl0 8 else fl0
  let fl2 := if r.2.isSome then orN fl1 4 else fl1
  netReturn r.1 n va d fl2 (if r.2.isSome then 0 else k) st.1

/-- A frame whose delimiter passed at a tick is received (R443, R445): `frame` is the frame without its FCS. -/
def netReceive (n : Nat) (fcsOk : Bool) (frame : List Byte) (tick : Nat) (s : State) : State :=
  let x := s.netNext n
  let slots := netRxSlots s n
  let drop (t : State) : State := t.addSat (NET_RX_DROP.n n) 1
  if netUp s n ∧ s.flag (NET_RING_CFG.rx_en n) then
    if !fcsOk || decide (frame.length < 60 ∨ 9212 < frame.length) then s.addSat (NET_RX_ERR.n n) 1
    else if x.2 % slots = s.getF (NET_RX_TAIL.tail n) % slots then drop s
    else
      let va := netRxBase s n + 32 * (x.2 % slots)
      match dmaRead s (netWho s n) va 32 with
      | (s1, .error _) => drop s1
      | (s1, .ok d) =>
        if bitB (leAt d 0xA 2) 0 then netStore (s1.setNetNext n (x.1, x.2 + 1)) n tick va d frame else drop s1
  else s

/-- NET_FRAME_RECEIVE (R443, R445). -/
def execNetFrameReceive (n : Nat) (fcsOk : Bool) (frame : List Byte) (s : State) : Res :=
  .next (paceAct (.device (.netRx n fcsOk frame)) (netReceive n fcsOk frame s.now) (demand s 12))

/-- ETHERNET_LINK_CHANGE (R443): the state of the port's receiver. -/
def execEthernetLinkChange (n : Nat) (up : Bool) (s : State) : Res :=
  .next (if n < 6 ∧ mainReleased s then s.setF (NET_STATE.link n) (b2n (up && s.flag (NET_PORT_CFG.enable n))) else s)

/-! ### PCIe links -/

/-- PCIE_LINK_DOWN (R461). -/
def execPcieLinkDown (k : Nat) (s : State) : Res := .next (if k ∈ s.pcieUp then linkDown s k else s)

/-- PCIE_LINK_UP (R458, R461): training ended at a width code and generation that PCIE_CFG allows. -/
def execPcieLinkUp (k width gen : Nat) (s : State) : Res :=
  .next (if k < 2 ∧ mainReleased s ∧ s.clk.mode ≠ .doze ∧ perstLow s k = false ∧ width ≤ s.getF (PCIE_CFG.width k) ∧ 1 ≤ gen ∧
      gen ≤ s.getF (PCIE_CFG.gen k) then
      (let s1 := ((s.setF (PCIE_STATE.link_up k) 1).setF (PCIE_STATE.width k) width).setF (PCIE_STATE.gen k) gen
       { s1 with pcieUp := setAdd (s1.pcieUp.filter fun x => decide (x ≠ k)) k })
    else s)

/-- PCIE_WAKE (R460): in DOZE, on a port whose link rests in L1. -/
def execPcieWake (k : Nat) (s : State) : Res :=
  .next (if s.clk.mode = .doze ∧ k ∈ s.pcieUp then wakeEvent s 5 else s)

end Sys2Proof.Machine
end

