-- ==== Sys2Proof/Machine/Power.lean ====
section
/-! DEFINITION. Telemetry, the package cap loop, droop, thermal levels and multichip balance (spec/16), and the power
opcodes that act at once (R182 to R184, R510). -/

namespace Sys2Proof.Machine

/-! ### Telemetry (R486 to R489) -/

/-- The place in the order of R30 of a regulator's rail index (R486). -/
def avsRail (r : Nat) : Nat := ([4, 2, 3, 0, 1] : List Nat).getD r 0

/-- Set value in mV and design current in 10 mA of a regulator's rail (R21). -/
def avsSet (s : State) (r : Nat) : Nat := if r = 0 then s.pwr.vTile else ([0, 750, 750, 1050, 500] : List Nat).getD r 0
@[inherit_doc avsSet] def avsDesign (r : Nat) : Nat := ([11000, 4500, 1200, 300, 400] : List Nat).getD r 0

def missedSamples (s : State) (r : Nat) : Nat := tabGet (fun _ => 0) s.pwr.missed r
def State.setMissed (s : State) (r n : Nat) : State :=
  { s with pwr := { s.pwr with missed := tabPut (fun _ => 0) s.pwr.missed r n } }

/-- One rail of a sample (R488): a reading, or a miss; its part of the power in units of 10 µW. -/
def sampleRail (readings : List (Option (Nat × Nat))) (a : State × Nat) (r : Nat) : State × Nat :=
  let s := a.1
  if !railUp s (avsRail r) then a
  else match readings.getD r none with
    | some v =>
      let s1 := ((s.setMissed r 0).setF (PWR_RAIL.mv r) v.1).setF (PWR_RAIL.cur r) v.2
      (s1, a.2 + v.1 * v.2)
    | none =>
      let n := min (missedSamples s r + 1) 8
      let s1 := s.setMissed r n
      if n = 8 then
        (s1.setF PWR_STATUS.telem_err (orN (s1.getF PWR_STATUS.telem_err) (2 ^ r)), a.2 + avsSet s r * avsDesign r)
      else (s1, a.2 + s.getF (PWR_RAIL.mv r) * s.getF (PWR_RAIL.cur r))

/-! ### The effective cap and the cap loop (R490 to R493) -/

def sprintPermit (s : State) : Bool := s.flag CLK_LIMIT.sprint_permit

/-- The effective cap C (R490): the set cap with the raise and the donation, kept inside its bounds. -/
def effCap (s : State) : Nat :=
  let top := if sprintPermit s then 130000 else 95000
  min top (max 10000 (s.getF PWR_CAP_CFG.cap + s.pwr.raise_ - s.pwr.donation))

/-- Show the effective cap. -/
def updCap (s : State) : State := s.setF PWR_CAP_EFF.cap (effCap s)

/-- The domains the loop lowers, in its order (R491). -/
def capDoms : List Nat := [4, 7, 5, 6, 3]

/-- The step a ceiling code allows: only TILE has a step above S0. -/
def ceilStep (s : State) (d c : Nat) : Nat := if c = 8 then (if d = 4 && s.pwr.sprintOk then 8 else 0) else c

/-- Lower a ceiling by one step, and raise it. -/
def ceilDown (s : State) (d c : Nat) : Nat := stepDown d (ceilStep s d c)
@[inherit_doc ceilDown] def ceilUp (d c : Nat) : Nat :=
  let u := stepUp d c
  if d ≠ 4 ∧ u = 0 then 8 else u

/-- A domain is at its lowest ungated step: its ceiling stands there, or it runs there under a lower-ranked policy (R493). -/
def atLowest (s : State) (d : Nat) : Bool :=
  decide (ceilStep s d (s.dom d).capCeil = lowestStep d ∨ s.getF (CLK_DOM_STATUS.cur_step d) = lowestStep d)

/-- P_avg is above C (R491, R493). -/
def capLower (s : State) : State :=
  let s1 := { s with pwr := { s.pwr with capGood := 0 } }
  let s0 := if capDoms.all (atLowest s1) then s1.setF PWR_PKG.cap_unmet 1 else s1
  match capDoms.find? fun d => decide (ceilStep s d (s.dom d).capCeil ≠ lowestStep d) with
  | some d =>
    let s1 := s0.setDom d { s0.dom d with capCeil := ceilDown s0 d (s0.dom d).capCeil }
    { s1 with pwr := { s1.pwr with lowered := d :: s1.pwr.lowered } }
  | none => s0

/-- P_avg is at most 0.95 × C: after 8 such samples the domain lowered last rises one step. -/
def capRaise (s : State) : State :=
  let n := s.pwr.capGood + 1
  if n < 8 then { s with pwr := { s.pwr with capGood := n } }
  else
    let s0 := { s with pwr := { s.pwr with capGood := 0 } }
    match s0.pwr.lowered with
    | [] => s0
    | d :: rest =>
      let s1 := s0.setDom d { s0.dom d with capCeil := ceilUp d (s0.dom d).capCeil }
      { s1 with pwr := { s1.pwr with lowered := rest } }

/-- One run of the cap loop: P_avg is `sum` ÷ `n` in units of 10 µW, compared exactly. -/
def capLoop (s : State) (sum n : Nat) : State :=
  let c := s.getF PWR_CAP_EFF.cap
  let s1 := if sum ≤ 100 * n * c then s.setF PWR_PKG.cap_unmet 0 else s
  if 100 * n * c < sum then capLower s1
  else if sum ≤ 95 * n * c then capRaise s1
  else { s1 with pwr := { s1.pwr with capGood := 0 } }

/-- Sprint is permitted at this sample (R492). -/
def sprintNow (s : State) : Bool :=
  sprintPermit s && decide (95000 < s.getF PWR_CAP_EFF.cap ∧ s.getF PWR_THERM_STATUS.hottest < s.getF PWR_THERM_CFG.sprint_max)

/-- The PWR_QUERY block (R510). -/
def queryBytes (s : State) : List Byte :=
  let fl := s.getF PWR_THERM_STATUS.warn + 2 * s.getF PWR_THERM_STATUS.hot + 4 * s.getF PWR_PKG.cap_unmet +
    8 * s.getF PWR_MULTI_STATUS.joined + 16 * s.getF PWR_MULTI_STATUS.claim + 32 * s.getF PWR_MULTI_STATUS.donating +
    64 * s.getF PWR_MULTI_STATUS.raised + 128 * b2n (decide (s.getF PWR_STATUS.telem_err ≠ 0))
  let group := if s.getF PWR_MULTI_CFG.mode = 2 then s.getF PWR_MULTI_STATUS.group else 0xFF
  leBytes 8 s.pwr.sampleAt ++ leBytes 4 (s.getF PWR_PKG.p_avg) ++ leBytes 4 (s.getF PWR_CAP_CFG.cap) ++
  leBytes 4 (s.getF PWR_CAP_EFF.cap) ++ leBytes 1 (s.getF PWR_THERM_STATUS.hottest) ++
  leBytes 1 (s.getF PWR_THERM_STATUS.index) ++ leBytes 2 fl ++ leBytes 4 (s.getF PWR_LAG.lag) ++
  leBytes 1 (s.getF PWR_MULTI_CFG.mode) ++ leBytes 1 group ++ leBytes 2 0 ++
  ((List.range 5).flatMap fun r => leBytes 2 (s.getF (PWR_RAIL.cur r))) ++ leBytes 2 0 ++
  leBytes 4 (s.getF PWR_OVR_THERM.n) ++ leBytes 4 (s.getF PWR_OVR_DROOP.n) ++ leBytes 4 (s.getF PWR_OVR_CAP.n) ++
  leBytes 4 (s.getF PWR_OVR_MULTI.n) ++ leBytes 4 0

/-- A sample (R488 to R493): power in units of 10 µW, the cap that takes effect now, sprint and the cap loop. PWR_PKG shows
the mean rounded down to whole mW; before 8 samples have been taken it is the mean of those there are. DESIGN CHOICE
(assumption 126). -/
def sample (s : State) (readings : List (Option (Nat × Nat))) : State :=
  let r := (List.range 5).foldl (sampleRail readings) (s, 0)
  let p := r.2 + 100 * s.getF PWR_AB_ALLOW.mw
  let ps := (p :: r.1.pwr.samples).take 8
  let s1 := match r.1.pwr.capNext with
    | some c => r.1.setF PWR_CAP_CFG.cap c
    | none => r.1
  let s2 := (updCap { s1 with pwr := { s1.pwr with samples := ps, capNext := none, sampleAt := s1.now } }).setF PWR_PKG.p_avg
    (min (ps.sum / (100 * ps.length)) 131071)
  let s3 := { s2 with pwr := { s2.pwr with sprintOk := sprintNow s2 } }
  let s4 := tileAdvance (refreshDoms (capLoop s3 ps.sum ps.length))
  { s4 with pwr := { s4.pwr with snap := queryBytes s4 } }

/-- TELEMETRY_SAMPLE (R488): every 12,500 ticks; `none` is a rail whose reading and retry both failed. -/
def execTelemetrySample (readings : List (Option (Nat × Nat))) (s : State) : Res :=
  .next (if tsuquelRuns s ∧ s.clk.running ∧ (s.pwr.sampleAt = 0 ∨ s.pwr.sampleAt + 12500 ≤ s.now) then sample s readings
    else s)

/-- STATUS_WORD_POLL (R488): the rails whose regulator reports a fault, as a mask. -/
def execStatusWordPoll (faults : Nat) (s : State) : Res :=
  .next (if tsuquelRuns s then s.setF PWR_STATUS.fault (orN (s.getF PWR_STATUS.fault) (faults % 32)) else s)

/-- DROOP_TRIP (R494, R495): the clocks stretch; only the trip is counted. -/
def execDroopTrip (d : Nat) (s : State) : Res :=
  .next (if d < 6 ∧ mainReleased s ∧ bitB s.pwr.droop d = false then
      (let s1 := s.addSat PWR_OVR_DROOP.n 1
       { s1 with pwr := { s1.pwr with droop := putBits s1.pwr.droop d 1 1 } }) else s)

/-- DROOP_RELEASE (R494). -/
def execDroopRelease (d : Nat) (s : State) : Res :=
  .next (if bitB s.pwr.droop d then { s with pwr := { s.pwr with droop := putBits s.pwr.droop d 1 0 } } else s)

/-! ### Thermal levels (R496 to R499) -/

/-- A hot trip begins, or is released: each domain restarts at its lowest ungated step, in ON at once (R58). -/
def hotTrip (s : State) : State :=
  hotDoms.foldl (fun t d => refreshDom (t.setDom d { t.dom d with hot := true }) d) (s.setF PWR_THERM_STATUS.hot 1)
@[inherit_doc hotTrip] def hotRelease (s : State) : State :=
  hotDoms.foldl (fun t d =>
    let low := lowestStep d
    let t1 := t.setDom d { t.dom d with hot := false, held := low }
    if decide (t1.clk.mode = .on) && mainReleased t1 then refreshDom (setStep (t1.setF (CLK_DOM_STATUS.target_step d) low) d low) d else t1) (s.setF PWR_THERM_STATUS.hot 0)

/-- The hottest of some readings (index, value): the lowest index among equals. -/
def hottestOf (l : List (Nat × Nat)) : Nat × Nat :=
  l.foldl (fun (b : Nat × Nat) e => if b.2 < e.2 then e else b) (l.headD (0, 0))

/-- The levels of R497 on a set of readings (sensor, degrees + 64). -/
def thermLevels (s : State) (l : List (Nat × Nat)) : State :=
  let h := hottestOf l
  let s1 := ((s.setF PWR_THERM_STATUS.hottest h.2).setF PWR_THERM_STATUS.index h.1).setF PWR_THERM_STATUS.warn
    (b2n (decide (s.getF PWR_THERM_CFG.warn ≤ h.2)))
  let main := l.filter fun e => decide (e.1 < 12)
  let s2 := if main.isEmpty then s1
    else if s1.flag PWR_THERM_STATUS.hot then (if main.all fun e => decide (e.2 ≤ 182) then hotRelease s1 else s1)
    else if main.any fun e => decide (189 ≤ e.2) then hotTrip s1 else s1
  if l.any fun e => decide (199 ≤ e.2) then
    if s2.flag PWR_THERM_STATUS.critical then s2
    else safeCause (setCause (s2.setF PWR_THERM_STATUS.critical 1) 1 true) 0x08
  else setCause (s2.setF PWR_THERM_STATUS.critical 0) 1 false

/-- THERMAL_READ (R496, R497): the readings of the 13 sensors; `none` for one that is not read. The hot and critical levels
act in hardware: a read needs the Sage die out of reset and TIME running, no more. -/
def execThermalRead (temps : List (Option Nat)) (s : State) : Res :=
  .next (if s.boot.sage ≠ .held ∧ s.clk.mode ≠ .off ∧ s.clk.running = true then
      (let l := readTemps s temps
       if l.isEmpty then s else thermLevels (tempsPut s l) l)
    else s)

/-- Move the warn ceilings of TILE and GFX. -/
def warnMove (s : State) (f : Nat → Nat → Nat) : State :=
  let s1 := [4, 7].foldl (fun t d => t.setDom d { t.dom d with warnCeil := f d (t.dom d).warnCeil }) s
  tileAdvance (refreshDoms { s1 with pwr := { s1.pwr with warnAt := s1.now } })

/-- WARN_THROTTLE_STEP (R497): one step lower each 100,000 ticks at or above warn, one higher each 1,000,000 ticks at or
below warn − 5. -/
def execWarnThrottleStep (s : State) : Res :=
  let h := s.getF PWR_THERM_STATUS.hottest
  let w := s.getF PWR_THERM_CFG.warn
  .next (if !tsuquelRuns s then s
    else if w ≤ h then (if s.pwr.warnAt + 100000 ≤ s.now then warnMove s (ceilDown s) else s)
    else if h + 5 ≤ w ∧ s.pwr.warnAt + 1000000 ≤ s.now ∧ ((s.dom 4).warnCeil ≠ 8 ∨ (s.dom 7).warnCeil ≠ 8) then warnMove s ceilUp
    else s)

/-! ### Multichip balance (R503 to R508) -/

/-- The members' node addresses (PWR_MULTI). -/
def multiNodes (s : State) : List Nat :=
  (List.range (s.getF PWR_MULTI_CFG.count)).map fun k => bits (s.getF PWR_MULTI_NODES.nodes) (8 * k) 8

def memberMask (s : State) : Nat := if s.getF PWR_MULTI_CFG.mode = 0 then 0 else bitsMask (multiNodes s)

/-- The TILE step that ranks 1 and 3 and the package's own cap loop allow (R504). -/
def ownStep (s : State) : Nat :=
  let x := s.dom 4
  slower (if x.hot then 7 else 8) (slower x.warnCeil (slower (capCeilOf s 4) (wantStep s 4)))

/-- The lag word (R504). -/
def lagWord (s : State) : Nat :=
  memberMask s + 2 ^ 16 * s.getF PWR_MULTI_CFG.mode + 2 ^ 18 * ownStep s + 2 ^ 22 * s.getF PWR_MULTI_STATUS.claim +
  2 ^ 23 * min (s.getF PWR_LAG.lag / 50000) 511

/-- Fields of a lag word. -/
def lwClaim (w : Nat) : Bool := bitB w 22
@[inherit_doc lwClaim] def lwStep (w : Nat) : Nat := bits w 18 4
@[inherit_doc lwClaim] def lwLag (w : Nat) : Nat := bits w 23 9

/-- A member's donation in mW (R507). -/
def donationOf (s : State) : Nat := s.getF PWR_MULTI_CFG.shift_w * 1000 / (s.getF PWR_MULTI_CFG.count - 1)

/-- Set claim, raise and donation with the bits that show them, and the effective cap. -/
def setShift (s : State) (claim : Bool) (raise donation : Nat) : State :=
  let s1 := ((s.setF PWR_MULTI_STATUS.claim (b2n claim)).setF PWR_MULTI_STATUS.raised (b2n (decide (raise ≠ 0)))).setF
    PWR_MULTI_STATUS.donating (b2n (decide (donation ≠ 0)))
  updCap { s1 with pwr := { s1.pwr with raise_ := raise, donation := donation } }

/-- Consecutive rounds with this package's claim. -/
def setClaimRounds (s : State) (n : Nat) : State := { s with pwr := { s.pwr with claimRounds := n } }

/-- Every member's word is present and shows the same members and mode (R506). -/
def joinedIn (s : State) (words : List Nat) : Bool :=
  let want := memberMask s + 2 ^ 16 * s.getF PWR_MULTI_CFG.mode
  (multiNodes s).all fun n => decide (words.getD n 0xFFFFFFFF ≠ 0xFFFFFFFF ∧ words.getD n 0 % 2 ^ 18 = want)

/-- The other members' words. -/
def otherWords (s : State) (words : List Nat) : List (Nat × Nat) :=
  ((multiNodes s).filter fun n => decide (n ≠ s.getF RING_CTRL.node)).map fun n => (n, words.getD n 0xFFFFFFFF)

/-- A joined round in shift mode (R507). A member that sees another's claim donates, whether it claims itself or not. -/
def shiftRound (s : State) (words : List Nat) : State :=
  let own := min (s.getF PWR_LAG.lag / 50000) 511
  let others := otherWords s words
  let claims := others.filter fun e => lwClaim e.2
  let gift := if claims.isEmpty then 0 else donationOf s
  let s := if claims.isEmpty then s else { s with pwr := { s.pwr with claimSeen := s.now } }
  let above (m : Nat) : Bool := others.all fun e => decide (lwLag e.2 + m ≤ own)
  if s.flag PWR_MULTI_STATUS.claim then
    if !above 1 then setClaimRounds (setShift s false 0 gift) 0
    else if claims.any fun e => decide (e.1 < s.getF RING_CTRL.node) then setClaimRounds (setShift s false 0 gift) 0
    else if !claims.isEmpty then setClaimRounds (setShift s true 0 gift) 0
    else
      let n := s.pwr.claimRounds + 1
      setClaimRounds (setShift s true (if 2 ≤ n then (s.getF PWR_MULTI_CFG.count - 1) * donationOf s else 0) 0) n
  else if !claims.isEmpty then setShift s false 0 gift
  else if above (s.getF PWR_MULTI_CFG.lag_margin) then setClaimRounds (setShift s true 0 0) 0
  else setShift s false 0 0

/-- A joined round in level mode (R508): lower at once, raise after the same faster step in two rounds. -/
def levelRound (s : State) (words : List Nat) : State :=
  let cap7 (c : Nat) : Nat := if c = 7 then 6 else c
  let g := (otherWords s words).foldl (fun a e => slower a (cap7 (lwStep e.2))) (cap7 (ownStep s))
  let x := s.dom 4
  let go := decide (stepRank x.levelCeil ≤ stepRank g) || decide (s.pwr.groupSeen = g)
  let s1 := (if go then s.setDom 4 { x with levelCeil := g } else s).setF PWR_MULTI_STATUS.group g
  tileAdvance (refreshDom { s1 with pwr := { s1.pwr with groupSeen := g } } 4)

/-- The package acts as in mode 0 (R506): no ceiling, no raise, no claim. -/
def multiSingle (s : State) : State :=
  let s1 := s.setDom 4 { s.dom 4 with levelCeil := 8 }
  tileAdvance (refreshDom (setClaimRounds (setShift s1 false 0 s1.pwr.donation) 0) 4)

/-- A round in which the package is not joined (R506, R507): a raise goes at once; a donor still sees claims. -/
def unjoinedRound (s : State) (words : List Nat) : State :=
  let n := min (s.getF PWR_MULTI_STATUS.missed + 1) 255
  let s0 := (s.setF PWR_MULTI_STATUS.joined 0).setF PWR_MULTI_STATUS.missed n
  let s1 := { s0 with pwr := { s0.pwr with groupSeen := 16 } }
  let s2 := if s1.flag PWR_MULTI_STATUS.claim then setClaimRounds (setShift s1 false 0 s1.pwr.donation) 0 else s1
  let seen := (otherWords s2 words).any fun e => decide (e.2 ≠ 0xFFFFFFFF) && lwClaim e.2
  let s3 := if seen && decide (s2.pwr.donation ≠ 0) then { s2 with pwr := { s2.pwr with claimSeen := s2.now } } else s2
  if 3 ≤ n then multiSingle s3 else s3

/-- A round (R505 to R508): the words as this package sees them. -/
def multiRound (s : State) (words : List Nat) : State :=
  let mode := s.getF PWR_MULTI_CFG.mode
  let s0 := { s with pwr := { s.pwr with roundAt := s.now, words := words.zipIdx.map fun e => (e.2, e.1) } }
  if mode = 0 then s0
  else
    let w := words.set (s.getF RING_CTRL.node) (lagWord s)
    if joinedIn s0 w then
      let s1 := (s0.setF PWR_MULTI_STATUS.joined 1).setF PWR_MULTI_STATUS.missed 0
      if mode = 1 then shiftRound s1 w else levelRound s1 w
    else unjoinedRound s0 w

/-- MULTI_ROUND_TIMEOUT (R506, R507): no round for 1.5 or 3 periods of TIMESYNC, or no claim seen for 3. -/
def execMultiRoundTimeout (s : State) : Res :=
  let per := s.getF RING_TS_PERIOD.ticks
  let gone (n : Nat) : Bool := decide (2 * s.pwr.roundAt + n * per ≤ 2 * s.now)
  .next (if s.getF PWR_MULTI_CFG.mode = 0 ∨ tsuquelRuns s = false then s
    else
      (let s1 := if gone 3 && s.flag PWR_MULTI_STATUS.claim then setClaimRounds (setShift s false 0 s.pwr.donation) 0 else s
       let s2 := if s1.pwr.donation ≠ 0 ∧ s1.pwr.claimSeen + 3 * per ≤ s1.now then
           setShift s1 (s1.flag PWR_MULTI_STATUS.claim) s1.pwr.raise_ 0 else s1
       if gone 6 then multiSingle (s2.setF PWR_MULTI_STATUS.joined 0) else s2))

/-! ### Opcodes -/

/-- PWR_STEP (R182, R52, R53): the detail shows the step in effect and the target. -/
def execPwrStep (q idx : Nat) (s : State) : Res :=
  carry s q idx 0x6000 noPre fun t p =>
    let d := p.u 0 1
    let c := if p.u 2 1 = 8 && !sprintPermit t then 0 else p.u 2 1
    let t1 := match p.u 1 1 with
      | 0 => t.setDom d { t.dom d with req := c }
      | 1 => (t.setF (CLK_DOM_CTRL.fixed_step d) (p.u 2 1)).setF (CLK_DOM_CTRL.fixed_en d) 1
      | 2 => t.setF (CLK_DOM_CTRL.fixed_en d) 0
      | _ => t.setDom d { t.dom d with req := 16 }
    let t2 := refreshDom t1 d
    let t3 := if d = 4 then tileAdvance t2 else t2
    complete t3 p 0 (t3.getF (CLK_DOM_STATUS.cur_step d) + 16 * t3.getF (CLK_DOM_STATUS.target_step d)) 0

/-- The precondition of PWR_CAP (R183). -/
def prePwrCap (s : State) (p : Pkt) : State × PreFail := (s, firstPre [(decide (p.u 0 4 ≤ 95000) || sprintPermit s, 0)])

/-- PWR_CAP (R183, R490): the cap takes effect at the first sample after this. -/
def execPwrCap (q idx : Nat) (s : State) : Res :=
  carry s q idx 0x6001 prePwrCap fun t p =>
    complete { t with pwr := { t.pwr with capNext := some (p.u 0 4) } } p 0 (t.getF PWR_CAP_EFF.cap) 0

/-- The preconditions of PWR_MULTI (R184), in every mode: its own node is listed, and every node is a T32 of the latest probe
table. Unused bytes of the list are 0xFF. -/
def prePwrMulti (s : State) (p : Pkt) : State × PreFail :=
  let nodes := ((List.range 4).map fun k => p.u (4 + k) 1).filter fun n => decide (n ≠ 0xFF)
  (s, firstPre
    [(decide (ringNode s ≠ none ∧ s.getF RING_CTRL.node ∈ nodes) && nodes.all fun n => bitB s.ring.t32s n, 4)])

/-- PWR_MULTI (R184). -/
def execPwrMulti (q idx : Nat) (s : State) : Res :=
  carry s q idx 0x6002 prePwrMulti fun t p =>
    let m := p.u 0 1
    let t1 := (t.setF PWR_MULTI_CFG.mode m).setF PWR_MULTI_CFG.count (if m = 0 then 0 else p.u 1 1)
    let t2 := t1.setF PWR_MULTI_NODES.nodes (if m = 0 then 0xFFFFFFFF else p.u 4 4)
    let t3 := (t2.wr PWR_MULTI_STATUS.addr 0).setDom 4 { t2.dom 4 with levelCeil := 8 }
    let t4 := setClaimRounds (setShift t3 false 0 0) 0
    let t5 := { t4 with pwr := { t4.pwr with groupSeen := 16, roundAt := t4.now } }
    complete (tileAdvance (refreshDom t5 4)) p 0 0 0

/-- PWR_QUERY (R510): the block of the last sample. -/
def execPwrQuery (q idx : Nat) (s : State) : Res :=
  carryDma s q idx 0x6005 noPre fun t p =>
    outAndEnd t p (p.u 0 8) (if t.pwr.snap.isEmpty then queryBytes t else t.pwr.snap) 0

end Sys2Proof.Machine
end

