-- ==== Sys2Proof/Machine/RingLine.lean ====
section
/-! DEFINITION. The Relay ring's line (R202 to R204): 8b/10b code-groups with running disparity, ordered sets and delimiters.
A code-group is a 10-bit number written abcdei fghj: bit a is its highest bit and goes first. -/

namespace Sys2Proof.Machine

/-- Replace the ring's own state. -/
def State.setRing (s : State) (r : RingState) : State := { s with ring := r }

/-! ### 8b/10b (R202; the code tables are those of IEEE 802.3 Clause 36, assumption 123) -/

/-- Symbols of the ring: a byte, K28.5, and the delimiters /S/, /T/ and /V/. -/
inductive RingSym where
  | data (b : Nat)
  | comma | start | stop | abort
deriving DecidableEq, Repr

/-- The 5b/6b code of negative running disparity, by the low five bits of a byte. -/
def sixes : List Nat :=
  [0b100111, 0b011101, 0b101101, 0b110001, 0b110101, 0b101001, 0b011001, 0b111000,
   0b111001, 0b100101, 0b010101, 0b110100, 0b001101, 0b101100, 0b011100, 0b010111] ++
  [0b011011, 0b100011, 0b010011, 0b110010, 0b001011, 0b101010, 0b011010, 0b111010,
   0b110011, 0b100110, 0b010110, 0b110110, 0b001110, 0b101110, 0b011110, 0b101011]

/-- The 3b/4b code of negative running disparity, by the high three bits of a byte. -/
def fours : List Nat := [0b1011, 0b1001, 0b0101, 0b1100, 0b1101, 0b1010, 0b0110, 0b1110]

/-- The ones among the low `n` bits. -/
def onesIn : Nat → Nat → Nat
  | 0, _ => 0
  | n + 1, v => v % 2 + onesIn n (v / 2)

/-- The running disparity after a sub-block: positive after more ones than zeros, negative after fewer. -/
def rdAfter (rd : Bool) (n v : Nat) : Bool :=
  if n < 2 * onesIn n v then true else if 2 * onesIn n v < n then false else rd

/-- A code of `n` bits in the column of a running disparity: the other column complements unbalanced codes, and the balanced
D.7 and D.x.3. -/
def column (rd : Bool) (n v : Nat) (pair : Bool) : Nat :=
  if rd ∧ (2 * onesIn n v ≠ n ∨ pair) then 2 ^ n - 1 - v else v

def sixOf (rd : Bool) (x : Nat) : Nat := column rd 6 (sixes.getD x 0) (decide (x = 7))

/-- The 3b/4b code after a 5b/6b one: D.x.A7 keeps runs of one bit short. -/
def fourOf (rd : Bool) (x y : Nat) : Nat :=
  let alt := decide (y = 7) &&
    (if rd then decide (x = 11 ∨ x = 13 ∨ x = 14) else decide (x = 17 ∨ x = 18 ∨ x = 20))
  if alt then column rd 4 0b0111 false else column rd 4 (fours.getD y 0) (decide (y = 3))

/-- A code-group of a symbol. -/
def encSym (rd : Bool) : RingSym → Nat
  | .data b =>
    let six := sixOf rd (b % 32)
    64 / 4 * six + fourOf (rdAfter rd 6 six) (b % 32) (b / 32 % 8)
  | .comma => column rd 10 0b0011111010 false
  | .start => column rd 10 0b1101101000 true
  | .stop => column rd 10 0b1011101000 true
  | .abort => column rd 10 0b0111101000 true

/-- The symbol of a code-group in the column of a running disparity; none is a code or disparity error. -/
def decSym (rd : Bool) (g : Nat) : Option RingSym :=
  match [RingSym.comma, .start, .stop, .abort].find? fun k => decide (encSym rd k = g) with
  | some k => some k
  | none =>
    match (List.range 32).find? fun x => decide (sixOf rd x = g / 16) with
    | none => none
    | some x =>
      match (List.range 8).find? fun y => decide (fourOf (rdAfter rd 6 (g / 16)) x y = g % 16) with
      | none => none
      | some y => some (.data (32 * y + x))

/-- Encode symbols from a running disparity. -/
def encode : Bool → List RingSym → List Nat × Bool
  | rd, [] => ([], rd)
  | rd, x :: t =>
    let g := encSym rd x
    let r := encode (rdAfter rd 10 g) t
    (g :: r.1, r.2)

/-- Decode code-groups; the first after training gives the running disparity. -/
def decode : Option Bool → List Nat → List (Option RingSym) × Option Bool
  | rd, [] => ([], rd)
  | rd, g :: t =>
    let rd0 := rd.getD (decSym false g).isNone
    let r := decode (some (rdAfter rd0 10 g)) t
    (decSym rd0 g :: r.1, r.2)

/-- A code-group on the wire, bit a first. -/
def wireBits (g : Nat) : List Bool := (List.range 10).map fun i => bitB g (9 - i)

/-! ### Ordered sets and frames (R203, R204) -/

/-- /I/, /Z/ and a delimited frame followed by two /I/. -/
def idleSet : List RingSym := [.comma, .data 0x50]
@[inherit_doc idleSet] def sleepSet : List RingSym := [.comma, .data 0xB5]
@[inherit_doc idleSet] def frameSyms (bs : List Byte) : List RingSym :=
  .start :: bs.map (fun b => RingSym.data b.toNat) ++ [.stop] ++ idleSet ++ idleSet

/-- /TS1/ or /TS2/ of this T32 on a port: it is bypassable. -/
def trainSet (s : State) (p : Nat) (ts2 : Bool) : List RingSym :=
  [.comma, .data (if ts2 then 0x45 else 0x4A), .data (s.getF RING_CTRL.node + 16 * p), .data 3, .data 1, .data 0]

/-- A received training set: is it /TS2/, and its byte n. The bits that R203 gives as zero are zero. -/
def readTrain : List (Option RingSym) → Option (Bool × Nat)
  | [some .comma, some (.data k), some (.data n), some (.data c), some (.data 1), some (.data 0)] =>
    if (k = 0x45 ∨ k = 0x4A) ∧ n < 32 ∧ c < 4 then some (decide (k = 0x45), n) else none
  | _ => none

/-- The bytes between /S/ and /T/; none where a frame ends in /V/ or holds anything else. -/
def frameBytes : List (Option RingSym) → Option (List Byte)
  | [some .stop] => some []
  | some (.data b) :: t => (frameBytes t).map (BitVec.ofNat 8 b :: ·)
  | _ => none
@[inherit_doc frameBytes] def readFrame : List (Option RingSym) → Option (List Byte)
  | some .start :: t => frameBytes t
  | _ => none

/-- Put symbols on a port's transmit pair. -/
def sendSyms (s : State) (p : Nat) (xs : List RingSym) : State :=
  let r := encode (tabGet (fun _ => false) s.ring.txRd p) xs
  s.setRing { s.ring with sent := (p, r.1) :: s.ring.sent, txRd := tabPut (fun _ => false) s.ring.txRd p r.2 }

/-- Put a frame on a port's transmit pair. -/
def sendOn (s : State) (p : Nat) (bs : List Byte) : State := sendSyms s p (frameSyms bs)

/-- The closed switch of a receiving port passes code-groups on (R209). -/
def passOn (s : State) (p : Nat) (gs : List Nat) : State := s.setRing { s.ring with sent := (1 - p, gs) :: s.ring.sent }

/-- Code and disparity errors among symbols, and whether any 64 in a row hold four of them (R206). -/
def symErrors (xs : List (Option RingSym)) : Nat := (xs.filter Option.isNone).length
@[inherit_doc symErrors] def errorBurst : List (Option RingSym) → Bool
  | [] => false
  | x :: t => decide (4 ≤ symErrors ((x :: t).take 64)) || errorBurst t

/-- The symbols a port receives: errors are counted, and a run of training sets ends (R203, R205). -/
def State.rport (s : State) (p : Nat) : RingPort := tabGet (fun _ => RingPort.init) s.ring.ports p
@[inherit_doc State.rport] def State.setRport (s : State) (p : Nat) (r : RingPort) : State :=
  s.setRing { s.ring with ports := tabPut (fun _ => RingPort.init) s.ring.ports p r }
@[inherit_doc State.rport] def rxSyms (s : State) (p : Nat) (gs : List Nat) : State × List (Option RingSym) :=
  let r := decode (s.rport p).rxRd gs
  ((s.setRport p { s.rport p with rxRd := r.2 }).addSat (RING_ERR.code p) (symErrors r.1), r.1)
def endSets (s : State) (p : Nat) : State := s.setRport p { s.rport p with seen := 0, seen2 := 0, ts1 := 0 }

end Sys2Proof.Machine
end

