-- ==== Sys2Proof/Machine/RingOps.lean ====
section
/-! DEFINITION. The Relay ring's frames, CRC, ports, bypass, wrapping and origination (R197 to R219, R233, R234). Ports are
numbered 0 for A and 1 for B. -/

namespace Sys2Proof.Machine

/-! ### Frames (R213 to R215) -/

/-- One byte of CRC-32C in reflected form (R214). -/
def crcBit (c : Nat) : Nat := if c % 2 = 1 then xorN (c / 2) 0x82F63B78 else c / 2
def crcByte (c : Nat) (b : Byte) : Nat :=
  crcBit (crcBit (crcBit (crcBit (crcBit (crcBit (crcBit (crcBit (xorN c b.toNat))))))))

/-- CRC-32C of bytes. -/
def crc32c (bs : List Byte) : Nat := xorN (bs.foldl crcByte 0xFFFFFFFF) 0xFFFFFFFF

/-- A frame without its delimiters (R213). -/
structure RFrame where
  typ : Nat
  flags : Nat
  src : Nat
  dst : Nat
  seq : Nat
  hops : Nat
  wrapNode : Nat
  tag : Nat
  payload : List Byte
deriving DecidableEq, Repr

/-- Flag bits: WRAPPED, COPIED, REPLY, RESYNC, REVERSE. -/
def RFrame.has (f : RFrame) (b : Nat) : Bool := bitB f.flags b
def RFrame.mark (f : RFrame) (b : Nat) : RFrame := { f with flags := putBits f.flags b 1 1 }

/-- The bytes of a frame with its CRC. -/
def RFrame.bytes (f : RFrame) : List Byte :=
  let body := leBytes 1 f.typ ++ leBytes 1 f.flags ++ leBytes 1 f.src ++ leBytes 1 f.dst ++ leBytes 2 f.seq ++
    leBytes 2 f.payload.length ++ leBytes 1 f.hops ++ leBytes 1 f.wrapNode ++ leBytes 2 0 ++ leBytes 4 f.tag ++ f.payload
  body ++ leBytes 4 (crc32c body)

/-- Records of a SWEEP or of a RECOLLECT reply: `count` of them, with no byte left over (R229). -/
def recsOk : Nat → List Byte → Bool
  | 0, bs => bs.isEmpty
  | n + 1, bs =>
    let len := leAt bs 2 2
    decide (16 + len ≤ bs.length ∧ len ≤ 256 ∧ leAt bs 0 1 < 16 ∧ leAt bs 1 1 < 4 ∧ leAt bs 4 4 = 0) && recsOk n (bs.drop (16 + len))

/-- The payload has the layout of its type, with reserved bytes zero (R215, R225, R229, R232, R233, R240). -/
def payloadOk (typ : Nat) (reply : Bool) (bs : List Byte) : Bool :=
  match typ with
  | 1 => decide (16 ≤ bs.length ∧ leAt bs 8 1 ≤ 16 ∧ leAt bs 9 7 = 0) && recsOk (leAt bs 8 1) (bs.drop 16)
  | 2 =>
    if reply then decide (8 ≤ bs.length ∧ leAt bs 0 1 ≤ 1 ∧ leAt bs 1 7 = 0) && recsOk (1 - leAt bs 0 1) (bs.drop 8)
    else bs.isEmpty
  | 3 => decide (1 ≤ bs.length ∧ bs.length ≤ 512)
  | 4 => bs.isEmpty
  | 5 => decide (bs.length % 8 = 0)
  | 6 => decide (bs.length = 8 ∧ leAt bs 0 1 ≤ 1 ∧ leAt bs 1 1 ≤ 1 ∧ leAt bs 2 2 = 0)
  | _ => decide (bs.length = 80)

/-- A received frame, or none where R215 discards it. -/
def parseFrame (bs : List Byte) : Option RFrame :=
  let n := bs.length
  let len := leAt bs 6 2
  if n < 20 ∨ n ≠ 20 + len then none
  else if crc32c (bs.take (16 + len)) ≠ leAt bs (16 + len) 4 then none
  else
    let f : RFrame := ⟨leAt bs 0 1, leAt bs 1 1, leAt bs 2 1, leAt bs 3 1, leAt bs 4 2, leAt bs 8 1, leAt bs 9 1,
      leAt bs 12 4, slice bs 16 len⟩
    if 1 ≤ f.typ ∧ f.typ ≤ 7 ∧ f.flags < 32 ∧ f.src < 16 ∧ (f.dst < 16 ∨ f.dst = 0xFF) ∧ leAt bs 10 2 = 0 ∧
        (f.wrapNode < 16 ∨ f.wrapNode = 0xFF) ∧ payloadOk f.typ (f.has 2) f.payload then some f
    else none

/-! ### Ports (R205 to R211) -/

/-- This package's node address. -/
def ownNode (s : State) : Nat := s.getF RING_CTRL.node

def portEn (s : State) (p : Nat) : Bool := if p = 0 then s.flag RING_CTRL.port_a_en else s.flag RING_CTRL.port_b_en
def portState (s : State) (p : Nat) : Nat := if p = 0 then s.getF RING_STATUS.a_state else s.getF RING_STATUS.b_state
def setPortState (s : State) (p v : Nat) : State :=
  if p = 0 then s.setF RING_STATUS.a_state v else s.setF RING_STATUS.b_state v
def portUp (s : State) (p : Nat) : Bool := portEn s p && decide (portState s p = 2)
def bypassOpen (s : State) : Bool := !s.flag RING_STATUS.bypass_closed
def wrappedAt (s : State) (p : Nat) : Bool := if p = 0 then s.flag RING_STATUS.wrap_a else s.flag RING_STATUS.wrap_b
def setWrapped (s : State) (p : Nat) (b : Bool) : State :=
  if p = 0 then s.setF RING_STATUS.wrap_a (b2n b) else s.setF RING_STATUS.wrap_b (b2n b)
def setMiswire (s : State) (p : Nat) (b : Bool) : State :=
  if p = 0 then s.setF RING_STATUS.miswire_a (b2n b) else s.setF RING_STATUS.miswire_b (b2n b)
def miswired (s : State) (p : Nat) : Bool := if p = 0 then s.flag RING_STATUS.miswire_a else s.flag RING_STATUS.miswire_b
/-- The neighbour at a port (RING_NEIGH); none clears its valid bit. -/
def setNeigh (s : State) (p : Nat) : Option Nat → State
  | some n => if p = 0 then (s.setF RING_NEIGH.a n).setF RING_NEIGH.a_valid 1 else (s.setF RING_NEIGH.b n).setF RING_NEIGH.b_valid 1
  | none => if p = 0 then s.setF RING_NEIGH.a_valid 0 else s.setF RING_NEIGH.b_valid 0
/-- The other port. -/
def otherPort (p : Nat) : Nat := 1 - p
/-- Frames leave through a port that is UP and not wrapped (R216, R234). -/
def portOpen (s : State) (p : Nat) : Bool := portUp s p && !wrappedAt s p
def upPorts (s : State) : List Nat := [0, 1].filter (portUp s)

/-- A frame wrapped by this node (R216 step 4). -/
def wrapHere (s : State) (f : RFrame) : RFrame :=
  { f.mark 0 with wrapNode := if f.wrapNode = 0xFF then ownNode s else f.wrapNode }

/-- Originate a frame on a port, subject to wrap (R217). -/
def originate (s : State) (p : Nat) (f : RFrame) : State :=
  if portOpen s p then sendOn s p f.bytes
  else if portUp s (otherPort p) then sendOn s (otherPort p) (wrapHere s f).bytes
  else s

/-- The hop limit and forwarding of a frame received on port `p` (R216 steps 3 and 4). -/
def forward (s : State) (p : Nat) (f : RFrame) : State :=
  if f.hops = 31 then s.addSat RING_DROP.hops 1
  else
    let g := { f with hops := f.hops + 1 }
    if portOpen s (otherPort p) then sendOn s (otherPort p) g.bytes
    else if portUp s p then sendOn s p (wrapHere s g).bytes
    else s

/-- A frame of this node with nothing special about it. -/
def ownFrame (s : State) (typ flags dst seq tag : Nat) (payload : List Byte) : RFrame :=
  ⟨typ, flags, ownNode s, dst, seq, 0, 0xFF, tag, payload⟩

/-- Send a WRAP notice for a port on each UP port (R233, R234). -/
def wrapNotice (s : State) (p state : Nat) : State :=
  let f := ownFrame s 6 0 0xFF 0 s.ring.holdId (leBytes 1 p ++ leBytes 1 state ++ leBytes 2 0 ++ leBytes 4 s.ring.holdId)
  (upPorts s).foldl (fun t k => sendOn t k f.bytes) s

/-- The node wraps at a port that is not UP while its bypass is open (R233). -/
def wrapPort (s : State) (p : Nat) : State :=
  if bypassOpen s && !portUp s p && !wrappedAt s p then wrapNotice (setWrapped s p true) p 1 else s

/-- The node unwraps at every wrapped port that is UP again (R234): the ports concerned. -/
def healedPorts (s : State) : List Nat := [0, 1].filter fun p => wrappedAt s p && portUp s p
@[inherit_doc healedPorts] def unwrapPorts (s : State) (ps : List Nat) : State :=
  ps.foldl (fun t p => setWrapped t p false) s
@[inherit_doc healedPorts] def unwrapNotices (s : State) (ps : List Nat) : State :=
  ps.foldl (fun t p => wrapNotice t p 0) s

/-- A port enters TRAIN and sends /TS1/ (R205); a port that is not enabled is treated as DOWN (R211). -/
def trainPort (s : State) (p : Nat) : State :=
  let s1 := setNeigh (sendSyms s p (trainSet s p false)) p none
  if portEn s p then (setPortState s1 p 1).setRport p { RingPort.init with since := s.now }
  else (setPortState s1 p 3).setRport p RingPort.init

/-- An UP or sleeping port goes DOWN, trains again, and the node wraps at it (R205, R206, R233). -/
def portDown (s : State) (p : Nat) : State := wrapPort (trainPort s p) p

/-- Close both bypass switches (R209, R210): no port has a state. -/
def closeBypass (s : State) : State :=
  let s1 := [0, 1].foldl (fun t p =>
    (setWrapped (setMiswire (setNeigh (setPortState t p 0) p none) p false) p false).setRport p RingPort.init) s
  s1.setF RING_STATUS.bypass_closed 1

/-- Open both switches (R211): every enabled port trains, and the node wraps at both. -/
def openBypass (s : State) : State :=
  let s1 := trainPort (trainPort (s.setF RING_STATUS.bypass_closed 0) 0) 1
  setWrapped (setWrapped s1 0 true) 1 true

/-- Groups A and B are good. -/
def groupsGood (s : State) : Bool := decide (s.getF PWR_RAIL_STATUS.good % 16 = 15)

/-- BYPASS_CLOSE (R210): a lost rail, a Sage reset, or both ports disabled. -/
def execBypassClose (s : State) : Res :=
  .next (if bypassOpen s ∧ (groupsGood s = false ∨ s.boot.sage = .held ∨ (portEn s 0 = false ∧ portEn s 1 = false)) then
      closeBypass s else s)

/-- BYPASS_OPEN (R211): the receivers of the enabled ports have held symbol lock for 1,024 symbols. -/
def execBypassOpen (s : State) : Res :=
  .next (if bypassOpen s = false ∧ groupsGood s ∧ s.boot.sage ≠ .held ∧ (portEn s 0 ∨ portEn s 1) then openBypass s else s)

/-! ### Baton and DATA at the source (R220 to R224) -/

/-- Put a number among those met, and let go of those more than half the range of `m` behind it. -/
def metAdd (m n : Nat) (l : List Nat) : List Nat := n :: l.filter fun e => decide ((n + m - e) % m < m / 2 ∧ e ≠ n)

/-- Issue a baton generation from node 0. -/
def issueBaton (s : State) (gen : Nat) : State :=
  let g := u32 gen
  let s1 := s.setRing { s.ring with batonGen := g, batonOut := some s.now, batonUsed := metAdd (2 ^ 32) g s.ring.batonUsed }
  originate s1 1 (ownFrame s1 4 0 0xFF 0 g [])

/-- A frame at the source can go now: it is not out, and no earlier one for its destination waits. -/
def dataReady : List DataOut → List Nat → Option DataOut
  | [], _ => none
  | e :: t, ahead => if e.flying || decide (e.dst ∈ ahead) then dataReady t (e.dst :: ahead) else some e

/-- Replace one entry of the source list. -/
def putData (s : State) (old new : DataOut) : State :=
  s.setRing { s.ring with dataOut := s.ring.dataOut.map fun e => if e = old then new else e }
def dropData (s : State) (old : DataOut) : State :=
  s.setRing { s.ring with dataOut := s.ring.dataOut.filter fun e => decide (e ≠ old) }

/-- Send one DATA frame (R222 to R224): its first transmission takes the next seq, with RESYNC where it is due. -/
def sendOneData (s : State) (e : DataOut) : State :=
  let last := tabGet (fun _ => 0) s.ring.txSeq e.dst
  let e1 := if e.sends = 0 then { e with seq := (last + 1) % 65536, resync := decide (e.dst ∉ s.ring.synced) } else e
  let e2 := { e1 with sends := e1.sends + 1, sentAt := s.now, flying := true }
  let s1 := putData s e e2
  let s2 := s1.setRing { s1.ring with
    txSeq := tabPut (fun _ => 0) s1.ring.txSeq e.dst e2.seq
    synced := if e.dst ∈ s1.ring.synced then s1.ring.synced else e.dst :: s1.ring.synced }
  originate s2 1 (ownFrame s2 3 (if e2.resync then 8 else 0) e.dst e2.seq 0 e.payload)

/-- Up to `n` own DATA frames (R220). -/
def sendData : Nat → State → State
  | 0, s => s
  | n + 1, s => match dataReady s.ring.dataOut [] with
    | none => s
    | some e => sendData n (sendOneData s e)

/-- An arrival for a waiting packet counts: its timeout has not expired (R134), and no safe state holds its effect back
(R147). -/
def arrives (s : State) (p : Pkt) (timeout : Nat) : Bool := !expired s (p.u timeout 8) && !s.flag SAF_STATUS.safe

/-- The RING_SEND behind a frame ends; a job's side effect was done when it was handed over (R546). -/
def dataEnd (s : State) (e : DataOut) (st detail : Nat) : State :=
  match e.pkt with
  | some k => (match s.pkt k.1 k.2 with
    | some p => if arrives s p 8 then complete s p st detail 0 else s
    | none => s)
  | none => s

/-- Delivery has failed (R223, R224): RING_SEND ends, and the next frame to the destination carries RESYNC. -/
def dataFailed (s : State) (e : DataOut) : State :=
  let s1 := dropData s e
  dataEnd (s1.setRing { s1.ring with synced := s1.ring.synced.filter fun d => decide (d ≠ e.dst) }) e 0x61 3

/-- A frame came back or its time is up: confirmed, to be sent again at the next baton, or failed after 3
retransmissions (R223). A confirmation counts also where the frame already waits to be sent again. -/
def dataBack (s : State) (e : DataOut) (copied : Bool) : State :=
  if copied then dataEnd (dropData s e) e 0 e.seq
  else if e.flying = false then s
  else if 4 ≤ e.sends then dataFailed s e
  else putData s e { e with flying := false }

/-- DATA_RETRANSMIT_TIMEOUT (R223): the frame out to a destination has not returned within RING_LEG_TO. -/
def execDataRetransmitTimeout (dst : Nat) (s : State) : Res :=
  .next (match s.ring.dataOut.find? fun e => decide (e.dst = dst) && e.flying with
    | some e => if e.sentAt + s.getF RING_LEG_TO.ticks < s.now then dataBack s e false else s
    | none => s)

/-- BATON_TIMEOUT (R221): at node 0, the baton has not returned within RING_BATON_TO. -/
def execBatonTimeout (s : State) : Res :=
  .next (match s.ring.batonOut with
    | some t => if ownNode s = 0 ∧ t + s.getF RING_BATON_TO.ticks < s.now then issueBaton s (s.ring.batonGen + 1) else s
    | none => s)

/-! ### Training (R205 to R207) -/

/-- A port comes up and sends /I/: node 0 issues a baton if none is out. -/
def portComesUp (s : State) (p : Nat) (neigh : Nat) : State :=
  let s1 := setNeigh (setPortState (sendSyms s p idleSet) p 2) p (some neigh)
  if ownNode s1 = 0 ∧ s1.ring.batonOut = none ∧ s1.ring.sleepDue = false then issueBaton s1 (s1.ring.batonGen + 1) else s1

/-- A training set on a port in TRAIN (R205, R207): one set is sent for each received. -/
def trainStep (s : State) (p : Nat) (ts2 : Bool) (n : Nat) : State :=
  let r := s.rport p
  let s0 := sendSyms s p (trainSet s p (decide (8 ≤ r.seen)))
  if bits n 4 1 = p ∨ n % 16 = ownNode s then
    (setMiswire s0 p true).setRport p { r with seen := 0, seen2 := 0, sent2 := 0 }
  else
    let r1 := { r with
      seen := r.seen + 1
      seen2 := if ts2 then r.seen2 + 1 else 0
      sent2 := if 8 ≤ r.seen then r.sent2 + 1 else 0 }
    let s1 := s0.setRport p r1
    if 8 ≤ r1.seen2 ∧ 16 ≤ r1.sent2 ∧ miswired s p = false then portComesUp s1 p (n % 16) else s1

/-- A training set on an UP port: two /TS1/ in a row take it DOWN (R206). -/
def trainOnUp (s : State) (p : Nat) (ts2 : Bool) : State :=
  let n := if ts2 then 0 else (s.rport p).ts1 + 1
  if 2 ≤ n then portDown s p else s.setRport p { s.rport p with ts1 := n }

/-- RING_TRAINING_SET (R203, R205 to R207, R209): the code-groups of one ordered set received on a port; one that is no
training set ends a run of them. -/
def execRingTrainingSet (p : Nat) (groups : List Nat) (s : State) : Res :=
  .next (if 2 ≤ p then s
    else if bypassOpen s = false then passOn s p groups
    else if portEn s p = false then s
    else
      let r := rxSyms (demand s 13) p groups
      match readTrain r.2 with
      | none => endSets r.1 p
      | some x =>
        if portState s p = 1 then trainStep r.1 p x.1 x.2
        else if portState s p = 2 then trainOnUp r.1 p x.1 else r.1)

/-- RING_TRAIN_RESTART (R205): training restarts every 1 ms. -/
def execRingTrainRestart (p : Nat) (s : State) : Res :=
  .next (if p < 2 ∧ portEn s p ∧ portState s p = 1 ∧ (s.rport p).since + 100000 ≤ s.now then trainPort s p else s)

/-- Does what an UP port sees take it DOWN (R206)? -/
def linkLost (xs : List (Option RingSym)) : LineSeen → Bool
  | .silent n => decide (32 ≤ n)
  | .noIdle n => decide (8192 ≤ n)
  | .groups _ => errorBurst xs

/-- RING_PORT_DOWN (R203, R206, R209): code and disparity errors are counted, and a condition of R206 takes an UP port
DOWN. -/
def execRingPortDown (p : Nat) (seen : LineSeen) (s : State) : Res :=
  .next (if 2 ≤ p then s
    else
      let gs : List Nat := match seen with
        | .groups l => l
        | _ => []
      if bypassOpen s = false then passOn s p gs
      else if portEn s p = false then s
      else
        let r := rxSyms s p gs
        let s1 := endSets r.1 p
        if portUp s p && linkLost r.2 seen then portDown s1 p else s1)

end Sys2Proof.Machine
end

