-- ==== Sys2Proof/Machine/RingSweep.lean ====
section
/-! DEFINITION. Sweeps, probes and RECOLLECT at node 0, PARK sweeps, thresholds and ring sleep (R229 to R245, R62, R63). -/

namespace Sys2Proof.Machine

/-! ### Records (R229, R230) -/

/-- A T32's record: no data. -/
def ownRecord (s : State) (half : Bool) (meas : Nat) : List Byte :=
  leBytes 1 (ownNode s) ++ leBytes 1 (b2n half) ++ leBytes 2 0 ++ leBytes 4 0 ++ leBytes 8 meas

/-- Ring time at this node (R228). -/
def ringTime (s : State) : Nat := (s.now + s.get64 RING_TS_OFFSET_LO.lo RING_TS_OFFSET_HI.hi) % 2 ^ 64

/-- Split `count` records; what does not fit in the bytes is left out. -/
def parseRecs : Nat → List Byte → List (Nat × List Byte)
  | 0, _ => []
  | n + 1, bs =>
    let len := leAt bs 2 2
    if bs.length < 16 + len ∨ 256 < len then []
    else (leAt bs 0 1, bs.take (16 + len)) :: parseRecs n (bs.drop (16 + len))

/-- The records of a SWEEP payload. -/
def sweepRecs (payload : List Byte) : List (Nat × List Byte) := parseRecs (min 16 (leAt payload 8 1)) (payload.drop 16)

def recHas (rs : List (Nat × List Byte)) (n : Nat) : Bool := rs.any fun e => decide (e.1 = n)

/-- Keep the first record of each node. -/
def mergeRecs (old new : List (Nat × List Byte)) : List (Nat × List Byte) :=
  new.foldl (fun l e => if recHas l e.1 ∨ 16 ≤ e.1 then l else l ++ [e]) old

/-- Mark a record recollected. -/
def recollected (r : List Byte) : List Byte := r.set 1 (BitVec.ofNat 8 (orN (leAt r 1 1) 2))

def State.setSweep (s : State) (r : Option SweepRun) : State := s.setRing { s.ring with sweep := r }
def State.setProbe (s : State) (r : Option ProbeRun) : State := s.setRing { s.ring with probe := r }

/-- Members with no record yet (R235). -/
def missing (r : SweepRun) : List Nat := (maskBits 16 r.expected).filter fun n => !recHas r.records n

/-! ### Output (R236, R237) -/

/-- The seam of one kind: the node with a notice in effect for the port that was reached in the fewest hops; this node's own
wrap counts with no hops. -/
def seam (s : State) (port : Nat) : Option Nat :=
  let own := if wrappedAt s port then [(ownNode s, 0)] else []
  let l := own ++ s.ring.seams.filterMap fun e => if e.2.1 = port ∧ e.2.2.1 = 1 then some (e.1, e.2.2.2) else none
  (l.foldl (fun b e => match b with
    | none => some e
    | some x => if e.2 < x.2 then some e else some x) none).map Prod.fst

/-- The mask of nodes whose record has a flag bit. -/
def recMask (r : SweepRun) (f : List Byte → Bool) : Nat := bitsMask ((r.records.filter fun e => f e.2).map Prod.fst)

def recFlag (b : Nat) (bs : List Byte) : Bool := bitB (leAt bs 1 1) b

/-- The slot of one record. -/
def recSlot (bs : List Byte) : List Byte := slice bs 0 272

/-- The output block (R237). -/
def sweepBlock (s : State) (r : SweepRun) (st entry : Nat) : List Byte :=
  leBytes 4 r.id ++ leBytes 2 st ++ leBytes 1 r.records.length ++ leBytes 1 r.legs ++ leBytes 8 r.start ++ leBytes 8 s.now ++
  leBytes 2 (recMask r fun _ => true) ++ leBytes 2 r.expected ++ leBytes 2 (recMask r (recFlag 1)) ++
  leBytes 2 (recMask r (recFlag 0)) ++ leBytes 1 ((seam s 1).getD 0xFF) ++ leBytes 1 ((seam s 0).getD 0xFF) ++ leBytes 2 0 ++
  leBytes 4 entry ++ leBytes 24 0 ++
  (List.range 16).flatMap fun n => recSlot (((r.records.find? fun e => decide (e.1 = n)).map Prod.snd).getD [])

/-- The reply detail (R237). -/
def sweepDetail (s : State) (r : SweepRun) : Nat :=
  let seams := match seam s 1, seam s 0 with
    | some a, some b => a * 2 ^ 16 + b * 2 ^ 20 + 2 ^ 24
    | _, _ => 0
  recMask r (fun _ => true) + seams + r.records.length * 2 ^ 25

/-- The status of an ended sweep (R235); with no port UP it is incomplete. -/
def sweepStatus (r : SweepRun) (noPort : Bool) : Nat :=
  if noPort ∨ missing r ≠ [] then 0x61 else if r.records.any fun e => recFlag 0 e.2 then 0x60 else 0

/-! ### PARK windows and sleep (R62, R63, R242 to R245) -/

/-- A window closes: TIME stops at the next SLOW edge, unless the main die is coming up or the rails of the entry are still
falling (R61 to R63). -/
def closeWindow (s : State) : State :=
  let s1 := s.setF CLK_STATE.in_sweep 0
  if s1.clk.mode = .park ∧ s1.boot.main = .idle then
    (if s1.pwr.down.isEmpty then { s1 with clk := { s1.clk with stopDue := true } } else s1)
  else refreshDom s1 2

/-- A window opens (R62): the Sage PLLs start, SAGE runs at S3 and RING at S0, and TIME is reloaded, at once or at the next
SLOW edge. -/
def openWindow (s : State) (atEdge : Bool) : State :=
  let s1 := setPlls (setRefreq (s.setF CLK_STATE.in_sweep 1) true) sagePlls true
  let s2 := { s1 with clk := { s1.clk with stopDue := false } }
  let s3 := if s2.clk.running then s2 else if atEdge then recordPair (timeRestart s2)
    else { s2 with clk := { s2.clk with restartDue := true } }
  let run (t : State) (d c : Nat) : State := setStep (t.setF (CLK_DOM_STATUS.target_step d) c) d c
  run (run s3 2 3) 13 0

/-- Consecutive /Z/. -/
def sleepSyms : Nat → List RingSym
  | 0 => []
  | n + 1 => sleepSet ++ sleepSyms n

/-- Node 0 puts the ring to sleep while it holds the baton (R244 step 1). -/
def sleepNow (s : State) : State :=
  let s1 := (upPorts s).foldl (fun t p => setPortState (sendSyms t p (sleepSyms 16)) p 4) s
  let s2 := s1.setRing { s1.ring with sleepDue := false, batonOut := none }
  closeWindow s2

/-- Node 0 sends /I/ on its sleeping ports; each must relock within 100,000 ticks from now (R244 steps 4 and 5). -/
def wakeRing (s : State) : State :=
  [0, 1].foldl (fun t p => if portState t p = 4 then
    (sendSyms t p idleSet).setRport p { t.rport p with signalAt := some t.now } else t)
    (s.setRing { s.ring with sleepDue := false })

/-- Does any port sleep? -/
def ringAsleep (s : State) : Bool := [0, 1].any fun p => decide (portState s p = 4)

/-- The PARK exit is over or under way: the ring stays awake (R244). -/
def ringStaysAwake (s : State) : Bool := !(decide (s.clk.mode = .park) && decide (s.boot.main = .idle))

/-- One threshold of RING_PARK_CFG trips on a sweep's records (R181, R243). -/
def thresholdTrips (r : SweepRun) (t : List Byte) : Bool :=
  let off := leAt t 1 1
  let w := leAt t 2 1
  let sgn := bitB (leAt t 3 1) 0
  match r.records.find? fun e => decide (e.1 = leAt t 0 1) with
  | none => false
  | some e =>
    if leAt e.2 2 2 < off + w then false
    else
      let v := leAt e.2 (16 + off) w
      let asInt (wd n : Nat) : Int := if sgn then sext wd n else n
      decide (asInt (8 * w) v < asInt 32 (leAt t 8 4) ∨ asInt 32 (leAt t 12 4) < asInt (8 * w) v)

/-- The park buffer takes an entry (R242). -/
def putPark (s : State) (r : SweepRun) (st : Nat) : State :=
  let wr := s.getF RING_PBUF_WR.wr
  let s1 := if sub32 wr (s.getF RING_PBUF_RD.rd) = 103 then
      (s.addWrap RING_PBUF_RD.rd 1).addSat RING_PBUF_LOST.lost 1 else s
  (wrRaw s1 (0x8110000 + 4416 * (wr % 103)) (sweepBlock s1 r st wr)).addWrap RING_PBUF_WR.wr 1

/-- After a PARK sweep (R243, R244): the fill mark, the thresholds, an incomplete sweep, and the ring's sleep. -/
def parkSwept (s : State) (r : SweepRun) (st : Nat) : State :=
  let s1 := (putPark s r st).addWrap CLK_SWEEP_STATUS.sweep_count 1
  let held := sub32 (s1.getF RING_PBUF_WR.wr) (s1.getF RING_PBUF_RD.rd)
  let s2 := if s1.ring.fillKib * 1024 ≤ held * 4416 ∨ held = 103 then wakeEvent s1 8 else s1
  let s3 := if st = 0x61 ∨ s2.ring.thresholds.any (thresholdTrips r) then wakeEvent s2 9 else s2
  if ringStaysAwake s3 ∨ upPorts s3 = [] then closeWindow s3
  else if s3.ring.batonOut = none then sleepNow s3
  else s3.setRing { s3.ring with sleepDue := true }

/-! ### The sweep engine (R231, R235) -/

/-- The port a leg of node 0 leaves by: that of its lane where it is UP, else the other (R217, R235). -/
def legPort (s : State) (second : Bool) : Option Nat :=
  let p := if second then 0 else 1
  if ownNode s ≠ 0 then none
  else if portUp s p then some p else if portUp s (otherPort p) then some (otherPort p) else none

/-- Send one leg of a sweep; REVERSE is set on the secondary lane. -/
def sendLeg (s : State) (r : SweepRun) (p : Nat) : State :=
  let rev := decide (p = 0)
  let r1 := { r with legs := r.legs + 1, since := s.now, second := rev, asking := false, asked := [], due := false }
  let f := ownFrame s 1 (if rev then 16 else 0) 0xFF r1.legs r1.id
    (leBytes 8 r1.start ++ leBytes 1 1 ++ leBytes 7 0 ++ ownRecord s rev r1.start)
  sendOn (s.setSweep (some r1)) p f.bytes

/-- A sweep's packet, if it has one and has not ended. -/
def runPkt (s : State) (k : Option (Nat × Nat)) : Option Pkt := k.bind fun x => s.pkt x.1 x.2

/-- The sweep ends (R235, R237, R242). -/
def endSweep (s : State) (r : SweepRun) (noPort : Bool) : State :=
  let s1 := (s.setSweep none).setRing { s.ring with sweep := none, asks := s.ring.asks.filter fun a => a.pkt.isSome }
  let st := sweepStatus r noPort
  match r.pkt with
  | none => parkSwept s1 r st
  | some _ => (match runPkt s1 r.pkt with
    | none => s1
    | some p => outWaited s1 p ⟨p.u 0 8, sweepBlock s1 r st 0, st, sweepDetail s1 r⟩)

/-- A sweep begins: the next sweep_id, node 0's healed ports unwrap, and its own record is held (R230, R231, R234). -/
def beginSweep (s : State) (pkt : Option (Nat × Nat)) : State × SweepRun :=
  let id := if s.getF RING_SWEEP_ID.id = 0xFFFFFFFF then 1 else s.getF RING_SWEEP_ID.id + 1
  let r := ownRecord s false s.now
  let ps := healedPorts s
  let s1 := (unwrapPorts s ps).setF RING_SWEEP_ID.id id
  let s2 := unwrapNotices (s1.setRing { s1.ring with holdId := id, holdRec := r }) ps
  (s2, ⟨id, pkt, 0, false, s.now, [], false, s.now, s.getF RING_MEMBERS.members, [(ownNode s, r)], false⟩)

/-- The RING_SWEEP packets that wait for their turn, in the order of consumption (R231). -/
def sweepQueue (s : State) : List Pkt :=
  s.pkts.filter fun p => decide (p.opcode = 0x5001 ∧ p.phase = .waiting) && !expired s (p.u 0x10 8)

/-- The next move of a sweep: another leg, or (`fin`: whatever is missing) its end and the next sweep that waits. While its
packet's output cannot be written the end waits. -/
def contSweep : Nat → State → SweepRun → Bool → State
  | 0, s, r, _ => s.setSweep (some { r with due := true })
  | fuel + 1, s, r, fin =>
    let port := legPort s r.second
    if fin = false ∧ r.legs < 4 ∧ missing r ≠ [] ∧ port.isSome then sendLeg s r (port.getD 1)
    else if r.pkt.isSome ∧ accepting s = false then s.setSweep (some { r with due := true, asking := false })
    else
      let s1 := endSweep s r ((upPorts s).isEmpty && decide (r.legs = 0))
      match sweepQueue s1 with
      | [] => s1
      | p :: _ =>
        if accepting s1 then
          let b := beginSweep s1 (some (p.q, p.idx))
          contSweep fuel b.1 b.2 false
        else s1

def sweepFuel (s : State) : Nat := s.pkts.length + 2

/-- Start a sweep now. -/
def startSweep (s : State) (pkt : Option (Nat × Nat)) : State :=
  let b := beginSweep s pkt
  contSweep (sweepFuel s) b.1 b.2 false

/-- Go on with a sweep whose leg or requests are done with (R235): it ends on a whole return, and changes lane otherwise. -/
def sweepOn (s : State) (r : SweepRun) (whole : Bool) : State :=
  contSweep (sweepFuel s) s { r with second := r.second != !whole, asking := false, asked := [] } whole

/-- Ask every missing member for its record, on both lanes (R217, R232, R235). -/
def askMissing (s : State) (r : SweepRun) : State :=
  let ms := missing r
  let s1 := ms.foldl (fun t n =>
    let k := (t.ring.askSeq + 1) % 65536
    let t1 := t.setRing { t.ring with askSeq := k, asks := t.ring.asks ++ [⟨k, n, r.id, none, none⟩] }
    (upPorts t1).foldl (fun u p => sendOn u p (ownFrame u 2 0 n k r.id []).bytes) t1) s
  s1.setSweep (some { r with asked := ms, asking := true, since := s.now })

/-- Does what arrives for a sweep still count? For a RING_SWEEP, up to its timeout tick (R134, R178). -/
def sweepHears (s : State) (r : SweepRun) : Bool := (runPkt s r.pkt).all fun p => arrives s p 0x10

/-- The wait of a leg, or for replies, is over: its timeout tick has passed (R235). -/
def legLate (s : State) (since : Nat) : Bool := decide (since + s.getF RING_LEG_TO.ticks < s.now)

/-- A leg of the sweep came back (R235): whole only on the far port and never wrapped. One that comes after its timeout tick
brings its records, and the timeout stands. -/
def sweepReturn (s : State) (p : Nat) (f : RFrame) : State :=
  match s.ring.sweep with
  | none => s
  | some r =>
    if f.tag ≠ r.id ∨ sweepHears s r = false then s
    else
      let r1 := { r with records := mergeRecs r.records (sweepRecs f.payload) }
      if f.seq ≠ r.legs ∨ r.asking ∨ r.due ∨ legLate s r.since then s.setSweep (some r1)
      else sweepOn s r1 (!f.has 0 && decide (p = if r.second then 1 else 0))

/-- A RECOLLECT reply of the sweep (R232, R235). -/
def sweepReply (s : State) (a : RingAsk) (reply : Option (List Byte)) : State :=
  let s1 := s.setRing { s.ring with asks := s.ring.asks.filter fun x => decide (x.seq ≠ a.seq) }
  match s1.ring.sweep with
  | none => s1
  | some r =>
    let got := match reply with
      | some b => if sweepHears s r then [(a.node, recollected b)] else []
      | none => []
    let r1 := { r with records := mergeRecs r.records got, asked := r.asked.filter fun n => decide (n ≠ a.node) }
    if r1.asking && r1.asked.isEmpty && sweepHears s r && !legLate s r.since then sweepOn s1 r1 false else s1.setSweep (some r1)

/-! ### Probes (R240, R241) -/

/-- This node's probe entry. -/
def probeEntry (s : State) : List Byte :=
  let st := b2n (portUp s 0) + 2 * b2n (portUp s 1) + 4 * b2n (wrappedAt s 0) + 8 * b2n (wrappedAt s 1) + 16
  leBytes 1 (ownNode s) ++ leBytes 1 1 ++ leBytes 1 st ++ leBytes 1 0 ++ leBytes 2 0 ++ leBytes 2 0

/-- Eight-byte entries. -/
def probeEntries : Nat → List Byte → List (List Byte)
  | 0, _ => []
  | n + 1, bs => if bs.length < 8 then [] else bs.take 8 :: probeEntries n (bs.drop 8)

/-- Addresses among entries, and those seen more than once. -/
def entryNodes (es : List (List Byte)) : List Nat := es.map fun e => leAt e 0 1
@[inherit_doc entryNodes] def dupNodes : List Nat → List Nat
  | [] => []
  | n :: t => if n ∈ t then n :: dupNodes t else dupNodes t

/-- RING_PROBE packets that wait for their turn. -/
def probeQueue (s : State) : List Pkt :=
  s.pkts.filter fun p => decide (p.opcode = 0x5005 ∧ p.phase = .waiting) && !expired s (p.u 8 8)

/-- The probe ends (R241). -/
def endProbe (s : State) (r : ProbeRun) : State :=
  let s0 := s.setProbe none
  if r.returned = false then
    (match runPkt s0 (some r.pkt) with
     | some p => complete s0 p 0x61 1 0
     | none => s0)
  else
    let es := (if (entryNodes r.entries).contains (ownNode s) then r.entries else probeEntry s :: r.entries).take 16
    let ns := entryNodes es
    let members := bitsMask (ns.filter fun n => decide (n < 16))
    let dup := bitsMask ((dupNodes ns).filter fun n => decide (n < 16))
    let t32s := bitsMask ((es.filter fun e => decide (leAt e 1 1 = 1)).map fun e => leAt e 0 1 % 16)
    let s1 := (s0.setF RING_MEMBERS.members members).setF RING_MEMBERS.dup dup
    let s2 := s1.setRing { s1.ring with t32s := t32s }
    let block := leBytes 4 r.id ++ leBytes 1 es.length ++ leBytes 1 r.legs ++ leBytes 2 0 ++ leBytes 2 members ++
      leBytes 2 dup ++ leBytes 4 0 ++ slice es.flatten 0 128
    match runPkt s2 (some r.pkt) with
    | some p => outWaited s2 p ⟨p.u 0 8, block, if r.legs = 2 then 0x60 else 0, members + es.length * 2 ^ 16⟩
    | none => s2

/-- Send one leg of a probe; node 0's entry goes first, once per probe_id. -/
def sendProbe (s : State) (r : ProbeRun) (p : Nat) : State :=
  let rev := decide (p = 0)
  let body := if r.id ∈ s.ring.probeSeen then [] else probeEntry s
  let r1 := { r with legs := r.legs + 1, since := s.now, second := rev, due := false }
  let s1 := s.setRing { s.ring with probe := some r1, probeSeen := metAdd (2 ^ 32) r.id s.ring.probeSeen }
  sendOn s1 p (ownFrame s1 5 (if rev then 16 else 0) 0xFF r1.legs r1.id body).bytes

/-- The next probe of a waiting packet (R240). -/
def beginProbe (s : State) (p : Pkt) : State :=
  let id := if s.ring.probeId = 0xFFFFFFFF then 1 else s.ring.probeId + 1
  let s1 := s.setRing { s.ring with probeId := id }
  let r : ProbeRun := ⟨id, (p.q, p.idx), 0, false, s.now, false, [], false⟩
  match legPort s1 false with
  | some k => sendProbe s1 r k
  | none => complete s1 p 0x61 4 0

/-- End a probe and start the next that waits. -/
def finishProbe (s : State) (r : ProbeRun) : State :=
  if accepting s = false then s.setProbe (some { r with due := true })
  else
    let s1 := endProbe s r
    match probeQueue s1 with
    | [] => s1
    | p :: _ => beginProbe s1 p

/-- The next move of a probe (R240): at most 2 legs. -/
def probeOn (s : State) (r : ProbeRun) (whole : Bool) : State :=
  let r1 := { r with second := !r.second }
  match legPort s r1.second with
  | some k => if whole ∨ 2 ≤ r.legs then finishProbe s r else sendProbe s r1 k
  | none => finishProbe s r

/-- A leg of the probe came back. -/
def probeReturn (s : State) (p : Nat) (f : RFrame) : State :=
  match s.ring.probe with
  | none => s
  | some r =>
    if f.tag ≠ r.id ∨ (runPkt s (some r.pkt)).any (fun p => !arrives s p 8) then s
    else
      let order := f.hops + 128 * b2n (f.has 4)
      let new := (probeEntries (f.payload.length / 8) f.payload).map fun e => e.set 3 (BitVec.ofNat 8 order)
      let r1 := { r with entries := r.entries ++ new, returned := true }
      if f.seq ≠ r.legs ∨ r.due ∨ legLate s r.since then s.setProbe (some r1)
      else probeOn s r1 (!f.has 0 && decide (p = if r.second then 1 else 0))

/-! ### RING_RECOLLECT and RING_RECV (R238, R239) -/

/-- A reply to RING_RECOLLECT: the record's slot, or reason 0x02. -/
def recollectDone (s : State) (p : Pkt) : Option (List Byte) → State
  | some b => outWaited s p ⟨p.u 8 8, recSlot (recollected b), 0, 0⟩
  | none => complete s p 0x61 2 0

/-- The record of a RECOLLECT reply's payload; none where it is not held. -/
def replyRec (payload : List Byte) : Option (List Byte) :=
  if leAt payload 0 1 = 0 ∧ 24 ≤ payload.length then some (payload.drop 8) else none

/-- A RECOLLECT reply has come back (R232). -/
def askAnswered (s : State) (f : RFrame) : State :=
  match s.ring.asks.find? fun a => decide (a.seq = f.seq ∧ a.node = f.src ∧ a.id = f.tag ∧ a.got = none) with
  | none => s
  | some a =>
    match a.pkt with
    | none => sweepReply s a (replyRec f.payload)
    | some k =>
      match s.pkt k.1 k.2, accepting s with
      | some p, true =>
        if !arrives s p 0x10 then s
        else recollectDone (s.setRing { s.ring with asks := s.ring.asks.filter fun x => decide (x.seq ≠ a.seq) }) p
          (replyRec f.payload)
      | _, _ => s.setRing { s.ring with asks := s.ring.asks.map fun x =>
          if x.seq = a.seq then { x with got := some f.payload } else x }

/-- The RING_RECV packets that wait or write, in the order of consumption (R224). -/
def recvPkts (s : State) : List Pkt :=
  s.pkts.filter fun p => decide (p.opcode = 0x5004 ∧ (p.phase = .waiting ∨ p.phase = .writing))

/-- The first `n` received frames of a RING_RECV's node, and the rest. -/
def recvTake (node : Nat) : Nat → List (List Byte) → List (List Byte) × List (List Byte)
  | _, [] => ([], [])
  | 0, l => ([], l)
  | n + 1, b :: t =>
    if node = 0xFF ∨ leAt b 0 1 = node then
      let r := recvTake node n t
      (b :: r.1, r.2)
    else
      let r := recvTake node (n + 1) t
      (r.1, b :: r.2)

/-- The frames that fall to a packet: the packets consumed before it take theirs first (R224). -/
def recvShare (p : Pkt) : List Pkt → List (List Byte) → List (List Byte)
  | [], _ => []
  | x :: t, l =>
    let r := recvTake (x.u 0 1) (x.u 4 4) l
    if x.q = p.q ∧ x.idx = p.idx then r.1 else recvShare p t r.2

/-- A RING_RECV writes its frames; they leave the receive queue in the same step (R147, R180, R239). -/
def recvEnd (s : State) (p : Pkt) (detail : Nat) : State :=
  let mine := recvShare p (recvPkts s) s.ring.rxQueue
  outWaited s p ⟨p.u 8 8, mine.flatten, 0, mine.length + detail⟩

/-- Has a waiting RING_RECV all the frames it asks for? -/
def recvFull (s : State) (p : Pkt) : Bool :=
  decide (p.phase = .waiting ∧ (recvShare p (recvPkts s) s.ring.rxQueue).length = p.u 4 4) && arrives s p 0x10

/-- RING_RECV packets whose frames have all come end (R180). -/
def recvFuel : Nat → State → State
  | 0, s => s
  | f + 1, s => match (recvPkts s).find? (recvFull s) with
    | none => s
    | some p => recvFuel f (recvEnd s p 0)

@[inherit_doc recvFuel] def recvFeed (s : State) : State := if accepting s then recvFuel s.pkts.length s else s

/-- Ring opcodes, which wait on the Sage die (spec/05 R177 to R180). -/
def ringOp (p : Pkt) : Bool := decide (0x5001 ≤ p.opcode ∧ p.opcode ≤ 0x5005)

/-- A ring packet whose effect a safe state held back is carried out from its start (R147): what the ring held for it is
dropped. A frame it had sent counts as not delivered, so the next to that node carries RESYNC (R224). -/
def ringAgain (s : State) (p : Pkt) : State :=
  let r := s.ring
  let mine (e : DataOut) : Bool := decide (e.pkt = some (p.q, p.idx))
  let lost := (r.dataOut.filter fun e => mine e && decide (e.sends ≠ 0)).map fun e => e.dst
  let s1 := s.setRing { r with
    dataOut := r.dataOut.filter fun e => !mine e
    synced := r.synced.filter fun d => decide (d ∉ lost)
    asks := r.asks.filter fun a => decide (a.pkt ≠ some (p.q, p.idx))
    sweep := r.sweep.filter fun x => decide (x.pkt ≠ some (p.q, p.idx))
    probe := r.probe.filter fun x => decide (x.pkt ≠ (p.q, p.idx)) }
  s1.setPkt { p with phase := .started, out := none }

/-- The main die accepts jobs again: ring outputs that waited are written and waiting packets start. -/
def ringResume (s : State) : State :=
  let s1 := s.ring.asks.foldl (fun t a => match a.pkt, a.got with
    | some k, some payload =>
      let t1 := t.setRing { t.ring with asks := t.ring.asks.filter fun x => decide (x.seq ≠ a.seq) }
      (match t1.pkt k.1 k.2 with
       | some p => recollectDone t1 p (replyRec payload)
       | none => t1)
    | _, _ => t) s
  let s2 := match s1.ring.sweep with
    | some r => if r.due then contSweep (sweepFuel s1) s1 r true else s1
    | none => (match sweepQueue s1 with
      | p :: _ => if s1.ring.parkDue then s1 else startSweep s1 (some (p.q, p.idx))
      | [] => s1)
  let s3 := match s2.ring.probe with
    | some r => if r.due then finishProbe s2 r else s2
    | none => s2
  let s4 := if s3.ring.sleepDue then closeWindow s3 else s3
  recvFeed (if ownNode s4 = 0 then wakeRing s4 else s4)

end Sys2Proof.Machine
end

