-- ==== Sys2Proof/Machine/RingCmds.lean ====
section
/-! DEFINITION. The commands of the Relay ring: frames received, timers, sleep, the PARK sweep timer and the ring opcodes
(spec/05 R177 to R181, spec/06). -/

namespace Sys2Proof.Machine

/-! ### What a node does with a frame (R216 step 2) -/

/-- A SWEEP that another node originated (R230, R234): the ports that unwrap, whose notices follow the frame. -/
def actSweep (s : State) (f : RFrame) : State × RFrame × List Nat :=
  if f.tag = s.ring.holdId then (s, f, [])
  else
    let ps := healedPorts s
    let s1 := unwrapPorts s ps
    if recHas (sweepRecs f.payload) (ownNode s) then (s1, f, ps)
    else
      let r := ownRecord s1 (f.has 4) (ringTime s1)
      let n := leAt f.payload 8 1
      (s1.setRing { s1.ring with holdId := f.tag, holdRec := r },
       { f with payload := f.payload.set 8 (BitVec.ofNat 8 (n + 1)) ++ r }, ps)

/-- The reply to a RECOLLECT request (R232). -/
def recollectReply (s : State) (f : RFrame) : RFrame :=
  let held := decide (f.tag = s.ring.holdId) && !s.ring.holdRec.isEmpty
  let body := if held then leBytes 8 0 ++ s.ring.holdRec else leBytes 8 1
  ownFrame s 2 4 0 f.seq f.tag body

/-- RECOLLECT (R219, R232): a request is answered once, by the port at which it came; a reply reaches node 0. -/
def actRecollect (s : State) (p : Nat) (f : RFrame) : State × RFrame :=
  if f.dst ≠ ownNode s ∨ f.has 1 then (s, f)
  else if f.has 2 then (askAnswered s f, f.mark 1)
  else if f.seq ∈ s.ring.answered then (s, f.mark 1)
  else
    let s1 := s.setRing { s.ring with answered := metAdd 65536 f.seq s.ring.answered }
    (sendOn s1 p (recollectReply s f).bytes, f.mark 1)

/-- The 528 bytes of a received frame (R239). -/
def recvBytes (s : State) (f : RFrame) : List Byte :=
  leBytes 1 f.src ++ leBytes 1 f.flags ++ leBytes 2 f.payload.length ++ leBytes 2 f.seq ++ leBytes 2 0 ++ leBytes 8 s.now ++
  slice f.payload 0 512

/-- Put a DATA frame in the receive queue (R224, R239), under the key of its source and kind of destination. -/
def deliver (s : State) (f : RFrame) (key : Nat) : State :=
  recvFeed (s.setRing { s.ring with
    rxSeq := tabPut (fun _ => 0) s.ring.rxSeq key (f.seq + 1)
    rxQueue := s.ring.rxQueue ++ [recvBytes s f] })

/-- DATA (R219, R222): the last seq delivered again is confirmed without a copy; a new frame is taken when it is the next
one, the first since reset, or carries RESYNC, and a buffer is free. A frame for every node is copied, except again, and never
marked; sources keep its seq apart from those towards single nodes. -/
def actData (s : State) (f : RFrame) : State × RFrame :=
  if f.dst = 0xFF then
    if tabGet (fun _ => 0) s.ring.rxSeq (f.src + 16) = f.seq + 1 then (s, f)
    else if s.ring.rxQueue.length < 256 then (deliver s f (f.src + 16), f)
    else (s.addSat RING_DROP.nobuf 1, f)
  else if f.dst ≠ ownNode s ∨ f.has 1 then (s, f)
  else
    let last := tabGet (fun _ => 0) s.ring.rxSeq f.src
    if last = f.seq + 1 then (s, f.mark 1)
    else if last = 0 ∨ f.has 3 ∨ f.seq = last % 65536 then
      if s.ring.rxQueue.length < 256 then (deliver s f f.src, f.mark 1) else (s.addSat RING_DROP.nobuf 1, f)
    else (s, f)

/-- A BATON at a node other than its source (R220, R221): each generation is used once. -/
def actBaton (s : State) (f : RFrame) : State :=
  if f.tag ∈ s.ring.batonUsed then s
  else sendData 4 (s.setRing { s.ring with batonUsed := metAdd (2 ^ 32) f.tag s.ring.batonUsed })

/-- PROBE (R240): one entry per probe_id. -/
def actProbe (s : State) (f : RFrame) : State × RFrame :=
  if f.tag ∈ s.ring.probeSeen then (s, f)
  else (s.setRing { s.ring with probeSeen := metAdd (2 ^ 32) f.tag s.ring.probeSeen },
        { f with payload := f.payload ++ probeEntry s })

/-- A WRAP notice: node 0 keeps the latest of each node, with the hops it made (R234, R236). Another copy of a notice, or its
second pass, is not taken again. Of a node's notices those of its two latest held sweep_ids are remembered. -/
def actWrap (s : State) (f : RFrame) : State :=
  let port := leAt f.payload 0 1
  let state := leAt f.payload 1 1
  let id := leAt f.payload 4 4
  if ownNode s ≠ 0 ∨ (f.src, port, state, id) ∈ s.ring.wrapSeen then s
  else
    let last := ((s.ring.wrapSeen.find? fun e => decide (e.1 = f.src)).map fun e => e.2.2.2).getD id
    s.setRing { s.ring with
      seams := (f.src, (port, state, f.hops)) :: s.ring.seams.filter fun e => decide (e.1 ≠ f.src)
      wrapSeen := (f.src, port, state, id) ::
        s.ring.wrapSeen.filter fun e => decide (e.1 ≠ f.src ∨ e.2.2.2 = id ∨ e.2.2.2 = last) }

/-- The lag words of a TIMESYNC payload. -/
def syncLags (payload : List Byte) : List Nat := (List.range 16).map fun n => leAt payload (16 + 4 * n) 4

/-- TIMESYNC away from node 0 (R226 to R228): the first copy of a count gives ring time; its residence, which the model does
not time, is added; and the own lag word is written. -/
def actSync (s : State) (f : RFrame) : State × RFrame :=
  let s1 := if f.tag ∈ s.ring.syncSeen then s
    else
      let t := (leAt f.payload 0 8 : Int) + sext 64 (leAt f.payload 8 8) / 65536
      let s0 := s.set64 RING_TS_OFFSET_LO.lo RING_TS_OFFSET_HI.hi (toBits 64 (t - s.now))
      let s2 := s0.setRing { s0.ring with syncSeen := metAdd (2 ^ 32) f.tag s0.ring.syncSeen, syncAt := s0.now }
      let s3 := if s2.getF TIME_CTRL.rate_src = 2 then
          (let v := s2.fresh
           rateAdjust v.2 (sext 32 (v.1 % 2 ^ 32))) else s2
      multiRound s3 (syncLags f.payload)
  let v := s1.fresh
  let corr := toBits 64 (sext 64 (leAt f.payload 8 8) + v.1)
  (v.2, { f with payload := patch (patch f.payload 8 (leBytes 8 corr)) (16 + 4 * ownNode v.2) (leBytes 4 (lagWord v.2)) })

/-- The action a frame's type requires. -/
def ringAct (s : State) (p : Nat) (f : RFrame) : State × RFrame × List Nat :=
  match f.typ with
  | 1 => actSweep s f
  | 2 => (let r := actRecollect s p f
          (r.1, r.2, []))
  | 3 => (let r := actData s f
          (r.1, r.2, []))
  | 4 => (actBaton s f, f, [])
  | 5 => (let r := actProbe s f
          (r.1, r.2, []))
  | 6 => (actWrap s f, f, [])
  | _ => (let r := actSync s f
          (r.1, r.2, []))

/-! ### A node's own frames come back (R216 step 1) -/

/-- What tells an own frame's second return from its first. -/
def passKey (f : RFrame) : Nat × Nat × Nat × Nat := (f.typ, f.seq, f.tag, f.wrapNode)

/-- Has an own frame arrived on the port it left by? Frames leave by port B, legs with REVERSE and frames wrapped at their
origin by port A. RECOLLECT and WRAP frames leave by either port: one that was wrapped on its way, and has not passed this node
before, is back on the port it left by. -/
def sameWay (s : State) (p : Nat) (f : RFrame) : Bool :=
  if f.typ = 2 ∨ f.typ = 6 then f.has 0 && decide (f.wrapNode ≠ ownNode s ∧ passKey f ∉ s.ring.passed)
  else decide (p = if f.has 4 ∨ (f.has 0 ∧ f.wrapNode = ownNode s) then 0 else 1)

/-- Is the own frame removed here (R216 step 1)? -/
def stripped (s : State) (p : Nat) (f : RFrame) : Bool :=
  (decide (ownNode s = 0) && decide (f.typ = 1 ∨ f.typ = 5)) || !sameWay s p f || wrappedAt s (otherPort p)

/-- An own frame that goes on past this node, and one that is removed. -/
def passMark (s : State) (f : RFrame) (on : Bool) : State :=
  let l := s.ring.passed.filter fun k => decide (k ≠ passKey f)
  s.setRing { s.ring with passed := if on && decide (f.typ = 2 ∨ f.typ = 6) then passKey f :: l else l }

/-- The baton is back at node 0 (R220, R244): its own DATA, then sleep or the next generation. -/
def batonBack (s : State) (f : RFrame) : State :=
  if f.tag ≠ s.ring.batonGen ∨ s.ring.batonOut = none ∨ ownNode s ≠ 0 then s
  else
    let s1 := sendData 4 s
    if s1.ring.sleepDue ∧ ringStaysAwake s1 = false then sleepNow s1
    else
      let s2 := if s1.ring.sleepDue then closeWindow (s1.setRing { s1.ring with sleepDue := false }) else s1
      issueBaton s2 (s2.ring.batonGen + 1)

/-- What follows from the return of an own frame. -/
def ownBack (s : State) (p : Nat) (f : RFrame) : State :=
  match f.typ with
  | 1 => sweepReturn s p f
  | 3 => (match s.ring.dataOut.find? fun e => decide (e.dst = f.dst ∧ e.seq = f.seq ∧ e.sends ≠ 0) with
    | some e => dataBack s e (f.has 1)
    | none => s)
  | 4 => batonBack s f
  | 5 => probeReturn s p f
  | 7 => if f.tag = s.ring.syncCount then
      multiRound (s.setRing { s.ring with lags := syncLags f.payload }) (syncLags f.payload) else s
  | _ => s

/-- Strip, act, count hops and forward (R216). -/
def ringPipeline (s : State) (p : Nat) (f : RFrame) : State :=
  if f.src = ownNode s then
    if stripped s p f then ownBack (passMark s f false) p f else forward (passMark s f true) p f
  else
    let r := ringAct s p f
    unwrapNotices (forward r.1 p r.2.1) r.2.2

/-- The frame that a port reads from code-groups; none where R215 discards it. -/
def lineFrame (s : State) (p : Nat) (groups : List Nat) : Option RFrame := (readFrame (rxSyms s p groups).2).bind parseFrame

/-- A frame on a port that is UP, or on one that is not (R203, R205, R206): its symbols end a run of training sets. -/
def frameOn (s : State) (p : Nat) (groups : List Nat) : State :=
  let r := rxSyms (demand s 13) p groups
  let s1 := endSets r.1 p
  if portUp s p = false then s1
  else if errorBurst r.2 then portDown s1 p
  else match lineFrame s p groups with
    | none => s1.addSat (RING_ERR.crc p) 1
    | some f => ringPipeline s1 p f

/-- A port receives a frame, from its /S/ to its /T/ or /V/: `only` names the type a command is about. A closed bypass passes
it on (R209). -/
def ringReceive (p : Nat) (groups : List Nat) (only : Option Nat) (s : State) : Res :=
  .next (if 2 ≤ p ∨ (only.isSome ∧ ((lineFrame s p groups).any fun f => decide (only ≠ some f.typ))) then s
    else if bypassOpen s = false then passOn s p groups
    else if portEn s p then frameOn s p groups else s)

/-- RING_FRAME_RECEIVE (R202, R213 to R216). -/
def execRingFrameReceive (p : Nat) (groups : List Nat) (s : State) : Res := ringReceive p groups none s
/-- SWEEP_FRAME (R229, R230, R234). -/
def execSweepFrame (p : Nat) (groups : List Nat) (s : State) : Res := ringReceive p groups (some 1) s
/-- RECOLLECT_FRAME (R232). -/
def execRecollectFrame (p : Nat) (groups : List Nat) (s : State) : Res :=
  ringReceive p groups (some 2) s
/-- DATA_FRAME (R222, R224). -/
def execDataFrame (p : Nat) (groups : List Nat) (s : State) : Res := ringReceive p groups (some 3) s
/-- BATON_FRAME (R220, R221). -/
def execBatonFrame (p : Nat) (groups : List Nat) (s : State) : Res := ringReceive p groups (some 4) s
/-- PROBE_FRAME (R240). -/
def execProbeFrame (p : Nat) (groups : List Nat) (s : State) : Res := ringReceive p groups (some 5) s
/-- WRAP_FRAME (R234). -/
def execWrapFrame (p : Nat) (groups : List Nat) (s : State) : Res := ringReceive p groups (some 6) s
/-- TIMESYNC_FRAME (R226 to R228). -/
def execTimesyncFrame (p : Nat) (groups : List Nat) (s : State) : Res :=
  ringReceive p groups (some 7) s

/-! ### Timers and sleep -/

/-- TIMESYNC_PERIOD (R225): node 0 sends the next count with the lag words of the previous round. -/
def execTimesyncPeriod (s : State) : Res :=
  .next (if ownNode s = 0 ∧ s.flag RING_CTRL.ts_en ∧ upPorts s ≠ [] ∧ s.ring.syncAt + s.getF RING_TS_PERIOD.ticks ≤ s.now then
      (let n := u32 (s.ring.syncCount + 1)
       let lags := ((List.range 16).map fun k => s.ring.lags.getD k 0xFFFFFFFF).set 0 (lagWord s)
       let s1 := s.setRing { s.ring with syncCount := n, syncAt := s.now, lags := [] }
       originate s1 1 (ownFrame s1 7 0 0xFF 0 n (leBytes 8 s.now ++ leBytes 8 0 ++ lags.flatMap (leBytes 4))))
    else s)

/-- LEG_TIMEOUT (R235, R240): the leg of the sweep or of the probe now out has not returned by its timeout tick, or the
RECOLLECT replies have not all come. -/
def execLegTimeout (s : State) : Res :=
  let late := legLate s
  let probes (t : State) : State := match t.ring.probe with
    | some r => if late r.since ∧ r.due = false then probeOn t r false else t
    | none => t
  .next (match s.ring.sweep with
    | some r =>
      if late r.since ∧ r.due = false then
        if r.asking then
          sweepOn (s.setRing { s.ring with asks := s.ring.asks.filter fun a => a.pkt.isSome }) r false
        else if missing r = [] ∨ ownNode s ≠ 0 then sweepOn s r false else askMissing s r
      else probes s
    | none => probes s)

/-- A PARK sweep that waited for the ports starts (R244). -/
def parkSweepDue (s : State) : State :=
  if s.ring.parkDue && !ringAsleep s then startSweep (s.setRing { s.ring with parkDue := false }) none else s

/-- SWEEP_TIMER_EXPIRY (R62, R63, R181, R242): the phase is kept always; in PARK with bit 4 of CLK_WAKE_EN a window opens and
node 0 runs one sweep, once its ports are awake. -/
def execSweepTimerExpiry (s : State) : Res :=
  .next (match s.clk.nextSweep with
    | none => s
    | some n =>
      if s.clk.slow < n then s
      else
        let per := s.getF CLK_SWEEP_PERIOD.period_s
        let s1 := { s with clk := { s.clk with nextSweep := if per = 0 then none else some (n + per * 32768) } }
        let s2 := match s1.ring.parkNext with
          | some c => s1.setRing { s1.ring with fillKib := c.1, thresholds := c.2, parkNext := none }
          | none => s1
        if s2.clk.mode ≠ .park ∨ bitB (s2.getF CLK_WAKE_EN.en) 4 = false ∨ ownNode s2 ≠ 0 then s2
        else if s2.flag CLK_STATE.in_sweep then s2.addSat CLK_SWEEP_STATUS.overrun_count 1
        else
          let s3 := wakeRing (openWindow s2 true)
          parkSweepDue (s3.setRing { s3.ring with parkDue := true }))

/-- RING_SLEEP_SET (R244 step 2): 4 consecutive /Z/ on every UP port of a node other than node 0. -/
def execRingSleepSet (s : State) : Res :=
  .next (if ownNode s ≠ 0 ∧ bypassOpen s ∧ upPorts s ≠ [] then
      (let s1 := (upPorts s).foldl (fun t p => (setPortState (sendSyms t p (sleepSyms 16)) p 4).setRport p RingPort.init) s
       if s1.flag CLK_STATE.in_sweep then closeWindow s1 else s1)
    else s)

/-- A sleeping port has relocked. -/
def portRelocked (s : State) (p : Nat) : State :=
  let s1 := (setPortState s p 2).setRport p RingPort.init
  let s2 := if ownNode s1 = 0 ∧ s1.ring.batonOut = none then issueBaton s1 (s1.ring.batonGen + 1) else s1
  parkSweepDue s2

/-- RING_SLEEP_WAKE (R244, R245): a sleeping port detects signal, and relocks. -/
def execRingSleepWake (p : Nat) (relocked : Bool) (s : State) : Res :=
  .next (if p < 2 ∧ bypassOpen s ∧ portEn s p ∧ portState s p = 4 then
      (let s1 := if (s.rport p).signalAt.isSome then s
         else
           let t := s.setRport p { s.rport p with signalAt := some s.now }
           let u := [0, 1].foldl (fun v k => if portState v k = 4 then sendSyms v k idleSet else v) t
           if ownNode u ≠ 0 ∧ u.clk.mode = .park ∧ u.flag CLK_STATE.in_sweep = false then openWindow u false else u
       if relocked then portRelocked s1 p else s1)
    else if p < 2 ∧ bypassOpen s = false then passOn s p (encode false idleSet).1
    else s)

/-- RING_RELOCK_TIMEOUT (R244 step 5). -/
def execRingRelockTimeout (p : Nat) (s : State) : Res :=
  .next (if p < 2 ∧ portState s p = 4 then
      (match (s.rport p).signalAt with
       | some t => if t + 100000 < s.now then parkSweepDue (portDown s p) else s
       | none => s)
    else s)

/-- RING_PBUF_RD takes the new RD, or the write is logged and discarded. -/
def pbufRdSet (s : State) (m : BusMaster) : Option Nat → State
  | none => forbid s m RING_PBUF_RD.addr 4
  | some r => s.setF RING_PBUF_RD.rd r

/-- The effect of a write to RING_PBUF_RD (R140, R242). -/
def pbufRd (s : State) (m : BusMaster) (v : Nat) : State :=
  pbufRdSet s m (drainRd 103 (s.getF RING_PBUF_WR.wr) (s.getF RING_PBUF_RD.rd) v)

/-- PBUF_RD_WRITE (R242). -/
def execPbufRdWrite (m : BusMaster) (v : Word) (s : State) : Res :=
  .next (guarded (masterDemand s m) m RING_PBUF_RD.addr v.toNat (fun t => pbufRd t m v.toNat))

/-! ### The ring opcodes (R177 to R181) -/

/-- RING_CONFIG's precondition (R177). -/
def preRingConfig (s : State) (p : Pkt) : State × PreFail :=
  (s, firstPre [(decide (p.u 0 1 = ownNode s) || (!portEn s 0 && !portEn s 1), 0)])

/-- A port's enable bit changes: it trains, or is treated as DOWN and wrapped at (R205, R211, R233). -/
def portEnable (s : State) (p : Nat) (b : Bool) : State :=
  if portEn s p = b then s
  else
    let s1 := s.setF (if p = 0 then RING_CTRL.port_a_en else RING_CTRL.port_b_en) (b2n b)
    if bypassOpen s1 then wrapPort (trainPort s1 p) p else s1

/-- RING_CONFIG (R177). -/
def execRingConfig (q idx : Nat) (s : State) : Res :=
  carry s q idx 0x5000 preRingConfig fun t p =>
    let t0 := { t with ring := { t.ring with configured := true } }
    let t1 := (t0.setF RING_CTRL.node (p.u 0 1)).setF RING_CTRL.ts_en (p.u 2 1)
    let t2 := portEnable (portEnable t1 0 (bitB (p.u 1 1) 0)) 1 (bitB (p.u 1 1) 1)
    let t3 := if portEn t2 0 ∨ portEn t2 1 then t2 else closeBypass t2
    complete t3 p 0 (bitsMask (upPorts t3)) 0

/-- RING_SWEEP's preconditions (R178). -/
def preRingSweep (s : State) (p : Pkt) : State × PreFail :=
  if ownNode s ≠ 0 ∨ upPorts s = [] then (s, .bad 0) else (s, firstPre [(decide (4416 ≤ p.u 8 4), 8)])

/-- RING_SWEEP (R231, R235): it starts, or waits for the sweep that runs. -/
def execRingSweep (q idx : Nat) (s : State) : Res :=
  carry s q idx 0x5001 preRingSweep fun t p =>
    let t1 := t.setPkt { p with phase := .waiting }
    if t1.ring.sweep = none ∧ t1.ring.parkDue = false then startSweep t1 (some (q, idx)) else t1

/-- RECOLLECT requests and probes come from node 0. -/
def preNode0 (s : State) (_ : Pkt) : State × PreFail := (s, if ownNode s = 0 then .ok else .bad 0)

/-- RING_RECOLLECT (R179, R232, R238); this node answers itself when it is the node asked. -/
def execRingRecollect (q idx : Nat) (s : State) : Res :=
  carry s q idx 0x5002 preNode0 fun t p =>
    let n := p.u 0 1
    let id := p.u 4 4
    if upPorts t = [] then complete t p 0x61 4 0
    else if n = ownNode t then
      recollectDone t p (if id = t.ring.holdId ∧ t.ring.holdRec ≠ [] then some t.ring.holdRec else none)
    else
      let k := (t.ring.askSeq + 1) % 65536
      let t1 := (t.setPkt { p with phase := .waiting }).setRing
        { t.ring with askSeq := k, asks := t.ring.asks ++ [⟨k, n, id, some (q, idx), none⟩] }
      (upPorts t1).foldl (fun u j => sendOn u j (ownFrame u 2 0 n k id []).bytes) t1

/-- RING_SEND (R179, R220 to R224, R238): the frame waits for the baton. -/
def execRingSend (q idx : Nat) (s : State) : Res :=
  carry s q idx 0x5003 noPre fun t p =>
    if upPorts t = [] then complete t p 0x61 4 0
    else
      let e : DataOut := ⟨p.u 0 1, slice p.params 0x10 (p.u 2 2), some (q, idx), none, 0, false, 0, 0, false⟩
      (t.setPkt { p with phase := .waiting }).setRing { t.ring with dataOut := t.ring.dataOut ++ [e] }

/-- RING_RECV (R180, R239). -/
def execRingRecv (q idx : Nat) (s : State) : Res :=
  carry s q idx 0x5004 noPre fun t p => recvFeed (t.setPkt { p with phase := .waiting })

/-- RING_PROBE (R240, R241): one probe at a time. -/
def execRingProbe (q idx : Nat) (s : State) : Res :=
  carry s q idx 0x5005 preNode0 fun t p =>
    if upPorts t = [] then complete t p 0x61 4 0
    else
      let p1 := { p with phase := PktPhase.waiting }
      let t1 := t.setPkt p1
      if t1.ring.probe = none then beginProbe t1 p1 else t1

/-- A write of CLK_SWEEP_PERIOD (spec/02): it takes effect at the next expiry; from 0 it starts the timer. -/
def setSweepPeriod (s : State) (per : Nat) : State :=
  let s1 := s.setF CLK_SWEEP_PERIOD.period_s per
  if s.getF CLK_SWEEP_PERIOD.period_s = 0 ∧ per ≠ 0 then
    { s1 with clk := { s1.clk with nextSweep := some (s1.clk.slow + per * 32768) } }
  else s1

/-- RING_PARK_CFG (R181). -/
def execRingParkCfg (q idx : Nat) (s : State) : Res :=
  carry s q idx 0x5006 noPre fun t p =>
    let ths := (List.range (p.u 4 1)).map fun k => slice p.params (8 + 16 * k) 16
    let t1 := setSweepPeriod t (p.u 0 2)
    complete (t1.setRing { t1.ring with parkNext := some (p.u 2 2, ths) }) p 0 0 0

end Sys2Proof.Machine
end

