-- ==== Sys2Proof/Machine/SleepCmds.lean ====
section
/-! DEFINITION. PWR_PARK and PWR_SHUTDOWN (R61, R185, R186). A packet that waits goes on with the next command of its row;
its progress is 0 while the queues drain, 1 once LPDDR5X is in self-refresh, 2 once the main die is isolated and in reset,
3 after the commit point, and 4 after a cancelled entry. -/

namespace Sys2Proof.Machine

/-- A PWR_PARK while another is pending fails its precondition (R185). The spec says nothing of a PWR_SHUTDOWN beside either: it
fails the same way. DESIGN CHOICE (assumption 128). -/
def preDrain (s : State) (p : Pkt) : State × PreFail :=
  (s, if s.pkts.any fun x => decide (x.opcode = 0x6003 ∨ x.opcode = 0x6004) && !samePkt p.q p.idx x &&
      decide (x.phase = .started ∨ x.phase = .waiting) then .bad 0 else .ok)

/-- Every other consumed packet has its completion record, those held behind this one apart (R185). -/
def allDone (s : State) (p : Pkt) : Bool := s.pkts.all fun x => samePkt p.q p.idx x || !unfinished x

/-- PARK entry clears the records of streams and outputs (R433, R442). -/
def clearRecords (s : State) : State :=
  { s with io := { s.io with sens := [], dispSaved := [], canAwake := [] } }

/-- The group C rails that PARK takes down (R26, R32). -/
def parkRails (s : State) : List Nat := raised s 2

/-- The PWR_PARK reply (R185): the wake hits, and whether a wake cancelled the entry. -/
def parkDone (s : State) (p : Pkt) : State :=
  let hits := s.getF CLK_WAKE_STATUS.hit + 32 * s.getF CLK_WAKE_STATUS.hit5
  complete s p 0 (hits + if p.prog = 4 then 2 ^ 31 else 0) 0

/-- A wake before the commit point cancels the entry (R61): ON goes on, or a full bring-up follows once the main die is in
reset. -/
def parkCancel (s : State) (p : Pkt) : State :=
  let p1 := { p with prog := 4 }
  let s1 := { s with clk := { s.clk with mode := .on, wakePending := false } }
  if p.prog = 1 then parkDone (restartDom s1 10) p1
  else
    let s2 := s1.setPkt p1
    { s2 with
      clk := { s2.clk with entryReset := false }
      boot := { s2.boot with main := .start, parkExit := true, mainCounted := false } }

/-- The commit point (R61): the first OPERATION OFF. -/
def parkCommit (s : State) (p : Pkt) : State :=
  let s1 := (s.setPkt { p with prog := 3 }).setF CLK_STATE.state 1
  let s2 := { s1 with
    clk := { s1.clk with mode := .park, entryReset := false, wakePending := false }
    boot := { s1.boot with main := .idle } }
  takeDown s2 (parkRails s2) .park

/-- One step of a PARK entry (R61, R185): self-refresh gates DRAM; from the main-die reset on, no fault of the main die starts the
safe state (R38). -/
def parkStep (s : State) (p : Pkt) : State :=
  match p.prog with
  | 0 =>
    if allDone s p ∧ s.clk.mode = .on ∧ accepting s then
      let en := p.u 0 4
      let s1 := if en = 0 then s else s.setF CLK_WAKE_EN.en en
      gateDom { s1.setPkt { p with prog := 1 } with clk := { s1.clk with mode := .parkEntry, wakePending := false } } 10
    else s
  | 1 =>
    if s.clk.wakePending then parkCancel s p
    else
      let s1 := clearRecords (s.setPkt { p with prog := 2 })
      let s2 := mainDieReset { s1 with clk := { s1.clk with entryReset := true } }
      { s2 with boot := { s2.boot with main := .idle } }
  | 2 => if s.clk.wakePending then parkCancel s p else parkCommit s p
  | _ => s

/-- PWR_PARK (R61, R185): started, it drains; waiting, it goes one step further. -/
def execPwrPark (q idx : Nat) (s : State) : Res :=
  .next (match s.pkt q idx with
    | some p =>
      if p.opcode = 0x6003 ∧ p.phase = .waiting ∧ p.prog < 3 ∧ (p.prog = 0 ∨ s.clk.mode = .parkEntry) then parkStep s p
      else if p.opcode = 0x6003 ∧ p.phase = .started ∧ accepting s then
        (match endPre s p (preDrain s p).2 with
         | some t => t
         | none => s.setPkt { p with phase := .waiting, prog := 0 })
      else s
    | none => s)

/-- The T32 goes to OFF (R32, R186): the main die in reset, every group C rail down. -/
def shutDown (s : State) : State :=
  let s1 := mainDieReset (clearRecords s)
  let s2 := { s1 with boot := { s1.boot with main := .idle } }
  takeDown s2 (raised s2 0) .off

/-- PWR_SHUTDOWN (R186): the reply is written when the drain ends. -/
def execPwrShutdown (q idx : Nat) (s : State) : Res :=
  .next (match s.pkt q idx with
    | some p =>
      if p.opcode = 0x6004 ∧ p.phase = .waiting ∧ accepting s then
        (if allDone s p then shutDown (complete s p 0 0 0) else s)
      else if p.opcode = 0x6004 ∧ p.phase = .started ∧ accepting s then
        (match endPre s p (preDrain s p).2 with
         | some t => t
         | none => s.setPkt { p with phase := .waiting, prog := 0 })
      else s
    | none => s)

end Sys2Proof.Machine
end

