-- ==== Sys2Proof/Machine/SafCmds.lean ====
section
/-! DEFINITION. The safety class (R187 to R189, R534) and the end of an injection window (R98). -/

namespace Sys2Proof.Machine

/-- SAF_STALL (R187): the limit of attempts that start from now on. -/
def execSafStall (q idx : Nat) (s : State) : Res :=
  carry s q idx 0x7000 preParamLane fun t p =>
    let l := p.u 0 1
    let v := p.u 4 4
    let t1 := t.setF (PACE_STALL.ticks l) v
    complete { t1 with pace := { t1.pace with stallRec := t1.pace.stallRec.filter (fun e => decide (e.1 ≠ l)) ++ [(l, v)] } }
      p 0 0 0

/-- The preconditions of SAF_PAIR (R187): a defined lane, in no packet in flight, with an even number of tiles. -/
def preSafPair (s : State) (p : Pkt) : State × PreFail :=
  let l := p.u 0 1
  (s, match s.lane l with
    | none => .bad 0x20
    | some r => firstPre [(!laneInFlight s l p.q p.idx, 0), (decide (popCount 32 r.tiles % 2 = 0), 0)])

/-- SAF_PAIR (R187, R336). -/
def execSafPair (q idx : Nat) (s : State) : Res :=
  carry s q idx 0x7001 preSafPair fun t p =>
    let l := p.u 0 1
    match t.lane l with
    | none => t
    | some r => complete (laneRegs (t.setLane l (some { r with paired := decide (p.u 1 1 = 1) })) l) p 0 0 0

/-- The run of a SAF_TEST has ended: the lanes are released and the reply names the failed tests (R188). -/
def safTestDone (s : State) (failed : Nat) : State :=
  match s.pkts.find? fun p => decide (p.opcode = 0x7002 ∧ p.phase = .waiting ∧ p.prog = 1) with
  | some p => complete { s with testHold := false } p 0 (2 * failed) 0
  | none => s

/-- INJECTION_WINDOW_END (R98); the last window of a SAF_TEST ends it. -/
def execInjectionWindowEnd (k : Nat) (r : InjReport) (s : State) : Res :=
  let t := windowEnd s k r
  .next (if s.boot.run = .safTest ∧ k ∈ s.boot.left ∧ (s.boot.left.filter fun x => decide (x ≠ k)) = [] then
      safTestDone t (orN (s.getF BOOT_TEST_FAIL.ck) (if r = .expected then 0 else testBit k)) else t)

/-- Every lane is at a kernel boundary: no kernel runs. -/
def lanesHeld (s : State) : Bool := s.jobs.all fun j => decide (j.phase ≠ .running)

/-- The tests of a SAF_TEST begin once every lane is held and no other run is open. -/
def safTestBegin (s : State) (p : Pkt) : State :=
  if lanesHeld s ∧ s.boot.run = .none then
    let ks := (maskBits 14 (p.u 0 2)).filter fun k => decide (5 ≤ k)
    let s1 := s.setPkt { p with prog := 1 }
    if ks = [] then safTestDone s1 0 else openRun s1 .safTest ks
  else s

/-- SAF_TEST (R188): it holds the lanes, and is met again until they are held. -/
def execSafTest (q idx : Nat) (s : State) : Res :=
  .next (match s.pkt q idx with
    | some p =>
      if p.opcode = 0x7002 ∧ p.phase = .waiting ∧ p.prog = 0 ∧ accepting s then safTestBegin s p
      else if p.opcode = 0x7002 ∧ p.phase = .started ∧ accepting s then
        (let p1 := { p with phase := PktPhase.waiting, prog := 0 }
         safTestBegin ({ s with testHold := true }.setPkt p1) p1)
      else s
    | none => s)

/-- SAF_ENTER (R189): the safe state begins; the reply waits for acceptance. Where no safe state can begin it replies at
once. -/
def execSafEnter (q idx : Nat) (s : State) : Res :=
  carry s q idx 0x7003 noPre fun t p =>
    if t.boot.main = .up then safeCause (t.setPkt { p with phase := .waiting }) 0x01 else complete t p 0 0 0

/-- The SAF_REPORT block (R534). -/
def safReport (s : State) : List Byte :=
  leBytes 8 s.now ++ leBytes 4 (s.getF SAF_SAFE_COUNT.n) ++ leBytes 1 (s.getF SAF_STATUS.last_cause) ++
  leBytes 1 (s.getF SAF_STATUS.safe) ++ leBytes 1 (faultCauses s) ++ leBytes 1 0 ++
  leBytes 8 (s.get64 SAF_LAST_ENTRY_LO.lo SAF_LAST_ENTRY_HI.hi) ++ leBytes 4 (s.getF SAF_LAST_LEN.ticks) ++
  leBytes 4 (s.getF SAF_LS_MISMATCH.n) ++ leBytes 4 (s.getF SAF_TRI.resyncs) ++ leBytes 4 (s.getF SAF_TRI_FAIL.n) ++
  leBytes 4 (s.getF SAF_CP_RESTARTS.n) ++ leBytes 2 (2 * s.getF SAF_TEST_RESULT.failed) ++ leBytes 2 0 ++
  leBytes 8 (s.get64 SAF_TEST_FULL_LO.lo SAF_TEST_FULL_HI.hi) ++ leBytes 4 (s.getF BOOT_MAIN_CONSEC.n) ++ leBytes 4 0

/-- SAF_REPORT (R534). -/
def execSafReport (q idx : Nat) (s : State) : Res :=
  carryDma s q idx 0x7004 noPre fun t p => outAndEnd t p (p.u 0 8) (safReport t) 0

end Sys2Proof.Machine
end

