-- ==== Sys2Proof/Machine/SaveImage.lean ====
section
/-! DEFINITION. The save image (R476 to R484): its header, and the body's own layout (R478 leaves it to the T32s). The body
is AES-256-GCM over fields of bytes, each with its length in front. -/

namespace Sys2Proof.Machine

/-! ### Fields -/

/-- A number in as few bytes as it takes. -/
def natField (n : Nat) : List Byte := leBytes (if n = 0 then 0 else Nat.log2 n / 8 + 1) n

/-- Fields as bytes. -/
def encFields (fs : List (List Byte)) : List Byte :=
  fs.flatMap fun f => if f.length < 255 then leBytes 1 f.length ++ f else leBytes 1 255 ++ leBytes 4 f.length ++ f

def decFuel : Nat → List Byte → List (List Byte)
  | 0, _ => []
  | f + 1, bs => match bs with
    | [] => []
    | b :: t =>
      if b.toNat < 255 then t.take b.toNat :: decFuel f (t.drop b.toNat)
      else
        let n := leAt t 0 4
        (t.drop 4).take n :: decFuel f (t.drop (4 + n))

/-- The fields of bytes. -/
def decFields (bs : List Byte) : List (List Byte) := decFuel bs.length bs

/-- Field `k` as a number, as bytes, or as fields. -/
def fNat (fs : List (List Byte)) (k : Nat) : Nat := leNat (fs.getD k [])
@[inherit_doc fNat] def fBytes (fs : List (List Byte)) (k : Nat) : List Byte := fs.getD k []
@[inherit_doc fNat] def fList (fs : List (List Byte)) (k : Nat) : List (List Byte) := decFields (fs.getD k [])

def natsField (l : List Nat) : List Byte := encFields (l.map natField)
def fNats (fs : List (List Byte)) (k : Nat) : List Nat := (fList fs k).map leNat

/-! ### What an image carries (R478) -/

/-- A pending packet with its condition: 0 not started, 1 a paused job with its restarts and the sequences it owns, 2 ended
with its reply held. -/
structure SavedPkt where
  pkt : Pkt
  cond : Nat
  restarts : Nat
  used : Nat
  owns : List Nat
deriving DecidableEq, Repr

/-- A queue: base, configuration, status address, tail, head, done. -/
structure SavedQueue where
  base : Nat
  cfg : Nat
  stat : Nat
  tail : Nat
  head : Nat
  done : Nat
deriving DecidableEq, Repr

/-- An instance as an image carries it; checkpoint copies go with the index of their packet. -/
structure SavedInst where
  classMask : Nat
  laneMask : Nat
  lcMask : Nat
  fmt : Nat
  root : Nat
  key : List Byte
  mbox : Nat
  events : Nat
  queues : List SavedQueue
  ctxs : List (Nat × GfxState)
  idxs : List (Nat × IdxRec)
  pkts : List SavedPkt
  ckpts : List (Nat × Nat × List Byte)
deriving DecidableEq, Repr

def encQueue (x : SavedQueue) : List Byte := natsField [x.base, x.cfg, x.stat, x.tail, x.head, x.done]
def decQueue (bs : List Byte) : SavedQueue :=
  let f := decFields bs
  ⟨fNat f 0, fNat f 1, fNat f 2, fNat f 3, fNat f 4, fNat f 5⟩

def encCtx (e : Nat × GfxState) : List Byte :=
  encFields [natField e.1, encFields (e.2.targets.flatMap fun t => [natField t.1, t.2]), natField e.2.vertexShader,
    natField e.2.fragShader, e.2.state, e.2.vertex, e.2.bins]

/-- Pairs of fields. -/
def fieldPairs : List (List Byte) → List (Nat × List Byte)
  | a :: b :: t => (leNat a, b) :: fieldPairs t
  | _ => []

def decCtx (bs : List Byte) : Nat × GfxState :=
  let f := decFields bs
  (fNat f 0, ⟨fieldPairs (fList f 1), fNat f 2, fNat f 3, fBytes f 4, fBytes f 5, fBytes f 6⟩)

def encIdx (e : Nat × IdxRec) : List Byte :=
  let x := e.2
  encFields [natField e.1, natField x.structure_, natField x.code, natField x.dim, natField x.m, natField x.sketch,
    natField x.shape, natField x.cap, natField x.storeVa, natField x.storeLen, x.params, natField x.layout, natField x.epoch,
    natField x.oldest, natsField x.areaStart, natField x.active, natField x.slotsPub, natField x.slotsStaged,
    natsField x.entrySlot, natField x.poolNext, natField (b2n x.dirty), natField (b2n x.closing)]

def decIdx (owner : Nat) (bs : List Byte) : Nat × IdxRec :=
  let f := decFields bs
  (fNat f 0, ⟨owner, fNat f 1, fNat f 2, fNat f 3, fNat f 4, fNat f 5, fNat f 6, fNat f 7, fNat f 8, fNat f 9, fBytes f 10,
    fNat f 11, fNat f 12, fNat f 13, fNats f 14, fNat f 15, fNat f 16, fNat f 17, fNats f 18, fNat f 19,
    decide (fNat f 20 = 1), decide (fNat f 21 = 1)⟩)

def encReply (r : Option Reply) : List Byte := match r with
  | none => []
  | some x => natsField [x.status, x.detail, x.energy, x.ctime, x.faultAddr]

def decReply (bs : List Byte) : Option Reply :=
  if bs.isEmpty then none
  else
    let f := decFields bs
    some ⟨fNat f 0, fNat f 1, fNat f 2, fNat f 3, fNat f 4⟩

def encPkt (x : SavedPkt) : List Byte :=
  let p := x.pkt
  encFields [natField p.q, natField p.idx, natField p.slotAddr, natField p.opcode, natField p.flags, natField p.seq,
    natField p.lane, natField (b2n p.lc), natField p.deadline, natField p.replyAddr, p.params, encReply p.reply,
    natField x.cond, natField x.restarts, natField x.used]

def decPkt (inst now : Nat) (bs : List Byte) : SavedPkt :=
  let f := decFields bs
  let p : Pkt := ⟨fNat f 0, fNat f 1, fNat f 2, fNat f 3, fNat f 4, fNat f 5, inst, fNat f 6, decide (fNat f 7 = 1),
    fNat f 8, fNat f 9, fBytes f 10, now, 0,
    if fNat f 12 = 2 then .ended else if fNat f 12 = 1 then .waiting else .consumed, decReply (fBytes f 11), 0, none⟩
  ⟨p, fNat f 12, fNat f 13, fNat f 14, []⟩

/-- The fixed part: everything but packets and checkpoint copies. Owned sequences go by packet, 4 bytes each. -/
def encBase (x : SavedInst) : List Byte :=
  encFields [natField x.classMask, natField x.laneMask, natField x.lcMask, natField x.fmt, natField x.root, x.key,
    natField x.mbox, natField x.events, encFields (x.queues.map encQueue), encFields (x.ctxs.map encCtx),
    encFields (x.idxs.map encIdx), encFields (x.pkts.map fun p => p.owns.flatMap (leBytes 4))]

/-- Bytes taken by one checkpoint copy (R479). -/
def ckptBytes (n : Nat) : Nat := 64 + (n + 63) / 64 * 64

/-- Size of an image (R479). -/
def imageSize (x : SavedInst) : Nat :=
  let n := 65536 + 2176 * x.pkts.length + (x.ckpts.map fun c => ckptBytes c.2.2.length).foldl (· + ·) 0
  (n + 65535) / 65536 * 65536

/-- The body in plaintext: the fixed part up to byte 65,536 of the image, the packets, the checkpoint copies, zeros. -/
def encBody (x : SavedInst) : List Byte :=
  let bs := slice (encBase x) 0 65280 ++ (x.pkts.flatMap fun p => slice (encPkt p) 0 2176) ++
    x.ckpts.flatMap fun c => leBytes 8 c.1 ++ leBytes 8 c.2.1 ++ leBytes 8 c.2.2.length ++ leBytes 40 0 ++
      slice c.2.2 0 ((c.2.2.length + 63) / 64 * 64)
  slice bs 0 (imageSize x - 256)

/-- The checkpoint copies of a body. -/
def decCkpts : Nat → List Byte → List (Nat × Nat × List Byte)
  | 0, _ => []
  | n + 1, bs =>
    let len := leAt bs 16 8
    (leAt bs 0 8, leAt bs 8 8, slice bs 64 len) :: decCkpts n (bs.drop (ckptBytes len))

/-- Read a body for an instance. -/
def decBody (inst now nPkt nCkpt : Nat) (bs : List Byte) : SavedInst :=
  let f := decFields (bs.take 65280)
  let owns := fList f 11
  let pk := (List.range nPkt).map fun k =>
    let p := decPkt inst now (slice bs (65280 + 2176 * k) 2176)
    let o := owns.getD k []
    { p with owns := (List.range (o.length / 4)).map fun j => leAt o (4 * j) 4 }
  ⟨fNat f 0, fNat f 1, fNat f 2, fNat f 3, fNat f 4, fBytes f 5, fNat f 6, fNat f 7, (fList f 8).map decQueue,
    (fList f 9).map decCtx, (fList f 10).map (decIdx inst), pk, decCkpts nCkpt (bs.drop (65280 + 2176 * nPkt))⟩

/-! ### Times (R484) -/

/-- This T32 keeps ring time: it follows TIMESYNC, or it is node 0 with ts_en set. -/
def onRingTime (s : State) : Bool :=
  if s.getF RING_CTRL.node = 0 then s.flag RING_CTRL.ts_en else decide (s.getF TIME_CTRL.rate_src = 2)

/-- The ring offset; node 0's is 0. -/
def ringOffset (s : State) : Nat :=
  if s.getF RING_CTRL.node = 0 then 0 else s.get64 RING_TS_OFFSET_LO.lo RING_TS_OFFSET_HI.hi

/-- Parameter offset of an opcode's timeout. -/
def timeoutOff (op : Nat) : Option Nat :=
  if op ∈ ([0x0004, 0x4005, 0x5003, 0x5005] : List Nat) then some 8
  else if op ∈ ([0x5001, 0x5002, 0x5004] : List Nat) then some 0x10
  else none

/-- A tick carried through ring time; 0 stays none. -/
def shiftTick (off t : Nat) : Nat := if t = 0 then 0 else (t + off) % 2 ^ 64

def shiftPkt (off : Nat) (p : Pkt) : Pkt :=
  { p with
    deadline := shiftTick off p.deadline
    params := match timeoutOff p.opcode with
      | some o => patch p.params o (leBytes 8 (shiftTick off (leAt p.params o 8)))
      | none => p.params }

/-! ### Saving (R194, R477) -/

/-- A packet in its condition. -/
def savePkt (s : State) (off : Nat) (p : Pkt) : SavedPkt :=
  let p1 := shiftPkt off p
  match p.phase, s.job p.q p.idx with
  | .ended, _ => ⟨p1, 2, 0, 0, []⟩
  | _, some j => if j.started then ⟨p1, 1, j.restarts, j.used, j.owns.map Claim.entry⟩ else ⟨p1, 0, 0, 0, []⟩
  | _, none => ⟨p1, 0, 0, 0, []⟩

/-- What an image of an instance carries now. -/
def saveInst (s : State) (i : Nat) : SavedInst :=
  let off := if onRingTime s then ringOffset s else 0
  let ps := instPkts s i
  let r := s.inst i
  { classMask := s.getF (INST_RIGHTS.class_mask i)
    laneMask := s.getF (INST_RIGHTS.lane_mask i)
    lcMask := s.getF (INST_RIGHTS.lc_mask i)
    fmt := r.fmt
    root := r.root
    key := tabGet (fun _ => []) s.ms.keys i
    mbox := mboxAddr s i
    events := r.events
    queues := (List.range 4).map fun k =>
      let q := 4 * i + k
      let x := s.queue q
      ⟨qBase s q, (s.rd (CMDP_QCFG.addr q)).toNat, qStat s q, s.getF (CMDP_DB.tail q), x.head, x.done⟩
    ctxs := (s.gctx.filter fun e => decide (e.2.owner = some i)).map fun e => (e.1, e.2.st)
    idxs := s.idxs.filterMap fun e => match e.2 with
      | some x => if x.owner = i then some (e.1, x) else none
      | none => none
    pkts := ps.map (savePkt s off)
    ckpts := ps.filterMap fun p => match s.job p.q p.idx with
      | some j => if j.ckpt.isEmpty then none else some (p.q, p.idx, j.ckpt.flatMap fun c => c.2.2)
      | none => none }

/-- A lane record of the header (R477). -/
def laneHdr (s : State) (mask l : Nat) : List Byte :=
  match if bitB mask l then s.lane l else none with
  | none => leBytes 16 0
  | some r => leBytes 1 (laneUnits r).length ++ leBytes 1 (popCount 16 r.ways) ++ leBytes 1 (b2n r.paired) ++ leBytes 1 0 ++
      leBytes 2 r.chans ++ leBytes 2 0 ++ leBytes 2 r.bayLen ++ leBytes 2 0 ++ leBytes 4 (r.ckptLen / 65536)

/-- Header bytes 0x00 to 0xD3, the additional authenticated data. -/
def imageHead (s : State) (i : Nat) (x : SavedInst) : List Byte :=
  let tb := onRingTime s
  leBytes 4 0x47534E49 ++ leBytes 2 1 ++ leBytes 1 i ++ leBytes 1 0 ++
  leBytes 4 (Config.tsuquelVersion (s.getF BOOT_IMAGE.image_version)) ++ leBytes 4 x.pkts.length ++ leBytes 8 (imageSize x) ++
  leBytes 8 (s.now + if tb then ringOffset s else 0) ++ leBytes 4 x.ckpts.length ++ leBytes 1 x.laneMask ++
  leBytes 1 x.lcMask ++ leBytes 2 0 ++ ((List.range 8).flatMap fun l => laneHdr s x.laneMask l) ++ leBytes 1 (b2n tb) ++
  leBytes 43 0

/-- The key of an image (R476). -/
def imgKey (nonce : List Byte) : List Byte := slice (Config.imageKey Config.migrationKey nonce) 0 32

/-- The image with a nonce. -/
def imageBytes (s : State) (i : Nat) (x : SavedInst) (nonce : List Byte) : List Byte :=
  let h := imageHead s i x
  let c := gcmSeal (imgKey nonce) nonce h (encBody x)
  h ++ nonce ++ c.2 ++ leBytes 16 0 ++ c.1

/-! ### Opening (R480) -/

/-- The body of an image whose magic, version and tag hold. -/
def openImage (img : List Byte) : Option (List Byte) :=
  if leAt img 0 4 = 0x47534E49 ∧ leAt img 4 2 = 1 then
    gcmOpen (imgKey (slice img 0xD4 12)) (slice img 0xD4 12) (img.take 0xD4)
      (slice img 256 (leAt img 0x10 8 - 256)) (slice img 0xE0 16)
  else none

/-- The lane records agree with this T32's lanes (R480). -/
def lanesAgree (s : State) (img : List Byte) : Bool :=
  (maskBits 8 (leAt img 0x24 1)).all fun l =>
    let h := slice img (0x28 + 16 * l) 16
    match s.lane l with
    | none => false
    | some r => decide (r.chans = leAt h 4 2) && decide (b2n r.paired = leAt h 2 1) &&
        decide (leAt h 0 1 ≤ (laneUnits r).length) && decide (leAt h 1 1 ≤ popCount 16 r.ways) &&
        decide (leAt h 8 2 ≤ r.bayLen) && decide (leAt h 12 4 ≤ r.ckptLen / 65536)

/-- The image as read for a target: none where a check of R480 fails. -/
def restorable (s : State) (i : Nat) (img : List Byte) : Option SavedInst :=
  match openImage img with
  | none => none
  | some body =>
    let off := if leAt img 0xA8 1 = 1 ∧ onRingTime s then 2 ^ 64 - ringOffset s else 0
    let x := decBody i s.now (leAt img 0xC 4) (leAt img 0x20 4) body
    let y : SavedInst := { x with pkts := x.pkts.map fun p => { p with pkt := shiftPkt off p.pkt } }
    if leAt img 8 4 = Config.tsuquelVersion (s.getF BOOT_IMAGE.image_version) % 2 ^ 32 ∧ leAt img 6 1 = i ∧ lanesAgree s img ∧
        (y.idxs.all fun e => (s.idx e.1).isNone) ∧ (y.ctxs.all fun e => decide ((s.gfxCtx e.1).owner = none)) ∧
        (y.mbox = 0 ∨ (y.mbox % 4096 = 0 ∧ mboxOk s y.mbox)) then some y
    else none

end Sys2Proof.Machine
end

