-- ==== Sys2Proof/Machine/InstCmds.lean ====
section
/-! DEFINITION. The instance class (R190 to R196, R463 to R485). -/

namespace Sys2Proof.Machine

/-- The instance an opcode acts on. -/
def target (p : Pkt) : Nat := p.u 0 1

/-- The target is not the submitter (R190). -/
def notSelf (p : Pkt) : Bool × Nat := (decide (target p ≠ qOwner p.q), 0)

/-- An opcode that needs a running target (R466): a frozen one ends it with ST_FROZEN. -/
def preRunning (cs : State → Pkt → List (Bool × Nat)) (s : State) (p : Pkt) : State × PreFail :=
  (s, if instState s (target p) = 3 then .frozen else firstPre (notSelf p :: cs s p))

/-- The opcode is done with its target (R467). -/
def instDone (s : State) (p : Pkt) (detail : Nat) : State :=
  let i := target p
  complete (s.setInst i { s.inst i with busy := 0, op := none, changedAt := s.now }) p 0 detail 0

/-- INST_RIGHTS's preconditions (R190). -/
def preRights : State → Pkt → State × PreFail :=
  preRunning fun s p => [(decide (p.u 1 1 = 0), 1), (decide (instState s (target p) = 2) || !anyQueue s (target p), 0)]

/-- INST_RIGHTS (R464, R466, R470): an Empty target with a class runs; otherwise a notice shows no change. -/
def execInstRights (q idx : Nat) (s : State) : Res :=
  carry s q idx 0x8000 preRights fun t p =>
    let i := target p
    let t1 := ((t.setF (INST_RIGHTS.class_mask i) (p.u 2 2)).setF (INST_RIGHTS.lane_mask i) (p.u 4 1)).setF
      (INST_RIGHTS.lc_mask i) (p.u 5 1)
    let st := instState t1 i
    let t2 := if st = 0 ∧ p.u 2 2 ≠ 0 then setInstState t1 i 1 0x8000 else notice t1 i st st 0x8000 false
    instDone t2 p 0

/-! ### Quiesce and freeze (R191, R193, R471 to R475) -/

/-- A started wait that a quiesce or a freeze ends (R472). -/
def waits (p : Pkt) : Bool := isWaitOp p.opcode && decide (p.phase = .started ∨ p.phase = .waiting)

/-- A packet at work that has not started in the sense of R471: a job without its first kernel, or work begun in this tick that
can be taken back. -/
def unstarted (s : State) (p : Pkt) : Bool :=
  (isJobOp p.opcode && decide (p.phase = .started)) ||
  (!isJobOp p.opcode && decide (p.began = s.now) && (decide (p.phase = .started) ||
    (decide (p.phase = .waiting) && decide (p.opcode ∈ ([0x3001, 0x3002, 0x3005, 0x4006, 0x5001, 0x5002, 0x5003, 0x5005] : List Nat)))))

/-- The work of an unstarted packet is taken back. -/
def takeBack (s : State) (p : Pkt) : State :=
  if p.phase ≠ .waiting then s
  else if p.opcode = 0x4006 then (match s.idx (p.u 0 2) with
    | some x => s.setIdx (p.u 0 2) (some { x with closing := false })
    | none => s)
  else if ringOp p then ringAgain s p
  else s

/-- What counts as not started goes back to before its start: kernels dispatched in this tick, and packets (R471). -/
def startTick (s : State) (i : Nat) : State :=
  let s1 := (instJobs s i).foldl undispatch s
  ((instPkts s1 i).filter (unstarted s1)).foldl (fun t p =>
    (dropPktWaits (takeBack t p) p.q p.idx).setPkt { p with phase := .consumed, prog := 0, out := none }) s1

/-- The instance's packets that a quiesce ends at once: not started, and started waits. -/
def quiesceNow (s : State) (i : Nat) : List Pkt :=
  (instPkts s i).filter fun p => decide (p.phase = .consumed) || waits p

/-- End a job of an instance under quiesce with ST_QUIESCED. -/
def quiesceJob (s : State) (j : Job) : State :=
  let x := s.inst j.inst
  endJob (s.setInst j.inst { x with ended := x.ended + 1 }) j 0x50 0 0

/-- Jobs that a quiesce ends now: those not started, and in stop mode those at a kernel boundary, the last one among them until
the commit is sealed. -/
def quiesceJobs (s : State) (i mode : Nat) : List Job :=
  (instJobs s i).filter fun j => (decide (j.phase = .ready) && (!j.started || decide (mode = 1))) ||
    decide (j.phase = .ended ∧ mode = 1)

/-- The quiesce ends when no packet of the target lacks its record. -/
def finishQuiesce (s : State) (p : Pkt) : State :=
  let i := target p
  if (instPkts s i).isEmpty then
    let n := min (s.inst i).ended 0xFFFFFFFF
    instDone (setInstState s i 2 0x8001) p n
  else s

/-- INST_QUIESCE's preconditions (R466). -/
def preQuiesce : State → Pkt → State × PreFail :=
  preRunning fun s p => [(decide (instState s (target p) = 1 ∨ instState s (target p) = 2), 0)]

/-- INST_QUIESCE begins (R191, R471, R472). -/
def beginQuiesce (s : State) (p : Pkt) : State :=
  let i := target p
  if instState s i = 2 then instDone s p 0
  else
    let mode := p.u 1 1
    let p1 := { p with phase := PktPhase.waiting }
    let s1 := (s.setPkt p1).setInst i { s.inst i with busy := 1 + mode, op := some (p.q, p.idx), ended := 0 }
    let s2 := startTick s1 i
    let s3 := quiesceThese s2 (quiesceNow s2 i)
    finishQuiesce ((quiesceJobs s3 i mode).foldl quiesceJob s3) p1

/-- A row that is met again while its packet waits: `again` goes on, `first` begins. -/
def longRow (q idx code : Nat) (pre : State → Pkt → State × PreFail) (first again : State → Pkt → State) (s : State) : Res :=
  match s.pkt q idx with
  | some p => if p.opcode = code ∧ p.phase = .waiting ∧ accepting s then .next (again s p) else carry s q idx code pre first
  | none => .next s

/-- INST_QUIESCE (R191): it waits until the last record is written. -/
def execInstQuiesce (q idx : Nat) (s : State) : Res := longRow q idx 0x8001 preQuiesce beginQuiesce finishQuiesce s

/-- INST_RESUME (R191): no effect on a target that is not quiesced. -/
def execInstResume (q idx : Nat) (s : State) : Res :=
  carry s q idx 0x8002 (preRunning fun _ _ => []) fun t p =>
    instDone (if instState t (target p) = 2 then setInstState t (target p) 1 0x8002 else t) p 0

/-- A job of a frozen target that may pause now. -/
def pauseNow (s : State) (i : Nat) : State :=
  ((instJobs s i).filter fun j => decide (j.phase = .ready) && j.started).foldl
    (fun t j => t.setJob { j with phase := .paused }) s

/-- Jobs of an instance that are paused. -/
def pausedJobs (s : State) (i : Nat) : List Job := (instJobs s i).filter fun j => decide (j.phase = .paused)

/-- A packet keeps a freeze waiting: a job that runs or commits, or another opcode at work. -/
def holdsFreeze (s : State) (p : Pkt) : Bool :=
  match p.phase, s.job p.q p.idx with
  | .consumed, _ => false
  | .ended, _ => false
  | _, some j => j.started && decide (j.phase ≠ .paused)
  | .waiting, none => true
  | .writing, none => true
  | .started, none => !isJobOp p.opcode

/-- The freeze ends when every job is paused (R193). -/
def finishFreeze (s : State) (p : Pkt) : State :=
  let i := target p
  if (instPkts s i).any (holdsFreeze s) then s
  else
    let s1 := s.setF (INST_STATE.held_quiesce i) (b2n (decide (instState s i = 2)))
    instDone (setInstState s1 i 3 0x8004) p (pausedJobs s1 i).length

/-- INST_FREEZE's preconditions (R466). -/
def preFreeze (s : State) (p : Pkt) : State × PreFail :=
  (s, firstPre [notSelf p, (decide (instState s (target p) = 1 ∨ instState s (target p) = 2), 0)])

/-- INST_FREEZE begins (R471, R472, R474). -/
def beginFreeze (s : State) (p : Pkt) : State :=
  let i := target p
  let p1 := { p with phase := PktPhase.waiting }
  let s1 := (s.setPkt p1).setInst i { s.inst i with busy := 3, op := some (p.q, p.idx), ended := 0 }
  let s2 := startTick s1 i
  finishFreeze (pauseNow (quiesceThese s2 ((instPkts s2 i).filter waits)) i) p1

/-- INST_FREEZE (R193). -/
def execInstFreeze (q idx : Nat) (s : State) : Res := longRow q idx 0x8004 preFreeze beginFreeze finishFreeze s

/-! ### Reset and removal (R192, R196, R473) -/

/-- Drop an index's staged state: the area that serves the published epoch is as it was at its publication. A list loses
its staged slots, and the count is of the pool blocks it keeps. -/
def dropLists (w : Who) (x : IdxRec) (a bound : Nat) : Nat → Nat → Io × Nat → Io × Nat
  | 0, _, r => r
  | f + 1, b, (io, kept) =>
    let r := io.rd w (blockVa x a b) 64
    let n := min (leAt r.2 60 4) 14
    let keep := ((List.range n).filter fun k => decide (leAt r.2 (4 * k) 4 < bound)).length
    let nx := leAt r.2 56 4
    let io1 := if keep = n then r.1 else r.1.wr w (blockVa x a b + 60) (leBytes 4 keep)
    if nx = 0xFFFFFFFF ∨ nx < x.shape ∨ listBlocks x ≤ nx then (io1, kept)
    else
      let h := io1.rd w (blockVa x a nx) 4
      if keep = 14 ∧ leNat h.2 < bound then dropLists w x a bound f nx (h.1, kept + 1)
      else (h.1.wr w (blockVa x a b + 56) (leBytes 4 0xFFFFFFFF), kept)

@[inherit_doc dropLists] def dropSlot (w : Who) (x : IdxRec) (a i : Nat) (io : Io) : Io :=
  let p := x.epoch + 1
  let r := readRec io w x a i
  let io1 := if r.2.death = p then r.1.wr w (recVa x a i + 12) (leBytes 4 0) else r.1
  if x.structure_ = 2 then
    (List.range x.shape).foldl (fun u k =>
      let l := u.rd w (linkVa x a i k) 8
      if leAt l.2 4 4 = p then l.1.wr w (linkVa x a i k) (leBytes 4 0xFFFFFFFF ++ leBytes 4 0) else l.1) io1
  else io1

@[inherit_doc dropLists] def dropStaged (s : State) (i id : Nat) (x : IdxRec) : State :=
  if x.dirty ∨ x.slotsStaged ≠ x.slotsPub then
    let w := cpWho i noCtx
    let a := if x.layout = 1 then areaAt x x.epoch else 0
    let io1 := (List.range x.slotsPub).foldl (fun u k => dropSlot w x a k u) ⟨s, none⟩
    let r := if x.structure_ = 1 then
        (List.range x.shape).foldl (fun u l => dropLists w x a x.slotsPub (listBlocks x + 1) l u) (io1, 0) else (io1, 0)
    let io3 := idMapNote w x a r.1
    (putIdx io3 w id { x with
      active := a, slotsStaged := x.slotsPub, dirty := false, poolNext := r.2
      areaStart := x.areaStart.map fun e => if e = x.epoch + 1 then 0xFFFFFFFF else e
      entrySlot := if x.slotsPub = 0 then x.entrySlot.set a 0xFFFFFFFF else x.entrySlot }).s
  else s

/-- The indexes of an instance. -/
def ownIdxs (s : State) (i : Nat) : List (Nat × IdxRec) :=
  s.idxs.filterMap fun e => match e.2 with
    | some x => if x.owner = i then some (e.1, x) else none
    | none => none

/-- Release every graphics context of an instance (R416; R473 says otherwise of INST_RESET, assumption 125). -/
def releaseCtxs (s : State) (i : Nat) : State :=
  (s.gctx.filter fun e => decide (e.2.owner = some i)).foldl (fun t e =>
    ({ t with gctx := tabPut (fun _ => GfxCtx.init) t.gctx e.1 GfxCtx.init } : State).wr (GFX_CTX.addr e.1) 0) s

def disableQueues (s : State) (i : Nat) : State :=
  (List.range 4).foldl (fun t k => t.setF (CMDP_QCFG.enable (4 * i + k)) 0) s

/-- INST_RESET's preconditions (R192, R466). -/
def preReset : State → Pkt → State × PreFail := preRunning fun s p => [(decide (instState s (target p) = 2), 0)]

/-- The target is reset and stays quiesced (R192, R416). -/
def resetInst (s : State) (p : Pkt) : State :=
  let i := target p
  let s1 := releaseCtxs (disableQueues s i) i
  let s2 := s1.setInst i { s1.inst i with events := 0 }
  instDone ((ownIdxs s2 i).foldl (fun u e => dropStaged u i e.1 e.2) s2) p 0

/-- INST_RESET (R192, R416). -/
def execInstReset (q idx : Nat) (s : State) : Res := carryDma s q idx 0x8003 preReset resetInst

/-- The target still owns a stream, an output or a controller. -/
def ownsIo (s : State) (i : Nat) : Bool :=
  ((List.range 16).any fun t => match s.sens t with
    | some r => decide (r.owner = i)
    | none => false) ||
  ((List.range 4).any fun o => outEnabled s o && decide (s.getF (DISP_OUT_STATE.owner o) = i)) ||
  (List.range 16).any fun c => decide (canMode s c ≠ 0) && decide (canOwner s c = i)

/-- What the target owns stops as STREAM_STOP would stop it (R473): streams between frames and controllers with an empty queue
now, the others and the outputs at their boundary, their last frame or their blank. A stopped output's record goes. -/
def stopIo (s : State) (i : Nat) : State :=
  let s1 := (List.range 16).foldl (fun t k => match t.sens k with
    | some r => if r.owner = i && !(r.frame.isSome || r.dropping) then stopStream t k else t
    | none => t) s
  let s2 := (List.range 4).foldl (fun t o => match tabGet (fun _ => none) t.io.dispSaved o with
    | some d => if d.1 = i ∧ !outEnabled t o then t.setDispSaved o none else t
    | none => t) s1
  (List.range 16).foldl (fun t c =>
    if canMode t c ≠ 0 ∧ canOwner t c = i ∧ (t.can c).host.isEmpty then canOff t c else t) s2

/-- The target is removed (R196, R416, R473, R274): its notice comes before its mailbox goes. -/
def finishRemove (s : State) (p : Pkt) : State :=
  let i := target p
  let s1 := stopIo s i
  if ownsIo s1 i then s1
  else
    let s2 := (ownIdxs s1 i).foldl (fun t e => idxLive (t.setIdx e.1 none) e.1 false) s1
    let s3 := disableQueues (releaseCtxs s2 i) i
    let s4 := (dropKey (setRoot s3 i 0 0 0x8008) i).setF (XLT_CFG.key_valid i) 0
    let s5 := ((s4.setF (INST_RIGHTS.class_mask i) 0).setF (INST_RIGHTS.lane_mask i) 0).setF (INST_RIGHTS.lc_mask i) 0
    let s6 := setInstState s5 i 0 0x8008
    let s7 := ((s6.setF (INST_MBOX_LO.lo i) 0).setF (INST_MBOX_HI.hi i) 0).setF (INST_STATE.held_quiesce i) 0
    instDone (s7.setInst i { InstRec.init with notices := (s7.inst i).notices }) p 0

/-- INST_REMOVE's preconditions (R466). -/
def preRemove (s : State) (p : Pkt) : State × PreFail :=
  (s, firstPre [notSelf p, (decide (instState s (target p) = 2 ∨ instState s (target p) = 3), 0)])

/-- INST_REMOVE begins: paused jobs and packets that have not started end with ST_QUIESCED (R196). -/
def beginRemove (s : State) (p : Pkt) : State :=
  let i := target p
  let p1 := { p with phase := PktPhase.waiting }
  let s1 := (s.setPkt p1).setInst i { s.inst i with op := some (p.q, p.idx) }
  let s2 := quiesceThese s1 ((instPkts s1 i).filter fun x => decide (x.phase = .consumed ∨ x.phase = .started))
  finishRemove ((instJobs s2 i).foldl (fun t j => endJob t j 0x50 0 0) s2) p1

/-- INST_REMOVE (R196, R473). -/
def execInstRemove (q idx : Nat) (s : State) : Res := longRow q idx 0x8008 preRemove beginRemove finishRemove s

/-! ### Save, restore and thaw (R194, R195, R476 to R484) -/

/-- INST_SAVE's preconditions (R194, R476): a frozen target, a migration key, and room for the image. -/
def preSave (s : State) (p : Pkt) : State × PreFail :=
  (s, if Config.migrationKey = [] then .bad 0
    else firstPre [notSelf p, (decide (instState s (target p) = 3), 0),
      (decide (p.u 0x10 8 = 0 ∨ imageSize (saveInst s (target p)) ≤ p.u 0x10 8), 0x10)])

/-- The target's image is written, or only its size answered (R194, R477 to R479). -/
def imageOut (s : State) (p : Pkt) : State :=
  let i := target p
  let x := saveInst s i
  let n := imageSize x / 65536
  let s0 := s.setInst i { s.inst i with changedAt := s.now }
  if p.u 0x10 8 = 0 then complete s0 p 0 n 0
  else
    let f := s0.fresh
    outAndEnd f.2 p (p.u 8 8) (imageBytes f.2 i x (leBytes 12 f.1)) n

/-- INST_SAVE (R194, R477 to R479). -/
def execInstSave (q idx : Nat) (s : State) : Res := carryDma s q idx 0x8005 preSave imageOut

/-- INST_RESTORE's preconditions (R195, R476, R480). -/
def preRestore (s : State) (p : Pkt) : State × PreFail :=
  let i := target p
  if Config.migrationKey = [] then (s, .bad 0)
  else match firstPre [notSelf p, (decide (instState s i = 0), 0), (decide (65536 ≤ p.u 0x10 8), 0x10)] with
    | .ok => (match dmaRead s (pktWho p false) (p.u 8 8) (p.u 0x10 8) with
      | (s1, .ok img) => (s1, firstPre [(decide (leAt img 0x10 8 ≤ p.u 0x10 8 ∧ 256 ≤ leAt img 0x10 8), 0x10),
          ((restorable s1 i img).isSome, 8)])
      | (s1, .error (.xlat a _ _)) => (s1, .xlat 8 a)
      | (s1, .error (.poison pa)) => (s1, .poison pa))
    | r => (s, r)

/-- A carried queue is enabled with its counters and doorbell value (R481); enabling writes its status block (R122). -/
def restoreQueue (i : Nat) (s : State) (e : SavedQueue × Nat) : State :=
  let q := 4 * i + e.2
  let x := e.1
  let s1 := (s.set64 (CMDP_QBASE_LO.lo q) (CMDP_QBASE_HI.hi q) x.base).set64 (CMDP_QSTAT_LO.lo q) (CMDP_QSTAT_HI.hi q) x.stat
  let s2 := (s1.setF (CMDP_QCFG.log2_entries q) (bits x.cfg 0 4)).setF (CMDP_QCFG.slot_code q) (bits x.cfg 4 4)
  if bitB x.cfg 8 then
    let s3 := ((s2.setF (CMDP_QCFG.enable q) 1).setF (CMDP_DB.tail q) x.tail).setF (CMDP_QSTATE.error q) 0
    let s4 := (s3.setF (CMDP_QSTATE.reason q) 0).setQueue q
      { QueueState.init with head := x.head, done := x.done, irqs := (s.queue q).irqs }
    writeStatus s4 q
  else s2.setQueue q { s2.queue q with head := x.head, done := x.done }

/-- A paused job as carried: it begins anew at INST_THAW (R483). -/
def restoreJob (x : SavedInst) (s : State) (e : SavedPkt) : State :=
  if e.cond = 1 then
    let c := x.ckpts.find? fun c => decide (c.1 = e.pkt.q ∧ c.2.1 = e.pkt.idx)
    let bs := match c with
      | some c => c.2.2
      | none => []
    let j := { newJob s e.pkt .run 0 0 with
      phase := .paused, fresh := true, restarts := e.restarts, used := e.used, started := true
      owns := e.owns.map fun k => ⟨k, s.now, 0, 0, 0, 0⟩, ckpt := if bs.isEmpty then [] else [(0, 0, bs)]
      ckptPages := (bs.length + 4095) / 4096 }
    { s with jobs := s.jobs ++ [j] }
  else s

/-- Put a carried instance in place (R481). -/
def restoreInst (s : State) (i : Nat) (x : SavedInst) : State :=
  let s1 := ((s.setF (INST_RIGHTS.class_mask i) x.classMask).setF (INST_RIGHTS.lane_mask i) x.laneMask).setF
    (INST_RIGHTS.lc_mask i) x.lcMask
  let s2 := { s1 with ms := { s1.ms with keys := tabPut (fun _ => []) s1.ms.keys i x.key } }
  let s3 := (s2.setF (XLT_ROOT_LO.lo i) (x.root / 4096 % 2 ^ 20)).setF (XLT_ROOT_HI.hi i) (x.root / 2 ^ 32 % 2 ^ 8)
  let s4 := dropXlt ((s3.setF (XLT_CFG.format i) x.fmt).setF (XLT_CFG.key_valid i) (b2n (!x.key.isEmpty))) i 0 0
  let s5 := (s4.setF (INST_MBOX_LO.lo i) (x.mbox / 4096 % 2 ^ 20)).setF (INST_MBOX_HI.hi i) (x.mbox / 2 ^ 32 % 2 ^ 8)
  let s6 := s5.setInst i { s5.inst i with fmt := x.fmt, root := x.root, events := x.events }
  let s7 := x.idxs.foldl (fun t e => idxLive (t.setIdx e.1 (some e.2)) e.1 true) s6
  let s8 := x.ctxs.foldl (fun t e =>
    ((({ t with gctx := tabPut (fun _ => GfxCtx.init) t.gctx e.1 ⟨some i, e.2⟩ } : State).setF (GFX_CTX.bound e.1) 1).setF
      (GFX_CTX.instance e.1) i)) s7
  let s9 := x.queues.zipIdx.foldl (restoreQueue i) s8
  let s10 := { s9 with pkts := s9.pkts ++ x.pkts.map fun e => e.pkt }
  x.pkts.foldl (restoreJob x) s10

/-- The target takes an image that opened: it is frozen, and a notice with the migrated flag shows it (R195, R481, R484). -/
def restored (s : State) (p : Pkt) (x : SavedInst) : State :=
  let i := target p
  let s1 := ((restoreInst s i x).setF (INST_STATE.state i) 3).setF (INST_STATE.held_quiesce i) 0
  let s2 := (s1.setF (INST_STATE.restored i) 1).addSat (INST_RESTORES.n i) 1
  instDone (notice s2 i 0 3 0x8006 true) p 0

/-- The image is read, and the target restored from it (R195, R480 to R484). -/
def imageIn (s : State) (p : Pkt) : State :=
  match dmaRead s (pktWho p false) (p.u 8 8) (p.u 0x10 8) with
  | (s1, .error e) => endErr s1 p e
  | (s1, .ok img) =>
    match restorable s1 (target p) img with
    | none => preFail s1 p 0x28
    | some x => restored s1 p x

/-- INST_RESTORE (R195, R480 to R484). -/
def execInstRestore (q idx : Nat) (s : State) : Res := carryDma s q idx 0x8006 preRestore imageIn

/-- INST_THAW's precondition (R466). -/
def preThaw (s : State) (p : Pkt) : State × PreFail :=
  (s, firstPre [notSelf p, (decide (instState s (target p) = 3), 0)])

/-- A job opcode starts: its preconditions, and its job. -/
def startJobOp (p : Pkt) (s : State) : State :=
  match p.opcode with
  | 0x1000 => preThen p jobRunPre startRun s
  | 0x1001 => preThen p jobSearchPre startSearch s
  | 0x1002 => preThen p noPre startGfx s
  | _ => preThen p idxBuildPre startBuild s

/-- The pieces of the job's in-place buffers take the carried copy (R481). -/
def spread : List (Nat × Nat × List Byte) → List Byte → List (Nat × Nat × List Byte)
  | [], _ => []
  | c :: t, bs => (c.1, c.2.1, slice bs 0 c.2.2.length) :: spread t (bs.drop c.2.2.length)

/-- A carried paused job starts again (R483): its opcode is taken up anew, and what the image carried stands. -/
def thawCarried (s : State) (j : Job) : State :=
  match s.pkt j.q j.idx with
  | none => s.dropJob j
  | some p =>
    let p1 := { p with phase := PktPhase.started }
    let s1 := startJobOp p1 ((s.dropJob j).setPkt p1)
    match s1.job j.q j.idx with
    | none => s1
    | some k =>
      let bufs := if k.kind = .run then (jrBufs p).filter inPlace else []
      match takeCkpt s1 k bufs [] with
      | (s2, .error va) => endAccess s2 k va
      | (s2, .ok c) =>
        newAttempt s2 { k with started := true, restarts := j.restarts, used := j.used, owns := j.owns
                               ckpt := spread c (j.ckpt.flatMap fun x => x.2.2), ckptPages := j.ckptPages } false false

/-- A paused job goes on: at its boundary, or in a new attempt (R483, R553). -/
def thawJob (s : State) (j : Job) : State :=
  if j.nKernel = 0 then thawCarried s j
  else if j.fresh then newAttempt s j false false
  else s.setJob { j with phase := .ready, readyAt := s.now, progressAt := s.now }

/-- The target goes back to the state it was frozen in; its paused jobs and its queues go on (R195, R475, R483). -/
def thawInst (s : State) (p : Pkt) : State :=
  let i := target p
  let new := if s.flag (INST_STATE.held_quiesce i) then 2 else 1
  let s1 := setInstState s i new 0x8007
  let s2 := (s1.setF (INST_STATE.held_quiesce i) 0).setInst i { s1.inst i with busy := 0 }
  let s3 := (pausedJobs s2 i).foldl thawJob s2
  instDone ((List.range 4).foldl (fun u k => flush u (4 * i + k)) s3) p 0

/-- INST_THAW (R195, R466, R475, R483). -/
def execInstThaw (q idx : Nat) (s : State) : Res := carryDma s q idx 0x8007 preThaw thawInst

end Sys2Proof.Machine
end

