-- ==== Sys2Proof/Machine/PadCmds.lean ====
section
/-! DEFINITION. The meanings of the pad, event-generator and JTAG commands (R563 to R581). -/

namespace Sys2Proof.Machine

/-! ### Pads -/

/-- A pad that its function drives takes the driven level (R565, R575). -/
def redrive (s : State) (n : Nat) : State :=
  let p := s.pad n
  if p.parking then s
  else match padDrives s n p.func with
    | none => s
    | some lv => padPush s n p lv 0

def redriveAll (s : State) : State := (List.range 64).foldl redrive s

/-- A write of PAD_CFG (R565, R566, R571): a new func starts or restarts the pad's park. -/
def padCfgWrite (s : State) (m : BusMaster) (pad v : Nat) : State :=
  let r := plainWrite s m (PAD_CFG.addr pad) v
  if r.2 then redrive (padChange r.1 pad) pad else r.1

/-- PAD_FUNCTION_CHANGE (R566): a write of PAD_CFG. -/
def execPadFunctionChange (m : BusMaster) (pad : Nat) (v : Word) (s : State) : Res :=
  .next (if pad < 64 then padCfgWrite (masterDemand s m) m pad v.toNat else s)

/-- The park interval has passed (R566); the park of isolation has no end of its own (R572). -/
def parkDue (s : State) (p : PadState) : Bool :=
  p.parking && decide (p.target ≠ 2) &&
  (if p.slowPark then decide (p.endAt ≤ s.clk.slow) else s.clk.running && decide (p.endAt ≤ s.now))

/-- PAD_PARK_END (R566, R567): `level` is the level at a pad that nothing drives. -/
def execPadParkEnd (pad : Nat) (level : Bool) (s : State) : Res :=
  .next (if pad < 64 && parkDue s (s.pad pad) then padEnd s pad level else s)

/-! ### Event outputs -/

/-- A write of PAD_EVT_CTRL (R576): the relation of period and width is judged when en goes to 1. -/
def evtCtrl (s : State) (m : BusMaster) (gen v : Nat) : State :=
  let a := PAD_EVT_CTRL.addr gen
  let was := s.flag (PAD_EVT_CTRL.en gen)
  let p := s.getF (PAD_EVT_PERIOD.p gen)
  let w := s.getF (PAD_EVT_WIDTH.wd gen)
  if bitB v 0 && !was && decide (p ≠ 0 ∧ p ≤ w) then
    let r := plainWrite s m a (putBits v 0 1 0)
    if r.2 then redrive (forbid r.1 m a 4) (18 + gen) else r.1
  else
    let r := plainWrite s m a v
    if r.2 then
      let on := r.1.flag (PAD_EVT_CTRL.en gen)
      let s1 := if on && !was then r.1.setEvt gen ⟨false, evtNext r.1 gen⟩
        else if on then r.1
        else r.1.setEvt gen { r.1.evt gen with active := false }
      redrive s1 (18 + gen)
    else r.1

/-- A write of a generator's start, period or width (R576): discarded and logged while en is 1. -/
def evtTiming (s : State) (m : BusMaster) (gen a v : Nat) : State :=
  if s.flag (PAD_EVT_CTRL.en gen) then forbid s m a 4 else (plainWrite s m a v).1

/-- EVT_ENABLE_WRITE (R576). -/
def execEvtEnableWrite (m : BusMaster) (gen : Nat) (v : Word) (s : State) : Res :=
  .next (if gen < 4 then evtCtrl (masterDemand s m) m gen v.toNat else s)

/-- The main-die TIME copy runs the generators: not in isolation, not in DOZE (R574). -/
def evtRuns (s : State) : Bool := decide (s.clk.mode = .on) && s.clk.running && mainReleased s

/-- EVT_PULSE_START (R575): the next pulse of an enabled generator has reached its start. -/
def execEvtPulseStart (gen : Nat) (s : State) : Res :=
  let x := s.evt gen
  .next (if gen < 4 && s.flag (PAD_EVT_CTRL.en gen) && !x.active && evtRuns s && decide (evtStart s gen x.nextK ≤ s.now) &&
      (decide (x.nextK = 0) || decide (s.getF (PAD_EVT_PERIOD.p gen) ≠ 0)) then
      redrive ((s.setEvt gen ⟨true, x.nextK + 1⟩).addWrap (PAD_EVT_COUNT.n gen) 1) (18 + gen)
    else s)

/-- EVT_PULSE_END (R575): the width of the pulse in progress has passed. -/
def execEvtPulseEnd (gen : Nat) (s : State) : Res :=
  let x := s.evt gen
  .next (if gen < 4 && x.active && decide (evtStart s gen (x.nextK - 1) + s.getF (PAD_EVT_WIDTH.wd gen) ≤ s.now) then
      redrive (s.setEvt gen { x with active := false }) (18 + gen)
    else s)

/-! ### Boundary scan -/

/-- An instruction that leaves the pads to their functions (R579, R581). -/
def tapSelect (s : State) (code : Nat) : State :=
  padsChange { s with tap := { s.tap with ir := code, holds := false } }

/-- EXTEST, CLAMP or HIGHZ (R581): without extest_en each acts as BYPASS and its selection is logged. -/
def tapScan (s : State) (code : Nat) : State :=
  if s.flag PAD_JTAG.extest_en then padsChange { s with tap := { s.tap with ir := code, holds := true } }
  else tapSelect (forbid s .jtag PAD_JTAG.addr 4) 0x3F

/-- The cells of the boundary register (R580): the main segment is linked in while VDD_SOC is in range. -/
def scanCells (s : State) : Nat := if railGood s 2 then 299 else 155

/-- The boundary register after a capture and a shift of `preload`. The order of the cells lies in the BSDL file, so which
cell takes which pad's level is open: the captured bits are a free value. -/
def scanShift (s : State) (preload : List Bool) : State :=
  let f := s.fresh
  let n := scanCells s
  let cap := (List.range n).map fun i => bitB f.1 i
  let all := cap ++ preload
  { f.2 with tap := { f.2.tap with boundary := all.drop (all.length - n) } }

/-- EXTEST (R579, R581). -/
def execTapExtest (s : State) : Res := .next (tapScan s 0)

/-- SAMPLE/PRELOAD (R579, R580). -/
def execTapSamplePreload (preload : List Bool) (s : State) : Res := .next (tapSelect (scanShift s preload) 1)

/-- The identification register (R579). -/
def idcode : Nat := 0x1C32A0F3

/-- IDCODE (R579): the identification register is put out. -/
def execTapIdcode (s : State) : Res :=
  let s1 := tapSelect s 2
  .next { s1 with bus := { s1.bus with data := idcode } }

/-- CLAMP (R579, R581). -/
def execTapClamp (s : State) : Res := .next (tapScan s 4)

/-- HIGHZ (R579, R581). -/
def execTapHighz (s : State) : Res := .next (tapScan s 5)

/-- BYPASS, and every code that no other instruction has (R579). -/
def execTapBypass (code : Nat) (s : State) : Res :=
  .next (if code < 64 ∧ code ∉ [0, 1, 2, 4, 5] then tapSelect s code else s)

/-- TAP_RESET (R579): IDCODE is selected, nothing else changes. -/
def execTapReset (s : State) : Res := .next (tapSelect s 2)

end Sys2Proof.Machine
end

