-- ==== Sys2Proof/Machine/StartCmds.lean ====
section
/-! DEFINITION. The meanings of the reset, start, rail and clock-domain commands (spec/01, spec/02, spec/03). -/

namespace Sys2Proof.Machine

/-- POWER_ON_RESET (R79, R36). -/
def execPowerOnReset (_cause : PorCause) (s : State) : Res := .next (powerOnState s)

/-- SAGE_RESET (R79). -/
def execSageReset (s : State) : Res := .next (sageReset s)

/-- Steps 1 to 3 of the ROM sequence (R82, R601) once TIME runs: clocks, the safe pins, FAULT_N's causes, CK01 to CK04. -/
def romStart (s1 : State) (st : SageStart) : State :=
  let s2 := { s1 with pins := { s1.pins with powerOn := false }, clk := { s1.clk with
    mode := .on
    nextSweep := match s1.clk.nextSweep with
      | some n => some n
      | none => if s1.getF CLK_SWEEP_PERIOD.period_s = 0 then none
                else some (s1.clk.slow + s1.getF CLK_SWEEP_PERIOD.period_s * 32768) } }
  let s3 := setSafePins (setPlls (setRailGood (setRailGood (setRailGood s2 1 true) 2 true) 3 true) 3 true) true
  let s4 := setStep (s3.setF (CLK_DOM_STATUS.target_step 2) 3) 2 3
  let s5 := ((s4.setF (CLK_DOM_STATUS.running 0) 1).setF (CLK_DOM_STATUS.running 1) 1).setF BOOT_STATUS.phase 0
  let rate := decide (s5.saf.entries.length = 4) && decide (s5.saf.entries.headD 0 - s5.saf.entries.getD 3 0 ≤ 1000000000)
    && decide (s5.now < s5.saf.entries.headD 0 + 1000000000)
  let s6 := { s5 with
    boot := { s5.boot with sage := .romTests, startDue := none, xspiError := st.xspiError, counted := false,
                            tripletRan := false }
    saf := { s5.saf with startHold := false } }
  let s7 := setCause (setCause s6 0 (s6.flag BOOT_STATUS.fault_boot)) 6 rate
  windowEnds (openRun s7 .rom [1, 2, 3, 4]) [1, 2, 3, 4] st.reports

/-- With a stop point recorded, TIME restarts on the next SLOW rising edge (R74, R80); the ROM starts with it. -/
def romWait (s : State) (st : SageStart) : State :=
  let s1 := setSafePins (setPlls s 3 true) true
  { s1 with
    clk := { s1.clk with mode := .on, restartDue := true }
    pins := { s1.pins with powerOn := false }
    boot := { s1.boot with sage := .romTests, startDue := some st } }

/-- POR_N_RELEASE (R82): from reset only. -/
def execPorNRelease (st : SageStart) (s : State) : Res :=
  .next (if s.boot.sage = .held then (if s.clk.stopValid then romWait s st else romStart (timeRestart s) st) else s)

/-- Bit of PWR_RAIL_STATUS.good of each monitored rail (R39). -/
def railBit : Rail → Nat
  | .sage => 1
  | .ring => 2
  | .io18 => 3
  | .vdd2h => 4
  | .vddq => 5
  | .soc => 6
  | .bay => 7
  | .tile => 8

/-- A trip is recorded (R39): its bit, the count, and the rail no longer good. -/
def recordTrip (s : State) (r : Rail) : State :=
  let b := railBit r
  let t := s.getF PWR_RAIL_STATUS.trip
  setRailGood ((s.setF PWR_RAIL_STATUS.trip (orN t (2 ^ (b - 1)))).addSat PWR_RAIL_STATUS.trip_count 1) b false

/-- Loss of a group B rail (R36, R94); in OFF, with PWR_ON low, its removal is planned (R33). An attempt in progress counts in its total only; a Sage reset follows. -/
def groupBLoss (s : State) (r : Rail) : State :=
  if s.clk.mode = .off then s else
  let s1 := recordTrip s r
  let s2 := if s1.boot.counted then s1 else
    (match s1.boot.sage with
     | .held => s1
     | .up => s1
     | _ => s1.addSat BOOT_ATTEMPTS.n 1)
  let s3 := if s2.boot.mainCounted || !attemptOpen s2 then s2 else
    (match s2.boot.main with
     | .backoff => s2
     | .start => s2
     | _ => s2.addSat BOOT_MAIN_ATTEMPTS.n 1)
  sageReset s3

/-- GROUP_B_RAIL_LOSS (R36). Group C rails are not its subject. -/
def execGroupBRailLoss (r : Rail) (s : State) : Res :=
  .next (match railIdx r with
    | some _ => s
    | none => groupBLoss s r)

/-- An unplanned loss of group C rail `k` (R36 to R38): recorded; with the main die in use it starts the safe state and
group C is cycled but for VDD2H and VDDQ_DRAM while each is good; a further loss in that tick joins it (R527); during an
attempt it fails the attempt. LPDDR5X contents are lost with either of its rails. -/
def groupCLoss (s : State) (r : Rail) (k : Nat) : State :=
  let s1 := railLoses (recordTrip (s.setRail k { s.rail k with watched := false }) r) k
  match s1.boot.main with
  | .idle => s1
  | .up =>
    let s2 := { s1 with boot := { s1.boot with dramLost := s1.boot.dramLost || decide (k ≤ 1) } }
    let s3 := safeStateEntry s2 0x07
    takeDown s3 (cycled s3) .cycle
  | .backoff => takeDown s1 (cycled s1) .failed
  | _ =>
    if sameTickEntry s1 then
      let s2 := { s1 with boot := { s1.boot with dramLost := s1.boot.dramLost || decide (k ≤ 1) } }
      takeDown (s2.setF SAF_STATUS.last_cause (min 0x07 (s2.getF SAF_STATUS.last_cause))) (cycled s2) .cycle
    else mainFail s1 (stepCause s1)

/-- Did the monitor of a rail watch it at a tick (R34, R35)? One commanded off in that tick or earlier, or not yet good, is not
watched. -/
def watchedAt (s : State) (k stamp : Nat) : Bool :=
  let r := s.rail k
  r.watched && (r.on || decide (stamp < r.offAt))

/-- RAIL_MONITOR_TRIP (R34, R35): `stamp` is the tick of the trip. A group C trip is judged once that tick is over, so an OFF
command of the same tick wins whatever their order in the queue. -/
def execRailMonitorTrip (r : Rail) (stamp : Nat) (s : State) : Res :=
  .next (match railIdx r with
    | none => groupBLoss s r
    | some k => if watchedAt s k stamp && (decide (stamp < s.now) || !s.clk.running) then groupCLoss s r k else s)

/-- PRE_TRIPLET_CORE_FAULT (R621). -/
def execPreTripletCoreFault (_kind : CoreFault) (s : State) : Res :=
  .next (if s.boot.tripletRan then s else preTripletFault s)

/-- BACKOFF_EXPIRY (R91): the next attempt of the waiting sequence starts. -/
def execBackoffExpiry (xspiError : Bool) (s : State) : Res :=
  .next (if s.boot.sage = .backoff then
      (if s.now < s.boot.backoffUntil then s else sageAttempt { s with boot := { s.boot with xspiError := xspiError } })
    else if s.boot.main = .backoff ∧ s.boot.mainUntil ≤ s.now then
      let s1 := endBackoff s
      { s1 with boot := { s1.boot with main := .start } }
    else s)

/-- BOOT_WATCHDOG_EXPIRY (R83, R84): after the expiry tick with no BOOT_ALIVE. -/
def execBootWatchdogExpiry (s : State) : Res :=
  .next (if s.boot.sage = .waitAlive ∧ s.boot.watchdog < s.now then sageReset (sageFail s 0x08) else s)

/-- The main-die sequence after a Sage start: its backoff goes on where its last attempt failed less long ago (R91); an
attempt that was cut brings none (R94). -/
def mainDue (s : State) : State :=
  if 0 < s.getF BOOT_MAIN_CONSEC.n ∧ s.now < s.boot.mainUntil then
    let s1 := showBackoff s (s.getF BOOT_MAIN_CONSEC.n)
    { s1 with boot := { s1.boot with main := .backoff } }
  else { s with boot := { s.boot with main := .start } }

/-- Step 8 (R82, R84, R90): the Sage attempt succeeds; SAGE runs at S0, the triplet runs, and a main-die attempt is due. -/
def bootAlive (s : State) : State :=
  let s1 := (mainDue (s.setF BOOT_CONSEC.n 0)).setF BOOT_STATUS.phase 2
  let s2 := setStep (s1.setF (CLK_DOM_STATUS.target_step 2) 0) 2 0
  updFaultBoot { s2 with
    boot := { s2.boot with sage := .up, tripletRan := true, counted := false, mainCounted := false }
    saf := { s2.saf with beatAt := s2.now, bgAt := s2.now } }

/-- A write of BOOT_ALIVE (R84): only Tsuquel may write; any other value has no effect. -/
def aliveWrite (s : State) (m : BusMaster) (v : Nat) : State :=
  let r := plainWrite s m BOOT_ALIVE.addr v
  if r.2 && decide (v = 0xA11E) && decide (r.1.boot.sage = .waitAlive) && decide (r.1.now ≤ r.1.boot.watchdog)
  then bootAlive r.1 else r.1

/-- BOOT_ALIVE_WRITE (R84). -/
def execBootAliveWrite (m : BusMaster) (v : Word) (s : State) : Res := .next (aliveWrite (masterDemand s m) m v.toNat)

/-- A write of BOOT_CTRL (R79): Tsuquel writing 1 to sage_reset. -/
def bootCtrlWrite (s : State) (m : BusMaster) (v : Nat) : State :=
  let r := plainWrite s m BOOT_CTRL.addr v
  if r.2 && bitB v 0 then sageReset r.1 else r.1

/-- SAGE_RESET_WRITE (R79). -/
def execSageResetWrite (m : BusMaster) (v : Word) (s : State) : Res := .next (bootCtrlWrite (masterDemand s m) m v.toNat)

/-- A group C rail reports good (R30): its monitor watches it, and the next rail is commanded 10,000 ticks later. -/
def railIsGood (s : State) (k : Nat) : State :=
  let s1 := setRailGood (s.setRail k { s.rail k with watched := true }) (4 + k) true
  match nextRail s1 with
  | some j => railOn s1 j (s1.now + 10000)
  | none => { s1 with boot := { s1.boot with main := .step2, stepAt := s1.now + 10000 } }

/-- GROUP_C_RAIL_GOOD (R30, R31): the rail being waited for, from its ON command until 5 ms later. -/
def execGroupCRailGood (r : Rail) (s : State) : Res :=
  .next (match railIdx r with
    | some k =>
      if s.boot.main = .rails k ∧ (s.rail k).onAt ≤ s.now ∧ s.now ≤ (s.rail k).onAt + 500000 then railIsGood s k else s
    | none => s)

/-- RAIL_GOOD_TIMEOUT (R31): 5 ms after its ON command. -/
def execRailGoodTimeout (s : State) : Res :=
  .next (match s.boot.main with
    | .rails k => if (s.rail k).onAt + 500000 < s.now then railFail s else s
    | _ => s)

/-- RAIL_OFF_DONE (R32): the falling rail reads below 0.30 V, or 100,000 ticks have passed; the next OFF goes out. Tile and Bay
SRAM that R36 lets survive the loss of VDD_TILE are lost when the cycle of R37 takes VDD_SOC and VDD_BAY down. DESIGN CHOICE
(assumption 119). -/
def execRailOffDone (below : Bool) (s : State) : Res :=
  .next (match s.pwr.down with
    | [] => s
    | k :: rest =>
      if below || decide ((s.rail k).offAt + 100000 ≤ s.now) then
        let s1 := railLoses (setRailGood s (4 + k) false) k
        let s2 := { s1 with pwr := { s1.pwr with down := rest } }
        match rest with
        | [] => downDone s2
        | j :: _ => railOff s2 j
      else s)

/-- Step 4 of R100: the main part comes from its LPDDR5X copy where the contents have been kept since it was written (R101),
else from flash, and its hash is checked (R93). -/
def loadMain (s : State) (env : MainStart) : Option (List Byte) :=
  let slot := s.getF BOOT_STATUS.slot
  let copy := if s.boot.dramKept then s.boot.mainCopy else none
  let part := match copy with
    | some m => some m
    | none => if env.loadOk then some (mainPart s slot) else none
  part.filter (bodyHashOf s slot)

/-- Steps 2 to 6 of R100, in order, up to the first that fails. The TIME copies are reloaded before any clock is released
(R70). -/
def mainSteps (s : State) (env : MainStart) : State :=
  let s0 := { s with boot := { s.boot with main := .tests, env := env, stepAt := s.now } }
  let s1 := padsChange (evtSkip (startMainDoms (setPlls (reloadCopies s0) (mainPlls + ppll) true)))
  if !env.trainOk || decide (2 < env.density) then mainFail s1 0x11
  else
    let s2 := (s1.setF MEM_DRAM_CFG.capacity env.density).setF MEM_DRAM_CFG.two_rank (b2n env.twoRank)
    match loadMain s2 env with
    | none => mainFail { s2 with boot := { s2.boot with dramKept := true, dramCap := env.density, dramRank := env.twoRank,
                                                        mainCopy := none } } 0x12
    | some m =>
      let s3 := { s2 with boot := { s2.boot with dramKept := true, dramCap := env.density, dramRank := env.twoRank,
                                                 mainCopy := some m } }
      let tests := (List.range 13).map fun k => k + 1
      windowEnds (openRun s3 .bringUp tests) tests env.reports

/-- MAIN_DIE_BRING_UP (R100): step 1 of an attempt that is due, or steps 2 to 6 from 10,000 ticks after the last rail's good
report (R30). -/
def execMainDieBringUp (env : MainStart) (s : State) : Res :=
  .next (match s.boot.main with
    | .start => if s.pwr.down.isEmpty && s.clk.running then mainBegin s env else s
    | .step2 => if s.boot.stepAt ≤ s.now then mainSteps s env else s
    | _ => s)

/-- The limit of the step an attempt is in, in ticks (R100). -/
def stepLimit : MainStage → Nat
  | .step2 => 100000
  | .tests => 1480000
  | .ready => 100000
  | _ => 0

/-- MAIN_STEP_TIMEOUT (R100). -/
def execMainStepTimeout (s : State) : Res :=
  .next (match s.boot.main with
    | .step2 => if s.boot.stepAt + 100000 < s.now then mainFail s 0x14 else s
    | .tests => if s.boot.stepAt + 1480000 < s.now then mainFail s 0x13 else s
    | .ready => if s.boot.stepAt + 100000 < s.now then mainFail s 0x14 else s
    | _ => s)

/-- SAGE_LINK_FLIT_ERROR (R16): the flit is replayed up to 3 times; a flit whose third replay fails is a main-die fault. -/
def execSageLinkFlitError (failedReplays : Nat) (s : State) : Res :=
  .next (if 3 ≤ failedReplays then safeCause s 0x05 else s)

/-- The comparison of a TIME copy with the master (R69): a copy 2 ticks or more away is a main-die fault. -/
def judgeCopy (s : State) (d : Nat) : State :=
  let dev := tabGet (fun _ => (0 : Int)) s.clk.copies d
  if 2 ≤ dev.natAbs then safeCause (s.setF TIME_STATUS.dist_error 1) 0x06 else s

/-- TIME_COPY_MISMATCH (R69): the TIME copy of a main-die domain has come to stand `ahead` ticks before the master. -/
def execTimeCopyMismatch (d : Nat) (ahead : Int) (s : State) : Res :=
  .next (if d ∈ [3, 4, 5, 6, 7, 8, 9, 10, 11, 12] ∧ mainReleased s = true then
      judgeCopy { s with clk := { s.clk with copies := tabPut (fun _ => (0 : Int)) s.clk.copies d ahead } } d
    else s)

/-- The `time` CSR of a host core (R71): the TIME copy of the HOST domain. -/
def hostTime (s : State) : Nat := s.nowAt 3

/-- LATCHING_LO_READ (R72, R607), and a host core's read of its `time` CSR (R71). -/
def execLatchingLoRead (m : BusMaster) (at_ : LoRead) (s : State) : Res :=
  .next (match at_ with
    | .reg addr => regRead (busDemand s m addr) m addr
    | .timeCsr => match m with
      | .hostCore _ _ =>
        if mainReleased s && !gated s 3 then { s with bus := { s.bus with data := hostTime s, fault := false } } else s
      | _ => s)

/-- A write of TIME_RATE_ADJ (R76, R78): only Tsuquel writes it. -/
def rateWrite (s : State) (m : BusMaster) (v : Nat) : State :=
  if isFirmware m then rateAdjust s (sext 32 v) else forbid s m TIME_RATE_ADJ.addr 4

/-- TIME_RATE_ADJ_WRITE (R76, R78). -/
def execTimeRateAdjWrite (m : BusMaster) (v : Word) (s : State) : Res := .next (rateWrite (masterDemand s m) m v.toNat)

/-- REFREQ_ASSERT (R43): 64 SLOW ticks before a sweep-timer expiry in PARK. -/
def execRefreqAssert (s : State) : Res :=
  .next (match s.clk.nextSweep with
    | some n => if s.clk.mode = .park ∧ n ≤ s.clk.slow + 64 then setRefreq s true else s
    | none => s)

/-- WAKE_N_LATCH (R599): the second of two low samples after a high one. -/
def execWakeNLatch (pin : Nat) (s : State) : Res :=
  .next (if pin < 4 ∧ s.clk.wakeHist.getD pin 7 % 8 = 4 then wakeEvent s pin else s)

/-- TIME has reached the compare value that a DOZE entry moved to the Sage die for a core (R60). -/
def compareDue (s : State) (core : Nat) : Bool := s.clk.compares.any fun e => decide (e.1 = core ∧ e.2 ≤ s.now)

/-- HOST_TIMER_COMPARE (R60): in DOZE, once TIME has reached the core's compare value, the T32 wakes; the timer interrupt is
raised when the wake is complete (JOBS_ACCEPTED). -/
def execHostTimerCompare (core : Nat) (s : State) : Res :=
  .next (if (s.clk.mode = .doze ∨ s.clk.mode = .dozeEntry) ∧ compareDue s core = true then wakeEvent s 7 else s)

/-- A unit of the domain is at work, or a display output or sensor stream holds it (R57). -/
def domBusy (s : State) (d : Nat) : Bool :=
  match d with
  | 4 => (List.range 32).any fun t => s.flag (TILE_STATE.busy t)
  | 5 => (List.range 2).any fun p => s.flag (ATT_STATE.busy p)
  | 6 => (List.range 2).any fun e => s.flag (SRCH_STATE.busy e)
  | 7 => s.flag GFX_STATE.busy
  | 8 => (List.range 4).any fun o => s.flag (DISP_OUT_STATE.enabled o)
  | 9 => (List.range 16).any fun t => s.flag (SENS_STREAM_STATE.enabled t)
  | _ => false

/-- DOMAIN_IDLE_EXPIRY (R56, R57): a running on-demand domain with no demand for idle_hold ticks and nothing at work. It acts
once the tick of the expiry is over, so a demand of that tick wins whatever their order in the queue. -/
def execDomainIdleExpiry (d : Nat) (s : State) : Res :=
  let hold := s.getF (CLK_DOM_CTRL.idle_hold d)
  .next (if s.clk.mode = .on ∧ d ∈ [3, 4, 5, 6, 7, 8, 9, 12, 13] ∧ hold ≠ 0 ∧ (s.dom d).lastDemand + hold < s.now ∧
      domBusy s d = false ∧ gated s d = false then gateDom s d
    else s)

/-- DOMAIN_DEMAND (R55): SLOW, TIME, SAGE and DRAM do not start on demand. -/
def execDomainDemand (d : Nat) (s : State) : Res :=
  .next (if d ∈ [3, 4, 5, 6, 7, 8, 9, 11, 12, 13] then demand s d else s)

/-- DOZE entry begins (R65): every main-die domain is gated, DRAM and FAB included, and the host cores' timer compares move to
the Sage die (R60). -/
def dozeBegin (s : State) (compares : List (Option Nat)) : State :=
  let s1 := stopMainDoms s
  { s1 with clk := { s1.clk with
      mode := .dozeEntry
      compares := (List.range 12).filterMap fun c => (compares.getD c none).map fun v => (c, v) } }

/-- The rest of DOZE entry from its commit point (R65, R66): LPDDR5X is in self-refresh, the main PLLs stop (PPLL only
without a PCIe wake), and VDD_TILE starts down to 0.55 V. -/
def dozeEntry (s : State) : State :=
  let s1 := setPlls s mainPlls false
  let s2 := if bitB (s1.getF CLK_WAKE_EN.en) 5 && !s1.pcieUp.isEmpty then
      s1.pcieUp.foldl (fun t k => t.setF (PCIE_STATE.l1 k) 1) s1
    else setPlls s1 ppll false
  let s3 := (s2.setF CLK_STATE.state 2).setF CMDP_STATUS.accepting 0
  avsToward (evtQuiet { s3 with clk := { s3.clk with mode := .doze, dozeExit := false, wakePending := false } }) 550

/-- DOZE_HOLD_EXPIRY (R58): every domain of the condition has been gated for doze_hold ticks, and the entry begins; given again
before anything cancels it, the entry passes its commit point (assumption 88). -/
def execDozeHoldExpiry (compares : List (Option Nat)) (s : State) : Res :=
  .next (if s.clk.mode = .dozeEntry then dozeEntry s
    else if s.clk.mode = .on ∧ accepting s ∧ s.flag CLK_DOZE_HOLD.doze_en ∧ dozeDoms.all (gated s) ∧
      s.clk.gatedSince + s.getF CLK_DOZE_HOLD.doze_hold ≤ s.now then dozeBegin s compares else s)

/-- TILE_STEP_CHANGE (R49). -/
def execTileStepChange (s : State) : Res := .next (if s.clk.mode = .doze then s else tileAdvance s)

/-- AVS_SETTLE_EXPIRY (R23): the next change of 50 mV or less, or the frequency switch; the end of a DOZE entry, from which a
wake event latched since its commit point starts the exit (R66). -/
def execAvsSettleExpiry (s : State) : Res :=
  .next (match s.pwr.avsDue with
    | none => s
    | some t =>
      if s.now < t then s
      else
        let s1 := { s with pwr := { s.pwr with avsDue := none } }
        match s1.clk.mode with
        | .doze =>
          if s1.clk.dozeExit then avsToward s1 (tileVolt (s1.dom 4).held)
          else if dozeEnded s1 then (if s1.clk.wakePending then dozeExit s1 else s1)
          else avsToward s1 550
        | _ => tileAdvance s1)

/-- DRAM_STEP_CHANGE (R50): only while DISP and SENS are gated. -/
def execDramStepChange (s : State) : Res :=
  .next (if s.clk.mode = .on ∧ gated s 8 ∧ gated s 9 ∧ gated s 10 = false then
      setStep s 10 (s.getF (CLK_DOM_STATUS.target_step 10)) else s)

/-- SLOW_RISING_EDGE (R73, R74, R599): the SLOW count advances, TIME stops or restarts if due, the pair is recorded while
TIME runs, and the pins are sampled; boundary scan freezes those it holds (R581). `wakeN` holds the levels of WAKE_N[3:0], `gpio` those of the GPIO pads. -/
def execSlowRisingEdge (wakeN gpio : Nat) (s : State) : Res :=
  let s1 := { s with clk := { s.clk with
    slow := (s.clk.slow + 1) % 2 ^ 48
    wakeHist := if scanHolds s then s.clk.wakeHist
      else (List.range 4).map fun n => (2 * s.clk.wakeHist.getD n 7 + b2n (bitB wakeN n)) % 8 } }
  let s2 := if s1.clk.restartDue then
      (match s1.boot.startDue with
       | some st => romStart (timeRestart s1) st
       | none => if s1.flag CLK_STATE.in_sweep then timeRestart s1 else sageWake (timeRestart s1))
    else s1
  let s3 := if s2.clk.running then recordPair s2 else s2
  let s4 :=
    if s3.clk.stopDue && s3.clk.running then
      let u := sageSleep s3
      if u.clk.wakePending && decide (u.clk.mode = .park) && u.pwr.down.isEmpty then parkExit u else u
    else s3
  .next (padSample s4 gpio)

/-- The command processor runs: the ROM's code or Tsuquel's. -/
def cpRuns (s : State) : Bool :=
  tsuquelRuns s || (!s.boot.tripletRan && decide (s.boot.sage ≠ .held) && decide (s.clk.mode ≠ .off))

/-- LOCKSTEP_MISMATCH (R512); before the triplet runs, in the ROM too, it takes the path of R621. -/
def execLockstepMismatch (s : State) : Res := .next (if cpRuns s then lockstepMismatch s else s)

/-- HEARTBEAT_MISS (R514): no change of SAF_HEARTBEAT for 1,000,000 ticks of a watch. -/
def execHeartbeatMiss (s : State) : Res :=
  .next (if s.boot.tripletRan && tsuquelRuns s && decide (s.saf.beatAt + 1000000 ≤ s.now) then
      cpRestart (safeCause (sweepFault (setCause s 2 true)) 0x03) else s)

/-- HEARTBEAT_INCREMENT (R514): Tsuquel runs, so a restart of the command processor is over. -/
def execHeartbeatIncrement (s : State) : Res :=
  .next (if tsuquelRuns s then
      (let s1 := s.addWrap SAF_HEARTBEAT.n 1
       { s1 with saf := { s1.saf with beatAt := s1.now, cpAt := none } }) else s)

/-- TRIPLET_DISAGREEMENT (R515). -/
def execTripletDisagreement (odd : Option Nat) (s : State) : Res := .next (tripletDisagree s odd false)

/-- TRIPLET_RESYNC_DONE (R516). -/
def execTripletResyncDone (s : State) : Res :=
  .next (if s.saf.resync.isSome then
      ({ s with saf := { s.saf with resync := none } }).setF SAF_STATUS.tri_resync 0 else s)

/-- BACKGROUND_TEST (R522): in ON, 100,000,000 ticks after the last. -/
def execBackgroundTest (reports : List InjReport) (s : State) : Res :=
  .next (if s.boot.main = .up ∧ s.clk.mode = .on ∧ s.boot.run = .none ∧ s.saf.bgAt + 100000000 ≤ s.now then
      windowEnds (openRun { s with saf := { s.saf with bgAt := s.now } } .background [1, 2, 3, 4]) [1, 2, 3, 4] reports
    else s)

/-- REFCLK must run in DOZE and ON, and in PARK while the request is asserted (R42). -/
def refclkNeeded (s : State) : Bool :=
  match s.clk.mode with
  | .off => false
  | .park => s.pins.refreq
  | _ => true

/-- REFCLK_BAD (R528). -/
def execRefclkBad (s : State) : Res :=
  .next (if refclkNeeded s then
      (let s1 := setCause (s.setF SAF_CLKMON.refclk_bad 1) 5 true
       safeCause { s1 with saf := { s1.saf with refBadAt := s1.now } } 0x0A) else s)

/-- REFCLK_RECOVERED (R528): no sooner than 1,000,000 ticks after the flag. -/
def execRefclkRecovered (s : State) : Res :=
  .next (if s.flag SAF_CLKMON.refclk_bad ∧ s.saf.refBadAt + 1000000 ≤ s.now then
      setCause (s.setF SAF_CLKMON.refclk_bad 0) 5 false else s)

/-- PLL_UNLOCK (R528): PLL numbers are the bits of CLK_PLL_STATUS; MPLL0 to 3, DPLL and XPLL0 to 3 are the main-die PLLs. -/
def execPllUnlock (pll : Nat) (s : State) : Res :=
  let s1 := setPlls s (2 ^ pll) false
  .next (if bitB (s.getF CLK_PLL_STATUS.lock) pll && decide (pll < 13) then
      (if bitB mainPlls pll then safeCause (s1.setF SAF_CLKMON.pll_unlock 1) 0x0A else s1) else s)

/-- MAIN_DIE_NO_RESPONSE (R524). -/
def execMainDieNoResponse (s : State) : Res := .next (safeCause s 0x0B)

/-- DUPLICATE_CHECK_DISAGREE (R524). -/
def execDuplicateCheckDisagree (s : State) : Res := .next (safeCause s 0x0C)

/-- SAGE_SRAM_UE (R524, R621). -/
def execSageSramUe (s : State) : Res :=
  .next (if !s.boot.tripletRan then preTripletFault s
    else if tsuquelRuns s then cpRestart (safeCause (setCause s 2 true) 0x0D) else s)

/-- FAULT_N_HOLD_EXPIRY (R529): the rate cause after 1,000,000,000 ticks without a safe state, and the pin's hold. -/
def execFaultNHoldExpiry (s : State) : Res :=
  let s1 := if bitB (faultCauses s) 6 && decide (s.saf.entries.headD 0 + 1000000000 ≤ s.now) then setCause s 6 false else s
  .next (faultPin s1)

end Sys2Proof.Machine
end

