-- ==== Sys2Proof/Machine/BusCmds.lean ====
section
/-! DEFINITION. Register writes with effects of their own, and the bus commands: the manager and mailbox registers (R463,
R468, R469), LOCK bits (R611, R612), REGISTER_WRITE (R609), forbidden reads (R138) and the tile statistics (R359). -/

namespace Sys2Proof.Machine

/-! ### The manager and the mailboxes -/

/-- The manager right moves (R463). -/
def moveManager (s : State) (old new : Nat) : State :=
  let s1 := (s.wr (INST_RIGHTS.addr new) 0).wr (INST_RIGHTS.addr old) 0
  let was := instState s1 old
  let now_ := if s1.getF (XLT_CFG.format old) = 0 then 0 else was
  let s2 := notice (s1.setF (INST_STATE.state old) now_) old was now_ 0 false
  notice s2 new (instState s2 new) (instState s2 new) 0 false

/-- A write of INST_CTRL (R463, R611). -/
def instCtrlWrite (s : State) (m : BusMaster) (v : Nat) : State :=
  let old := s.manager
  let new := bits v 0 4
  let locked := isLocked s INST_CTRL.addr || bitB v 31
  if new = old ∨ locked then (plainWrite s m INST_CTRL.addr v).1
  else guarded s m INST_CTRL.addr v fun t =>
    if anyQueue t old || anyQueue t new then forbid t m INST_CTRL.addr 4
    else moveManager (plainWrite t m INST_CTRL.addr v).1 old new

/-- MANAGER_WRITE (R463). -/
def execManagerWrite (m : BusMaster) (v : Word) (s : State) : Res := .next (instCtrlWrite (masterDemand s m) m v.toNat)

/-- A write of half of a mailbox address (R468), judged by the whole address it would leave; bits 11:0 of INST_MBOX_LO are
reserved and a write ignores them (R11). Notices are counted from the registration (R470). -/
def mboxWrite (s : State) (m : BusMaster) (i : Nat) (hi : Bool) (v : Nat) : State :=
  let a := if hi then INST_MBOX_HI.addr i else INST_MBOX_LO.addr i
  guarded s m a v fun t =>
    let pa := if hi then t.getF (INST_MBOX_LO.lo i) * 4096 + bits v 0 8 * 2 ^ 32
      else bits v 12 20 * 4096 + t.getF (INST_MBOX_HI.hi i) * 2 ^ 32
    if pa = 0 ∨ mboxOk t pa = true then
      let t1 := (plainWrite t m a v).1
      t1.setInst i { t1.inst i with notices := 0 }
    else forbid t m a 4

/-- MBOX_ADDRESS_WRITE (R468). -/
def execMboxAddressWrite (m : BusMaster) (inst : Nat) (hi : Bool) (v : Word) (s : State) : Res :=
  .next (if inst < 16 then mboxWrite (masterDemand s m) m inst hi v.toNat else s)

/-- A write of INST_MBOX_DB (R469): the bits the writer may write set their pending bits and raise their sources. -/
def mboxRing (s : State) (m : BusMaster) (i v : Nat) : State :=
  match findReg (INST_MBOX_DB.addr i) with
  | none => s
  | some (r, k) =>
    let ok := andN v (writeMask s m r k v)
    let s1 := (plainWrite s m (INST_MBOX_DB.addr i) v).1
    let s2 := if bitB ok 0 then raiseHost (s1.setF (INST_MBOX_PEND.pend_mgr i) 1) (112 + i) else s1
    if bitB ok 1 then raiseHost (s2.setF (INST_MBOX_PEND.pend_ten i) 1) (128 + i) else s2

/-- RING_MGR (R469). -/
def execRingMgr (m : BusMaster) (inst : Nat) (s : State) : Res :=
  .next (if inst < 16 then mboxRing (masterDemand s m) m inst 1 else s)

/-- RING_TEN (R469). -/
def execRingTen (m : BusMaster) (inst : Nat) (s : State) : Res :=
  .next (if inst < 16 then mboxRing (masterDemand s m) m inst 2 else s)

/-! ### Registers with effects of their own -/

/-- A write of TILE_QS_CLEAR (R359). -/
def qsClearWrite (s : State) (m : BusMaster) (v : Nat) : State :=
  let r := plainWrite s m TILE_QS_CLEAR.addr v
  if r.2 then qsClear r.1 (bits v 16 3) (bits v 0 16) else r.1

/-- A write of PAD_OUT_SET or PAD_OUT_CLR acts on PAD_OUT (R565): the bits the writer may write. -/
def padSetClr (s : State) (m : BusMaster) (k a v : Nat) (set : Bool) : State :=
  match findReg a with
  | none => s
  | some (r, i) =>
    let ok := andN v (writeMask s m r i v)
    let s1 := (plainWrite s m a v).1
    let s2 := s1.wr a 0
    let cur := (s2.rd (PAD_OUT.addr k)).toNat
    redriveAll (s2.wr (PAD_OUT.addr k) (BitVec.ofNat 32 (if set then orN cur ok else clrN cur ok)))

/-- A valid write that takes effect at the next window boundary (R304, R410): the register holds the new word, the old one
stays in effect under a key of `urgOld`. -/
def laterWrite (s : State) (m : BusMaster) (key a v : Nat) : State :=
  let r := plainWrite s m a v
  if r.2 then
    let t := r.1
    let new := (t.rd a).toNat
    { t with pace := { t.pace with
        urgOld := if tabGet (fun _ => 0) t.pace.urgOld key = 0 then tabPut (fun _ => 0) t.pace.urgOld key (s.rd a).toNat
          else t.pace.urgOld
        ctxRec := if 8 ≤ key then tabPut (fun _ => 64) t.pace.ctxRec (key - 8) new else t.pace.ctxRec } }
  else r.1

/-- CLK_DOM_CTRL (spec/02): no effect for SLOW and TIME; fixed_step names a step of the domain that is not gated and not
sprint (R52, R12). -/
def domCtrlWrite (s : State) (m : BusMaster) (d v : Nat) : State :=
  if d < 2 then s
  else if bits v 0 4 = 8 ∨ bits v 0 4 = 7 ∨ bits v 0 4 ∉ domSteps d then
    guarded s m (CLK_DOM_CTRL.addr d) v fun t => forbid t m (CLK_DOM_CTRL.addr d) 4
  else
    let r := plainWrite s m (CLK_DOM_CTRL.addr d) v
    if r.2 then refreshDom r.1 d else r.1

/-- CLK_SWEEP_PERIOD (R62): a valid period takes effect at the next expiry. -/
def sweepPeriodWrite (s : State) (m : BusMaster) (a v : Nat) : State :=
  let r := plainWrite s m a v
  if r.2 then setSweepPeriod s (r.1.getF CLK_SWEEP_PERIOD.period_s) else r.1

/-- CMDP_QBASE and CMDP_QSTAT (R116, R117): ignored while the queue is enabled, and logged where the write differs. -/
def qsetWrite (s : State) (m : BusMaster) (q a v : Nat) : State :=
  if s.flag (CMDP_QCFG.enable q) then (if (s.rd a).toNat = v then s else forbid s m a 4) else (plainWrite s m a v).1

/-- RING_CTRL, written by Tsuquel: a port's enable bit starts or stops it as RING_CONFIG's does (R177). -/
def ringCtrlWrite (s : State) (m : BusMaster) (v : Nat) : State :=
  guarded s m RING_CTRL.addr v fun t =>
    let a := t.flag RING_CTRL.port_a_en
    let b := t.flag RING_CTRL.port_b_en
    let t1 := (plainWrite t m RING_CTRL.addr v).1
    let na := t1.flag RING_CTRL.port_a_en
    let nb := t1.flag RING_CTRL.port_b_en
    let t2 := (t1.setF RING_CTRL.port_a_en (b2n a)).setF RING_CTRL.port_b_en (b2n b)
    portEnable (portEnable t2 0 na) 1 nb

/-- XLT_ROOT and XLT_CFG, written by Tsuquel: its Sage record follows (R620). -/
def xltWrite (s : State) (m : BusMaster) (i a v : Nat) : State :=
  let t := (plainWrite s m a v).1
  t.setInst i { t.inst i with
    fmt := t.getF (XLT_CFG.format i)
    root := t.getF (XLT_ROOT_LO.lo i) * 4096 + t.getF (XLT_ROOT_HI.hi i) * 2 ^ 32 }

/-- A plain write followed by an action where it took effect. -/
def thenDo (f : State → Nat → State) (s : State) (m : BusMaster) (i a v : Nat) : State :=
  let r := plainWrite s m a v
  if r.2 then f r.1 i else r.1

/-- A write of CLK_WAKE_STATUS: an event latched in this very tick stays set (R599, R13). -/
def wakeStatusWrite (s : State) (m : BusMaster) (a v : Nat) : State :=
  let fresh := (s.clk.wakeAt.filter fun e => decide (e.2 = s.now + 1)).map Prod.fst
  let t := (plainWrite s m a v).1
  t.wr a (BitVec.ofNat 32 (orN (t.rd a).toNat (andN (s.rd a).toNat (bitsMask fresh))))

/-- The registers whose writes do more than R10 says, by name: the state, the master, the register's index, the address
and the value. -/
def busTable : List (String × (State → BusMaster → Nat → Nat → Nat → State)) :=
  [("BOOT_ALIVE", fun s m _ _ v => aliveWrite s m v),
   ("BOOT_CTRL", fun s m _ _ v => bootCtrlWrite s m v),
   ("CLK_SWEEP_PERIOD", fun s m _ a v => sweepPeriodWrite s m a v),
   ("CLK_WAKE_STATUS", fun s m _ a v => wakeStatusWrite s m a v),
   ("CLK_LIMIT", thenDo fun s _ => updCap s),
   ("CLK_DOM_CTRL", fun s m i _ v => domCtrlWrite s m i v),
   ("TIME_RATE_ADJ", fun s m _ _ v => rateWrite s m v),
   ("CMDP_VLOG_RD", fun s m _ a v => guarded s m a v fun t => vlogRd t m v),
   ("CMDP_QBASE_LO", fun s m i a v => guarded s m a v fun t => qsetWrite t m i a v),
   ("CMDP_QBASE_HI", fun s m i a v => guarded s m a v fun t => qsetWrite t m i a v),
   ("CMDP_QSTAT_LO", fun s m i a v => guarded s m a v fun t => qsetWrite t m i a v),
   ("CMDP_QSTAT_HI", fun s m i a v => guarded s m a v fun t => qsetWrite t m i a v),
   ("CMDP_QCFG", fun s m i a v => guarded s m a v fun t => qcfgWrite t m i v),
   ("CMDP_DB", fun s m i a v => guarded s m a v fun t => doorbell t m i v)] ++
  [("RING_CTRL", fun s m _ _ v => ringCtrlWrite s m v),
   ("RING_PBUF_RD", fun s m _ a v => guarded s m a v fun t => pbufRd t m v),
   ("PAD_OUT", thenDo fun s _ => redriveAll s),
   ("PAD_OE", thenDo fun s _ => redriveAll s),
   ("PAD_OUT_SET", fun s m i a v => padSetClr s m i a v true),
   ("PAD_OUT_CLR", fun s m i a v => padSetClr s m i a v false),
   ("PAD_JTAG", thenDo fun s _ => padsChange s),
   ("PAD_CFG", fun s m i _ v => padCfgWrite s m i v),
   ("PAD_EVT_START_LO", fun s m i a v => evtTiming s m i a v),
   ("PAD_EVT_START_HI", fun s m i a v => evtTiming s m i a v),
   ("PAD_EVT_PERIOD", fun s m i a v => evtTiming s m i a v),
   ("PAD_EVT_WIDTH", fun s m i a v => evtTiming s m i a v),
   ("PAD_EVT_CTRL", fun s m i _ v => evtCtrl s m i v)] ++
  [("INST_CTRL", fun s m _ _ v => instCtrlWrite s m v),
   ("INST_MBOX_LO", fun s m i _ v => mboxWrite s m i false v),
   ("INST_MBOX_HI", fun s m i _ v => mboxWrite s m i true v),
   ("INST_MBOX_DB", fun s m i _ v => mboxRing s m i v),
   ("XLT_ROOT_LO", fun s m i a v => xltWrite s m i a v),
   ("XLT_ROOT_HI", fun s m i a v => xltWrite s m i a v),
   ("XLT_CFG", fun s m i a v => xltWrite s m i a v),
   ("PACE_URG_CFG", fun s m i a v => laterWrite s m i a v),
   ("SRCH_CTX_MAX", fun s m i a v => laterWrite s m (8 + i) a v),
   ("TILE_QS_CLEAR", fun s m _ _ v => qsClearWrite s m v),
   ("NET_RING_CFG", fun s m i a v => netRingWrite (plainWrite s m a v).1 i (s.rd a).toNat),
   ("PCIE_CFG", thenDo fun s _ => redriveAll s)]

/-- What a write of register `name` does. -/
def regEffect (name : String) : State → BusMaster → Nat → Nat → Nat → State :=
  match busTable.find? fun e => decide (e.1 = name) with
  | some e => e.2
  | none => fun s m _ a v => (plainWrite s m a v).1

/-- A register write by a master (R138, R605, R608, R609): a misaligned one is forbidden, an empty offset ignores it. The
caller has checked that the address lies in a block's slot. -/
def busWrite (s : State) (m : BusMaster) (a v : Nat) : State :=
  if a % 4 ≠ 0 then forbid s m a 4
  else if !blockUp s a then s
  else match findReg a with
    | none => s
    | some (r, i) => regEffect r.name s m i a v

/-- The address lies in a register block's slot (R602). -/
def inSlot (a : Nat) : Bool := (slotRows a).isSome

/-- REGISTER_WRITE (R609): a write of a main-die register during isolation is discarded with an error response (R17), and so
is a write by firmware outside every slot (R248). -/
def execRegisterWrite (m : BusMaster) (addr : Nat) (v : Word) (s : State) : Res :=
  .next (if inSlot addr then answered (busWrite (busDemand s m addr) m addr v.toNat) (decide (addr % 4 = 0) && !blockUp s addr)
    else if isFirmware m then answered s true else s)

/-- LOCK_SET (R611, R612): a write of the present word of a LOCK register with its lock bit 1. -/
def execLockSet (m : BusMaster) (addr : Nat) (s : State) : Res :=
  .next (match blockLock addr with
    | some f =>
      if f.addr ≠ addr then s
      else if blockUp s addr then
        answered (plainWrite (busDemand s m addr) m addr (orN (s.rd addr).toNat (2 ^ f.lo))).1 false
      else answered s true
    | none => s)

/-- QS_CLEAR (R359): a write of TILE_QS_CLEAR; in isolation it is discarded with an error response (R17). -/
def execQsClear (m : BusMaster) (v : Word) (s : State) : Res :=
  .next (if mainReleased s then answered (qsClearWrite (busDemand s m TILE_QS_CLEAR.addr) m v.toNat) false else answered s true)

/-- QS_COUNT_READ (R359, R607): the read of TILE_QS_COUNT latches the other values of the slot for that master; in isolation
it gives all ones with an error response (R17). -/
def execQsCountRead (m : BusMaster) (lane slot : Nat) (s : State) : Res :=
  .next (if lane < 8 ∧ slot < 16 then
      regRead (busDemand s m (TILE_QS_COUNT.addr (16 * lane + slot))) m (TILE_QS_COUNT.addr (16 * lane + slot))
    else s)

/-- The read is forbidden (R249, R605): misaligned in a register range, or of Sage working SRAM by another master than the
command processor. -/
def readForbidden (m : BusMaster) (a : Nat) : Bool :=
  (inSlot a && decide (a % 4 ≠ 0)) || (decide (0x8000000 ≤ a ∧ a < 0x8100000) && decide (m ≠ .tsuquel))

/-- What a forbidden read gives: zero, and no error response. -/
def readZero (s : State) : State := { s with bus := { s.bus with data := 0, fault := false } }

/-- FORBIDDEN_REGISTER_READ (R138). -/
def execForbiddenRegisterRead (m : BusMaster) (addr : Nat) (s : State) : Res :=
  .next (if readForbidden m addr then readZero (forbid (masterDemand s m) m addr 4) else s)

end Sys2Proof.Machine
end

