-- ==== Sys2Proof/Machine/DmaCmds.lean ====
section
/-! DEFINITION. Host-core accesses (R248, R249, R263), PCIe inbound (R458 to R460), reads of poisoned lines (R277) and the
patrol scrubber (R252). -/

namespace Sys2Proof.Machine

/-! ### Host cores -/

/-- A host core's access to memory: class 7, not translated (R279). -/
def hostWho (core inst : Nat) : Who := ⟨core, inst, none, 7, 9, noCtx⟩

/-- What the core gets: data, or an access-fault exception. -/
def hostGets (s : State) (data : Nat) (fault : Bool) : State := { s with bus := { s.bus with data := data, fault := fault } }

/-- An access-fault exception with the records of R272 (R248). -/
def hostFault (s : State) (w : Who) (pa : Nat) (wr : Bool) : State := hostGets (xltRecord s w pa 4 0 wr) 0 true

/-- Where the pieces of an access land (R263): the first piece with no permitted target ends it. -/
def hostLands (s : State) (inst : Nat) (wr : Bool) : List (Nat × Nat × Nat) → Except Nat (List (Land × Nat))
  | [] => .ok []
  | g :: gs =>
    let pa := 64 * g.1 + g.2.1
    match instReach s inst pa wr with
    | none => .error pa
    | some b =>
      let l : Land := if !b then .forbidden pa else
        match region s pa with
        | .pcie p => .pcie p pa
        | _ => .mem pa 0 false
      match hostLands s inst wr gs with
      | .ok ls => .ok ((l, g.2.2) :: ls)
      | .error e => .error e

/-- A host core's access to memory. -/
def hostMem (s : State) (w : Who) (addr len : Nat) (store : Option (List Byte)) : State :=
  match hostLands s w.inst store.isSome (lineSegs addr len) with
  | .error pa => hostFault s w pa store.isSome
  | .ok ls =>
    match store with
    | some bs => hostGets (writeLands w ls bs s) 0 false
    | none => match readLands w ls s with
      | (t, .ok bs) => hostGets t (leNat bs) false
      | (t, .error _) => hostGets t 0 true

/-- A host core's access to a register range (R605, R607). -/
def hostReg (s : State) (m : BusMaster) (addr len : Nat) (store : Option (List Byte)) : State :=
  if len ≠ 4 ∨ addr % 4 ≠ 0 then hostGets (forbid s m addr 4) 0 false
  else match store with
    | some bs => hostGets (busWrite (busDemand s m addr) m addr (leNat bs)) 0 false
    | none => regRead (busDemand s m addr) m addr

/-- Bytes of a host-core access: those of a store, or the length of a load. -/
def accessLen (len : Nat) : Option (List Byte) → Nat
  | some bs => bs.length
  | none => len

/-- What a host core's load or store does. -/
def hostAccess (core : Nat) (machine : Bool) (addr len : Nat) (store : Option (List Byte)) (s : State) : State :=
  let m := BusMaster.hostCore core machine
  let w := hostWho core ((masterInst s m).getD 0)
  let n := accessLen len store
  match region s addr with
  | .sageRegs => if inSlot addr then hostReg s m addr n store else hostFault s w addr store.isSome
  | .mainRegs => if inSlot addr then hostReg s m addr n store else hostFault s w addr store.isSome
  | _ => hostMem s w addr n store

/-- HOST_CORE_LOAD_STORE (R248, R249, R263, R277): `store` holds the bytes of a store. -/
def execHostCoreLoadStore (core : Nat) (machine : Bool) (addr len : Nat) (store : Option (List Byte)) (s : State) : Res :=
  .next (if core < 12 ∧ accessLen len store ≠ 0 ∧ (s.clk.mode = .on ∨ s.clk.mode = .dozeEntry) ∧ mainReleased s = true then
      paceAct (.device (.host core machine addr len store)) (hostAccess core machine addr len store)
        (demand (demand s 3) 11)
    else s)

/-! ### PCIe inbound -/

/-- The completion of an inbound read: 0 success, 1 Unsupported Request, 2 EP set. -/
def pcieDone (s : State) (k st : Nat) (bs : List Byte) : State :=
  { s with io := { s.io with completion := some (k, st, bs) } }

def pcieErr (s : State) (k : Nat) : State := s.addSat (PCIE_ERR.n k) 1

/-- The address of a queue register that BAR0 maps at an offset (R458). -/
def bar0Reg (s : State) (k off : Nat) : Nat :=
  CMDP_QBASE_LO.addr (4 * s.getF (PCIE_CFG.bound k) + off / 0x40) + off % 0x40

/-- Store bytes in a port's MSI-X table. -/
def msixWrite (s : State) (k off : Nat) (bs : List Byte) : State :=
  let d (x : Nat) : Byte := if x % 16 = 12 then 1 else 0
  { s with io := { s.io with msix := (bs.zipIdx).foldl (fun (t : List (Nat × Byte)) (e : Byte × Nat) =>
      if off + e.2 < 64 then tabPut d t (64 * k + off + e.2) e.1 else t) s.io.msix } }

/-- A write to BAR0 (R458). -/
def bar0Write (s : State) (k off : Nat) (bs : List Byte) : State :=
  if off < 0x100 then
    let a := bar0Reg s k off
    if bs.length = 4 ∧ off % 4 = 0 then busWrite s (.pcie k) a (leNat bs) else forbid s (.pcie k) a 4
  else if 0x1000 ≤ off ∧ off < 0x1040 then msixWrite s k (off - 0x1000) bs
  else s

/-- A read of BAR0. -/
def bar0Read (s : State) (k off len : Nat) : State :=
  if off < 0x100 then
    let a := bar0Reg s k off
    if len = 4 ∧ off % 4 = 0 then
      let t := regRead s (.pcie k) a
      pcieDone t k 0 (leBytes 4 t.bus.data)
    else pcieDone (forbid s (.pcie k) a 4) k 0 (leBytes len 0)
  else if 0x1000 ≤ off ∧ off < 0x1040 then
    pcieDone s k 0 ((List.range len).map fun i => if off - 0x1000 + i < 64 then msixByte s k (off - 0x1000 + i) else 0)
  else pcieDone s k 0 (leBytes len 0)

/-- An inbound access to the bound instance's translated space (R459, class 6). -/
def pcieMem (s : State) (k : Nat) (r : PcieReq) : State :=
  let w := devWho (0x60 + k) (s.getF (PCIE_CFG.bound k)) 6 9
  if r.write then
    match dmaWrite s w r.off r.data with
    | (t, none) => t
    | (t, some _) => pcieErr t k
  else
    match dmaRead s w r.off r.len with
    | (t, .ok bs) => pcieDone t k 0 bs
    | (t, .error (.xlat _ _ _)) => pcieDone (pcieErr t k) k 1 []
    | (t, .error (.poison _)) => pcieDone (pcieErr t k) k 2 []

/-- An inbound request on a port whose link is up. In DOZE it wakes the T32 (R460); a memory request waits for the wake. -/
def pcieRequest (s : State) (k : Nat) (r : PcieReq) : State :=
  let ep := s.getF (PCIE_CFG.role k) = 0
  let doze := decide (s.clk.mode = .doze)
  if r.write ∧ r.ep then pcieErr s k
  else if ep ∧ r.bar = 0 then
    let s1 := if doze then wakeEvent s 5 else s
    if r.write then bar0Write s1 k r.off r.data else bar0Read s1 k r.off r.len
  else if doze then wakeEvent s 5
  else if ep ∧ 2 ^ s.getF (PCIE_BAR2_SIZE.log2 k) < r.off + (if r.write then r.data.length else r.len) then
    (if r.write then pcieErr s k else pcieDone (pcieErr s k) k 1 [])
  else pcieMem s k r

/-- PCIE_INBOUND (R458, R459). -/
def execPcieInbound (k : Nat) (req : PcieReq) (s : State) : Res :=
  .next (if k < 2 ∧ k ∈ s.pcieUp then
      paceAct (.device (.pcie k req)) (fun t => pcieRequest t k req) (demand (demand s 12) 11) else s)

/-! ### Uncorrectable errors -/

/-- Memory that has error codes (R277). -/
def hasEcc (s : State) (pa : Nat) : Bool :=
  match region s pa with
  | .tile _ => true
  | .bay _ => true
  | .dram _ => true
  | _ => false

/-- The kind of memory a line is read from: the system-level cache where it is held (MEM_ECC_UE). -/
def readKind (s : State) (pa : Nat) : Nat :=
  match region s pa with
  | .dram _ => if s.ms.cache.any fun e => decide (e.line = pa / 64) then 2 else 3
  | _ => memKind s pa

/-- A line is poisoned unless it is already. -/
def poisonOnce (s : State) (pa kind master : Nat) : State := if pa / 64 ∈ s.ms.poison then s else poisonLine s pa kind master

/-- The master of a job's reads (R137). -/
def jobMaster (s : State) (j : Job) : Nat :=
  match j.units.head? with
  | some 0 => 0x30
  | some 1 => 0x31
  | some 2 => 0x38
  | some 3 => 0x39
  | some _ => 0x40
  | none => 0x10 + (kernelTiles s j).headD 0

/-- A reader meets the poison of a line (R277). -/
def poisonSeen (s : State) (pa : Nat) : PoisonReader → State
  | .job q idx => match s.job q idx with
    | some j =>
      if j.phase = .running ∨ (j.phase = .ended ∧ j.endedAt = s.now) then jobPoison s j pa else s
    | none => s
  | .hostCore _ => hostGets s 0 true
  | .walker inst va => match xlateEntry s inst va with
    | (t, .error (5, l)) => xltRecord t (cpWho inst noCtx) va 5 l false
    | (t, _) => xltRecord t (cpWho inst noCtx) va 5 0 false
  | .commandProcessor => s
  | .mainPart => s
  | .device _ => s

/-- The master_id recorded as the first reader. -/
def readerId (s : State) : PoisonReader → Nat
  | .job q idx => match s.job q idx with
    | some j => jobMaster s j
    | none => 0x70
  | .hostCore c => c
  | .device m => m
  | _ => 0x70

/-- Drop a line from the cache. -/
def cacheDrop (s : State) (line : Nat) : State :=
  { s with ms := { s.ms with cache := s.ms.cache.filter fun e => decide (e.line ≠ line) } }

/-- Is a line held dirty in the cache? -/
def cacheDirty (s : State) (line : Nat) : Bool := s.ms.cache.any fun e => decide (e.line = line) && e.dirty

/-- What the error of a read does to its line. A link error needs a read that reaches LPDDR5X, and a tag error a line in the
cache; errors that a device corrects inside it are not seen (R259). -/
def lineError (s : State) (addr master : Nat) : ReadError → State
  | .correctable => if readKind s addr < 3 then s.addSat (MEM_ECC_CE.n (readKind s addr)) 1 else s
  | .data => poisonOnce s addr (readKind s addr) master
  | .tag =>
    if readKind s addr ≠ 2 then s
    else if cacheDirty s (addr / 64) then poisonOnce s addr 2 master
    else cacheDrop s (addr / 64)
  | .linkCorrected => if readKind s addr = 3 then s.addSat (MEM_ECC_CE.n 3) 1 else s
  | .linkRecovered => if readKind s addr = 3 then s.addSat (MEM_ECC_CE.n 3) 1 else s
  | .linkFailed => if readKind s addr = 3 then poisonOnce s addr 3 master else s

/-- The line at fault of the main part's copy is reloaded from flash, a write that covers it whole (R277). -/
def reloadMain (s : State) (line : Nat) : State :=
  { s with
    ms := { s.ms with poison := s.ms.poison.filter fun l => decide (l ≠ line) }
    boot := { s.boot with mainCopy := s.boot.mainCopy.map fun _ => mainPart s (s.getF BOOT_STATUS.slot) } }

/-- A reader gets a poisoned line. -/
def poisonGiven (s : State) (addr : Nat) : PoisonReader → State
  | .mainPart => reloadMain s (addr / 64)
  | r => poisonSeen s (64 * (addr / 64)) r

/-- POISON_READ (R251, R256, R259, R277, R278): a read meets an error in a line; where the line is or becomes poisoned, its
reader gets poison. -/
def execPoisonRead (reader : PoisonReader) (addr : Nat) (err : ReadError) (s : State) : Res :=
  .next (if mainReleased s && hasEcc s addr then
      let t := lineError s addr (readerId s reader) err
      if addr / 64 ∈ t.ms.poison then poisonGiven t addr reader else t
    else s)

/-! ### The patrol scrubber (R251, R252) -/

/-- What a word the scrubber reads gives: a corrected word is counted, an uncorrectable one poisons its line. -/
def scrubWord (s : State) (pa kind : Nat) : ScrubFinding → State
  | .clean => s
  | .correctable => s.addSat (MEM_ECC_CE.n kind) 1
  | .uncorrectable => poisonOnce s pa kind 0x70

/-- PATROL_SCRUB (R252): the next word of tile SRAM or of Bay SRAM; a pass ends at the last word. -/
def execPatrolScrub (tile : Bool) (err : ScrubFinding) (s : State) : Res :=
  .next (if s.flag MEM_SCRUB.scrub_en && mainReleased s && decide (s.clk.mode ≠ .doze) then
      (if tile then
        let s1 := scrubWord s (0x60000000 + 8 * s.ms.scrubTile) 0 err
        let n := s.ms.scrubTile + 1
        let s2 := if n = 0x1000000 then s1.addWrap MEM_SCRUB_PASS.tile 1 else s1
        { s2 with ms := { s2.ms with scrubTile := if n = 0x1000000 then 0 else n } }
      else
        let s1 := scrubWord s (0x40000000 + 8 * s.ms.scrubBay) 1 err
        let n := s.ms.scrubBay + 1
        let s2 := if n = 0x3000000 then s1.addWrap MEM_SCRUB_PASS.bay 1 else s1
        { s2 with ms := { s2.ms with scrubBay := if n = 0x3000000 then 0 else n } })
    else s)

end Sys2Proof.Machine
end

