-- ==== Sys2Proof/Machine/Pacers.lean ====
section
/-! DEFINITION. Pacer windows (R281 to R289), urgency (R287, R304) and the Sorrel adaptive context count (R410). -/

namespace Sys2Proof.Machine

/-- Thresholds of a master in effect (R304), in sixteenths of its FIFO. -/
def urgTh (s : State) (k : Nat) : List Nat :=
  match tabGet (fun _ => 0) s.pace.urgOld k with
  | 0 => [s.getF (PACE_URG_CFG.th1 k), s.getF (PACE_URG_CFG.th2 k), s.getF (PACE_URG_CFG.th3 k)]
  | w => [bits w 0 4, bits w 4 4, bits w 8 4]

/-- The URG level a fill calls for (R287): displays below a threshold, sensor ports above it. -/
def urgOf (s : State) (k fill : Nat) : Nat :=
  ((urgTh s k).filter fun th => if k < 4 then decide (fill < th) else decide (th < fill)).length

def setUrg (s : State) (k l : Nat) : State := s.setF PACE_URG_STATUS.urg (putBits (s.getF PACE_URG_STATUS.urg) (2 * k) 2 l)

/-- URG_FALL (R287): the lower condition has held for 64 consecutive FAB cycles. -/
def execUrgFall (k fill : Nat) (s : State) : Res :=
  .next (if k < 8 ∧ mainReleased s ∧ urgOf s k fill < urgLevel s k then setUrg s k (urgOf s k fill) else s)

/-! ### Held accesses (R283 to R286) -/

/-- The first access of a piece of work that its pacer admits now, with the rest: `before` came earlier. -/
def takeAcc (s : State) (before : List Wait) : List PaceAcc → Option (PaceAcc × List PaceAcc)
  | [] => none
  | a :: t =>
    if paceAdmits s a.key && !paceBehind before a then some (a, t)
    else (takeAcc s before t).map fun r => (r.1, a :: r.2)

/-- The packet whose job's work waits is latency-critical. -/
def waitLc (s : State) : HeldAct → Bool
  | .job q idx => ((s.pkt q idx).map Pkt.lc).getD false
  | .copy t _ => (((s.tile t).job.bind fun id => s.pkt id.1 id.2).map Pkt.lc).getD false
  | _ => false

/-- The order in which waiting requests are served (R286): tier, then within the real-time tier URG and kind, then the masters
in turn from the one served last. -/
def serveKey (s : State) (act : HeldAct) (a : PaceAcc) : List Nat :=
  let turn := (a.master + 0x10000 - s.pace.served - 1) % 0x10000
  if a.urg < 8 then [0, 3 - urgLevel s a.urg, a.urg / 4, turn]
  else if a.urg = 8 then [0, 3, 2, turn]
  else if waitLc s act then [1, 0, 0, turn]
  else [2, 0, 0, turn]

/-- The waiting access served next: where its work waits, the access, and what stays. -/
def nextAcc (s : State) : Option (Nat × PaceAcc × List PaceAcc) :=
  let ws := s.pace.waits
  let cand := (List.range ws.length).filterMap fun i =>
    match ws[i]? with
    | some w => (takeAcc s (ws.take i) w.todo).map fun r => (serveKey s w.act r.1, i, r.1, r.2)
    | none => none
  (cand.foldl (fun (b : Option (List Nat × Nat × PaceAcc × List PaceAcc)) c => match b with
    | none => some c
    | some x => if keyLt c.1 x.1 then some c else some x) none).map Prod.snd

/-- An access of a job that is admitted is progress of its attempt (R300). -/
def actProgress (s : State) : HeldAct → State
  | .job q idx => progress s q idx
  | .copy t _ => match (s.tile t).job with
    | some id => progress s id.1 id.2
    | none => s
  | _ => s

/-- Admit waiting accesses one by one, as far as the limits go. -/
def pumpFuel : Nat → State → State
  | 0, s => s
  | f + 1, s =>
    match nextAcc s with
    | none => s
    | some (i, a, rest) =>
      let s1 := paceCount (paceUrg s a) a
      let s2 := { s1 with pace := { s1.pace with
        served := a.master, waits := s1.pace.waits.modify i fun w => { w with todo := rest } } }
      pumpFuel f (match s1.pace.waits[i]? with
        | some w => actProgress s2 w.act
        | none => s2)

/-- What the accesses of a device do. -/
def deviceRun (tick : Nat) : DevAct → State → State
  | .host c m a n st => hostAccess c m a n st
  | .pcie k r => fun s => pcieRequest s k r
  | .frameStart t e => frameStart t e tick
  | .frameEnd t e => frameEnd t e
  | .line t e d c k px => lineReceive t e d c k px
  | .frameTimeout t => frameTimeout t
  | .netTx n => netTransmit n
  | .netRx n ok fr => netReceive n ok fr tick

/-- The work may go on by itself: its accesses are all admitted, or it is a device's and now first at its port. Work of a packet
or a job goes on with its own command. -/
def mayGoOn (s : State) (before : List Wait) (w : Wait) : Bool :=
  match w.act with
  | .device c => decide (w.todo = []) && !(before.any fun x => sameEntry x.act (.device c))
  | .start _ _ => false
  | .consume _ => false
  | .job _ _ => false
  | .packet q idx => decide (w.todo = []) && (match s.pkt q idx with
    | some p => p.out.isSome || decide (p.opcode = 0x3002 ∧ p.phase = .waiting)
    | none => false)
  | _ => decide (w.todo = [])

/-- A packet whose accesses are admitted: its output is written, or its CAN configuration is read. -/
def pktGoesOn (s : State) (q idx : Nat) : State :=
  match s.pkt q idx with
  | some p => (match p.out with
    | some o => paceAct (.packet q idx) (fun t => outNow t p o) s
    | none => canDrained s (p.u 0 1))
  | none => s

/-- One piece of work goes on. -/
def goOn (s : State) (i : Nat) (w : Wait) : State :=
  let rest : State := { s with pace := { s.pace with waits := s.pace.waits.eraseIdx i } }
  match w.act with
  | .device c =>
    if w.seen then paceDone (deviceRun w.at_ c) rest
    else match paceTry (deviceRun w.at_ c) rest with
      | (t, none) => t
      | (t, some l) =>
        let ws := t.pace.waits.take i ++ [{ w with seen := true, todo := l }] ++ t.pace.waits.drop i
        { t with pace := { t.pace with waits := ws } }
  | .record q => flush s q
  | .status q => writeStatus s q
  | .frame o => paceAct (.frame o) (showFrame o) s
  | .canRx c => rxHeld s c
  | .latch o => paceAct (.latch o) (fun t => restoreOutput t o) s
  | .packet q idx => pktGoesOn s q idx
  | _ => rest

def goOnFuel : Nat → State → State
  | 0, s => s
  | f + 1, s =>
    let ws := s.pace.waits
    match (List.range ws.length).find? fun i => match ws[i]? with
        | some w => mayGoOn s (ws.take i) w
        | none => false with
    | none => s
    | some i => match ws[i]? with
      | some w => goOnFuel f (goOn s i w)
      | none => s

/-- The accesses that wait are admitted as far as the limits go, and what they held goes on (R283, R285). -/
def pump (s : State) : State :=
  let n := (s.pace.waits.map fun w => w.todo.length).foldl (· + ·) 0
  goOnFuel (2 * s.pace.waits.length) (pumpFuel n s)

/-- URG_RISE (R287): the condition of a higher level holds. What waited for the lower limit resumes. -/
def execUrgRise (k fill : Nat) (s : State) : Res :=
  .next (if k < 8 ∧ mainReleased s ∧ urgLevel s k < urgOf s k fill then pump (setUrg s k (urgOf s k fill)) else s)

/-- What waits for a window boundary takes effect: budgets of MEM_PACE, and the registers' words. -/
def applyNext (s : State) : State :=
  let s1 := s.pace.budgetNext.foldl (fun t e => t.setF (PACE_BUDGET.n e.1) e.2) s
  { s1 with pace := { s1.pace with budgetNext := [], urgOld := [] } }

/-- An engine's ctx_max in effect (R410). -/
def ctxMax (s : State) (e : Nat) : Nat :=
  match tabGet (fun _ => 0) s.pace.urgOld (8 + e) with
  | 0 => s.getF (SRCH_CTX_MAX.ctx_max e)
  | w => bits w 0 7

/-- An access of the engine's job was held in the window just ended. -/
def engineHeld (s : State) (e : Nat) : Bool :=
  s.flag (SRCH_STATE.busy e) && s.pace.held.any fun k =>
    decide (k / 8 = s.getF (SRCH_STATE.lane e) ∧ 3 ≤ k % 8 ∧ k % 8 ≤ 5)

/-- R410 for one engine: `slow` says that it held 256 requests outstanding for 500 cycles or more. -/
def adaptEngine (s : State) (e : Nat) (slow held : Bool) (maxBefore : Nat) : State :=
  let a := s.getF (SRCH_STATE.a e)
  let m := ctxMax s e
  let s1 := if a < maxBefore then s.addSat (SRCH_ADAPT.n e) 1 else s
  s1.setF (SRCH_STATE.a e) (min m (max (min 8 m) (if slow || held then a - 8 else a + 8)))

/-- PACER_WINDOW_BOUNDARY (R281): `busy` has bit e set where Sorrel engine e held 256 requests outstanding for 500 cycles
or more in the window just ended (R410). -/
def execPacerWindowBoundary (busy : Nat) (s : State) : Res :=
  .next (if mainReleased s ∧ s.clk.running ∧ s.pace.window < s.nowAt 11 / 1000 then
      (let held := (List.range 2).map (engineHeld s)
       let maxs := (List.range 2).map (ctxMax s)
       let lanes := ((s.pace.held.map fun k => k / 8).eraseDups)
       let s1 := lanes.foldl (fun t l => t.addSat (PACE_HOLDS.n l) 1) s
       let s2 := (List.range 64).foldl (fun t k => t.setF (PACE_COUNT.n k) 0) s1
       let s3 := (List.range 8).foldl (fun t c => t.setF (PACE_SHARED_COUNT.n c) 0) s2
       let s4 := applyNext { s3 with pace := { s3.pace with held := [], overran := [], window := s3.nowAt 11 / 1000 } }
       let s5 := (List.range 2).foldl (fun t e => adaptEngine t e (bitB busy e) (held.getD e false) (maxs.getD e 64)) s4
       pump s5)
    else s)

end Sys2Proof.Machine
end

