-- ==== Sys2Proof/Machine/Commit.lean ====
section
/-! DEFINITION. The commit of a job (R158, R159, R376, R403, R417, R536, R546 to R549). -/

namespace Sys2Proof.Machine

/-- The key of a commit: the tick in which the last kernel ended, then the order of R293 (R547). -/
def commitKey (s : State) (j : Job) : List Nat := j.endedAt :: orderKey s j

/-- The committing jobs whose last kernel has ended, and the first of them. -/
def commitsDue (s : State) : List Job := s.jobs.filter fun j => decide (j.phase = .ended) && jobCommits s j
def nextCommit (s : State) : Option Job :=
  (commitsDue s).foldl (fun b j => match b with
    | none => some j
    | some x => if keyLt (commitKey s j) (commitKey s x) then some j else some x) none

/-- The job may be sealed: no commit is open, it is the first, and the tick of its last kernel's end has passed (R540,
R547). -/
def maySeal (s : State) (j : Job) : Bool :=
  (s.jobs.all fun k => decide (k.phase ≠ .sealed)) && decide (j.endedAt < s.now) &&
  (match nextCommit s with
   | some x => sameJob j.q j.idx x
   | none => false)

/-- An index a publication may advance (R174). -/
def pubIdx (s : State) (inst id : Nat) : Option IdxRec :=
  match s.idx id with
  | some x => if x.owner = inst ∧ !x.closing ∧ x.epoch ≠ 0xFFFFFFFF then some x else none
  | none => none

/-- The epoch and slots_pub each publication will write (R546), in descriptor order; a later publication of one index in
the same job finds nothing staged. -/
def fixPubs (s : State) (inst : Nat) : List (List Byte) → List Nat → List (Option (Nat × Nat))
  | [], _ => []
  | d :: ds, seen =>
    if leAt d 0 1 = 3 then
      let id := leAt d 4 4
      let r := match pubIdx s inst id with
        | some x => if x.dirty && decide (id ∉ seen) then some (x.epoch + 1, x.slotsStaged) else none
        | none => none
      r :: fixPubs s inst ds (id :: seen)
    else none :: fixPubs s inst ds seen

/-- Step 1: the journal entry is sealed. -/
def sealJob (s : State) (j : Job) : State :=
  s.setJob { j with phase := .sealed, pubs := fixPubs s j.inst j.sides [], sidesDone := 0, copied := false }

/-- Steps 2 and 3: the staged units are copied, then KV counts and lengths, context state or the built area take effect.
`bad` lists the staging units that read as poisoned (R549). -/
def copyJob (s : State) (j : Job) (bad : List Nat) : State :=
  let s1 := applyStaging s j bad
  let s2 := j.kv.foldl (fun t r => commitSeq t j r) s1
  let s3 := match j.kind with
    | .gfx => ctxCommit s2 j
    | .build => buildCommit s2 j
    | _ => s2
  (if j.kv.isEmpty then s3 else s3.jobs.foldl seenAgain s3).setJob { j with copied := true }

/-- A side effect is marked done as it is handed over (R546). -/
def sideDone (s : State) (j : Job) : State := s.setJob { j with sidesDone := j.sidesDone + 1 }

/-- The payload of a side effect, read at commit: a translation fault ends the job (R158); a poisoned payload is dropped. -/
def sidePayload (s : State) (j : Job) (d : List Byte) : State × Except (Option Nat) (List Byte) :=
  match dmaRead s (pktWho (jobPkt s j) true) (leAt d 8 8) (leAt d 2 2) with
  | (s1, .ok bs) => (s1, .ok bs)
  | (s1, .error (.xlat va _ _)) => (s1, .error (some va))
  | (s1, .error (.poison _)) => (s1, .error none)

/-- A ring DATA frame as RING_SEND sends it (R158): with no port UP nothing can be sent. -/
def sideRing (s : State) (j : Job) (d : List Byte) : State :=
  match sidePayload s j d with
  | (s1, .error (some va)) => endAccess s1 j va
  | (s1, .error none) => sideDone s1 j
  | (s1, .ok bs) =>
    let e : DataOut := ⟨leAt d 1 1, bs, none, some (j.q, j.idx, j.sidesDone), 0, false, 0, 0, false⟩
    sideDone (if upPorts s1 = [] then s1 else s1.setRing { s1.ring with dataOut := s1.ring.dataOut ++ [e] }) j

/-- A CAN frame, queued to its controller (R159, R452): it waits for space, or is dropped where the controller no longer
suits it. -/
def sideCan (s : State) (j : Job) (d : List Byte) : State :=
  let c := leAt d 1 1
  if canFits s j.inst c (leAt d 0x10 1) = false then sideDone (s.addSat (CAN_ERR.n c) 1) j
  else if 256 ≤ (s.can c).host.length then s
  else match sidePayload s j d with
    | (s1, .error (some va)) => endAccess s1 j va
    | (s1, .error none) => sideDone s1 j
    | (s1, .ok bs) =>
      match canQueue s1 c (canFrame (leAt d 4 4) (leAt d 2 2) (leAt d 0x10 1) bs) with
      | some s2 => sideDone s2 j
      | none => s

/-- An index publication with the values fixed at the seal (R158, R400, R546): the waits it satisfies complete. -/
def sidePub (s : State) (j : Job) (d : List Byte) : State :=
  let id := leAt d 4 4
  match j.pubs.getD j.sidesDone none, pubIdx s j.inst id with
  | some (epoch, slots), some x =>
    let y := { x with slotsPub := slots, epoch := epoch, dirty := decide (slots ≠ x.slotsStaged) }
    let io := putPublished s (pktWho (jobPkt s j) false) id x y
    match io.err with
    | some (.xlat va _ _) => endAccess io.s j va
    | some (.poison _) => sideDone io.s j
    | none => sideDone io.s j
  | _, _ => sideDone s j

/-- Step 4: the next side effect in descriptor order. -/
def nextSide (s : State) (j : Job) : State :=
  let d := j.sides.getD j.sidesDone []
  match leAt d 0 1 with
  | 1 => sideRing s j d
  | 2 => sideCan s j d
  | _ => sidePub s j d

/-- The next step of a job's commit. -/
def commitStep (s : State) (j : Job) (bad : List Nat) : State :=
  match j.phase with
  | .ended => if jobCommits s j && maySeal s j then sealJob s j else s
  | .sealed =>
    if !j.copied then copyJob s j bad
    else if j.sidesDone < j.sides.length then nextSide s j
    else endJob s j j.status 0 0
  | _ => s

/-- JOB_COMMIT (R546, R547): each command carries out one step: the seal, the copy with KV, context and index values, one
side effect, or the close. -/
def execJobCommit (q idx : Nat) (bad : List Nat) (s : State) : Res :=
  .next (match s.job q idx with
    | some j => if accepting s then paceAct (.job q idx) (fun t => commitStep t j bad) s else s
    | none => s)

end Sys2Proof.Machine
end

