-- ==== Sys2Proof/Machine/Start.lean ====
section
/-! DEFINITION. PACKET_START (R129, R143, R144, R161, R467) and WAIT_TIMEOUT (R150, R178 to R180, R238). -/

namespace Sys2Proof.Machine

/-- The preconditions of an opcode, judged when its work starts (R143). -/
def startPre (op : Nat) : State → Pkt → State × PreFail :=
  match op / 0x1000 with
  | 0 => (match op with
    | 0x0002 => preSysTime
    | 0x0010 => preFlashWrite
    | 0x0012 => preRollback
    | _ => noPre)
  | 1 => (match op with
    | 0x1000 => jobRunPre
    | 0x1001 => jobSearchPre
    | _ => noPre)
  | 2 => (match op with
    | 0x2000 => preLaneConfig
    | 0x2002 => preMemRoot
    | 0x2003 => preInvalidate
    | 0x2004 => preMemCopy
    | 0x2005 => preBayLoad
    | 0x2006 => preParamLane
    | _ => noPre)
  | 3 => (match op with
    | 0x3000 => preStreamSensor
    | 0x3001 => preStreamDisplay
    | 0x3003 => preCanTx
    | 0x3004 => preRouter
    | _ => noPre)
  | 4 => (match op with
    | 0x4000 => idxCreatePre
    | 0x4001 => idxBuildPre
    | 0x4002 => idxInsertPre
    | 0x4004 => idxPublishPre
    | _ => idxPre)
  | 5 => (match op with
    | 0x5000 => preRingConfig
    | 0x5001 => preRingSweep
    | 0x5002 => preNode0
    | 0x5005 => preNode0
    | _ => noPre)
  | 6 => (match op with
    | 0x6001 => prePwrCap
    | 0x6002 => prePwrMulti
    | 0x6003 => preDrain
    | 0x6004 => preDrain
    | _ => noPre)
  | 7 => (match op with
    | 0x7000 => preParamLane
    | 0x7001 => preSafPair
    | _ => noPre)
  | 8 => (match op with
    | 0x8000 => preRights
    | 0x8001 => preQuiesce
    | 0x8002 => preRunning fun _ _ => []
    | 0x8003 => preReset
    | 0x8004 => preFreeze
    | 0x8005 => preSave
    | 0x8006 => preRestore
    | 0x8007 => preThaw
    | _ => preRemove)
  | _ => noPre

/-- The fence holds a packet until every earlier packet of its queue has its record (R129). -/
def fenceOpen (s : State) (p : Pkt) : Bool := !bitB p.flags 2 || decide ((s.queue p.q).done = p.idx)

/-- The packets consumed before one. -/
def consumedBefore (s : State) (p : Pkt) : List Pkt := s.pkts.takeWhile fun x => !samePkt p.q p.idx x

/-- Instance-class opcodes that name one target go one at a time, each after the completion tick of the one before
(R467). -/
def targetFree (s : State) (p : Pkt) : Bool :=
  decide (p.opcode / 0x1000 ≠ 8) ||
  (((consumedBefore s p).all fun x => decide (x.opcode / 0x1000 ≠ 8 ∨ target x ≠ target p) || !unfinished x) &&
   decide ((s.inst (target p)).changedAt < s.now))

/-- A header that names an undefined lane fails the precondition of R161; LANE_CONFIG is judged by its own. -/
def lanePre (s : State) (p : Pkt) : State × PreFail :=
  if p.opcode ≠ 0x2000 ∧ (s.lane p.lane).isNone then (s, .bad 8) else startPre p.opcode s p

/-- The packet's work may start now. -/
def startable (s : State) (p : Pkt) : Bool :=
  decide (p.phase = .consumed) && accepting s && mayStart s p.inst && fenceOpen s p && targetFree s p

/-- The start of a packet's work: its preconditions and deferred ranges come before any effect. -/
def startPkt (s : State) (p : Pkt) : State :=
  let r := lanePre s p
  match endPre r.1 p r.2 with
  | some t => t
  | none => r.1.setPkt { p with phase := .started, began := r.1.now }

/-- PACKET_START (R143). -/
def execPacketStart (q idx : Nat) (s : State) : Res :=
  .next (match s.pkt q idx with
    | some p => if startable s p then paceAct (.start q idx) (fun t => startPkt t p) s else s
    | none => s)

/-! ### Timeouts -/


/-- The epoch IDX_WAIT reports. -/
def epochNow (s : State) (p : Pkt) : Nat := match pktIdx s p with
  | some x => x.epoch
  | none => 0

/-- RING_SWEEP's timeout (R178): the sweep that runs ends with what has arrived; one that still waited for its turn has no
record. -/
def sweepTimeout (s : State) (p : Pkt) : State :=
  match s.ring.sweep with
  | some r =>
    if r.pkt = some (p.q, p.idx) then contSweep (sweepFuel s) s r true
    else sweepNone s p
  | none => sweepNone s p
where
  sweepNone (s : State) (p : Pkt) : State :=
    let r : SweepRun := ⟨0, some (p.q, p.idx), 0, false, s.now, [], false, s.now, s.getF RING_MEMBERS.members, [], false⟩
    outWaited s p ⟨p.u 0 8, sweepBlock s r 0x61 0, 0x61, sweepDetail s r⟩

/-- RING_SEND's timeout (R179, R238): the frame is given up. -/
def sendTimeout (s : State) (p : Pkt) : State :=
  match s.ring.dataOut.find? fun e => decide (e.pkt = some (p.q, p.idx)) with
  | some e => if e.sends = 0 then complete (dropData s e) p 0x61 1 0 else dataFailed s e
  | none => complete s p 0x61 1 0

/-- RING_PROBE's timeout (R179): the next probe that waits begins. -/
def probeTimeout (s : State) (p : Pkt) : State :=
  match s.ring.probe with
  | some r =>
    if r.pkt = (p.q, p.idx) then
      (let t := complete (s.setProbe none) p 0x61 1 0
       match probeQueue t with
       | x :: _ => beginProbe t x
       | [] => t)
    else complete s p 0x61 1 0
  | none => complete s p 0x61 1 0

/-- What a waiting packet ends with at its timeout (R150, R152, R175, R179, R180). -/
def timeoutEnd (s : State) (p : Pkt) : State :=
  match p.opcode with
  | 0x0004 => complete s p 0 (p.u 0 1 + 2 ^ 31) 0
  | 0x4005 => complete s p 0 (waitDetail (epochNow s p) + 2 ^ 31) 0
  | 0x5001 => sweepTimeout s p
  | 0x5002 =>
    complete (s.setRing { s.ring with asks := s.ring.asks.filter fun a => decide (a.pkt ≠ some (p.q, p.idx)) }) p 0x61 1 0
  | 0x5003 => sendTimeout s p
  | 0x5004 => recvEnd s p (2 ^ 31)
  | _ => probeTimeout s p

/-- The packet waits, and its timeout tick has passed: an arrival in that tick wins (R134). -/
def timedOut (s : State) (p : Pkt) : Bool :=
  match timeoutOff p.opcode with
  | some off => decide (p.phase = .waiting) && accepting s && expired s (p.u off 8)
  | none => false

/-- WAIT_TIMEOUT (R150). -/
def execWaitTimeout (q idx : Nat) (s : State) : Res :=
  .next (match s.pkt q idx with
    | some p => if timedOut s p then timeoutEnd s p else s
    | none => s)

end Sys2Proof.Machine
end

