-- ==== Sys2Proof/Machine/Accept.lean ====
section
/-! DEFINITION. JOBS_ACCEPTED: the tick in which the main die first accepts jobs for every lane, after a bring-up (R90, R95,
R105, R434, R442, R454, R529, R550 to R554, R613, R620) or a DOZE exit (R64, R67, R619). -/

namespace Sys2Proof.Machine

/-! ### What Tsuquel restores from its Sage records -/

/-- RWL fields and LOCK bits of the main-die blocks (R613). -/
def restoreLocks (s : State) : State := s.ms.lockRec.foldl (fun t e => t.wr e.1 e.2) s

/-- Translation roots and formats (R620). -/
def restoreXlt (s : State) : State :=
  (List.range 16).foldl (fun t i =>
    let x := t.inst i
    let t1 := (t.setF (XLT_ROOT_LO.lo i) (x.root / 4096 % 2 ^ 20)).setF (XLT_ROOT_HI.hi i) (x.root / 2 ^ 32 % 2 ^ 8)
    (t1.setF (XLT_CFG.format i) x.fmt).setF (XLT_CFG.key_valid i) (b2n (decide (tabGet (fun _ => []) t.ms.keys i ≠ [])))) s

/-- Budgets and stall limits of the defined lanes, and ctx_max of each Sorrel engine (spec/08, spec/12). -/
def restorePace (s : State) : State :=
  let s1 := s.pace.budgetRec.foldl (fun t e => t.setF (PACE_BUDGET.n e.1) e.2) s
  let s2 := s1.pace.stallRec.foldl (fun t e => t.setF (PACE_STALL.ticks e.1) e.2) s1
  (List.range 2).foldl (fun t e => t.setF (SRCH_CTX_MAX.ctx_max e) (tabGet (fun _ => 64) t.pace.ctxRec e)) s2

/-- SRCH_IDX_LIVE and GFX_CTX show what Tsuquel keeps. -/
def restoreViews (s : State) : State :=
  let s1 := (List.range 256).foldl (fun t id => if (t.idx id).isSome then idxLive t id true else t) s
  (List.range 16).foldl (fun t c => match (t.gfxCtx c).owner with
    | some i => (t.setF (GFX_CTX.bound c) 1).setF (GFX_CTX.instance c) i
    | none => t) s1

/-- Every register that Tsuquel rewrites before the main die accepts jobs (R447, R461, R613, R620). -/
def restoreRegs (s : State) : State :=
  let s1 := (List.range 8).foldl laneRegs (restoreLocks s)
  restoreViews (restorePace (restoreXlt (sharedRegs s1)))

/-! ### Jobs (R537, R550 to R554) -/

/-- LPDDR5X contents were lost (R554): no copy is put back. -/
def lostJob (s : State) (j : Job) : State :=
  endJob (s.setJob { j with ckpt := [], ckptBad := [] }) { j with ckpt := [], ckptBad := [] } 0x40 (faultDetail j) 0xFFFFFFFFFFFFFFFF

/-- What becomes of one job at the acceptance after a main-die reset. -/
def resumeJob (s : State) (j : Job) : State :=
  match j.phase with
  | .sealed => s.setJob { j with copied := j.copied && decide (j.kind = .build) }
  | .paused => s.setJob { j with fresh := true }
  | .running => newAttempt s j false true
  | .ended => newAttempt s j false true
  | .ready => if j.started ∧ j.kernel ≠ 0 then newAttempt s j false true else s

/-- A job whose work had not begun has not closed its commit either (R554). -/
def lostStart (s : State) (p : Pkt) : State :=
  if isJobOp p.opcode && decide (p.phase = .consumed ∨ p.phase = .started) then endPlain s p 0x40 0 0xFFFFFFFFFFFFFFFF else s

def resumeJobs (s : State) : State :=
  if s.boot.dramLost then s.pkts.foldl lostStart (s.jobs.foldl lostJob s) else s.jobs.foldl resumeJob s

/-! ### Packets (R147, R189) -/

/-- Opcodes that wait on main-die units begin again (R147). -/
def beginsAgain (p : Pkt) : Bool :=
  decide (p.opcode = 0x3000 ∨ p.opcode = 0x3001 ∨ (p.opcode = 0x3005 ∧ p.u 0 1 ≠ 2))

/-- What becomes of one waiting packet at the acceptance after a main-die reset; after a safe state a packet that had not
completed is carried out from its start (R147), and an output that a pacer held is offered again otherwise. -/
def resumePkt (safe : Bool) (s : State) (p : Pkt) : State :=
  if p.phase = .writing then
    if safe then ringAgain s p
    else match p.out with
      | some o => outWaited s p o
      | none => s
  else if p.phase ≠ .waiting then s
  else if safe && ringOp p then ringAgain s p
  else if beginsAgain p then s.setPkt { p with phase := .started }
  else match p.opcode with
    | 0x6003 => if 3 ≤ p.prog then parkDone s p else s.setPkt { p with prog := 0 }
    | 0x7002 => s.setPkt { p with phase := .started, prog := 0 }
    | 0x7003 => complete s p 0 (s.getF SAF_LAST_LEN.ticks) 0
    | _ => s

/-- Side of the CAN controllers: held entries are written and waiting frames handed over (R454). -/
def resumeCan (s : State) : State := (List.range 16).foldl (fun t c => canDrained (canFeed (rxHeld t c) c) c) s

/-! ### Acceptance -/

/-- SAFE_STATE_N and DISP_FALLBACK have been asserted for 10,000 ticks (R600). -/
def pinsHeld (s : State) : Bool :=
  !s.flag SAF_STATUS.safe || decide (s.get64 SAF_LAST_ENTRY_LO.lo SAF_LAST_ENTRY_HI.hi + 10000 ≤ s.now)

/-- A bring-up may end: every step has ended, and TILE runs at its target step. -/
def mayAccept (s : State) : Bool :=
  decide (s.boot.main = .ready ∧ s.boot.run = .none) && pinsHeld s && s.pwr.down.isEmpty && s.clk.running && s.pwr.avsDue.isNone &&
  decide (s.getF (CLK_DOM_STATUS.cur_step 4) = s.getF (CLK_DOM_STATUS.target_step 4))

/-- The attempt has succeeded (R90, R95). -/
def mainSucceeds (s : State) : State :=
  let mark : AcceptMark := ⟨s.now, s.getF BOOT_MAIN_CONSEC.n, s.clk.mode, s.getF CLK_STATE.state, s.boot.parkExit,
    s.flag SAF_STATUS.safe, s.pins.safeState, s.getF SAF_LAST_LEN.ticks, faultCauses s, s.getF SAF_CLKMON.pll_unlock⟩
  let s1 := if s.boot.mainCounted then s else s.addSat BOOT_MAIN_ATTEMPTS.n 1
  let s2 := (endBackoff (s1.setF BOOT_MAIN_CONSEC.n 0)).setF BOOT_STATUS.phase 3
  updFaultBoot { s2 with 
    boot := { s2.boot with main := .up, mainCounted := false, parkExit := false }
    saf := { s2.saf with accept := some mark } }

/-- The safe state, if one was in effect, is over (R105, R528, R529, R530). -/
def safeEnds (s : State) : State :=
  let s1 := if s.flag SAF_STATUS.safe then
      (let e := s.get64 SAF_LAST_ENTRY_LO.lo SAF_LAST_ENTRY_HI.hi
       (s.setF SAF_STATUS.safe 0).setF SAF_LAST_LEN.ticks (min (s.now - e) 0xFFFFFFFF)) else s
  setSafePins (releaseCauses (s1.setF SAF_CLKMON.pll_unlock 0)) false

/-- ON (R619). -/
def turnOn (s : State) : State :=
  let s1 := (s.setF CLK_STATE.state 3).setF CMDP_STATUS.accepting 1
  { s1 with clk := { s1.clk with mode := .on, dozeExit := false, entryReset := false, wakePending := false } }

/-- The acceptance after a bring-up. -/
def acceptAfterReset (s : State) : State :=
  let s1 := evtSkip (restoreRegs (turnOn (safeEnds (mainSucceeds s))))
  let s2 := { s1 with io := { s1.io with canAwake := [] } }
  let s3 := (List.range 16).foldl restoreStream s2
  let s4 := (List.range 4).foldl (fun t o => paceAct (.latch o) (fun u => restoreOutput u o) t) s3
  let s5 := resumeJobs s4
  let s6 := s5.pkts.foldl (resumePkt (s.flag SAF_STATUS.safe)) { s5 with boot := { s5.boot with dramLost := false } }
  flushAll (padsChange (ringResume (resumeCan s6)))

/-- A DOZE exit may end: VDD_TILE has settled. -/
def dozeMayEnd (s : State) : Bool :=
  decide (s.clk.mode = .doze) && s.clk.dozeExit && s.pwr.avsDue.isNone &&
  decide (s.pwr.vTile = tileVolt (s.dom 4).held)

/-- The timer interrupts whose compare values TIME reached in DOZE are raised; the compares go back to their cores (R60). -/
def timersRaise (s : State) : State :=
  let due := (s.clk.compares.filter fun e => decide (e.2 ≤ s.now)).map Prod.fst
  due.foldl (fun t c => raiseHost t (160 + c)) { s with clk := { s.clk with compares := [] } }

/-- The acceptance at the end of a DOZE exit (R66, R67): the TIME copies are reloaded, DRAM, FAB and TILE run again, and every
other domain starts on demand at the step it held (assumption 87). -/
def acceptAfterDoze (s : State) : State :=
  let s1 := turnOn (setPlls (reloadCopies s) (mainPlls + ppll) true)
  let s2 := timersRaise ([4, 10, 11].foldl (fun t d => if gated t d && !(t.dom d).hot then restartDom t d else t) s1)
  let s3 := [0, 1].foldl (fun t k => t.setF (PCIE_STATE.l1 k) 0) s2
  flushAll (ringResume (resumeCan (evtSkip s3)))

/-- JOBS_ACCEPTED (R105). -/
def execJobsAccepted (s : State) : Res :=
  .next (if mayAccept s then acceptAfterReset s else if dozeMayEnd s then acceptAfterDoze s else s)

end Sys2Proof.Machine
end

