-- ==== Sys2Proof/Machine/Dispatch.lean ====
section
/-! DEFINITION. The dispatch of a command to its meaning: one arm per constructor. -/

namespace Sys2Proof.Machine

/-- The effect of a command on everything but the queue. -/
def exec (i : Instr) (s : State) : Host.Outcome State Fault Refusal :=
  match i with
  | .powerOnReset cause => Sys2Proof.Machine.execPowerOnReset cause s
  | .porNRelease start => Sys2Proof.Machine.execPorNRelease start s
  | .sageReset => Sys2Proof.Machine.execSageReset s
  | .groupBRailLoss rail => Sys2Proof.Machine.execGroupBRailLoss rail s
  | .railMonitorTrip rail stamp => Sys2Proof.Machine.execRailMonitorTrip rail stamp s
  | .preTripletCoreFault kind => Sys2Proof.Machine.execPreTripletCoreFault kind s
  | .backoffExpiry xspiError => Sys2Proof.Machine.execBackoffExpiry xspiError s
  | .bootWatchdogExpiry => Sys2Proof.Machine.execBootWatchdogExpiry s
  | .bootAliveWrite m v => Sys2Proof.Machine.execBootAliveWrite m v s
  | .sageResetWrite m v => Sys2Proof.Machine.execSageResetWrite m v s
  | .groupCRailGood rail => Sys2Proof.Machine.execGroupCRailGood rail s
  | .railGoodTimeout => Sys2Proof.Machine.execRailGoodTimeout s
  | .railOffDone below => Sys2Proof.Machine.execRailOffDone below s
  | .mainDieBringUp start => Sys2Proof.Machine.execMainDieBringUp start s
  | .mainStepTimeout => Sys2Proof.Machine.execMainStepTimeout s
  | .injectionWindowEnd test report => Sys2Proof.Machine.execInjectionWindowEnd test report s
  | .jobsAccepted => Sys2Proof.Machine.execJobsAccepted s
  | .sageLinkFlitError failedReplays => Sys2Proof.Machine.execSageLinkFlitError failedReplays s
  | .timeCopyMismatch domain ahead => Sys2Proof.Machine.execTimeCopyMismatch domain ahead s
  | .latchingLoRead m addr => Sys2Proof.Machine.execLatchingLoRead m addr s
  | .timeRateAdjWrite m v => Sys2Proof.Machine.execTimeRateAdjWrite m v s
  | .sweepTimerExpiry => Sys2Proof.Machine.execSweepTimerExpiry s
  | .refreqAssert => Sys2Proof.Machine.execRefreqAssert s
  | .wakeNLatch pin => Sys2Proof.Machine.execWakeNLatch pin s
  | .hostTimerCompare core => Sys2Proof.Machine.execHostTimerCompare core s
  | .pcieWake k => Sys2Proof.Machine.execPcieWake k s
  | .canWakeDetect c => Sys2Proof.Machine.execCanWakeDetect c s
  | .dozeHoldExpiry compares => Sys2Proof.Machine.execDozeHoldExpiry compares s
  | .domainIdleExpiry domain => Sys2Proof.Machine.execDomainIdleExpiry domain s
  | .domainDemand domain => Sys2Proof.Machine.execDomainDemand domain s
  | .tileStepChange => Sys2Proof.Machine.execTileStepChange s
  | .avsSettleExpiry => Sys2Proof.Machine.execAvsSettleExpiry s
  | .dramStepChange => Sys2Proof.Machine.execDramStepChange s
  | .doorbellWrite m q v => Sys2Proof.Machine.execDoorbellWrite m q v s
  | .queueEnable m q v => Sys2Proof.Machine.execQueueEnable m q v s
  | .queueDisable m q v => Sys2Proof.Machine.execQueueDisable m q v s
  | .packetConsume q => Sys2Proof.Machine.execPacketConsume q s
  | .packetStart q idx => Sys2Proof.Machine.execPacketStart q idx s
  | .vlogRdWrite m v => Sys2Proof.Machine.execVlogRdWrite m v s
  | .sysNop q idx => Sys2Proof.Machine.execSysNop q idx s
  | .sysInfo q idx => Sys2Proof.Machine.execSysInfo q idx s
  | .sysTime q idx => Sys2Proof.Machine.execSysTime q idx s
  | .sysSignal q idx => Sys2Proof.Machine.execSysSignal q idx s
  | .sysWait q idx => Sys2Proof.Machine.execSysWait q idx s
  | .waitTimeout q idx => Sys2Proof.Machine.execWaitTimeout q idx s
  | .sysFlashWrite q idx badSector => Sys2Proof.Machine.execSysFlashWrite q idx badSector s
  | .sysFlashCheck q idx xspiError => Sys2Proof.Machine.execSysFlashCheck q idx xspiError s
  | .sysRollback q idx => Sys2Proof.Machine.execSysRollback q idx s
  | .jobRun q idx => Sys2Proof.Machine.execJobRun q idx s
  | .jobSearch q idx => Sys2Proof.Machine.execJobSearch q idx s
  | .jobGfx q idx => Sys2Proof.Machine.execJobGfx q idx s
  | .laneConfig q idx => Sys2Proof.Machine.execLaneConfig q idx s
  | .laneQuery q idx => Sys2Proof.Machine.execLaneQuery q idx s
  | .memRoot q idx => Sys2Proof.Machine.execMemRoot q idx s
  | .memInvalidate q idx => Sys2Proof.Machine.execMemInvalidate q idx s
  | .memCopy q idx => Sys2Proof.Machine.execMemCopy q idx s
  | .memBayLoad q idx => Sys2Proof.Machine.execMemBayLoad q idx s
  | .memPace q idx => Sys2Proof.Machine.execMemPace q idx s
  | .streamSensor q idx => Sys2Proof.Machine.execStreamSensor q idx s
  | .streamDisplay q idx => Sys2Proof.Machine.execStreamDisplay q idx s
  | .streamCanCfg q idx => Sys2Proof.Machine.execStreamCanCfg q idx s
  | .streamCanTx q idx => Sys2Proof.Machine.execStreamCanTx q idx s
  | .streamRouter q idx => Sys2Proof.Machine.execStreamRouter q idx s
  | .streamStop q idx => Sys2Proof.Machine.execStreamStop q idx s
  | .idxCreate q idx => Sys2Proof.Machine.execIdxCreate q idx s
  | .idxBuild q idx => Sys2Proof.Machine.execIdxBuild q idx s
  | .idxInsert q idx => Sys2Proof.Machine.execIdxInsert q idx s
  | .idxDelete q idx => Sys2Proof.Machine.execIdxDelete q idx s
  | .idxPublish q idx => Sys2Proof.Machine.execIdxPublish q idx s
  | .idxWait q idx => Sys2Proof.Machine.execIdxWait q idx s
  | .idxDestroy q idx => Sys2Proof.Machine.execIdxDestroy q idx s
  | .ringConfig q idx => Sys2Proof.Machine.execRingConfig q idx s
  | .ringSweep q idx => Sys2Proof.Machine.execRingSweep q idx s
  | .ringRecollect q idx => Sys2Proof.Machine.execRingRecollect q idx s
  | .ringSend q idx => Sys2Proof.Machine.execRingSend q idx s
  | .ringRecv q idx => Sys2Proof.Machine.execRingRecv q idx s
  | .ringProbe q idx => Sys2Proof.Machine.execRingProbe q idx s
  | .ringParkCfg q idx => Sys2Proof.Machine.execRingParkCfg q idx s
  | .pwrStep q idx => Sys2Proof.Machine.execPwrStep q idx s
  | .pwrCap q idx => Sys2Proof.Machine.execPwrCap q idx s
  | .pwrMulti q idx => Sys2Proof.Machine.execPwrMulti q idx s
  | .pwrPark q idx => Sys2Proof.Machine.execPwrPark q idx s
  | .pwrShutdown q idx => Sys2Proof.Machine.execPwrShutdown q idx s
  | .pwrQuery q idx => Sys2Proof.Machine.execPwrQuery q idx s
  | .safStall q idx => Sys2Proof.Machine.execSafStall q idx s
  | .safPair q idx => Sys2Proof.Machine.execSafPair q idx s
  | .safTest q idx => Sys2Proof.Machine.execSafTest q idx s
  | .safEnter q idx => Sys2Proof.Machine.execSafEnter q idx s
  | .safReport q idx => Sys2Proof.Machine.execSafReport q idx s
  | .instRights q idx => Sys2Proof.Machine.execInstRights q idx s
  | .instQuiesce q idx => Sys2Proof.Machine.execInstQuiesce q idx s
  | .instResume q idx => Sys2Proof.Machine.execInstResume q idx s
  | .instReset q idx => Sys2Proof.Machine.execInstReset q idx s
  | .instFreeze q idx => Sys2Proof.Machine.execInstFreeze q idx s
  | .instSave q idx => Sys2Proof.Machine.execInstSave q idx s
  | .instRestore q idx => Sys2Proof.Machine.execInstRestore q idx s
  | .instThaw q idx => Sys2Proof.Machine.execInstThaw q idx s
  | .instRemove q idx => Sys2Proof.Machine.execInstRemove q idx s
  | .managerWrite m v => Sys2Proof.Machine.execManagerWrite m v s
  | .mboxAddressWrite m inst hi v => Sys2Proof.Machine.execMboxAddressWrite m inst hi v s
  | .ringMgr m inst => Sys2Proof.Machine.execRingMgr m inst s
  | .ringTen m inst => Sys2Proof.Machine.execRingTen m inst s
  | .kernelDispatch => Sys2Proof.Machine.execKernelDispatch s
  | .kernelEnd q idx => Sys2Proof.Machine.execKernelEnd q idx s
  | .stallLimitExpiry q idx => Sys2Proof.Machine.execStallLimitExpiry q idx s
  | .jobCommit q idx bad => Sys2Proof.Machine.execJobCommit q idx bad s
  | .stagingPageGrant q idx => Sys2Proof.Machine.execStagingPageGrant q idx s
  | .poisonRead reader addr err => Sys2Proof.Machine.execPoisonRead reader addr err s
  | .lockstepMismatch => Sys2Proof.Machine.execLockstepMismatch s
  | .heartbeatMiss => Sys2Proof.Machine.execHeartbeatMiss s
  | .tripletDisagreement odd => Sys2Proof.Machine.execTripletDisagreement odd s
  | .tripletResyncDone => Sys2Proof.Machine.execTripletResyncDone s
  | .backgroundTest reports => Sys2Proof.Machine.execBackgroundTest reports s
  | .refclkBad => Sys2Proof.Machine.execRefclkBad s
  | .refclkRecovered => Sys2Proof.Machine.execRefclkRecovered s
  | .pllUnlock pll => Sys2Proof.Machine.execPllUnlock pll s
  | .mainDieNoResponse => Sys2Proof.Machine.execMainDieNoResponse s
  | .duplicateCheckDisagree => Sys2Proof.Machine.execDuplicateCheckDisagree s
  | .sageSramUe => Sys2Proof.Machine.execSageSramUe s
  | .faultNHoldExpiry => Sys2Proof.Machine.execFaultNHoldExpiry s
  | .telemetrySample readings => Sys2Proof.Machine.execTelemetrySample readings s
  | .statusWordPoll faults => Sys2Proof.Machine.execStatusWordPoll faults s
  | .droopTrip detector => Sys2Proof.Machine.execDroopTrip detector s
  | .droopRelease detector => Sys2Proof.Machine.execDroopRelease detector s
  | .thermalRead temps => Sys2Proof.Machine.execThermalRead temps s
  | .warnThrottleStep => Sys2Proof.Machine.execWarnThrottleStep s
  | .multiRoundTimeout => Sys2Proof.Machine.execMultiRoundTimeout s
  | .pacerWindowBoundary busy => Sys2Proof.Machine.execPacerWindowBoundary busy s
  | .urgRise k fill => Sys2Proof.Machine.execUrgRise k fill s
  | .urgFall k fill => Sys2Proof.Machine.execUrgFall k fill s
  | .vld t => Sys2Proof.Machine.execVld t s
  | .vst t => Sys2Proof.Machine.execVst t s
  | .sld t => Sys2Proof.Machine.execSld t s
  | .sst t => Sys2Proof.Machine.execSst t s
  | .wld t => Sys2Proof.Machine.execWld t s
  | .wldComplete t w => Sys2Proof.Machine.execWldComplete t w s
  | .xld t => Sys2Proof.Machine.execXld t s
  | .xst t => Sys2Proof.Machine.execXst t s
  | .copyLand t n => Sys2Proof.Machine.execCopyLand t n s
  | .mmt t => Sys2Proof.Machine.execMmt t s
  | .mpool t => Sys2Proof.Machine.execMpool t s
  | .matrixOpEnd t => Sys2Proof.Machine.execMatrixOpEnd t s
  | .vadd t => Sys2Proof.Machine.execVadd t s
  | .vsub t => Sys2Proof.Machine.execVsub t s
  | .vmul t => Sys2Proof.Machine.execVmul t s
  | .vfma t => Sys2Proof.Machine.execVfma t s
  | .vmax t => Sys2Proof.Machine.execVmax t s
  | .vmin t => Sys2Proof.Machine.execVmin t s
  | .vabs t => Sys2Proof.Machine.execVabs t s
  | .vshr t => Sys2Proof.Machine.execVshr t s
  | .vclamp t => Sys2Proof.Machine.execVclamp t s
  | .vcmp t => Sys2Proof.Machine.execVcmp t s
  | .vsel t => Sys2Proof.Machine.execVsel t s
  | .vperm t => Sys2Proof.Machine.execVperm t s
  | .vred t => Sys2Proof.Machine.execVred t s
  | .vbcst t => Sys2Proof.Machine.execVbcst t s
  | .vexp2 t => Sys2Proof.Machine.execVexp2 t s
  | .vrcp t => Sys2Proof.Machine.execVrcp t s
  | .vrsqrt t => Sys2Proof.Machine.execVrsqrt t s
  | .vacc t => Sys2Proof.Machine.execVacc t s
  | .vcvt t => Sys2Proof.Machine.execVcvt t s
  | .vmovs t => Sys2Proof.Machine.execVmovs t s
  | .saddi t => Sys2Proof.Machine.execSaddi t s
  | .slui t => Sys2Proof.Machine.execSlui t s
  | .salu t => Sys2Proof.Machine.execSalu t s
  | .tileLoop t => Sys2Proof.Machine.execTileLoop t s
  | .tileBnz t => Sys2Proof.Machine.execTileBnz t s
  | .tileJmp t => Sys2Proof.Machine.execTileJmp t s
  | .tileFset t => Sys2Proof.Machine.execTileFset t s
  | .tileWaitt t => Sys2Proof.Machine.execTileWaitt t s
  | .tileWaittRelease t => Sys2Proof.Machine.execTileWaittRelease t s
  | .tileBar t => Sys2Proof.Machine.execTileBar t s
  | .tileBarRelease t => Sys2Proof.Machine.execTileBarRelease t s
  | .tileEnd t => Sys2Proof.Machine.execTileEnd t s
  | .tileNop t slot => Sys2Proof.Machine.execTileNop t slot s
  | .illegalBundle t => Sys2Proof.Machine.execIllegalBundle t s
  | .pairMismatch k => Sys2Proof.Machine.execPairMismatch k s
  | .attend q idx => Sys2Proof.Machine.execAttend q idx s
  | .append q idx => Sys2Proof.Machine.execAppend q idx s
  | .scatter q idx => Sys2Proof.Machine.execScatter q idx s
  | .gfxTarget q idx => Sys2Proof.Machine.execGfxTarget q idx s
  | .gfxShader q idx => Sys2Proof.Machine.execGfxShader q idx s
  | .gfxState q idx => Sys2Proof.Machine.execGfxState q idx s
  | .gfxVertex q idx => Sys2Proof.Machine.execGfxVertex q idx s
  | .gfxDraw q idx frags => Sys2Proof.Machine.execGfxDraw q idx frags s
  | .fragmentRetire q idx n => Sys2Proof.Machine.execFragmentRetire q idx n s
  | .gfxClear q idx => Sys2Proof.Machine.execGfxClear q idx s
  | .gfxBins q idx => Sys2Proof.Machine.execGfxBins q idx s
  | .gfxEnd q idx => Sys2Proof.Machine.execGfxEnd q idx s
  | .verticalBlank o => Sys2Proof.Machine.execVerticalBlank o s
  | .displayLinkUp o => Sys2Proof.Machine.execDisplayLinkUp o s
  | .displayUnderrun o line x => Sys2Proof.Machine.execDisplayUnderrun o line x s
  | .sensorFrameStart t ecc => Sys2Proof.Machine.execSensorFrameStart t ecc s
  | .sensorFrameEnd t ecc => Sys2Proof.Machine.execSensorFrameEnd t ecc s
  | .sensorLineReceive t ecc dt crcBad kept pixels => Sys2Proof.Machine.execSensorLineReceive t ecc dt crcBad kept pixels s
  | .sensorFrameTimeout t => Sys2Proof.Machine.execSensorFrameTimeout t s
  | .netTxTailWrite m n v => Sys2Proof.Machine.execNetTxTailWrite m n v s
  | .netRxTailWrite m n v => Sys2Proof.Machine.execNetRxTailWrite m n v s
  | .netFrameTransmit n => Sys2Proof.Machine.execNetFrameTransmit n s
  | .netFrameReceive n fcsOk frame => Sys2Proof.Machine.execNetFrameReceive n fcsOk frame s
  | .canFrameReceive c frame remote esi sof => Sys2Proof.Machine.execCanFrameReceive c frame remote esi sof s
  | .canFrameTransmit c => Sys2Proof.Machine.execCanFrameTransmit c s
  | .canBusOff c => Sys2Proof.Machine.execCanBusOff c s
  | .canBusRecover c => Sys2Proof.Machine.execCanBusRecover c s
  | .pcieInbound k req => Sys2Proof.Machine.execPcieInbound k req s
  | .pcieLinkDown k => Sys2Proof.Machine.execPcieLinkDown k s
  | .pcieLinkUp k width gen => Sys2Proof.Machine.execPcieLinkUp k width gen s
  | .ringTrainingSet p groups => Sys2Proof.Machine.execRingTrainingSet p groups s
  | .ringTrainRestart p => Sys2Proof.Machine.execRingTrainRestart p s
  | .ringPortDown p seen => Sys2Proof.Machine.execRingPortDown p seen s
  | .bypassClose => Sys2Proof.Machine.execBypassClose s
  | .bypassOpen => Sys2Proof.Machine.execBypassOpen s
  | .ringFrameReceive p groups => Sys2Proof.Machine.execRingFrameReceive p groups s
  | .sweepFrame p groups => Sys2Proof.Machine.execSweepFrame p groups s
  | .recollectFrame p groups => Sys2Proof.Machine.execRecollectFrame p groups s
  | .dataFrame p groups => Sys2Proof.Machine.execDataFrame p groups s
  | .batonFrame p groups => Sys2Proof.Machine.execBatonFrame p groups s
  | .probeFrame p groups => Sys2Proof.Machine.execProbeFrame p groups s
  | .wrapFrame p groups => Sys2Proof.Machine.execWrapFrame p groups s
  | .timesyncFrame p groups => Sys2Proof.Machine.execTimesyncFrame p groups s
  | .timesyncPeriod => Sys2Proof.Machine.execTimesyncPeriod s
  | .batonTimeout => Sys2Proof.Machine.execBatonTimeout s
  | .legTimeout => Sys2Proof.Machine.execLegTimeout s
  | .dataRetransmitTimeout dst => Sys2Proof.Machine.execDataRetransmitTimeout dst s
  | .ringSleepSet => Sys2Proof.Machine.execRingSleepSet s
  | .ringSleepWake p relocked => Sys2Proof.Machine.execRingSleepWake p relocked s
  | .ringRelockTimeout p => Sys2Proof.Machine.execRingRelockTimeout p s
  | .pbufRdWrite m v => Sys2Proof.Machine.execPbufRdWrite m v s
  | .qsCountRead m lane slot => Sys2Proof.Machine.execQsCountRead m lane slot s
  | .qsClear m v => Sys2Proof.Machine.execQsClear m v s
  | .padFunctionChange m pad v => Sys2Proof.Machine.execPadFunctionChange m pad v s
  | .padParkEnd pad level => Sys2Proof.Machine.execPadParkEnd pad level s
  | .evtEnableWrite m gen v => Sys2Proof.Machine.execEvtEnableWrite m gen v s
  | .evtPulseStart gen => Sys2Proof.Machine.execEvtPulseStart gen s
  | .evtPulseEnd gen => Sys2Proof.Machine.execEvtPulseEnd gen s
  | .tapExtest => Sys2Proof.Machine.execTapExtest s
  | .tapSamplePreload preload => Sys2Proof.Machine.execTapSamplePreload preload s
  | .tapIdcode => Sys2Proof.Machine.execTapIdcode s
  | .tapClamp => Sys2Proof.Machine.execTapClamp s
  | .tapHighz => Sys2Proof.Machine.execTapHighz s
  | .tapBypass code => Sys2Proof.Machine.execTapBypass code s
  | .tapReset => Sys2Proof.Machine.execTapReset s
  | .lockSet m addr => Sys2Proof.Machine.execLockSet m addr s
  | .registerWrite m addr v => Sys2Proof.Machine.execRegisterWrite m addr v s
  | .slowRisingEdge wakeN gpio => Sys2Proof.Machine.execSlowRisingEdge wakeN gpio s
  | .patrolScrub tile err => Sys2Proof.Machine.execPatrolScrub tile err s
  | .heartbeatIncrement => Sys2Proof.Machine.execHeartbeatIncrement s
  | .hostCoreLoadStore core machine addr len store => Sys2Proof.Machine.execHostCoreLoadStore core machine addr len store s
  | .forbiddenRegisterRead m addr => Sys2Proof.Machine.execForbiddenRegisterRead m addr s
  | .hotPlugDetectChange o level => Sys2Proof.Machine.execHotPlugDetectChange o level s
  | .ethernetLinkChange n up => Sys2Proof.Machine.execEthernetLinkChange n up s

end Sys2Proof.Machine
end

