-- ==== Sys2Proof/Machine/Idle.lean ====
section
/-! DEFINITION. What the block does when no command waits: the passing of one TIME tick. -/

namespace Sys2Proof.Machine

/-- One tick of TIME (R68) while it runs: a 64-bit count. The opcode table has no row for a tick, so an empty queue gives
one. DESIGN CHOICE (assumption 1). -/
def idleTick (s : State) : State :=
  if s.clk.running then { s with clk := { s.clk with time := (s.clk.time + 1) % 2 ^ 64 } } else s

/-- A command and the state it acts on: the front of the queue, with the rest left waiting. -/
def takeCommand (s : State) : Option (Instr × State) :=
  match s.pending with
  | [] => none
  | c :: rest => some (c, { s with pending := rest })

end Sys2Proof.Machine
end

