-- ==== Sys2Proof/Safety.lean ====
section
/-! DEFINITION. What counts as a well-formed state of the block: the canonical form of the sparse tables that hold memory,
boot flash and the register file. -/

namespace Sys2Proof.Machine

/-- What a byte of the flash device reads as when nothing has programmed it. -/
def flashInit (_ : Nat) : Byte := 0xFF

/-- The canonical form of memory: addresses rise strictly and no entry equals what an unlisted address reads as. -/
def Memory.wf (m : List Host.Cell) : Bool := tabWf memInit m

/-- Memory, boot flash, the register file and the read latches are in canonical form. -/
def State.Inv (s : State) : Bool :=
  Memory.wf s.ms.mem && tabWf flashInit s.ms.flash && tabWf regReset s.regs && tabWf (fun _ => 0) s.bus.latches

end Sys2Proof.Machine
end

