-- ==== Sys2Proof/Certificates/Slice0/Obligations.lean ====
section
/-! DEFINITION. The statements about the model. Each says in its docstring what it claims and the rules it rests on. -/

open Sys2Proof Sys2Proof.Machine

/-- A step carries out the command at the front of the queue. For every command c and every state s, one step of s with c
at the front of its queue is exec of c on s with the rest of the queue left waiting. (spec/95_what_each_step_holds.md) -/
def Obligations.StepRunsTheFrontCommand : Prop :=
  ∀ (c : Instr) (s : State) (rest : List Instr),
    step { s with pending := c :: rest } = exec c { s with pending := rest }

/-- On an empty queue one TIME tick passes (the model's choice, assumption 1). With no command waiting a step adds one to
the 64-bit TIME while TIME runs, changes nothing else, and leaves a stopped TIME alone. That an empty queue passes a
tick is the model's choice (assumption 1). (spec/02_time_clocks_and_sleep.md) -/
def Obligations.EmptyQueuePassesOneTick : Prop :=
  ∀ s : State, s.pending = [] →
    step s = .next (if s.clk.running then { s with clk := { s.clk with time := (s.clk.time + 1) % 2 ^ 64 } } else s)

/-- No command ends in a fault or a refusal. Whatever the command and the state, exec answers a next state: no row of the
opcode table is refused and none stops the block. (spec/95_what_each_step_holds.md) -/
def Obligations.EveryCommandAnswersANextState : Prop :=
  ∀ (c : Instr) (s : State), ∃ t : State, exec c s = .next t

/-- A command leaves the commands that wait behind it as they are. If exec of any command answers a next state, the queue
of waiting commands is the one it was given. (spec/95_what_each_step_holds.md) -/
def Obligations.NoCommandTouchesTheQueue : Prop :=
  ∀ (c : Instr) (s t : State), exec c s = .next t → t.pending = s.pending

/-- The count of free values drawn never falls. Where the spec leaves a value open the model draws the free value numbered
by State.free, the model's own field. No step lowers that number, so no free value is drawn twice. (spec/00_scope.md) -/
def Obligations.NoFreeValueIsDrawnTwice : Prop :=
  ∀ s t : State, step s = .next t → s.free ≤ t.free

/-- The state after reset has its memory, flash and registers in canonical form. In State.reset memory, boot flash, the
register file and the read latches are canonical: keys rise strictly and no entry equals what an unlisted key reads
as. (spec/00_scope.md, spec/07_memory_lanes_and_translation.md) -/
def Obligations.ResetIsCanonical : Prop :=
  State.Inv State.reset

/-- Every step keeps memory, flash and registers in canonical form. From every state whose memory, boot flash, register
file and read latches are canonical, a step that answers a next state answers one whose memory, boot flash, register
file and read latches are canonical. So equal contents are equal data after any commands. (spec/00_scope.md,
spec/07_memory_lanes_and_translation.md) -/
def Obligations.EveryStepKeepsTheCanonicalForm : Prop :=
  ∀ s t : State, State.Inv s → step s = .next t → State.Inv t

/-- Bytes stored in SRAM read back, and every other byte is as before. Outside LPDDR5X, where no cipher stands between,
bytes stored at a physical address are the bytes held there afterwards, and every byte outside the stored range reads
as before. (spec/07_memory_lanes_and_translation.md) -/
def Obligations.StoredBytesReadBackAndNothingElseMoves : Prop :=
  ∀ (s : State) (pa k : Nat) (bs : List Byte), State.Inv s → pa + bs.length ≤ 0x800000000 →
    rdRaw (wrMem s pa k bs) pa bs.length = bs ∧
    ∀ a, a < pa ∨ pa + bs.length ≤ a → rdByte (wrMem s pa k bs) a = rdByte s a

/-- A violation-log entry holds its eight words at slot WR mod 64, and WR counts it. For every state with canonical
registers an entry writes its eight words (TIME, address, master, instance and kind, queue, status and opcode, seq,
index) at slot WR mod 64 and adds one to CMDP_VLOG_WR; memory is untouched. (spec/04_command_packets.md) -/
def Obligations.ViolationLogEntryIsWrittenWhole : Prop :=
  ∀ (s : State) (kind addr master : Nat) (inst : Option Nat) (c : LogCtx), State.Inv s →
    let t := vlog s kind addr master inst c
    let wr := s.getF CMDP_VLOG_WR.wr
    t.getF CMDP_VLOG_WR.wr = (wr + 1) % 2 ^ 32 ∧ t.ms = s.ms ∧
    (List.range 8).map (fun j => t.rd (CMDP_VLOG.addr (8 * (wr % 64) + j))) =
      [s.now % 2 ^ 32, s.now / 2 ^ 32, addr % 2 ^ 32, addr / 2 ^ 32,
       master + 2 ^ 16 * (match inst with | some i => i % 16 | none => 0x80) + 2 ^ 24 * kind,
       c.queue + 2 ^ 8 * c.status + 2 ^ 16 * c.opcode, c.seq, wr].map (BitVec.ofNat 32)

/-- A packet that ends before an earlier one of its queue holds its record. When a packet ends while the oldest packet of
its queue without a record has not ended, its reply is held with it, no access of it waits for the pacers any more, and
nothing else changes: no record is written out of index order. (spec/04_command_packets.md) -/
def Obligations.RecordWaitsForEarlierPackets : Prop :=
  ∀ (s : State) (q idx : Nat) (p o : Pkt) (r : Reply), s.pkt q idx = some p → s.pkt q (s.queue q).done = some o →
    o.phase ≠ .ended → (s.queue q).done ≠ idx →
    endPkt s q idx r = dropPktWaits (s.setPkt { p with phase := .ended, reply := some r, out := none }) q idx

/-- The job format: lateness, restarts used, and when a deadline is met. For a job that completes with ST_OK at tick c,
with deadline d and r restarts: bits 27:0 of the detail are the lateness c - d, at most 0x0FFFFFFF, and 0 when the
deadline is met (c at or before d) or there is none (d = 0); bits 30:28 are the restarts used, at most 7, and bit 31
is 0. Late, with or without restarts, the status is ST_DEADLINE_MISS (0x30); in time after restarts it is 0x31; else
it stays ST_OK. (R132) -/
def Obligations.DeadlineJudgesTheFinalStatus : Prop :=
  ∀ d c r : Nat,
    (judge d c r 0 0).2 % 2 ^ 28 = (if d = 0 ∨ c ≤ d then 0 else min (c - d) 0x0FFFFFFF) ∧
    (judge d c r 0 0).2 / 2 ^ 28 % 2 ^ 3 = min r 7 ∧ (judge d c r 0 0).2 / 2 ^ 31 = 0 ∧
    (judge d c r 0 0).1 = (if d ≠ 0 ∧ d < c then 0x30 else if r ≠ 0 then 0x31 else 0)

/-- A power-on reset resets everything but flash and the key store. POWER_ON_RESET answers the reset state itself, with
boot flash, the instances' keys and the rollback floor kept, and the model's own queue and free-value count. (R79,
R15, R39) -/
def Obligations.PowerOnResetLeavesTheResetState : Prop :=
  ∀ (c : PorCause) (s : State), exec (.powerOnReset c) s = .next { State.reset with
      ms := { State.reset.ms with flash := s.ms.flash, keys := s.ms.keys, floor := s.ms.floor }
      free := s.free
      pending := s.pending }

/-- Resets, rail losses and the faults before the triplet runs. From reset a released POR_N starts the ROM: at once where no
pair (TIME, SLOW) has been recorded, else with the restart of TIME on the next SLOW rising edge. A Sage reset, and the
loss of a group B rail seen by its monitor or otherwise, reset the Sage die; from OFF, which only a power-on reset leaves,
neither does anything. The trip of a group C rail is recorded and judged if its monitor watched the rail at its tick,
once that tick is over; a rail that is not watched, or commanded off in that tick or before, records none. Before the
triplet first runs a core fault fails the Sage attempt with cause 0x09 and resets it.
(R79, R35, R36, R34, R58, R74, R82, R621) -/
def Obligations.ResetsAndRailLossesTakeEffect : Prop :=
  (∀ (st : SageStart) (s : State), s.boot.sage = .held → s.clk.stopValid = false →
      exec (.porNRelease st) s = .next (romStart (timeFrom s 0) st)) ∧
    (∀ (st : SageStart) (s : State), s.boot.sage = .held → s.clk.stopValid = true →
      exec (.porNRelease st) s = .next (romWait s st)) ∧
    (∀ (st : SageStart) (w g : Nat) (s : State), s.clk.restartDue = true → s.boot.startDue = some st →
      ∃ t u : State, t.clk.slow = (s.clk.slow + 1) % 2 ^ 48 ∧ t.clk.time = s.clk.time ∧ t.regs = s.regs ∧
        u = romStart (timeRestart t) st ∧ (u.clk.running = true → u.clk.stopDue = false →
          exec (.slowRisingEdge w g) s = .next (padSample (recordPair u) g))) ∧
    (∀ s : State, s.clk.mode ≠ .off → exec .sageReset s = .next (sageResetState s)) ∧
    (∀ s : State, s.clk.mode = .off → exec .sageReset s = .next s) ∧
    (∀ (r : Rail) (n : Nat) (s : State), railIdx r = none →
      exec (.groupBRailLoss r) s = .next (groupBLoss s r) ∧ exec (.railMonitorTrip r n) s = .next (groupBLoss s r)) ∧
    (∀ (r : Rail) (s : State), s.clk.mode = .off → groupBLoss s r = s) ∧
    (∀ (r : Rail) (k n : Nat) (s : State), railIdx r = some k → (s.rail k).watched = true →
      (s.rail k).on = true ∨ n < (s.rail k).offAt → n < s.now →
      exec (.railMonitorTrip r n) s = .next (groupCLoss s r k)) ∧
    (∀ (r : Rail) (k n : Nat) (s : State), railIdx r = some k →
      (s.rail k).watched = false ∨ ((s.rail k).on = false ∧ (s.rail k).offAt ≤ n) →
      exec (.railMonitorTrip r n) s = .next s) ∧
    (∀ (f : CoreFault) (s : State), s.boot.tripletRan = false → s.boot.sage ≠ .held →
      exec (.preTripletCoreFault f) s = .next (sageReset (sageFail s 0x09)))

/-- A Sage reset stops TIME, holds the main die in reset and keeps the always-on domain. After SAGE_RESET taken in a power
state other than OFF, TIME is stopped at the value it had, the main die is held in reset, the Sage die waits for its start, no packet, job or lane is left,
and flash, the key store and the SLOW count are as before. (R79, R80, R573) -/
def Obligations.SageResetKeepsTheAlwaysOnDomain : Prop :=
  ∀ s : State, s.clk.mode ≠ .off → ∃ t : State, exec .sageReset s = .next t ∧ t.clk.time = s.clk.time ∧ t.clk.running = false ∧
    t.clk.slow = s.clk.slow ∧ t.boot.sage = .held ∧ t.boot.main = .idle ∧ t.pkts = [] ∧ t.jobs = [] ∧ t.lanes = [] ∧
    t.ms.flash = s.ms.flash ∧ t.ms.keys = s.ms.keys ∧ t.ms.floor = s.ms.floor

/-- The Sage attempt: backoff, watchdog and BOOT_ALIVE. When a backoff ends the waiting sequence makes its next attempt.
After the expiry tick with no BOOT_ALIVE the attempt fails with cause 0x08 and a Sage reset follows. Tsuquel's write
of 0x0000A11E no later than that tick ends the attempt as a success; Tsuquel's write of 1 to BOOT_CTRL.sage_reset
resets the Sage die. (R82, R83, R84, R90, R91) -/
def Obligations.SageStartRetriesAndEnds : Prop :=
  (∀ (x : Bool) (s : State), s.boot.backoffUntil ≤ s.now → s.boot.sage = .backoff →
      exec (.backoffExpiry x) s = .next (sageAttempt { s with boot := { s.boot with xspiError := x } })) ∧
    (∀ (x : Bool) (s : State), s.boot.mainUntil ≤ s.now → s.boot.sage ≠ .backoff → s.boot.main = .backoff →
      exec (.backoffExpiry x) s = .next { endBackoff s with boot := { (endBackoff s).boot with main := .start } }) ∧
    (∀ s : State, s.boot.sage = .waitAlive → s.boot.watchdog < s.now →
      exec .bootWatchdogExpiry s = .next (sageReset (sageFail s 0x08))) ∧
    (∀ s : State, s.boot.sage = .waitAlive → s.now ≤ s.boot.watchdog →
      exec (.bootAliveWrite .tsuquel 0xA11E) s = .next (bootAlive (plainWrite s .tsuquel BOOT_ALIVE.addr 0xA11E).1)) ∧
    (∀ s : State, exec (.sageResetWrite .tsuquel 1) s =
      .next (sageReset (plainWrite s .tsuquel BOOT_CTRL.addr 1).1))

/-- The steps of a main-die attempt and the falling rails. A rail that reports good within 500,000 ticks of its command is
watched, and the next goes on 10,000 ticks later; one not good by then fails the attempt with cause 0x10 and every rail
raised goes down. 10,000 ticks after the last rail is good steps 2 to 6 run; a step past its limit fails with its cause.
A falling rail that reads below 0.30 V, or has fallen for 100,000 ticks, is down and the next OFF goes out.
(R30, R31, R32, R99, R100, R499) -/
def Obligations.MainDieBringUpTakesItsSteps : Prop :=
  (∀ (r : Rail) (k : Nat) (s : State), railIdx r = some k → s.boot.main = .rails k → (s.rail k).onAt ≤ s.now →
      s.now ≤ (s.rail k).onAt + 500000 → exec (.groupCRailGood r) s = .next (railIsGood s k)) ∧
    (∀ (k j : Nat) (s : State), nextRail (setRailGood (s.setRail k { s.rail k with watched := true }) (4 + k) true) = some j →
      ((railIsGood s k).rail j).onAt = s.now + 10000 ∧ (railIsGood s k).boot.main = .rails j) ∧
    (∀ (k : Nat) (s : State), s.boot.main = .rails k → (s.rail k).onAt + 500000 < s.now →
      exec .railGoodTimeout s = .next (railFail s)) ∧
    (∀ (b : Bool) (k : Nat) (s : State), s.pwr.down = [k] → b = true ∨ (s.rail k).offAt + 100000 ≤ s.now →
      exec (.railOffDone b) s = .next (downDone
        (let u := railLoses (setRailGood s (4 + k) false) k; { u with pwr := { u.pwr with down := [] } }))) ∧
    (∀ (b : Bool) (k j : Nat) (ks : List Nat) (s : State), s.pwr.down = k :: j :: ks →
      b = true ∨ (s.rail k).offAt + 100000 ≤ s.now →
      exec (.railOffDone b) s = .next (railOff
        (let u := railLoses (setRailGood s (4 + k) false) k; { u with pwr := { u.pwr with down := j :: ks } }) j)) ∧
    (∀ (e : MainStart) (s : State), s.boot.main = .start → s.pwr.down = [] → s.clk.running = true →
      exec (.mainDieBringUp e) s = .next (mainBegin s e)) ∧
    (∀ (e : MainStart) (s : State), s.boot.main = .step2 → s.boot.stepAt ≤ s.now →
      exec (.mainDieBringUp e) s = .next (mainSteps s e)) ∧
    (∀ s : State, s.boot.main = .step2 ∨ s.boot.main = .ready → s.boot.stepAt + 100000 < s.now →
      exec .mainStepTimeout s = .next (mainFail s 0x14)) ∧
    (∀ s : State, s.boot.main = .tests → s.boot.stepAt + 1480000 < s.now →
      exec .mainStepTimeout s = .next (mainFail s 0x13))

/-- A sensor at 118 °C or above at step 1 fails the main-die attempt with cause 0x16. At step 1 of a main-die attempt, if
any sensor read (sensor 12 always, the others while VDD_SOC is good) is at 118 °C or above (182 in the code of degrees plus 64), the attempt fails with cause 0x16:
BOOT_STATUS.last_cause is 0x16, and the sequence waits out the backoff of its count of failures. (R499) -/
def Obligations.HotSensorFailsTheAttempt : Prop :=
  ∀ (e : MainStart) (s : State) (n x : Nat), State.Inv s → s.boot.main = .start → s.pwr.down = [] → s.clk.running = true →
    n < 13 → n = 12 ∨ railGood s 2 = true → e.temps.getD n none = some x → 182 ≤ x →
    ∃ t : State, exec (.mainDieBringUp e) s = .next t ∧ t.getF BOOT_STATUS.last_cause = 0x16 ∧ t.boot.main = .backoff ∧
      t.boot.mainUntil = s.now + backoffMs (t.getF BOOT_MAIN_CONSEC.n) * 100000

/-- Checker tests end their windows, and the main die first accepts jobs. An injection window judges its test; the last
window of a SAF_TEST ends it with the mask of failed tests. Once every step of a bring-up has ended, with the safe pins
asserted for 100 µs at least if a safe state is ending, or once a DOZE exit may end, jobs are accepted. Background tests run 100,000,000 ticks after the last. (R97, R98, R99, R104, R105, R522,
R523, R600) -/
def Obligations.TestsAndAcceptance : Prop :=
  (∀ (k : Nat) (r : InjReport) (s : State), s.boot.run ≠ .safTest →
      exec (.injectionWindowEnd k r) s = .next (windowEnd s k r)) ∧
    (∀ (k : Nat) (r : InjReport) (s : State), s.boot.run = .safTest → s.boot.left = [k] →
      exec (.injectionWindowEnd k r) s = .next (safTestDone (windowEnd s k r)
        (orN (s.getF BOOT_TEST_FAIL.ck) (if r = .expected then 0 else testBit k)))) ∧
    (∀ s : State, mayAccept s = true → exec .jobsAccepted s = .next (acceptAfterReset s)) ∧
    (∀ s : State, mayAccept s = true → s.flag SAF_STATUS.safe = true →
      s.get64 SAF_LAST_ENTRY_LO.lo SAF_LAST_ENTRY_HI.hi + 10000 ≤ s.now) ∧
    (∀ s : State, mayAccept s = false → dozeMayEnd s = true → exec .jobsAccepted s = .next (acceptAfterDoze s)) ∧
    (∀ (rs : List InjReport) (s : State), s.boot.main = .up → s.clk.mode = .on → s.boot.run = .none →
      s.saf.bgAt + 100000000 ≤ s.now →
      exec (.backgroundTest rs) s = .next (windowEnds
        (openRun { s with saf := { s.saf with bgAt := s.now } } .background [1, 2, 3, 4]) [1, 2, 3, 4] rs))

/-- The acceptance after a bring-up deasserts the safe pins and turns the T32 on. When jobs are accepted after a bring-up
the command processor accepts packets' work, CLK_STATE shows ON, the consecutive main-die failures are zero, and
SAFE_STATE_N and DISP_FALLBACK are deasserted. (R90, R95, R105, R528, R530, R619) -/
def Obligations.AcceptanceEndsTheSafeState : Prop :=
  ∀ s : State, mayAccept s = true → State.Inv s →
    ∃ t : State, exec .jobsAccepted s = .next t ∧ t.boot.main = .up ∧ t.clk.mode = .on ∧ t.pins.safeState = false ∧
      t.pins.dispFallback = false

/-- The causes of the safe state. A flit whose third replay fails, a TIME copy of a released main die two ticks or more from
the master (one tick is no fault), no response from the main
die, a duplicate check that disagrees, a lost main-die PLL, REFCLK outside tolerance, a lockstep mismatch, a heartbeat
missed and an uncorrectable Sage SRAM error each bring their cause, with the core restart and the FAULT_N cause that
go with it. (R16, R69, R512, R514, R524, R525, R528, R621) -/
def Obligations.SafeStateCausesStartIt : Prop :=
  (∀ (n : Nat) (s : State), 3 ≤ n → exec (.sageLinkFlitError n) s = .next (safeCause s 0x05)) ∧
    (∀ (n : Nat) (s : State), n < 3 → exec (.sageLinkFlitError n) s = .next s) ∧
    (∀ (d : Nat) (n : Int) (s : State), d ∈ [3, 4, 5, 6, 7, 8, 9, 10, 11, 12] → mainReleased s = true → ∃ t : State,
      t = { s with clk := { s.clk with copies := tabPut (fun _ => (0 : Int)) s.clk.copies d n } } ∧
      (2 ≤ n.natAbs →
        exec (.timeCopyMismatch d n) s = .next (safeCause (t.setF TIME_STATUS.dist_error 1) 0x06)) ∧
      (n.natAbs = 1 → exec (.timeCopyMismatch d n) s = .next t)) ∧
    (∀ s : State, exec .mainDieNoResponse s = .next (safeCause s 0x0B)) ∧
    (∀ s : State, exec .duplicateCheckDisagree s = .next (safeCause s 0x0C)) ∧
    (∀ (k : Nat) (s : State), bitB (s.getF CLK_PLL_STATUS.lock) k = true → k < 13 → bitB mainPlls k = true →
      exec (.pllUnlock k) s =
        .next (safeCause ((setPlls s (2 ^ k) false).setF SAF_CLKMON.pll_unlock 1) 0x0A)) ∧
    (∀ s : State, refclkNeeded s = true → exec .refclkBad s = .next
      (safeCause (let u := setCause (s.setF SAF_CLKMON.refclk_bad 1) 5 true
        { u with saf := { u.saf with refBadAt := u.now } }) 0x0A)) ∧
    (∀ s : State, tsuquelRuns s = true → s.boot.tripletRan = true → exec .lockstepMismatch s = .next
      (cpRestart (safeCause (sweepFault (setCause (s.addSat SAF_LS_MISMATCH.n 1) 2 true)) 0x02))) ∧
    (∀ s : State, cpRuns s = true → s.boot.tripletRan = false → s.boot.sage ≠ .held →
      exec .lockstepMismatch s = .next (sageReset (sageFail s 0x09))) ∧
    (∀ s : State, s.boot.tripletRan = true → tsuquelRuns s = true → s.saf.beatAt + 1000000 ≤ s.now →
      exec .heartbeatMiss s = .next (cpRestart (safeCause (sweepFault (setCause s 2 true)) 0x03))) ∧
    (∀ s : State, s.boot.tripletRan = true → tsuquelRuns s = true →
      exec .sageSramUe s = .next (cpRestart (safeCause (setCause s 2 true) 0x0D)))

/-- The safe state asserts its pins, resets the main die and counts. With the main die in use a cause asserts SAFE_STATE_N
and DISP_FALLBACK, records the cause code and the entry's tick, puts the main die in reset with a warm restart due,
and no longer accepts jobs; TIME runs on. In the very tick of an acceptance the cause counts as before it, so the
attempt that the acceptance ended has failed and its backoff runs. (R525, R527, R104) -/
def Obligations.SafeStateEntryDoesWhatR525Says : Prop :=
  ∀ (s : State) (code : Nat), State.Inv s → code < 256 → s.boot.sage = .up → s.boot.main = .up →
    let t := safeCause s code
    (acceptedNow s ≠ none → t.boot.main = .backoff) ∧
    (acceptedNow s = none →
    t.pins.safeState = true ∧ t.pins.dispFallback = true ∧ t.boot.main = .start ∧ t.clk.time = s.clk.time ∧
    t.clk.running = s.clk.running ∧ accepting t = false ∧ t.getF SAF_STATUS.last_cause = code ∧ t.flag SAF_STATUS.safe = true)

/-- Heartbeats, triplet disagreements, resynchronisation and the holds of FAULT_N. The heartbeat counts, restarts its
watch and ends a restart of the command processor. A cause asserts FAULT_N for 10,000 ticks at least; a cause released
later leaves it asserted to the end of that tick. A disagreement of the triplet with an odd core starts its resynchronisation, or retires it at its fourth within
100,000,000 ticks; with none the triplet restarts. Resynchronisation ends; REFCLK is released 1,000,000 ticks after
its flag; the rate cause is released after 1,000,000,000 ticks. (R514, R515, R516, R517, R519, R528, R529, R600) -/
def Obligations.SafetyCoreEvents : Prop :=
  (∀ s : State, tsuquelRuns s = true → exec .heartbeatIncrement s = .next
      (let u := s.addWrap SAF_HEARTBEAT.n 1; { u with saf := { u.saf with beatAt := u.now, cpAt := none } })) ∧
    (∀ (b : Nat) (s : State), bitB (faultCauses s) b = false → s.flag SAF_FAULT.fault_n = false →
      (setCause s b true).pins.faultN = true ∧ (setCause s b true).saf.holdUntil = s.now + 10000 ∧
      ∀ u : State, u.saf.holdUntil = s.now + 10000 → u.now < s.now + 10000 → (faultPin u).pins.faultN = true) ∧
    (∀ (b : Nat) (s : State), bitB (faultCauses s) b = true → tabGet (fun _ => 0) s.saf.causeAt b ≠ s.now →
      (setCause s b false).saf.holdUntil = max s.saf.holdUntil (s.now + 1) ∧ (setCause s b false).pins.faultN = true) ∧
    (∀ s : State, s.boot.tripletRan = true → exec (.tripletDisagreement none) s = .next (tripletFailure s false)) ∧
    (∀ (k : Nat) (s : State), s.boot.tripletRan = true → s.saf.resync = none → s.saf.retired = none →
      exec (.tripletDisagreement (some k)) s = .next
        (let odds := (k, s.now) :: s.saf.odds.filter fun e => decide (s.now ≤ e.2 + 100000000)
         let u := s.setF SAF_TRI.odd k
         if 4 ≤ (odds.filter fun e => decide (e.1 = k)).length then
           setCause ((({ u with saf := { u.saf with odds := [], retired := some k } } : State).setF SAF_TRI.retired k).setF
             SAF_TRI.degraded 1) 4 true
         else (({ u with saf := { u.saf with odds := odds, resync := some k } } : State).addSat SAF_TRI.resyncs 1).setF
           SAF_STATUS.tri_resync 1)) ∧
    (∀ (k : Nat) (s : State), s.saf.resync = some k →
      exec .tripletResyncDone s = .next
        (({ s with saf := { s.saf with resync := none } } : State).setF SAF_STATUS.tri_resync 0)) ∧
    (∀ s : State, s.flag SAF_CLKMON.refclk_bad = true → s.saf.refBadAt + 1000000 ≤ s.now →
      exec .refclkRecovered s = .next (setCause (s.setF SAF_CLKMON.refclk_bad 0) 5 false)) ∧
    (∀ s : State, bitB (faultCauses s) 6 = true → s.saf.entries.headD 0 + 1000000000 ≤ s.now →
      exec .faultNHoldExpiry s = .next (faultPin (setCause s 6 false))) ∧
    (∀ s : State, bitB (faultCauses s) 6 = false → exec .faultNHoldExpiry s = .next (faultPin s))

/-- TIME reads, the rate adjustment, the SLOW edge and the sweep timer. A read of TIME_NOW_LO gives the low half and
latches the upper half for that master; a host core's read of its time CSR gives the TIME copy of its domain, HOST. A
rate adjustment by Tsuquel is clamped to ±200 ppm; another master's write is refused and logged. A SLOW edge advances
the 48-bit SLOW count, records the pair (TIME, SLOW) while TIME runs, and stops TIME where that is due. The sweep timer
keeps its phase. REFCLK is requested 64 SLOW ticks before an expiry in PARK.
(R62, R63, R69, R71, R72, R73, R74, R75, R76, R78, R43) -/
def Obligations.TimeIsReadSetAndSampled : Prop :=
  (∀ (m : BusMaster) (s : State), ∃ u : State, u = busDemand s m TIME_NOW_LO.addr ∧
      exec (.latchingLoRead m (.reg TIME_NOW_LO.addr)) s = .next { u with bus := { u.bus with
        data := u.clk.time % 2 ^ 32
        fault := false
        latches := tabPut (fun _ => 0) u.bus.latches (latchKey m TIME_NOW_HI.addr) (u.clk.time / 2 ^ 32 % 2 ^ 32) } }) ∧
    (∀ (c : Nat) (b : Bool) (s : State), mainReleased s = true → gated s 3 = false →
      exec (.latchingLoRead (.hostCore c b) .timeCsr) s = .next { s with bus := { s.bus with
        data := (((s.clk.time : Int) + tabGet (fun _ => (0 : Int)) s.clk.copies 3) % (2 : Int) ^ 64).toNat
        fault := false } }) ∧
    (∀ (v : Word) (s : State), exec (.timeRateAdjWrite .tsuquel v) s = .next (rateAdjust s (sext 32 v.toNat))) ∧
    (∀ (m : BusMaster) (v : Word) (s : State), isFirmware m = false →
      exec (.timeRateAdjWrite m v) s = .next (forbid (masterDemand s m) m TIME_RATE_ADJ.addr 4)) ∧
    (∀ (w g : Nat) (s : State), s.clk.restartDue = false → scanHolds s = false → ∃ u : State,
      u = { s with clk := { s.clk with
        slow := (s.clk.slow + 1) % 2 ^ 48
        wakeHist := (List.range 4).map fun n => (2 * s.clk.wakeHist.getD n 7 + b2n (bitB w n)) % 8 } } ∧
      (s.clk.running = false → exec (.slowRisingEdge w g) s = .next (padSample u g)) ∧
      (s.clk.running = true → s.clk.stopDue = false → exec (.slowRisingEdge w g) s = .next (padSample (recordPair u) g)) ∧
      (s.clk.running = true → s.clk.stopDue = true → s.clk.wakePending = false →
        exec (.slowRisingEdge w g) s = .next (padSample (sageSleep (recordPair u)) g))) ∧
    (∀ (n : Nat) (s : State), s.clk.nextSweep = some n → n ≤ s.clk.slow → s.clk.mode ≠ .park → s.ring.parkNext = none →
      exec .sweepTimerExpiry s = .next { s with clk := { s.clk with
        nextSweep := if s.getF CLK_SWEEP_PERIOD.period_s = 0 then none
                     else some (n + s.getF CLK_SWEEP_PERIOD.period_s * 32768) } }) ∧
    (∀ (n : Nat) (s : State), s.clk.nextSweep = some n → s.clk.mode = .park → n ≤ s.clk.slow + 64 →
      exec .refreqAssert s = .next { s with pins := { s.pins with refreq := true } })

/-- Wake events, and the entry of DOZE. A WAKE_N pin sampled low twice after a high sample latches its event, and in PARK
requests REFCLK. In DOZE a core's timer compare that TIME has reached latches event 7, and a PCIe link in use latches
event 5. In PARK a CAN controller with a wake filter is brought up. When every counted domain has been gated for
doze_hold ticks the entry of DOZE begins, with every main-die domain gated and the cores' compares moved to the Sage
die; given again the entry passes its commit point. (R43, R58, R59, R60, R65, R455, R460, R599) -/
def Obligations.WakeEventsLatch : Prop :=
  (∀ (pin : Nat) (s : State), pin < 4 → s.clk.wakeHist.getD pin 7 % 8 = 4 →
      exec (.wakeNLatch pin) s = .next (wakeEvent s pin)) ∧
    (∀ (pin : Nat) (s : State), State.Inv s → pin < 4 → s.clk.wakeHist.getD pin 7 % 8 = 4 → s.clk.mode = .park →
      ∃ t : State, exec (.wakeNLatch pin) s = .next t ∧ t.pins.refreq = true ∧
        bitB (t.getF CLK_WAKE_STATUS.hit) pin = true) ∧
    (∀ (core v : Nat) (s : State), s.clk.mode = .doze ∨ s.clk.mode = .dozeEntry → (core, v) ∈ s.clk.compares → v ≤ s.now →
      exec (.hostTimerCompare core) s = .next (wakeEvent s 7)) ∧
    (∀ (k : Nat) (s : State), s.clk.mode = .doze → k ∈ s.pcieUp → exec (.pcieWake k) s = .next (wakeEvent s 5)) ∧
    (∀ (c : Nat) (s : State), s.clk.mode = .park → c < 16 → canMode s c ≠ 0 → c ∉ s.io.canAwake →
      ((s.can c).filters.any fun f => bitB (leAt f 8 1) 1) = true →
      exec (.canWakeDetect c) s = .next { s with
        pins := { s.pins with refreq := true }
        io := { s.io with canAwake := c :: s.io.canAwake } }) ∧
    (∀ (cs : List (Option Nat)) (s : State), s.clk.mode = .on → accepting s = true → s.flag CLK_DOZE_HOLD.doze_en = true →
      dozeDoms.all (gated s) = true → s.clk.gatedSince + s.getF CLK_DOZE_HOLD.doze_hold ≤ s.now →
      exec (.dozeHoldExpiry cs) s = .next (dozeBegin s cs)) ∧
    (∀ (cs : List (Option Nat)) (s : State), s.clk.mode = .dozeEntry →
      exec (.dozeHoldExpiry cs) s = .next (dozeEntry s))

/-- Clock domains gate when idle, start on demand and change step. A running on-demand domain with no demand for idle_hold
ticks and no work is gated, once the tick of the expiry is over, and the tick at which a domain of the DOZE condition
was gated last is kept. A demand starts a gated
domain; SLOW, TIME, SAGE and DRAM do not start on demand. TILE moves toward its target by voltage changes of at most
50 mV. DRAM changes step only while DISP and SENS are gated. (R23, R46, R49, R50, R55, R56, R57) -/
def Obligations.DomainsGateStartAndStep : Prop :=
  (∀ (d : Nat) (s : State), s.clk.mode = .on → d ∈ [3, 4, 5, 6, 7, 8, 9, 12, 13] →
      s.getF (CLK_DOM_CTRL.idle_hold d) ≠ 0 → (s.dom d).lastDemand + s.getF (CLK_DOM_CTRL.idle_hold d) < s.now →
      domBusy s d = false → gated s d = false → exec (.domainIdleExpiry d) s = .next (gateDom s d)) ∧
    (∀ (d : Nat) (s : State), State.Inv s → d ∈ dozeDoms → gated s d = false →
      gated (gateDom s d) d = true ∧ (gateDom s d).clk.gatedSince = s.now) ∧
    (∀ (d : Nat) (s : State), d ∈ [3, 4, 5, 6, 7, 8, 9, 11, 12, 13] → exec (.domainDemand d) s = .next (demand s d)) ∧
    (∀ (d : Nat) (s : State), d ∈ [0, 1, 2, 10] → exec (.domainDemand d) s = .next s) ∧
    (∀ s : State, s.clk.mode ≠ .doze → exec .tileStepChange s = .next (tileAdvance s)) ∧
    (∀ (n : Nat) (s : State), s.pwr.avsDue = some n → n ≤ s.now → s.clk.mode ≠ .doze →
      exec .avsSettleExpiry s = .next (tileAdvance { s with pwr := { s.pwr with avsDue := none } })) ∧
    (∀ (n : Nat) (s : State), s.pwr.avsDue = some n → n ≤ s.now → s.clk.mode = .doze → s.clk.dozeExit = false →
      s.pwr.vTile ≠ 550 →
      exec .avsSettleExpiry s = .next (avsToward { s with pwr := { s.pwr with avsDue := none } } 550)) ∧
    (∀ (n : Nat) (s : State), s.pwr.avsDue = some n → n ≤ s.now → s.clk.mode = .doze → s.clk.dozeExit = false →
      s.pwr.vTile = 550 → s.clk.wakePending = true →
      exec .avsSettleExpiry s = .next (dozeExit { s with pwr := { s.pwr with avsDue := none } })) ∧
    (∀ (n : Nat) (s : State), s.pwr.avsDue = some n → n ≤ s.now → s.clk.mode = .doze → s.clk.dozeExit = true →
      exec .avsSettleExpiry s = .next
        (avsToward { s with pwr := { s.pwr with avsDue := none } } (tileVolt (s.dom 4).held))) ∧
    (∀ s : State, s.clk.mode = .on → gated s 8 = true → gated s 9 = true → gated s 10 = false →
      exec .dramStepChange s = .next (setStep s 10 (s.getF (CLK_DOM_STATUS.target_step 10))))

/-- Every change of the VDD_TILE target is of at most 50 mV and waits 20 µs. Whenever an AVS target is set toward a
voltage the new target differs from the present one by at most 50 mV, lies between the two, and the wait of 2,000
ticks begins; at the voltage already, or while the wait of an earlier change lasts, nothing changes. (R23) -/
def Obligations.VoltageStepsAreAtMostFiftyMillivolts : Prop :=
  ∀ (s : State) (mv : Nat),
    (s.pwr.vTile = mv ∨ s.pwr.avsDue ≠ none → avsToward s mv = s) ∧
    (s.pwr.vTile ≠ mv → s.pwr.avsDue = none → (avsToward s mv).pwr.avsDue = some (s.now + 2000) ∧
      (avsToward s mv).pwr.vTile ≤ s.pwr.vTile + 50 ∧ s.pwr.vTile ≤ (avsToward s mv).pwr.vTile + 50 ∧
      (avsToward s mv).pwr.vTile ≠ s.pwr.vTile ∧
      min s.pwr.vTile mv ≤ (avsToward s mv).pwr.vTile ∧ (avsToward s mv).pwr.vTile ≤ max s.pwr.vTile mv)

/-- A read of TIME_NOW_LO and then of TIME_NOW_HI gives one 64-bit value. A read of TIME_NOW_LO gives bits 31:0 of TIME
and latches bits 63:32 for that master. In every later state that still holds those latches, whatever TIME then is,
that master's read of TIME_NOW_HI gives the latched half and keeps the latches, so the two words are the TIME of the
first read; a read of TIME_NOW_HI with no read of TIME_NOW_LO before it gives the value of the last latch. (R72) -/
def Obligations.TimeReadsAreConsistent : Prop :=
  ∀ (m : BusMaster) (s : State), State.Inv s → s.clk.time < 2 ^ 64 →
    ∃ t : State, exec (.latchingLoRead m (.reg TIME_NOW_LO.addr)) s = .next t ∧ t.bus.data = s.clk.time % 2 ^ 32 ∧
      t.clk.time = s.clk.time ∧
      ∀ u : State, u.bus.latches = t.bus.latches →
        ∃ v : State, exec (.latchingLoRead m (.reg TIME_NOW_HI.addr)) u = .next v ∧ v.bus.data = s.clk.time / 2 ^ 32 ∧
          v.bus.data * 2 ^ 32 + t.bus.data = s.clk.time ∧ v.bus.latches = t.bus.latches

/-- Doorbells, queue enable and disable, and the drain of the violation log. A doorbell by a permitted master on an
enabled queue, stopped or not, sets the tail where the value is valid; a value beyond the free slots is logged with kind 6
and stops the queue; an access of a host core or over PCIe is a demand on that master's domain. A write of CMDP_QCFG enables a queue whose settings are valid and disables an enabled one.
CMDP_VLOG_RD moves as the drain rule says. A master with no writable bit is refused and logged. (R55, R116, R117, R121,
R125, R140, R608) -/
def Obligations.QueueRegistersActAsWritten : Prop :=
  ∀ (m : BusMaster) (v : Word) (s u : State), u = masterDemand s m →
    (∀ (q : Nat) (r : RegRow) (i : Nat), q < 64 → findReg (CMDP_DB.addr q) = some (r, i) →
      (writeMask u m r i v.toNat ≠ 0 → u.flag (CMDP_QCFG.enable q) = true → v.toNat ≠ u.getF (CMDP_DB.tail q) →
        doorbellOk u q v.toNat = true → exec (.doorbellWrite m q v) s = .next (u.setF (CMDP_DB.tail q) v.toNat)) ∧
      (writeMask u m r i v.toNat ≠ 0 → u.flag (CMDP_QCFG.enable q) = true → v.toNat ≠ u.getF (CMDP_DB.tail q) →
        doorbellOk u q v.toNat = false → exec (.doorbellWrite m q v) s = .next (writeStatus (stopQueue
          (vlog u 6 (CMDP_DB.addr q) (masterId m) (masterInst u m) (qCtx q)) q 1) q)) ∧
      (writeMask u m r i v.toNat = 0 → exec (.doorbellWrite m q v) s = .next (forbid u m (CMDP_DB.addr q) 4))) ∧
    (∀ (q : Nat) (r : RegRow) (i : Nat), q < 64 → findReg (CMDP_QCFG.addr q) = some (r, i) →
      (writeMask u m r i (putBits v.toNat 8 1 1) ≠ 0 → u.flag (CMDP_QCFG.enable q) = false → drained u q = true →
        ∀ x : State, x = (u.setF (CMDP_QCFG.log2_entries q) (bits (putBits v.toNat 8 1 1) 0 4)).setF
          (CMDP_QCFG.slot_code q) (bits (putBits v.toNat 8 1 1) 4 4) → queueSetOk x q = true →
        exec (.queueEnable m q v) s = .next (enableQueue x q)) ∧
      (writeMask u m r i (putBits v.toNat 8 1 0) ≠ 0 → u.flag (CMDP_QCFG.enable q) = true →
        (u.rd (CMDP_QCFG.addr q)).toNat % 256 = v.toNat % 256 →
        exec (.queueDisable m q v) s = .next (u.setF (CMDP_QCFG.enable q) 0))) ∧
    (∀ (r : RegRow) (i x : Nat), findReg CMDP_VLOG_RD.addr = some (r, i) → writeMask u m r i v.toNat ≠ 0 →
      drainRd 64 (u.getF CMDP_VLOG_WR.wr) (u.getF CMDP_VLOG_RD.rd) v.toNat = some x →
      exec (.vlogRdWrite m v) s = .next (u.setF CMDP_VLOG_RD.rd x))

/-- A packet is consumed, starts when its fence and its target allow, and times out. A packet at the head of an enabled
queue is read and validated once the pacers admit its reads. One whose start is allowed has its preconditions judged,
and either ends with their failure or is started. A wait whose timeout tick has passed ends as its opcode says; SYS_WAIT
gives ST_OK with its event and detail bit 31. (R118, R119, R123, R127, R129, R143, R144, R150, R283, R467) -/
def Obligations.PacketsAreConsumedStartedAndTimedOut : Prop :=
  (∀ (q : Nat) (s t : State), q < 64 → mayConsume s q = true → Admitted (.consume q) (fun u => consume u q) s t →
      exec (.packetConsume q) s = .next t) ∧
    (∀ (q i : Nat) (s t : State) (p : Pkt), s.pkt q i = some p → startable s p = true →
      Admitted (.start q i) (fun u => startPkt u p) s t → exec (.packetStart q i) s = .next t) ∧
    (∀ (s u : State) (p : Pkt), lanePre s p = (u, .ok) →
      startPkt s p = u.setPkt { p with phase := .started, began := u.now }) ∧
    (∀ (s u : State) (p : Pkt) (d : Nat), lanePre s p = (u, .bad d) → startPkt s p = preFail u p d) ∧
    (∀ (s u : State) (p : Pkt) (off va : Nat), lanePre s p = (u, .xlat off va) → startPkt s p = deferFail u p off va) ∧
    (∀ (s u : State) (p : Pkt) (pa : Nat), lanePre s p = (u, .poison pa) → startPkt s p = endPlain u p 0x40 0 pa) ∧
    (∀ (q i : Nat) (s : State) (p : Pkt), s.pkt q i = some p → timedOut s p = true →
      exec (.waitTimeout q i) s = .next (timeoutEnd s p)) ∧
    (∀ (s : State) (p : Pkt), p.opcode = 0x0004 → timeoutEnd s p = complete s p 0 (p.u 0 1 + 2 ^ 31) 0)

/-- A packet does not start while its fence is closed or its instance is quiesced or frozen. A consumed packet with a
fence does not start before every earlier packet of its queue has its record, and no packet starts while its instance
is quiesced or frozen: PACKET_START then changes nothing. (R129, R143, R191, R193, R467) -/
def Obligations.StartHoldsBackFencedAndFrozenPackets : Prop :=
  ∀ (q i : Nat) (s : State) (p : Pkt), s.pkt q i = some p →
    (bitB p.flags 2 = true → (s.queue p.q).done ≠ p.idx → exec (.packetStart q i) s = .next s) ∧
    (instState s p.inst = 2 ∨ instState s p.inst = 3 → exec (.packetStart q i) s = .next s)

/-- The system opcodes. A started packet of a system opcode whose preconditions hold, with the accesses it makes admitted by
the pacers: SYS_NOP completes; SYS_INFO writes
its block; SYS_TIME sets the rate source and the adjustment and answers the adjustment in effect; SYS_SIGNAL sets its
event after completing; SYS_WAIT completes at once on a set flag and else waits; SYS_FLASH_WRITE programs its range;
SYS_FLASH_CHECK answers the slot's cause; SYS_ROLLBACK raises the floor and never lowers it. (R78, R151, R152, R153,
R154, R155) -/
def Obligations.SystemOpcodesAnswer : Prop :=
  (∀ (q i : Nat) (s : State) (p : Pkt), startedPkt s q i 0x0000 = some p →
      exec (.sysNop q i) s = .next (complete s p 0 0 0)) ∧
    (∀ (q i : Nat) (s t : State) (p : Pkt), startedPkt s q i 0x0001 = some p →
      Admitted (.packet q i) (fun u => outAndEnd u p (p.u 0 8) (sysInfoBytes u p.inst) 0) s t →
      exec (.sysInfo q i) s = .next t) ∧
    (∀ (q i : Nat) (s : State) (p : Pkt), startedPkt s q i 0x0002 = some p → p.u 0 1 ≠ 2 → p.u 1 1 = 0 →
      exec (.sysTime q i) s = .next (let u := s.setF TIME_CTRL.rate_src (p.u 0 1)
        complete u p 0 (u.getF TIME_RATE_ADJ.adj) 0)) ∧
    (∀ (q i : Nat) (s : State) (p : Pkt), startedPkt s q i 0x0002 = some p → p.u 0 1 = 1 → p.u 1 1 = 1 →
      exec (.sysTime q i) s = .next (let u := rateAdjust (s.setF TIME_CTRL.rate_src 1) (sext 32 (p.u 4 4))
        complete u p 0 (u.getF TIME_RATE_ADJ.adj) 0)) ∧
    (∀ (q i : Nat) (s : State) (p : Pkt), startedPkt s q i 0x0003 = some p →
      exec (.sysSignal q i) s = .next (signalEvent (complete s p 0 0 0) (qOwner q) (p.u 0 1))) ∧
    (∀ (q i : Nat) (s : State) (p : Pkt), startedPkt s q i 0x0004 = some p → eventSet s (qOwner q) (p.u 0 1) = true →
      exec (.sysWait q i) s = .next (complete (if bitB (p.u 1 1) 0 then putEvent s (qOwner q) (p.u 0 1) false else s) p 0
        (p.u 0 1) 0)) ∧
    (∀ (q i : Nat) (s : State) (p : Pkt), startedPkt s q i 0x0004 = some p → eventSet s (qOwner q) (p.u 0 1) = false →
      exec (.sysWait q i) s = .next (s.setPkt { p with phase := .waiting })) ∧
    (∀ (q i : Nat) (b : Option Nat) (s t : State) (p : Pkt), startedPkt s q i 0x0010 = some p →
      Admitted (.packet q i) (preThen p preFlashWrite fun u p => match dmaRead u (pktWho p false) (p.u 8 8) (p.u 4 4) with
        | (v, .ok bs) => flashWrite v p bs b
        | (v, .error e) => endErr v p e) s t → exec (.sysFlashWrite q i b) s = .next t) ∧
    (∀ (s : State) (p : Pkt) (bs : List Byte), flashWrite s p bs none = complete (putFlash s (p.u 0 4) bs) p 0 0 0) ∧
    (∀ (q i : Nat) (x : Bool) (s : State) (p : Pkt), startedPkt s q i 0x0011 = some p →
      exec (.sysFlashCheck q i x) s = .next (complete s p 0 (slotCause s (p.u 0 1) x) 0)) ∧
    (∀ (q i : Nat) (s : State) (p : Pkt), startedPkt s q i 0x0012 = some p → p.u 0 4 ≤ runningRollback s →
      exec (.sysRollback q i) s = .next (complete { s with ms := { s.ms with floor := max s.ms.floor (p.u 0 4) } } p 0
        (max s.ms.floor (p.u 0 4)) 0))

/-- SYS_ROLLBACK raises the rollback floor and never lowers it. A started SYS_ROLLBACK whose floor does not exceed the
rollback field of the running slot's header completes: the key store's floor becomes the larger of the two, so a floor
at or below the present one leaves it, and the detail is the floor in effect afterwards. A larger floor fails as a
precondition at its parameter. Whatever the packet, the floor never decreases. (R155) -/
def Obligations.RollbackRaisesTheFloorAndNeverLowersIt : Prop :=
  (∀ (q i : Nat) (s : State) (p : Pkt), startedPkt s q i 0x12 = some p → p.u 0 4 ≤ runningRollback s →
      ∃ t : State, exec (.sysRollback q i) s = .next t ∧ t.ms.floor = max s.ms.floor (p.u 0 4) ∧
        t = complete { s with ms := { s.ms with floor := t.ms.floor } } p 0 t.ms.floor 0) ∧
    (∀ (q i : Nat) (s : State) (p : Pkt), startedPkt s q i 0x12 = some p → runningRollback s < p.u 0 4 →
      exec (.sysRollback q i) s = .next (preFail s p 0)) ∧
    (∀ (q i : Nat) (s t : State), exec (.sysRollback q i) s = .next t → s.ms.floor ≤ t.ms.floor)

/-- The lane and memory opcodes. A started packet whose preconditions hold, with its accesses admitted by the pacers, defines
or dissolves a lane, answers its block, sets an instance's translation root, drops translations, copies or fills (a copy
whose ranges share no physical byte writes the bytes read), loads a lane's Bay range, and records the budgets that wait
for the next window boundary. (R161, R162, R163, R164, R165, R166) -/
def Obligations.LaneAndMemoryOpcodesAct : Prop :=
  (∀ (q i : Nat) (s u : State) (p : Pkt), startedPkt s q i 0x2000 = some p → preLaneConfig s p = (u, .ok) → p.u 1 1 = 1 →
      exec (.laneConfig q i) s = .next (complete (laneDissolve u (p.u 0 1)) p 0 0 0)) ∧
    (∀ (q i : Nat) (s u : State) (p : Pkt), startedPkt s q i 0x2000 = some p → preLaneConfig s p = (u, .ok) → p.u 1 1 ≠ 1 →
      exec (.laneConfig q i) s = .next (complete (laneDefine u p) p 0 0 0)) ∧
    (∀ (q i : Nat) (s t : State) (p : Pkt), startedPkt s q i 0x2001 = some p →
      Admitted (.packet q i) (fun u => outAndEnd u p (p.u 8 8) (laneBlock u (p.u 0 1)) 0) s t →
      exec (.laneQuery q i) s = .next t) ∧
    (∀ (q i : Nat) (s : State) (p : Pkt), startedPkt s q i 0x2002 = some p →
      instState s (p.u 0 1) = 2 ∨ anyQueue s (p.u 0 1) = false → exec (.memRoot q i) s = .next
        (complete ((setRoot s (p.u 0 1) (p.u 1 1) (p.u 8 8) 0x2002).addWrap XLT_INVALIDATES.n 1) p 0 0 0)) ∧
    (∀ (q i : Nat) (s : State) (p : Pkt), startedPkt s q i 0x2003 = some p → p.u 0 1 = qOwner p.q ∨ qOwner p.q = s.manager →
      exec (.memInvalidate q i) s = .next
        (complete ((dropXlt s (p.u 0 1) (p.u 8 8) (p.u 0x10 8)).addWrap XLT_INVALIDATES.n 1) p 0 0 0)) ∧
    (∀ (q i : Nat) (s t : State) (p : Pkt), startedPkt s q i 0x2004 = some p →
      bitB (p.u 0x14 4) 0 = true ∨ overlaps (p.u 0 8) (p.u 0x10 4) (p.u 8 8) (p.u 0x10 4) = false →
      Admitted (.packet q i) (fun u => memCopy u p) s t → exec (.memCopy q i) s = .next t) ∧
    (∀ (s u v w : State) (p : Pkt) (bs : List Byte) (src dst : List (Land × Nat)), bitB (p.u 0x14 4) 0 = false →
      xlateAll (pktWho p false) false (pageSegs (p.u 8 8) (p.u 0x10 4)) s = (u, .ok src) →
      readLands (pktWho p false) src u = (v, .ok bs) →
      xlateAll (pktWho p false) true (pageSegs (p.u 0 8) (p.u 0x10 4)) v = (w, .ok dst) → sharedRanges dst src = [] →
      memCopy s p = complete (writeLands (pktWho p false) dst bs w) p 0 0 0) ∧
    (∀ (s t : State) (p : Pkt), bitB (p.u 0x14 4) 0 = true →
      dmaWrite s (pktWho p false) (p.u 0 8) (List.replicate (p.u 0x10 4) 0) = (t, none) →
      memCopy s p = complete t p 0 0 0) ∧
    (∀ (q i : Nat) (s t : State) (p : Pkt), startedPkt s q i 0x2005 = some p →
      Admitted (.packet q i) (preThen p preBayLoad fun u p => bayLoad (if bitB (p.u 0x10 1) 1 = true then
        { u with reloads := u.reloads.filter fun r => decide (r.lane ≠ p.lane) } else u) p) s t →
      exec (.memBayLoad q i) s = .next t) ∧
    (∀ (q i : Nat) (s : State) (p : Pkt), startedPkt s q i 0x2006 = some p → (s.lane (p.u 0 1)).isSome = true →
      exec (.memPace q i) s = .next (complete { s with pace := { s.pace with
        budgetNext := s.pace.budgetNext.filter (fun e => decide (e.1 / 8 ≠ p.u 0 1)) ++
          (List.range 8).map fun c => (8 * p.u 0 1 + c, p.u (8 + 4 * c) 4)
        budgetRec := s.pace.budgetRec.filter (fun e => decide (e.1 / 8 ≠ p.u 0 1)) ++
          (List.range 8).map fun c => (8 * p.u 0 1 + c, p.u (8 + 4 * c) 4) } } p 0 0 0))

/-- The job opcodes start a job. A started packet of a job opcode whose preconditions hold, with the accesses it makes
admitted by the pacers, starts one job and waits for it. JOB_RUN reads its image and its side effects and takes its
kernels from the image; JOB_SEARCH binds to an epoch (the published one where the packet names none) and to the published
slot bound, one kernel for each 1024 queries; JOB_GFX reads its stream and takes its context's state. A second job of the
same packet is never made, since the packet is then waiting. (R146, R156, R159, R160, R283, R400, R411, R416) -/
def Obligations.JobOpcodesStartTheirJobs : Prop :=
  (∀ (q i : Nat) (s t : State) (p : Pkt), startedPkt s q i 0x1000 = some p →
      Admitted (.packet q i) (preThen p jobRunPre startRun) s t → exec (.jobRun q i) s = .next t) ∧
    (∀ (s u : State) (p : Pkt), jobRunPre s p = (u, .ok) → preThen p jobRunPre startRun s = startRun u p) ∧
    (∀ (s v w : State) (p : Pkt) (m : List Byte) (sides : List (List Byte)), readImage s p = (v, .ok m) →
      readSides s p = (w, .ok sides) → startRun s p = startJob s p
        { newJob s p .run (imgNKernel m) (p.u 0xA 1) with image := m, sides := sides }) ∧
    (∀ (q i : Nat) (s t : State) (p : Pkt), startedPkt s q i 0x1001 = some p →
      Admitted (.packet q i) (preThen p jobSearchPre startSearch) s t → exec (.jobSearch q i) s = .next t) ∧
    (∀ (s u : State) (p : Pkt) (x : IdxRec), jobSearchPre s p = (u, .ok) → pktIdx u p = some x →
      preThen p jobSearchPre startSearch s = startJob u p
        { newJob u p .search ((p.u 4 4 + 1023) / 1024) (p.u 0x20 1) with
          epoch := if p.u 0x18 4 = 0 then x.epoch else p.u 0x18 4, bound := x.slotsPub }) ∧
    (∀ (q i : Nat) (s t : State) (p : Pkt), startedPkt s q i 0x1002 = some p →
      Admitted (.packet q i) (fun u => startGfx u p) s t → exec (.jobGfx q i) s = .next t) ∧
    (∀ (s u : State) (p : Pkt) (bs : List Byte), startBytes s p 0 (p.u 0 8) (p.u 8 4) = (u, .ok bs) →
      startGfx s p = startJob u p
        { newJob u p .gfx 1 (p.u 0xE 1) with image := bs, gfx := (u.gfxCtx (p.u 0xC 1)).st }) ∧
    (∀ (s : State) (p : Pkt) (j : Job), (startJob s p j).jobs = s.jobs ++ [j]) ∧
    (∀ (s : State) (p x : Pkt) (j : Job), s.pkt p.q p.idx = some x →
      (startJob s p j).pkt p.q p.idx = some { p with phase := .waiting })

/-- Dispatch and the end of a kernel. With the package accepting, KERNEL_DISPATCH runs the kernel that the order of R293
chooses, after the checkpoint copies of a job that has not started, and nothing where no kernel may be dispatched. A
tile kernel ends when each of its tiles has ended, an attention kernel after its last step, a search or build kernel
when its engine is clocked and the pacers admit its accesses, a graphics pass when its bins are rendered; a tile kernel
with a tile still running does not end. (R283, R292, R293, R294, R295, R384, R413, R543) -/
def Obligations.KernelsAreDispatchedInOrder : Prop :=
  (∀ (s : State) (j : Job), accepting s = true → nextKernel s = some j → j.started = true →
      exec .kernelDispatch s = .next (dispatch s j j.ckpt)) ∧
    (∀ (s u : State) (j : Job) (c : List (Nat × Nat × List Byte)), accepting s = true → nextKernel s = some j →
      j.started = false →
      takeCkpt s j (if j.kind = .run then (jrBufs (jobPkt s j)).filter inPlace else []) [] = (u, .ok c) →
      exec .kernelDispatch s = .next (dispatch u j c)) ∧
    (∀ s : State, nextKernel s = none → exec .kernelDispatch s = .next s) ∧
    (∀ (q i : Nat) (s t : State) (j : Job), s.job q i = some j → accepting s = true → j.phase = .running →
      (j.kind = .run → needKind j = 0 → (kernelTiles s j).all (fun t => (s.tile t).ended) = true →
        exec (.kernelEnd q i) s = .next (kernelDone ((kernelTiles s j).foldl (fun u t =>
          let u1 := leaveTile j.q j.idx false u t
          if lanePaired s j.lane then leaveTile j.q j.idx true u1 (t + 1) else u1) s) j.q j.idx
            (decide (j.nKernel ≤ j.kernel + 1)))) ∧
      (j.kind = .run → needKind j = 0 → (kernelTiles s j).all (fun t => (s.tile t).ended) = false →
        exec (.kernelEnd q i) s = .next s) ∧
      (j.kind = .run → needKind j ≠ 0 → leAt (attnHead j.image (kernelDesc j j.kernel)) 0 2 ≤ j.pos →
        exec (.kernelEnd q i) s = .next (kernelDone (energyAdd s.fresh.2 j.q j.idx 8 (s.fresh.1 * j.units.length)) j.q j.idx
          (decide (j.nKernel ≤ j.kernel + 1)))) ∧
      (j.kind = .search → gated s 6 = false → Admitted (.job q i) (fun u => endSearch u j) s t →
        exec (.kernelEnd q i) s = .next t) ∧
      (j.kind = .build → gated s 6 = false → Admitted (.job q i) (fun u => endBuild u j) s t →
        exec (.kernelEnd q i) s = .next t) ∧
      (j.kind = .gfx → passOver j = true → exec (.kernelEnd q i) s = .next (endPass s j)))

/-- The stall limit, the staging grant, and what they do to a job. A running job that stands still and whose stall counter has
passed its limit counts in PACE_LATE.stalls and starts a new attempt while it has retries, and else ends with
ST_STALLED; before the limit and in its own tick, while its master waits for a page, while its instance is frozen, and
while an engine's accesses are not held, nothing happens. A master that waits for a staging page goes on when a page
fits, its stall counter not counting the wait; where no page of its lane is held by another job it ends with
ST_JOB_FAULT. (R300, R301, R302, R544) -/
def Obligations.StalledAndFaultedJobsRestartOrEnd : Prop :=
  (∀ (q i : Nat) (s : State) (j : Job), s.job q i = some j → accepting s = true → j.phase = .running → j.waitPage = none →
      j.progressAt + j.stall < s.now → instState s j.inst ≠ 3 → standsStill s j = true →
      (j.used < j.retries → exec (.stallLimitExpiry q i) s =
        .next (newAttempt (s.addSat (PACE_LATE.stalls j.lane) 1) j true true)) ∧
      (j.retries ≤ j.used → exec (.stallLimitExpiry q i) s =
        .next (endJob (s.addSat (PACE_LATE.stalls j.lane) 1) j 0x41 (faultDetail j) 0))) ∧
    (∀ (q i : Nat) (s : State) (j : Job), s.job q i = some j →
      s.now ≤ j.progressAt + j.stall ∨ j.waitPage.isSome = true ∨ instState s j.inst = 3 ∨ standsStill s j = false →
      exec (.stallLimitExpiry q i) s = .next s) ∧
    (∀ (s : State) (j : Job), j.kind = .run ∨ j.kind = .gfx → standsStill s j = true) ∧
    (∀ (q i va : Nat) (s : State) (j : Job), s.job q i = some j → accepting s = true → j.waitPage = some va →
      (ckptFits s j 1 = true → exec (.stagingPageGrant q i) s =
        .next (s.setJob { j with waitPage := none, progressAt := j.progressAt + (s.now - j.readyAt) })) ∧
      (ckptFits s j 1 = false → ckptHeld s j.lane j.q j.idx = 0 → exec (.stagingPageGrant q i) s =
        .next (endJob s j 0x40 (faultDetail j) va)))

/-- JOB_COMMIT takes one step of the commit. With the accesses of the step admitted by the pacers, an ended job that commits
is sealed when its turn has come; a sealed job copies its staged lines once, then carries out its side effects one at a
time in their order, and ends with the status it was sealed with when they are done. (R283, R545, R546, R547, R548) -/
def Obligations.JobCommitGoesStepByStep : Prop :=
  (∀ (q i : Nat) (bad : List Nat) (s t : State) (j : Job), s.job q i = some j → accepting s = true →
      Admitted (.job q i) (fun u => commitStep u j bad) s t → exec (.jobCommit q i bad) s = .next t) ∧
    (∀ (bad : List Nat) (s : State) (j : Job),
      (j.phase = .ended → jobCommits s j = true → maySeal s j = true → commitStep s j bad = sealJob s j) ∧
      (j.phase = .ended → jobCommits s j = false ∨ maySeal s j = false → commitStep s j bad = s) ∧
      (j.phase = .sealed → j.copied = false → commitStep s j bad = copyJob s j bad) ∧
      (j.phase = .sealed → j.copied = true → j.sidesDone < j.sides.length → commitStep s j bad = nextSide s j) ∧
      (j.phase = .sealed → j.copied = true → j.sides.length ≤ j.sidesDone →
        commitStep s j bad = endJob s j j.status 0 0))

/-- The stream opcodes. A started packet of a stream opcode whose preconditions hold, its accesses admitted by the pacers
where the opcode makes some: STREAM_SENSOR makes the stream record and answers its number; STREAM_DISPLAY waits for the
next blank, or answers at once the frame count where it switches off a stopped output; STREAM_CAN_CFG takes effect on a
controller that is off or has an empty host queue and else waits; STREAM_CAN_TX offers its frames to the controller; STREAM_ROUTER replaces its entries as one step;
STREAM_STOP ends a stream at its boundary. (R167, R168, R169, R170, R171, R439, R451, R452) -/
def Obligations.StreamOpcodesAct : Prop :=
  (∀ (q i : Nat) (s u : State) (p : Pkt) (t : Nat) (r : SensRec), startedPkt s q i 0x3000 = some p →
      preStreamSensor s p = (u, .ok) → t = 4 * p.u 0 1 + p.u 1 1 →
      r = ⟨p.inst, slice p.params 0 32, 0, 0, false, false, none, false⟩ →
      exec (.streamSensor q i) s = .next (complete (sensRegs (u.setSens t (some r)) t r) p 0 t 0)) ∧
    (∀ (q i : Nat) (s t : State) (p : Pkt), startedPkt s q i 0x3001 = some p →
      Admitted (.packet q i) (preThen p preStreamDisplay startDisplay) s t → exec (.streamDisplay q i) s = .next t) ∧
    (∀ (s u : State) (p : Pkt), preStreamDisplay s p = (u, .ok) →
      (p.u 1 1 = 0 → outEnabled u (p.u 0 1) = false → preThen p preStreamDisplay startDisplay s =
        complete u p 0 (u.getF (DISP_FRAME.n (p.u 0 1))) 0) ∧
      (p.u 1 1 ≠ 0 ∨ outEnabled u (p.u 0 1) = true → preThen p preStreamDisplay startDisplay s =
        u.setPkt { p with phase := .waiting })) ∧
    (∀ (q i : Nat) (s t : State) (p : Pkt), startedPkt s q i 0x3002 = some p →
      Admitted (.packet q i) (preThen p noPre startCanCfg) s t → exec (.streamCanCfg q i) s = .next t) ∧
    (∀ (s : State) (p : Pkt),
      (canMode s (p.u 0 1) = 0 ∨ (s.can (p.u 0 1)).host = [] → preThen p noPre startCanCfg s = applyCanCfg s p) ∧
      (canMode s (p.u 0 1) ≠ 0 → (s.can (p.u 0 1)).host ≠ [] →
        preThen p noPre startCanCfg s = s.setPkt { p with phase := .waiting })) ∧
    (∀ (q i : Nat) (s u : State) (p : Pkt), startedPkt s q i 0x3003 = some p → preCanTx s p = (u, .ok) →
      exec (.streamCanTx q i) s = .next (canFeed (u.setPkt { p with phase := .waiting, prog := 0 }) (p.u 0 1))) ∧
    (∀ (q i : Nat) (s : State) (p : Pkt), startedPkt s q i 0x3004 = some p → p.u 0 1 + p.u 1 1 ≤ 256 →
      exec (.streamRouter q i) s = .next (complete { s with io := { s.io with
        routes := (List.range (p.u 1 1)).foldl (fun m k =>
          tabPut (fun _ => []) m (p.u 0 1 + k) (slice p.params (8 + 8 * k) 8)) s.io.routes } } p 0 0 0)) ∧
    (∀ (q i : Nat) (s : State) (p : Pkt), startedPkt s q i 0x3005 = some p →
      (p.u 0 1 = 0 → s.sens (p.u 1 1) = none → exec (.streamStop q i) s = .next (complete s p 0 0 0)) ∧
      (∀ r, p.u 0 1 = 0 → s.sens (p.u 1 1) = some r → r.frame = none → r.dropping = false →
        exec (.streamStop q i) s = .next (complete (stopStream s (p.u 1 1)) p 0 0 0)) ∧
      (∀ r, p.u 0 1 = 0 → s.sens (p.u 1 1) = some r → r.frame.isSome = true ∨ r.dropping = true →
        exec (.streamStop q i) s = .next (s.setPkt { p with phase := .waiting })) ∧
      (p.u 0 1 = 1 → outEnabled s (p.u 1 1) = true →
        exec (.streamStop q i) s = .next (s.setPkt { p with phase := .waiting })) ∧
      (p.u 0 1 = 1 → outEnabled s (p.u 1 1) = false →
        exec (.streamStop q i) s = .next (complete (s.setDispSaved (p.u 1 1) none) p 0 0 0)) ∧
      (p.u 0 1 = 2 → canMode s (p.u 1 1) ≠ 0 → (s.can (p.u 1 1)).host = [] →
        exec (.streamStop q i) s = .next (complete (canOff s (p.u 1 1)) p 0 0 0)) ∧
      (p.u 0 1 = 2 → canMode s (p.u 1 1) ≠ 0 → (s.can (p.u 1 1)).host ≠ [] →
        exec (.streamStop q i) s = .next (s.setPkt { p with phase := .waiting })))

/-- The index opcodes. A started packet of an index opcode whose preconditions hold, its accesses admitted by the pacers:
IDX_CREATE makes the index and marks
it live; IDX_BUILD starts a build job; IDX_INSERT adds its records with the next epoch as their birth and answers
their count; IDX_DELETE gives the live slots of its ids their death and answers how many; IDX_PUBLISH publishes the
staged changes and answers the epoch; IDX_WAIT ends when its epoch is published and else waits; IDX_DESTROY closes the
index, removes it when no batch uses it and else waits, and the row met again removes it once the last batch has
ended. (R172, R173, R174, R175, R176, R391, R392, R397, R398, R400, R402, R404) -/
def Obligations.IndexOpcodesAct : Prop :=
  (∀ (q i : Nat) (s t : State) (p : Pkt), startedPkt s q i 0x4000 = some p →
      Admitted (.packet q i) (preThen p idxCreatePre createIdx) s t → exec (.idxCreate q i) s = .next t) ∧
    (∀ (s u : State) (p : Pkt) (io : Io), idxCreatePre s p = (u, .ok) →
      putIdx (clearArea (pktWho p false) (newIdx p) 0 ⟨u, none⟩) (pktWho p false) (p.u 0 2) (newIdx p) = io →
      preThen p idxCreatePre createIdx s = idxEnd u ⟨idxLive io.s (p.u 0 2) true, io.err⟩ p 0) ∧
    (∀ (s : State) (io : Io) (p : Pkt) (d : Nat), io.err = none → idxEnd s io p d = complete io.s p 0 d 0) ∧
    (∀ (q i : Nat) (s t : State) (p : Pkt), startedPkt s q i 0x4001 = some p →
      Admitted (.packet q i) (preThen p idxBuildPre startBuild) s t → exec (.idxBuild q i) s = .next t) ∧
    (∀ (s u : State) (p : Pkt) (x : IdxRec) (io : Io), idxBuildPre s p = (u, .ok) → pktIdx u p = some x →
      putIdx ⟨u, none⟩ (pktWho p true) (p.u 0 2)
        (if x.layout = 1 then { x with oldest := x.areaStart.getD (areaAt x x.epoch) 0 } else x) = io → io.err = none →
      preThen p idxBuildPre startBuild s = startJob io.s p (newJob io.s p .build 1 (p.u 2 1))) ∧
    (∀ (q i : Nat) (s t : State) (p : Pkt), startedPkt s q i 0x4002 = some p →
      Admitted (.packet q i) (preThen p idxInsertPre insertRecords) s t → exec (.idxInsert q i) s = .next t) ∧
    (∀ (s u : State) (p : Pkt) (x : IdxRec) (io : Io), idxInsertPre s p = (u, .ok) → pktIdx u p = some x →
      (let r := readIdVecs u (pktWho p false) p x
       let cb := readCodes r.1 (pktWho p false) x
       let ins := insertAll (pktWho p false) x cb.2 (x.epoch + 1) (cb.1, activeArea x) (idVecs x (p.u 4 4) r.2.1 r.2.2)
       putIdx ins.1 (pktWho p false) (p.u 0 2) (withArea x ins.2) = io) → io.err = none →
      preThen p idxInsertPre insertRecords s = complete io.s p 0 (p.u 4 4) 0) ∧
    (∀ (q i : Nat) (s t : State) (p : Pkt), startedPkt s q i 0x4003 = some p →
      Admitted (.packet q i) (preThen p idxPre deleteRecords) s t → exec (.idxDelete q i) s = .next t) ∧
    (∀ (s : State) (p : Pkt) (x : IdxRec) (io : Io) (n : Nat), pktIdx s p = some x → x.closing = false →
      (let ids := (⟨s, none⟩ : Io).rd (pktWho p false) (p.u 8 8) (8 * p.u 4 4)
       (List.range (p.u 4 4)).foldl (fun (a : Io × Nat) k =>
         let l := liveSlot (pktWho p false) x (activeArea x) (leAt ids.2 (8 * k) 8) a.1
         match l.2 with
         | some k => (kill (pktWho p false) x x.active k (x.epoch + 1) l.1, a.2 + 1)
         | none => (l.1, a.2)) (ids.1, 0) = (io, n)) →
      preThen p idxPre deleteRecords s = idxEnd s (putIdx io (pktWho p false) (p.u 0 2)
        { x with dirty := x.dirty || decide (n ≠ 0) }) p n) ∧
    (∀ (q i : Nat) (s t : State) (p : Pkt), startedPkt s q i 0x4004 = some p →
      Admitted (.packet q i) (preThen p idxPublishPre publishIdx) s t → exec (.idxPublish q i) s = .next t) ∧
    (∀ (s : State) (p : Pkt) (x y : IdxRec), pktIdx s p = some x →
      x.closing = false → x.epoch ≠ 0xFFFFFFFF → (publish s (pktWho p false) (p.u 0 2) x).err = none →
      (publish s (pktWho p false) (p.u 0 2) x).s.idx (p.u 0 2) = some y →
      preThen p idxPublishPre publishIdx s = complete (publish s (pktWho p false) (p.u 0 2) x).s p 0 y.epoch 0) ∧
    (∀ (q i : Nat) (s : State) (p : Pkt) (x : IdxRec), startedPkt s q i 0x4005 = some p → pktIdx s p = some x →
      x.closing = false →
      (p.u 4 4 ≤ x.epoch → exec (.idxWait q i) s = .next (complete s p 0 (waitDetail x.epoch) 0)) ∧
      (x.epoch < p.u 4 4 → exec (.idxWait q i) s = .next (s.setPkt { p with phase := .waiting }))) ∧
    (∀ (q i : Nat) (s u : State) (p : Pkt) (x : IdxRec), startedPkt s q i 0x4006 = some p → pktIdx s p = some x →
      x.closing = false → u = s.setIdx (p.u 0 2) (some { x with closing := true }) →
      (idxBusy u (p.u 0 2) = true → exec (.idxDestroy q i) s = .next (u.setPkt { p with phase := .waiting })) ∧
      (idxBusy u (p.u 0 2) = false → exec (.idxDestroy q i) s = .next (idxGone u p))) ∧
    (∀ (q i : Nat) (s : State) (p : Pkt), s.pkt q i = some p → p.opcode = 0x4006 → p.phase = .waiting → accepting s = true →
      idxBusy s (p.u 0 2) = false → exec (.idxDestroy q i) s = .next (idxGone s p))

/-- The ring opcodes. A started packet of a ring opcode whose preconditions hold: RING_CONFIG sets the node, the time bit
and the ports and answers the ports that are UP; RING_SWEEP starts a sweep or waits for the one that runs;
RING_RECOLLECT, RING_SEND and RING_PROBE end with ST_RING_FAULT where no port is UP, RECOLLECT of the own node is
answered here, another is asked of the ring, a message waits for the baton, a probe begins unless one runs; RING_RECV
takes what has arrived; RING_PARK_CFG records the thresholds for the next PARK and sets the sweep period. (R177, R178,
R179, R180, R181, R220, R231, R232, R235, R238, R239, R240) -/
def Obligations.RingOpcodesAct : Prop :=
  (∀ (q i : Nat) (s t u v : State) (p : Pkt), startedPkt s q i 0x5000 = some p →
      (p.u 0 1 = ownNode s ∨ (portEn s 0 = false ∧ portEn s 1 = false)) →
      t = (({ s with ring := { s.ring with configured := true } } : State).setF RING_CTRL.node (p.u 0 1)).setF
        RING_CTRL.ts_en (p.u 2 1) →
      u = portEnable (portEnable t 0 (bitB (p.u 1 1) 0)) 1 (bitB (p.u 1 1) 1) →
      v = (if portEn u 0 ∨ portEn u 1 then u else closeBypass u) →
      exec (.ringConfig q i) s = .next (complete v p 0 (bitsMask (upPorts v)) 0)) ∧
    (∀ (q i : Nat) (s : State) (p : Pkt), startedPkt s q i 0x5001 = some p → ownNode s = 0 → upPorts s ≠ [] →
      4416 ≤ p.u 8 4 →
      (s.ring.sweep = none → s.ring.parkDue = false → exec (.ringSweep q i) s =
        .next (startSweep (s.setPkt { p with phase := .waiting }) (some (q, i)))) ∧
      (s.ring.sweep ≠ none ∨ s.ring.parkDue = true → exec (.ringSweep q i) s =
        .next (s.setPkt { p with phase := .waiting }))) ∧
    (∀ (q i : Nat) (s : State) (p : Pkt), startedPkt s q i 0x5002 = some p → ownNode s = 0 →
      (upPorts s = [] → exec (.ringRecollect q i) s = .next (complete s p 0x61 4 0)) ∧
      (upPorts s ≠ [] → p.u 0 1 = ownNode s → exec (.ringRecollect q i) s = .next (recollectDone s p
        (if p.u 4 4 = s.ring.holdId ∧ s.ring.holdRec ≠ [] then some s.ring.holdRec else none))) ∧
      (∀ (k : Nat) (t : State), upPorts s ≠ [] → p.u 0 1 ≠ ownNode s → k = (s.ring.askSeq + 1) % 65536 →
        t = (s.setPkt { p with phase := .waiting }).setRing
          { s.ring with askSeq := k, asks := s.ring.asks ++ [⟨k, p.u 0 1, p.u 4 4, some (q, i), none⟩] } →
        exec (.ringRecollect q i) s = .next ((upPorts t).foldl (fun u j =>
          sendOn u j (ownFrame u 2 0 (p.u 0 1) k (p.u 4 4) []).bytes) t))) ∧
    (∀ (q i : Nat) (s : State) (p : Pkt), startedPkt s q i 0x5003 = some p →
      (upPorts s = [] → exec (.ringSend q i) s = .next (complete s p 0x61 4 0)) ∧
      (upPorts s ≠ [] → exec (.ringSend q i) s = .next ((s.setPkt { p with phase := .waiting }).setRing
        { s.ring with dataOut := s.ring.dataOut ++
          [⟨p.u 0 1, slice p.params 0x10 (p.u 2 2), some (q, i), none, 0, false, 0, 0, false⟩] }))) ∧
    (∀ (q i : Nat) (s : State) (p : Pkt), startedPkt s q i 0x5004 = some p →
      exec (.ringRecv q i) s = .next (recvFeed (s.setPkt { p with phase := .waiting }))) ∧
    (∀ (q i : Nat) (s : State) (p : Pkt), startedPkt s q i 0x5005 = some p → ownNode s = 0 →
      (upPorts s = [] → exec (.ringProbe q i) s = .next (complete s p 0x61 4 0)) ∧
      (upPorts s ≠ [] → s.ring.probe = none → exec (.ringProbe q i) s =
        .next (beginProbe (s.setPkt { p with phase := .waiting }) { p with phase := .waiting })) ∧
      (upPorts s ≠ [] → s.ring.probe ≠ none → exec (.ringProbe q i) s = .next (s.setPkt { p with phase := .waiting }))) ∧
    (∀ (q i : Nat) (s t : State) (p : Pkt), startedPkt s q i 0x5006 = some p → t = setSweepPeriod s (p.u 0 2) →
      exec (.ringParkCfg q i) s = .next (complete (t.setRing { t.ring with
        parkNext := some (p.u 2 2, (List.range (p.u 4 1)).map fun k => slice p.params (8 + 16 * k) 16) }) p 0 0 0))

/-- PWR_STEP, PWR_CAP, PWR_MULTI and PWR_QUERY. A started packet: PWR_STEP requests a step, fixes one, frees it or drops
the request of its domain, turning SPRINT into step 0 where it is not permitted, and answers the step in effect and
the target; PWR_CAP answers the cap in effect and records the new one for the next sample; PWR_MULTI sets the mode,
the count and the nodes and starts a fresh claim; PWR_QUERY writes the block of the last sample. (R52, R53, R182,
R183, R184, R490, R510) -/
def Obligations.PowerOpcodesAct : Prop :=
  (∀ (q i d : Nat) (s t u v : State) (p : Pkt), startedPkt s q i 0x6000 = some p → p.u 0 1 = d →
      t = (if p.u 1 1 = 0 then s.setDom d { s.dom d with
              req := if p.u 2 1 = 8 ∧ sprintPermit s = false then 0 else p.u 2 1 }
           else if p.u 1 1 = 1 then (s.setF (CLK_DOM_CTRL.fixed_step d) (p.u 2 1)).setF (CLK_DOM_CTRL.fixed_en d) 1
           else if p.u 1 1 = 2 then s.setF (CLK_DOM_CTRL.fixed_en d) 0
           else s.setDom d { s.dom d with req := 16 }) →
      u = refreshDom t d → v = (if d = 4 then tileAdvance u else u) →
      exec (.pwrStep q i) s = .next (complete v p 0
        (v.getF (CLK_DOM_STATUS.cur_step d) + 16 * v.getF (CLK_DOM_STATUS.target_step d)) 0)) ∧
    (∀ (q i : Nat) (s : State) (p : Pkt), startedPkt s q i 0x6001 = some p →
      (p.u 0 4 ≤ 95000 ∨ sprintPermit s = true → exec (.pwrCap q i) s = .next (complete
        { s with pwr := { s.pwr with capNext := some (p.u 0 4) } } p 0 (s.getF PWR_CAP_EFF.cap) 0)) ∧
      (95000 < p.u 0 4 → sprintPermit s = false → exec (.pwrCap q i) s = .next (preFail s p 0x20))) ∧
    (∀ (q i : Nat) (s t u v : State) (p : Pkt) (m : Nat), startedPkt s q i 0x6002 = some p → prePwrMulti s p = (s, .ok) →
      m = p.u 0 1 →
      t = ((s.setF PWR_MULTI_CFG.mode m).setF PWR_MULTI_CFG.count (if m = 0 then 0 else p.u 1 1)).setF PWR_MULTI_NODES.nodes
        (if m = 0 then 0xFFFFFFFF else p.u 4 4) →
      u = setClaimRounds (setShift ((t.wr PWR_MULTI_STATUS.addr 0).setDom 4 { t.dom 4 with levelCeil := 8 }) false 0 0) 0 →
      v = { u with pwr := { u.pwr with groupSeen := 16, roundAt := u.now } } →
      exec (.pwrMulti q i) s = .next (complete (tileAdvance (refreshDom v 4)) p 0 0 0)) ∧
    (∀ (q i : Nat) (s t : State) (p : Pkt), startedPkt s q i 0x6005 = some p →
      Admitted (.packet q i) (fun u => outAndEnd u p (p.u 0 8) (if u.pwr.snap = [] then queryBytes u else u.pwr.snap) 0) s t →
      exec (.pwrQuery q i) s = .next t)

/-- PWR_PARK and PWR_SHUTDOWN. A started PWR_PARK or PWR_SHUTDOWN waits while no other sleep command is under way, and
fails its precondition otherwise. PWR_PARK waits until every other packet is done, then enters: LPDDR5X goes into
self-refresh and its clock is gated, the main die is isolated and in reset, and the first rail goes off; a wake seen before
that cancels it. PWR_SHUTDOWN, once every other packet is done, writes its record and shuts down. (R26, R32, R61, R64,
R185, R186) -/
def Obligations.SleepOpcodesDrainThenAct : Prop :=
  (∀ (q i : Nat) (s : State) (p : Pkt), s.pkt q i = some p → p.opcode = 0x6003 → accepting s = true →
      (p.phase = .started → (preDrain s p).2 = .ok → exec (.pwrPark q i) s =
        .next (s.setPkt { p with phase := .waiting, prog := 0 })) ∧
      (p.phase = .started → (preDrain s p).2 = .bad 0 → exec (.pwrPark q i) s = .next (preFail s p 0)) ∧
      (p.phase = .waiting → p.prog = 0 → allDone s p = false → exec (.pwrPark q i) s = .next s) ∧
      (p.phase = .waiting → p.prog = 0 → allDone s p = true → s.clk.mode = .on → ∀ u : State,
        u = (if p.u 0 4 = 0 then s else s.setF CLK_WAKE_EN.en (p.u 0 4)) → exec (.pwrPark q i) s =
        .next (gateDom { u.setPkt { p with prog := 1 } with
          clk := { u.clk with mode := .parkEntry, wakePending := false } } 10))) ∧
    (∀ (q i : Nat) (s : State) (p : Pkt), s.pkt q i = some p → p.opcode = 0x6003 → p.phase = .waiting →
      s.clk.mode = .parkEntry →
      (p.prog = 1 ∨ p.prog = 2 → s.clk.wakePending = true → exec (.pwrPark q i) s = .next (parkCancel s p)) ∧
      (∀ u v : State, p.prog = 1 → s.clk.wakePending = false → u = clearRecords (s.setPkt { p with prog := 2 }) →
        v = mainDieReset { u with clk := { u.clk with entryReset := true } } →
        exec (.pwrPark q i) s = .next { v with boot := { v.boot with main := .idle } }) ∧
      (p.prog = 2 → s.clk.wakePending = false → exec (.pwrPark q i) s = .next (parkCommit s p))) ∧
    (∀ (q i : Nat) (s : State) (p : Pkt), s.pkt q i = some p → p.opcode = 0x6004 → accepting s = true →
      (p.phase = .started → (preDrain s p).2 = .ok → exec (.pwrShutdown q i) s =
        .next (s.setPkt { p with phase := .waiting, prog := 0 })) ∧
      (p.phase = .waiting → allDone s p = true → exec (.pwrShutdown q i) s = .next (shutDown (complete s p 0 0 0))) ∧
      (p.phase = .waiting → allDone s p = false → exec (.pwrShutdown q i) s = .next s))

/-- The safety opcodes. A started packet of a safety opcode whose preconditions hold: SAF_STALL sets its lane's stall
limit; SAF_PAIR sets whether its lane runs paired tiles; SAF_TEST holds the lanes and begins its tests once they are
held; SAF_ENTER begins the safe state with cause 1 and waits; SAF_REPORT writes its block. (R187, R188, R189, R336,
R527, R534) -/
def Obligations.SafetyOpcodesAct : Prop :=
  (∀ (q i : Nat) (s t : State) (p : Pkt), startedPkt s q i 0x7000 = some p → (s.lane (p.u 0 1)).isSome = true →
      t = s.setF (PACE_STALL.ticks (p.u 0 1)) (p.u 4 4) → exec (.safStall q i) s = .next (complete { t with pace := { t.pace with
        stallRec := t.pace.stallRec.filter (fun e => decide (e.1 ≠ p.u 0 1)) ++ [(p.u 0 1, p.u 4 4)] } } p 0 0 0)) ∧
    (∀ (q i : Nat) (s : State) (p : Pkt) (r : LaneRec), startedPkt s q i 0x7001 = some p → s.lane (p.u 0 1) = some r →
      laneInFlight s (p.u 0 1) p.q p.idx = false → popCount 32 r.tiles % 2 = 0 → exec (.safPair q i) s =
        .next (complete (laneRegs (s.setLane (p.u 0 1) (some { r with paired := decide (p.u 1 1 = 1) })) (p.u 0 1)) p 0 0 0)) ∧
    (∀ (q i : Nat) (s : State) (p : Pkt), s.pkt q i = some p → p.opcode = 0x7002 → accepting s = true →
      (p.phase = .started → exec (.safTest q i) s = .next (safTestBegin
        (({ s with testHold := true } : State).setPkt { p with phase := .waiting, prog := 0 })
          { p with phase := .waiting, prog := 0 })) ∧
      (p.phase = .waiting → p.prog = 0 → exec (.safTest q i) s = .next (safTestBegin s p))) ∧
    (∀ (q i : Nat) (s : State) (p : Pkt), startedPkt s q i 0x7003 = some p →
      (s.boot.main = .up → exec (.safEnter q i) s = .next (safeCause (s.setPkt { p with phase := .waiting }) 0x01)) ∧
      (s.boot.main ≠ .up → exec (.safEnter q i) s = .next (complete s p 0 0 0))) ∧
    (∀ (q i : Nat) (s t : State) (p : Pkt), startedPkt s q i 0x7004 = some p →
      Admitted (.packet q i) (fun u => outAndEnd u p (p.u 0 8) (safReport u) 0) s t → exec (.safReport q i) s = .next t)

/-- INST_RIGHTS, INST_RESUME, INST_RESET and INST_THAW. A started packet of one of these opcodes on another instance in
the state it needs, its accesses admitted by the pacers: INST_RIGHTS writes the rights and makes an empty instance with a class run, and otherwise gives a
notice that shows no change; INST_RESUME makes a quiesced target run and leaves another state alone; INST_RESET of a
quiesced target disables its queues, releases its contexts, clears its events and drops its unpublished index changes;
INST_THAW gives a frozen target back the state it was frozen in and lets its paused jobs and its queues go on. (R190,
R191, R192, R195, R464, R466, R467, R470, R475, R483) -/
def Obligations.InstanceOpcodesSetRightsAndState : Prop :=
  (∀ (q i : Nat) (s t : State) (p : Pkt), startedPkt s q i 0x8000 = some p → preRights s p = (s, .ok) →
      t = ((s.setF (INST_RIGHTS.class_mask (target p)) (p.u 2 2)).setF (INST_RIGHTS.lane_mask (target p)) (p.u 4 1)).setF
        (INST_RIGHTS.lc_mask (target p)) (p.u 5 1) →
      (instState t (target p) = 0 → p.u 2 2 ≠ 0 → exec (.instRights q i) s =
        .next (instDone (setInstState t (target p) 1 0x8000) p 0)) ∧
      (instState t (target p) ≠ 0 ∨ p.u 2 2 = 0 → exec (.instRights q i) s = .next (instDone
        (notice t (target p) (instState t (target p)) (instState t (target p)) 0x8000 false) p 0))) ∧
    (∀ (q i : Nat) (s : State) (p : Pkt), startedPkt s q i 0x8002 = some p → target p ≠ qOwner p.q →
      (instState s (target p) = 2 → exec (.instResume q i) s = .next (instDone (setInstState s (target p) 1 0x8002) p 0)) ∧
      (instState s (target p) ≠ 2 → instState s (target p) ≠ 3 → exec (.instResume q i) s = .next (instDone s p 0)) ∧
      (instState s (target p) = 3 → exec (.instResume q i) s = .next (endPlain s p 0x80 0 0))) ∧
    (∀ (q i : Nat) (s t : State) (p : Pkt), startedPkt s q i 0x8003 = some p →
      Admitted (.packet q i) (preThen p preReset resetInst) s t → exec (.instReset q i) s = .next t) ∧
    (∀ (s t u : State) (p : Pkt), target p ≠ qOwner p.q →
      instState s (target p) = 2 → t = releaseCtxs (disableQueues s (target p)) (target p) →
      u = t.setInst (target p) { t.inst (target p) with events := 0 } →
      preThen p preReset resetInst s = instDone
        ((ownIdxs u (target p)).foldl (fun v e => dropStaged v (target p) e.1 e.2) u) p 0) ∧
    (∀ (q i : Nat) (s t : State) (p : Pkt), startedPkt s q i 0x8007 = some p →
      Admitted (.packet q i) (preThen p preThaw thawInst) s t → exec (.instThaw q i) s = .next t) ∧
    (∀ (s t u : State) (p : Pkt), target p ≠ qOwner p.q → instState s (target p) = 3 →
      t = setInstState s (target p) (if s.flag (INST_STATE.held_quiesce (target p)) then 2 else 1) 0x8007 →
      u = (t.setF (INST_STATE.held_quiesce (target p)) 0).setInst (target p) { t.inst (target p) with busy := 0 } →
      preThen p preThaw thawInst s = instDone ((List.range 4).foldl (fun v k => flush v (4 * target p + k))
        ((pausedJobs u (target p)).foldl thawJob u)) p 0)

/-- INST_QUIESCE, INST_FREEZE and INST_REMOVE. A started packet of one of these opcodes on another instance in a state it
allows begins: it records itself as the target's operation and ends what must end. While it waits, the row met again
ends it once nothing of the target is in its way: a quiesce when no packet of the target is left, answering how many
ended for it; a freeze when no packet holds it, answering the paused jobs; a removal when all that the target owns has
stopped. A quiesce of a quiesced target is done at once. (R191, R193, R196, R466, R471, R472, R473, R474) -/
def Obligations.QuiesceFreezeAndRemoveRunUntilDone : Prop :=
  (∀ (q i : Nat) (s : State) (p : Pkt), startedPkt s q i 0x8001 = some p → target p ≠ qOwner p.q →
      (instState s (target p) = 2 → exec (.instQuiesce q i) s = .next (instDone s p 0)) ∧
      (instState s (target p) = 1 → exec (.instQuiesce q i) s = .next (beginQuiesce s p)) ∧
      (instState s (target p) = 3 → exec (.instQuiesce q i) s = .next (endPlain s p 0x80 0 0))) ∧
    (∀ (q i : Nat) (s : State) (p : Pkt), s.pkt q i = some p → p.opcode = 0x8001 → p.phase = .waiting → accepting s = true →
      (instPkts s (target p) = [] → exec (.instQuiesce q i) s = .next
        (instDone (setInstState s (target p) 2 0x8001) p (min (s.inst (target p)).ended 0xFFFFFFFF))) ∧
      (instPkts s (target p) ≠ [] → exec (.instQuiesce q i) s = .next s)) ∧
    (∀ (q i : Nat) (s : State) (p : Pkt), startedPkt s q i 0x8004 = some p → target p ≠ qOwner p.q →
      instState s (target p) = 1 ∨ instState s (target p) = 2 → exec (.instFreeze q i) s = .next (beginFreeze s p)) ∧
    (∀ (q i : Nat) (s : State) (p : Pkt), s.pkt q i = some p → p.opcode = 0x8004 → p.phase = .waiting → accepting s = true →
      (∀ u : State, (instPkts s (target p)).any (holdsFreeze s) = false →
        u = s.setF (INST_STATE.held_quiesce (target p)) (if instState s (target p) = 2 then 1 else 0) →
        exec (.instFreeze q i) s = .next
          (instDone (setInstState u (target p) 3 0x8004) p (pausedJobs s (target p)).length)) ∧
      ((instPkts s (target p)).any (holdsFreeze s) = true → exec (.instFreeze q i) s = .next s)) ∧
    (∀ (q i : Nat) (s : State) (p : Pkt), startedPkt s q i 0x8008 = some p → target p ≠ qOwner p.q →
      instState s (target p) = 2 ∨ instState s (target p) = 3 → exec (.instRemove q i) s = .next (beginRemove s p)) ∧
    (∀ (q i : Nat) (s : State) (p : Pkt), s.pkt q i = some p → p.opcode = 0x8008 → p.phase = .waiting → accepting s = true →
      exec (.instRemove q i) s = .next (finishRemove s p)) ∧
    (∀ (s t u v w x : State) (p : Pkt) (k : Nat), target p = k → t = stopIo s k →
      (ownsIo t k = true → finishRemove s p = t) ∧
      (ownsIo t k = false →
        u = disableQueues (releaseCtxs ((ownIdxs t k).foldl (fun a e => idxLive (a.setIdx e.1 none) e.1 false) t) k) k →
        v = (dropKey (setRoot u k 0 0 0x8008) k).setF (XLT_CFG.key_valid k) 0 →
        w = setInstState (((v.setF (INST_RIGHTS.class_mask k) 0).setF (INST_RIGHTS.lane_mask k) 0).setF
          (INST_RIGHTS.lc_mask k) 0) k 0 0x8008 →
        x = ((w.setF (INST_MBOX_LO.lo k) 0).setF (INST_MBOX_HI.hi k) 0).setF (INST_STATE.held_quiesce k) 0 →
        finishRemove s p = instDone (x.setInst k { InstRec.init with notices := (x.inst k).notices }) p 0))

/-- INST_SAVE and INST_RESTORE. On a device without a migration key both opcodes fail their precondition. With one, a
started INST_SAVE on another, frozen instance answers the size of its image, and writes the image where a length of at
least that size is given; a started INST_RESTORE onto an empty instance reads the image and, where it opens and fits
this device, restores the instance frozen, counts it and gives a notice with the migrated flag, and else fails its
precondition at the image. The key is the device's own and stays open in the model. (R194, R195, R476, R477, R478,
R479, R480, R481, R482, R484) -/
def Obligations.SaveAndRestoreMoveAnInstance : Prop :=
  (∀ (q i : Nat) (s t : State) (p : Pkt),
      (startedPkt s q i 0x8005 = some p → Admitted (.packet q i) (preThen p preSave imageOut) s t →
        exec (.instSave q i) s = .next t) ∧
      (startedPkt s q i 0x8006 = some p → Admitted (.packet q i) (preThen p preRestore imageIn) s t →
        exec (.instRestore q i) s = .next t)) ∧
    (∀ (s : State) (p : Pkt), Config.migrationKey = [] →
      preThen p preSave imageOut s = preFail s p 0 ∧ preThen p preRestore imageIn s = preFail s p 0) ∧
    (∀ (s t : State) (p : Pkt) (x : SavedInst) (n : Nat), Config.migrationKey ≠ [] →
      target p ≠ qOwner p.q → instState s (target p) = 3 → x = saveInst s (target p) → n = imageSize x / 65536 →
      t = s.setInst (target p) { s.inst (target p) with changedAt := s.now } →
      (p.u 0x10 8 = 0 → preThen p preSave imageOut s = complete t p 0 n 0) ∧
      (p.u 0x10 8 ≠ 0 → imageSize x ≤ p.u 0x10 8 → preThen p preSave imageOut s =
        outAndEnd t.fresh.2 p (p.u 8 8) (imageBytes t.fresh.2 (target p) x (leBytes 12 t.fresh.1)) n)) ∧
    (∀ (s u v : State) (p : Pkt) (img bs : List Byte), Config.migrationKey ≠ [] →
      target p ≠ qOwner p.q → instState s (target p) = 0 → 65536 ≤ p.u 0x10 8 →
      dmaRead s (pktWho p false) (p.u 8 8) (p.u 0x10 8) = (u, .ok img) →
      leAt img 0x10 8 ≤ p.u 0x10 8 → 256 ≤ leAt img 0x10 8 →
      (restorable u (target p) img = none → preThen p preRestore imageIn s = preFail u p 0x28) ∧
      (∀ x : SavedInst, (restorable u (target p) img).isSome = true →
        dmaRead u (pktWho p false) (p.u 8 8) (p.u 0x10 8) = (v, .ok bs) → restorable v (target p) bs = some x →
        preThen p preRestore imageIn s = instDone (notice ((((restoreInst v (target p) x).setF
          (INST_STATE.state (target p)) 3).setF (INST_STATE.held_quiesce (target p)) 0).setF
            (INST_STATE.restored (target p)) 1 |>.addSat (INST_RESTORES.n (target p)) 1) (target p) 0 3 0x8006 true) p 0))

/-- The load/store slot of a tile. When the slot may issue: a load or store whose address is aligned and inside local
memory, and meets no poison, makes its one write, the bytes of local memory or of the register; a misaligned or
outside address is tile fault kind 2. WLD starts a weight load unless the buffer is read or loading. XLD and XST start
a copy of 64 bytes to 1 MiB with another tile, with the lane's Bay range, or with a buffer; a wrong length or offset
is fault kind 8. The end of a weight load fills its buffer; a copy that lands moves its bytes. (R317, R318, R319,
R320, R321, R322, R323, R339) -/
def Obligations.TileLoadStoreSlotActs : Prop :=
  (∀ (t w : Nat) (s : State) (r : TileRec) (j : Job), issue s t 0 0x01 = some (r, j, w) →
      (localOk (lsAddr r w) 256 256 = true → pairPoison s j t (lsAddr r w) 256 = none → exec (.vld t) s = .next
        (slotDone (tileEnergy s j t 4 4) t 0 j [.vreg (lsD w) (lanesOf (ldLocal s t (lsAddr r w) 256))] .step)) ∧
      (localOk (lsAddr r w) 256 256 = false → exec (.vld t) s = .next (tileFault s t 2))) ∧
    (∀ (t w : Nat) (s : State) (r : TileRec) (j : Job), issue s t 0 0x02 = some (r, j, w) →
      localOk (lsAddr r w) 256 256 = true → exec (.vst t) s = .next
        (slotDone (tileEnergy s j t 4 4) t 0 j [.mem (lsAddr r w) (bytesOf (vreg r (lsD w)))] .step)) ∧
    (∀ (t w : Nat) (s : State) (r : TileRec) (j : Job), issue s t 0 0x03 = some (r, j, w) →
      localOk (lsAddr r w) 8 8 = true → pairPoison s j t (lsAddr r w) 8 = none → exec (.sld t) s = .next
        (slotDone (tileEnergy s j t 4 1) t 0 j [.sreg (lsD w) (leNat (ldLocal s t (lsAddr r w) 8))] .step)) ∧
    (∀ (t w : Nat) (s : State) (r : TileRec) (j : Job), issue s t 0 0x04 = some (r, j, w) →
      localOk (lsAddr r w) 8 8 = true → exec (.sst t) s = .next
        (slotDone (tileEnergy s j t 4 1) t 0 j [.mem (lsAddr r w) (leBytes 8 (sreg r (lsD w)))] .step)) ∧
    (∀ (t w m : Nat) (s : State) (r : TileRec) (j : Job), issue s t 0 0x08 = some (r, j, w) →
      matrixReads r (lsW w) = false → weightLoading r (lsW w) = false → m = mxMode (mxWord (bundleAt r r.pc)) →
      localOk (lsAddr r w) (blockLen m) 64 = true → exec (.wld t) s = .next
        (slotDone (tileEnergy s j t 4 (blockLen m / 64)) t 0 j [.weights (lsW w) m (lsAddr r w)] .step)) ∧
    (∀ (t w mode a pc : Nat) (s : State) (j : Job) (id : Nat × Nat),
      (s.tile t).loading.find? (fun e => decide (e.1 = w)) = some (w, mode, a, pc) → (s.tile t).job = some id →
      s.job id.1 id.2 = some j → accepting s = true → gated s 4 = false → matrixReads (s.tile t) w = false →
      pairPoison s j t a (blockLen mode) = none → (mode = 1 → mmqBlockOk (ldLocal s t a (blockLen mode)) = true) →
      exec (.wldComplete t w) s = .next ((tilePair s j.lane t).foldl (fun u k => weightsIn u k w) s)) ∧
    (∀ (t w mode a pc : Nat) (s : State),
      (s.tile t).loading.find? (fun e => decide (e.1 = w)) = some (w, mode, a, pc) →
      weightsIn s t w = s.setTile t { s.tile t with
        weights := tabPut (fun _ => ⟨3, []⟩) (s.tile t).weights w ⟨mode, ldLocal s t a (blockLen mode)⟩,
        loading := (s.tile t).loading.filter fun e => decide (e.1 ≠ w) }) ∧
    (∀ (load : Bool) (t w sb n : Nat) (s : State) (r : TileRec) (j : Job),
      issue s t 0 (if load then 0x10 else 0x11) = some (r, j, w) → sb = sreg r (lsSb w) → n = sreg r (lsSc w) →
      (n < 64 ∨ 1048576 < n ∨ n % 64 ≠ 0 ∨ (lsCls w = 1 ∧ sb % 64 ≠ 0) →
        exec (if load then .xld t else .xst t) s = .next (tileFault s t 8)) ∧
      (64 ≤ n → n ≤ 1048576 → n % 64 = 0 → localOk (lsAddr r w) n 64 = true → token r (lsTok w) < 255 →
        (lsCls w = 2 → sb % 2 ^ 22 % 64 = 0 → bits sb 32 16 < leAt (kernelDesc j j.kernel) 1 1 →
          sb % 2 ^ 22 + n ≤ 0x400000 → exec (if load then .xld t else .xst t) s = .next (slotDone s t 0 j
            [.copy ⟨0, load, [⟨tileBase (j.bind.getD (bits sb 32 16) 0) + sb % 2 ^ 22, 0, n, true⟩], lsAddr r w, lsTok w, false,
              0⟩] .step)) ∧
        (∀ l pa, lsCls w = 1 → sb % 64 = 0 → s.lane j.lane = some l → sb + n ≤ 0x100000 * l.bayLen →
          pa = 0x40000000 + 0x100000 * l.bayBase + sb → exec (if load then .xld t else .xst t) s =
            .next (slotDone s t 0 j [.copy ⟨0, load, [⟨pa, 0, n, true⟩], lsAddr r w, lsTok w, false, pa⟩] .step)) ∧
        (∀ (u : State) (ls : List (Land × Nat)) (b : Nat × Nat × Nat), lsCls w = 0 → sb % 64 = 0 → b = bufDesc s j (lsBuf w) →
          sb + n ≤ b.2.1 → bitB b.2.2 (if load then 0 else 1) = true →
          xlateAll (tileWho s j t) (!load) (pageSegs ((b.1 + sb) % 2 ^ 64) n) s = (u, .ok ls) →
          exec (if load then .xld t else .xst t) s = .next (slotDone u t 0 j [.copy ⟨0, load, landPieces ls, lsAddr r w, lsTok w,
            load || !bitB b.2.2 0, (b.1 + sb) % 2 ^ 64⟩] .step)))) ∧
    (∀ (t n : Nat) (s : State) (c : Copy) (id : Nat × Nat) (j : Job), (s.tile t).copies[n]? = some c →
      (s.tile t).job = some id → s.job id.1 id.2 = some j → accepting s = true → j.phase = .running →
      paceHolds s (.copy t c.num) = false →
      (∀ x, c.load = true → piecesPoison s j c.staged c.remote = none →
        x = copyRead j c.staged c.remote (copyTouch s j (tileWho s j t) false c.remote) →
        exec (.copyLand t n) s = .next (copyDone (stLocal x.1 j.lane t c.local_ x.2) t n c j)) ∧
      (∀ len, c.load = false → c.staged = false → len = (c.remote.map Piece.len).foldl (· + ·) 0 →
        localPoison s t c.local_ len = none → exec (.copyLand t n) s = .next (copyDone
          (copyWrite (copyTouch s j (tileWho s j t) true c.remote) j c.remote (ldLocal s t c.local_ len)) t n c j)) ∧
      (∀ (len : Nat) (u : State) (k : Job), c.load = false → c.staged = true → len = (c.remote.map Piece.len).foldl (· + ·) 0 →
        localPoison s t c.local_ len = none → ckptFits s j (copyNewPages j c.remote) = true →
        u = copyTouch s j (tileWho s j t) true c.remote → u.job j.q j.idx = some k →
        exec (.copyLand t n) s = .next (copyDone (u.setJob
          { stagePieces u c.remote (ldLocal s t c.local_ len) k with waitPage := none }) t n c j)))

/-- The matrix slot of a tile. When the slot may issue and no matrix operation runs: MMT with a feeder whose rows fit,
whose pixels fit its mode and whose weights are of that mode starts; a mismatch is tile fault kind 5; MPOOL likewise
without weights. The end of the operation, in both tiles of a pair, adds its rows to the accumulators, counts saturated
lanes and empty windows, and frees the unit; a pair whose rows differ is counted and faults. (R317, R329, R330, R331, R332, R333, R334, R335, R339) -/
def Obligations.TileMatrixSlotActs : Prop :=
  (∀ (t w : Nat) (s : State) (r : TileRec) (j : Job) (d : List Byte), issue s t 1 0x01 = some (r, j, w) → r.matrix = none →
      weightLoading r (mxW w) = false → d = feeder r (mxF w) →
      (d ≠ [] → mxRow w + feederRows d ≤ 512 → elemOk (mxMode w) (fdElem d) = true →
        (wbuf r (mxW w)).mode = 3 ∨ (wbuf r (mxW w)).mode = mxMode w → pixFit d (pixLen (fdElem d) (mxMode w)) = true →
        pixLen (fdElem d) (mxMode w) ≤ fdPixPitch d →
        exec (.mmt t) s = .next (slotDone s t 1 j [.matrix ⟨w, d⟩] .step)) ∧
      (d = [] ∨ 512 < mxRow w + feederRows d → exec (.mmt t) s = .next (tileFault s t 5))) ∧
    (∀ (t w : Nat) (s : State) (r : TileRec) (j : Job) (d : List Byte), issue s t 1 0x02 = some (r, j, w) → r.matrix = none →
      d = feeder r (mxF w) →
      (d ≠ [] → mxRow w + feederRows d ≤ 512 → exec (.mpool t) s = .next (slotDone s t 1 j [.matrix ⟨w, d⟩] .step)) ∧
      (d = [] ∨ 512 < mxRow w + feederRows d → exec (.mpool t) s = .next (tileFault s t 5))) ∧
    (∀ (t : Nat) (s : State) (m : MatOp) (rows : List (Nat × List (Nat × Nat))), (s.tile t).matrix = some m →
      rows = matrixRows s t (s.tile t) m → matrixLands s t = ((s.setTile t { s.tile t with
        acc := rows.foldl (fun a e => putLanes a e.1 (e.2.map Prod.fst)) (s.tile t).acc, matrix := none }).addSat (TILE_SAT.n t)
          ((rows.map fun e => (e.2.map Prod.snd).foldl (· + ·) 0).foldl (· + ·) 0)).addSat (TILE_EMPTY_WIN.n t) (emptyWindows m)) ∧
    (∀ (t : Nat) (s u v : State) (m : MatOp) (id : Nat × Nat) (j : Job) (n : Nat),
      (s.tile t).matrix = some m → (s.tile t).job = some id → s.job id.1 id.2 = some j → accepting s = true →
      gated s 4 = false → n = pixLen (fdElem m.feeder) (if opOf m.word = 1 then mxMode m.word else 0) →
      (matrixPixels m).findSome? (fun a => pairPoison s j t a n) = none →
      u = (tilePair s j.lane t).foldl matrixLands s →
      v = endGoes (tileEnergy u j t 4 ((matrixPixels m).length * (n / 64))) t j.lane →
      (lanePaired s j.lane = true → matrixGives s t ≠ matrixGives s (t + 1) →
        exec (.matrixOpEnd t) s = .next (pairFault u t)) ∧
      (lanePaired s j.lane = false ∨ matrixGives s t = matrixGives s (t + 1) →
        (opOf m.word ≠ 1 → exec (.matrixOpEnd t) s = .next v) ∧
        (opOf m.word = 1 → exec (.matrixOpEnd t) s = .next (tileEnergy v j t (mxMode m.word)
          (feederRows m.feeder * (if mxMode m.word = 2 then 4 else 1))))))

/-- The vector slot of a tile. When the slot may issue, each vector operation counts one vector event and makes exactly
its writes: the lanes of its result in vd, with the saturation count of VADD, VSUB, VMUL, VABS and VRED in INT32; VRED puts the
reduction in lane 0 and zeros in the others; VACC also clears its accumulator row where its clear bit is set, and
waits for a matrix operation that writes that row; VMOVS writes the sign-extended lane to a scalar register. (R317,
R318, R324, R325, R326, R336) -/
def Obligations.TileVectorSlotActs : Prop :=
  (∀ (t w : Nat) (s : State) (r : TileRec) (j : Job) (go : List SlotWrite → Host.Outcome State Fault Refusal),
      go = (fun ws => .next (slotDone (tileEnergy s j t 3 1) t 2 j ws .step)) →
      (issue s t 2 0x01 = some (r, j, w) → exec (.vadd t) s = go (vxArith (· + ·) Machine.Num.add r w)) ∧
      (issue s t 2 0x02 = some (r, j, w) → exec (.vsub t) s = go (vxArith (· - ·) (fun a b => a.add b.neg) r w)) ∧
      (issue s t 2 0x03 = some (r, j, w) → exec (.vmul t) s = go (vxArith (· * ·) Machine.Num.mul r w)) ∧
      (issue s t 2 0x04 = some (r, j, w) → exec (.vfma t) s = go (toVd w (List.zipWith (fun p c => toF32 (p.add (f32 c)))
        (List.zipWith (fun a b => (f32 a).mul (f32 b)) (vreg r (vxVa w)) (vreg r (vxVb w))) (vreg r (vxVc w))))) ∧
      (issue s t 2 0x05 = some (r, j, w) → exec (.vmax t) s = go (toVd w (vx2 laneMax r w))) ∧
      (issue s t 2 0x06 = some (r, j, w) → exec (.vmin t) s = go (toVd w (vx2 laneMin r w))) ∧
      (issue s t 2 0x07 = some (r, j, w) → exec (.vabs t) s = go (vxAbs r w)) ∧
      (issue s t 2 0x08 = some (r, j, w) → exec (.vshr t) s =
        go (toVd w (vx1 (fun a => toBits 32 (shrRne (sext 32 a) (bits (vxImm w) 0 5))) r w))) ∧
      (issue s t 2 0x09 = some (r, j, w) → exec (.vclamp t) s =
        go (toVd w (List.zipWith (laneMin (vxTy w)) (vx2 laneMax r w) (vreg r (vxVc w))))) ∧
      (issue s t 2 0x0A = some (r, j, w) → exec (.vcmp t) s = go (toVd w (vx2 (laneCmp (bits (vxImm w) 0 3)) r w))) ∧
      (issue s t 2 0x0B = some (r, j, w) → exec (.vsel t) s = go (toVd w (List.zipWith
        (fun (p : Nat × Nat) c => if c = 0 then p.2 else p.1) ((vreg r (vxVa w)).zip (vreg r (vxVb w))) (vreg r (vxVc w))))) ∧
      (issue s t 2 0x0C = some (r, j, w) → exec (.vperm t) s =
        go (toVd w ((vreg r (vxVb w)).map fun i => (vreg r (vxVa w)).getD (i % 64) 0))) ∧
      (issue s t 2 0x0D = some (r, j, w) → exec (.vred t) s =
        go (toVd w (redLane (vxTy w) (bits (vxImm w) 0 1) (vreg r (vxVa w)) :: List.replicate 63 0) ++
          (if vxTy w = 0 ∧ bits (vxImm w) 0 1 = 0 then
            [.sat (if satS 32 (((vreg r (vxVa w)).map (sext 32)).foldl (· + ·) 0) ≠
              ((vreg r (vxVa w)).map (sext 32)).foldl (· + ·) 0 then 1 else 0)] else []))) ∧
      (issue s t 2 0x0E = some (r, j, w) → exec (.vbcst t) s =
        go (toVd w (List.replicate 64 (sreg r (vxVa w) % 2 ^ 32)))) ∧
      (issue s t 2 0x10 = some (r, j, w) → exec (.vexp2 t) s = go (toVd w (vx1 (fun a => exp2Num 0x10 a (f32 a)) r w))) ∧
      (issue s t 2 0x11 = some (r, j, w) → exec (.vrcp t) s = go (toVd w (vx1 (rcpF32 0x11) r w))) ∧
      (issue s t 2 0x12 = some (r, j, w) → exec (.vrsqrt t) s = go (toVd w (vx1 (rsqrtF32 0x12) r w))) ∧
      (issue s t 2 0x18 = some (r, j, w) → matrixWrites r (vxRow w) = false → exec (.vacc t) s =
        go (toVd w (accRow r (vxRow w)) ++ (if vxClr w then [.acc (vxRow w) (List.replicate 64 0)] else []))) ∧
      (issue s t 2 0x18 = some (r, j, w) → matrixWrites r (vxRow w) = true → exec (.vacc t) s = .next s) ∧
      (issue s t 2 0x19 = some (r, j, w) → exec (.vcvt t) s = go (cvtWrites r w)) ∧
      (issue s t 2 0x1A = some (r, j, w) → exec (.vmovs t) s =
        go [.sreg (vxVd w) (toBits 64 (sext 32 ((vreg r (vxVa w)).getD (bits (vxImm w) 0 6) 0)))]))

/-- The control slot of a tile, and what ends or faults a kernel. When the slot may issue: the scalar operations write sd;
LOOP, BNZ, JMP and END give their control effect; FSET loads a feeder from 64 aligned local bytes; WAITT passes when
its tokens are clear and else waits, released when they clear; BAR waits, released for every tile at the barrier when
all are there; an empty slot does nothing. A bundle with a reserved encoding is tile fault kind 1. A mismatch of a
pair is counted and is fault kind 7. (R317, R318, R327, R328, R331, R336, R338, R339) -/
def Obligations.TileControlSlotActs : Prop :=
  (∀ (t w : Nat) (s : State) (r : TileRec) (j : Job) (go : List SlotWrite → CtlOp → Host.Outcome State Fault Refusal),
      go = (fun ws c => .next (slotDone s t 3 j ws c)) →
      (issue s t 3 0x01 = some (r, j, w) → exec (.saddi t) s =
        go [.sreg (ctSd w) (toBits 64 ((sreg r (ctSa w) : Int) + sext 16 (ctImm w)))] .step) ∧
      (issue s t 3 0x02 = some (r, j, w) → exec (.slui t) s =
        go [.sreg (ctSd w) (toBits 64 (sext 32 (ctImm w * 2 ^ 16)))] .step) ∧
      (issue s t 3 0x03 = some (r, j, w) → exec (.salu t) s =
        go [.sreg (ctSd w) (salu (bits (ctImm w) 5 5) (sreg r (ctSa w)) (sreg r (bits (ctImm w) 0 5)) % 2 ^ 64)] .step) ∧
      (issue s t 3 0x08 = some (r, j, w) → exec (.tileLoop t) s = go [] (.loop (ctImm w) (sreg r (ctSa w)))) ∧
      (issue s t 3 0x09 = some (r, j, w) → exec (.tileBnz t) s =
        go [] (if sreg r (ctSa w) ≠ 0 then jumpTo r w else .step)) ∧
      (issue s t 3 0x0A = some (r, j, w) → exec (.tileJmp t) s = go [] (jumpTo r w)) ∧
      (issue s t 3 0x11 = some (r, j, w) → tokensClear r (ctImm w) = true → exec (.tileWaitt t) s = go [] .step) ∧
      (issue s t 3 0x11 = some (r, j, w) → tokensClear r (ctImm w) = false → exec (.tileWaitt t) s =
        .next (s.setTile t { r with wait := some (.tokens (ctImm w)) })) ∧
      (issue s t 3 0x12 = some (r, j, w) → exec (.tileBar t) s = .next (s.setTile t { r with wait := some .bar })) ∧
      (issue s t 3 0x13 = some (r, j, w) → exec (.tileEnd t) s = go [] .stop) ∧
      (∀ d, issue s t 3 0x10 = some (r, j, w) → localOk (sreg r (ctSa w)) 64 64 = true →
        pairPoison s j t (sreg r (ctSa w)) 64 = none → d = ldLocal s t (sreg r (ctSa w)) 64 →
        (feederOk d = true → exec (.tileFset t) s =
          .next (slotDone (tileEnergy s j t 4 1) t 3 j [.feeder (bits w 6 2) d] .step)) ∧
        (feederOk d = false → exec (.tileFset t) s = .next (tileFault s t 5)))) ∧
    (∀ (t k w : Nat) (s : State) (r : TileRec) (j : Job), issue s t k 0 = some (r, j, w) →
      exec (.tileNop t k) s = .next (slotDone s t k j [] .step)) ∧
    (∀ (t m : Nat) (s : State), (s.tile t).wait = some (.tokens m) → accepting s = true → tokensClear (s.tile t) m = true →
      exec (.tileWaittRelease t) s = .next (releaseWait s t)) ∧
    (∀ (t : Nat) (s : State) (id : Nat × Nat) (j : Job), (s.tile t).job = some id → s.job id.1 id.2 = some j →
      accepting s = true →
      ((s.tile t).wait = some .bar → barReady s j = true → exec (.tileBarRelease t) s = .next
        (((kernelTiles s j).filter fun k => decide ((s.tile k).wait = some .bar)).foldl releaseWait s)) ∧
      (gated s 4 = false → j.phase = .running → (s.tile t).ended = false → (s.tile t).wait = none →
        (s.tile t).pc * 32 < (s.tile t).code.length →
        bundleLegal (bundleAt (s.tile t) (s.tile t).pc) (leAt j.image 6 2) = false →
        exec (.illegalBundle t) s = .next (tileFault s t 1))) ∧
    (∀ (k : Nat) (s : State) (id : Nat × Nat) (j : Job), k < 16 → (s.tile (2 * k)).job = some id →
      s.job id.1 id.2 = some j → accepting s = true → lanePaired s j.lane = true → j.phase = .running →
      exec (.pairMismatch k) s = .next (tileFault (s.addSat (TILE_PAIR_MISMATCH.n k) 1) (2 * k) 7))

/-- ATTEND, APPEND and SCATTER. At a step of its operation, with the accesses of the step admitted by the pacers, an attention
pipeline carries the step out and ends it where its fields keep their rules and no poison is in what is read: ATTEND works through its
entries in bucket order, APPEND appends one row for each pair of K and V rows in tile memory, SCATTER places each row
its entries name. A field out of its rules is attention fault kind 1, an extent outside a tile's memory kind 5. (R361,
R363, R366, R370, R371, R373, R374, R375, R381) -/
def Obligations.AttentionStepsAct : Prop :=
  (∀ (q i o : Nat) (f : Nat → Nat → State → State) (s t : State) (j : Job) (h st : List Byte) (b : Bool),
      attnAt s q i o = some (j, h, st, b) → Admitted (.job j.q j.idx) (f q i) s t →
      (o = 1 → f = attendStep → exec (.attend q i) s = .next t) ∧ (o = 2 → f = appendStep → exec (.append q i) s = .next t) ∧
      (o = 3 → f = scatterStep → exec (.scatter q i) s = .next t)) ∧
    (∀ (q i t : Nat) (s u : State) (j : Job) (h st bs : List Byte), attnAt s q i 1 = some (j, h, st, true) →
      leAt st 1 1 ≤ 2 → (leAt st 1 1 = 2 → leAt st 2 2 ≠ 0) → 1 ≤ leAt st 4 2 →
      leAt st 4 2 ≤ 4096 → leAt st 6 2 = 0 → leNat (slice st 9 3) = 0 → leNat (slice st 0x10 16) = 0 → leAt st 0xC 4 % 32 = 0 →
      tileSpan j (leAt st 8 1) (leAt st 0xC 4) (32 * leAt st 4 2) 0 = .ok t →
      attnRead j (tileBase t + leAt st 0xC 4) (32 * leAt st 4 2) s = (u, .ok bs) →
      attendStep q i s = stepDone (attendBatch j h st bs u).1 j (attendBatch j h st bs u).2) ∧
    (∀ (j : Job) (h st bs : List Byte) (s : State), attendBatch j h st bs s =
      attendAll j h st (bucketOrder s j h st (records 32 bs (leAt st 4 2)))
        ((bucketOrder s j h st (records 32 bs (leAt st 4 2))).foldl (fun u e => u.addWrap (ATT_BUCKET.n e.1) 1) s)) ∧
    (∀ (q i : Nat) (s : State) (j : Job) (h st : List Byte), attnAt s q i 1 = some (j, h, st, true) →
      leAt st 4 2 = 0 → attendStep q i s = attnFault s j 1 0) ∧
    (∀ (q i t t' w n : Nat) (s u v : State) (j : Job) (h st kb vb : List Byte) (r : ARes Unit),
      attnAt s q i 2 = some (j, h, st, true) → n = leAt st 4 2 → w = hdDim h * kvWidth (hdKv h) →
      leAt st 2 2 < hdNSeq h → 1 ≤ n → n ≤ 4096 → leAt st 1 1 = 0 → leAt st 6 2 = 0 → leNat (slice st 9 3) = 0 →
      leNat (slice st 0x14 12) = 0 → leAt st 0xC 4 % 64 = 0 → leAt st 0x10 4 % 64 = 0 →
      tileSpan j (leAt st 8 1) (leAt st 0xC 4) (n * rowPitch w) 0 = .ok t →
      tileSpan j (leAt st 8 1) (leAt st 0x10 4) (n * rowPitch w) 0 = .ok t' →
      attnRead j (tileBase t + leAt st 0xC 4) (n * rowPitch w) s = (u, .ok kb) →
      attnRead j (tileBase t + leAt st 0x10 4) (n * rowPitch w) u = (v, .ok vb) →
      r = appendAll j h ((List.range n).map fun k =>
        (leAt st 2 2, 0, slice kb (k * rowPitch w) w, slice vb (k * rowPitch w) w)) v →
      appendStep q i s = stepDone r.1 j r.2) ∧
    (∀ (q i t w n : Nat) (s u : State) (j : Job) (h st bs : List Byte) (r : ARes Unit),
      attnAt s q i 3 = some (j, h, st, true) → n = leAt st 4 2 → w = kvWidth (hdKv h) →
      leAt st 2 2 % w = 0 → w ≤ leAt st 2 2 → leAt st 2 2 ≤ 4096 → 1 ≤ n → n ≤ 4096 → leAt st 1 1 = 0 → leAt st 6 2 = 0 →
      leNat (slice st 9 3) = 0 → leNat (slice st 0x10 16) = 0 → leAt st 0xC 4 % 16 = 0 →
      tileSpan j (leAt st 8 1) (leAt st 0xC 4) (16 * n) 0 = .ok t →
      attnRead j (tileBase t + leAt st 0xC 4) (16 * n) s = (u, .ok bs) →
      r = scatterAll j h t (leAt st 8 1) (leAt st 2 2) ((records 16 bs n).zipIdx) u →
      scatterStep q i s = stepDone r.1 j r.2)

/-- The commands of a graphics stream. The command at the stream's position, when it keeps its rules, takes effect and
moves the stream past itself: TARGET unbinds or binds a surface it has read, and one after a draw waits; SHADER, STATE
and VERTEX set their part of the state; DRAW with its shaders and a target bound applies its fragments in submission
order, or in direct mode puts them in flight; CLEAR clears the bound targets it names; BINS sets the bins; END ends
the stream. A fragment in flight retires when no earlier one at its pixel is left. (R411, R412, R413, R414, R418,
R419, R420, R422) -/
def Obligations.GraphicsCommandsAct : Prop :=
  (∀ (q i : Nat) (s : State) (j : Job) (c : List Byte), gfxAt s q i 0x01 = .cmd j c → leAt c 4 1 ≤ 4 → leAt c 5 3 = 0 →
      (j.drew = true → exec (.gfxTarget q i) s = .next s) ∧
      (j.drew = false → leAt c 8 8 = 0 → exec (.gfxTarget q i) s = .next (gfxNext s q i 1 fun x =>
        { x with gfx := { x.gfx with targets := tabPut (fun _ => []) x.gfx.targets (leAt c 4 1) [] } })) ∧
      (∀ g bs, j.drew = false → leAt c 8 8 ≠ 0 → (gio s q i).rd (leAt c 8 8) 32 = (g, bs) → g.err = none →
        surfaceOk bs = true → targetFmt (leAt c 4 1) (sdFmt bs) = true → exec (.gfxTarget q i) s =
        .next (gfxNext g.s g.q g.idx 1 fun x =>
          { x with gfx := { x.gfx with targets := tabPut (fun _ => []) x.gfx.targets (leAt c 4 1) bs } }))) ∧
    (∀ (q i : Nat) (s : State) (j : Job) (c bs : List Byte) (g : Gio), gfxAt s q i 0x02 = .cmd j c → leAt c 4 1 ≤ 1 →
      leAt c 5 3 = 0 → (gio s q i).rd (leAt c 8 8) 16 = (g, bs) → g.err = none → leAt bs 0 4 = 0x52484453 → leAt bs 4 2 = 1 →
      leNat (slice bs 6 10) = 0 → exec (.gfxShader q i) s = .next (gfxNext g.s g.q g.idx 1 fun x => { x with
        gfx := if leAt c 4 1 = 0 then { x.gfx with vertexShader := leAt c 8 8 + 1 }
          else { x.gfx with fragShader := leAt c 8 8 + 1 } })) ∧
    (∀ (q i : Nat) (s : State) (j : Job) (c : List Byte), gfxAt s q i 0x03 = .cmd j c → bits (leAt c 4 4) 5 2 ≠ 3 →
      bits (leAt c 4 4) 12 20 = 0 → leAt c 0x18 8 = 0 →
      exec (.gfxState q i) s = .next (gfxNext s q i 2 fun x => { x with gfx := { x.gfx with state := c } })) ∧
    (∀ (q i : Nat) (s : State) (j : Job) (c : List Byte), gfxAt s q i 0x04 = .cmd j c → 4 ≤ leAt c 4 2 → leAt c 4 2 ≤ 256 →
      leAt c 4 2 % 4 = 0 → leAt c 6 2 = 0 → leAt c 0x14 1 ≤ 2 → leAt c 0x15 3 = 0 →
      exec (.gfxVertex q i) s = .next (gfxNext s q i 2 fun x => { x with gfx := { x.gfx with vertex := c } })) ∧
    (∀ (q i np : Nat) (frags fs : List Frag) (s : State) (j : Job) (c : List Byte), gfxAt s q i 0x05 = .cmd j c →
      leAt c 4 1 ≤ 3 → leAt c 5 3 = 0 → 1 ≤ leAt c 0xC 4 → leAt c 0xC 4 ≤ 16777216 → j.gfx.vertexShader ≠ 0 →
      j.gfx.fragShader ≠ 0 → boundTargets j.gfx ≠ [] → fs = frags.filter (fragInside j.gfx) → fragsOrdered fs = true →
      np = primCount (leAt c 4 1) (leAt c 0xC 4) → (∀ f ∈ fs, f.prim < np) →
      ((jobPkt s j).u 0xD 1 = 1 → ((fs.map fun f => (f.x, f.y)).eraseDups).length ≤ 16384 →
        exec (.gfxDraw q i frags) s = .next (gfxEndCmd s (drawReads j.gfx c (gio s q i)) 1 fun x =>
          { x with drew := true, frags := fs })) ∧
      (∀ fill splits, (jobPkt s j).u 0xD 1 ≠ 1 → j.binned = true → 64 * passBins j.gfx + 4096 ≤ leAt j.gfx.bins 4 4 →
        binAll ((leAt j.gfx.bins 4 4 - 64 * passBins j.gfx) / 8) ((List.range np).map (primBins fs)) (j.binFill, 0) =
          some (fill, splits) → ∀ g : Gio, g = fs.foldl (applyFrag j.gfx) (binBytes (drawReads j.gfx c (gio s q i)) j.gfx fill) →
        exec (.gfxDraw q i frags) s = .next (gfxEndCmd s
          { g with s := (g.s.addSat GFX_SPLITS.n splits).addWrap GFX_BINS.n (splits * passBins j.gfx) } 1 fun x =>
            { x with drew := true, binFill := fill }))) ∧
    (∀ (q i n : Nat) (s : State) (j : Job) (f : Frag), s.job q i = some j → j.frags[n]? = some f → accepting s = true →
      gated s 7 = false → j.phase = .running → ((j.frags.take n).any fun g => decide (g.x = f.x ∧ g.y = f.y)) = false →
      exec (.fragmentRetire q i n) s = .next (gfxEndCmd s (applyFrag j.gfx (gio s q i) f) 0 fun x =>
        { x with frags := x.frags.eraseIdx n })) ∧
    (∀ (q i : Nat) (s : State) (j : Job) (c : List Byte) (r : Gio × Nat × Nat), gfxAt s q i 0x06 = .cmd j c →
      leAt c 4 1 < 32 → leAt c 5 3 = 0 → leNat (slice c 0x10 16) = 0 →
      r = ((boundTargets j.gfx).filter fun t => bitB (leAt c 4 1) t.1).foldl (fun (a : Gio × Nat × Nat) t =>
        let x := clearSlot a.1 t.1 t.2 (slice c 8 4) (slice c 0xC 4)
        (x.1, a.2.1 + x.2.1, a.2.2 + x.2.2)) (gio s q i, 0, 0) →
      exec (.gfxClear q i) s = .next (gfxEndCmd s
        { r.1 with s := (r.1.s.addWrap GFX_BLOCKS.n r.2.1).addWrap GFX_SECTORS.n r.2.2 } 2 fun x => { x with drew := true })) ∧
    (∀ (q i : Nat) (s : State) (j : Job) (c : List Byte), gfxAt s q i 0x07 = .cmd j c →
      (leAt c 4 4 % 4096 = 0 → leAt c 8 8 % 4096 = 0 → 64 * passBins j.gfx + 4096 ≤ leAt c 4 4 → exec (.gfxBins q i) s =
        .next (gfxNext s q i 1 fun x => { x with gfx := { x.gfx with bins := c }, binned := true, binFill := 0 })) ∧
      (leAt c 4 4 % 4096 ≠ 0 → exec (.gfxBins q i) s = .next (gfxFault s j 3))) ∧
    (∀ (q i : Nat) (s : State) (j : Job) (c : List Byte), gfxAt s q i 0x0F = .cmd j c → leNat (slice c 4 12) = 0 →
      exec (.gfxEnd q i) s = .next (gfxNext s q i 1 fun x => { x with gfxEnd := true }))

/-- Blanks, links and underruns of an output, and the packets of a camera. At a vertical blank of an enabled output TIME
is latched, its waiting packets take effect in order as the pacers admit them and the next frame starts, unless the output
stops with its owner; the link comes up on an enabled output
with its plug; an underrun is counted and shows the background from its pixel on; a hot-plug change moves the pad and
takes a lost display's link down. A camera packet keeps SENS running, and with its accesses admitted by the pacers takes
effect: a frame start closes an open frame and opens the next, a frame end closes it, a line
of the stream's type is stored and one of another type counted as discarded, and a frame without an end for more than one
second is closed short. (R430, R431, R434, R439, R440, R441, R564) -/
def Obligations.DisplayAndSensorEventsAct : Prop :=
  (∀ (o : Nat) (s t u v : State), o < 4 → accepting s = true → outEnabled s o = true ∨ blankPkts s o ≠ [] →
      t = (s.set64 (DISP_VBLANK_LO.lo o) (DISP_VBLANK_HI.hi o) (s.nowAt 8)).setF (DISP_LINE.line o)
        (tmVActive (s.disp o).timing) →
      u = (blankPkts s o).foldl (fun t p => paceAct (.packet p.q p.idx) (fun x => blankPkt o x p) t) t →
      v = (if outEnabled u o ∧ leaving u (u.getF (DISP_OUT_STATE.owner o)) then stopOutput u o else u) →
      exec (.verticalBlank o) s = .next (if outEnabled v o then startFrame v o else v)) ∧
    (∀ (o : Nat) (s : State), o < 4 → outEnabled s o = true → hotPlug s o = true →
      exec (.displayLinkUp o) s = .next (s.setF (DISP_OUT_STATE.link_up o) 1)) ∧
    (∀ (o line x : Nat) (s : State) (d : DispRec) (bg : List Nat), o < 4 → outEnabled s o = true → d = s.disp o →
      line < tmVActive d.timing → bg = (bgOf d.timing).map (fun c => roundChannel (tmMax d.timing) (c, 255)) →
      exec (.displayUnderrun o line x) s = .next (((s.addSat (DISP_UNDERRUN.n o) 1).setF (DISP_LINE.line o) line).setDisp o
        { d with pixels := d.pixels.modify line (cutRow bg x) })) ∧
    (∀ (o : Nat) (level : Bool) (s t : State), o < 2 → (s.pad (16 + o)).parking = false →
      t = (if (s.pad (16 + o)).func = 1 then s.setPad (16 + o) { s.pad (16 + o) with level := level, inp := level, pend := [] }
        else padPush s (16 + o) (s.pad (16 + o)) level 0) → exec (.hotPlugDetectChange o level) s = .next
        (if outEnabled t o && !hotPlug t o then (t.setF (DISP_OUT_STATE.link_up o) 0).setF (DISP_OUT_STATE.showing o) 0 else t)) ∧
    (∀ (t dt : Nat) (ecc : HeaderEcc) (crc : Bool) (kept : Option Nat) (px : List Nat) (s u : State),
      (Admitted (.device (.frameStart t ecc)) (frameStart t ecc s.now) (demand s 9) u →
        exec (.sensorFrameStart t ecc) s = .next u) ∧
      (Admitted (.device (.frameEnd t ecc)) (frameEnd t ecc) (demand s 9) u → exec (.sensorFrameEnd t ecc) s = .next u) ∧
      (Admitted (.device (.line t ecc dt crc kept px)) (lineReceive t ecc dt crc kept px) (demand s 9) u →
        exec (.sensorLineReceive t ecc dt crc kept px) s = .next u) ∧
      (Admitted (.device (.frameTimeout t)) (frameTimeout t) s u → exec (.sensorFrameTimeout t) s = .next u)) ∧
    (∀ (t tick : Nat) (s u : State) (r : SensRec), t < 16 → u = endFrame s t →
      streamOn s t = true → mainReleased s = true → streamOn u t = true → u.sens t = some r →
      frameStart t .clean tick s = startSensFrame u t tick r) ∧
    (∀ (t : Nat) (s : State), t < 16 → streamOn s t = true → mainReleased s = true → frameEnd t .clean s = endFrame s t) ∧
    (∀ (t dt : Nat) (crc : Bool) (kept : Option Nat) (px : List Nat) (s : State) (r : SensRec) (f : SensFrame), t < 16 →
      streamOn s t = true → mainReleased s = true → s.sens t = some r →
      (dt ≠ leAt r.params 2 1 → lineReceive t .clean dt crc kept px s = s.addSat (SENS_DISCARD.n (t / 4)) 1) ∧
      (dt = leAt r.params 2 1 → r.frame = some f → lineReceive t .clean dt crc kept px s = putLine s t r f crc kept px)) ∧
    (∀ (t tick : Nat) (ecc : HeaderEcc) (s : State), t < 16 → mainReleased s = true →
      (frameStart t .uncorrectable tick s = s.addSat (SENS_ECC.n (t / 4)) 1) ∧
      (streamOn s t = false → ecc = .clean → frameEnd t ecc s = s.addSat (SENS_DISCARD.n (t / 4)) 1)) ∧
    (∀ (t : Nat) (s : State) (r : SensRec) (f : SensFrame), t < 16 → mainReleased s = true → streamOn s t = true →
      s.sens t = some r → r.frame = some f →
      (f.time + 100000000 < s.nowAt 9 → frameTimeout t s = closeFrame s t r { f with flags := putBits f.flags 1 1 1 }) ∧
      (s.nowAt 9 ≤ f.time + 100000000 → frameTimeout t s = s))

/-- Ethernet descriptors and frames, and CAN frames. The owner's tail writes move the tails. A frame keeps NET running; with its
accesses admitted by the pacers, the next descriptor handed over is read and its frame sent, and a received frame of legal length goes to the next free descriptor, and is dropped and
counted where none is free, or counted as an error where its FCS or length is wrong. A CAN frame received goes through
the router and the filters; a remote frame is counted and discarded. The head of the router queue is sent before the
head of the host queue. Bus-off drops both queues and ends the waiting packets; recovery clears the counters. A link
change shows in NET_STATE of an enabled port. (R443, R444, R445, R448, R449, R451, R452, R453, R169) -/
def Obligations.NetworkAndCanEventsAct : Prop :=
  (∀ (m : BusMaster) (n : Nat) (v : Word) (s : State), n < 6 → mainReleased s = true →
      exec (.netTxTailWrite m n v) s =
        .next (plainWrite (busDemand s m (NET_TX_TAIL.addr n)) m (NET_TX_TAIL.addr n) v.toNat).1 ∧
      exec (.netRxTailWrite m n v) s =
        .next (plainWrite (busDemand s m (NET_RX_TAIL.addr n)) m (NET_RX_TAIL.addr n) v.toNat).1) ∧
    (∀ (n : Nat) (fcs : Bool) (fr : List Byte) (s u : State),
      (Admitted (.device (.netTx n)) (netTransmit n) (demand s 12) u → exec (.netFrameTransmit n) s = .next u) ∧
      (Admitted (.device (.netRx n fcs fr)) (netReceive n fcs fr s.now) (demand s 12) u →
        exec (.netFrameReceive n fcs fr) s = .next u)) ∧
    (∀ (n va : Nat) (s u : State) (d : List Byte), netUp s n = true → s.flag (NET_RING_CFG.tx_en n) = true →
      (s.netNext n).1 % netTxSlots s n ≠ s.getF (NET_TX_TAIL.tail n) % netTxSlots s n →
      va = netTxBase s n + 32 * ((s.netNext n).1 % netTxSlots s n) →
      dmaRead (s.setNetNext n ((s.netNext n).1 + 1, (s.netNext n).2)) (netWho s n) va 32 = (u, .ok d) →
      netWho (s.setNetNext n ((s.netNext n).1 + 1, (s.netNext n).2)) n = netWho s n → bitB (leAt d 0xA 2) 0 = true →
      netTransmit n s = netSend u n va d) ∧
    (∀ (n tick : Nat) (fcs : Bool) (fr : List Byte) (s : State), netUp s n = true → s.flag (NET_RING_CFG.rx_en n) = true →
      (fcs = false ∨ fr.length < 60 ∨ 9212 < fr.length → netReceive n fcs fr tick s = s.addSat (NET_RX_ERR.n n) 1) ∧
      (fcs = true → 60 ≤ fr.length → fr.length ≤ 9212 →
        (s.netNext n).2 % netRxSlots s n = s.getF (NET_RX_TAIL.tail n) % netRxSlots s n →
        netReceive n fcs fr tick s = s.addSat (NET_RX_DROP.n n) 1) ∧
      (∀ va u d, fcs = true → 60 ≤ fr.length → fr.length ≤ 9212 →
        (s.netNext n).2 % netRxSlots s n ≠ s.getF (NET_RX_TAIL.tail n) % netRxSlots s n →
        va = netRxBase s n + 32 * ((s.netNext n).2 % netRxSlots s n) → dmaRead s (netWho s n) va 32 = (u, .ok d) →
        bitB (leAt d 0xA 2) 0 = true → netReceive n fcs fr tick s =
          netStore (u.setNetNext n ((s.netNext n).1, (s.netNext n).2 + 1)) n tick va d fr)) ∧
    (∀ (n : Nat) (up : Bool) (s : State), n < 6 → mainReleased s = true → exec (.ethernetLinkChange n up) s =
      .next (s.setF (NET_STATE.link n) (b2n (up && s.flag (NET_PORT_CFG.enable n))))) ∧
    (∀ (c sof : Nat) (f : CanFrame) (esi : Bool) (s : State), canOnBus s c = true → scanHolds s = false →
      exec (.canFrameReceive c f true esi sof) s = .next (s.addSat (CAN_ERR.n c) 1) ∧
      (f.fd = false ∨ canMode s c ≠ 2 → exec (.canFrameReceive c f false esi sof) s =
        .next (acceptFrame (routeFrame s c f) c f esi sof))) ∧
    (∀ (c : Nat) (s : State) (x : CanFrame) (rest : List CanFrame), canOnBus s c = true → (s.can c).router = x :: rest →
      x.fd = false ∨ canMode s c ≠ 2 → exec (.canFrameTransmit c) s =
        .next (canSend (s.setCan c { s.can c with router := rest }) c x)) ∧
    (∀ (c : Nat) (s : State) (h : CanQueued) (rest : List CanQueued) (k : Nat × Nat), canOnBus s c = true →
      (s.can c).router = [] → (s.can c).host = h :: rest →
      (h.pkt = some k → exec (.canFrameTransmit c) s = .next (canDrained (canFeed
        (txDone (canSend (s.setCan c { s.can c with host := rest }) c h.frame) k) c) c)) ∧
      (h.pkt = none → exec (.canFrameTransmit c) s = .next (canDrained (canFeed
        (canSend (s.setCan c { s.can c with host := rest }) c h.frame) c) c))) ∧
    (∀ (c : Nat) (s u : State), canOnBus s c = true →
      u = ((((s.addSat (CAN_TX_DROP.n c) ((s.can c).router.length + (s.can c).host.length)).fresh.2.setF (CAN_STATE.bus c) 2).setF
        (CAN_STATE.tec c) (s.addSat (CAN_TX_DROP.n c) ((s.can c).router.length + (s.can c).host.length)).fresh.1).setCan c
          { s.can c with router := [], host := [] }) →
      exec (.canBusOff c) s = .next (canDrained ((txPkts u c).foldl
        (fun t p => complete t p 0 (txSent p + 2 ^ 31) 0) u) c)) ∧
    (∀ (c : Nat) (s : State), c < 16 → canMode s c ≠ 0 → s.getF (CAN_STATE.bus c) = 2 → canPowered s c = true →
      exec (.canBusRecover c) s = .next (((s.setF (CAN_STATE.bus c) 0).setF (CAN_STATE.tec c) 0).setF (CAN_STATE.rec c) 0))

/-- Host loads and stores, inbound PCIe, poison and the scrubber. A host core's access, and an inbound request, is a demand on
what it needs, and takes effect when the pacers admit it. A host core's access reaches a register of an
implemented slot, or memory its instance reaches; an inbound request on a link that is up is carried out; a link comes
up at a width and generation it is configured for, and goes down with its state cleared. A read that meets an
uncorrectable error poisons its line once and its reader meets the poison. The scrubber checks the next word of tile
or Bay memory and counts a pass at the last. (R248, R249, R252, R263, R277, R278, R458, R459, R461) -/
def Obligations.HostAndDeviceAccessesAct : Prop :=
  (∀ (core addr len : Nat) (machine : Bool) (st : Option (List Byte)) (s t : State), core < 12 → accessLen len st ≠ 0 →
      s.clk.mode = .on ∨ s.clk.mode = .dozeEntry → mainReleased s = true →
      Admitted (.device (.host core machine addr len st)) (hostAccess core machine addr len st) (demand (demand s 3) 11) t →
      exec (.hostCoreLoadStore core machine addr len st) s = .next t) ∧
    (∀ (core addr len : Nat) (machine : Bool) (st : Option (List Byte)) (s : State),
      (region s addr = .sageRegs ∨ region s addr = .mainRegs → inSlot addr = true →
        hostAccess core machine addr len st s = hostReg s (.hostCore core machine) addr (accessLen len st) st) ∧
      (region s addr = .sageRegs ∨ region s addr = .mainRegs → inSlot addr = false →
        hostAccess core machine addr len st s = hostFault s
          (hostWho core ((masterInst s (.hostCore core machine)).getD 0)) addr st.isSome) ∧
      (region s addr ≠ .sageRegs → region s addr ≠ .mainRegs → hostAccess core machine addr len st s = hostMem s
        (hostWho core ((masterInst s (.hostCore core machine)).getD 0)) addr (accessLen len st) st)) ∧
    (∀ (k : Nat) (r : PcieReq) (s t : State), k < 2 → k ∈ s.pcieUp →
      Admitted (.device (.pcie k r)) (fun u => pcieRequest u k r) (demand (demand s 12) 11) t →
      exec (.pcieInbound k r) s = .next t) ∧
    (∀ (k : Nat) (r : PcieReq) (s : State), s.getF (PCIE_CFG.role k) ≠ 0 → s.clk.mode ≠ .doze →
      (r.write = true → r.ep = true → pcieRequest s k r = pcieErr s k) ∧
      (r.ep = false → pcieRequest s k r = pcieMem s k r)) ∧
    (∀ (k : Nat) (s : State), k ∈ s.pcieUp → exec (.pcieLinkDown k) s = .next (linkDown s k)) ∧
    (∀ (k w g : Nat) (s t : State), k < 2 → mainReleased s = true → s.clk.mode ≠ .doze → perstLow s k = false →
      w ≤ s.getF (PCIE_CFG.width k) → 1 ≤ g → g ≤ s.getF (PCIE_CFG.gen k) →
      t = ((s.setF (PCIE_STATE.link_up k) 1).setF (PCIE_STATE.width k) w).setF (PCIE_STATE.gen k) g →
      exec (.pcieLinkUp k w g) s = .next { t with pcieUp := setAdd (t.pcieUp.filter fun x => decide (x ≠ k)) k }) ∧
    (∀ (r : PoisonReader) (a : Nat) (e : ReadError) (s t : State), mainReleased s = true → hasEcc s a = true →
      t = lineError s a (readerId s r) e →
      (a / 64 ∈ t.ms.poison → exec (.poisonRead r a e) s = .next (poisonGiven t a r)) ∧
      (a / 64 ∉ t.ms.poison → exec (.poisonRead r a e) s = .next t)) ∧
    (∀ (a m : Nat) (s : State), lineError s a m .data = poisonOnce s a (readKind s a) m ∧
      (readKind s a = 3 → lineError s a m .linkRecovered = s.addSat (MEM_ECC_CE.n 3) 1 ∧
        lineError s a m .linkFailed = poisonOnce s a 3 m)) ∧
    (∀ (s : State) (a kind m : Nat), a / 64 ∈ s.ms.poison → poisonOnce s a kind m = s) ∧
    (∀ (f : ScrubFinding) (s u : State), s.flag MEM_SCRUB.scrub_en = true → mainReleased s = true → s.clk.mode ≠ .doze →
      u = scrubWord s (0x60000000 + 8 * s.ms.scrubTile) 0 f →
      (s.ms.scrubTile + 1 ≠ 0x1000000 → exec (.patrolScrub true f) s =
        .next { u with ms := { u.ms with scrubTile := s.ms.scrubTile + 1 } }) ∧
      (s.ms.scrubTile + 1 = 0x1000000 → ∀ v : State, v = u.addWrap MEM_SCRUB_PASS.tile 1 → exec (.patrolScrub true f) s =
        .next { v with ms := { v.ms with scrubTile := 0 } }))

/-- Training, loss, bypass and sleep of the ring ports. Received code-groups are decoded, their errors counted. Training sets
on a training port are answered and counted; the port comes up after eight of the second kind with sixteen sent and no
miswire; two of the first kind take an UP port DOWN; training restarts each millisecond; a port that loses its link goes
DOWN. The bypass passes symbols on while it is closed; it closes when a rail, Sage or both ports are gone and opens
when none is and a port is enabled. Sleep symbols put the UP ports of a node other than 0 to sleep; a sleeping port
wakes and relocks, or goes DOWN after one millisecond of signal without lock. (R205, R206, R207, R210, R211, R244,
R245) -/
def Obligations.RingPortEventsAct : Prop :=
  (∀ (p : Nat) (gs : List Nat) (s t : State) (xs : List (Option RingSym)), p < 2 →
      rxSyms (demand s 13) p gs = (t, xs) →
      (bypassOpen s = false → exec (.ringTrainingSet p gs) s = .next (passOn s p gs)) ∧
      (bypassOpen s = true → portEn s p = true →
        (readTrain xs = none → exec (.ringTrainingSet p gs) s = .next (endSets t p)) ∧
        (∀ b n, readTrain xs = some (b, n) →
          (portState s p = 1 → exec (.ringTrainingSet p gs) s = .next (trainStep t p b n)) ∧
          (portState s p = 2 → exec (.ringTrainingSet p gs) s = .next (trainOnUp t p b))))) ∧
    (∀ (p n : Nat) (ts2 : Bool) (s t : State) (r : RingPort), bits n 4 1 ≠ p → n % 16 ≠ ownNode s →
      r = { s.rport p with seen := (s.rport p).seen + 1, seen2 := if ts2 then (s.rport p).seen2 + 1 else 0,
                           sent2 := if 8 ≤ (s.rport p).seen then (s.rport p).sent2 + 1 else 0 } →
      t = (sendSyms s p (trainSet s p (decide (8 ≤ (s.rport p).seen)))).setRport p r →
      (8 ≤ r.seen2 → 16 ≤ r.sent2 → miswired s p = false → trainStep s p ts2 n = portComesUp t p (n % 16)) ∧
      (r.seen2 < 8 → trainStep s p ts2 n = t)) ∧
    (∀ (p : Nat) (s : State), 1 ≤ (s.rport p).ts1 → trainOnUp s p false = portDown s p) ∧
    (∀ (p : Nat) (s : State), p < 2 → portEn s p = true → portState s p = 1 → (s.rport p).since + 100000 ≤ s.now →
      exec (.ringTrainRestart p) s = .next (trainPort s p)) ∧
    (∀ (p n : Nat) (gs : List Nat) (s t : State) (xs : List (Option RingSym)), p < 2 → bypassOpen s = true →
      portEn s p = true → portUp s p = true →
      (rxSyms s p [] = (t, xs) →
        (32 ≤ n → exec (.ringPortDown p (.silent n)) s = .next (portDown (endSets t p) p)) ∧
        (8192 ≤ n → exec (.ringPortDown p (.noIdle n)) s = .next (portDown (endSets t p) p))) ∧
      (rxSyms s p gs = (t, xs) →
        (errorBurst xs = true → exec (.ringPortDown p (.groups gs)) s = .next (portDown (endSets t p) p)) ∧
        (errorBurst xs = false → exec (.ringPortDown p (.groups gs)) s = .next (endSets t p)))) ∧
    (∀ s : State, bypassOpen s = true → groupsGood s = false ∨ s.boot.sage = .held ∨ (portEn s 0 = false ∧ portEn s 1 = false) →
      exec .bypassClose s = .next (closeBypass s)) ∧
    (∀ s : State, bypassOpen s = false → groupsGood s = true → s.boot.sage ≠ .held → portEn s 0 = true ∨ portEn s 1 = true →
      exec .bypassOpen s = .next (openBypass s)) ∧
    (∀ s u : State, ownNode s ≠ 0 → bypassOpen s = true → upPorts s ≠ [] →
      u = (upPorts s).foldl (fun t p => (setPortState (sendSyms t p (sleepSyms 16)) p 4).setRport p RingPort.init) s →
      exec .ringSleepSet s = .next (if u.flag CLK_STATE.in_sweep then closeWindow u else u)) ∧
    (∀ (p : Nat) (s : State), p < 2 → bypassOpen s = true → portEn s p = true → portState s p = 4 →
      (s.rport p).signalAt.isSome = true →
      exec (.ringSleepWake p true) s = .next (portRelocked s p) ∧ exec (.ringSleepWake p false) s = .next s) ∧
    (∀ (p : Nat) (s t u : State), p < 2 → bypassOpen s = true → portEn s p = true → portState s p = 4 →
      (s.rport p).signalAt = none → t = s.setRport p { s.rport p with signalAt := some s.now } →
      u = [0, 1].foldl (fun v k => if portState v k = 4 then sendSyms v k idleSet else v) t →
      ownNode u = 0 ∨ u.clk.mode ≠ .park → exec (.ringSleepWake p false) s = .next u) ∧
    (∀ (p k : Nat) (s : State), p < 2 → portState s p = 4 → (s.rport p).signalAt = some k → k + 100000 < s.now →
      exec (.ringRelockTimeout p) s = .next (parkSweepDue (portDown s p)))

/-- Frames of the ring and the timers of its operations. A frame that arrives whole on an UP port, its symbols without a burst
of errors and its check and header right, takes its way through the ring; a damaged one is counted. The command named for a type acts on frames of that
type and lets others be. Node 0 sends TIMESYNC each period; a baton, a leg, or a message frame not back in time is
issued again, moved on, or retried; a write of RING_PBUF_RD frees the entries up to it. (R213, R215, R216, R221, R223,
R225, R229, R232, R234, R235, R240, R242) -/
def Obligations.RingFramesAndTimersAct : Prop :=
  (∀ (p : Nat) (gs : List Nat) (s : State) (f : RFrame), p < 2 → bypassOpen s = true → portEn s p = true →
      lineFrame s p gs = some f → exec (.ringFrameReceive p gs) s = .next (frameOn s p gs) ∧
      (f.typ = 1 → exec (.sweepFrame p gs) s = .next (frameOn s p gs)) ∧
      (f.typ = 2 → exec (.recollectFrame p gs) s = .next (frameOn s p gs)) ∧
      (f.typ = 3 → exec (.dataFrame p gs) s = .next (frameOn s p gs)) ∧
      (f.typ = 4 → exec (.batonFrame p gs) s = .next (frameOn s p gs)) ∧
      (f.typ = 5 → exec (.probeFrame p gs) s = .next (frameOn s p gs)) ∧
      (f.typ = 6 → exec (.wrapFrame p gs) s = .next (frameOn s p gs)) ∧
      (f.typ = 7 → exec (.timesyncFrame p gs) s = .next (frameOn s p gs)) ∧
      (f.typ ≠ 1 → exec (.sweepFrame p gs) s = .next s)) ∧
    (∀ (p : Nat) (gs : List Nat) (s t : State) (xs : List (Option RingSym)), rxSyms (demand s 13) p gs = (t, xs) →
      (portUp s p = false → frameOn s p gs = endSets t p) ∧
      (portUp s p = true → errorBurst xs = true → frameOn s p gs = portDown (endSets t p) p) ∧
      (portUp s p = true → errorBurst xs = false → lineFrame s p gs = none →
        frameOn s p gs = (endSets t p).addSat (RING_ERR.crc p) 1) ∧
      (∀ f, portUp s p = true → errorBurst xs = false → lineFrame s p gs = some f →
        frameOn s p gs = ringPipeline (endSets t p) p f)) ∧
    (∀ (p : Nat) (gs : List Nat) (s : State), p < 2 → bypassOpen s = true → portEn s p = true → lineFrame s p gs = none →
      exec (.ringFrameReceive p gs) s = .next (frameOn s p gs) ∧ exec (.dataFrame p gs) s = .next (frameOn s p gs)) ∧
    (∀ (p : Nat) (gs : List Nat) (s : State), p < 2 → bypassOpen s = false →
      exec (.ringFrameReceive p gs) s = .next (passOn s p gs)) ∧
    (∀ s t : State, ownNode s = 0 → s.flag RING_CTRL.ts_en = true → upPorts s ≠ [] →
      s.ring.syncAt + s.getF RING_TS_PERIOD.ticks ≤ s.now →
      t = s.setRing { s.ring with syncCount := u32 (s.ring.syncCount + 1), syncAt := s.now, lags := [] } →
      exec .timesyncPeriod s = .next (originate t 1 (ownFrame t 7 0 0xFF 0 (u32 (s.ring.syncCount + 1)) (leBytes 8 s.now ++
        leBytes 8 0 ++ (((List.range 16).map fun k => s.ring.lags.getD k 0xFFFFFFFF).set 0 (lagWord s)).flatMap (leBytes 4))))) ∧
    (∀ (k : Nat) (s : State), s.ring.batonOut = some k → ownNode s = 0 → k + s.getF RING_BATON_TO.ticks < s.now →
      exec .batonTimeout s = .next (issueBaton s (s.ring.batonGen + 1))) ∧
    (∀ (s : State) (r : ProbeRun), s.ring.sweep = none → s.ring.probe = some r → r.since + s.getF RING_LEG_TO.ticks < s.now →
      r.due = false → exec .legTimeout s = .next (probeOn s r false)) ∧
    (∀ (s : State) (r : SweepRun), s.ring.sweep = some r → r.since + s.getF RING_LEG_TO.ticks < s.now → r.due = false →
      (r.asking = true → exec .legTimeout s =
        .next (sweepOn (s.setRing { s.ring with asks := s.ring.asks.filter fun a => a.pkt.isSome }) r false)) ∧
      (r.asking = false → missing r = [] → exec .legTimeout s = .next (sweepOn s r false)) ∧
      (r.asking = false → missing r ≠ [] → ownNode s = 0 → exec .legTimeout s = .next (askMissing s r))) ∧
    (∀ (dst : Nat) (s : State) (e : DataOut), s.ring.dataOut.find? (fun e => decide (e.dst = dst) && e.flying) = some e →
      e.sentAt + s.getF RING_LEG_TO.ticks < s.now → exec (.dataRetransmitTimeout dst) s = .next (dataBack s e false)) ∧
    (∀ (m : BusMaster) (v : Word) (s : State) (r : RegRow) (i : Nat), findReg RING_PBUF_RD.addr = some (r, i) →
      (writeMask (masterDemand s m) m r i v.toNat ≠ 0 →
        exec (.pbufRdWrite m v) s = .next (pbufRd (masterDemand s m) m v.toNat)) ∧
      (writeMask (masterDemand s m) m r i v.toNat = 0 →
        exec (.pbufRdWrite m v) s = .next (forbid (masterDemand s m) m RING_PBUF_RD.addr 4)))

/-- Pads, event generators and the test access port. A PAD_CFG write changes a pad's function, and the parked pad takes up
its level when its time has come; an EVT_CTRL write enables a generator; a pulse of an enabled, clocked generator
starts at its tick, is counted and drives its pad, and ends after its width. EXTEST, CLAMP and HIGHZ take the pads
from the core, SAMPLE/PRELOAD scans them, IDCODE puts out the identification word, BYPASS and every other code select
the bypass, and a test-logic reset selects IDCODE. (R566, R567, R575, R576, R579, R580, R581) -/
def Obligations.PadsEventsAndTapAct : Prop :=
  (∀ (m : BusMaster) (pad : Nat) (v : Word) (s : State), pad < 64 →
      exec (.padFunctionChange m pad v) s = .next (padCfgWrite (masterDemand s m) m pad v.toNat)) ∧
    (∀ (m : BusMaster) (pad v : Nat) (s t : State),
      (plainWrite s m (PAD_CFG.addr pad) v = (t, true) → padCfgWrite s m pad v = redrive (padChange t pad) pad) ∧
      (plainWrite s m (PAD_CFG.addr pad) v = (t, false) → padCfgWrite s m pad v = t)) ∧
    (∀ (pad : Nat) (l : Bool) (s : State), pad < 64 → parkDue s (s.pad pad) = true →
      exec (.padParkEnd pad l) s = .next (padEnd s pad l)) ∧
    (∀ (m : BusMaster) (g : Nat) (v : Word) (s : State), g < 4 →
      exec (.evtEnableWrite m g v) s = .next (evtCtrl (masterDemand s m) m g v.toNat)) ∧
    (∀ (g : Nat) (s : State), g < 4 → s.flag (PAD_EVT_CTRL.en g) = true → (s.evt g).active = false → evtRuns s = true →
      evtStart s g (s.evt g).nextK ≤ s.now → ((s.evt g).nextK = 0 ∨ s.getF (PAD_EVT_PERIOD.p g) ≠ 0) →
      exec (.evtPulseStart g) s = .next (redrive ((s.setEvt g ⟨true, (s.evt g).nextK + 1⟩).addWrap (PAD_EVT_COUNT.n g) 1) (18 + g))) ∧
    (∀ (g : Nat) (s : State), g < 4 → (s.evt g).active = true →
      evtStart s g ((s.evt g).nextK - 1) + s.getF (PAD_EVT_WIDTH.wd g) ≤ s.now →
      exec (.evtPulseEnd g) s = .next (redrive (s.setEvt g { s.evt g with active := false }) (18 + g))) ∧
    (∀ s : State, exec .tapExtest s = .next (tapScan s 0) ∧ exec .tapClamp s = .next (tapScan s 4) ∧
      exec .tapHighz s = .next (tapScan s 5) ∧ exec .tapReset s = .next (tapSelect s 2) ∧
      exec .tapIdcode s = .next { tapSelect s 2 with bus := { (tapSelect s 2).bus with data := idcode } }) ∧
    (∀ (bs : List Bool) (s : State), exec (.tapSamplePreload bs) s = .next (tapSelect (scanShift s bs) 1)) ∧
    (∀ (c : Nat) (s : State), c < 64 → c ∉ [0, 1, 2, 4, 5] → exec (.tapBypass c) s = .next (tapSelect s c))

/-- Register writes, locks, the mailbox and the statistics registers. A write is its master's demand on what it needs (R55).
One in a block's slot acts as its register says;
a misaligned one is forbidden and logged, one in an isolated block gets an error response only, and one at an empty
offset does nothing. The manager field, the mailbox address halves and the mailbox doorbells act as their rows say,
and a master with no writable bit is refused and logged. A lock bit set by a permitted writer stays set. A read of a
TILE_QS_COUNT word latches its slot for that master; TILE_QS_CLEAR clears the slot it names. A forbidden read is
logged and gives zero. (R17, R138, R359, R463, R468, R469, R605, R607, R608, R609, R611) -/
def Obligations.RegistersAnswerTheirWriters : Prop :=
  (∀ (m : BusMaster) (a : Nat) (v : Word) (s : State), inSlot a = true →
      (a % 4 ≠ 0 → exec (.registerWrite m a v) s = .next (answered (forbid (busDemand s m a) m a 4) false)) ∧
      (a % 4 = 0 → blockUp s a = false → blockUp (busDemand s m a) a = false →
        exec (.registerWrite m a v) s = .next (answered (busDemand s m a) true)) ∧
      (a % 4 = 0 → blockUp s a = true → findReg a = none →
        exec (.registerWrite m a v) s = .next (answered (busDemand s m a) false)) ∧
      (∀ r i, a % 4 = 0 → blockUp s a = true → blockUp (busDemand s m a) a = true → findReg a = some (r, i) →
        exec (.registerWrite m a v) s = .next (answered (regEffect r.name (busDemand s m a) m i a v.toNat) false))) ∧
    (∀ (m : BusMaster) (a : Nat) (v : Word) (s : State), inSlot a = false →
      (isFirmware m = true → exec (.registerWrite m a v) s = .next (answered s true)) ∧
      (isFirmware m = false → exec (.registerWrite m a v) s = .next s)) ∧
    (∀ (m : BusMaster) (v : Word) (s t : State), t = masterDemand s m → bits v.toNat 0 4 = t.manager →
      exec (.managerWrite m v) s = .next (plainWrite t m INST_CTRL.addr v.toNat).1) ∧
    (∀ (m : BusMaster) (v : Word) (s u : State) (r : RegRow) (i : Nat), u = masterDemand s m → bits v.toNat 0 4 ≠ u.manager →
      isLocked u INST_CTRL.addr = false → bitB v.toNat 31 = false → findReg INST_CTRL.addr = some (r, i) →
      writeMask u m r i v.toNat ≠ 0 →
      (anyQueue u u.manager = true ∨ anyQueue u (bits v.toNat 0 4) = true →
        exec (.managerWrite m v) s = .next (forbid u m INST_CTRL.addr 4)) ∧
      (anyQueue u u.manager = false → anyQueue u (bits v.toNat 0 4) = false → exec (.managerWrite m v) s =
        .next (moveManager (plainWrite u m INST_CTRL.addr v.toNat).1 u.manager (bits v.toNat 0 4)))) ∧
    (∀ (m : BusMaster) (k pa : Nat) (hi : Bool) (v : Word) (s t u : State) (r : RegRow) (i : Nat), k < 16 →
      findReg (if hi then INST_MBOX_HI.addr k else INST_MBOX_LO.addr k) = some (r, i) → u = masterDemand s m →
      writeMask u m r i v.toNat ≠ 0 →
      pa = (if hi then u.getF (INST_MBOX_LO.lo k) * 4096 + bits v.toNat 0 8 * 2 ^ 32
        else bits v.toNat 12 20 * 4096 + u.getF (INST_MBOX_HI.hi k) * 2 ^ 32) →
      t = (plainWrite u m (if hi then INST_MBOX_HI.addr k else INST_MBOX_LO.addr k) v.toNat).1 →
      (pa = 0 ∨ mboxOk u pa = true → exec (.mboxAddressWrite m k hi v) s =
        .next (t.setInst k { t.inst k with notices := 0 })) ∧
      (pa ≠ 0 → mboxOk u pa = false → exec (.mboxAddressWrite m k hi v) s =
        .next (forbid u m (if hi then INST_MBOX_HI.addr k else INST_MBOX_LO.addr k) 4))) ∧
    (∀ (m : BusMaster) (k : Nat) (hi : Bool) (v : Word) (s u : State) (r : RegRow) (i : Nat), k < 16 →
      findReg (if hi then INST_MBOX_HI.addr k else INST_MBOX_LO.addr k) = some (r, i) → u = masterDemand s m →
      writeMask u m r i v.toNat = 0 →
      exec (.mboxAddressWrite m k hi v) s = .next (forbid u m (if hi then INST_MBOX_HI.addr k else INST_MBOX_LO.addr k) 4)) ∧
    (∀ (m : BusMaster) (k : Nat) (s t u : State) (r : RegRow) (i : Nat), k < 16 → findReg (INST_MBOX_DB.addr k) = some (r, i) →
      u = masterDemand s m →
      (bitB (andN 1 (writeMask u m r i 1)) 0 = true → bitB (andN 1 (writeMask u m r i 1)) 1 = false →
        t = (plainWrite u m (INST_MBOX_DB.addr k) 1).1 →
        exec (.ringMgr m k) s = .next (raiseHost (t.setF (INST_MBOX_PEND.pend_mgr k) 1) (112 + k))) ∧
      (bitB (andN 2 (writeMask u m r i 2)) 1 = true → bitB (andN 2 (writeMask u m r i 2)) 0 = false →
        t = (plainWrite u m (INST_MBOX_DB.addr k) 2).1 →
        exec (.ringTen m k) s = .next (raiseHost (t.setF (INST_MBOX_PEND.pend_ten k) 1) (128 + k)))) ∧
    (∀ (m : BusMaster) (a : Nat) (f : FRef) (s : State), blockLock a = some f → f.addr = a →
      (blockUp s a = true → exec (.lockSet m a) s =
        .next (answered (plainWrite (busDemand s m a) m a (orN (s.rd a).toNat (2 ^ f.lo))).1 false)) ∧
      (blockUp s a = false → exec (.lockSet m a) s = .next (answered s true))) ∧
    (∀ (m : BusMaster) (l k : Nat) (s : State), l < 8 → k < 16 → exec (.qsCountRead m l k) s =
      .next (regRead (busDemand s m (TILE_QS_COUNT.addr (16 * l + k))) m (TILE_QS_COUNT.addr (16 * l + k)))) ∧
    (∀ (m : BusMaster) (v : Word) (s t : State) (ok : Bool),
      plainWrite (busDemand s m TILE_QS_CLEAR.addr) m TILE_QS_CLEAR.addr v.toNat = (t, ok) →
      (mainReleased s = true → ok = true → exec (.qsClear m v) s =
        .next (answered (qsClear t (bits v.toNat 16 3) (bits v.toNat 0 16)) false)) ∧
      (mainReleased s = true → ok = false → exec (.qsClear m v) s = .next (answered t false)) ∧
      (mainReleased s = false → exec (.qsClear m v) s = .next (answered s true))) ∧
    (∀ (m : BusMaster) (a : Nat) (s t : State), readForbidden m a = true → t = forbid (masterDemand s m) m a 4 →
      exec (.forbiddenRegisterRead m a) s = .next { t with bus := { t.bus with data := 0, fault := false } })

/-- Power telemetry, throttling and the pacers. While Tsuquel runs, a sample is taken each 12,500 ticks, regulator faults
show in PWR_STATUS, and the sensors read set the throttle levels; a droop trip is counted once until its detector
releases; the warn throttle steps down at or above its limit and up 5 degrees below it; a partner whose rounds stop
coming is left. At each window boundary the held lanes are counted, the counts start again, the recorded settings take effect and what
waits is admitted as far as the limits go; an urgency level rises at once, with what waited for its limit, and falls when
its condition is gone. (R281, R287, R410, R488, R494, R496,
R497, R506, R507) -/
def Obligations.TelemetryAndPacersAct : Prop :=
  (∀ (rs : List (Option (Nat × Nat))) (s : State), tsuquelRuns s = true → s.clk.running = true →
      (s.pwr.sampleAt + 12500 ≤ s.now → exec (.telemetrySample rs) s = .next (sample s rs)) ∧
      (s.pwr.sampleAt ≠ 0 → s.now < s.pwr.sampleAt + 12500 → exec (.telemetrySample rs) s = .next s)) ∧
    (∀ (f : Nat) (s : State), tsuquelRuns s = true → exec (.statusWordPoll f) s =
      .next (s.setF PWR_STATUS.fault (orN (s.getF PWR_STATUS.fault) (f % 32)))) ∧
    (∀ (d : Nat) (s t : State), d < 6 → mainReleased s = true → t = s.addSat PWR_OVR_DROOP.n 1 →
      (bitB s.pwr.droop d = false → exec (.droopTrip d) s =
        .next { t with pwr := { t.pwr with droop := putBits t.pwr.droop d 1 1 } }) ∧
      (bitB s.pwr.droop d = true → exec (.droopTrip d) s = .next s ∧
        exec (.droopRelease d) s = .next { s with pwr := { s.pwr with droop := putBits s.pwr.droop d 1 0 } })) ∧
    (∀ (ts : List (Option Nat)) (s : State) (l : List (Nat × Nat)), s.boot.sage ≠ .held → s.clk.mode ≠ .off →
      s.clk.running = true → l = (List.range 13).filterMap (fun n =>
        if sensorRead s n then (ts.getD n none).map fun t => (n, min t 255) else none) → l ≠ [] →
      exec (.thermalRead ts) s = .next (thermLevels (l.foldl (fun t e => tempPut t e.1 e.2) s) l)) ∧
    (∀ s : State, tsuquelRuns s = true →
      (s.getF PWR_THERM_CFG.warn ≤ s.getF PWR_THERM_STATUS.hottest → s.pwr.warnAt + 100000 ≤ s.now →
        exec .warnThrottleStep s = .next (warnMove s (ceilDown s))) ∧
      (s.getF PWR_THERM_CFG.warn ≤ s.getF PWR_THERM_STATUS.hottest → s.now < s.pwr.warnAt + 100000 →
        exec .warnThrottleStep s = .next s) ∧
      (s.getF PWR_THERM_STATUS.hottest + 5 ≤ s.getF PWR_THERM_CFG.warn → s.pwr.warnAt + 1000000 ≤ s.now →
        (s.dom 4).warnCeil ≠ 8 ∨ (s.dom 7).warnCeil ≠ 8 → exec .warnThrottleStep s = .next (warnMove s ceilUp))) ∧
    (∀ s : State, s.getF PWR_MULTI_CFG.mode ≠ 0 → tsuquelRuns s = true → s.flag PWR_MULTI_STATUS.claim = false →
      s.pwr.donation = 0 →
      (2 * s.pwr.roundAt + 6 * s.getF RING_TS_PERIOD.ticks ≤ 2 * s.now → exec .multiRoundTimeout s =
        .next (multiSingle (s.setF PWR_MULTI_STATUS.joined 0))) ∧
      (2 * s.now < 2 * s.pwr.roundAt + 6 * s.getF RING_TS_PERIOD.ticks → exec .multiRoundTimeout s = .next s)) ∧
    (∀ (b : Nat) (s t u : State), mainReleased s = true → s.clk.running = true → s.pace.window < s.nowAt 11 / 1000 →
      t = (List.range 8).foldl (fun t c => t.setF (PACE_SHARED_COUNT.n c) 0) ((List.range 64).foldl
        (fun t k => t.setF (PACE_COUNT.n k) 0) (((s.pace.held.map fun k => k / 8).eraseDups).foldl
          (fun t l => t.addSat (PACE_HOLDS.n l) 1) s)) →
      u = (List.range 2).foldl (fun t e => adaptEngine t e (bitB b e) (((List.range 2).map (engineHeld s)).getD e false)
        (((List.range 2).map (ctxMax s)).getD e 64))
        (applyNext { t with pace := { t.pace with held := [], overran := [], window := t.nowAt 11 / 1000 } }) →
      exec (.pacerWindowBoundary b) s = .next (pump u)) ∧
    (∀ (k f : Nat) (s : State), k < 8 → mainReleased s = true →
      (urgLevel s k < urgOf s k f → exec (.urgRise k f) s = .next (pump (setUrg s k (urgOf s k f)))) ∧
      (urgOf s k f < urgLevel s k → exec (.urgFall k f) s = .next (setUrg s k (urgOf s k f))) ∧
      (urgOf s k f ≤ urgLevel s k → exec (.urgRise k f) s = .next s))
end

