-- ==== Sys2Proof/Laws/Bits.lean ====
section
/-! SUPPORT. What a bit field reads as after a field of the same word is replaced. -/

namespace Sys2Proof.Machine

theorem bits_lt (v lo w : Nat) : bits v lo w < 2 ^ w := Nat.mod_lt _ (Nat.two_pow_pos w)

theorem putBits_eq (v lo w x : Nat) : putBits v lo w x = v % 2 ^ lo + 2 ^ lo * (x % 2 ^ w + 2 ^ w * (v / 2 ^ (lo + w))) := by
  rw [putBits, Nat.pow_add, Nat.mul_add, ← Nat.add_assoc, Nat.mul_assoc]

/-- The replaced field reads as the new value. -/
theorem bits_putBits_same (v lo w x : Nat) : bits (putBits v lo w x) lo w = x % 2 ^ w := by
  have hp := Nat.two_pow_pos lo
  rw [putBits_eq, bits, Nat.add_mul_div_left _ _ hp, Nat.div_eq_of_lt (Nat.mod_lt _ hp), Nat.zero_add, Nat.add_mul_mod_self_left,
    Nat.mod_mod]

/-- A field above it reads as before. -/
theorem bits_putBits_above (v lo w x : Nat) {lo' : Nat} (w' : Nat) (h : lo + w ≤ lo') :
    bits (putBits v lo w x) lo' w' = bits v lo' w' := by
  obtain ⟨k, rfl⟩ := Nat.exists_eq_add_of_le h
  have h1 : v % 2 ^ lo + 2 ^ lo * (x % 2 ^ w) < 2 ^ (lo + w) := by
    have a := Nat.mod_lt v (Nat.two_pow_pos lo)
    have b := Nat.mod_lt x (Nat.two_pow_pos w)
    calc v % 2 ^ lo + 2 ^ lo * (x % 2 ^ w) < 2 ^ lo + 2 ^ lo * (x % 2 ^ w) := Nat.add_lt_add_right a _
      _ = 2 ^ lo * (x % 2 ^ w + 1) := by rw [Nat.mul_add, Nat.mul_one, Nat.add_comm]
      _ ≤ 2 ^ lo * 2 ^ w := Nat.mul_le_mul_left _ b
      _ = 2 ^ (lo + w) := (Nat.pow_add ..).symm
  have h2 : putBits v lo w x / 2 ^ (lo + w) = v / 2 ^ (lo + w) := by
    rw [putBits, Nat.add_mul_div_left _ _ (Nat.two_pow_pos _), Nat.div_eq_of_lt h1, Nat.zero_add]
  rw [bits, bits, Nat.pow_add 2 (lo + w) k, ← Nat.div_div_eq_div_mul, ← Nat.div_div_eq_div_mul, h2]

/-- A field below it reads as before. -/
theorem bits_putBits_below (v lo w x : Nat) {lo' w' : Nat} (h : lo' + w' ≤ lo) :
    bits (putBits v lo w x) lo' w' = bits v lo' w' := by
  obtain ⟨k, rfl⟩ := Nat.exists_eq_add_of_le h
  have hm : ∀ m : Nat, m / 2 ^ lo' % 2 ^ w' = m % 2 ^ (lo' + w') / 2 ^ lo' := fun m => by
    rw [Nat.pow_add, Nat.mod_mul_right_div_self]
  have h1 : putBits v (lo' + w' + k) w x % 2 ^ (lo' + w') = v % 2 ^ (lo' + w') := by
    rw [putBits_eq, Nat.pow_add 2 (lo' + w') k, Nat.mul_assoc, Nat.add_mul_mod_self_left, Nat.mod_mul_right_mod]
  rw [bits, bits, hm, hm, h1]

/-- A replaced word stays as wide as it was. -/
theorem putBits_lt {v lo w n : Nat} (x : Nat) (hv : v < 2 ^ n) (h : lo + w ≤ n) : putBits v lo w x < 2 ^ n := by
  obtain ⟨k, rfl⟩ := Nat.exists_eq_add_of_le h
  have hk : v / 2 ^ (lo + w) < 2 ^ k := Nat.div_lt_of_lt_mul (by rwa [← Nat.pow_add])
  have b := Nat.mod_lt x (Nat.two_pow_pos w)
  have h1 : x % 2 ^ w + 2 ^ w * (v / 2 ^ (lo + w)) < 2 ^ (w + k) := by
    calc x % 2 ^ w + 2 ^ w * (v / 2 ^ (lo + w)) < 2 ^ w + 2 ^ w * (v / 2 ^ (lo + w)) := Nat.add_lt_add_right b _
      _ = 2 ^ w * (v / 2 ^ (lo + w) + 1) := by rw [Nat.mul_add, Nat.mul_one, Nat.add_comm]
      _ ≤ 2 ^ w * 2 ^ k := Nat.mul_le_mul_left _ hk
      _ = 2 ^ (w + k) := (Nat.pow_add ..).symm
  rw [putBits_eq]
  calc v % 2 ^ lo + 2 ^ lo * (x % 2 ^ w + 2 ^ w * (v / 2 ^ (lo + w)))
      < 2 ^ lo + 2 ^ lo * (x % 2 ^ w + 2 ^ w * (v / 2 ^ (lo + w))) := Nat.add_lt_add_right (Nat.mod_lt _ (Nat.two_pow_pos lo)) _
    _ = 2 ^ lo * (x % 2 ^ w + 2 ^ w * (v / 2 ^ (lo + w)) + 1) := by ring
    _ ≤ 2 ^ lo * 2 ^ (w + k) := Nat.mul_le_mul_left _ h1
    _ = 2 ^ (lo + w + k) := by rw [← Nat.pow_add, Nat.add_assoc]

end Sys2Proof.Machine
end

