-- ==== Sys2Proof/Laws/State.lean ====
section
/-! SUPPORT. One lemma per field per named update of the state: the fields an update leaves alone, the whole of what it
writes, and that registers read as before unless the update is one of a register. -/

namespace Sys2Proof.Machine

set_option Elab.async false

@[simp] theorem State.wr_clk (s : State) (a : Nat) (v : Word) : (State.wr s a v).clk = s.clk := rfl
@[simp] theorem State.wr_boot (s : State) (a : Nat) (v : Word) : (State.wr s a v).boot = s.boot := rfl
@[simp] theorem State.wr_pins (s : State) (a : Nat) (v : Word) : (State.wr s a v).pins = s.pins := rfl
@[simp] theorem State.wr_pwr (s : State) (a : Nat) (v : Word) : (State.wr s a v).pwr = s.pwr := rfl
@[simp] theorem State.wr_saf (s : State) (a : Nat) (v : Word) : (State.wr s a v).saf = s.saf := rfl
@[simp] theorem State.wr_pads (s : State) (a : Nat) (v : Word) : (State.wr s a v).pads = s.pads := rfl
@[simp] theorem State.wr_tap (s : State) (a : Nat) (v : Word) : (State.wr s a v).tap = s.tap := rfl
@[simp] theorem State.wr_evts (s : State) (a : Nat) (v : Word) : (State.wr s a v).evts = s.evts := rfl
@[simp] theorem State.wr_ms (s : State) (a : Nat) (v : Word) : (State.wr s a v).ms = s.ms := rfl
@[simp] theorem State.wr_bus (s : State) (a : Nat) (v : Word) : (State.wr s a v).bus = s.bus := rfl
@[simp] theorem State.wr_queues (s : State) (a : Nat) (v : Word) : (State.wr s a v).queues = s.queues := rfl
@[simp] theorem State.wr_pkts (s : State) (a : Nat) (v : Word) : (State.wr s a v).pkts = s.pkts := rfl
@[simp] theorem State.wr_pace (s : State) (a : Nat) (v : Word) : (State.wr s a v).pace = s.pace := rfl
@[simp] theorem State.wr_lanes (s : State) (a : Nat) (v : Word) : (State.wr s a v).lanes = s.lanes := rfl
@[simp] theorem State.wr_reloads (s : State) (a : Nat) (v : Word) : (State.wr s a v).reloads = s.reloads := rfl
@[simp] theorem State.wr_pcieUp (s : State) (a : Nat) (v : Word) : (State.wr s a v).pcieUp = s.pcieUp := rfl
@[simp] theorem State.wr_pcieOut (s : State) (a : Nat) (v : Word) : (State.wr s a v).pcieOut = s.pcieOut := rfl
@[simp] theorem State.wr_insts (s : State) (a : Nat) (v : Word) : (State.wr s a v).insts = s.insts := rfl
@[simp] theorem State.wr_idxs (s : State) (a : Nat) (v : Word) : (State.wr s a v).idxs = s.idxs := rfl
@[simp] theorem State.wr_jobs (s : State) (a : Nat) (v : Word) : (State.wr s a v).jobs = s.jobs := rfl
@[simp] theorem State.wr_tiles (s : State) (a : Nat) (v : Word) : (State.wr s a v).tiles = s.tiles := rfl
@[simp] theorem State.wr_gctx (s : State) (a : Nat) (v : Word) : (State.wr s a v).gctx = s.gctx := rfl
@[simp] theorem State.wr_rrLane (s : State) (a : Nat) (v : Word) : (State.wr s a v).rrLane = s.rrLane := rfl
@[simp] theorem State.wr_testHold (s : State) (a : Nat) (v : Word) : (State.wr s a v).testHold = s.testHold := rfl
@[simp] theorem State.wr_io (s : State) (a : Nat) (v : Word) : (State.wr s a v).io = s.io := rfl
@[simp] theorem State.wr_ring (s : State) (a : Nat) (v : Word) : (State.wr s a v).ring = s.ring := rfl
@[simp] theorem State.wr_free (s : State) (a : Nat) (v : Word) : (State.wr s a v).free = s.free := rfl
@[simp] theorem State.wr_pending (s : State) (a : Nat) (v : Word) : (State.wr s a v).pending = s.pending := rfl

@[simp] theorem State.setF_clk (s : State) (f : FRef) (x : Nat) : (State.setF s f x).clk = s.clk := rfl
@[simp] theorem State.setF_boot (s : State) (f : FRef) (x : Nat) : (State.setF s f x).boot = s.boot := rfl
@[simp] theorem State.setF_pins (s : State) (f : FRef) (x : Nat) : (State.setF s f x).pins = s.pins := rfl
@[simp] theorem State.setF_pwr (s : State) (f : FRef) (x : Nat) : (State.setF s f x).pwr = s.pwr := rfl
@[simp] theorem State.setF_saf (s : State) (f : FRef) (x : Nat) : (State.setF s f x).saf = s.saf := rfl
@[simp] theorem State.setF_pads (s : State) (f : FRef) (x : Nat) : (State.setF s f x).pads = s.pads := rfl
@[simp] theorem State.setF_tap (s : State) (f : FRef) (x : Nat) : (State.setF s f x).tap = s.tap := rfl
@[simp] theorem State.setF_evts (s : State) (f : FRef) (x : Nat) : (State.setF s f x).evts = s.evts := rfl
@[simp] theorem State.setF_ms (s : State) (f : FRef) (x : Nat) : (State.setF s f x).ms = s.ms := rfl
@[simp] theorem State.setF_bus (s : State) (f : FRef) (x : Nat) : (State.setF s f x).bus = s.bus := rfl
@[simp] theorem State.setF_queues (s : State) (f : FRef) (x : Nat) : (State.setF s f x).queues = s.queues := rfl
@[simp] theorem State.setF_pkts (s : State) (f : FRef) (x : Nat) : (State.setF s f x).pkts = s.pkts := rfl
@[simp] theorem State.setF_pace (s : State) (f : FRef) (x : Nat) : (State.setF s f x).pace = s.pace := rfl
@[simp] theorem State.setF_lanes (s : State) (f : FRef) (x : Nat) : (State.setF s f x).lanes = s.lanes := rfl
@[simp] theorem State.setF_reloads (s : State) (f : FRef) (x : Nat) : (State.setF s f x).reloads = s.reloads := rfl
@[simp] theorem State.setF_pcieUp (s : State) (f : FRef) (x : Nat) : (State.setF s f x).pcieUp = s.pcieUp := rfl
@[simp] theorem State.setF_pcieOut (s : State) (f : FRef) (x : Nat) : (State.setF s f x).pcieOut = s.pcieOut := rfl
@[simp] theorem State.setF_insts (s : State) (f : FRef) (x : Nat) : (State.setF s f x).insts = s.insts := rfl
@[simp] theorem State.setF_idxs (s : State) (f : FRef) (x : Nat) : (State.setF s f x).idxs = s.idxs := rfl
@[simp] theorem State.setF_jobs (s : State) (f : FRef) (x : Nat) : (State.setF s f x).jobs = s.jobs := rfl
@[simp] theorem State.setF_tiles (s : State) (f : FRef) (x : Nat) : (State.setF s f x).tiles = s.tiles := rfl
@[simp] theorem State.setF_gctx (s : State) (f : FRef) (x : Nat) : (State.setF s f x).gctx = s.gctx := rfl
@[simp] theorem State.setF_rrLane (s : State) (f : FRef) (x : Nat) : (State.setF s f x).rrLane = s.rrLane := rfl
@[simp] theorem State.setF_testHold (s : State) (f : FRef) (x : Nat) : (State.setF s f x).testHold = s.testHold := rfl
@[simp] theorem State.setF_io (s : State) (f : FRef) (x : Nat) : (State.setF s f x).io = s.io := rfl
@[simp] theorem State.setF_ring (s : State) (f : FRef) (x : Nat) : (State.setF s f x).ring = s.ring := rfl
@[simp] theorem State.setF_free (s : State) (f : FRef) (x : Nat) : (State.setF s f x).free = s.free := rfl
@[simp] theorem State.setF_pending (s : State) (f : FRef) (x : Nat) : (State.setF s f x).pending = s.pending := rfl

@[simp] theorem State.addWrap_clk (s : State) (f : FRef) (n : Nat) : (State.addWrap s f n).clk = s.clk := rfl
@[simp] theorem State.addWrap_boot (s : State) (f : FRef) (n : Nat) : (State.addWrap s f n).boot = s.boot := rfl
@[simp] theorem State.addWrap_pins (s : State) (f : FRef) (n : Nat) : (State.addWrap s f n).pins = s.pins := rfl
@[simp] theorem State.addWrap_pwr (s : State) (f : FRef) (n : Nat) : (State.addWrap s f n).pwr = s.pwr := rfl
@[simp] theorem State.addWrap_saf (s : State) (f : FRef) (n : Nat) : (State.addWrap s f n).saf = s.saf := rfl
@[simp] theorem State.addWrap_pads (s : State) (f : FRef) (n : Nat) : (State.addWrap s f n).pads = s.pads := rfl
@[simp] theorem State.addWrap_tap (s : State) (f : FRef) (n : Nat) : (State.addWrap s f n).tap = s.tap := rfl
@[simp] theorem State.addWrap_evts (s : State) (f : FRef) (n : Nat) : (State.addWrap s f n).evts = s.evts := rfl
@[simp] theorem State.addWrap_ms (s : State) (f : FRef) (n : Nat) : (State.addWrap s f n).ms = s.ms := rfl
@[simp] theorem State.addWrap_bus (s : State) (f : FRef) (n : Nat) : (State.addWrap s f n).bus = s.bus := rfl
@[simp] theorem State.addWrap_queues (s : State) (f : FRef) (n : Nat) : (State.addWrap s f n).queues = s.queues := rfl
@[simp] theorem State.addWrap_pkts (s : State) (f : FRef) (n : Nat) : (State.addWrap s f n).pkts = s.pkts := rfl
@[simp] theorem State.addWrap_pace (s : State) (f : FRef) (n : Nat) : (State.addWrap s f n).pace = s.pace := rfl
@[simp] theorem State.addWrap_lanes (s : State) (f : FRef) (n : Nat) : (State.addWrap s f n).lanes = s.lanes := rfl
@[simp] theorem State.addWrap_reloads (s : State) (f : FRef) (n : Nat) : (State.addWrap s f n).reloads = s.reloads := rfl
@[simp] theorem State.addWrap_pcieUp (s : State) (f : FRef) (n : Nat) : (State.addWrap s f n).pcieUp = s.pcieUp := rfl
@[simp] theorem State.addWrap_pcieOut (s : State) (f : FRef) (n : Nat) : (State.addWrap s f n).pcieOut = s.pcieOut := rfl
@[simp] theorem State.addWrap_insts (s : State) (f : FRef) (n : Nat) : (State.addWrap s f n).insts = s.insts := rfl
@[simp] theorem State.addWrap_idxs (s : State) (f : FRef) (n : Nat) : (State.addWrap s f n).idxs = s.idxs := rfl
@[simp] theorem State.addWrap_jobs (s : State) (f : FRef) (n : Nat) : (State.addWrap s f n).jobs = s.jobs := rfl
@[simp] theorem State.addWrap_tiles (s : State) (f : FRef) (n : Nat) : (State.addWrap s f n).tiles = s.tiles := rfl
@[simp] theorem State.addWrap_gctx (s : State) (f : FRef) (n : Nat) : (State.addWrap s f n).gctx = s.gctx := rfl
@[simp] theorem State.addWrap_rrLane (s : State) (f : FRef) (n : Nat) : (State.addWrap s f n).rrLane = s.rrLane := rfl
@[simp] theorem State.addWrap_testHold (s : State) (f : FRef) (n : Nat) : (State.addWrap s f n).testHold = s.testHold := rfl
@[simp] theorem State.addWrap_io (s : State) (f : FRef) (n : Nat) : (State.addWrap s f n).io = s.io := rfl
@[simp] theorem State.addWrap_ring (s : State) (f : FRef) (n : Nat) : (State.addWrap s f n).ring = s.ring := rfl
@[simp] theorem State.addWrap_free (s : State) (f : FRef) (n : Nat) : (State.addWrap s f n).free = s.free := rfl
@[simp] theorem State.addWrap_pending (s : State) (f : FRef) (n : Nat) : (State.addWrap s f n).pending = s.pending := rfl

@[simp] theorem State.addSat_clk (s : State) (f : FRef) (n : Nat) : (State.addSat s f n).clk = s.clk := rfl
@[simp] theorem State.addSat_boot (s : State) (f : FRef) (n : Nat) : (State.addSat s f n).boot = s.boot := rfl
@[simp] theorem State.addSat_pins (s : State) (f : FRef) (n : Nat) : (State.addSat s f n).pins = s.pins := rfl
@[simp] theorem State.addSat_pwr (s : State) (f : FRef) (n : Nat) : (State.addSat s f n).pwr = s.pwr := rfl
@[simp] theorem State.addSat_saf (s : State) (f : FRef) (n : Nat) : (State.addSat s f n).saf = s.saf := rfl
@[simp] theorem State.addSat_pads (s : State) (f : FRef) (n : Nat) : (State.addSat s f n).pads = s.pads := rfl
@[simp] theorem State.addSat_tap (s : State) (f : FRef) (n : Nat) : (State.addSat s f n).tap = s.tap := rfl
@[simp] theorem State.addSat_evts (s : State) (f : FRef) (n : Nat) : (State.addSat s f n).evts = s.evts := rfl
@[simp] theorem State.addSat_ms (s : State) (f : FRef) (n : Nat) : (State.addSat s f n).ms = s.ms := rfl
@[simp] theorem State.addSat_bus (s : State) (f : FRef) (n : Nat) : (State.addSat s f n).bus = s.bus := rfl
@[simp] theorem State.addSat_queues (s : State) (f : FRef) (n : Nat) : (State.addSat s f n).queues = s.queues := rfl
@[simp] theorem State.addSat_pkts (s : State) (f : FRef) (n : Nat) : (State.addSat s f n).pkts = s.pkts := rfl
@[simp] theorem State.addSat_pace (s : State) (f : FRef) (n : Nat) : (State.addSat s f n).pace = s.pace := rfl
@[simp] theorem State.addSat_lanes (s : State) (f : FRef) (n : Nat) : (State.addSat s f n).lanes = s.lanes := rfl
@[simp] theorem State.addSat_reloads (s : State) (f : FRef) (n : Nat) : (State.addSat s f n).reloads = s.reloads := rfl
@[simp] theorem State.addSat_pcieUp (s : State) (f : FRef) (n : Nat) : (State.addSat s f n).pcieUp = s.pcieUp := rfl
@[simp] theorem State.addSat_pcieOut (s : State) (f : FRef) (n : Nat) : (State.addSat s f n).pcieOut = s.pcieOut := rfl
@[simp] theorem State.addSat_insts (s : State) (f : FRef) (n : Nat) : (State.addSat s f n).insts = s.insts := rfl
@[simp] theorem State.addSat_idxs (s : State) (f : FRef) (n : Nat) : (State.addSat s f n).idxs = s.idxs := rfl
@[simp] theorem State.addSat_jobs (s : State) (f : FRef) (n : Nat) : (State.addSat s f n).jobs = s.jobs := rfl
@[simp] theorem State.addSat_tiles (s : State) (f : FRef) (n : Nat) : (State.addSat s f n).tiles = s.tiles := rfl
@[simp] theorem State.addSat_gctx (s : State) (f : FRef) (n : Nat) : (State.addSat s f n).gctx = s.gctx := rfl
@[simp] theorem State.addSat_rrLane (s : State) (f : FRef) (n : Nat) : (State.addSat s f n).rrLane = s.rrLane := rfl
@[simp] theorem State.addSat_testHold (s : State) (f : FRef) (n : Nat) : (State.addSat s f n).testHold = s.testHold := rfl
@[simp] theorem State.addSat_io (s : State) (f : FRef) (n : Nat) : (State.addSat s f n).io = s.io := rfl
@[simp] theorem State.addSat_ring (s : State) (f : FRef) (n : Nat) : (State.addSat s f n).ring = s.ring := rfl
@[simp] theorem State.addSat_free (s : State) (f : FRef) (n : Nat) : (State.addSat s f n).free = s.free := rfl
@[simp] theorem State.addSat_pending (s : State) (f : FRef) (n : Nat) : (State.addSat s f n).pending = s.pending := rfl

@[simp] theorem State.set64_clk (s : State) (lo hi : FRef) (v : Nat) : (State.set64 s lo hi v).clk = s.clk := rfl
@[simp] theorem State.set64_boot (s : State) (lo hi : FRef) (v : Nat) : (State.set64 s lo hi v).boot = s.boot := rfl
@[simp] theorem State.set64_pins (s : State) (lo hi : FRef) (v : Nat) : (State.set64 s lo hi v).pins = s.pins := rfl
@[simp] theorem State.set64_pwr (s : State) (lo hi : FRef) (v : Nat) : (State.set64 s lo hi v).pwr = s.pwr := rfl
@[simp] theorem State.set64_saf (s : State) (lo hi : FRef) (v : Nat) : (State.set64 s lo hi v).saf = s.saf := rfl
@[simp] theorem State.set64_pads (s : State) (lo hi : FRef) (v : Nat) : (State.set64 s lo hi v).pads = s.pads := rfl
@[simp] theorem State.set64_tap (s : State) (lo hi : FRef) (v : Nat) : (State.set64 s lo hi v).tap = s.tap := rfl
@[simp] theorem State.set64_evts (s : State) (lo hi : FRef) (v : Nat) : (State.set64 s lo hi v).evts = s.evts := rfl
@[simp] theorem State.set64_ms (s : State) (lo hi : FRef) (v : Nat) : (State.set64 s lo hi v).ms = s.ms := rfl
@[simp] theorem State.set64_bus (s : State) (lo hi : FRef) (v : Nat) : (State.set64 s lo hi v).bus = s.bus := rfl
@[simp] theorem State.set64_queues (s : State) (lo hi : FRef) (v : Nat) : (State.set64 s lo hi v).queues = s.queues := rfl
@[simp] theorem State.set64_pkts (s : State) (lo hi : FRef) (v : Nat) : (State.set64 s lo hi v).pkts = s.pkts := rfl
@[simp] theorem State.set64_pace (s : State) (lo hi : FRef) (v : Nat) : (State.set64 s lo hi v).pace = s.pace := rfl
@[simp] theorem State.set64_lanes (s : State) (lo hi : FRef) (v : Nat) : (State.set64 s lo hi v).lanes = s.lanes := rfl
@[simp] theorem State.set64_reloads (s : State) (lo hi : FRef) (v : Nat) : (State.set64 s lo hi v).reloads = s.reloads := rfl
@[simp] theorem State.set64_pcieUp (s : State) (lo hi : FRef) (v : Nat) : (State.set64 s lo hi v).pcieUp = s.pcieUp := rfl
@[simp] theorem State.set64_pcieOut (s : State) (lo hi : FRef) (v : Nat) : (State.set64 s lo hi v).pcieOut = s.pcieOut := rfl
@[simp] theorem State.set64_insts (s : State) (lo hi : FRef) (v : Nat) : (State.set64 s lo hi v).insts = s.insts := rfl
@[simp] theorem State.set64_idxs (s : State) (lo hi : FRef) (v : Nat) : (State.set64 s lo hi v).idxs = s.idxs := rfl
@[simp] theorem State.set64_jobs (s : State) (lo hi : FRef) (v : Nat) : (State.set64 s lo hi v).jobs = s.jobs := rfl
@[simp] theorem State.set64_tiles (s : State) (lo hi : FRef) (v : Nat) : (State.set64 s lo hi v).tiles = s.tiles := rfl
@[simp] theorem State.set64_gctx (s : State) (lo hi : FRef) (v : Nat) : (State.set64 s lo hi v).gctx = s.gctx := rfl
@[simp] theorem State.set64_rrLane (s : State) (lo hi : FRef) (v : Nat) : (State.set64 s lo hi v).rrLane = s.rrLane := rfl
@[simp] theorem State.set64_testHold (s : State) (lo hi : FRef) (v : Nat) : (State.set64 s lo hi v).testHold = s.testHold := rfl
@[simp] theorem State.set64_io (s : State) (lo hi : FRef) (v : Nat) : (State.set64 s lo hi v).io = s.io := rfl
@[simp] theorem State.set64_ring (s : State) (lo hi : FRef) (v : Nat) : (State.set64 s lo hi v).ring = s.ring := rfl
@[simp] theorem State.set64_free (s : State) (lo hi : FRef) (v : Nat) : (State.set64 s lo hi v).free = s.free := rfl
@[simp] theorem State.set64_pending (s : State) (lo hi : FRef) (v : Nat) : (State.set64 s lo hi v).pending = s.pending := rfl

@[simp] theorem State.raise_regs (s : State) (src : Nat) : (State.raise s src).regs = s.regs := rfl
@[simp] theorem State.raise_clk (s : State) (src : Nat) : (State.raise s src).clk = s.clk := rfl
@[simp] theorem State.raise_boot (s : State) (src : Nat) : (State.raise s src).boot = s.boot := rfl
@[simp] theorem State.raise_pins (s : State) (src : Nat) : (State.raise s src).pins = s.pins := rfl
@[simp] theorem State.raise_pwr (s : State) (src : Nat) : (State.raise s src).pwr = s.pwr := rfl
@[simp] theorem State.raise_saf (s : State) (src : Nat) : (State.raise s src).saf = s.saf := rfl
@[simp] theorem State.raise_pads (s : State) (src : Nat) : (State.raise s src).pads = s.pads := rfl
@[simp] theorem State.raise_tap (s : State) (src : Nat) : (State.raise s src).tap = s.tap := rfl
@[simp] theorem State.raise_evts (s : State) (src : Nat) : (State.raise s src).evts = s.evts := rfl
@[simp] theorem State.raise_ms (s : State) (src : Nat) : (State.raise s src).ms = s.ms := rfl
@[simp] theorem State.raise_queues (s : State) (src : Nat) : (State.raise s src).queues = s.queues := rfl
@[simp] theorem State.raise_pkts (s : State) (src : Nat) : (State.raise s src).pkts = s.pkts := rfl
@[simp] theorem State.raise_pace (s : State) (src : Nat) : (State.raise s src).pace = s.pace := rfl
@[simp] theorem State.raise_lanes (s : State) (src : Nat) : (State.raise s src).lanes = s.lanes := rfl
@[simp] theorem State.raise_reloads (s : State) (src : Nat) : (State.raise s src).reloads = s.reloads := rfl
@[simp] theorem State.raise_pcieUp (s : State) (src : Nat) : (State.raise s src).pcieUp = s.pcieUp := rfl
@[simp] theorem State.raise_pcieOut (s : State) (src : Nat) : (State.raise s src).pcieOut = s.pcieOut := rfl
@[simp] theorem State.raise_insts (s : State) (src : Nat) : (State.raise s src).insts = s.insts := rfl
@[simp] theorem State.raise_idxs (s : State) (src : Nat) : (State.raise s src).idxs = s.idxs := rfl
@[simp] theorem State.raise_jobs (s : State) (src : Nat) : (State.raise s src).jobs = s.jobs := rfl
@[simp] theorem State.raise_tiles (s : State) (src : Nat) : (State.raise s src).tiles = s.tiles := rfl
@[simp] theorem State.raise_gctx (s : State) (src : Nat) : (State.raise s src).gctx = s.gctx := rfl
@[simp] theorem State.raise_rrLane (s : State) (src : Nat) : (State.raise s src).rrLane = s.rrLane := rfl
@[simp] theorem State.raise_testHold (s : State) (src : Nat) : (State.raise s src).testHold = s.testHold := rfl
@[simp] theorem State.raise_io (s : State) (src : Nat) : (State.raise s src).io = s.io := rfl
@[simp] theorem State.raise_ring (s : State) (src : Nat) : (State.raise s src).ring = s.ring := rfl
@[simp] theorem State.raise_free (s : State) (src : Nat) : (State.raise s src).free = s.free := rfl
@[simp] theorem State.raise_pending (s : State) (src : Nat) : (State.raise s src).pending = s.pending := rfl
@[simp] theorem State.raise_rd (s : State) (src : Nat) (reg : Nat) : (State.raise s src).rd reg = s.rd reg := rfl
@[simp] theorem State.raise_getF (s : State) (src : Nat) (fld : FRef) : (State.raise s src).getF fld = s.getF fld := rfl


@[simp] theorem State.setQueue_regs (s : State) (q : Nat) (x : QueueState) : (State.setQueue s q x).regs = s.regs := rfl
@[simp] theorem State.setQueue_clk (s : State) (q : Nat) (x : QueueState) : (State.setQueue s q x).clk = s.clk := rfl
@[simp] theorem State.setQueue_boot (s : State) (q : Nat) (x : QueueState) : (State.setQueue s q x).boot = s.boot := rfl
@[simp] theorem State.setQueue_pins (s : State) (q : Nat) (x : QueueState) : (State.setQueue s q x).pins = s.pins := rfl
@[simp] theorem State.setQueue_pwr (s : State) (q : Nat) (x : QueueState) : (State.setQueue s q x).pwr = s.pwr := rfl
@[simp] theorem State.setQueue_saf (s : State) (q : Nat) (x : QueueState) : (State.setQueue s q x).saf = s.saf := rfl
@[simp] theorem State.setQueue_pads (s : State) (q : Nat) (x : QueueState) : (State.setQueue s q x).pads = s.pads := rfl
@[simp] theorem State.setQueue_tap (s : State) (q : Nat) (x : QueueState) : (State.setQueue s q x).tap = s.tap := rfl
@[simp] theorem State.setQueue_evts (s : State) (q : Nat) (x : QueueState) : (State.setQueue s q x).evts = s.evts := rfl
@[simp] theorem State.setQueue_ms (s : State) (q : Nat) (x : QueueState) : (State.setQueue s q x).ms = s.ms := rfl
@[simp] theorem State.setQueue_bus (s : State) (q : Nat) (x : QueueState) : (State.setQueue s q x).bus = s.bus := rfl
@[simp] theorem State.setQueue_pkts (s : State) (q : Nat) (x : QueueState) : (State.setQueue s q x).pkts = s.pkts := rfl
@[simp] theorem State.setQueue_pace (s : State) (q : Nat) (x : QueueState) : (State.setQueue s q x).pace = s.pace := rfl
@[simp] theorem State.setQueue_lanes (s : State) (q : Nat) (x : QueueState) : (State.setQueue s q x).lanes = s.lanes := rfl
@[simp] theorem State.setQueue_reloads (s : State) (q : Nat) (x : QueueState) : (State.setQueue s q x).reloads = s.reloads := rfl
@[simp] theorem State.setQueue_pcieUp (s : State) (q : Nat) (x : QueueState) : (State.setQueue s q x).pcieUp = s.pcieUp := rfl
@[simp] theorem State.setQueue_pcieOut (s : State) (q : Nat) (x : QueueState) : (State.setQueue s q x).pcieOut = s.pcieOut := rfl
@[simp] theorem State.setQueue_insts (s : State) (q : Nat) (x : QueueState) : (State.setQueue s q x).insts = s.insts := rfl
@[simp] theorem State.setQueue_idxs (s : State) (q : Nat) (x : QueueState) : (State.setQueue s q x).idxs = s.idxs := rfl
@[simp] theorem State.setQueue_jobs (s : State) (q : Nat) (x : QueueState) : (State.setQueue s q x).jobs = s.jobs := rfl
@[simp] theorem State.setQueue_tiles (s : State) (q : Nat) (x : QueueState) : (State.setQueue s q x).tiles = s.tiles := rfl
@[simp] theorem State.setQueue_gctx (s : State) (q : Nat) (x : QueueState) : (State.setQueue s q x).gctx = s.gctx := rfl
@[simp] theorem State.setQueue_rrLane (s : State) (q : Nat) (x : QueueState) : (State.setQueue s q x).rrLane = s.rrLane := rfl
@[simp] theorem State.setQueue_testHold (s : State) (q : Nat) (x : QueueState) : (State.setQueue s q x).testHold = s.testHold := rfl
@[simp] theorem State.setQueue_io (s : State) (q : Nat) (x : QueueState) : (State.setQueue s q x).io = s.io := rfl
@[simp] theorem State.setQueue_ring (s : State) (q : Nat) (x : QueueState) : (State.setQueue s q x).ring = s.ring := rfl
@[simp] theorem State.setQueue_free (s : State) (q : Nat) (x : QueueState) : (State.setQueue s q x).free = s.free := rfl
@[simp] theorem State.setQueue_pending (s : State) (q : Nat) (x : QueueState) : (State.setQueue s q x).pending = s.pending := rfl
@[simp] theorem State.setQueue_rd (s : State) (q : Nat) (x : QueueState) (reg : Nat) : (State.setQueue s q x).rd reg = s.rd reg := rfl
@[simp] theorem State.setQueue_getF (s : State) (q : Nat) (x : QueueState) (fld : FRef) : (State.setQueue s q x).getF fld = s.getF fld := rfl

@[simp] theorem State.setInst_regs (s : State) (i : Nat) (x : InstRec) : (State.setInst s i x).regs = s.regs := rfl
@[simp] theorem State.setInst_clk (s : State) (i : Nat) (x : InstRec) : (State.setInst s i x).clk = s.clk := rfl
@[simp] theorem State.setInst_boot (s : State) (i : Nat) (x : InstRec) : (State.setInst s i x).boot = s.boot := rfl
@[simp] theorem State.setInst_pins (s : State) (i : Nat) (x : InstRec) : (State.setInst s i x).pins = s.pins := rfl
@[simp] theorem State.setInst_pwr (s : State) (i : Nat) (x : InstRec) : (State.setInst s i x).pwr = s.pwr := rfl
@[simp] theorem State.setInst_saf (s : State) (i : Nat) (x : InstRec) : (State.setInst s i x).saf = s.saf := rfl
@[simp] theorem State.setInst_pads (s : State) (i : Nat) (x : InstRec) : (State.setInst s i x).pads = s.pads := rfl
@[simp] theorem State.setInst_tap (s : State) (i : Nat) (x : InstRec) : (State.setInst s i x).tap = s.tap := rfl
@[simp] theorem State.setInst_evts (s : State) (i : Nat) (x : InstRec) : (State.setInst s i x).evts = s.evts := rfl
@[simp] theorem State.setInst_ms (s : State) (i : Nat) (x : InstRec) : (State.setInst s i x).ms = s.ms := rfl
@[simp] theorem State.setInst_bus (s : State) (i : Nat) (x : InstRec) : (State.setInst s i x).bus = s.bus := rfl
@[simp] theorem State.setInst_queues (s : State) (i : Nat) (x : InstRec) : (State.setInst s i x).queues = s.queues := rfl
@[simp] theorem State.setInst_pkts (s : State) (i : Nat) (x : InstRec) : (State.setInst s i x).pkts = s.pkts := rfl
@[simp] theorem State.setInst_pace (s : State) (i : Nat) (x : InstRec) : (State.setInst s i x).pace = s.pace := rfl
@[simp] theorem State.setInst_lanes (s : State) (i : Nat) (x : InstRec) : (State.setInst s i x).lanes = s.lanes := rfl
@[simp] theorem State.setInst_reloads (s : State) (i : Nat) (x : InstRec) : (State.setInst s i x).reloads = s.reloads := rfl
@[simp] theorem State.setInst_pcieUp (s : State) (i : Nat) (x : InstRec) : (State.setInst s i x).pcieUp = s.pcieUp := rfl
@[simp] theorem State.setInst_pcieOut (s : State) (i : Nat) (x : InstRec) : (State.setInst s i x).pcieOut = s.pcieOut := rfl
@[simp] theorem State.setInst_idxs (s : State) (i : Nat) (x : InstRec) : (State.setInst s i x).idxs = s.idxs := rfl
@[simp] theorem State.setInst_jobs (s : State) (i : Nat) (x : InstRec) : (State.setInst s i x).jobs = s.jobs := rfl
@[simp] theorem State.setInst_tiles (s : State) (i : Nat) (x : InstRec) : (State.setInst s i x).tiles = s.tiles := rfl
@[simp] theorem State.setInst_gctx (s : State) (i : Nat) (x : InstRec) : (State.setInst s i x).gctx = s.gctx := rfl
@[simp] theorem State.setInst_rrLane (s : State) (i : Nat) (x : InstRec) : (State.setInst s i x).rrLane = s.rrLane := rfl
@[simp] theorem State.setInst_testHold (s : State) (i : Nat) (x : InstRec) : (State.setInst s i x).testHold = s.testHold := rfl
@[simp] theorem State.setInst_io (s : State) (i : Nat) (x : InstRec) : (State.setInst s i x).io = s.io := rfl
@[simp] theorem State.setInst_ring (s : State) (i : Nat) (x : InstRec) : (State.setInst s i x).ring = s.ring := rfl
@[simp] theorem State.setInst_free (s : State) (i : Nat) (x : InstRec) : (State.setInst s i x).free = s.free := rfl
@[simp] theorem State.setInst_pending (s : State) (i : Nat) (x : InstRec) : (State.setInst s i x).pending = s.pending := rfl
@[simp] theorem State.setInst_rd (s : State) (i : Nat) (x : InstRec) (reg : Nat) : (State.setInst s i x).rd reg = s.rd reg := rfl
@[simp] theorem State.setInst_getF (s : State) (i : Nat) (x : InstRec) (fld : FRef) : (State.setInst s i x).getF fld = s.getF fld := rfl

@[simp] theorem State.setPkt_regs (s : State) (p : Pkt) : (State.setPkt s p).regs = s.regs := rfl
@[simp] theorem State.setPkt_clk (s : State) (p : Pkt) : (State.setPkt s p).clk = s.clk := rfl
@[simp] theorem State.setPkt_boot (s : State) (p : Pkt) : (State.setPkt s p).boot = s.boot := rfl
@[simp] theorem State.setPkt_pins (s : State) (p : Pkt) : (State.setPkt s p).pins = s.pins := rfl
@[simp] theorem State.setPkt_pwr (s : State) (p : Pkt) : (State.setPkt s p).pwr = s.pwr := rfl
@[simp] theorem State.setPkt_saf (s : State) (p : Pkt) : (State.setPkt s p).saf = s.saf := rfl
@[simp] theorem State.setPkt_pads (s : State) (p : Pkt) : (State.setPkt s p).pads = s.pads := rfl
@[simp] theorem State.setPkt_tap (s : State) (p : Pkt) : (State.setPkt s p).tap = s.tap := rfl
@[simp] theorem State.setPkt_evts (s : State) (p : Pkt) : (State.setPkt s p).evts = s.evts := rfl
@[simp] theorem State.setPkt_ms (s : State) (p : Pkt) : (State.setPkt s p).ms = s.ms := rfl
@[simp] theorem State.setPkt_bus (s : State) (p : Pkt) : (State.setPkt s p).bus = s.bus := rfl
@[simp] theorem State.setPkt_queues (s : State) (p : Pkt) : (State.setPkt s p).queues = s.queues := rfl
@[simp] theorem State.setPkt_pace (s : State) (p : Pkt) : (State.setPkt s p).pace = s.pace := rfl
@[simp] theorem State.setPkt_lanes (s : State) (p : Pkt) : (State.setPkt s p).lanes = s.lanes := rfl
@[simp] theorem State.setPkt_reloads (s : State) (p : Pkt) : (State.setPkt s p).reloads = s.reloads := rfl
@[simp] theorem State.setPkt_pcieUp (s : State) (p : Pkt) : (State.setPkt s p).pcieUp = s.pcieUp := rfl
@[simp] theorem State.setPkt_pcieOut (s : State) (p : Pkt) : (State.setPkt s p).pcieOut = s.pcieOut := rfl
@[simp] theorem State.setPkt_insts (s : State) (p : Pkt) : (State.setPkt s p).insts = s.insts := rfl
@[simp] theorem State.setPkt_idxs (s : State) (p : Pkt) : (State.setPkt s p).idxs = s.idxs := rfl
@[simp] theorem State.setPkt_jobs (s : State) (p : Pkt) : (State.setPkt s p).jobs = s.jobs := rfl
@[simp] theorem State.setPkt_tiles (s : State) (p : Pkt) : (State.setPkt s p).tiles = s.tiles := rfl
@[simp] theorem State.setPkt_gctx (s : State) (p : Pkt) : (State.setPkt s p).gctx = s.gctx := rfl
@[simp] theorem State.setPkt_rrLane (s : State) (p : Pkt) : (State.setPkt s p).rrLane = s.rrLane := rfl
@[simp] theorem State.setPkt_testHold (s : State) (p : Pkt) : (State.setPkt s p).testHold = s.testHold := rfl
@[simp] theorem State.setPkt_io (s : State) (p : Pkt) : (State.setPkt s p).io = s.io := rfl
@[simp] theorem State.setPkt_ring (s : State) (p : Pkt) : (State.setPkt s p).ring = s.ring := rfl
@[simp] theorem State.setPkt_free (s : State) (p : Pkt) : (State.setPkt s p).free = s.free := rfl
@[simp] theorem State.setPkt_pending (s : State) (p : Pkt) : (State.setPkt s p).pending = s.pending := rfl
@[simp] theorem State.setPkt_rd (s : State) (p : Pkt) (reg : Nat) : (State.setPkt s p).rd reg = s.rd reg := rfl
@[simp] theorem State.setPkt_getF (s : State) (p : Pkt) (fld : FRef) : (State.setPkt s p).getF fld = s.getF fld := rfl

@[simp] theorem State.setPad_regs (s : State) (n : Nat) (p : PadState) : (State.setPad s n p).regs = s.regs := rfl
@[simp] theorem State.setPad_clk (s : State) (n : Nat) (p : PadState) : (State.setPad s n p).clk = s.clk := rfl
@[simp] theorem State.setPad_boot (s : State) (n : Nat) (p : PadState) : (State.setPad s n p).boot = s.boot := rfl
@[simp] theorem State.setPad_pins (s : State) (n : Nat) (p : PadState) : (State.setPad s n p).pins = s.pins := rfl
@[simp] theorem State.setPad_pwr (s : State) (n : Nat) (p : PadState) : (State.setPad s n p).pwr = s.pwr := rfl
@[simp] theorem State.setPad_saf (s : State) (n : Nat) (p : PadState) : (State.setPad s n p).saf = s.saf := rfl
@[simp] theorem State.setPad_tap (s : State) (n : Nat) (p : PadState) : (State.setPad s n p).tap = s.tap := rfl
@[simp] theorem State.setPad_evts (s : State) (n : Nat) (p : PadState) : (State.setPad s n p).evts = s.evts := rfl
@[simp] theorem State.setPad_ms (s : State) (n : Nat) (p : PadState) : (State.setPad s n p).ms = s.ms := rfl
@[simp] theorem State.setPad_bus (s : State) (n : Nat) (p : PadState) : (State.setPad s n p).bus = s.bus := rfl
@[simp] theorem State.setPad_queues (s : State) (n : Nat) (p : PadState) : (State.setPad s n p).queues = s.queues := rfl
@[simp] theorem State.setPad_pkts (s : State) (n : Nat) (p : PadState) : (State.setPad s n p).pkts = s.pkts := rfl
@[simp] theorem State.setPad_pace (s : State) (n : Nat) (p : PadState) : (State.setPad s n p).pace = s.pace := rfl
@[simp] theorem State.setPad_lanes (s : State) (n : Nat) (p : PadState) : (State.setPad s n p).lanes = s.lanes := rfl
@[simp] theorem State.setPad_reloads (s : State) (n : Nat) (p : PadState) : (State.setPad s n p).reloads = s.reloads := rfl
@[simp] theorem State.setPad_pcieUp (s : State) (n : Nat) (p : PadState) : (State.setPad s n p).pcieUp = s.pcieUp := rfl
@[simp] theorem State.setPad_pcieOut (s : State) (n : Nat) (p : PadState) : (State.setPad s n p).pcieOut = s.pcieOut := rfl
@[simp] theorem State.setPad_insts (s : State) (n : Nat) (p : PadState) : (State.setPad s n p).insts = s.insts := rfl
@[simp] theorem State.setPad_idxs (s : State) (n : Nat) (p : PadState) : (State.setPad s n p).idxs = s.idxs := rfl
@[simp] theorem State.setPad_jobs (s : State) (n : Nat) (p : PadState) : (State.setPad s n p).jobs = s.jobs := rfl
@[simp] theorem State.setPad_tiles (s : State) (n : Nat) (p : PadState) : (State.setPad s n p).tiles = s.tiles := rfl
@[simp] theorem State.setPad_gctx (s : State) (n : Nat) (p : PadState) : (State.setPad s n p).gctx = s.gctx := rfl
@[simp] theorem State.setPad_rrLane (s : State) (n : Nat) (p : PadState) : (State.setPad s n p).rrLane = s.rrLane := rfl
@[simp] theorem State.setPad_testHold (s : State) (n : Nat) (p : PadState) : (State.setPad s n p).testHold = s.testHold := rfl
@[simp] theorem State.setPad_io (s : State) (n : Nat) (p : PadState) : (State.setPad s n p).io = s.io := rfl
@[simp] theorem State.setPad_ring (s : State) (n : Nat) (p : PadState) : (State.setPad s n p).ring = s.ring := rfl
@[simp] theorem State.setPad_free (s : State) (n : Nat) (p : PadState) : (State.setPad s n p).free = s.free := rfl
@[simp] theorem State.setPad_pending (s : State) (n : Nat) (p : PadState) : (State.setPad s n p).pending = s.pending := rfl
@[simp] theorem State.setPad_rd (s : State) (n : Nat) (p : PadState) (reg : Nat) : (State.setPad s n p).rd reg = s.rd reg := rfl
@[simp] theorem State.setPad_getF (s : State) (n : Nat) (p : PadState) (fld : FRef) : (State.setPad s n p).getF fld = s.getF fld := rfl

@[simp] theorem State.setEvt_regs (s : State) (e : Nat) (x : EvtState) : (State.setEvt s e x).regs = s.regs := rfl
@[simp] theorem State.setEvt_clk (s : State) (e : Nat) (x : EvtState) : (State.setEvt s e x).clk = s.clk := rfl
@[simp] theorem State.setEvt_boot (s : State) (e : Nat) (x : EvtState) : (State.setEvt s e x).boot = s.boot := rfl
@[simp] theorem State.setEvt_pins (s : State) (e : Nat) (x : EvtState) : (State.setEvt s e x).pins = s.pins := rfl
@[simp] theorem State.setEvt_pwr (s : State) (e : Nat) (x : EvtState) : (State.setEvt s e x).pwr = s.pwr := rfl
@[simp] theorem State.setEvt_saf (s : State) (e : Nat) (x : EvtState) : (State.setEvt s e x).saf = s.saf := rfl
@[simp] theorem State.setEvt_pads (s : State) (e : Nat) (x : EvtState) : (State.setEvt s e x).pads = s.pads := rfl
@[simp] theorem State.setEvt_tap (s : State) (e : Nat) (x : EvtState) : (State.setEvt s e x).tap = s.tap := rfl
@[simp] theorem State.setEvt_ms (s : State) (e : Nat) (x : EvtState) : (State.setEvt s e x).ms = s.ms := rfl
@[simp] theorem State.setEvt_bus (s : State) (e : Nat) (x : EvtState) : (State.setEvt s e x).bus = s.bus := rfl
@[simp] theorem State.setEvt_queues (s : State) (e : Nat) (x : EvtState) : (State.setEvt s e x).queues = s.queues := rfl
@[simp] theorem State.setEvt_pkts (s : State) (e : Nat) (x : EvtState) : (State.setEvt s e x).pkts = s.pkts := rfl
@[simp] theorem State.setEvt_pace (s : State) (e : Nat) (x : EvtState) : (State.setEvt s e x).pace = s.pace := rfl
@[simp] theorem State.setEvt_lanes (s : State) (e : Nat) (x : EvtState) : (State.setEvt s e x).lanes = s.lanes := rfl
@[simp] theorem State.setEvt_reloads (s : State) (e : Nat) (x : EvtState) : (State.setEvt s e x).reloads = s.reloads := rfl
@[simp] theorem State.setEvt_pcieUp (s : State) (e : Nat) (x : EvtState) : (State.setEvt s e x).pcieUp = s.pcieUp := rfl
@[simp] theorem State.setEvt_pcieOut (s : State) (e : Nat) (x : EvtState) : (State.setEvt s e x).pcieOut = s.pcieOut := rfl
@[simp] theorem State.setEvt_insts (s : State) (e : Nat) (x : EvtState) : (State.setEvt s e x).insts = s.insts := rfl
@[simp] theorem State.setEvt_idxs (s : State) (e : Nat) (x : EvtState) : (State.setEvt s e x).idxs = s.idxs := rfl
@[simp] theorem State.setEvt_jobs (s : State) (e : Nat) (x : EvtState) : (State.setEvt s e x).jobs = s.jobs := rfl
@[simp] theorem State.setEvt_tiles (s : State) (e : Nat) (x : EvtState) : (State.setEvt s e x).tiles = s.tiles := rfl
@[simp] theorem State.setEvt_gctx (s : State) (e : Nat) (x : EvtState) : (State.setEvt s e x).gctx = s.gctx := rfl
@[simp] theorem State.setEvt_rrLane (s : State) (e : Nat) (x : EvtState) : (State.setEvt s e x).rrLane = s.rrLane := rfl
@[simp] theorem State.setEvt_testHold (s : State) (e : Nat) (x : EvtState) : (State.setEvt s e x).testHold = s.testHold := rfl
@[simp] theorem State.setEvt_io (s : State) (e : Nat) (x : EvtState) : (State.setEvt s e x).io = s.io := rfl
@[simp] theorem State.setEvt_ring (s : State) (e : Nat) (x : EvtState) : (State.setEvt s e x).ring = s.ring := rfl
@[simp] theorem State.setEvt_free (s : State) (e : Nat) (x : EvtState) : (State.setEvt s e x).free = s.free := rfl
@[simp] theorem State.setEvt_pending (s : State) (e : Nat) (x : EvtState) : (State.setEvt s e x).pending = s.pending := rfl
@[simp] theorem State.setEvt_rd (s : State) (e : Nat) (x : EvtState) (reg : Nat) : (State.setEvt s e x).rd reg = s.rd reg := rfl
@[simp] theorem State.setEvt_getF (s : State) (e : Nat) (x : EvtState) (fld : FRef) : (State.setEvt s e x).getF fld = s.getF fld := rfl

@[simp] theorem State.setRail_regs (s : State) (k : Nat) (r : RailState) : (State.setRail s k r).regs = s.regs := rfl
@[simp] theorem State.setRail_clk (s : State) (k : Nat) (r : RailState) : (State.setRail s k r).clk = s.clk := rfl
@[simp] theorem State.setRail_boot (s : State) (k : Nat) (r : RailState) : (State.setRail s k r).boot = s.boot := rfl
@[simp] theorem State.setRail_pins (s : State) (k : Nat) (r : RailState) : (State.setRail s k r).pins = s.pins := rfl
@[simp] theorem State.setRail_saf (s : State) (k : Nat) (r : RailState) : (State.setRail s k r).saf = s.saf := rfl
@[simp] theorem State.setRail_pads (s : State) (k : Nat) (r : RailState) : (State.setRail s k r).pads = s.pads := rfl
@[simp] theorem State.setRail_tap (s : State) (k : Nat) (r : RailState) : (State.setRail s k r).tap = s.tap := rfl
@[simp] theorem State.setRail_evts (s : State) (k : Nat) (r : RailState) : (State.setRail s k r).evts = s.evts := rfl
@[simp] theorem State.setRail_ms (s : State) (k : Nat) (r : RailState) : (State.setRail s k r).ms = s.ms := rfl
@[simp] theorem State.setRail_bus (s : State) (k : Nat) (r : RailState) : (State.setRail s k r).bus = s.bus := rfl
@[simp] theorem State.setRail_queues (s : State) (k : Nat) (r : RailState) : (State.setRail s k r).queues = s.queues := rfl
@[simp] theorem State.setRail_pkts (s : State) (k : Nat) (r : RailState) : (State.setRail s k r).pkts = s.pkts := rfl
@[simp] theorem State.setRail_pace (s : State) (k : Nat) (r : RailState) : (State.setRail s k r).pace = s.pace := rfl
@[simp] theorem State.setRail_lanes (s : State) (k : Nat) (r : RailState) : (State.setRail s k r).lanes = s.lanes := rfl
@[simp] theorem State.setRail_reloads (s : State) (k : Nat) (r : RailState) : (State.setRail s k r).reloads = s.reloads := rfl
@[simp] theorem State.setRail_pcieUp (s : State) (k : Nat) (r : RailState) : (State.setRail s k r).pcieUp = s.pcieUp := rfl
@[simp] theorem State.setRail_pcieOut (s : State) (k : Nat) (r : RailState) : (State.setRail s k r).pcieOut = s.pcieOut := rfl
@[simp] theorem State.setRail_insts (s : State) (k : Nat) (r : RailState) : (State.setRail s k r).insts = s.insts := rfl
@[simp] theorem State.setRail_idxs (s : State) (k : Nat) (r : RailState) : (State.setRail s k r).idxs = s.idxs := rfl
@[simp] theorem State.setRail_jobs (s : State) (k : Nat) (r : RailState) : (State.setRail s k r).jobs = s.jobs := rfl
@[simp] theorem State.setRail_tiles (s : State) (k : Nat) (r : RailState) : (State.setRail s k r).tiles = s.tiles := rfl
@[simp] theorem State.setRail_gctx (s : State) (k : Nat) (r : RailState) : (State.setRail s k r).gctx = s.gctx := rfl
@[simp] theorem State.setRail_rrLane (s : State) (k : Nat) (r : RailState) : (State.setRail s k r).rrLane = s.rrLane := rfl
@[simp] theorem State.setRail_testHold (s : State) (k : Nat) (r : RailState) : (State.setRail s k r).testHold = s.testHold := rfl
@[simp] theorem State.setRail_io (s : State) (k : Nat) (r : RailState) : (State.setRail s k r).io = s.io := rfl
@[simp] theorem State.setRail_ring (s : State) (k : Nat) (r : RailState) : (State.setRail s k r).ring = s.ring := rfl
@[simp] theorem State.setRail_free (s : State) (k : Nat) (r : RailState) : (State.setRail s k r).free = s.free := rfl
@[simp] theorem State.setRail_pending (s : State) (k : Nat) (r : RailState) : (State.setRail s k r).pending = s.pending := rfl
@[simp] theorem State.setRail_rd (s : State) (k : Nat) (r : RailState) (reg : Nat) : (State.setRail s k r).rd reg = s.rd reg := rfl
@[simp] theorem State.setRail_getF (s : State) (k : Nat) (r : RailState) (fld : FRef) : (State.setRail s k r).getF fld = s.getF fld := rfl

@[simp] theorem State.setDom_regs (s : State) (d : Nat) (x : DomState) : (State.setDom s d x).regs = s.regs := rfl
@[simp] theorem State.setDom_boot (s : State) (d : Nat) (x : DomState) : (State.setDom s d x).boot = s.boot := rfl
@[simp] theorem State.setDom_pins (s : State) (d : Nat) (x : DomState) : (State.setDom s d x).pins = s.pins := rfl
@[simp] theorem State.setDom_pwr (s : State) (d : Nat) (x : DomState) : (State.setDom s d x).pwr = s.pwr := rfl
@[simp] theorem State.setDom_saf (s : State) (d : Nat) (x : DomState) : (State.setDom s d x).saf = s.saf := rfl
@[simp] theorem State.setDom_pads (s : State) (d : Nat) (x : DomState) : (State.setDom s d x).pads = s.pads := rfl
@[simp] theorem State.setDom_tap (s : State) (d : Nat) (x : DomState) : (State.setDom s d x).tap = s.tap := rfl
@[simp] theorem State.setDom_evts (s : State) (d : Nat) (x : DomState) : (State.setDom s d x).evts = s.evts := rfl
@[simp] theorem State.setDom_ms (s : State) (d : Nat) (x : DomState) : (State.setDom s d x).ms = s.ms := rfl
@[simp] theorem State.setDom_bus (s : State) (d : Nat) (x : DomState) : (State.setDom s d x).bus = s.bus := rfl
@[simp] theorem State.setDom_queues (s : State) (d : Nat) (x : DomState) : (State.setDom s d x).queues = s.queues := rfl
@[simp] theorem State.setDom_pkts (s : State) (d : Nat) (x : DomState) : (State.setDom s d x).pkts = s.pkts := rfl
@[simp] theorem State.setDom_pace (s : State) (d : Nat) (x : DomState) : (State.setDom s d x).pace = s.pace := rfl
@[simp] theorem State.setDom_lanes (s : State) (d : Nat) (x : DomState) : (State.setDom s d x).lanes = s.lanes := rfl
@[simp] theorem State.setDom_reloads (s : State) (d : Nat) (x : DomState) : (State.setDom s d x).reloads = s.reloads := rfl
@[simp] theorem State.setDom_pcieUp (s : State) (d : Nat) (x : DomState) : (State.setDom s d x).pcieUp = s.pcieUp := rfl
@[simp] theorem State.setDom_pcieOut (s : State) (d : Nat) (x : DomState) : (State.setDom s d x).pcieOut = s.pcieOut := rfl
@[simp] theorem State.setDom_insts (s : State) (d : Nat) (x : DomState) : (State.setDom s d x).insts = s.insts := rfl
@[simp] theorem State.setDom_idxs (s : State) (d : Nat) (x : DomState) : (State.setDom s d x).idxs = s.idxs := rfl
@[simp] theorem State.setDom_jobs (s : State) (d : Nat) (x : DomState) : (State.setDom s d x).jobs = s.jobs := rfl
@[simp] theorem State.setDom_tiles (s : State) (d : Nat) (x : DomState) : (State.setDom s d x).tiles = s.tiles := rfl
@[simp] theorem State.setDom_gctx (s : State) (d : Nat) (x : DomState) : (State.setDom s d x).gctx = s.gctx := rfl
@[simp] theorem State.setDom_rrLane (s : State) (d : Nat) (x : DomState) : (State.setDom s d x).rrLane = s.rrLane := rfl
@[simp] theorem State.setDom_testHold (s : State) (d : Nat) (x : DomState) : (State.setDom s d x).testHold = s.testHold := rfl
@[simp] theorem State.setDom_io (s : State) (d : Nat) (x : DomState) : (State.setDom s d x).io = s.io := rfl
@[simp] theorem State.setDom_ring (s : State) (d : Nat) (x : DomState) : (State.setDom s d x).ring = s.ring := rfl
@[simp] theorem State.setDom_free (s : State) (d : Nat) (x : DomState) : (State.setDom s d x).free = s.free := rfl
@[simp] theorem State.setDom_pending (s : State) (d : Nat) (x : DomState) : (State.setDom s d x).pending = s.pending := rfl
@[simp] theorem State.setDom_rd (s : State) (d : Nat) (x : DomState) (reg : Nat) : (State.setDom s d x).rd reg = s.rd reg := rfl
@[simp] theorem State.setDom_getF (s : State) (d : Nat) (x : DomState) (fld : FRef) : (State.setDom s d x).getF fld = s.getF fld := rfl

@[simp] theorem State.setMissed_regs (s : State) (r n : Nat) : (State.setMissed s r n).regs = s.regs := rfl
@[simp] theorem State.setMissed_clk (s : State) (r n : Nat) : (State.setMissed s r n).clk = s.clk := rfl
@[simp] theorem State.setMissed_boot (s : State) (r n : Nat) : (State.setMissed s r n).boot = s.boot := rfl
@[simp] theorem State.setMissed_pins (s : State) (r n : Nat) : (State.setMissed s r n).pins = s.pins := rfl
@[simp] theorem State.setMissed_saf (s : State) (r n : Nat) : (State.setMissed s r n).saf = s.saf := rfl
@[simp] theorem State.setMissed_pads (s : State) (r n : Nat) : (State.setMissed s r n).pads = s.pads := rfl
@[simp] theorem State.setMissed_tap (s : State) (r n : Nat) : (State.setMissed s r n).tap = s.tap := rfl
@[simp] theorem State.setMissed_evts (s : State) (r n : Nat) : (State.setMissed s r n).evts = s.evts := rfl
@[simp] theorem State.setMissed_ms (s : State) (r n : Nat) : (State.setMissed s r n).ms = s.ms := rfl
@[simp] theorem State.setMissed_bus (s : State) (r n : Nat) : (State.setMissed s r n).bus = s.bus := rfl
@[simp] theorem State.setMissed_queues (s : State) (r n : Nat) : (State.setMissed s r n).queues = s.queues := rfl
@[simp] theorem State.setMissed_pkts (s : State) (r n : Nat) : (State.setMissed s r n).pkts = s.pkts := rfl
@[simp] theorem State.setMissed_pace (s : State) (r n : Nat) : (State.setMissed s r n).pace = s.pace := rfl
@[simp] theorem State.setMissed_lanes (s : State) (r n : Nat) : (State.setMissed s r n).lanes = s.lanes := rfl
@[simp] theorem State.setMissed_reloads (s : State) (r n : Nat) : (State.setMissed s r n).reloads = s.reloads := rfl
@[simp] theorem State.setMissed_pcieUp (s : State) (r n : Nat) : (State.setMissed s r n).pcieUp = s.pcieUp := rfl
@[simp] theorem State.setMissed_pcieOut (s : State) (r n : Nat) : (State.setMissed s r n).pcieOut = s.pcieOut := rfl
@[simp] theorem State.setMissed_insts (s : State) (r n : Nat) : (State.setMissed s r n).insts = s.insts := rfl
@[simp] theorem State.setMissed_idxs (s : State) (r n : Nat) : (State.setMissed s r n).idxs = s.idxs := rfl
@[simp] theorem State.setMissed_jobs (s : State) (r n : Nat) : (State.setMissed s r n).jobs = s.jobs := rfl
@[simp] theorem State.setMissed_tiles (s : State) (r n : Nat) : (State.setMissed s r n).tiles = s.tiles := rfl
@[simp] theorem State.setMissed_gctx (s : State) (r n : Nat) : (State.setMissed s r n).gctx = s.gctx := rfl
@[simp] theorem State.setMissed_rrLane (s : State) (r n : Nat) : (State.setMissed s r n).rrLane = s.rrLane := rfl
@[simp] theorem State.setMissed_testHold (s : State) (r n : Nat) : (State.setMissed s r n).testHold = s.testHold := rfl
@[simp] theorem State.setMissed_io (s : State) (r n : Nat) : (State.setMissed s r n).io = s.io := rfl
@[simp] theorem State.setMissed_ring (s : State) (r n : Nat) : (State.setMissed s r n).ring = s.ring := rfl
@[simp] theorem State.setMissed_free (s : State) (r n : Nat) : (State.setMissed s r n).free = s.free := rfl
@[simp] theorem State.setMissed_pending (s : State) (r n : Nat) : (State.setMissed s r n).pending = s.pending := rfl
@[simp] theorem State.setMissed_rd (s : State) (r n : Nat) (reg : Nat) : (State.setMissed s r n).rd reg = s.rd reg := rfl
@[simp] theorem State.setMissed_getF (s : State) (r n : Nat) (fld : FRef) : (State.setMissed s r n).getF fld = s.getF fld := rfl

@[simp] theorem State.setJob_regs (s : State) (j : Job) : (State.setJob s j).regs = s.regs := rfl
@[simp] theorem State.setJob_clk (s : State) (j : Job) : (State.setJob s j).clk = s.clk := rfl
@[simp] theorem State.setJob_boot (s : State) (j : Job) : (State.setJob s j).boot = s.boot := rfl
@[simp] theorem State.setJob_pins (s : State) (j : Job) : (State.setJob s j).pins = s.pins := rfl
@[simp] theorem State.setJob_pwr (s : State) (j : Job) : (State.setJob s j).pwr = s.pwr := rfl
@[simp] theorem State.setJob_saf (s : State) (j : Job) : (State.setJob s j).saf = s.saf := rfl
@[simp] theorem State.setJob_pads (s : State) (j : Job) : (State.setJob s j).pads = s.pads := rfl
@[simp] theorem State.setJob_tap (s : State) (j : Job) : (State.setJob s j).tap = s.tap := rfl
@[simp] theorem State.setJob_evts (s : State) (j : Job) : (State.setJob s j).evts = s.evts := rfl
@[simp] theorem State.setJob_ms (s : State) (j : Job) : (State.setJob s j).ms = s.ms := rfl
@[simp] theorem State.setJob_bus (s : State) (j : Job) : (State.setJob s j).bus = s.bus := rfl
@[simp] theorem State.setJob_queues (s : State) (j : Job) : (State.setJob s j).queues = s.queues := rfl
@[simp] theorem State.setJob_pkts (s : State) (j : Job) : (State.setJob s j).pkts = s.pkts := rfl
@[simp] theorem State.setJob_pace (s : State) (j : Job) : (State.setJob s j).pace = s.pace := rfl
@[simp] theorem State.setJob_lanes (s : State) (j : Job) : (State.setJob s j).lanes = s.lanes := rfl
@[simp] theorem State.setJob_reloads (s : State) (j : Job) : (State.setJob s j).reloads = s.reloads := rfl
@[simp] theorem State.setJob_pcieUp (s : State) (j : Job) : (State.setJob s j).pcieUp = s.pcieUp := rfl
@[simp] theorem State.setJob_pcieOut (s : State) (j : Job) : (State.setJob s j).pcieOut = s.pcieOut := rfl
@[simp] theorem State.setJob_insts (s : State) (j : Job) : (State.setJob s j).insts = s.insts := rfl
@[simp] theorem State.setJob_idxs (s : State) (j : Job) : (State.setJob s j).idxs = s.idxs := rfl
@[simp] theorem State.setJob_tiles (s : State) (j : Job) : (State.setJob s j).tiles = s.tiles := rfl
@[simp] theorem State.setJob_gctx (s : State) (j : Job) : (State.setJob s j).gctx = s.gctx := rfl
@[simp] theorem State.setJob_rrLane (s : State) (j : Job) : (State.setJob s j).rrLane = s.rrLane := rfl
@[simp] theorem State.setJob_testHold (s : State) (j : Job) : (State.setJob s j).testHold = s.testHold := rfl
@[simp] theorem State.setJob_io (s : State) (j : Job) : (State.setJob s j).io = s.io := rfl
@[simp] theorem State.setJob_ring (s : State) (j : Job) : (State.setJob s j).ring = s.ring := rfl
@[simp] theorem State.setJob_free (s : State) (j : Job) : (State.setJob s j).free = s.free := rfl
@[simp] theorem State.setJob_pending (s : State) (j : Job) : (State.setJob s j).pending = s.pending := rfl
@[simp] theorem State.setJob_rd (s : State) (j : Job) (reg : Nat) : (State.setJob s j).rd reg = s.rd reg := rfl
@[simp] theorem State.setJob_getF (s : State) (j : Job) (fld : FRef) : (State.setJob s j).getF fld = s.getF fld := rfl

@[simp] theorem State.dropJob_regs (s : State) (j : Job) : (State.dropJob s j).regs = s.regs := rfl
@[simp] theorem State.dropJob_clk (s : State) (j : Job) : (State.dropJob s j).clk = s.clk := rfl
@[simp] theorem State.dropJob_boot (s : State) (j : Job) : (State.dropJob s j).boot = s.boot := rfl
@[simp] theorem State.dropJob_pins (s : State) (j : Job) : (State.dropJob s j).pins = s.pins := rfl
@[simp] theorem State.dropJob_pwr (s : State) (j : Job) : (State.dropJob s j).pwr = s.pwr := rfl
@[simp] theorem State.dropJob_saf (s : State) (j : Job) : (State.dropJob s j).saf = s.saf := rfl
@[simp] theorem State.dropJob_pads (s : State) (j : Job) : (State.dropJob s j).pads = s.pads := rfl
@[simp] theorem State.dropJob_tap (s : State) (j : Job) : (State.dropJob s j).tap = s.tap := rfl
@[simp] theorem State.dropJob_evts (s : State) (j : Job) : (State.dropJob s j).evts = s.evts := rfl
@[simp] theorem State.dropJob_ms (s : State) (j : Job) : (State.dropJob s j).ms = s.ms := rfl
@[simp] theorem State.dropJob_bus (s : State) (j : Job) : (State.dropJob s j).bus = s.bus := rfl
@[simp] theorem State.dropJob_queues (s : State) (j : Job) : (State.dropJob s j).queues = s.queues := rfl
@[simp] theorem State.dropJob_pkts (s : State) (j : Job) : (State.dropJob s j).pkts = s.pkts := rfl
@[simp] theorem State.dropJob_pace (s : State) (j : Job) : (State.dropJob s j).pace = s.pace := rfl
@[simp] theorem State.dropJob_lanes (s : State) (j : Job) : (State.dropJob s j).lanes = s.lanes := rfl
@[simp] theorem State.dropJob_reloads (s : State) (j : Job) : (State.dropJob s j).reloads = s.reloads := rfl
@[simp] theorem State.dropJob_pcieUp (s : State) (j : Job) : (State.dropJob s j).pcieUp = s.pcieUp := rfl
@[simp] theorem State.dropJob_pcieOut (s : State) (j : Job) : (State.dropJob s j).pcieOut = s.pcieOut := rfl
@[simp] theorem State.dropJob_insts (s : State) (j : Job) : (State.dropJob s j).insts = s.insts := rfl
@[simp] theorem State.dropJob_idxs (s : State) (j : Job) : (State.dropJob s j).idxs = s.idxs := rfl
@[simp] theorem State.dropJob_tiles (s : State) (j : Job) : (State.dropJob s j).tiles = s.tiles := rfl
@[simp] theorem State.dropJob_gctx (s : State) (j : Job) : (State.dropJob s j).gctx = s.gctx := rfl
@[simp] theorem State.dropJob_rrLane (s : State) (j : Job) : (State.dropJob s j).rrLane = s.rrLane := rfl
@[simp] theorem State.dropJob_testHold (s : State) (j : Job) : (State.dropJob s j).testHold = s.testHold := rfl
@[simp] theorem State.dropJob_io (s : State) (j : Job) : (State.dropJob s j).io = s.io := rfl
@[simp] theorem State.dropJob_ring (s : State) (j : Job) : (State.dropJob s j).ring = s.ring := rfl
@[simp] theorem State.dropJob_free (s : State) (j : Job) : (State.dropJob s j).free = s.free := rfl
@[simp] theorem State.dropJob_pending (s : State) (j : Job) : (State.dropJob s j).pending = s.pending := rfl
@[simp] theorem State.dropJob_rd (s : State) (j : Job) (reg : Nat) : (State.dropJob s j).rd reg = s.rd reg := rfl
@[simp] theorem State.dropJob_getF (s : State) (j : Job) (fld : FRef) : (State.dropJob s j).getF fld = s.getF fld := rfl

@[simp] theorem State.setTile_regs (s : State) (t : Nat) (r : TileRec) : (State.setTile s t r).regs = s.regs := rfl
@[simp] theorem State.setTile_clk (s : State) (t : Nat) (r : TileRec) : (State.setTile s t r).clk = s.clk := rfl
@[simp] theorem State.setTile_boot (s : State) (t : Nat) (r : TileRec) : (State.setTile s t r).boot = s.boot := rfl
@[simp] theorem State.setTile_pins (s : State) (t : Nat) (r : TileRec) : (State.setTile s t r).pins = s.pins := rfl
@[simp] theorem State.setTile_pwr (s : State) (t : Nat) (r : TileRec) : (State.setTile s t r).pwr = s.pwr := rfl
@[simp] theorem State.setTile_saf (s : State) (t : Nat) (r : TileRec) : (State.setTile s t r).saf = s.saf := rfl
@[simp] theorem State.setTile_pads (s : State) (t : Nat) (r : TileRec) : (State.setTile s t r).pads = s.pads := rfl
@[simp] theorem State.setTile_tap (s : State) (t : Nat) (r : TileRec) : (State.setTile s t r).tap = s.tap := rfl
@[simp] theorem State.setTile_evts (s : State) (t : Nat) (r : TileRec) : (State.setTile s t r).evts = s.evts := rfl
@[simp] theorem State.setTile_ms (s : State) (t : Nat) (r : TileRec) : (State.setTile s t r).ms = s.ms := rfl
@[simp] theorem State.setTile_bus (s : State) (t : Nat) (r : TileRec) : (State.setTile s t r).bus = s.bus := rfl
@[simp] theorem State.setTile_queues (s : State) (t : Nat) (r : TileRec) : (State.setTile s t r).queues = s.queues := rfl
@[simp] theorem State.setTile_pkts (s : State) (t : Nat) (r : TileRec) : (State.setTile s t r).pkts = s.pkts := rfl
@[simp] theorem State.setTile_pace (s : State) (t : Nat) (r : TileRec) : (State.setTile s t r).pace = s.pace := rfl
@[simp] theorem State.setTile_lanes (s : State) (t : Nat) (r : TileRec) : (State.setTile s t r).lanes = s.lanes := rfl
@[simp] theorem State.setTile_reloads (s : State) (t : Nat) (r : TileRec) : (State.setTile s t r).reloads = s.reloads := rfl
@[simp] theorem State.setTile_pcieUp (s : State) (t : Nat) (r : TileRec) : (State.setTile s t r).pcieUp = s.pcieUp := rfl
@[simp] theorem State.setTile_pcieOut (s : State) (t : Nat) (r : TileRec) : (State.setTile s t r).pcieOut = s.pcieOut := rfl
@[simp] theorem State.setTile_insts (s : State) (t : Nat) (r : TileRec) : (State.setTile s t r).insts = s.insts := rfl
@[simp] theorem State.setTile_idxs (s : State) (t : Nat) (r : TileRec) : (State.setTile s t r).idxs = s.idxs := rfl
@[simp] theorem State.setTile_jobs (s : State) (t : Nat) (r : TileRec) : (State.setTile s t r).jobs = s.jobs := rfl
@[simp] theorem State.setTile_gctx (s : State) (t : Nat) (r : TileRec) : (State.setTile s t r).gctx = s.gctx := rfl
@[simp] theorem State.setTile_rrLane (s : State) (t : Nat) (r : TileRec) : (State.setTile s t r).rrLane = s.rrLane := rfl
@[simp] theorem State.setTile_testHold (s : State) (t : Nat) (r : TileRec) : (State.setTile s t r).testHold = s.testHold := rfl
@[simp] theorem State.setTile_io (s : State) (t : Nat) (r : TileRec) : (State.setTile s t r).io = s.io := rfl
@[simp] theorem State.setTile_ring (s : State) (t : Nat) (r : TileRec) : (State.setTile s t r).ring = s.ring := rfl
@[simp] theorem State.setTile_free (s : State) (t : Nat) (r : TileRec) : (State.setTile s t r).free = s.free := rfl
@[simp] theorem State.setTile_pending (s : State) (t : Nat) (r : TileRec) : (State.setTile s t r).pending = s.pending := rfl
@[simp] theorem State.setTile_rd (s : State) (t : Nat) (r : TileRec) (reg : Nat) : (State.setTile s t r).rd reg = s.rd reg := rfl
@[simp] theorem State.setTile_getF (s : State) (t : Nat) (r : TileRec) (fld : FRef) : (State.setTile s t r).getF fld = s.getF fld := rfl

@[simp] theorem State.setLane_regs (s : State) (l : Nat) (r : Option LaneRec) : (State.setLane s l r).regs = s.regs := rfl
@[simp] theorem State.setLane_clk (s : State) (l : Nat) (r : Option LaneRec) : (State.setLane s l r).clk = s.clk := rfl
@[simp] theorem State.setLane_boot (s : State) (l : Nat) (r : Option LaneRec) : (State.setLane s l r).boot = s.boot := rfl
@[simp] theorem State.setLane_pins (s : State) (l : Nat) (r : Option LaneRec) : (State.setLane s l r).pins = s.pins := rfl
@[simp] theorem State.setLane_pwr (s : State) (l : Nat) (r : Option LaneRec) : (State.setLane s l r).pwr = s.pwr := rfl
@[simp] theorem State.setLane_saf (s : State) (l : Nat) (r : Option LaneRec) : (State.setLane s l r).saf = s.saf := rfl
@[simp] theorem State.setLane_pads (s : State) (l : Nat) (r : Option LaneRec) : (State.setLane s l r).pads = s.pads := rfl
@[simp] theorem State.setLane_tap (s : State) (l : Nat) (r : Option LaneRec) : (State.setLane s l r).tap = s.tap := rfl
@[simp] theorem State.setLane_evts (s : State) (l : Nat) (r : Option LaneRec) : (State.setLane s l r).evts = s.evts := rfl
@[simp] theorem State.setLane_ms (s : State) (l : Nat) (r : Option LaneRec) : (State.setLane s l r).ms = s.ms := rfl
@[simp] theorem State.setLane_bus (s : State) (l : Nat) (r : Option LaneRec) : (State.setLane s l r).bus = s.bus := rfl
@[simp] theorem State.setLane_queues (s : State) (l : Nat) (r : Option LaneRec) : (State.setLane s l r).queues = s.queues := rfl
@[simp] theorem State.setLane_pkts (s : State) (l : Nat) (r : Option LaneRec) : (State.setLane s l r).pkts = s.pkts := rfl
@[simp] theorem State.setLane_pace (s : State) (l : Nat) (r : Option LaneRec) : (State.setLane s l r).pace = s.pace := rfl
@[simp] theorem State.setLane_reloads (s : State) (l : Nat) (r : Option LaneRec) : (State.setLane s l r).reloads = s.reloads := rfl
@[simp] theorem State.setLane_pcieUp (s : State) (l : Nat) (r : Option LaneRec) : (State.setLane s l r).pcieUp = s.pcieUp := rfl
@[simp] theorem State.setLane_pcieOut (s : State) (l : Nat) (r : Option LaneRec) : (State.setLane s l r).pcieOut = s.pcieOut := rfl
@[simp] theorem State.setLane_insts (s : State) (l : Nat) (r : Option LaneRec) : (State.setLane s l r).insts = s.insts := rfl
@[simp] theorem State.setLane_idxs (s : State) (l : Nat) (r : Option LaneRec) : (State.setLane s l r).idxs = s.idxs := rfl
@[simp] theorem State.setLane_jobs (s : State) (l : Nat) (r : Option LaneRec) : (State.setLane s l r).jobs = s.jobs := rfl
@[simp] theorem State.setLane_tiles (s : State) (l : Nat) (r : Option LaneRec) : (State.setLane s l r).tiles = s.tiles := rfl
@[simp] theorem State.setLane_gctx (s : State) (l : Nat) (r : Option LaneRec) : (State.setLane s l r).gctx = s.gctx := rfl
@[simp] theorem State.setLane_rrLane (s : State) (l : Nat) (r : Option LaneRec) : (State.setLane s l r).rrLane = s.rrLane := rfl
@[simp] theorem State.setLane_testHold (s : State) (l : Nat) (r : Option LaneRec) : (State.setLane s l r).testHold = s.testHold := rfl
@[simp] theorem State.setLane_io (s : State) (l : Nat) (r : Option LaneRec) : (State.setLane s l r).io = s.io := rfl
@[simp] theorem State.setLane_ring (s : State) (l : Nat) (r : Option LaneRec) : (State.setLane s l r).ring = s.ring := rfl
@[simp] theorem State.setLane_free (s : State) (l : Nat) (r : Option LaneRec) : (State.setLane s l r).free = s.free := rfl
@[simp] theorem State.setLane_pending (s : State) (l : Nat) (r : Option LaneRec) : (State.setLane s l r).pending = s.pending := rfl
@[simp] theorem State.setLane_rd (s : State) (l : Nat) (r : Option LaneRec) (reg : Nat) : (State.setLane s l r).rd reg = s.rd reg := rfl
@[simp] theorem State.setLane_getF (s : State) (l : Nat) (r : Option LaneRec) (fld : FRef) : (State.setLane s l r).getF fld = s.getF fld := rfl

@[simp] theorem State.setIdx_regs (s : State) (id : Nat) (x : Option IdxRec) : (State.setIdx s id x).regs = s.regs := rfl
@[simp] theorem State.setIdx_clk (s : State) (id : Nat) (x : Option IdxRec) : (State.setIdx s id x).clk = s.clk := rfl
@[simp] theorem State.setIdx_boot (s : State) (id : Nat) (x : Option IdxRec) : (State.setIdx s id x).boot = s.boot := rfl
@[simp] theorem State.setIdx_pins (s : State) (id : Nat) (x : Option IdxRec) : (State.setIdx s id x).pins = s.pins := rfl
@[simp] theorem State.setIdx_pwr (s : State) (id : Nat) (x : Option IdxRec) : (State.setIdx s id x).pwr = s.pwr := rfl
@[simp] theorem State.setIdx_saf (s : State) (id : Nat) (x : Option IdxRec) : (State.setIdx s id x).saf = s.saf := rfl
@[simp] theorem State.setIdx_pads (s : State) (id : Nat) (x : Option IdxRec) : (State.setIdx s id x).pads = s.pads := rfl
@[simp] theorem State.setIdx_tap (s : State) (id : Nat) (x : Option IdxRec) : (State.setIdx s id x).tap = s.tap := rfl
@[simp] theorem State.setIdx_evts (s : State) (id : Nat) (x : Option IdxRec) : (State.setIdx s id x).evts = s.evts := rfl
@[simp] theorem State.setIdx_ms (s : State) (id : Nat) (x : Option IdxRec) : (State.setIdx s id x).ms = s.ms := rfl
@[simp] theorem State.setIdx_bus (s : State) (id : Nat) (x : Option IdxRec) : (State.setIdx s id x).bus = s.bus := rfl
@[simp] theorem State.setIdx_queues (s : State) (id : Nat) (x : Option IdxRec) : (State.setIdx s id x).queues = s.queues := rfl
@[simp] theorem State.setIdx_pkts (s : State) (id : Nat) (x : Option IdxRec) : (State.setIdx s id x).pkts = s.pkts := rfl
@[simp] theorem State.setIdx_pace (s : State) (id : Nat) (x : Option IdxRec) : (State.setIdx s id x).pace = s.pace := rfl
@[simp] theorem State.setIdx_lanes (s : State) (id : Nat) (x : Option IdxRec) : (State.setIdx s id x).lanes = s.lanes := rfl
@[simp] theorem State.setIdx_reloads (s : State) (id : Nat) (x : Option IdxRec) : (State.setIdx s id x).reloads = s.reloads := rfl
@[simp] theorem State.setIdx_pcieUp (s : State) (id : Nat) (x : Option IdxRec) : (State.setIdx s id x).pcieUp = s.pcieUp := rfl
@[simp] theorem State.setIdx_pcieOut (s : State) (id : Nat) (x : Option IdxRec) : (State.setIdx s id x).pcieOut = s.pcieOut := rfl
@[simp] theorem State.setIdx_insts (s : State) (id : Nat) (x : Option IdxRec) : (State.setIdx s id x).insts = s.insts := rfl
@[simp] theorem State.setIdx_jobs (s : State) (id : Nat) (x : Option IdxRec) : (State.setIdx s id x).jobs = s.jobs := rfl
@[simp] theorem State.setIdx_tiles (s : State) (id : Nat) (x : Option IdxRec) : (State.setIdx s id x).tiles = s.tiles := rfl
@[simp] theorem State.setIdx_gctx (s : State) (id : Nat) (x : Option IdxRec) : (State.setIdx s id x).gctx = s.gctx := rfl
@[simp] theorem State.setIdx_rrLane (s : State) (id : Nat) (x : Option IdxRec) : (State.setIdx s id x).rrLane = s.rrLane := rfl
@[simp] theorem State.setIdx_testHold (s : State) (id : Nat) (x : Option IdxRec) : (State.setIdx s id x).testHold = s.testHold := rfl
@[simp] theorem State.setIdx_io (s : State) (id : Nat) (x : Option IdxRec) : (State.setIdx s id x).io = s.io := rfl
@[simp] theorem State.setIdx_ring (s : State) (id : Nat) (x : Option IdxRec) : (State.setIdx s id x).ring = s.ring := rfl
@[simp] theorem State.setIdx_free (s : State) (id : Nat) (x : Option IdxRec) : (State.setIdx s id x).free = s.free := rfl
@[simp] theorem State.setIdx_pending (s : State) (id : Nat) (x : Option IdxRec) : (State.setIdx s id x).pending = s.pending := rfl
@[simp] theorem State.setIdx_rd (s : State) (id : Nat) (x : Option IdxRec) (reg : Nat) : (State.setIdx s id x).rd reg = s.rd reg := rfl
@[simp] theorem State.setIdx_getF (s : State) (id : Nat) (x : Option IdxRec) (fld : FRef) : (State.setIdx s id x).getF fld = s.getF fld := rfl

@[simp] theorem State.setDisp_regs (s : State) (o : Nat) (r : DispRec) : (State.setDisp s o r).regs = s.regs := rfl
@[simp] theorem State.setDisp_clk (s : State) (o : Nat) (r : DispRec) : (State.setDisp s o r).clk = s.clk := rfl
@[simp] theorem State.setDisp_boot (s : State) (o : Nat) (r : DispRec) : (State.setDisp s o r).boot = s.boot := rfl
@[simp] theorem State.setDisp_pins (s : State) (o : Nat) (r : DispRec) : (State.setDisp s o r).pins = s.pins := rfl
@[simp] theorem State.setDisp_pwr (s : State) (o : Nat) (r : DispRec) : (State.setDisp s o r).pwr = s.pwr := rfl
@[simp] theorem State.setDisp_saf (s : State) (o : Nat) (r : DispRec) : (State.setDisp s o r).saf = s.saf := rfl
@[simp] theorem State.setDisp_pads (s : State) (o : Nat) (r : DispRec) : (State.setDisp s o r).pads = s.pads := rfl
@[simp] theorem State.setDisp_tap (s : State) (o : Nat) (r : DispRec) : (State.setDisp s o r).tap = s.tap := rfl
@[simp] theorem State.setDisp_evts (s : State) (o : Nat) (r : DispRec) : (State.setDisp s o r).evts = s.evts := rfl
@[simp] theorem State.setDisp_ms (s : State) (o : Nat) (r : DispRec) : (State.setDisp s o r).ms = s.ms := rfl
@[simp] theorem State.setDisp_bus (s : State) (o : Nat) (r : DispRec) : (State.setDisp s o r).bus = s.bus := rfl
@[simp] theorem State.setDisp_queues (s : State) (o : Nat) (r : DispRec) : (State.setDisp s o r).queues = s.queues := rfl
@[simp] theorem State.setDisp_pkts (s : State) (o : Nat) (r : DispRec) : (State.setDisp s o r).pkts = s.pkts := rfl
@[simp] theorem State.setDisp_pace (s : State) (o : Nat) (r : DispRec) : (State.setDisp s o r).pace = s.pace := rfl
@[simp] theorem State.setDisp_lanes (s : State) (o : Nat) (r : DispRec) : (State.setDisp s o r).lanes = s.lanes := rfl
@[simp] theorem State.setDisp_reloads (s : State) (o : Nat) (r : DispRec) : (State.setDisp s o r).reloads = s.reloads := rfl
@[simp] theorem State.setDisp_pcieUp (s : State) (o : Nat) (r : DispRec) : (State.setDisp s o r).pcieUp = s.pcieUp := rfl
@[simp] theorem State.setDisp_pcieOut (s : State) (o : Nat) (r : DispRec) : (State.setDisp s o r).pcieOut = s.pcieOut := rfl
@[simp] theorem State.setDisp_insts (s : State) (o : Nat) (r : DispRec) : (State.setDisp s o r).insts = s.insts := rfl
@[simp] theorem State.setDisp_idxs (s : State) (o : Nat) (r : DispRec) : (State.setDisp s o r).idxs = s.idxs := rfl
@[simp] theorem State.setDisp_jobs (s : State) (o : Nat) (r : DispRec) : (State.setDisp s o r).jobs = s.jobs := rfl
@[simp] theorem State.setDisp_tiles (s : State) (o : Nat) (r : DispRec) : (State.setDisp s o r).tiles = s.tiles := rfl
@[simp] theorem State.setDisp_gctx (s : State) (o : Nat) (r : DispRec) : (State.setDisp s o r).gctx = s.gctx := rfl
@[simp] theorem State.setDisp_rrLane (s : State) (o : Nat) (r : DispRec) : (State.setDisp s o r).rrLane = s.rrLane := rfl
@[simp] theorem State.setDisp_testHold (s : State) (o : Nat) (r : DispRec) : (State.setDisp s o r).testHold = s.testHold := rfl
@[simp] theorem State.setDisp_ring (s : State) (o : Nat) (r : DispRec) : (State.setDisp s o r).ring = s.ring := rfl
@[simp] theorem State.setDisp_free (s : State) (o : Nat) (r : DispRec) : (State.setDisp s o r).free = s.free := rfl
@[simp] theorem State.setDisp_pending (s : State) (o : Nat) (r : DispRec) : (State.setDisp s o r).pending = s.pending := rfl
@[simp] theorem State.setDisp_rd (s : State) (o : Nat) (r : DispRec) (reg : Nat) : (State.setDisp s o r).rd reg = s.rd reg := rfl
@[simp] theorem State.setDisp_getF (s : State) (o : Nat) (r : DispRec) (fld : FRef) : (State.setDisp s o r).getF fld = s.getF fld := rfl

@[simp] theorem State.setDispSaved_regs (s : State) (o : Nat) (r : Option (Nat × Nat × Nat)) : (State.setDispSaved s o r).regs = s.regs := rfl
@[simp] theorem State.setDispSaved_clk (s : State) (o : Nat) (r : Option (Nat × Nat × Nat)) : (State.setDispSaved s o r).clk = s.clk := rfl
@[simp] theorem State.setDispSaved_boot (s : State) (o : Nat) (r : Option (Nat × Nat × Nat)) : (State.setDispSaved s o r).boot = s.boot := rfl
@[simp] theorem State.setDispSaved_pins (s : State) (o : Nat) (r : Option (Nat × Nat × Nat)) : (State.setDispSaved s o r).pins = s.pins := rfl
@[simp] theorem State.setDispSaved_pwr (s : State) (o : Nat) (r : Option (Nat × Nat × Nat)) : (State.setDispSaved s o r).pwr = s.pwr := rfl
@[simp] theorem State.setDispSaved_saf (s : State) (o : Nat) (r : Option (Nat × Nat × Nat)) : (State.setDispSaved s o r).saf = s.saf := rfl
@[simp] theorem State.setDispSaved_pads (s : State) (o : Nat) (r : Option (Nat × Nat × Nat)) : (State.setDispSaved s o r).pads = s.pads := rfl
@[simp] theorem State.setDispSaved_tap (s : State) (o : Nat) (r : Option (Nat × Nat × Nat)) : (State.setDispSaved s o r).tap = s.tap := rfl
@[simp] theorem State.setDispSaved_evts (s : State) (o : Nat) (r : Option (Nat × Nat × Nat)) : (State.setDispSaved s o r).evts = s.evts := rfl
@[simp] theorem State.setDispSaved_ms (s : State) (o : Nat) (r : Option (Nat × Nat × Nat)) : (State.setDispSaved s o r).ms = s.ms := rfl
@[simp] theorem State.setDispSaved_bus (s : State) (o : Nat) (r : Option (Nat × Nat × Nat)) : (State.setDispSaved s o r).bus = s.bus := rfl
@[simp] theorem State.setDispSaved_queues (s : State) (o : Nat) (r : Option (Nat × Nat × Nat)) : (State.setDispSaved s o r).queues = s.queues := rfl
@[simp] theorem State.setDispSaved_pkts (s : State) (o : Nat) (r : Option (Nat × Nat × Nat)) : (State.setDispSaved s o r).pkts = s.pkts := rfl
@[simp] theorem State.setDispSaved_pace (s : State) (o : Nat) (r : Option (Nat × Nat × Nat)) : (State.setDispSaved s o r).pace = s.pace := rfl
@[simp] theorem State.setDispSaved_lanes (s : State) (o : Nat) (r : Option (Nat × Nat × Nat)) : (State.setDispSaved s o r).lanes = s.lanes := rfl
@[simp] theorem State.setDispSaved_reloads (s : State) (o : Nat) (r : Option (Nat × Nat × Nat)) : (State.setDispSaved s o r).reloads = s.reloads := rfl
@[simp] theorem State.setDispSaved_pcieUp (s : State) (o : Nat) (r : Option (Nat × Nat × Nat)) : (State.setDispSaved s o r).pcieUp = s.pcieUp := rfl
@[simp] theorem State.setDispSaved_pcieOut (s : State) (o : Nat) (r : Option (Nat × Nat × Nat)) : (State.setDispSaved s o r).pcieOut = s.pcieOut := rfl
@[simp] theorem State.setDispSaved_insts (s : State) (o : Nat) (r : Option (Nat × Nat × Nat)) : (State.setDispSaved s o r).insts = s.insts := rfl
@[simp] theorem State.setDispSaved_idxs (s : State) (o : Nat) (r : Option (Nat × Nat × Nat)) : (State.setDispSaved s o r).idxs = s.idxs := rfl
@[simp] theorem State.setDispSaved_jobs (s : State) (o : Nat) (r : Option (Nat × Nat × Nat)) : (State.setDispSaved s o r).jobs = s.jobs := rfl
@[simp] theorem State.setDispSaved_tiles (s : State) (o : Nat) (r : Option (Nat × Nat × Nat)) : (State.setDispSaved s o r).tiles = s.tiles := rfl
@[simp] theorem State.setDispSaved_gctx (s : State) (o : Nat) (r : Option (Nat × Nat × Nat)) : (State.setDispSaved s o r).gctx = s.gctx := rfl
@[simp] theorem State.setDispSaved_rrLane (s : State) (o : Nat) (r : Option (Nat × Nat × Nat)) : (State.setDispSaved s o r).rrLane = s.rrLane := rfl
@[simp] theorem State.setDispSaved_testHold (s : State) (o : Nat) (r : Option (Nat × Nat × Nat)) : (State.setDispSaved s o r).testHold = s.testHold := rfl
@[simp] theorem State.setDispSaved_ring (s : State) (o : Nat) (r : Option (Nat × Nat × Nat)) : (State.setDispSaved s o r).ring = s.ring := rfl
@[simp] theorem State.setDispSaved_free (s : State) (o : Nat) (r : Option (Nat × Nat × Nat)) : (State.setDispSaved s o r).free = s.free := rfl
@[simp] theorem State.setDispSaved_pending (s : State) (o : Nat) (r : Option (Nat × Nat × Nat)) : (State.setDispSaved s o r).pending = s.pending := rfl
@[simp] theorem State.setDispSaved_rd (s : State) (o : Nat) (r : Option (Nat × Nat × Nat)) (reg : Nat) : (State.setDispSaved s o r).rd reg = s.rd reg := rfl
@[simp] theorem State.setDispSaved_getF (s : State) (o : Nat) (r : Option (Nat × Nat × Nat)) (fld : FRef) : (State.setDispSaved s o r).getF fld = s.getF fld := rfl

@[simp] theorem State.setSens_regs (s : State) (t : Nat) (r : Option SensRec) : (State.setSens s t r).regs = s.regs := rfl
@[simp] theorem State.setSens_clk (s : State) (t : Nat) (r : Option SensRec) : (State.setSens s t r).clk = s.clk := rfl
@[simp] theorem State.setSens_boot (s : State) (t : Nat) (r : Option SensRec) : (State.setSens s t r).boot = s.boot := rfl
@[simp] theorem State.setSens_pins (s : State) (t : Nat) (r : Option SensRec) : (State.setSens s t r).pins = s.pins := rfl
@[simp] theorem State.setSens_pwr (s : State) (t : Nat) (r : Option SensRec) : (State.setSens s t r).pwr = s.pwr := rfl
@[simp] theorem State.setSens_saf (s : State) (t : Nat) (r : Option SensRec) : (State.setSens s t r).saf = s.saf := rfl
@[simp] theorem State.setSens_pads (s : State) (t : Nat) (r : Option SensRec) : (State.setSens s t r).pads = s.pads := rfl
@[simp] theorem State.setSens_tap (s : State) (t : Nat) (r : Option SensRec) : (State.setSens s t r).tap = s.tap := rfl
@[simp] theorem State.setSens_evts (s : State) (t : Nat) (r : Option SensRec) : (State.setSens s t r).evts = s.evts := rfl
@[simp] theorem State.setSens_ms (s : State) (t : Nat) (r : Option SensRec) : (State.setSens s t r).ms = s.ms := rfl
@[simp] theorem State.setSens_bus (s : State) (t : Nat) (r : Option SensRec) : (State.setSens s t r).bus = s.bus := rfl
@[simp] theorem State.setSens_queues (s : State) (t : Nat) (r : Option SensRec) : (State.setSens s t r).queues = s.queues := rfl
@[simp] theorem State.setSens_pkts (s : State) (t : Nat) (r : Option SensRec) : (State.setSens s t r).pkts = s.pkts := rfl
@[simp] theorem State.setSens_pace (s : State) (t : Nat) (r : Option SensRec) : (State.setSens s t r).pace = s.pace := rfl
@[simp] theorem State.setSens_lanes (s : State) (t : Nat) (r : Option SensRec) : (State.setSens s t r).lanes = s.lanes := rfl
@[simp] theorem State.setSens_reloads (s : State) (t : Nat) (r : Option SensRec) : (State.setSens s t r).reloads = s.reloads := rfl
@[simp] theorem State.setSens_pcieUp (s : State) (t : Nat) (r : Option SensRec) : (State.setSens s t r).pcieUp = s.pcieUp := rfl
@[simp] theorem State.setSens_pcieOut (s : State) (t : Nat) (r : Option SensRec) : (State.setSens s t r).pcieOut = s.pcieOut := rfl
@[simp] theorem State.setSens_insts (s : State) (t : Nat) (r : Option SensRec) : (State.setSens s t r).insts = s.insts := rfl
@[simp] theorem State.setSens_idxs (s : State) (t : Nat) (r : Option SensRec) : (State.setSens s t r).idxs = s.idxs := rfl
@[simp] theorem State.setSens_jobs (s : State) (t : Nat) (r : Option SensRec) : (State.setSens s t r).jobs = s.jobs := rfl
@[simp] theorem State.setSens_tiles (s : State) (t : Nat) (r : Option SensRec) : (State.setSens s t r).tiles = s.tiles := rfl
@[simp] theorem State.setSens_gctx (s : State) (t : Nat) (r : Option SensRec) : (State.setSens s t r).gctx = s.gctx := rfl
@[simp] theorem State.setSens_rrLane (s : State) (t : Nat) (r : Option SensRec) : (State.setSens s t r).rrLane = s.rrLane := rfl
@[simp] theorem State.setSens_testHold (s : State) (t : Nat) (r : Option SensRec) : (State.setSens s t r).testHold = s.testHold := rfl
@[simp] theorem State.setSens_ring (s : State) (t : Nat) (r : Option SensRec) : (State.setSens s t r).ring = s.ring := rfl
@[simp] theorem State.setSens_free (s : State) (t : Nat) (r : Option SensRec) : (State.setSens s t r).free = s.free := rfl
@[simp] theorem State.setSens_pending (s : State) (t : Nat) (r : Option SensRec) : (State.setSens s t r).pending = s.pending := rfl
@[simp] theorem State.setSens_rd (s : State) (t : Nat) (r : Option SensRec) (reg : Nat) : (State.setSens s t r).rd reg = s.rd reg := rfl
@[simp] theorem State.setSens_getF (s : State) (t : Nat) (r : Option SensRec) (fld : FRef) : (State.setSens s t r).getF fld = s.getF fld := rfl

@[simp] theorem State.setCan_regs (s : State) (c : Nat) (r : CanRec) : (State.setCan s c r).regs = s.regs := rfl
@[simp] theorem State.setCan_clk (s : State) (c : Nat) (r : CanRec) : (State.setCan s c r).clk = s.clk := rfl
@[simp] theorem State.setCan_boot (s : State) (c : Nat) (r : CanRec) : (State.setCan s c r).boot = s.boot := rfl
@[simp] theorem State.setCan_pins (s : State) (c : Nat) (r : CanRec) : (State.setCan s c r).pins = s.pins := rfl
@[simp] theorem State.setCan_pwr (s : State) (c : Nat) (r : CanRec) : (State.setCan s c r).pwr = s.pwr := rfl
@[simp] theorem State.setCan_saf (s : State) (c : Nat) (r : CanRec) : (State.setCan s c r).saf = s.saf := rfl
@[simp] theorem State.setCan_pads (s : State) (c : Nat) (r : CanRec) : (State.setCan s c r).pads = s.pads := rfl
@[simp] theorem State.setCan_tap (s : State) (c : Nat) (r : CanRec) : (State.setCan s c r).tap = s.tap := rfl
@[simp] theorem State.setCan_evts (s : State) (c : Nat) (r : CanRec) : (State.setCan s c r).evts = s.evts := rfl
@[simp] theorem State.setCan_ms (s : State) (c : Nat) (r : CanRec) : (State.setCan s c r).ms = s.ms := rfl
@[simp] theorem State.setCan_bus (s : State) (c : Nat) (r : CanRec) : (State.setCan s c r).bus = s.bus := rfl
@[simp] theorem State.setCan_queues (s : State) (c : Nat) (r : CanRec) : (State.setCan s c r).queues = s.queues := rfl
@[simp] theorem State.setCan_pkts (s : State) (c : Nat) (r : CanRec) : (State.setCan s c r).pkts = s.pkts := rfl
@[simp] theorem State.setCan_pace (s : State) (c : Nat) (r : CanRec) : (State.setCan s c r).pace = s.pace := rfl
@[simp] theorem State.setCan_lanes (s : State) (c : Nat) (r : CanRec) : (State.setCan s c r).lanes = s.lanes := rfl
@[simp] theorem State.setCan_reloads (s : State) (c : Nat) (r : CanRec) : (State.setCan s c r).reloads = s.reloads := rfl
@[simp] theorem State.setCan_pcieUp (s : State) (c : Nat) (r : CanRec) : (State.setCan s c r).pcieUp = s.pcieUp := rfl
@[simp] theorem State.setCan_pcieOut (s : State) (c : Nat) (r : CanRec) : (State.setCan s c r).pcieOut = s.pcieOut := rfl
@[simp] theorem State.setCan_insts (s : State) (c : Nat) (r : CanRec) : (State.setCan s c r).insts = s.insts := rfl
@[simp] theorem State.setCan_idxs (s : State) (c : Nat) (r : CanRec) : (State.setCan s c r).idxs = s.idxs := rfl
@[simp] theorem State.setCan_jobs (s : State) (c : Nat) (r : CanRec) : (State.setCan s c r).jobs = s.jobs := rfl
@[simp] theorem State.setCan_tiles (s : State) (c : Nat) (r : CanRec) : (State.setCan s c r).tiles = s.tiles := rfl
@[simp] theorem State.setCan_gctx (s : State) (c : Nat) (r : CanRec) : (State.setCan s c r).gctx = s.gctx := rfl
@[simp] theorem State.setCan_rrLane (s : State) (c : Nat) (r : CanRec) : (State.setCan s c r).rrLane = s.rrLane := rfl
@[simp] theorem State.setCan_testHold (s : State) (c : Nat) (r : CanRec) : (State.setCan s c r).testHold = s.testHold := rfl
@[simp] theorem State.setCan_ring (s : State) (c : Nat) (r : CanRec) : (State.setCan s c r).ring = s.ring := rfl
@[simp] theorem State.setCan_free (s : State) (c : Nat) (r : CanRec) : (State.setCan s c r).free = s.free := rfl
@[simp] theorem State.setCan_pending (s : State) (c : Nat) (r : CanRec) : (State.setCan s c r).pending = s.pending := rfl
@[simp] theorem State.setCan_rd (s : State) (c : Nat) (r : CanRec) (reg : Nat) : (State.setCan s c r).rd reg = s.rd reg := rfl
@[simp] theorem State.setCan_getF (s : State) (c : Nat) (r : CanRec) (fld : FRef) : (State.setCan s c r).getF fld = s.getF fld := rfl

@[simp] theorem State.setNetNext_regs (s : State) (n : Nat) (x : Nat × Nat) : (State.setNetNext s n x).regs = s.regs := rfl
@[simp] theorem State.setNetNext_clk (s : State) (n : Nat) (x : Nat × Nat) : (State.setNetNext s n x).clk = s.clk := rfl
@[simp] theorem State.setNetNext_boot (s : State) (n : Nat) (x : Nat × Nat) : (State.setNetNext s n x).boot = s.boot := rfl
@[simp] theorem State.setNetNext_pins (s : State) (n : Nat) (x : Nat × Nat) : (State.setNetNext s n x).pins = s.pins := rfl
@[simp] theorem State.setNetNext_pwr (s : State) (n : Nat) (x : Nat × Nat) : (State.setNetNext s n x).pwr = s.pwr := rfl
@[simp] theorem State.setNetNext_saf (s : State) (n : Nat) (x : Nat × Nat) : (State.setNetNext s n x).saf = s.saf := rfl
@[simp] theorem State.setNetNext_pads (s : State) (n : Nat) (x : Nat × Nat) : (State.setNetNext s n x).pads = s.pads := rfl
@[simp] theorem State.setNetNext_tap (s : State) (n : Nat) (x : Nat × Nat) : (State.setNetNext s n x).tap = s.tap := rfl
@[simp] theorem State.setNetNext_evts (s : State) (n : Nat) (x : Nat × Nat) : (State.setNetNext s n x).evts = s.evts := rfl
@[simp] theorem State.setNetNext_ms (s : State) (n : Nat) (x : Nat × Nat) : (State.setNetNext s n x).ms = s.ms := rfl
@[simp] theorem State.setNetNext_bus (s : State) (n : Nat) (x : Nat × Nat) : (State.setNetNext s n x).bus = s.bus := rfl
@[simp] theorem State.setNetNext_queues (s : State) (n : Nat) (x : Nat × Nat) : (State.setNetNext s n x).queues = s.queues := rfl
@[simp] theorem State.setNetNext_pkts (s : State) (n : Nat) (x : Nat × Nat) : (State.setNetNext s n x).pkts = s.pkts := rfl
@[simp] theorem State.setNetNext_pace (s : State) (n : Nat) (x : Nat × Nat) : (State.setNetNext s n x).pace = s.pace := rfl
@[simp] theorem State.setNetNext_lanes (s : State) (n : Nat) (x : Nat × Nat) : (State.setNetNext s n x).lanes = s.lanes := rfl
@[simp] theorem State.setNetNext_reloads (s : State) (n : Nat) (x : Nat × Nat) : (State.setNetNext s n x).reloads = s.reloads := rfl
@[simp] theorem State.setNetNext_pcieUp (s : State) (n : Nat) (x : Nat × Nat) : (State.setNetNext s n x).pcieUp = s.pcieUp := rfl
@[simp] theorem State.setNetNext_pcieOut (s : State) (n : Nat) (x : Nat × Nat) : (State.setNetNext s n x).pcieOut = s.pcieOut := rfl
@[simp] theorem State.setNetNext_insts (s : State) (n : Nat) (x : Nat × Nat) : (State.setNetNext s n x).insts = s.insts := rfl
@[simp] theorem State.setNetNext_idxs (s : State) (n : Nat) (x : Nat × Nat) : (State.setNetNext s n x).idxs = s.idxs := rfl
@[simp] theorem State.setNetNext_jobs (s : State) (n : Nat) (x : Nat × Nat) : (State.setNetNext s n x).jobs = s.jobs := rfl
@[simp] theorem State.setNetNext_tiles (s : State) (n : Nat) (x : Nat × Nat) : (State.setNetNext s n x).tiles = s.tiles := rfl
@[simp] theorem State.setNetNext_gctx (s : State) (n : Nat) (x : Nat × Nat) : (State.setNetNext s n x).gctx = s.gctx := rfl
@[simp] theorem State.setNetNext_rrLane (s : State) (n : Nat) (x : Nat × Nat) : (State.setNetNext s n x).rrLane = s.rrLane := rfl
@[simp] theorem State.setNetNext_testHold (s : State) (n : Nat) (x : Nat × Nat) : (State.setNetNext s n x).testHold = s.testHold := rfl
@[simp] theorem State.setNetNext_ring (s : State) (n : Nat) (x : Nat × Nat) : (State.setNetNext s n x).ring = s.ring := rfl
@[simp] theorem State.setNetNext_free (s : State) (n : Nat) (x : Nat × Nat) : (State.setNetNext s n x).free = s.free := rfl
@[simp] theorem State.setNetNext_pending (s : State) (n : Nat) (x : Nat × Nat) : (State.setNetNext s n x).pending = s.pending := rfl
@[simp] theorem State.setNetNext_rd (s : State) (n : Nat) (x : Nat × Nat) (reg : Nat) : (State.setNetNext s n x).rd reg = s.rd reg := rfl
@[simp] theorem State.setNetNext_getF (s : State) (n : Nat) (x : Nat × Nat) (fld : FRef) : (State.setNetNext s n x).getF fld = s.getF fld := rfl

@[simp] theorem State.setRing_regs (s : State) (r : RingState) : (State.setRing s r).regs = s.regs := rfl
@[simp] theorem State.setRing_clk (s : State) (r : RingState) : (State.setRing s r).clk = s.clk := rfl
@[simp] theorem State.setRing_boot (s : State) (r : RingState) : (State.setRing s r).boot = s.boot := rfl
@[simp] theorem State.setRing_pins (s : State) (r : RingState) : (State.setRing s r).pins = s.pins := rfl
@[simp] theorem State.setRing_pwr (s : State) (r : RingState) : (State.setRing s r).pwr = s.pwr := rfl
@[simp] theorem State.setRing_saf (s : State) (r : RingState) : (State.setRing s r).saf = s.saf := rfl
@[simp] theorem State.setRing_pads (s : State) (r : RingState) : (State.setRing s r).pads = s.pads := rfl
@[simp] theorem State.setRing_tap (s : State) (r : RingState) : (State.setRing s r).tap = s.tap := rfl
@[simp] theorem State.setRing_evts (s : State) (r : RingState) : (State.setRing s r).evts = s.evts := rfl
@[simp] theorem State.setRing_ms (s : State) (r : RingState) : (State.setRing s r).ms = s.ms := rfl
@[simp] theorem State.setRing_bus (s : State) (r : RingState) : (State.setRing s r).bus = s.bus := rfl
@[simp] theorem State.setRing_queues (s : State) (r : RingState) : (State.setRing s r).queues = s.queues := rfl
@[simp] theorem State.setRing_pkts (s : State) (r : RingState) : (State.setRing s r).pkts = s.pkts := rfl
@[simp] theorem State.setRing_pace (s : State) (r : RingState) : (State.setRing s r).pace = s.pace := rfl
@[simp] theorem State.setRing_lanes (s : State) (r : RingState) : (State.setRing s r).lanes = s.lanes := rfl
@[simp] theorem State.setRing_reloads (s : State) (r : RingState) : (State.setRing s r).reloads = s.reloads := rfl
@[simp] theorem State.setRing_pcieUp (s : State) (r : RingState) : (State.setRing s r).pcieUp = s.pcieUp := rfl
@[simp] theorem State.setRing_pcieOut (s : State) (r : RingState) : (State.setRing s r).pcieOut = s.pcieOut := rfl
@[simp] theorem State.setRing_insts (s : State) (r : RingState) : (State.setRing s r).insts = s.insts := rfl
@[simp] theorem State.setRing_idxs (s : State) (r : RingState) : (State.setRing s r).idxs = s.idxs := rfl
@[simp] theorem State.setRing_jobs (s : State) (r : RingState) : (State.setRing s r).jobs = s.jobs := rfl
@[simp] theorem State.setRing_tiles (s : State) (r : RingState) : (State.setRing s r).tiles = s.tiles := rfl
@[simp] theorem State.setRing_gctx (s : State) (r : RingState) : (State.setRing s r).gctx = s.gctx := rfl
@[simp] theorem State.setRing_rrLane (s : State) (r : RingState) : (State.setRing s r).rrLane = s.rrLane := rfl
@[simp] theorem State.setRing_testHold (s : State) (r : RingState) : (State.setRing s r).testHold = s.testHold := rfl
@[simp] theorem State.setRing_io (s : State) (r : RingState) : (State.setRing s r).io = s.io := rfl
@[simp] theorem State.setRing_free (s : State) (r : RingState) : (State.setRing s r).free = s.free := rfl
@[simp] theorem State.setRing_pending (s : State) (r : RingState) : (State.setRing s r).pending = s.pending := rfl
@[simp] theorem State.setRing_rd (s : State) (r : RingState) (reg : Nat) : (State.setRing s r).rd reg = s.rd reg := rfl
@[simp] theorem State.setRing_getF (s : State) (r : RingState) (fld : FRef) : (State.setRing s r).getF fld = s.getF fld := rfl

@[simp] theorem State.setRport_regs (s : State) (p : Nat) (r : RingPort) : (State.setRport s p r).regs = s.regs := rfl
@[simp] theorem State.setRport_clk (s : State) (p : Nat) (r : RingPort) : (State.setRport s p r).clk = s.clk := rfl
@[simp] theorem State.setRport_boot (s : State) (p : Nat) (r : RingPort) : (State.setRport s p r).boot = s.boot := rfl
@[simp] theorem State.setRport_pins (s : State) (p : Nat) (r : RingPort) : (State.setRport s p r).pins = s.pins := rfl
@[simp] theorem State.setRport_pwr (s : State) (p : Nat) (r : RingPort) : (State.setRport s p r).pwr = s.pwr := rfl
@[simp] theorem State.setRport_saf (s : State) (p : Nat) (r : RingPort) : (State.setRport s p r).saf = s.saf := rfl
@[simp] theorem State.setRport_pads (s : State) (p : Nat) (r : RingPort) : (State.setRport s p r).pads = s.pads := rfl
@[simp] theorem State.setRport_tap (s : State) (p : Nat) (r : RingPort) : (State.setRport s p r).tap = s.tap := rfl
@[simp] theorem State.setRport_evts (s : State) (p : Nat) (r : RingPort) : (State.setRport s p r).evts = s.evts := rfl
@[simp] theorem State.setRport_ms (s : State) (p : Nat) (r : RingPort) : (State.setRport s p r).ms = s.ms := rfl
@[simp] theorem State.setRport_bus (s : State) (p : Nat) (r : RingPort) : (State.setRport s p r).bus = s.bus := rfl
@[simp] theorem State.setRport_queues (s : State) (p : Nat) (r : RingPort) : (State.setRport s p r).queues = s.queues := rfl
@[simp] theorem State.setRport_pkts (s : State) (p : Nat) (r : RingPort) : (State.setRport s p r).pkts = s.pkts := rfl
@[simp] theorem State.setRport_pace (s : State) (p : Nat) (r : RingPort) : (State.setRport s p r).pace = s.pace := rfl
@[simp] theorem State.setRport_lanes (s : State) (p : Nat) (r : RingPort) : (State.setRport s p r).lanes = s.lanes := rfl
@[simp] theorem State.setRport_reloads (s : State) (p : Nat) (r : RingPort) : (State.setRport s p r).reloads = s.reloads := rfl
@[simp] theorem State.setRport_pcieUp (s : State) (p : Nat) (r : RingPort) : (State.setRport s p r).pcieUp = s.pcieUp := rfl
@[simp] theorem State.setRport_pcieOut (s : State) (p : Nat) (r : RingPort) : (State.setRport s p r).pcieOut = s.pcieOut := rfl
@[simp] theorem State.setRport_insts (s : State) (p : Nat) (r : RingPort) : (State.setRport s p r).insts = s.insts := rfl
@[simp] theorem State.setRport_idxs (s : State) (p : Nat) (r : RingPort) : (State.setRport s p r).idxs = s.idxs := rfl
@[simp] theorem State.setRport_jobs (s : State) (p : Nat) (r : RingPort) : (State.setRport s p r).jobs = s.jobs := rfl
@[simp] theorem State.setRport_tiles (s : State) (p : Nat) (r : RingPort) : (State.setRport s p r).tiles = s.tiles := rfl
@[simp] theorem State.setRport_gctx (s : State) (p : Nat) (r : RingPort) : (State.setRport s p r).gctx = s.gctx := rfl
@[simp] theorem State.setRport_rrLane (s : State) (p : Nat) (r : RingPort) : (State.setRport s p r).rrLane = s.rrLane := rfl
@[simp] theorem State.setRport_testHold (s : State) (p : Nat) (r : RingPort) : (State.setRport s p r).testHold = s.testHold := rfl
@[simp] theorem State.setRport_io (s : State) (p : Nat) (r : RingPort) : (State.setRport s p r).io = s.io := rfl
@[simp] theorem State.setRport_free (s : State) (p : Nat) (r : RingPort) : (State.setRport s p r).free = s.free := rfl
@[simp] theorem State.setRport_pending (s : State) (p : Nat) (r : RingPort) : (State.setRport s p r).pending = s.pending := rfl
@[simp] theorem State.setRport_rd (s : State) (p : Nat) (r : RingPort) (reg : Nat) : (State.setRport s p r).rd reg = s.rd reg := rfl
@[simp] theorem State.setRport_getF (s : State) (p : Nat) (r : RingPort) (fld : FRef) : (State.setRport s p r).getF fld = s.getF fld := rfl

@[simp] theorem State.setSweep_regs (s : State) (r : Option SweepRun) : (State.setSweep s r).regs = s.regs := rfl
@[simp] theorem State.setSweep_clk (s : State) (r : Option SweepRun) : (State.setSweep s r).clk = s.clk := rfl
@[simp] theorem State.setSweep_boot (s : State) (r : Option SweepRun) : (State.setSweep s r).boot = s.boot := rfl
@[simp] theorem State.setSweep_pins (s : State) (r : Option SweepRun) : (State.setSweep s r).pins = s.pins := rfl
@[simp] theorem State.setSweep_pwr (s : State) (r : Option SweepRun) : (State.setSweep s r).pwr = s.pwr := rfl
@[simp] theorem State.setSweep_saf (s : State) (r : Option SweepRun) : (State.setSweep s r).saf = s.saf := rfl
@[simp] theorem State.setSweep_pads (s : State) (r : Option SweepRun) : (State.setSweep s r).pads = s.pads := rfl
@[simp] theorem State.setSweep_tap (s : State) (r : Option SweepRun) : (State.setSweep s r).tap = s.tap := rfl
@[simp] theorem State.setSweep_evts (s : State) (r : Option SweepRun) : (State.setSweep s r).evts = s.evts := rfl
@[simp] theorem State.setSweep_ms (s : State) (r : Option SweepRun) : (State.setSweep s r).ms = s.ms := rfl
@[simp] theorem State.setSweep_bus (s : State) (r : Option SweepRun) : (State.setSweep s r).bus = s.bus := rfl
@[simp] theorem State.setSweep_queues (s : State) (r : Option SweepRun) : (State.setSweep s r).queues = s.queues := rfl
@[simp] theorem State.setSweep_pkts (s : State) (r : Option SweepRun) : (State.setSweep s r).pkts = s.pkts := rfl
@[simp] theorem State.setSweep_pace (s : State) (r : Option SweepRun) : (State.setSweep s r).pace = s.pace := rfl
@[simp] theorem State.setSweep_lanes (s : State) (r : Option SweepRun) : (State.setSweep s r).lanes = s.lanes := rfl
@[simp] theorem State.setSweep_reloads (s : State) (r : Option SweepRun) : (State.setSweep s r).reloads = s.reloads := rfl
@[simp] theorem State.setSweep_pcieUp (s : State) (r : Option SweepRun) : (State.setSweep s r).pcieUp = s.pcieUp := rfl
@[simp] theorem State.setSweep_pcieOut (s : State) (r : Option SweepRun) : (State.setSweep s r).pcieOut = s.pcieOut := rfl
@[simp] theorem State.setSweep_insts (s : State) (r : Option SweepRun) : (State.setSweep s r).insts = s.insts := rfl
@[simp] theorem State.setSweep_idxs (s : State) (r : Option SweepRun) : (State.setSweep s r).idxs = s.idxs := rfl
@[simp] theorem State.setSweep_jobs (s : State) (r : Option SweepRun) : (State.setSweep s r).jobs = s.jobs := rfl
@[simp] theorem State.setSweep_tiles (s : State) (r : Option SweepRun) : (State.setSweep s r).tiles = s.tiles := rfl
@[simp] theorem State.setSweep_gctx (s : State) (r : Option SweepRun) : (State.setSweep s r).gctx = s.gctx := rfl
@[simp] theorem State.setSweep_rrLane (s : State) (r : Option SweepRun) : (State.setSweep s r).rrLane = s.rrLane := rfl
@[simp] theorem State.setSweep_testHold (s : State) (r : Option SweepRun) : (State.setSweep s r).testHold = s.testHold := rfl
@[simp] theorem State.setSweep_io (s : State) (r : Option SweepRun) : (State.setSweep s r).io = s.io := rfl
@[simp] theorem State.setSweep_free (s : State) (r : Option SweepRun) : (State.setSweep s r).free = s.free := rfl
@[simp] theorem State.setSweep_pending (s : State) (r : Option SweepRun) : (State.setSweep s r).pending = s.pending := rfl
@[simp] theorem State.setSweep_rd (s : State) (r : Option SweepRun) (reg : Nat) : (State.setSweep s r).rd reg = s.rd reg := rfl
@[simp] theorem State.setSweep_getF (s : State) (r : Option SweepRun) (fld : FRef) : (State.setSweep s r).getF fld = s.getF fld := rfl

@[simp] theorem State.setProbe_regs (s : State) (r : Option ProbeRun) : (State.setProbe s r).regs = s.regs := rfl
@[simp] theorem State.setProbe_clk (s : State) (r : Option ProbeRun) : (State.setProbe s r).clk = s.clk := rfl
@[simp] theorem State.setProbe_boot (s : State) (r : Option ProbeRun) : (State.setProbe s r).boot = s.boot := rfl
@[simp] theorem State.setProbe_pins (s : State) (r : Option ProbeRun) : (State.setProbe s r).pins = s.pins := rfl
@[simp] theorem State.setProbe_pwr (s : State) (r : Option ProbeRun) : (State.setProbe s r).pwr = s.pwr := rfl
@[simp] theorem State.setProbe_saf (s : State) (r : Option ProbeRun) : (State.setProbe s r).saf = s.saf := rfl
@[simp] theorem State.setProbe_pads (s : State) (r : Option ProbeRun) : (State.setProbe s r).pads = s.pads := rfl
@[simp] theorem State.setProbe_tap (s : State) (r : Option ProbeRun) : (State.setProbe s r).tap = s.tap := rfl
@[simp] theorem State.setProbe_evts (s : State) (r : Option ProbeRun) : (State.setProbe s r).evts = s.evts := rfl
@[simp] theorem State.setProbe_ms (s : State) (r : Option ProbeRun) : (State.setProbe s r).ms = s.ms := rfl
@[simp] theorem State.setProbe_bus (s : State) (r : Option ProbeRun) : (State.setProbe s r).bus = s.bus := rfl
@[simp] theorem State.setProbe_queues (s : State) (r : Option ProbeRun) : (State.setProbe s r).queues = s.queues := rfl
@[simp] theorem State.setProbe_pkts (s : State) (r : Option ProbeRun) : (State.setProbe s r).pkts = s.pkts := rfl
@[simp] theorem State.setProbe_pace (s : State) (r : Option ProbeRun) : (State.setProbe s r).pace = s.pace := rfl
@[simp] theorem State.setProbe_lanes (s : State) (r : Option ProbeRun) : (State.setProbe s r).lanes = s.lanes := rfl
@[simp] theorem State.setProbe_reloads (s : State) (r : Option ProbeRun) : (State.setProbe s r).reloads = s.reloads := rfl
@[simp] theorem State.setProbe_pcieUp (s : State) (r : Option ProbeRun) : (State.setProbe s r).pcieUp = s.pcieUp := rfl
@[simp] theorem State.setProbe_pcieOut (s : State) (r : Option ProbeRun) : (State.setProbe s r).pcieOut = s.pcieOut := rfl
@[simp] theorem State.setProbe_insts (s : State) (r : Option ProbeRun) : (State.setProbe s r).insts = s.insts := rfl
@[simp] theorem State.setProbe_idxs (s : State) (r : Option ProbeRun) : (State.setProbe s r).idxs = s.idxs := rfl
@[simp] theorem State.setProbe_jobs (s : State) (r : Option ProbeRun) : (State.setProbe s r).jobs = s.jobs := rfl
@[simp] theorem State.setProbe_tiles (s : State) (r : Option ProbeRun) : (State.setProbe s r).tiles = s.tiles := rfl
@[simp] theorem State.setProbe_gctx (s : State) (r : Option ProbeRun) : (State.setProbe s r).gctx = s.gctx := rfl
@[simp] theorem State.setProbe_rrLane (s : State) (r : Option ProbeRun) : (State.setProbe s r).rrLane = s.rrLane := rfl
@[simp] theorem State.setProbe_testHold (s : State) (r : Option ProbeRun) : (State.setProbe s r).testHold = s.testHold := rfl
@[simp] theorem State.setProbe_io (s : State) (r : Option ProbeRun) : (State.setProbe s r).io = s.io := rfl
@[simp] theorem State.setProbe_free (s : State) (r : Option ProbeRun) : (State.setProbe s r).free = s.free := rfl
@[simp] theorem State.setProbe_pending (s : State) (r : Option ProbeRun) : (State.setProbe s r).pending = s.pending := rfl
@[simp] theorem State.setProbe_rd (s : State) (r : Option ProbeRun) (reg : Nat) : (State.setProbe s r).rd reg = s.rd reg := rfl
@[simp] theorem State.setProbe_getF (s : State) (r : Option ProbeRun) (fld : FRef) : (State.setProbe s r).getF fld = s.getF fld := rfl

@[simp] theorem State.fresh_snd_regs (s : State) : (State.fresh s).2.regs = s.regs := rfl
@[simp] theorem State.fresh_snd_clk (s : State) : (State.fresh s).2.clk = s.clk := rfl
@[simp] theorem State.fresh_snd_boot (s : State) : (State.fresh s).2.boot = s.boot := rfl
@[simp] theorem State.fresh_snd_pins (s : State) : (State.fresh s).2.pins = s.pins := rfl
@[simp] theorem State.fresh_snd_pwr (s : State) : (State.fresh s).2.pwr = s.pwr := rfl
@[simp] theorem State.fresh_snd_saf (s : State) : (State.fresh s).2.saf = s.saf := rfl
@[simp] theorem State.fresh_snd_pads (s : State) : (State.fresh s).2.pads = s.pads := rfl
@[simp] theorem State.fresh_snd_tap (s : State) : (State.fresh s).2.tap = s.tap := rfl
@[simp] theorem State.fresh_snd_evts (s : State) : (State.fresh s).2.evts = s.evts := rfl
@[simp] theorem State.fresh_snd_ms (s : State) : (State.fresh s).2.ms = s.ms := rfl
@[simp] theorem State.fresh_snd_bus (s : State) : (State.fresh s).2.bus = s.bus := rfl
@[simp] theorem State.fresh_snd_queues (s : State) : (State.fresh s).2.queues = s.queues := rfl
@[simp] theorem State.fresh_snd_pkts (s : State) : (State.fresh s).2.pkts = s.pkts := rfl
@[simp] theorem State.fresh_snd_pace (s : State) : (State.fresh s).2.pace = s.pace := rfl
@[simp] theorem State.fresh_snd_lanes (s : State) : (State.fresh s).2.lanes = s.lanes := rfl
@[simp] theorem State.fresh_snd_reloads (s : State) : (State.fresh s).2.reloads = s.reloads := rfl
@[simp] theorem State.fresh_snd_pcieUp (s : State) : (State.fresh s).2.pcieUp = s.pcieUp := rfl
@[simp] theorem State.fresh_snd_pcieOut (s : State) : (State.fresh s).2.pcieOut = s.pcieOut := rfl
@[simp] theorem State.fresh_snd_insts (s : State) : (State.fresh s).2.insts = s.insts := rfl
@[simp] theorem State.fresh_snd_idxs (s : State) : (State.fresh s).2.idxs = s.idxs := rfl
@[simp] theorem State.fresh_snd_jobs (s : State) : (State.fresh s).2.jobs = s.jobs := rfl
@[simp] theorem State.fresh_snd_tiles (s : State) : (State.fresh s).2.tiles = s.tiles := rfl
@[simp] theorem State.fresh_snd_gctx (s : State) : (State.fresh s).2.gctx = s.gctx := rfl
@[simp] theorem State.fresh_snd_rrLane (s : State) : (State.fresh s).2.rrLane = s.rrLane := rfl
@[simp] theorem State.fresh_snd_testHold (s : State) : (State.fresh s).2.testHold = s.testHold := rfl
@[simp] theorem State.fresh_snd_io (s : State) : (State.fresh s).2.io = s.io := rfl
@[simp] theorem State.fresh_snd_ring (s : State) : (State.fresh s).2.ring = s.ring := rfl
@[simp] theorem State.fresh_snd_free (s : State) : (State.fresh s).2.free = s.free + 1 := rfl
@[simp] theorem State.fresh_snd_pending (s : State) : (State.fresh s).2.pending = s.pending := rfl
@[simp] theorem State.fresh_snd_rd (s : State) (reg : Nat) : (State.fresh s).2.rd reg = s.rd reg := rfl
@[simp] theorem State.fresh_snd_getF (s : State) (fld : FRef) : (State.fresh s).2.getF fld = s.getF fld := rfl

@[simp] theorem State.paceMode_regs (s : State) (m : PaceMode) : (State.paceMode s m).regs = s.regs := rfl
@[simp] theorem State.paceMode_clk (s : State) (m : PaceMode) : (State.paceMode s m).clk = s.clk := rfl
@[simp] theorem State.paceMode_boot (s : State) (m : PaceMode) : (State.paceMode s m).boot = s.boot := rfl
@[simp] theorem State.paceMode_pins (s : State) (m : PaceMode) : (State.paceMode s m).pins = s.pins := rfl
@[simp] theorem State.paceMode_pwr (s : State) (m : PaceMode) : (State.paceMode s m).pwr = s.pwr := rfl
@[simp] theorem State.paceMode_saf (s : State) (m : PaceMode) : (State.paceMode s m).saf = s.saf := rfl
@[simp] theorem State.paceMode_pads (s : State) (m : PaceMode) : (State.paceMode s m).pads = s.pads := rfl
@[simp] theorem State.paceMode_tap (s : State) (m : PaceMode) : (State.paceMode s m).tap = s.tap := rfl
@[simp] theorem State.paceMode_evts (s : State) (m : PaceMode) : (State.paceMode s m).evts = s.evts := rfl
@[simp] theorem State.paceMode_ms (s : State) (m : PaceMode) : (State.paceMode s m).ms = s.ms := rfl
@[simp] theorem State.paceMode_bus (s : State) (m : PaceMode) : (State.paceMode s m).bus = s.bus := rfl
@[simp] theorem State.paceMode_queues (s : State) (m : PaceMode) : (State.paceMode s m).queues = s.queues := rfl
@[simp] theorem State.paceMode_pkts (s : State) (m : PaceMode) : (State.paceMode s m).pkts = s.pkts := rfl
@[simp] theorem State.paceMode_lanes (s : State) (m : PaceMode) : (State.paceMode s m).lanes = s.lanes := rfl
@[simp] theorem State.paceMode_reloads (s : State) (m : PaceMode) : (State.paceMode s m).reloads = s.reloads := rfl
@[simp] theorem State.paceMode_pcieUp (s : State) (m : PaceMode) : (State.paceMode s m).pcieUp = s.pcieUp := rfl
@[simp] theorem State.paceMode_pcieOut (s : State) (m : PaceMode) : (State.paceMode s m).pcieOut = s.pcieOut := rfl
@[simp] theorem State.paceMode_insts (s : State) (m : PaceMode) : (State.paceMode s m).insts = s.insts := rfl
@[simp] theorem State.paceMode_idxs (s : State) (m : PaceMode) : (State.paceMode s m).idxs = s.idxs := rfl
@[simp] theorem State.paceMode_jobs (s : State) (m : PaceMode) : (State.paceMode s m).jobs = s.jobs := rfl
@[simp] theorem State.paceMode_tiles (s : State) (m : PaceMode) : (State.paceMode s m).tiles = s.tiles := rfl
@[simp] theorem State.paceMode_gctx (s : State) (m : PaceMode) : (State.paceMode s m).gctx = s.gctx := rfl
@[simp] theorem State.paceMode_rrLane (s : State) (m : PaceMode) : (State.paceMode s m).rrLane = s.rrLane := rfl
@[simp] theorem State.paceMode_testHold (s : State) (m : PaceMode) : (State.paceMode s m).testHold = s.testHold := rfl
@[simp] theorem State.paceMode_io (s : State) (m : PaceMode) : (State.paceMode s m).io = s.io := rfl
@[simp] theorem State.paceMode_ring (s : State) (m : PaceMode) : (State.paceMode s m).ring = s.ring := rfl
@[simp] theorem State.paceMode_free (s : State) (m : PaceMode) : (State.paceMode s m).free = s.free := rfl
@[simp] theorem State.paceMode_pending (s : State) (m : PaceMode) : (State.paceMode s m).pending = s.pending := rfl
@[simp] theorem State.paceMode_pace (s : State) (m : PaceMode) : (State.paceMode s m).pace = { s.pace with mode := m } := rfl

/-! What each update writes. -/

@[simp] theorem State.wr_regs (s : State) (a : Nat) (v : Word) : (State.wr s a v).regs = tabPut regReset s.regs a v := rfl
@[simp] theorem State.setQueue_queues (s : State) (q : Nat) (x : QueueState) : (State.setQueue s q x).queues = tabPut (fun _ => QueueState.init) s.queues q x := rfl
@[simp] theorem State.setInst_insts (s : State) (i : Nat) (x : InstRec) : (State.setInst s i x).insts = tabPut (fun _ => InstRec.init) s.insts i x := rfl
@[simp] theorem State.setPkt_pkts (s : State) (p : Pkt) : (State.setPkt s p).pkts = s.pkts.map fun x => if samePkt p.q p.idx x then p else x := rfl
@[simp] theorem State.setPad_pads (s : State) (n : Nat) (p : PadState) : (State.setPad s n p).pads = tabPut (fun _ => PadState.init) s.pads n p := rfl
@[simp] theorem State.setEvt_evts (s : State) (e : Nat) (x : EvtState) : (State.setEvt s e x).evts = tabPut (fun _ => ⟨false, 0⟩) s.evts e x := rfl
@[simp] theorem State.setJob_jobs (s : State) (j : Job) : (State.setJob s j).jobs = s.jobs.map fun x => if sameJob j.q j.idx x then j else x := rfl
@[simp] theorem State.dropJob_jobs (s : State) (j : Job) : (State.dropJob s j).jobs = s.jobs.filter fun x => !sameJob j.q j.idx x := rfl
@[simp] theorem State.setTile_tiles (s : State) (t : Nat) (r : TileRec) : (State.setTile s t r).tiles = tabPut (fun _ => TileRec.init) s.tiles t r := rfl
@[simp] theorem State.setLane_lanes (s : State) (l : Nat) (r : Option LaneRec) : (State.setLane s l r).lanes = tabPut (fun _ => none) s.lanes l r := rfl
@[simp] theorem State.setIdx_idxs (s : State) (id : Nat) (x : Option IdxRec) : (State.setIdx s id x).idxs = tabPut (fun _ => none) s.idxs id x := rfl
@[simp] theorem State.setRing_ring (s : State) (r : RingState) : (State.setRing s r).ring = r := rfl

end Sys2Proof.Machine
end

