-- ==== Sys2Proof/Laws/Tab.lean ====
section
/-! SUPPORT. What a sparse table reads as after a write, and that every table operation keeps the canonical form. -/

namespace Sys2Proof.Machine

variable {α : Type} [DecidableEq α] (d : Nat → α)

omit [DecidableEq α] in
@[simp] theorem tabGet_nil (k : Nat) : tabGet d [] k = d k := rfl

omit [DecidableEq α] in
theorem tabGet_cons (e : Nat × α) (t : List (Nat × α)) (k : Nat) :
    tabGet d (e :: t) k = if k = e.1 then e.2 else tabGet d t k := rfl

theorem tabWfFrom_cons (b : Option Nat) (e : Nat × α) (t : List (Nat × α)) :
    tabWfFrom d b (e :: t) = true ↔
      (∀ k, b = some k → k < e.1) ∧ e.2 ≠ d e.1 ∧ tabWfFrom d (some e.1) t = true := by
  cases b <;> simp [tabWfFrom, and_assoc]

/-- A lower bound may be lowered or dropped. -/
theorem tabWfFrom_weaken {b c : Option Nat} {t : List (Nat × α)} (h : tabWfFrom d b t = true)
    (hc : ∀ k, c = some k → ∃ m, b = some m ∧ k ≤ m) : tabWfFrom d c t = true := by
  cases t with
  | nil => rfl
  | cons e t =>
    rw [tabWfFrom_cons] at h ⊢
    refine ⟨fun k hk => ?_, h.2⟩
    obtain ⟨m, hm, hkm⟩ := hc k hk
    exact lt_of_le_of_lt hkm (h.1 m hm)

/-- Keys at or below the bound of a canonical table read as unlisted. -/
theorem tabGet_below {b k : Nat} {t : List (Nat × α)} (h : tabWfFrom d (some b) t = true) (hk : k ≤ b) :
    tabGet d t k = d k := by
  induction t generalizing b with
  | nil => rfl
  | cons e t ih =>
    rw [tabWfFrom_cons] at h
    have h1 := h.1 b rfl
    rw [tabGet_cons, if_neg (by omega)]
    exact ih h.2.2 (by omega)

/-- A write leaves every other key alone. -/
theorem tabGet_put_ne (t : List (Nat × α)) {k j : Nat} (v : α) (h : j ≠ k) :
    tabGet d (tabPut d t k v) j = tabGet d t j := by
  induction t with
  | nil => by_cases hv : v = d k <;> simp [tabPut, hv, tabGet_cons, h]
  | cons e t ih =>
    simp only [tabPut]
    split
    · split
      · rfl
      · rw [tabGet_cons, if_neg h]
    · split
      · rename_i h2
        have : j ≠ e.1 := h2 ▸ h
        split
        · simp [tabGet_cons, this]
        · simp [tabGet_cons, this, h]
      · simp [tabGet_cons, ih]

theorem tabWfFrom_put {b : Option Nat} {t : List (Nat × α)} (h : tabWfFrom d b t = true) {k : Nat} (v : α)
    (hb : ∀ m, b = some m → m < k) : tabWfFrom d b (tabPut d t k v) = true := by
  induction t generalizing b with
  | nil =>
    by_cases hv : v = d k
    · simp [tabPut, hv, tabWfFrom]
    · simp only [tabPut, if_neg hv]
      rw [tabWfFrom_cons]
      exact ⟨hb, hv, rfl⟩
  | cons e t ih =>
    rw [tabWfFrom_cons] at h
    simp only [tabPut]
    split
    · rename_i hlt
      split
      · rw [tabWfFrom_cons]; exact h
      · rename_i hv
        rw [tabWfFrom_cons]
        refine ⟨hb, hv, ?_⟩
        rw [tabWfFrom_cons]
        exact ⟨fun m hm => by cases hm; exact hlt, h.2⟩
    · split
      · rename_i hlt heq
        split
        · exact tabWfFrom_weaken d h.2.2 fun m hm => ⟨e.1, rfl, by have := h.1 m hm; omega⟩
        · rename_i hv
          rw [tabWfFrom_cons]
          exact ⟨hb, hv, by simpa [heq] using h.2.2⟩
      · rename_i hlt hne
        rw [tabWfFrom_cons]
        exact ⟨h.1, h.2.1, ih h.2.2 fun m hm => by cases hm; omega⟩

/-- A write keeps the canonical form. -/
theorem tabWf_put {t : List (Nat × α)} (h : tabWf d t = true) (k : Nat) (v : α) : tabWf d (tabPut d t k v) = true :=
  tabWfFrom_put d h v (by simp)

theorem tabGet_putFrom_same {b : Option Nat} {t : List (Nat × α)} (h : tabWfFrom d b t = true) (k : Nat) (v : α) :
    tabGet d (tabPut d t k v) k = v := by
  induction t generalizing b with
  | nil => by_cases hv : v = d k <;> simp [tabPut, hv, tabGet_cons]
  | cons e t ih =>
    rw [tabWfFrom_cons] at h
    simp only [tabPut]
    split
    · rename_i hlt
      split
      · rename_i hv
        rw [tabGet_cons, if_neg (by omega), hv]
        exact tabGet_below d h.2.2 (by omega)
      · simp [tabGet_cons]
    · split
      · rename_i hlt heq
        split
        · rename_i hv
          rw [hv]
          exact tabGet_below d h.2.2 (by omega)
        · simp [tabGet_cons]
      · rename_i hlt hne
        rw [tabGet_cons, if_neg hne]
        exact ih h.2.2

/-- In a canonical table a write is read back. -/
theorem tabGet_put_same {t : List (Nat × α)} (h : tabWf d t = true) (k : Nat) (v : α) :
    tabGet d (tabPut d t k v) k = v := tabGet_putFrom_same d h k v

theorem tabWfFrom_filter {b : Option Nat} {t : List (Nat × α)} (p : Nat × α → Bool) (h : tabWfFrom d b t = true) :
    tabWfFrom d b (t.filter p) = true := by
  induction t generalizing b with
  | nil => rfl
  | cons e t ih =>
    rw [tabWfFrom_cons] at h
    rw [List.filter_cons]
    split
    · rw [tabWfFrom_cons]
      exact ⟨h.1, h.2.1, ih h.2.2⟩
    · exact ih (tabWfFrom_weaken d h.2.2 fun m hm => ⟨e.1, rfl, by have := h.1 m hm; omega⟩)

/-- Removing entries keeps the canonical form. -/
theorem tabWf_erase (p : Nat → Bool) {t : List (Nat × α)} (h : tabWf d t = true) :
    tabWf d (tabErase p t) = true := tabWfFrom_filter d _ h

theorem tabGet_erase (p : Nat → Bool) {b : Option Nat} {t : List (Nat × α)} (h : tabWfFrom d b t = true) (k : Nat) :
    tabGet d (tabErase p t) k = if p k then d k else tabGet d t k := by
  induction t generalizing b with
  | nil => simp [tabErase]
  | cons e t ih =>
    rw [tabWfFrom_cons] at h
    have ih' := ih h.2.2
    simp only [tabErase] at ih' ⊢
    rw [List.filter_cons]
    by_cases hp : p e.1 = true
    · simp only [hp, Bool.not_true, Bool.false_eq_true, if_false]
      by_cases hk : k = e.1
      · rw [ih', hk, hp]; simp
      · rw [ih', tabGet_cons, if_neg hk]
    · simp only [Bool.not_eq_true] at hp
      simp only [hp, Bool.not_false, if_true]
      rw [tabGet_cons, tabGet_cons]
      by_cases hk : k = e.1
      · simp [hk, hp]
      · simp [hk, ih']

end Sys2Proof.Machine
end

