-- ==== Sys2Proof/Laws/Memory.lean ====
section
/-! SUPPORT. Every memory operation keeps the canonical form of memory; stored bytes are read back and every other byte is
as before. -/

namespace Sys2Proof.Machine

set_option Elab.async false

theorem putBytes_wf {m : List Host.Cell} (h : Memory.wf m = true) (a : Nat) (bs : List Byte) : Memory.wf (putBytes m a bs) = true := by
  induction bs generalizing m a with
  | nil => exact h
  | cons b bs ih => exact ih (tabWf_put _ h _ _) _

theorem wrRaw_wf {s : State} (h : Memory.wf s.ms.mem = true) (pa : Nat) (bs : List Byte) :
    Memory.wf (wrRaw s pa bs).ms.mem = true := putBytes_wf h pa bs

theorem zeroFill_wf {s : State} (h : Memory.wf s.ms.mem = true) (pa n : Nat) : Memory.wf (zeroFill s pa n).ms.mem = true :=
  tabWf_erase memInit (fun a => decide (pa ≤ a ∧ a < pa + n)) h

theorem memForget_wf {s : State} (h : Memory.wf s.ms.mem = true) (lo hi : Nat) : Memory.wf (memForget s lo hi).ms.mem = true :=
  tabWf_erase memInit (fun a => decide (lo ≤ a ∧ a < hi)) h

theorem memLose_wf {s : State} (h : Memory.wf s.ms.mem = true) (lo hi : Nat) : Memory.wf (memLose s lo hi).ms.mem = true :=
  tabWf_erase memInit (fun a => decide (lo ≤ a ∧ a < hi)) h

theorem wrSeg_wf {s : State} (h : Memory.wf s.ms.mem = true) (g : Nat × Nat × Nat) (slot : Nat) (bs : List Byte) :
    Memory.wf (wrSeg s g slot bs).ms.mem = true := by
  unfold wrSeg
  extract_lets ms s0 whole s1
  have h0 : Memory.wf s0.ms.mem = true := by
    simp only [s0]
    split <;> exact h
  split
  · exact putBytes_wf h0 _ _
  · exact putBytes_wf h0 _ _

theorem wrSegs_wf {s : State} (h : Memory.wf s.ms.mem = true) (slot : Nat) (gs : List (Nat × Nat × Nat)) (bs : List Byte) :
    Memory.wf (wrSegs s slot gs bs).ms.mem = true := by
  induction gs generalizing s bs with
  | nil => exact h
  | cons g gs ih => exact ih (wrSeg_wf h g slot _) _

theorem wrMem_wf {s : State} (h : Memory.wf s.ms.mem = true) (pa slot : Nat) (bs : List Byte) :
    Memory.wf (wrMem s pa slot bs).ms.mem = true := wrSegs_wf h _ _ _

theorem dropKey_wf {s : State} (h : Memory.wf s.ms.mem = true) (i : Nat) : Memory.wf (dropKey s i).ms.mem = true := by
  have key : ∀ (l : List (Nat × Nat)) (t : State), Memory.wf t.ms.mem = true → Memory.wf (l.foldl (fun t e =>
      { wrRaw t (64 * e.1) (viewLine t e.1 0) with ms := { (wrRaw t (64 * e.1) (viewLine t e.1 0)).ms with
        lineKey := tabPut (fun _ => 0) (wrRaw t (64 * e.1) (viewLine t e.1 0)).ms.lineKey e.1 0 } }) t).ms.mem = true := by
    intro l
    induction l with
    | nil => exact fun _ h => h
    | cons e l ih => exact fun t h => ih _ (wrRaw_wf h _ _)
  exact key _ _ h

/-- Bytes outside a stored range are as before. -/
theorem tabGet_putBytes_out (m : List Host.Cell) (a : Nat) (bs : List Byte) {k : Nat} (h : k < a ∨ a + bs.length ≤ k) :
    tabGet memInit (putBytes m a bs) k = tabGet memInit m k := by
  induction bs generalizing m a with
  | nil => rfl
  | cons b bs ih =>
    rw [List.length_cons] at h
    rw [putBytes, ih _ _ (by omega), tabGet_put_ne _ _ _ (by omega)]

/-- A stored byte is read back. -/
theorem tabGet_putBytes_in {m : List Host.Cell} (hm : Memory.wf m = true) (a : Nat) (bs : List Byte) {i : Nat} (h : i < bs.length) :
    tabGet memInit (putBytes m a bs) (a + i) = bs[i] := by
  induction bs generalizing m a i with
  | nil => exact absurd h (Nat.not_lt_zero _)
  | cons b bs ih =>
    have hp : Memory.wf (tabPut memInit m a b) = true := tabWf_put _ hm _ _
    cases i with
    | zero =>
      show tabGet memInit (putBytes (tabPut memInit m a b) (a + 1) bs) a = b
      rw [tabGet_putBytes_out _ _ _ (Or.inl (Nat.lt_succ_self a)), tabGet_put_same _ hm]
    | succ i =>
      have := ih hp (a + 1) (Nat.lt_of_succ_lt_succ h)
      rw [putBytes, show a + (i + 1) = a + 1 + i by omega, this]
      rfl

/-- An address outside a range stored or filled is lost exactly when it was. -/
theorem lostAt_unlose_out (lo hi : Nat) (l : List (Nat × Nat × Nat)) {k : Nat} (h : k < lo ∨ hi ≤ k) :
    lostAt (unlose lo hi l) k = lostAt l k := by
  induction l with
  | nil => rfl
  | cons e t ih =>
    simp only [unlose, List.flatMap_cons] at ih ⊢
    split
    · simp only [List.cons_append, List.nil_append, lostAt, ih]
    · split <;> split <;> simp only [List.cons_append, List.nil_append, lostAt, ih] <;> (repeat' split) <;>
        first | rfl | omega

/-- An address of the range is lost no more. -/
theorem lostAt_unlose_in (lo hi : Nat) (l : List (Nat × Nat × Nat)) {k : Nat} (h1 : lo ≤ k) (h2 : k < hi) :
    lostAt (unlose lo hi l) k = none := by
  induction l with
  | nil => rfl
  | cons e t ih =>
    simp only [unlose, List.flatMap_cons] at ih ⊢
    split
    · simp only [List.cons_append, List.nil_append, lostAt, ih]
      split <;> first | rfl | omega
    · split <;> split <;> simp only [List.cons_append, List.nil_append, lostAt, ih] <;> (repeat' split) <;>
        first | rfl | omega

/-- A byte outside the stored range reads as before. -/
theorem rdByte_wrRaw_out (s : State) (a : Nat) (bs : List Byte) {k : Nat} (h : k < a ∨ a + bs.length ≤ k) :
    rdByte (wrRaw s a bs) k = rdByte s k := by
  simp only [rdByte, wrRaw, lostAt_unlose_out _ _ _ h, tabGet_putBytes_out _ _ _ h]

/-- A stored byte reads as stored. -/
theorem rdByte_wrRaw_in {s : State} (h : Memory.wf s.ms.mem = true) (a : Nat) (bs : List Byte) {i : Nat} (hi : i < bs.length) :
    rdByte (wrRaw s a bs) (a + i) = bs[i] := by
  simp only [rdByte, wrRaw, lostAt_unlose_in a (a + bs.length) s.ms.lost (Nat.le_add_right a i) (Nat.add_lt_add_left hi a)]
  exact tabGet_putBytes_in h a bs hi

theorem rdRaw_wrRaw_same {s : State} (h : Memory.wf s.ms.mem = true) (a : Nat) (bs : List Byte) :
    rdRaw (wrRaw s a bs) a bs.length = bs := by
  apply List.ext_getElem
  · simp [rdRaw]
  · intro i h1 h2
    simp only [rdRaw, List.getElem_map, List.getElem_range]
    exact rdByte_wrRaw_in h a bs h2

theorem rdRaw_wrRaw_out (s : State) (a : Nat) (bs : List Byte) {b n : Nat} (h : b + n ≤ a ∨ a + bs.length ≤ b) :
    rdRaw (wrRaw s a bs) b n = rdRaw s b n := by
  simp only [rdRaw]
  refine List.map_congr_left fun i hi => rdByte_wrRaw_out s a bs ?_
  have := List.mem_range.1 hi
  omega

end Sys2Proof.Machine
end

