-- ==== Sys2Proof/Laws/KeepsCore.lean ====
section
/-! SUPPORT. What every operation keeps: it leaves the waiting commands alone, draws free values forward only, and keeps the
canonical form of memory, flash, registers and latches. Here the relation and the operations that write those tables. -/

namespace Sys2Proof.Machine

/-- `t` comes from `s` by effects that keep these three. -/
structure Keeps (s t : State) : Prop where
  pending : t.pending = s.pending
  free : s.free ≤ t.free
  inv : State.Inv s = true → State.Inv t = true

theorem Keeps.refl (s : State) : Keeps s s := ⟨rfl, Nat.le_refl _, id⟩

theorem Keeps.trans {r s t : State} (h : Keeps r s) (k : Keeps s t) : Keeps r t :=
  ⟨k.pending.trans h.pending, Nat.le_trans h.free k.free, k.inv ∘ h.inv⟩

/-- A change of fields that the relation does not look at. -/
theorem Keeps.same {r s t : State} (h : Keeps r s) (hp : t.pending = s.pending) (hf : t.free = s.free) (hr : t.regs = s.regs)
    (hm : t.ms.mem = s.ms.mem) (hx : t.ms.flash = s.ms.flash) (hl : t.bus.latches = s.bus.latches) : Keeps r t :=
  h.trans ⟨hp, Nat.le_of_eq hf.symm, by simp only [State.Inv, hr, hm, hx, hl]; exact id⟩

/-- The same for a state written out field by field. -/
theorem Keeps.upd {r s : State} {regs clk boot pins pwr saf pads tap evts ms bus queues pkts pace lanes reloads pcieUp pcieOut insts
    idxs jobs tiles gctx rrLane testHold io ring free pending} (h : Keeps r s) (hp : pending = s.pending) (hf : free = s.free)
    (hr : regs = s.regs) (hm : ms.mem = s.ms.mem) (hx : ms.flash = s.ms.flash) (hl : bus.latches = s.bus.latches) :
    Keeps r (State.mk regs clk boot pins pwr saf pads tap evts ms bus queues pkts pace lanes reloads pcieUp pcieOut insts
      idxs jobs tiles gctx rrLane testHold io ring free pending) := h.same hp hf hr hm hx hl

theorem Keeps.foldl {α : Type} {r s : State} {f : State → α → State} {l : List α} (h : Keeps r s)
    (hf : ∀ t a, Keeps r t → Keeps r (f t a)) : Keeps r (l.foldl f s) := by
  induction l generalizing s with
  | nil => exact h
  | cons a l ih => exact ih (hf s a h)

theorem Keeps.cut {P : Prop} (Q : Prop) (h : Q) (k : Q → P) : P := k h

/-- The state a graph walk has reached. -/
def WalkState.st (w : WalkState) : State := w.io.s

/-- A value that carries a state, taken out by `π`. -/
def Keeps.By {α : Type} (π : α → State) (r : State) (x : α) : Prop := Keeps r (π x)

/-- The same with a result beside it. -/
def Keeps.By1 {α β : Type} (π : β → State) (r : State) (x : β × α) : Prop := Keeps r (π x.1)

/-- A state that may be there. -/
def Keeps.O (r : State) (x : Option State) : Prop := ∀ t, x = some t → Keeps r t

/-- The next state of a meaning. -/
def Keeps.R (r : State) (x : Res) : Prop := ∀ t, x = .next t → Keeps r t

/-- The preconditions of an opcode, which read through the pacers. -/
def Keeps.Pre (r : State) (f : State → Pkt → State × PreFail) : Prop := ∀ s p, Keeps r s → Keeps.By Prod.fst r (f s p)

section
variable {α β γ : Type} {π : β → State} {r s : State}

theorem Keeps.By.fst {x : State × α} (h : Keeps.By Prod.fst r x) : Keeps r x.1 := h
theorem Keeps.By.snd {x : α × State} (h : Keeps.By Prod.snd r x) : Keeps r x.2 := h
theorem Keeps.By.io {x : Io} (h : Keeps.By Io.s r x) : Keeps r x.s := h
theorem Keeps.By.gio {x : Gio} (h : Keeps.By Gio.s r x) : Keeps r x.s := h
theorem Keeps.By.fetch {x : Fetch} (h : Keeps.By Fetch.s r x) : Keeps r x.s := h
theorem Keeps.By.walk {x : WalkState} (h : Keeps.By WalkState.st r x) : Keeps.By Io.s r x.io := h
theorem Keeps.By1.fst {x : β × α} (h : Keeps.By1 π r x) : Keeps.By π r x.1 := h

theorem Keeps.By.eq_fst {x : State × α} {a : α} (e : x = (s, a)) (h : Keeps.By Prod.fst r x) : Keeps r s := by
  subst e; exact h
theorem Keeps.By.eq_snd {x : α × State} {a : α} (e : x = (a, s)) (h : Keeps.By Prod.snd r x) : Keeps r s := by
  subst e; exact h
theorem Keeps.By1.eq_fst {x : β × α} {y : β} {a : α} (e : x = (y, a)) (h : Keeps.By1 π r x) : Keeps.By π r y := by
  subst e; exact h
theorem Keeps.By1.eq_io {x : Io × α} {o : Option MErr} {a : α} (e : x = (⟨s, o⟩, a)) (h : Keeps.By1 Io.s r x) : Keeps r s := by
  subst e; exact h

theorem Keeps.By.of_fst {a : α} (h : Keeps.By Prod.fst r (s, a)) : Keeps r s := h
theorem Keeps.By.of_snd {a : α} (h : Keeps.By Prod.snd r (a, s)) : Keeps r s := h
theorem Keeps.By.of_io {o : Option MErr} (h : Keeps.By Io.s r ⟨s, o⟩) : Keeps r s := h
theorem Keeps.By1.of_pair {y : β} {a : α} (h : Keeps.By1 π r (y, a)) : Keeps.By π r y := h

theorem Keeps.toFst {a : α} (h : Keeps r s) : Keeps.By Prod.fst r (s, a) := h
theorem Keeps.toSnd {a : α} (h : Keeps r s) : Keeps.By Prod.snd r (a, s) := h
theorem Keeps.toIo {o : Option MErr} (h : Keeps r s) : Keeps.By Io.s r ⟨s, o⟩ := h
theorem Keeps.toGio {q i : Nat} {o : Option GErr} (h : Keeps r s) : Keeps.By Gio.s r ⟨s, q, i, o⟩ := h
theorem Keeps.toFetch {b : Bool} (h : Keeps r s) : Keeps.By Fetch.s r ⟨s, b⟩ := h
theorem Keeps.toWalk {io : Io} {q l b c} (h : Keeps.By Io.s r io) : Keeps.By WalkState.st r (WalkState.mk io q l b c) := h
theorem Keeps.toPair {y : β} {a : α} (h : Keeps.By π r y) : Keeps.By1 π r (y, a) := h
theorem Keeps.noState : Keeps.O r none := fun _ h => nomatch h
theorem Keeps.toSome (h : Keeps r s) : Keeps.O r (some s) := fun _ e => Option.some.inj e ▸ h
theorem Keeps.toNext (h : Keeps r s) : Keeps.R r (.next s) := fun _ e => Host.Outcome.next.inj e ▸ h
theorem Keeps.ofFault {f : Fault} : Keeps.R r (.fault f) := fun _ h => nomatch h
theorem Keeps.ofRefusal {f : Refusal} : Keeps.R r (.refused f) := fun _ h => nomatch h
theorem Keeps.O.some_eq {x : Option State} (h : Keeps.O r x) (e : x = .some s) : Keeps r s := h _ e
theorem Keeps.O.getD {x : Option State} (h : Keeps.O r x) (k : Keeps r s) : Keeps r (x.getD s) := by
  cases x with
  | none => exact k
  | some t => exact h _ rfl

theorem Keeps.By.foldl {f : β → α → β} {l : List α} {x : β} (h : Keeps.By π r x)
    (hf : ∀ t a, Keeps.By π r t → Keeps.By π r (f t a)) : Keeps.By π r (l.foldl f x) := by
  induction l generalizing x with
  | nil => exact h
  | cons a l ih => exact ih (hf x a h)

theorem Keeps.By1.foldl {f : β × γ → α → β × γ} {l : List α} {x : β × γ} (h : Keeps.By1 π r x)
    (hf : ∀ t a, Keeps.By1 π r t → Keeps.By1 π r (f t a)) : Keeps.By1 π r (l.foldl f x) := by
  induction l generalizing x with
  | nil => exact h
  | cons a l ih => exact ih (hf x a h)
end

/-! A choice keeps what both of its sides keep. -/

section
variable {α β : Type} {π : β → State} {r s t : State} {c : Prop} [Decidable c]

theorem Keeps.ite (h : Keeps r s) (k : Keeps r t) : Keeps r (if c then s else t) := by split <;> assumption
theorem Keeps.By.ite {x y : β} (h : Keeps.By π r x) (k : Keeps.By π r y) : Keeps.By π r (if c then x else y) := by
  split <;> assumption
theorem Keeps.By1.ite {x y : β × α} (h : Keeps.By1 π r x) (k : Keeps.By1 π r y) : Keeps.By1 π r (if c then x else y) := by
  split <;> assumption
theorem Keeps.O.ite {x y : Option State} (h : Keeps.O r x) (k : Keeps.O r y) : Keeps.O r (if c then x else y) := by
  split <;> assumption
theorem Keeps.R.ite {x y : Res} (h : Keeps.R r x) (k : Keeps.R r y) : Keeps.R r (if c then x else y) := by
  split <;> assumption
end

theorem Keeps.inv_iff (s : State) : State.Inv s = true ↔ Memory.wf s.ms.mem = true ∧ tabWf flashInit s.ms.flash = true ∧
    tabWf regReset s.regs = true ∧ tabWf (fun _ => 0) s.bus.latches = true := by
  simp only [State.Inv, Bool.and_eq_true, and_assoc]

theorem State.fresh_keeps {r s : State} (h : Keeps r s) : Keeps.By Prod.snd r s.fresh :=
  h.trans ⟨rfl, Nat.le_succ _, id⟩

theorem State.wr_keeps {r s : State} (a : Nat) (v : Word) (h : Keeps r s) : Keeps r (s.wr a v) :=
  h.trans ⟨rfl, Nat.le_refl _, fun hi => by
    rw [Keeps.inv_iff] at hi ⊢
    exact ⟨hi.1, hi.2.1, tabWf_put _ hi.2.2.1 _ _, hi.2.2.2⟩⟩

/-- A change of memory that keeps its canonical form. -/
theorem Keeps.mem {r s t : State} (h : Keeps r s) (hp : t.pending = s.pending) (hf : s.free ≤ t.free) (hr : t.regs = s.regs)
    (hx : t.ms.flash = s.ms.flash) (hl : t.bus.latches = s.bus.latches)
    (hm : Memory.wf s.ms.mem = true → Memory.wf t.ms.mem = true) : Keeps r t :=
  h.trans ⟨hp, hf, fun hi => by
    have hi' := (Keeps.inv_iff s).1 hi
    refine (Keeps.inv_iff t).2 ⟨hm hi'.1, ?_⟩
    rw [hr, hx, hl]
    exact hi'.2⟩

theorem wrRaw_keeps {r s : State} (pa : Nat) (bs : List Byte) (h : Keeps r s) : Keeps r (wrRaw s pa bs) :=
  h.mem rfl (Nat.le_refl _) rfl rfl rfl fun hm => wrRaw_wf hm _ _

theorem zeroFill_keeps {r s : State} (pa n : Nat) (h : Keeps r s) : Keeps r (zeroFill s pa n) :=
  h.mem rfl (Nat.le_refl _) rfl rfl rfl fun hm => zeroFill_wf hm _ _

theorem memLose_keeps {r s : State} (lo hi : Nat) (h : Keeps r s) : Keeps r (memLose s lo hi) :=
  h.mem rfl (Nat.le_refl _) rfl rfl rfl fun hm => memLose_wf hm _ _

theorem memForget_keeps {r s : State} (lo hi : Nat) (h : Keeps r s) : Keeps r (memForget s lo hi) :=
  (memLose_keeps lo hi h).mem rfl (Nat.le_succ _) rfl rfl rfl id

theorem putFlash_keeps {r s : State} (a : Nat) (bs : List Byte) (h : Keeps r s) : Keeps r (putFlash s a bs) :=
  h.trans ⟨rfl, Nat.le_refl _, fun hi => by
    have hi' := (Keeps.inv_iff s).1 hi
    refine (Keeps.inv_iff _).2 ⟨hi'.1, ?_, hi'.2.2⟩
    show tabWf flashInit (List.foldl _ s.ms.flash _) = true
    have : ∀ (l : List (Byte × Nat)) (m : List (Nat × Byte)), tabWf flashInit m = true →
        tabWf flashInit (l.foldl (fun m e => tabPut (fun _ => (0xFF : Byte)) m (a + e.2) e.1) m) = true := by
      intro l
      induction l with
      | nil => exact fun _ h => h
      | cons e l ih => exact fun m h => ih _ (tabWf_put _ h _ _)
    exact this _ _ hi'.2.1⟩

/-- Registers after a reset stay canonical. -/
theorem resetRegs_wf (lvl : Nat) {t : List (Nat × Word)} (h : tabWf regReset t = true) : tabWf regReset (resetRegs lvl t) = true := by
  have : ∀ (b : Option Nat) (t : List (Nat × Word)), tabWfFrom regReset b t = true → tabWfFrom regReset b (resetRegs lvl t) = true := by
    intro b t
    induction t generalizing b with
    | nil => exact fun _ => rfl
    | cons e t ih =>
      intro h
      rw [tabWfFrom_cons] at h
      have h2 := ih _ h.2.2
      simp only [resetRegs, List.filterMap_cons]
      split
      · rename_i hw
        exact tabWfFrom_weaken _ h2 fun k hk => ⟨_, rfl, Nat.le_of_lt (h.1 k hk)⟩
      · rename_i x hw
        split at hw
        · cases hw
        · rename_i hne
          cases hw
          exact (tabWfFrom_cons ..).2 ⟨h.1, hne, h2⟩
  exact this none t h

theorem Keeps.resetRegs {r s t : State} (lvl : Nat) (h : Keeps r s) (hp : t.pending = s.pending) (hf : t.free = s.free)
    (hr : t.regs = Machine.resetRegs lvl s.regs) (hm : t.ms.mem = s.ms.mem) (hx : t.ms.flash = s.ms.flash)
    (hl : t.bus.latches = s.bus.latches ∨ t.bus.latches = []) : Keeps r t :=
  h.trans ⟨hp, Nat.le_of_eq hf.symm, fun hi => by
    have hi' := (Keeps.inv_iff s).1 hi
    refine (Keeps.inv_iff _).2 ⟨hm ▸ hi'.1, hx ▸ hi'.2.1, hr ▸ resetRegs_wf lvl hi'.2.2.1, ?_⟩
    rcases hl with hl | hl
    · exact hl ▸ hi'.2.2.2
    · rw [hl]; rfl⟩

theorem Keeps.updReset {r s : State} {lvl : Nat} {regs clk boot pins pwr saf pads tap evts ms bus queues pkts pace lanes reloads
    pcieUp pcieOut insts idxs jobs tiles gctx rrLane testHold io ring free pending} (h : Keeps r s) (hp : pending = s.pending)
    (hr : regs = Machine.resetRegs lvl s.regs) (hf : free = s.free) (hm : ms.mem = s.ms.mem) (hx : ms.flash = s.ms.flash)
    (hl : bus.latches = s.bus.latches) :
    Keeps r (State.mk regs clk boot pins pwr saf pads tap evts ms bus queues pkts pace lanes reloads pcieUp pcieOut insts
      idxs jobs tiles gctx rrLane testHold io ring free pending) := h.resetRegs lvl hp hf hr hm hx (Or.inl hl)

theorem powerOnState_keeps {r s : State} (h : Keeps r s) : Keeps r (powerOnState s) :=
  h.trans ⟨rfl, Nat.le_refl _, fun hi => (Keeps.inv_iff _).2 ⟨rfl, ((Keeps.inv_iff s).1 hi).2.1, rfl, rfl⟩⟩

/-- The register of a read and the latches it takes stay canonical. -/
theorem regRead_keeps {r s : State} (m : BusMaster) (a : Nat) (h : Keeps r s) : Keeps r (regRead s m a) := by
  unfold regRead
  split
  · exact h.same rfl rfl rfl rfl rfl rfl
  · extract_lets f k
    split
    · exact (State.fresh_keeps h : Keeps r f.2).same rfl rfl rfl rfl rfl rfl
    · refine h.trans ⟨rfl, Nat.le_refl _, fun hi => ?_⟩
      have hi' := (Keeps.inv_iff s).1 hi
      refine (Keeps.inv_iff _).2 ⟨hi'.1, hi'.2.1, hi'.2.2.1, ?_⟩
      have : ∀ (l : List (Nat × Nat)) (t : List (Nat × Nat)), tabWf (fun _ => 0) t = true →
          tabWf (fun _ => 0) (l.foldl (fun t p => tabPut (fun _ => 0) t (latchKey m p.1) p.2) t) = true := by
        intro l
        induction l with
        | nil => exact fun _ h => h
        | cons e l ih => exact fun t h => ih _ (tabWf_put _ h _ _)
      exact this _ _ hi'.2.2.2

end Sys2Proof.Machine
end

