-- ==== Sys2Proof/Laws/KeepsOps.lean ====
section
/-! SUPPORT. Every operation over shared operations: memory, registers, translation, pacers, clocks, pads, resets, bring-up and safety leaves the waiting commands alone, draws
free values forward only, and keeps the canonical form of memory, flash, registers and latches: one lemma per operation. -/

namespace Sys2Proof.Machine

set_option linter.unusedVariables false

/-! ### Ops -/

theorem State.paceMode_keeps {r0 : State} (s : State) (m : PaceMode) (h0 : Keeps r0 s) :
    Keeps r0 (State.paceMode s m) := by
  unfold State.paceMode
  with_reducible exact Keeps.upd h0 rfl rfl rfl rfl rfl rfl

theorem paceUrg_keeps {r0 : State} (s : State) (a : PaceAcc) (h0 : Keeps r0 s) :
    Keeps r0 (paceUrg s a) := by
  unfold paceUrg
  with_reducible exact Keeps.ite (Keeps.upd h0 rfl rfl rfl rfl rfl rfl) h0

theorem State.setF_keeps {r0 : State} (s : State) (f : FRef) (x : Nat) (h0 : Keeps r0 s) :
    Keeps r0 (State.setF s f x) := by
  unfold State.setF
  exact State.wr_keeps _ _ h0

theorem State.addSat_keeps {r0 : State} (s : State) (f : FRef) (n : Nat) (h0 : Keeps r0 s) :
    Keeps r0 (State.addSat s f n) := by
  unfold State.addSat
  exact State.setF_keeps _ _ _ h0

theorem paceCount_keeps {r0 : State} (s : State) (a : PaceAcc) (h0 : Keeps r0 s) :
    Keeps r0 (paceCount s a) := by
  unfold paceCount
  extract_lets -underBinder +onlyGivenNames n; clear_value n
  extract_lets -underBinder +onlyGivenNames b; clear_value b
  extract_lets -underBinder +onlyGivenNames s1
  have hs1 : Keeps r0 s1 := by subst s1; exact State.addSat_keeps _ _ _ h0
  clear_value s1
  extract_lets -underBinder +onlyGivenNames beyond; clear_value beyond
  with_reducible apply Keeps.ite
  · exact hs1
  · extract_lets -underBinder +onlyGivenNames s2
    have hs2 : Keeps r0 s2 := by subst s2; exact State.addSat_keeps _ _ _ hs1
    clear_value s2
    with_reducible apply Keeps.ite
    · exact hs2
    · extract_lets -underBinder +onlyGivenNames s3
      have hs3 : Keeps r0 s3 := by subst s3; exact State.addSat_keeps _ _ _ (State.addSat_keeps _ _ _ hs2)
      clear_value s3
      with_reducible exact Keeps.upd hs3 rfl rfl rfl rfl rfl rfl

theorem paceHold_keeps {r0 : State} (s : State) (key : Nat) (h0 : Keeps r0 s) :
    Keeps r0 (paceHold s key) := by
  unfold paceHold
  with_reducible exact Keeps.upd h0 rfl rfl rfl rfl rfl rfl

theorem paceIssue_keeps {r0 : State} (s : State) (l : List PaceAcc) (h0 : Keeps r0 s) :
    Keeps r0 (paceIssue s l) := by
  unfold paceIssue
  with_reducible apply Keeps.foldl
  · exact h0
  · intro _ _ _
    extract_lets -underBinder +onlyGivenNames u
    have hu : Keeps r0 u := by subst u; exact paceUrg_keeps _ _ (by assumption)
    clear_value u
    exact Keeps.ite (paceCount_keeps _ _ hu) (paceHold_keeps _ _ hu)

theorem paceTry_keeps {r0 : State} (f : State → State) (s : State) (h0 : ∀ a0, Keeps r0 a0 → Keeps r0 (f a0))
    (h1 : Keeps r0 s) :
    Keeps.By Prod.fst r0 (paceTry f s) := by
  unfold paceTry
  extract_lets -underBinder +onlyGivenNames t
  have ht : Keeps r0 t := by
    subst t
    with_reducible apply_assumption
    exact State.paceMode_keeps _ _ h1
  clear_value t
  split
  · exact Keeps.By.ite (Keeps.toFst (State.paceMode_keeps _ _ ht)) (Keeps.toFst (paceIssue_keeps _ _ h1))
  · exact Keeps.toFst (State.paceMode_keeps _ _ ht)

theorem paceOffer_keeps {r0 : State} (s0 : State) (a : PaceAcc) (h0 : Keeps r0 s0) :
    Keeps r0 (paceOffer s0 a) := by
  unfold paceOffer
  extract_lets -underBinder +onlyGivenNames s
  have hs : Keeps r0 s := by subst s; exact paceUrg_keeps _ _ h0
  clear_value s
  split
  · exact hs
  · exact paceCount_keeps _ _ hs
  · extract_lets -underBinder +onlyGivenNames ok; clear_value ok
    exact State.paceMode_keeps _ _ (Keeps.ite (paceCount_keeps _ _ hs) hs)

theorem paceFuel_keeps {r0 : State} (x0 : Nat) : ∀ (x1 : State) (x2 : PaceAcc) (x3 : Nat),
    Keeps r0 x1 → Keeps r0 (paceFuel x0 x1 x2 x3) := by
  induction x0 with
  | zero =>
    intro x1 x2 x3 h0
    rw [paceFuel]
    exact h0
  | succ n ih =>
    intro x1 x2 x3 h0
    rw [paceFuel]
    exact Keeps.ite (paceOffer_keeps _ _ h0) (ih _ _ _ (paceOffer_keeps _ _ h0))

theorem paceCharge_keeps {r0 : State} (s : State) (w : Who) (pa : Nat) (n : Nat) (h0 : Keeps r0 s) :
    Keeps r0 (paceCharge s w pa n) := by
  unfold paceCharge
  with_reducible apply Keeps.ite
  · exact h0
  · split
    · exact paceFuel_keeps _ _ _ _ h0
    · exact State.addSat_keeps _ _ _ h0

theorem wrSeg_keeps {r0 : State} (s : State) (g : Nat × Nat × Nat) (slot : Nat) (bs : List Byte) (h0 : Keeps r0 s) :
    Keeps r0 (wrSeg s g slot bs) := by
  unfold wrSeg
  extract_lets -underBinder +onlyGivenNames y; subst y
  extract_lets -underBinder +onlyGivenNames s0
  have hs0 : Keeps r0 s0 := by subst s0; with_reducible exact Keeps.ite (Keeps.upd h0 rfl rfl rfl rfl rfl rfl) h0
  clear_value s0
  with_reducible apply Keeps.ite
  · extract_lets -underBinder +onlyGivenNames whole; clear_value whole
    extract_lets -underBinder +onlyGivenNames s1
    have hs1 : Keeps r0 s1 := by subst s1; exact wrRaw_keeps _ _ hs0
    clear_value s1
    with_reducible exact Keeps.upd hs1 rfl rfl rfl rfl rfl rfl
  · with_reducible apply wrRaw_keeps
    exact hs0

theorem wrSegs_keeps {r0 : State} (x2 : List (Nat × Nat × Nat)) : ∀ (s : State) (slot : Nat) (x3 : List Byte),
    Keeps r0 s → Keeps r0 (wrSegs s slot x2 x3) := by
  induction x2 with
  | nil =>
    intro s slot x3 h0
    rw [wrSegs]
    exact h0
  | cons a as ih =>
    intro s slot x3 h0
    rw [wrSegs]
    exact ih _ _ _ (wrSeg_keeps _ _ _ _ h0)

theorem cacheTouch_keeps {r0 : State} (s : State) (line : Nat) (ways : Nat) (slot : Nat) (wr : Bool)
    (h0 : Keeps r0 s) :
    Keeps r0 (cacheTouch s line ways slot wr) := by
  unfold cacheTouch
  extract_lets -underBinder +onlyGivenNames c; clear_value c
  extract_lets -underBinder +onlyGivenNames n; clear_value n
  split
  · extract_lets -underBinder +onlyGivenNames y; clear_value y
    with_reducible exact Keeps.upd h0 rfl rfl rfl rfl rfl rfl
  · extract_lets -underBinder +onlyGivenNames set; clear_value set
    extract_lets -underBinder +onlyGivenNames allowed; clear_value allowed
    split
    · with_reducible exact Keeps.upd h0 rfl rfl rfl rfl rfl rfl
    · extract_lets -underBinder +onlyGivenNames cand; clear_value cand
      split
      · exact h0
      · with_reducible exact Keeps.upd h0 rfl rfl rfl rfl rfl rfl

theorem touchLines_keeps {r0 : State} (s : State) (ways : Nat) (slot : Nat) (wr : Bool) (segs : List
    (Nat × Nat × Nat)) (h0 : Keeps r0 s) :
    Keeps r0 (touchLines s ways slot wr segs) := by
  unfold touchLines
  with_reducible apply Keeps.foldl
  · exact h0
  · exact fun _ _ _ => Keeps.ite (cacheTouch_keeps _ _ _ _ _ (by assumption)) (by assumption)

theorem physTouch_keeps {r0 : State} (s : State) (pa : Nat) (n : Nat) (slot : Nat) (wr : Bool) (h0 : Keeps r0 s) :
    Keeps r0 (physTouch s pa n slot wr) := by
  unfold physTouch
  exact touchLines_keeps _ _ _ _ _ h0

theorem walkFuel_keeps {r0 : State} (x1 : Nat) : ∀ (va : Nat) (x2 : State) (x3 : Nat) (x4 : Nat),
    Keeps r0 x2 → Keeps.By Prod.fst r0 (walkFuel va x1 x2 x3 x4) := by
  induction x1 with
  | zero =>
    intro va x2 x3 x4 h0
    rw [walkFuel]
    exact Keeps.toFst h0
  | succ n ih =>
    intro va x2 x3 x4 h0
    rw [walkFuel]
    split
    · extract_lets -underBinder +onlyGivenNames a; clear_value a
      extract_lets -underBinder +onlyGivenNames s1
      have hs1 : Keeps r0 s1 := by subst s1; exact physTouch_keeps _ _ _ _ _ h0
      clear_value s1
      split
      · exact Keeps.toFst hs1
      · extract_lets -underBinder +onlyGivenNames e; clear_value e
        exact Keeps.By.ite (Keeps.toFst hs1) (Keeps.By.ite (Keeps.toFst hs1) (Keeps.By.ite (Keeps.toFst hs1) (ih _ _
          _ _ hs1)))
    · exact Keeps.toFst h0

theorem State.addWrap_keeps {r0 : State} (s : State) (f : FRef) (n : Nat) (h0 : Keeps r0 s) :
    Keeps r0 (State.addWrap s f n) := by
  unfold State.addWrap
  exact State.setF_keeps _ _ _ h0

theorem xlateKeep_keeps {r0 : State} (s : State) (i : Nat) (va : Nat) (x3 : Except (Nat × Nat) (Nat × Nat))
    (h0 : Keeps r0 s) :
    Keeps.By Prod.fst r0 (xlateKeep s i va x3) := by
  unfold xlateKeep
  split
  · exact Keeps.toFst h0
  · with_reducible exact Keeps.toFst (Keeps.upd h0 rfl rfl rfl rfl rfl rfl)

theorem xlateMiss_keeps {r0 : State} (s : State) (i : Nat) (va : Nat) (start : Nat) (h0 : Keeps r0 s) :
    Keeps.By Prod.fst r0 (xlateMiss s i va start) := by
  unfold xlateMiss
  extract_lets -underBinder +onlyGivenNames w
  have hw : Keeps.By Prod.fst r0 w := by subst w; exact walkFuel_keeps _ _ _ _ _ (State.addWrap_keeps _ _ _ h0)
  clear_value w
  exact xlateKeep_keeps _ _ _ _ (Keeps.By.fst hw)

theorem xlateEntry_keeps {r0 : State} (s : State) (i : Nat) (va : Nat) (h0 : Keeps r0 s) :
    Keeps.By Prod.fst r0 (xlateEntry s i va) := by
  unfold xlateEntry
  extract_lets -underBinder +onlyGivenNames fmt; clear_value fmt
  extract_lets -underBinder +onlyGivenNames start; clear_value start
  with_reducible apply Keeps.By.ite
  · with_reducible apply Keeps.toFst
    exact h0
  · with_reducible apply Keeps.By.ite
    · with_reducible apply Keeps.toFst
      exact h0
    · split
      · exact Keeps.toFst h0
      · exact xlateMiss_keeps _ _ _ _ h0

theorem State.raise_keeps {r0 : State} (s : State) (src : Nat) (h0 : Keeps r0 s) :
    Keeps r0 (State.raise s src) := by
  unfold State.raise
  with_reducible exact Keeps.upd h0 rfl rfl rfl rfl rfl rfl

theorem State.set64_keeps {r0 : State} (s : State) (lo : FRef) (hi : FRef) (v : Nat) (h0 : Keeps r0 s) :
    Keeps r0 (State.set64 s lo hi v) := by
  unfold State.set64
  exact State.setF_keeps _ _ _ (State.setF_keeps _ _ _ h0)

theorem xltShow_keeps {r0 : State} (s : State) (w : Who) (va : Nat) (reason : Nat) (level : Nat) (wr : Bool)
    (h0 : Keeps r0 s) :
    Keeps r0 (xltShow s w va reason level wr) := by
  unfold xltShow
  extract_lets -underBinder +onlyGivenNames i; clear_value i
  with_reducible apply Keeps.ite
  · exact h0
  · extract_lets -underBinder +onlyGivenNames s1
    have hs1 : Keeps r0 s1 := by subst s1; exact State.set64_keeps _ _ _ _ h0
    clear_value s1
    extract_lets -underBinder +onlyGivenNames s2
    have hs2 : Keeps r0 s2 := by
      subst s2
      exact State.setF_keeps _ _ _ (State.setF_keeps _ _ _ (State.setF_keeps _ _ _ hs1))
    clear_value s2
    extract_lets -underBinder +onlyGivenNames s3
    have hs3 : Keeps r0 s3 := by subst s3; exact State.setF_keeps _ _ _ hs2
    clear_value s3
    with_reducible exact Keeps.upd hs3 rfl rfl rfl rfl rfl rfl

theorem pcieSend_keeps {r0 : State} (s : State) (pa : Nat) (bs : List Byte) (h0 : Keeps r0 s) :
    Keeps r0 (pcieSend s pa bs) := by
  unfold pcieSend
  extract_lets -underBinder +onlyGivenNames k; clear_value k
  extract_lets -underBinder +onlyGivenNames off; clear_value off
  extract_lets -underBinder +onlyGivenNames a; clear_value a
  with_reducible exact Keeps.upd h0 rfl rfl rfl rfl rfl rfl

theorem paceDrop_keeps {r0 : State} (s : State) (p : HeldAct → Bool) (h0 : Keeps r0 s) :
    Keeps r0 (paceDrop s p) := by
  unfold paceDrop
  with_reducible exact Keeps.upd h0 rfl rfl rfl rfl rfl rfl

theorem writeWords_keeps {r0 : State} (x2 : List Nat) : ∀ (s : State) (a : Nat),
    Keeps r0 s → Keeps r0 (writeWords s a x2) := by
  induction x2 with
  | nil =>
    intro s a h0
    rw [writeWords]
    exact h0
  | cons a as ih =>
    intro s a h0
    rw [writeWords]
    exact ih _ _ (State.wr_keeps _ _ h0)

theorem vlog_keeps {r0 : State} (s : State) (kind : Nat) (addr : Nat) (master : Nat) (inst : Option Nat)
    (c : LogCtx) (h0 : Keeps r0 s) :
    Keeps r0 (vlog s kind addr master inst c) := by
  unfold vlog
  extract_lets -underBinder +onlyGivenNames wr; clear_value wr
  extract_lets -underBinder +onlyGivenNames rd; clear_value rd
  extract_lets -underBinder +onlyGivenNames full; subst full
  extract_lets -underBinder +onlyGivenNames i; clear_value i
  extract_lets -underBinder +onlyGivenNames s1
  have hs1 : Keeps r0 s1 := by subst s1; exact writeWords_keeps _ _ _ h0
  clear_value s1
  extract_lets -underBinder +onlyGivenNames s2
  have hs2 : Keeps r0 s2 := by subst s2; exact State.setF_keeps _ _ _ hs1
  clear_value s2
  exact Keeps.ite (State.addSat_keeps _ _ _ (State.setF_keeps _ _ _ hs2)) hs2

theorem wrMem_keeps {r0 : State} (s : State) (pa : Nat) (slot : Nat) (bs : List Byte) (h0 : Keeps r0 s) :
    Keeps r0 (wrMem s pa slot bs) := by
  unfold wrMem
  exact wrSegs_keeps _ _ _ _ h0

theorem writeLand_keeps {r0 : State} (w : Who) (l : Land) (n : Nat) (bs : List Byte) (s : State) (h0 : Keeps r0 s) :
    Keeps r0 (writeLand w l n bs s) := by
  unfold writeLand
  split
  · exact vlog_keeps _ _ _ _ _ _ h0
  · exact pcieSend_keeps _ _ _ (paceCharge_keeps _ _ _ _ h0)
  · extract_lets -underBinder +onlyGivenNames w1; clear_value w1
    extract_lets -underBinder +onlyGivenNames s1
    have hs1 : Keeps r0 s1 := by subst s1; exact touchLines_keeps _ _ _ _ _ (paceCharge_keeps _ _ _ _ h0)
    clear_value s1
    exact wrMem_keeps _ _ _ _ hs1

theorem poisonShow_keeps {r0 : State} (s : State) (line : Nat) (kind : Nat) (master : Nat) (h0 : Keeps r0 s) :
    Keeps r0 (poisonShow s line kind master) := by
  unfold poisonShow
  with_reducible apply Keeps.ite
  · exact h0
  · extract_lets -underBinder +onlyGivenNames s1
    have hs1 : Keeps r0 s1 := by subst s1; exact State.setF_keeps _ _ _ (State.set64_keeps _ _ _ _ h0)
    clear_value s1
    extract_lets -underBinder +onlyGivenNames s2
    have hs2 : Keeps r0 s2 := by subst s2; exact State.setF_keeps _ _ _ hs1
    clear_value s2
    with_reducible exact Keeps.upd hs2 rfl rfl rfl rfl rfl rfl

theorem xlate_keeps {r0 : State} (s : State) (w : Who) (va : Nat) (wr : Bool) (h0 : Keeps r0 s) :
    Keeps.By Prod.fst r0 (xlate s w va wr) := by
  unfold xlate
  split
  · exact Keeps.toFst (Keeps.By.eq_fst (by assumption) (xlateEntry_keeps _ _ _ h0))
  · with_reducible apply Keeps.By.ite
    · with_reducible apply Keeps.toFst
      with_reducible refine Keeps.By.eq_fst (by assumption) ?_
      with_reducible apply xlateEntry_keeps
      exact h0
    · extract_lets -underBinder +onlyGivenNames pa; clear_value pa
      split
      · exact Keeps.toFst (Keeps.By.eq_fst (by assumption) (xlateEntry_keeps _ _ _ h0))
      · exact Keeps.toFst (Keeps.By.eq_fst (by assumption) (xlateEntry_keeps _ _ _ h0))

theorem xltRecord_keeps {r0 : State} (s : State) (w : Who) (va : Nat) (reason : Nat) (level : Nat) (wr : Bool)
    (h0 : Keeps r0 s) :
    Keeps r0 (xltRecord s w va reason level wr) := by
  unfold xltRecord
  exact vlog_keeps _ _ _ _ _ _ (State.addSat_keeps _ _ _ (xltShow_keeps _ _ _ _ _ _ h0))

theorem xlateAll_keeps {r0 : State} (x2 : List (Nat × Nat)) : ∀ (w : Who) (wr : Bool) (x3 : State),
    Keeps r0 x3 → Keeps.By Prod.fst r0 (xlateAll w wr x2 x3) := by
  induction x2 with
  | nil =>
    intro w wr x3 h0
    rw [xlateAll]
    exact Keeps.toFst h0
  | cons a as ih =>
    intro w wr x3 h0
    rw [xlateAll]
    split
    · exact Keeps.toFst (xltRecord_keeps _ _ _ _ _ _ (Keeps.By.eq_fst (by assumption) (xlate_keeps _ _ _ _ h0)))
    · exact Keeps.toFst (Keeps.By.eq_fst (by assumption) (xlate_keeps _ _ _ _ h0))
    · split
      · exact Keeps.toFst (Keeps.By.eq_fst (by assumption) (ih _ _ _ (Keeps.By.eq_fst (by assumption) (xlate_keeps _
          _ _ _ h0))))
      · exact Keeps.toFst (Keeps.By.eq_fst (by assumption) (ih _ _ _ (Keeps.By.eq_fst (by assumption) (xlate_keeps _
          _ _ _ h0))))

theorem writeLands_keeps {r0 : State} (x1 : List (Land × Nat)) : ∀ (w : Who) (x2 : List Byte) (x3 : State),
    Keeps r0 x3 → Keeps r0 (writeLands w x1 x2 x3) := by
  induction x1 with
  | nil =>
    intro w x2 x3 h0
    rw [writeLands]
    exact h0
  | cons a as ih =>
    intro w x2 x3 h0
    rw [writeLands]
    exact ih _ _ _ (writeLand_keeps _ _ _ _ _ h0)

theorem dmaWrite_keeps {r0 : State} (s : State) (w : Who) (va : Nat) (bs : List Byte) (h0 : Keeps r0 s) :
    Keeps.By Prod.fst r0 (dmaWrite s w va bs) := by
  unfold dmaWrite
  split
  · exact Keeps.toFst (writeLands_keeps _ _ _ _ (Keeps.By.eq_fst (by assumption) (xlateAll_keeps _ _ _ _ h0)))
  · exact Keeps.toFst (Keeps.By.eq_fst (by assumption) (xlateAll_keeps _ _ _ _ h0))

theorem physRead_keeps {r0 : State} (s : State) (segs : List (Nat × Nat × Nat)) (h0 : Keeps r0 s) :
    Keeps r0 (physRead s segs) := by
  unfold physRead
  with_reducible apply Keeps.foldl
  · exact h0
  · exact fun _ _ _ => physTouch_keeps _ _ _ _ _ (by assumption)

theorem paceWait_keeps {r0 : State} (s : State) (w : Wait) (h0 : Keeps r0 s) :
    Keeps r0 (paceWait s w) := by
  unfold paceWait
  with_reducible exact Keeps.upd h0 rfl rfl rfl rfl rfl rfl

theorem paceDone_keeps {r0 : State} (f : State → State) (s : State) (h0 : ∀ a0, Keeps r0 a0 → Keeps r0 (f a0))
    (h1 : Keeps r0 s) :
    Keeps r0 (paceDone f s) := by
  unfold paceDone
  with_reducible apply State.paceMode_keeps
  with_reducible apply_assumption
  exact State.paceMode_keeps _ _ h1

theorem paceAct_keeps {r0 : State} (act : HeldAct) (f : State → State) (s : State)
    (h0 : ∀ a0, Keeps r0 a0 → Keeps r0 (f a0)) (h1 : Keeps r0 s) :
    Keeps r0 (paceAct act f s) := by
  unfold paceAct
  split
  · split
    · with_reducible refine Keeps.By.eq_fst (by assumption) ?_
      with_reducible apply paceTry_keeps
      · intro _ _
        with_reducible apply_assumption
        assumption
      · exact h1
    · with_reducible apply paceWait_keeps
      with_reducible refine Keeps.By.eq_fst (by assumption) ?_
      with_reducible apply paceTry_keeps
      · intro _ _
        with_reducible apply_assumption
        assumption
      · exact h1
  · split
    · exact paceWait_keeps _ _ h1
    · with_reducible apply Keeps.ite
      · with_reducible apply paceDone_keeps
        · intro _ _
          with_reducible apply_assumption
          assumption
        · with_reducible apply paceDrop_keeps
          exact h1
      · exact h1

theorem dropKey_keeps {r0 : State} (s : State) (i : Nat) (h0 : Keeps r0 s) :
    Keeps r0 (dropKey s i) := by
  unfold dropKey
  extract_lets -underBinder +onlyGivenNames s1
  have hs1 : Keeps r0 s1 := by
    subst s1
    with_reducible apply Keeps.foldl
    · exact h0
    · intro _ _ _
      extract_lets -underBinder +onlyGivenNames dev; clear_value dev
      extract_lets -underBinder +onlyGivenNames t1
      have ht1 : Keeps r0 t1 := by subst t1; exact wrRaw_keeps _ _ (by assumption)
      clear_value t1
      with_reducible exact Keeps.upd ht1 rfl rfl rfl rfl rfl rfl
  clear_value s1
  with_reducible exact Keeps.upd hs1 rfl rfl rfl rfl rfl rfl

theorem poisonLine_keeps {r0 : State} (s : State) (pa : Nat) (kind : Nat) (master : Nat) (h0 : Keeps r0 s) :
    Keeps r0 (poisonLine s pa kind master) := by
  unfold poisonLine
  extract_lets -underBinder +onlyGivenNames y; subst y
  extract_lets -underBinder +onlyGivenNames s1
  have hs1 : Keeps r0 s1 := by
    subst s1
    with_reducible exact poisonShow_keeps _ _ _ _ (Keeps.upd h0 rfl rfl rfl rfl rfl rfl)
  clear_value s1
  exact State.addSat_keeps _ _ _ hs1

theorem readLand_keeps {r0 : State} (w : Who) (l : Land) (n : Nat) (s : State) (h0 : Keeps r0 s) :
    Keeps.By Prod.fst r0 (readLand w l n s) := by
  unfold readLand
  split
  · exact Keeps.toFst (vlog_keeps _ _ _ _ _ _ h0)
  · extract_lets -underBinder +onlyGivenNames f
    have hf : Keeps.By Prod.snd r0 f := by subst f; exact State.fresh_keeps h0
    clear_value f
    exact Keeps.toFst (paceCharge_keeps _ _ _ _ (Keeps.By.snd hf))
  · extract_lets -underBinder +onlyGivenNames w1; clear_value w1
    extract_lets -underBinder +onlyGivenNames s1
    have hs1 : Keeps r0 s1 := by subst s1; exact touchLines_keeps _ _ _ _ _ (paceCharge_keeps _ _ _ _ h0)
    clear_value s1
    split
    · exact Keeps.toFst hs1
    · exact Keeps.toFst hs1

theorem readLands_keeps {r0 : State} (x1 : List (Land × Nat)) : ∀ (w : Who) (x2 : State),
    Keeps r0 x2 → Keeps.By Prod.fst r0 (readLands w x1 x2) := by
  induction x1 with
  | nil =>
    intro w x2 h0
    rw [readLands]
    exact Keeps.toFst h0
  | cons a as ih =>
    intro w x2 h0
    rw [readLands]
    split
    · split
      · exact Keeps.toFst (Keeps.By.eq_fst (by assumption) (ih _ _ (Keeps.By.eq_fst (by assumption) (readLand_keeps _
          _ _ _ h0))))
      · exact ih _ _ (Keeps.By.eq_fst (by assumption) (readLand_keeps _ _ _ _ h0))
    · exact readLand_keeps _ _ _ _ h0

theorem dmaRead_keeps {r0 : State} (s : State) (w : Who) (va : Nat) (n : Nat) (h0 : Keeps r0 s) :
    Keeps.By Prod.fst r0 (dmaRead s w va n) := by
  unfold dmaRead
  split
  · exact readLands_keeps _ _ _ (Keeps.By.eq_fst (by assumption) (xlateAll_keeps _ _ _ _ h0))
  · exact Keeps.toFst (Keeps.By.eq_fst (by assumption) (xlateAll_keeps _ _ _ _ h0))

theorem cacheFlushWays_keeps {r0 : State} (s : State) (ways : Nat) (h0 : Keeps r0 s) :
    Keeps r0 (cacheFlushWays s ways) := by
  unfold cacheFlushWays
  with_reducible exact Keeps.upd h0 rfl rfl rfl rfl rfl rfl

theorem physWr_keeps {r0 : State} (s : State) (pa : Nat) (slot : Nat) (bs : List Byte) (h0 : Keeps r0 s) :
    Keeps r0 (physWr s pa slot bs) := by
  unfold physWr
  exact wrMem_keeps _ _ _ _ (physTouch_keeps _ _ _ _ _ h0)

theorem poisonAll_keeps {r0 : State} (s : State) (lines : List Nat) (h0 : Keeps r0 s) :
    Keeps r0 (poisonAll s lines) := by
  unfold poisonAll
  with_reducible apply Keeps.foldl
  · exact h0
  · exact fun _ _ _ => poisonLine_keeps _ _ _ _ (by assumption)

theorem carryPoison_keeps {r0 : State} (s : State) (dst : Nat) (bad : List (Nat × Nat)) (h0 : Keeps r0 s) :
    Keeps r0 (carryPoison s dst bad) := by
  unfold carryPoison
  exact poisonAll_keeps _ _ h0

theorem rangeOk_keeps {r0 : State} (x2 : List (Nat × Nat)) : ∀ (w : Who) (wr : Bool) (x3 : State),
    Keeps r0 x3 → Keeps.By Prod.fst r0 (rangeOk w wr x2 x3) := by
  induction x2 with
  | nil =>
    intro w wr x3 h0
    rw [rangeOk]
    exact Keeps.toFst h0
  | cons a as ih =>
    intro w wr x3 h0
    rw [rangeOk]
    split
    · exact Keeps.toFst (Keeps.By.eq_fst (by assumption) (xlate_keeps _ _ _ _ h0))
    · exact Keeps.toFst (Keeps.By.eq_fst (by assumption) (xlate_keeps _ _ _ _ h0))
    · exact ih _ _ _ (Keeps.By.eq_fst (by assumption) (xlate_keeps _ _ _ _ h0))

/-! ### Access -/

theorem forbid_keeps {r0 : State} (s : State) (m : BusMaster) (addr : Nat) (kind : Nat) (h0 : Keeps r0 s) :
    Keeps r0 (forbid s m addr kind) := by
  unfold forbid
  exact vlog_keeps _ _ _ _ _ _ h0

theorem plainWrite_keeps {r0 : State} (s : State) (m : BusMaster) (addr : Nat) (v : Nat) (h0 : Keeps r0 s) :
    Keeps.By Prod.fst r0 (plainWrite s m addr v) := by
  unfold plainWrite
  split
  · exact Keeps.toFst h0
  · extract_lets -underBinder +onlyGivenNames mask; clear_value mask
    with_reducible apply Keeps.By.ite
    · with_reducible apply Keeps.toFst
      with_reducible apply forbid_keeps
      exact h0
    · extract_lets -underBinder +onlyGivenNames cur; clear_value cur
      extract_lets -underBinder +onlyGivenNames setsLock; clear_value setsLock
      extract_lets -underBinder +onlyGivenNames lk; clear_value lk
      extract_lets -underBinder +onlyGivenNames new; clear_value new
      with_reducible apply Keeps.By.ite
      · with_reducible apply Keeps.toFst
        with_reducible apply forbid_keeps
        exact h0
      · extract_lets -underBinder +onlyGivenNames s1
        have hs1 : Keeps r0 s1 := by subst s1; exact Keeps.ite (forbid_keeps _ _ _ _ h0) h0
        clear_value s1
        extract_lets -underBinder +onlyGivenNames s2
        have hs2 : Keeps r0 s2 := by subst s2; exact Keeps.ite (forbid_keeps _ _ _ _ hs1) hs1
        clear_value s2
        extract_lets -underBinder +onlyGivenNames s3
        have hs3 : Keeps r0 s3 := by subst s3; exact State.wr_keeps _ _ hs2
        clear_value s3
        extract_lets -underBinder +onlyGivenNames y; subst y
        extract_lets -underBinder +onlyGivenNames s4
        have hs4 : Keeps r0 s4 := by
          subst s4
          with_reducible exact Keeps.ite (Keeps.upd hs3 rfl rfl rfl rfl rfl rfl) hs3
        clear_value s4
        exact Keeps.toFst hs4

theorem answered_keeps {r0 : State} (s : State) (err : Bool) (h0 : Keeps r0 s) :
    Keeps r0 (answered s err) := by
  unfold answered
  with_reducible exact Keeps.upd h0 rfl rfl rfl rfl rfl rfl

/-! ### Clock -/

theorem State.setDom_keeps {r0 : State} (s : State) (d : Nat) (x : DomState) (h0 : Keeps r0 s) :
    Keeps r0 (State.setDom s d x) := by
  unfold State.setDom
  with_reducible exact Keeps.upd h0 rfl rfl rfl rfl rfl rfl

theorem setStep_keeps {r0 : State} (s : State) (d : Nat) (c : Nat) (h0 : Keeps r0 s) :
    Keeps r0 (setStep s d c) := by
  unfold setStep
  extract_lets -underBinder +onlyGivenNames y; subst y
  extract_lets -underBinder +onlyGivenNames s0
  have hs0 : Keeps r0 s0 := by subst s0; with_reducible exact Keeps.ite (Keeps.upd h0 rfl rfl rfl rfl rfl rfl) h0
  clear_value s0
  extract_lets -underBinder +onlyGivenNames s1
  have hs1 : Keeps r0 s1 := by subst s1; exact State.setF_keeps _ _ _ hs0
  clear_value s1
  exact Keeps.ite hs1 (State.addSat_keeps _ _ _ (State.setF_keeps _ _ _ hs1))

theorem gateDom_keeps {r0 : State} (s : State) (d : Nat) (h0 : Keeps r0 s) :
    Keeps r0 (gateDom s d) := by
  unfold gateDom
  with_reducible apply Keeps.ite
  · exact h0
  · extract_lets -underBinder +onlyGivenNames cur; clear_value cur
    extract_lets -underBinder +onlyGivenNames y; subst y
    extract_lets -underBinder +onlyGivenNames s1
    have hs1 : Keeps r0 s1 := by subst s1; exact State.setDom_keeps _ _ _ h0
    clear_value s1
    exact setStep_keeps _ _ _ (State.setF_keeps _ _ _ hs1)

theorem episode_keeps {r0 : State} (s : State) (d : Nat) (was : Bool) (now_ : Bool) (ctr : FRef) (h0 : Keeps r0 s) :
    Keeps r0 (episode s d was now_ ctr) := by
  unfold episode
  with_reducible apply Keeps.ite
  · extract_lets -underBinder +onlyGivenNames s1
    have hs1 : Keeps r0 s1 := by subst s1; exact State.addSat_keeps _ _ _ h0
    clear_value s1
    exact Keeps.ite (State.setF_keeps _ _ _ hs1) hs1
  · exact h0

theorem refreshDom_keeps {r0 : State} (s : State) (d : Nat) (h0 : Keeps r0 s) :
    Keeps r0 (refreshDom s d) := by
  unfold refreshDom
  extract_lets -underBinder +onlyGivenNames y; subst y
  extract_lets -underBinder +onlyGivenNames want; clear_value want
  extract_lets -underBinder +onlyGivenNames cap; clear_value cap
  extract_lets -underBinder +onlyGivenNames low; clear_value low
  extract_lets -underBinder +onlyGivenNames therm; clear_value therm
  extract_lets -underBinder +onlyGivenNames tH; clear_value tH
  extract_lets -underBinder +onlyGivenNames cH; clear_value cH
  extract_lets -underBinder +onlyGivenNames mH; clear_value mH
  extract_lets -underBinder +onlyGivenNames s1
  have hs1 : Keeps r0 s1 := by subst s1; exact episode_keeps _ _ _ _ _ h0
  clear_value s1
  extract_lets -underBinder +onlyGivenNames s2
  have hs2 : Keeps r0 s2 := by subst s2; exact episode_keeps _ _ _ _ _ hs1
  clear_value s2
  extract_lets -underBinder +onlyGivenNames s3
  have hs3 : Keeps r0 s3 := by subst s3; exact episode_keeps _ _ _ _ _ hs2
  clear_value s3
  extract_lets -underBinder +onlyGivenNames s4
  have hs4 : Keeps r0 s4 := by subst s4; exact State.setDom_keeps _ _ _ hs3
  clear_value s4
  extract_lets -underBinder +onlyGivenNames goal; clear_value goal
  with_reducible apply Keeps.ite
  · exact hs4
  · extract_lets -underBinder +onlyGivenNames s5
    have hs5 : Keeps r0 s5 := by subst s5; exact State.setF_keeps _ _ _ hs4
    clear_value s5
    exact Keeps.ite (setStep_keeps _ _ _ (State.setDom_keeps _ _ _ hs5)) (Keeps.ite hs5 (setStep_keeps _ _ _ hs5))

theorem restartDom_keeps {r0 : State} (s : State) (d : Nat) (h0 : Keeps r0 s) :
    Keeps r0 (restartDom s d) := by
  unfold restartDom
  extract_lets -underBinder +onlyGivenNames h; clear_value h
  exact refreshDom_keeps _ _ (setStep_keeps _ _ _ (State.setF_keeps _ _ _ h0))

theorem dozeCancel_keeps {r0 : State} (s : State) (h0 : Keeps r0 s) :
    Keeps r0 (dozeCancel s) := by
  unfold dozeCancel
  extract_lets -underBinder +onlyGivenNames y; subst y
  extract_lets -underBinder +onlyGivenNames s1
  have hs1 : Keeps r0 s1 := by subst s1; with_reducible exact Keeps.upd h0 rfl rfl rfl rfl rfl rfl
  clear_value s1
  with_reducible apply Keeps.foldl
  · exact hs1
  · exact fun _ _ _ => restartDom_keeps _ _ (by assumption)

theorem dramFull_keeps {r0 : State} (s : State) (d : Nat) (h0 : Keeps r0 s) :
    Keeps r0 (dramFull s d) := by
  unfold dramFull
  exact Keeps.ite (setStep_keeps _ _ _ h0) h0

theorem demand_keeps {r0 : State} (s : State) (d : Nat) (h0 : Keeps r0 s) :
    Keeps r0 (demand s d) := by
  unfold demand
  extract_lets -underBinder +onlyGivenNames s0
  have hs0 : Keeps r0 s0 := by subst s0; exact Keeps.ite (dozeCancel_keeps _ h0) h0
  clear_value s0
  extract_lets -underBinder +onlyGivenNames y; subst y
  extract_lets -underBinder +onlyGivenNames s1
  have hs1 : Keeps r0 s1 := by subst s1; exact State.setDom_keeps _ _ _ hs0
  clear_value s1
  exact Keeps.ite (restartDom_keeps _ _ (dramFull_keeps _ _ hs1)) hs1

theorem masterDemand_keeps {r0 : State} (s : State) (x1 : BusMaster) (h0 : Keeps r0 s) :
    Keeps r0 (masterDemand s x1) := by
  unfold masterDemand
  split
  · exact demand_keeps _ _ h0
  · exact demand_keeps _ _ h0
  · exact h0

theorem setRefreq_keeps {r0 : State} (s : State) (b : Bool) (h0 : Keeps r0 s) :
    Keeps r0 (setRefreq s b) := by
  unfold setRefreq
  with_reducible exact Keeps.upd h0 rfl rfl rfl rfl rfl rfl

theorem parkExit_keeps {r0 : State} (s : State) (h0 : Keeps r0 s) :
    Keeps r0 (parkExit s) := by
  unfold parkExit
  extract_lets -underBinder +onlyGivenNames s1
  have hs1 : Keeps r0 s1 := by subst s1; exact setRefreq_keeps _ _ h0
  clear_value s1
  with_reducible exact Keeps.upd hs1 rfl rfl rfl rfl rfl rfl

theorem timeStop_keeps {r0 : State} (s : State) (h0 : Keeps r0 s) :
    Keeps r0 (timeStop s) := by
  unfold timeStop
  extract_lets -underBinder +onlyGivenNames s1
  have hs1 : Keeps r0 s1 := by subst s1; exact State.setF_keeps _ _ _ h0
  clear_value s1
  with_reducible exact Keeps.upd hs1 rfl rfl rfl rfl rfl rfl

theorem setPlls_keeps {r0 : State} (s : State) (mask : Nat) (on : Bool) (h0 : Keeps r0 s) :
    Keeps r0 (setPlls s mask on) := by
  unfold setPlls
  extract_lets -underBinder +onlyGivenNames v; clear_value v
  exact State.setF_keeps _ _ _ h0

theorem sageSleep_keeps {r0 : State} (s : State) (h0 : Keeps r0 s) :
    Keeps r0 (sageSleep s) := by
  unfold sageSleep
  exact timeStop_keeps _ (setPlls_keeps _ _ _ (setRefreq_keeps _ _ (gateDom_keeps _ _ (gateDom_keeps _ _ h0))))

theorem rateAdjust_keeps {r0 : State} (s : State) (v : Int) (h0 : Keeps r0 s) :
    Keeps r0 (rateAdjust s v) := by
  unfold rateAdjust
  extract_lets -underBinder +onlyGivenNames c; clear_value c
  extract_lets -underBinder +onlyGivenNames s1
  have hs1 : Keeps r0 s1 := by subst s1; exact State.setF_keeps _ _ _ h0
  clear_value s1
  exact Keeps.ite hs1 (State.setF_keeps _ _ _ hs1)

theorem sageWake_keeps {r0 : State} (s : State) (h0 : Keeps r0 s) :
    Keeps r0 (sageWake s) := by
  unfold sageWake
  with_reducible apply Keeps.foldl
  · exact setPlls_keeps _ _ _ h0
  · exact fun _ _ _ => Keeps.ite (restartDom_keeps _ _ (by assumption)) (by assumption)

theorem startMainDoms_keeps {r0 : State} (s : State) (h0 : Keeps r0 s) :
    Keeps r0 (startMainDoms s) := by
  unfold startMainDoms
  extract_lets -underBinder +onlyGivenNames s1
  have hs1 : Keeps r0 s1 := by
    subst s1
    with_reducible apply Keeps.foldl
    · exact h0
    · intro _ _ _
      with_reducible apply Keeps.ite
      · assumption
      · extract_lets -underBinder +onlyGivenNames c; clear_value c
        extract_lets -underBinder +onlyGivenNames y; subst y
        extract_lets -underBinder +onlyGivenNames t1
        have ht1 : Keeps r0 t1 := by subst t1; exact State.setDom_keeps _ _ _ (by assumption)
        clear_value t1
        exact refreshDom_keeps _ _ (setStep_keeps _ _ _ (State.setF_keeps _ _ _ ht1))
  clear_value s1
  exact hs1

theorem recordPair_keeps {r0 : State} (s : State) (h0 : Keeps r0 s) :
    Keeps r0 (recordPair s) := by
  unfold recordPair
  extract_lets -underBinder +onlyGivenNames s1
  have hs1 : Keeps r0 s1 := by subst s1; exact State.set64_keeps _ _ _ _ (State.set64_keeps _ _ _ _ h0)
  clear_value s1
  with_reducible exact Keeps.upd hs1 rfl rfl rfl rfl rfl rfl

theorem busDemand_keeps {r0 : State} (s : State) (m : BusMaster) (a : Nat) (h0 : Keeps r0 s) :
    Keeps r0 (busDemand s m a) := by
  unfold busDemand
  split
  · exact demand_keeps _ _ (masterDemand_keeps _ _ h0)
  · exact masterDemand_keeps _ _ h0

theorem avsToward_keeps {r0 : State} (s : State) (mv : Nat) (h0 : Keeps r0 s) :
    Keeps r0 (avsToward s mv) := by
  unfold avsToward
  extract_lets -underBinder +onlyGivenNames v; clear_value v
  with_reducible apply Keeps.ite
  · exact h0
  · extract_lets -underBinder +onlyGivenNames y; clear_value y
    with_reducible exact Keeps.upd h0 rfl rfl rfl rfl rfl rfl

theorem stopMainDoms_keeps {r0 : State} (s : State) (h0 : Keeps r0 s) :
    Keeps r0 (stopMainDoms s) := by
  unfold stopMainDoms
  with_reducible apply Keeps.foldl
  · exact h0
  · exact fun _ _ _ => gateDom_keeps _ _ (by assumption)

theorem timeFrom_keeps {r0 : State} (s : State) (t : Nat) (h0 : Keeps r0 s) :
    Keeps r0 (timeFrom s t) := by
  unfold timeFrom
  extract_lets -underBinder +onlyGivenNames s1
  have hs1 : Keeps r0 s1 := by subst s1; exact State.setF_keeps _ _ _ h0
  clear_value s1
  with_reducible exact Keeps.upd hs1 rfl rfl rfl rfl rfl rfl

theorem refreshDoms_keeps {r0 : State} (s : State) (h0 : Keeps r0 s) :
    Keeps r0 (refreshDoms s) := by
  unfold refreshDoms
  with_reducible apply Keeps.foldl
  · exact h0
  · exact fun _ _ _ => Keeps.ite (by assumption) (refreshDom_keeps _ _ (by assumption))

theorem raiseHost_keeps {r0 : State} (s : State) (src : Nat) (h0 : Keeps r0 s) :
    Keeps r0 (raiseHost s src) := by
  unfold raiseHost
  exact demand_keeps _ _ (State.raise_keeps _ _ h0)

theorem tileAdvance_keeps {r0 : State} (s : State) (h0 : Keeps r0 s) :
    Keeps r0 (tileAdvance s) := by
  unfold tileAdvance
  with_reducible apply Keeps.ite
  · exact h0
  · extract_lets -underBinder +onlyGivenNames cur; clear_value cur
    extract_lets -underBinder +onlyGivenNames goal; clear_value goal
    exact Keeps.ite (avsToward_keeps _ _ h0) (Keeps.ite (Keeps.ite (setStep_keeps _ _ _ h0) (avsToward_keeps _ _ h0))
      (avsToward_keeps _ _ (setStep_keeps _ _ _ h0)))

theorem reloadCopies_keeps {r0 : State} (s : State) (h0 : Keeps r0 s) :
    Keeps r0 (reloadCopies s) := by
  unfold reloadCopies
  with_reducible exact Keeps.upd h0 rfl rfl rfl rfl rfl rfl

theorem timeRestart_keeps {r0 : State} (s : State) (h0 : Keeps r0 s) :
    Keeps r0 (timeRestart s) := by
  unfold timeRestart
  with_reducible apply Keeps.ite
  · extract_lets -underBinder +onlyGivenNames ts; clear_value ts
    extract_lets -underBinder +onlyGivenNames ss; clear_value ss
    extract_lets -underBinder +onlyGivenNames num; clear_value num
    extract_lets -underBinder +onlyGivenNames t; clear_value t
    exact timeFrom_keeps _ _ (State.setF_keeps _ _ _ (State.setF_keeps _ _ _ h0))
  · with_reducible apply timeFrom_keeps
    exact h0

theorem dozeExit_keeps {r0 : State} (s : State) (h0 : Keeps r0 s) :
    Keeps r0 (dozeExit s) := by
  unfold dozeExit
  with_reducible apply Keeps.ite
  · exact h0
  · extract_lets -underBinder +onlyGivenNames s1
    have hs1 : Keeps r0 s1 := by subst s1; exact setPlls_keeps _ _ _ h0
    clear_value s1
    extract_lets -underBinder +onlyGivenNames c; clear_value c
    extract_lets -underBinder +onlyGivenNames y; subst y
    extract_lets -underBinder +onlyGivenNames s2
    have hs2 : Keeps r0 s2 := by subst s2; exact State.setDom_keeps _ _ _ hs1
    clear_value s2
    with_reducible exact avsToward_keeps _ _ (Keeps.upd hs2 rfl rfl rfl rfl rfl rfl)

theorem wakeEvent_keeps {r0 : State} (s : State) (bit : Nat) (h0 : Keeps r0 s) :
    Keeps r0 (wakeEvent s bit) := by
  unfold wakeEvent
  extract_lets -underBinder +onlyGivenNames f; clear_value f
  extract_lets -underBinder +onlyGivenNames off; clear_value off
  extract_lets -underBinder +onlyGivenNames s0
  have hs0 : Keeps r0 s0 := by subst s0; exact State.setF_keeps _ _ _ h0
  clear_value s0
  extract_lets -underBinder +onlyGivenNames y; subst y
  extract_lets -underBinder +onlyGivenNames s1
  have hs1 : Keeps r0 s1 := by subst s1; with_reducible exact Keeps.upd hs0 rfl rfl rfl rfl rfl rfl
  clear_value s1
  extract_lets -underBinder +onlyGivenNames en; clear_value en
  extract_lets -underBinder +onlyGivenNames inPark; clear_value inPark
  extract_lets -underBinder +onlyGivenNames inDoze; clear_value inDoze
  split
  · extract_lets -underBinder +onlyGivenNames s2
    have hs2 : Keeps r0 s2 := by subst s2; exact setRefreq_keeps _ _ hs1
    clear_value s2
    with_reducible exact Keeps.ite (Keeps.ite (Keeps.upd hs2 rfl rfl rfl rfl rfl rfl) (Keeps.ite (parkExit_keeps _
                     hs2) hs2)) hs2
  · exact Keeps.ite (dozeCancel_keeps _ hs1) hs1
  · with_reducible exact Keeps.ite (Keeps.ite (dozeExit_keeps _ hs1) (Keeps.upd hs1 rfl rfl rfl rfl rfl rfl)) hs1
  · with_reducible exact Keeps.ite (Keeps.upd hs1 rfl rfl rfl rfl rfl rfl) hs1
  · exact hs1

/-! ### Pads -/

theorem linkDown_keeps {r0 : State} (s : State) (k : Nat) (h0 : Keeps r0 s) :
    Keeps r0 (linkDown s k) := by
  unfold linkDown
  extract_lets -underBinder +onlyGivenNames s1
  have hs1 : Keeps r0 s1 := by
    subst s1
    exact State.setF_keeps _ _ _ (State.setF_keeps _ _ _ (State.setF_keeps _ _ _ h0))
  clear_value s1
  extract_lets -underBinder +onlyGivenNames y
  have hy : Keeps r0 y := by subst y; exact State.setF_keeps _ _ _ hs1
  clear_value y
  with_reducible exact Keeps.upd hy rfl rfl rfl rfl rfl rfl

theorem perstCheck_keeps {r0 : State} (s : State) (h0 : Keeps r0 s) :
    Keeps r0 (perstCheck s) := by
  unfold perstCheck
  with_reducible apply Keeps.foldl
  · exact h0
  · exact fun _ _ _ => Keeps.ite (linkDown_keeps _ _ (by assumption)) (by assumption)

theorem State.setPad_keeps {r0 : State} (s : State) (n : Nat) (p : PadState) (h0 : Keeps r0 s) :
    Keeps r0 (State.setPad s n p) := by
  unfold State.setPad
  with_reducible exact Keeps.upd h0 rfl rfl rfl rfl rfl rfl

theorem padPush_keeps {r0 : State} (s : State) (n : Nat) (p : PadState) (lv : Bool) (extra : Nat) (h0 : Keeps r0 s) :
    Keeps r0 (padPush s n p lv extra) := by
  unfold padPush
  extract_lets -underBinder +onlyGivenNames slow; clear_value slow
  extract_lets -underBinder +onlyGivenNames y; clear_value y
  extract_lets -underBinder +onlyGivenNames rest; clear_value rest
  extract_lets -underBinder +onlyGivenNames inp; clear_value inp
  extract_lets -underBinder +onlyGivenNames last; clear_value last
  exact State.setPad_keeps _ _ _ h0

theorem padSample_keeps {r0 : State} (s : State) (levels : Nat) (h0 : Keeps r0 s) :
    Keeps r0 (padSample s levels) := by
  unfold padSample
  with_reducible apply perstCheck_keeps
  with_reducible apply Keeps.foldl
  · exact h0
  · intro _ _ _
    extract_lets -underBinder +onlyGivenNames p; subst p
    exact Keeps.ite (by assumption) (padPush_keeps _ _ _ _ _ (by assumption))

theorem setPadBit_keeps {r0 : State} (s : State) (a : Nat → Nat) (n : Nat) (b : Bool) (h0 : Keeps r0 s) :
    Keeps r0 (setPadBit s a n b) := by
  unfold setPadBit
  exact State.wr_keeps _ _ h0

theorem padChange_keeps {r0 : State} (s : State) (n : Nat) (h0 : Keeps r0 s) :
    Keeps r0 (padChange s n) := by
  unfold padChange
  extract_lets -underBinder +onlyGivenNames p; subst p
  extract_lets -underBinder +onlyGivenNames want; clear_value want
  with_reducible apply Keeps.ite
  · exact h0
  · extract_lets -underBinder +onlyGivenNames slow; clear_value slow
    extract_lets -underBinder +onlyGivenNames endAt; clear_value endAt
    with_reducible apply Keeps.ite
    · with_reducible apply State.setPad_keeps
      exact h0
    · extract_lets -underBinder +onlyGivenNames old; clear_value old
      extract_lets -underBinder +onlyGivenNames last; clear_value last
      extract_lets -underBinder +onlyGivenNames keep; clear_value keep
      extract_lets -underBinder +onlyGivenNames p1; subst p1
      exact setPadBit_keeps _ _ _ _ (State.setPad_keeps _ _ _ h0)

theorem padsChange_keeps {r0 : State} (s : State) (h0 : Keeps r0 s) :
    Keeps r0 (padsChange s) := by
  unfold padsChange
  with_reducible apply Keeps.foldl
  · exact h0
  · exact fun _ _ _ => padChange_keeps _ _ (by assumption)

theorem padEnd_keeps {r0 : State} (s : State) (n : Nat) (level : Bool) (h0 : Keeps r0 s) :
    Keeps r0 (padEnd s n level) := by
  unfold padEnd
  extract_lets -underBinder +onlyGivenNames p; subst p
  extract_lets -underBinder +onlyGivenNames lv; clear_value lv
  extract_lets -underBinder +onlyGivenNames held; clear_value held
  extract_lets -underBinder +onlyGivenNames p1; subst p1
  exact perstCheck_keeps _ (State.addWrap_keeps _ _ _ (setPadBit_keeps _ _ _ _ (padPush_keeps _ _ _ _ _ h0)))

theorem State.setEvt_keeps {r0 : State} (s : State) (e : Nat) (x : EvtState) (h0 : Keeps r0 s) :
    Keeps r0 (State.setEvt s e x) := by
  unfold State.setEvt
  with_reducible exact Keeps.upd h0 rfl rfl rfl rfl rfl rfl

theorem evtQuiet_keeps {r0 : State} (s : State) (h0 : Keeps r0 s) :
    Keeps r0 (evtQuiet s) := by
  unfold evtQuiet
  with_reducible apply Keeps.foldl
  · exact h0
  · exact fun _ _ _ => State.setEvt_keeps _ _ _ (by assumption)

theorem evtSkip_keeps {r0 : State} (s : State) (h0 : Keeps r0 s) :
    Keeps r0 (evtSkip s) := by
  unfold evtSkip
  with_reducible apply Keeps.foldl
  · exact h0
  · exact fun _ _ _ => Keeps.ite (State.setEvt_keeps _ _ _ (by assumption)) (by assumption)

/-! ### Reset -/

theorem mainUnitsReset_keeps {r0 : State} (s : State) (h0 : Keeps r0 s) :
    Keeps r0 (mainUnitsReset s) := by
  unfold mainUnitsReset
  with_reducible exact Keeps.upd h0 rfl rfl rfl rfl rfl rfl

theorem stopAllDoms_keeps {r0 : State} (s : State) (h0 : Keeps r0 s) :
    Keeps r0 (stopAllDoms s) := by
  unfold stopAllDoms
  extract_lets -underBinder +onlyGivenNames s1
  have hs1 : Keeps r0 s1 := by
    subst s1
    with_reducible apply Keeps.foldl
    · exact h0
    · exact fun _ _ _ => setStep_keeps _ _ _ (State.setF_keeps _ _ _ (by assumption))
  clear_value s1
  exact State.setF_keeps _ _ _ hs1

theorem loseBay_keeps {r0 : State} (s : State) (h0 : Keeps r0 s) :
    Keeps r0 (loseBay s) := by
  unfold loseBay
  exact memLose_keeps _ _ h0

theorem loseTiles_keeps {r0 : State} (s : State) (h0 : Keeps r0 s) :
    Keeps r0 (loseTiles s) := by
  unfold loseTiles
  exact memLose_keeps _ _ h0

theorem loseDram_keeps {r0 : State} (s : State) (h0 : Keeps r0 s) :
    Keeps r0 (loseDram s) := by
  unfold loseDram
  extract_lets -underBinder +onlyGivenNames s1
  have hs1 : Keeps r0 s1 := by subst s1; exact memForget_keeps _ _ h0
  clear_value s1
  with_reducible exact Keeps.upd hs1 rfl rfl rfl rfl rfl rfl

theorem resetTags_keeps {r0 : State} (s : State) (h0 : Keeps r0 s) :
    Keeps r0 (resetTags s) := by
  unfold resetTags
  with_reducible apply Keeps.foldl
  · exact h0
  · exact fun _ _ _ => State.setF_keeps _ _ _ (by assumption)

theorem sageResetState_keeps {r0 : State} (s : State) (h0 : Keeps r0 s) : Keeps r0 (sageResetState s) := by
  unfold sageResetState
  exact padsChange_keeps _ (evtQuiet_keeps _ (resetTags_keeps _ (State.setF_keeps _ _ _ (State.setF_keeps _ _ _
    (stopAllDoms_keeps _ (memForget_keeps _ _ (loseBay_keeps _ (loseTiles_keeps _ (loseDram_keeps _
      (State.setF_keeps _ _ _ (h0.resetRegs 1 rfl rfl rfl rfl rfl (Or.inr rfl))))))))))))

theorem causeOff_keeps {r0 : State} (s : State) (bit : Nat) (h0 : Keeps r0 s) :
    Keeps r0 (causeOff s bit) := by
  unfold causeOff
  with_reducible apply Keeps.ite
  · extract_lets -underBinder +onlyGivenNames hold; clear_value hold
    extract_lets -underBinder +onlyGivenNames y
    have hy : Keeps r0 y := by subst y; exact State.setF_keeps _ _ _ h0
    clear_value y
    with_reducible exact Keeps.upd hy rfl rfl rfl rfl rfl rfl
  · exact h0

theorem faultPin_keeps {r0 : State} (s : State) (h0 : Keeps r0 s) :
    Keeps r0 (faultPin s) := by
  unfold faultPin
  extract_lets -underBinder +onlyGivenNames on; clear_value on
  extract_lets -underBinder +onlyGivenNames s1
  have hs1 : Keeps r0 s1 := by subst s1; exact State.setF_keeps _ _ _ h0
  clear_value s1
  with_reducible exact Keeps.upd hs1 rfl rfl rfl rfl rfl rfl

theorem causeOn_keeps {r0 : State} (s : State) (bit : Nat) (h0 : Keeps r0 s) :
    Keeps r0 (causeOn s bit) := by
  unfold causeOn
  with_reducible apply Keeps.ite
  · exact h0
  · extract_lets -underBinder +onlyGivenNames hold; clear_value hold
    extract_lets -underBinder +onlyGivenNames y
    have hy : Keeps r0 y := by subst y; exact State.setF_keeps _ _ _ h0
    clear_value y
    with_reducible exact Keeps.upd hy rfl rfl rfl rfl rfl rfl

theorem setCause_keeps {r0 : State} (s : State) (bit : Nat) (on : Bool) (h0 : Keeps r0 s) :
    Keeps r0 (setCause s bit on) := by
  unfold setCause
  exact faultPin_keeps _ (Keeps.ite (causeOn_keeps _ _ h0) (causeOff_keeps _ _ h0))

theorem updFaultBoot_keeps {r0 : State} (s : State) (h0 : Keeps r0 s) :
    Keeps r0 (updFaultBoot s) := by
  unfold updFaultBoot
  extract_lets -underBinder +onlyGivenNames on; clear_value on
  exact setCause_keeps _ _ _ (State.setF_keeps _ _ _ h0)

theorem setSafePins_keeps {r0 : State} (s : State) (on : Bool) (h0 : Keeps r0 s) :
    Keeps r0 (setSafePins s on) := by
  unfold setSafePins
  with_reducible exact Keeps.upd h0 rfl rfl rfl rfl rfl rfl

theorem mainDieReset_keeps {r0 : State} (s : State) (h0 : Keeps r0 s) :
    Keeps r0 (mainDieReset s) := by
  unfold mainDieReset
  extract_lets -underBinder +onlyGivenNames s1
  have hs1 : Keeps r0 s1 := by
    subst s1
    refine Keeps.updReset ?_ rfl rfl rfl rfl rfl rfl
    exact h0
  clear_value s1
  extract_lets -underBinder +onlyGivenNames s2
  have hs2 : Keeps r0 s2 := by subst s2; exact mainUnitsReset_keeps _ (stopMainDoms_keeps _ hs1)
  clear_value s2
  extract_lets -underBinder +onlyGivenNames s3
  have hs3 : Keeps r0 s3 := by subst s3; exact setPlls_keeps _ _ _ (resetTags_keeps _ (State.setF_keeps _ _ _ hs2))
  clear_value s3
  exact padsChange_keeps _ (evtQuiet_keeps _ hs3)

/-! ### Boot -/

theorem showBackoff_keeps {r0 : State} (s : State) (n : Nat) (h0 : Keeps r0 s) :
    Keeps r0 (showBackoff s n) := by
  unfold showBackoff
  exact State.setF_keeps _ _ _ (State.setF_keeps _ _ _ h0)

theorem endBackoff_keeps {r0 : State} (s : State) (h0 : Keeps r0 s) :
    Keeps r0 (endBackoff s) := by
  unfold endBackoff
  exact State.setF_keeps _ _ _ (State.setF_keeps _ _ _ h0)

theorem keepSagePart_keeps {r0 : State} (s : State) (slot : Nat) (h0 : Keeps r0 s) :
    Keeps r0 (keepSagePart s slot) := by
  unfold keepSagePart
  extract_lets -underBinder +onlyGivenNames code; clear_value code
  extract_lets -underBinder +onlyGivenNames s1
  have hs1 : Keeps r0 s1 := by subst s1; exact wrRaw_keeps _ _ h0
  clear_value s1
  with_reducible exact Keeps.upd hs1 rfl rfl rfl rfl rfl rfl

theorem startBackoff_keeps {r0 : State} (s : State) (n : Nat) (h0 : Keeps r0 s) :
    Keeps r0 (startBackoff s n) := by
  unfold startBackoff
  extract_lets -underBinder +onlyGivenNames s1
  have hs1 : Keeps r0 s1 := by subst s1; exact showBackoff_keeps _ _ h0
  clear_value s1
  with_reducible exact Keeps.upd hs1 rfl rfl rfl rfl rfl rfl

theorem sageFail_keeps {r0 : State} (s : State) (cause : Nat) (h0 : Keeps r0 s) :
    Keeps r0 (sageFail s cause) := by
  unfold sageFail
  extract_lets -underBinder +onlyGivenNames s1
  have hs1 : Keeps r0 s1 := by subst s1; exact Keeps.ite h0 (State.addSat_keeps _ _ _ h0)
  clear_value s1
  extract_lets -underBinder +onlyGivenNames s2
  have hs2 : Keeps r0 s2 := by subst s2; exact State.addSat_keeps _ _ _ (State.setF_keeps _ _ _ hs1)
  clear_value s2
  extract_lets -underBinder +onlyGivenNames s3
  have hs3 : Keeps r0 s3 := by subst s3; exact State.setF_keeps _ _ _ hs2
  clear_value s3
  extract_lets -underBinder +onlyGivenNames s4
  have hs4 : Keeps r0 s4 := by subst s4; exact updFaultBoot_keeps _ (startBackoff_keeps _ _ hs3)
  clear_value s4
  with_reducible exact Keeps.upd hs4 rfl rfl rfl rfl rfl rfl

theorem sageAttempt_keeps {r0 : State} (s : State) (h0 : Keeps r0 s) :
    Keeps r0 (sageAttempt s) := by
  unfold sageAttempt
  extract_lets -underBinder +onlyGivenNames s1
  have hs1 : Keeps r0 s1 := by subst s1; exact endBackoff_keeps _ (State.addSat_keeps _ _ _ h0)
  clear_value s1
  extract_lets -underBinder +onlyGivenNames y; subst y
  extract_lets -underBinder +onlyGivenNames y; clear_value y
  extract_lets -underBinder +onlyGivenNames s2
  have hs2 : Keeps r0 s2 := by subst s2; with_reducible exact Keeps.upd hs1 rfl rfl rfl rfl rfl rfl
  clear_value s2
  extract_lets -underBinder +onlyGivenNames slot; clear_value slot
  extract_lets -underBinder +onlyGivenNames c; clear_value c
  with_reducible apply Keeps.ite
  · extract_lets -underBinder +onlyGivenNames h; clear_value h
    extract_lets -underBinder +onlyGivenNames s3
    have hs3 : Keeps r0 s3 := by
      subst s3
      exact State.setF_keeps _ _ _ (State.setF_keeps _ _ _ (keepSagePart_keeps _ _ hs2))
    clear_value s3
    with_reducible exact setRefreq_keeps _ _ (Keeps.upd hs3 rfl rfl rfl rfl rfl rfl)
  · with_reducible apply sageFail_keeps
    exact hs2

theorem romBackoff_keeps {r0 : State} (s : State) (h0 : Keeps r0 s) :
    Keeps r0 (romBackoff s) := by
  unfold romBackoff
  with_reducible apply Keeps.ite
  · extract_lets -underBinder +onlyGivenNames s1
    have hs1 : Keeps r0 s1 := by subst s1; exact showBackoff_keeps _ _ h0
    clear_value s1
    with_reducible exact Keeps.upd hs1 rfl rfl rfl rfl rfl rfl
  · with_reducible apply sageAttempt_keeps
    exact h0

theorem State.setRail_keeps {r0 : State} (s : State) (k : Nat) (r : RailState) (h0 : Keeps r0 s) :
    Keeps r0 (State.setRail s k r) := by
  unfold State.setRail
  with_reducible exact Keeps.upd h0 rfl rfl rfl rfl rfl rfl

theorem startMainBackoff_keeps {r0 : State} (s : State) (n : Nat) (h0 : Keeps r0 s) :
    Keeps r0 (startMainBackoff s n) := by
  unfold startMainBackoff
  extract_lets -underBinder +onlyGivenNames s1
  have hs1 : Keeps r0 s1 := by subst s1; exact showBackoff_keeps _ _ h0
  clear_value s1
  with_reducible exact Keeps.upd hs1 rfl rfl rfl rfl rfl rfl

theorem dropOns_keeps {r0 : State} (s : State) (h0 : Keeps r0 s) :
    Keeps r0 (dropOns s) := by
  unfold dropOns
  with_reducible apply Keeps.foldl
  · exact h0
  · exact fun _ _ _ => Keeps.ite (State.setRail_keeps _ _ _ (by assumption)) (by assumption)

theorem setPwrOn_keeps {r0 : State} (s : State) (b : Bool) (h0 : Keeps r0 s) :
    Keeps r0 (setPwrOn s b) := by
  unfold setPwrOn
  with_reducible exact Keeps.upd h0 rfl rfl rfl rfl rfl rfl

theorem downDone_keeps {r0 : State} (s : State) (h0 : Keeps r0 s) :
    Keeps r0 (downDone s) := by
  unfold downDone
  split
  · extract_lets -underBinder +onlyGivenNames s1
    have hs1 : Keeps r0 s1 := by subst s1; exact setPwrOn_keeps _ _ h0
    clear_value s1
    with_reducible exact Keeps.upd hs1 rfl rfl rfl rfl rfl rfl
  · exact Keeps.ite h0 (setPwrOn_keeps _ _ h0)
  · with_reducible exact Keeps.ite h0 (Keeps.upd h0 rfl rfl rfl rfl rfl rfl)
  · exact h0

theorem railOff_keeps {r0 : State} (s : State) (k : Nat) (h0 : Keeps r0 s) :
    Keeps r0 (railOff s k) := by
  unfold railOff
  exact State.setRail_keeps _ _ _ h0

theorem takeDown_keeps {r0 : State} (s : State) (ks : List Nat) (why : DownFor) (h0 : Keeps r0 s) :
    Keeps r0 (takeDown s ks why) := by
  unfold takeDown
  split
  · with_reducible exact Keeps.upd h0 rfl rfl rfl rfl rfl rfl
  · split
    · with_reducible exact downDone_keeps _ (Keeps.upd h0 rfl rfl rfl rfl rfl rfl)
    · extract_lets -underBinder +onlyGivenNames y
      have hy : Keeps r0 y := by subst y; exact railOff_keeps _ _ h0
      clear_value y
      with_reducible exact Keeps.upd hy rfl rfl rfl rfl rfl rfl

theorem mainFailed_keeps {r0 : State} (s : State) (cause : Nat) (ks : State → List Nat) (h0 : Keeps r0 s) :
    Keeps r0 (mainFailed s cause ks) := by
  unfold mainFailed
  extract_lets -underBinder +onlyGivenNames s1
  have hs1 : Keeps r0 s1 := by subst s1; exact Keeps.ite h0 (State.addSat_keeps _ _ _ h0)
  clear_value s1
  extract_lets -underBinder +onlyGivenNames s2
  have hs2 : Keeps r0 s2 := by subst s2; exact State.addSat_keeps _ _ _ (State.setF_keeps _ _ _ hs1)
  clear_value s2
  extract_lets -underBinder +onlyGivenNames y; subst y
  extract_lets -underBinder +onlyGivenNames s3
  have hs3 : Keeps r0 s3 := by subst s3; with_reducible exact Keeps.upd hs2 rfl rfl rfl rfl rfl rfl
  clear_value s3
  extract_lets -underBinder +onlyGivenNames s4
  have hs4 : Keeps r0 s4 := by subst s4; exact mainDieReset_keeps _ hs3
  clear_value s4
  extract_lets -underBinder +onlyGivenNames s5
  have hs5 : Keeps r0 s5 := by subst s5; exact updFaultBoot_keeps _ (startMainBackoff_keeps _ _ hs4)
  clear_value s5
  extract_lets -underBinder +onlyGivenNames s6
  have hs6 : Keeps r0 s6 := by subst s6; exact Keeps.ite (setSafePins_keeps _ _ hs5) hs5
  clear_value s6
  extract_lets -underBinder +onlyGivenNames s7
  have hs7 : Keeps r0 s7 := by subst s7; exact dropOns_keeps _ hs6
  clear_value s7
  exact takeDown_keeps _ _ _ hs7

theorem tempPut_keeps {r0 : State} (s : State) (n : Nat) (t : Nat) (h0 : Keeps r0 s) :
    Keeps r0 (tempPut s n t) := by
  unfold tempPut
  exact State.setF_keeps _ _ _ (State.setF_keeps _ _ _ h0)

theorem tempsPut_keeps {r0 : State} (s : State) (l : List (Nat × Nat)) (h0 : Keeps r0 s) :
    Keeps r0 (tempsPut s l) := by
  unfold tempsPut
  with_reducible apply Keeps.foldl
  · exact h0
  · exact fun _ _ _ => tempPut_keeps _ _ _ (by assumption)

theorem mainFail_keeps {r0 : State} (s : State) (cause : Nat) (h0 : Keeps r0 s) :
    Keeps r0 (mainFail s cause) := by
  unfold mainFail
  exact mainFailed_keeps _ _ _ h0

theorem railOn_keeps {r0 : State} (s : State) (k : Nat) (at_ : Nat) (h0 : Keeps r0 s) :
    Keeps r0 (railOn s k at_) := by
  unfold railOn
  extract_lets -underBinder +onlyGivenNames s1
  have hs1 : Keeps r0 s1 := by subst s1; exact setPwrOn_keeps _ _ (State.setRail_keeps _ _ _ h0)
  clear_value s1
  extract_lets -underBinder +onlyGivenNames y; subst y
  extract_lets -underBinder +onlyGivenNames s2
  have hs2 : Keeps r0 s2 := by subst s2; with_reducible exact Keeps.ite (Keeps.upd hs1 rfl rfl rfl rfl rfl rfl) hs1
  clear_value s2
  with_reducible exact Keeps.upd hs2 rfl rfl rfl rfl rfl rfl

theorem mainBegin_keeps {r0 : State} (s : State) (env : MainStart) (h0 : Keeps r0 s) :
    Keeps r0 (mainBegin s env) := by
  unfold mainBegin
  extract_lets -underBinder +onlyGivenNames s0
  have hs0 : Keeps r0 s0 := by subst s0; exact Keeps.ite h0 (State.addSat_keeps _ _ _ h0)
  clear_value s0
  extract_lets -underBinder +onlyGivenNames s1
  have hs1 : Keeps r0 s1 := by subst s1; exact State.setF_keeps _ _ _ hs0
  clear_value s1
  extract_lets -underBinder +onlyGivenNames y; subst y
  extract_lets -underBinder +onlyGivenNames s2
  have hs2 : Keeps r0 s2 := by subst s2; with_reducible exact Keeps.upd hs1 rfl rfl rfl rfl rfl rfl
  clear_value s2
  extract_lets -underBinder +onlyGivenNames l; clear_value l
  extract_lets -underBinder +onlyGivenNames s3
  have hs3 : Keeps r0 s3 := by subst s3; exact tempsPut_keeps _ _ hs2
  clear_value s3
  with_reducible apply Keeps.ite
  · with_reducible apply mainFail_keeps
    exact hs3
  · split
    · exact railOn_keeps _ _ _ hs3
    · with_reducible exact Keeps.upd hs3 rfl rfl rfl rfl rfl rfl

theorem setRailGood_keeps {r0 : State} (s : State) (bit : Nat) (on : Bool) (h0 : Keeps r0 s) :
    Keeps r0 (setRailGood s bit on) := by
  unfold setRailGood
  extract_lets -underBinder +onlyGivenNames g; clear_value g
  exact State.setF_keeps _ _ _ h0

theorem openRun_keeps {r0 : State} (s : State) (run : TestRun) (tests : List Nat) (h0 : Keeps r0 s) :
    Keeps r0 (openRun s run tests) := by
  unfold openRun
  extract_lets -underBinder +onlyGivenNames s1
  have hs1 : Keeps r0 s1 := by subst s1; exact State.setF_keeps _ _ _ h0
  clear_value s1
  with_reducible exact Keeps.upd hs1 rfl rfl rfl rfl rfl rfl

theorem sageReset_keeps {r0 : State} (s : State) (h0 : Keeps r0 s) :
    Keeps r0 (sageReset s) := by
  unfold sageReset
  exact Keeps.ite h0 (sageResetState_keeps _ h0)

theorem memTestFault_keeps {r0 : State} (s : State) (kind : Nat) (correctable : Bool) (addr : Nat) (h0 : Keeps r0 s) :
    Keeps r0 (memTestFault s kind correctable addr) := by
  unfold memTestFault
  exact Keeps.ite (State.addSat_keeps _ _ _ h0) (poisonLine_keeps _ _ _ _ h0)

theorem railLoses_keeps {r0 : State} (s : State) (k : Nat) (h0 : Keeps r0 s) :
    Keeps r0 (railLoses s k) := by
  unfold railLoses
  split
  · exact loseDram_keeps _ h0
  · exact loseDram_keeps _ h0
  · exact loseTiles_keeps _ h0
  · exact loseBay_keeps _ h0
  · exact h0

theorem reloadOne_keeps {r0 : State} (s : State) (r : ReloadRec) (h0 : Keeps r0 s) :
    Keeps r0 (reloadOne s r) := by
  unfold reloadOne
  extract_lets -underBinder +onlyGivenNames s
  have hs : Keeps r0 s := by subst s; exact physRead_keeps _ _ h0
  clear_value s
  extract_lets -underBinder +onlyGivenNames bytes; clear_value bytes
  extract_lets -underBinder +onlyGivenNames base; clear_value base
  exact carryPoison_keeps _ _ _ (wrMem_keeps _ _ _ _ hs)

theorem bayStep_keeps {r0 : State} (s : State) (h0 : Keeps r0 s) :
    Keeps r0 (bayStep s) := by
  unfold bayStep
  with_reducible apply Keeps.foldl
  · exact zeroFill_keeps _ _ h0
  · exact fun _ _ _ => reloadOne_keeps _ _ (by assumption)

theorem afterTests_keeps {r0 : State} (s : State) (h0 : Keeps r0 s) :
    Keeps r0 (afterTests s) := by
  unfold afterTests
  extract_lets -underBinder +onlyGivenNames failed; clear_value failed
  extract_lets -underBinder +onlyGivenNames s1
  have hs1 : Keeps r0 s1 := by subst s1; exact State.setF_keeps _ _ _ h0
  clear_value s1
  with_reducible apply Keeps.ite
  · with_reducible apply mainFail_keeps
    exact hs1
  · extract_lets -underBinder +onlyGivenNames s2
    have hs2 : Keeps r0 s2 := by subst s2; exact State.set64_keeps _ _ _ _ hs1
    clear_value s2
    extract_lets -underBinder +onlyGivenNames s3
    have hs3 : Keeps r0 s3 := by subst s3; exact setCause_keeps _ _ _ hs2
    clear_value s3
    with_reducible apply Keeps.ite
    · extract_lets -underBinder +onlyGivenNames s4
      have hs4 : Keeps r0 s4 := by subst s4; exact bayStep_keeps _ hs3
      clear_value s4
      with_reducible exact Keeps.upd hs4 rfl rfl rfl rfl rfl rfl
    · with_reducible apply mainFail_keeps
      exact hs3

theorem markTest_keeps {r0 : State} (s : State) (k : Nat) (r : InjReport) (h0 : Keeps r0 s) :
    Keeps r0 (markTest s k r) := by
  unfold markTest
  extract_lets -underBinder +onlyGivenNames y; subst y
  extract_lets -underBinder +onlyGivenNames s1
  have hs1 : Keeps r0 s1 := by subst s1; with_reducible exact Keeps.upd h0 rfl rfl rfl rfl rfl rfl
  clear_value s1
  exact Keeps.ite hs1 (State.setF_keeps _ _ _ hs1)

theorem railFail_keeps {r0 : State} (s : State) (h0 : Keeps r0 s) :
    Keeps r0 (railFail s) := by
  unfold railFail
  exact mainFailed_keeps _ _ _ h0

/-! ### Safety -/

theorem safeStateEntry_keeps {r0 : State} (s : State) (code : Nat) (h0 : Keeps r0 s) :
    Keeps r0 (safeStateEntry s code) := by
  unfold safeStateEntry
  extract_lets -underBinder +onlyGivenNames n; clear_value n
  extract_lets -underBinder +onlyGivenNames s1
  have hs1 : Keeps r0 s1 := by
    subst s1
    exact State.addSat_keeps _ _ _ (State.setF_keeps _ _ _ (State.setF_keeps _ _ _ h0))
  clear_value s1
  extract_lets -underBinder +onlyGivenNames s2
  have hs2 : Keeps r0 s2 := by subst s2; exact State.setF_keeps _ _ _ (State.set64_keeps _ _ _ _ hs1)
  clear_value s2
  extract_lets -underBinder +onlyGivenNames ents; clear_value ents
  extract_lets -underBinder +onlyGivenNames y; subst y
  extract_lets -underBinder +onlyGivenNames s3
  have hs3 : Keeps r0 s3 := by subst s3; with_reducible exact Keeps.upd hs2 rfl rfl rfl rfl rfl rfl
  clear_value s3
  extract_lets -underBinder +onlyGivenNames s4
  have hs4 : Keeps r0 s4 := by subst s4; exact Keeps.ite (setCause_keeps _ _ _ hs3) hs3
  clear_value s4
  extract_lets -underBinder +onlyGivenNames y; subst y
  extract_lets -underBinder +onlyGivenNames y; subst y
  extract_lets -underBinder +onlyGivenNames s5
  have hs5 : Keeps r0 s5 := by subst s5; with_reducible exact Keeps.upd hs4 rfl rfl rfl rfl rfl rfl
  clear_value s5
  exact mainDieReset_keeps _ (setSafePins_keeps _ _ hs5)

theorem unaccept_keeps {r0 : State} (s : State) (a : AcceptMark) (h0 : Keeps r0 s) :
    Keeps r0 (unaccept s a) := by
  unfold unaccept
  extract_lets -underBinder +onlyGivenNames s1
  have hs1 : Keeps r0 s1 := by
    subst s1
    exact State.setF_keeps _ _ _ (State.setF_keeps _ _ _ (State.setF_keeps _ _ _ h0))
  clear_value s1
  extract_lets -underBinder +onlyGivenNames s2
  have hs2 : Keeps r0 s2 := by
    subst s2
    exact State.setF_keeps _ _ _ (State.setF_keeps _ _ _ (State.setF_keeps _ _ _ hs1))
  clear_value s2
  extract_lets -underBinder +onlyGivenNames s3
  have hs3 : Keeps r0 s3 := by subst s3; exact State.setF_keeps _ _ _ hs2
  clear_value s3
  with_reducible exact faultPin_keeps _ (Keeps.upd hs3 rfl rfl rfl rfl rfl rfl)

theorem upCause_keeps {r0 : State} (s : State) (code : Nat) (h0 : Keeps r0 s) :
    Keeps r0 (upCause s code) := by
  unfold upCause
  split
  · exact safeStateEntry_keeps _ _ h0
  · extract_lets -underBinder +onlyGivenNames t
    have ht : Keeps r0 t := by subst t; exact unaccept_keeps _ _ h0
    clear_value t
    exact setSafePins_keeps _ _ (mainFail_keeps _ _ ht)

theorem preTripletFault_keeps {r0 : State} (s : State) (h0 : Keeps r0 s) :
    Keeps r0 (preTripletFault s) := by
  unfold preTripletFault
  split
  · exact h0
  · exact sageReset_keeps _ (sageFail_keeps _ _ h0)

theorem safeCause_keeps {r0 : State} (s : State) (code : Nat) (h0 : Keeps r0 s) :
    Keeps r0 (safeCause s code) := by
  unfold safeCause
  split
  · split
    · exact upCause_keeps _ _ h0
    · exact h0
    · exact h0
    · exact Keeps.ite (State.setF_keeps _ _ _ h0) (mainFail_keeps _ _ h0)
  · exact h0

theorem sweepFault_keeps {r0 : State} (s : State) (h0 : Keeps r0 s) :
    Keeps r0 (sweepFault s) := by
  unfold sweepFault
  with_reducible apply Keeps.ite
  · extract_lets -underBinder +onlyGivenNames y; subst y
    extract_lets -underBinder +onlyGivenNames r; subst r
    extract_lets -underBinder +onlyGivenNames s1
    have hs1 : Keeps r0 s1 := by
      subst s1
      with_reducible exact wakeEvent_keeps _ _ (State.setF_keeps _ _ _ (Keeps.upd h0 rfl rfl rfl rfl rfl rfl))
    clear_value s1
    with_reducible exact Keeps.ite (Keeps.upd hs1 rfl rfl rfl rfl rfl rfl) hs1
  · exact h0

theorem tripletFailure_keeps {r0 : State} (s : State) (held : Bool) (h0 : Keeps r0 s) :
    Keeps r0 (tripletFailure s held) := by
  unfold tripletFailure
  extract_lets -underBinder +onlyGivenNames s1
  have hs1 : Keeps r0 s1 := by subst s1; exact setCause_keeps _ _ _ (State.addSat_keeps _ _ _ h0)
  clear_value s1
  extract_lets -underBinder +onlyGivenNames s2
  have hs2 : Keeps r0 s2 := by subst s2; exact Keeps.ite hs1 (safeCause_keeps _ _ (sweepFault_keeps _ hs1))
  clear_value s2
  extract_lets -underBinder +onlyGivenNames y; subst y
  extract_lets -underBinder +onlyGivenNames s3
  have hs3 : Keeps r0 s3 := by subst s3; with_reducible exact Keeps.upd hs2 rfl rfl rfl rfl rfl rfl
  clear_value s3
  extract_lets -underBinder +onlyGivenNames s4
  have hs4 : Keeps r0 s4 := by
    subst s4
    exact setCause_keeps _ _ _ (State.setF_keeps _ _ _ (State.setF_keeps _ _ _ (State.setF_keeps _ _ _ hs3)))
  clear_value s4
  exact Keeps.ite hs4 (sageReset_keeps _ hs4)

theorem tripletDisagree_keeps {r0 : State} (s : State) (odd : Option Nat) (held : Bool) (h0 : Keeps r0 s) :
    Keeps r0 (tripletDisagree s odd held) := by
  unfold tripletDisagree
  with_reducible apply Keeps.ite
  · exact h0
  · split
    · exact tripletFailure_keeps _ _ h0
    · with_reducible apply Keeps.ite
      · with_reducible apply tripletFailure_keeps
        exact h0
      · extract_lets -underBinder +onlyGivenNames odds; clear_value odds
        extract_lets -underBinder +onlyGivenNames s1
        have hs1 : Keeps r0 s1 := by subst s1; exact State.setF_keeps _ _ _ h0
        clear_value s1
        with_reducible apply Keeps.ite
        · extract_lets -underBinder +onlyGivenNames y; subst y
          extract_lets -underBinder +onlyGivenNames s2
          have hs2 : Keeps r0 s2 := by subst s2; with_reducible exact Keeps.upd hs1 rfl rfl rfl rfl rfl rfl
          clear_value s2
          exact setCause_keeps _ _ _ (State.setF_keeps _ _ _ (State.setF_keeps _ _ _ hs2))
        · extract_lets -underBinder +onlyGivenNames y; subst y
          extract_lets -underBinder +onlyGivenNames s2
          have hs2 : Keeps r0 s2 := by subst s2; with_reducible exact Keeps.upd hs1 rfl rfl rfl rfl rfl rfl
          clear_value s2
          exact State.setF_keeps _ _ _ (State.addSat_keeps _ _ _ hs2)

theorem cpRestart_keeps {r0 : State} (s : State) (h0 : Keeps r0 s) :
    Keeps r0 (cpRestart s) := by
  unfold cpRestart
  extract_lets -underBinder +onlyGivenNames s1
  have hs1 : Keeps r0 s1 := by subst s1; exact State.addSat_keeps _ _ _ h0
  clear_value s1
  with_reducible exact Keeps.ite (Keeps.upd hs1 rfl rfl rfl rfl rfl rfl) (sageReset_keeps _ hs1)

theorem lockstepMismatch_keeps {r0 : State} (s : State) (h0 : Keeps r0 s) :
    Keeps r0 (lockstepMismatch s) := by
  unfold lockstepMismatch
  with_reducible apply Keeps.ite
  · with_reducible apply preTripletFault_keeps
    exact h0
  · extract_lets -underBinder +onlyGivenNames s1
    have hs1 : Keeps r0 s1 := by subst s1; exact setCause_keeps _ _ _ (State.addSat_keeps _ _ _ h0)
    clear_value s1
    exact cpRestart_keeps _ (safeCause_keeps _ _ (sweepFault_keeps _ hs1))

theorem heldReaction_keeps {r0 : State} (s : State) (k : Nat) (correctable : Bool) (core : Option Nat) (addr : Nat)
    (h0 : Keeps r0 s) :
    Keeps r0 (heldReaction s k correctable core addr) := by
  unfold heldReaction
  extract_lets -underBinder +onlyGivenNames held; clear_value held
  split
  · exact lockstepMismatch_keeps _ h0
  · exact tripletDisagree_keeps _ _ _ h0
  · exact Keeps.ite h0 (cpRestart_keeps _ (safeCause_keeps _ _ (setCause_keeps _ _ _ h0)))
  · split
    · exact memTestFault_keeps _ _ _ _ h0
    · with_reducible apply Keeps.ite
      · exact h0
      · split
        · exact safeCause_keeps _ _ h0
        · exact h0

theorem endRomRun_keeps {r0 : State} (s : State) (h0 : Keeps r0 s) :
    Keeps r0 (endRomRun s) := by
  unfold endRomRun
  extract_lets -underBinder +onlyGivenNames y; subst y
  extract_lets -underBinder +onlyGivenNames s1
  have hs1 : Keeps r0 s1 := by subst s1; with_reducible exact Keeps.upd h0 rfl rfl rfl rfl rfl rfl
  exact Keeps.ite (sageReset_keeps _ (sageFail_keeps _ _ hs1)) (romBackoff_keeps _ hs1)

theorem endRuntimeRun_keeps {r0 : State} (s : State) (h0 : Keeps r0 s) :
    Keeps r0 (endRuntimeRun s) := by
  unfold endRuntimeRun
  extract_lets -underBinder +onlyGivenNames failed; clear_value failed
  extract_lets -underBinder +onlyGivenNames y
  have hy : Keeps r0 y := by subst y; exact State.setF_keeps _ _ _ h0
  clear_value y
  extract_lets -underBinder +onlyGivenNames y; subst y
  extract_lets -underBinder +onlyGivenNames s1
  have hs1 : Keeps r0 s1 := by subst s1; with_reducible exact Keeps.upd hy rfl rfl rfl rfl rfl rfl
  clear_value s1
  exact Keeps.ite (safeCause_keeps _ _ (setCause_keeps _ _ _ hs1)) hs1

theorem endRun_keeps {r0 : State} (s : State) (h0 : Keeps r0 s) :
    Keeps r0 (endRun s) := by
  unfold endRun
  split
  · exact h0
  · exact endRomRun_keeps _ h0
  · exact afterTests_keeps _ h0
  · exact endRuntimeRun_keeps _ h0
  · exact endRuntimeRun_keeps _ h0

theorem windowEnd_keeps {r0 : State} (s : State) (k : Nat) (r : InjReport) (h0 : Keeps r0 s) :
    Keeps r0 (windowEnd s k r) := by
  unfold windowEnd
  with_reducible apply Keeps.ite
  · extract_lets -underBinder +onlyGivenNames s1
    have hs1 : Keeps r0 s1 := by subst s1; exact markTest_keeps _ _ _ h0
    extract_lets -underBinder +onlyGivenNames s2
    have hs2 : Keeps r0 s2 := by
      subst s2
      split
      · exact Keeps.ite (Keeps.ite (preTripletFault_keeps _ hs1) hs1) (heldReaction_keeps _ _ _ _ _ hs1)
      · exact hs1
    exact Keeps.ite (endRun_keeps _ hs2) hs2
  · exact h0

theorem windowEnds_keeps {r0 : State} (x1 : List Nat) : ∀ (s : State) (x2 : List InjReport),
    Keeps r0 s → Keeps r0 (windowEnds s x1 x2) := by
  induction x1 with
  | nil =>
    intro s x2 h0
    unfold windowEnds
    exact h0
  | cons a as ih =>
    intro s x2 h0
    unfold windowEnds
    split
    · cases ‹a :: as = _›
      exact ih _ _ (windowEnd_keeps _ _ _ h0)
    · exact h0

theorem releaseCauses_keeps {r0 : State} (s : State) (h0 : Keeps r0 s) :
    Keeps r0 (releaseCauses s) := by
  unfold releaseCauses
  exact setCause_keeps _ _ _ (setCause_keeps _ _ _ h0)

end Sys2Proof.Machine
end

