-- ==== Sys2Proof/Laws/KeepsStart.lean ====
section
/-! SUPPORT. Every operation over start, tests, rails and backoff; violation log, status blocks and replies; the checks of a packet leaves the waiting commands alone, draws
free values forward only, and keeps the canonical form of memory, flash, registers and latches: one lemma per operation. -/

namespace Sys2Proof.Machine

set_option linter.unusedVariables false

/-! ### StartCmds -/

theorem mainDue_keeps {r0 : State} (s : State) (h0 : Keeps r0 s) :
    Keeps r0 (mainDue s) := by
  unfold mainDue
  with_reducible apply Keeps.ite
  · extract_lets -underBinder +onlyGivenNames s1
    have hs1 : Keeps r0 s1 := by subst s1; exact showBackoff_keeps _ _ h0
    clear_value s1
    with_reducible exact Keeps.upd hs1 rfl rfl rfl rfl rfl rfl
  · with_reducible refine Keeps.upd ?_ rfl rfl rfl rfl rfl rfl
    exact h0

theorem bootAlive_keeps {r0 : State} (s : State) (h0 : Keeps r0 s) :
    Keeps r0 (bootAlive s) := by
  unfold bootAlive
  extract_lets -underBinder +onlyGivenNames s1
  have hs1 : Keeps r0 s1 := by subst s1; exact State.setF_keeps _ _ _ (mainDue_keeps _ (State.setF_keeps _ _ _ h0))
  clear_value s1
  extract_lets -underBinder +onlyGivenNames s2
  have hs2 : Keeps r0 s2 := by subst s2; exact setStep_keeps _ _ _ (State.setF_keeps _ _ _ hs1)
  clear_value s2
  with_reducible exact updFaultBoot_keeps _ (Keeps.upd hs2 rfl rfl rfl rfl rfl rfl)

theorem aliveWrite_keeps {r0 : State} (s : State) (m : BusMaster) (v : Nat) (h0 : Keeps r0 s) :
    Keeps r0 (aliveWrite s m v) := by
  unfold aliveWrite
  extract_lets -underBinder +onlyGivenNames r
  have hr : Keeps.By Prod.fst r0 r := by subst r; exact plainWrite_keeps _ _ _ _ h0
  clear_value r
  exact Keeps.ite (bootAlive_keeps _ (Keeps.By.fst hr)) (Keeps.By.fst hr)

theorem execBootAliveWrite_keeps {r0 : State} (m : BusMaster) (v : Word) (s : State) (h0 : Keeps r0 s) :
    Keeps.R r0 (execBootAliveWrite m v s) := by
  unfold execBootAliveWrite
  exact Keeps.toNext (aliveWrite_keeps _ _ _ (masterDemand_keeps _ _ h0))

theorem execPllUnlock_keeps {r0 : State} (pll : Nat) (s : State) (h0 : Keeps r0 s) :
    Keeps.R r0 (execPllUnlock pll s) := by
  unfold execPllUnlock
  extract_lets -underBinder +onlyGivenNames s1
  have hs1 : Keeps r0 s1 := by subst s1; exact setPlls_keeps _ _ _ h0
  clear_value s1
  exact Keeps.toNext (Keeps.ite (Keeps.ite (safeCause_keeps _ _ (State.setF_keeps _ _ _ hs1)) hs1) h0)

theorem execDuplicateCheckDisagree_keeps {r0 : State} (s : State) (h0 : Keeps r0 s) :
    Keeps.R r0 (execDuplicateCheckDisagree s) := by
  unfold execDuplicateCheckDisagree
  exact Keeps.toNext (safeCause_keeps _ _ h0)

theorem execAvsSettleExpiry_keeps {r0 : State} (s : State) (h0 : Keeps r0 s) :
    Keeps.R r0 (execAvsSettleExpiry s) := by
  unfold execAvsSettleExpiry
  with_reducible apply Keeps.toNext
  split
  · exact h0
  · with_reducible apply Keeps.ite
    · exact h0
    · extract_lets -underBinder +onlyGivenNames y; subst y
      extract_lets -underBinder +onlyGivenNames s1
      have hs1 : Keeps r0 s1 := by subst s1; with_reducible exact Keeps.upd h0 rfl rfl rfl rfl rfl rfl
      clear_value s1
      split
      · exact Keeps.ite (avsToward_keeps _ _ hs1) (Keeps.ite (Keeps.ite (dozeExit_keeps _ hs1) hs1) (avsToward_keeps
          _ _ hs1))
      · exact tileAdvance_keeps _ hs1

theorem execWakeNLatch_keeps {r0 : State} (pin : Nat) (s : State) (h0 : Keeps r0 s) :
    Keeps.R r0 (execWakeNLatch pin s) := by
  unfold execWakeNLatch
  exact Keeps.toNext (Keeps.ite (wakeEvent_keeps _ _ h0) h0)

theorem execRefreqAssert_keeps {r0 : State} (s : State) (h0 : Keeps r0 s) :
    Keeps.R r0 (execRefreqAssert s) := by
  unfold execRefreqAssert
  with_reducible apply Keeps.toNext
  split
  · exact Keeps.ite (setRefreq_keeps _ _ h0) h0
  · exact h0

theorem execHeartbeatMiss_keeps {r0 : State} (s : State) (h0 : Keeps r0 s) :
    Keeps.R r0 (execHeartbeatMiss s) := by
  unfold execHeartbeatMiss
  exact Keeps.toNext (Keeps.ite (cpRestart_keeps _ (safeCause_keeps _ _ (sweepFault_keeps _ (setCause_keeps _ _ _
    h0)))) h0)

theorem execRailOffDone_keeps {r0 : State} (below : Bool) (s : State) (h0 : Keeps r0 s) :
    Keeps.R r0 (execRailOffDone below s) := by
  unfold execRailOffDone
  with_reducible apply Keeps.toNext
  split
  · exact h0
  · with_reducible apply Keeps.ite
    · extract_lets -underBinder +onlyGivenNames s1
      have hs1 : Keeps r0 s1 := by subst s1; exact railLoses_keeps _ _ (setRailGood_keeps _ _ _ h0)
      clear_value s1
      extract_lets -underBinder +onlyGivenNames y; subst y
      extract_lets -underBinder +onlyGivenNames s2
      have hs2 : Keeps r0 s2 := by subst s2; with_reducible exact Keeps.upd hs1 rfl rfl rfl rfl rfl rfl
      clear_value s2
      split
      · exact downDone_keeps _ hs2
      · exact railOff_keeps _ _ hs2
    · exact h0

theorem execBackgroundTest_keeps {r0 : State} (reports : List InjReport) (s : State) (h0 : Keeps r0 s) :
    Keeps.R r0 (execBackgroundTest reports s) := by
  unfold execBackgroundTest
  with_reducible exact Keeps.toNext (Keeps.ite (windowEnds_keeps _ _ _ (openRun_keeps _ _ _ (Keeps.upd h0 rfl rfl rfl
                   rfl rfl rfl))) h0)

theorem recordTrip_keeps {r0 : State} (s : State) (r : Rail) (h0 : Keeps r0 s) :
    Keeps r0 (recordTrip s r) := by
  unfold recordTrip
  extract_lets -underBinder +onlyGivenNames b; clear_value b
  extract_lets -underBinder +onlyGivenNames t; clear_value t
  exact setRailGood_keeps _ _ _ (State.addSat_keeps _ _ _ (State.setF_keeps _ _ _ h0))

theorem groupBLoss_keeps {r0 : State} (s : State) (r : Rail) (h0 : Keeps r0 s) :
    Keeps r0 (groupBLoss s r) := by
  unfold groupBLoss
  with_reducible apply Keeps.ite
  · exact h0
  · extract_lets -underBinder +onlyGivenNames s1
    have hs1 : Keeps r0 s1 := by subst s1; exact recordTrip_keeps _ _ h0
    clear_value s1
    extract_lets -underBinder +onlyGivenNames s2
    have hs2 : Keeps r0 s2 := by
      subst s2
      with_reducible apply Keeps.ite
      · exact hs1
      · split
        · exact hs1
        · exact hs1
        · exact State.addSat_keeps _ _ _ hs1
    clear_value s2
    extract_lets -underBinder +onlyGivenNames s3
    have hs3 : Keeps r0 s3 := by
      subst s3
      with_reducible apply Keeps.ite
      · exact hs2
      · split
        · exact hs2
        · exact hs2
        · exact State.addSat_keeps _ _ _ hs2
    clear_value s3
    exact sageReset_keeps _ hs3

theorem execGroupBRailLoss_keeps {r0 : State} (r : Rail) (s : State) (h0 : Keeps r0 s) :
    Keeps.R r0 (execGroupBRailLoss r s) := by
  unfold execGroupBRailLoss
  with_reducible apply Keeps.toNext
  split
  · exact h0
  · exact groupBLoss_keeps _ _ h0

theorem execHostTimerCompare_keeps {r0 : State} (core : Nat) (s : State) (h0 : Keeps r0 s) :
    Keeps.R r0 (execHostTimerCompare core s) := by
  unfold execHostTimerCompare
  exact Keeps.toNext (Keeps.ite (wakeEvent_keeps _ _ h0) h0)

theorem dozeEntry_keeps {r0 : State} (s : State) (h0 : Keeps r0 s) :
    Keeps r0 (dozeEntry s) := by
  unfold dozeEntry
  extract_lets -underBinder +onlyGivenNames s1
  have hs1 : Keeps r0 s1 := by subst s1; exact setPlls_keeps _ _ _ h0
  clear_value s1
  extract_lets -underBinder +onlyGivenNames s2
  have hs2 : Keeps r0 s2 := by
    subst s2
    with_reducible apply Keeps.ite
    · with_reducible apply Keeps.foldl
      · exact hs1
      · exact fun _ _ _ => State.setF_keeps _ _ _ (by assumption)
    · with_reducible apply setPlls_keeps
      exact hs1
  clear_value s2
  extract_lets -underBinder +onlyGivenNames s3
  have hs3 : Keeps r0 s3 := by subst s3; exact State.setF_keeps _ _ _ (State.setF_keeps _ _ _ hs2)
  clear_value s3
  with_reducible exact avsToward_keeps _ _ (evtQuiet_keeps _ (Keeps.upd hs3 rfl rfl rfl rfl rfl rfl))

theorem execHeartbeatIncrement_keeps {r0 : State} (s : State) (h0 : Keeps r0 s) :
    Keeps.R r0 (execHeartbeatIncrement s) := by
  unfold execHeartbeatIncrement
  with_reducible apply Keeps.toNext
  with_reducible apply Keeps.ite
  · extract_lets -underBinder +onlyGivenNames s1
    have hs1 : Keeps r0 s1 := by subst s1; exact State.addWrap_keeps _ _ _ h0
    clear_value s1
    with_reducible exact Keeps.upd hs1 rfl rfl rfl rfl rfl rfl
  · exact h0

theorem execTripletDisagreement_keeps {r0 : State} (odd : Option Nat) (s : State) (h0 : Keeps r0 s) :
    Keeps.R r0 (execTripletDisagreement odd s) := by
  unfold execTripletDisagreement
  exact Keeps.toNext (tripletDisagree_keeps _ _ _ h0)

theorem execMainDieNoResponse_keeps {r0 : State} (s : State) (h0 : Keeps r0 s) :
    Keeps.R r0 (execMainDieNoResponse s) := by
  unfold execMainDieNoResponse
  exact Keeps.toNext (safeCause_keeps _ _ h0)

theorem railIsGood_keeps {r0 : State} (s : State) (k : Nat) (h0 : Keeps r0 s) :
    Keeps r0 (railIsGood s k) := by
  unfold railIsGood
  extract_lets -underBinder +onlyGivenNames y; subst y
  extract_lets -underBinder +onlyGivenNames s1
  have hs1 : Keeps r0 s1 := by subst s1; exact setRailGood_keeps _ _ _ (State.setRail_keeps _ _ _ h0)
  clear_value s1
  split
  · exact railOn_keeps _ _ _ hs1
  · with_reducible exact Keeps.upd hs1 rfl rfl rfl rfl rfl rfl

theorem execGroupCRailGood_keeps {r0 : State} (r : Rail) (s : State) (h0 : Keeps r0 s) :
    Keeps.R r0 (execGroupCRailGood r s) := by
  unfold execGroupCRailGood
  with_reducible apply Keeps.toNext
  split
  · exact Keeps.ite (railIsGood_keeps _ _ h0) h0
  · exact h0

theorem execSageReset_keeps {r0 : State} (s : State) (h0 : Keeps r0 s) :
    Keeps.R r0 (execSageReset s) := by
  unfold execSageReset
  exact Keeps.toNext (sageReset_keeps _ h0)

theorem romWait_keeps {r0 : State} (s : State) (st : SageStart) (h0 : Keeps r0 s) :
    Keeps r0 (romWait s st) := by
  unfold romWait
  extract_lets -underBinder +onlyGivenNames s1
  have hs1 : Keeps r0 s1 := by subst s1; exact setSafePins_keeps _ _ (setPlls_keeps _ _ _ h0)
  clear_value s1
  with_reducible exact Keeps.upd hs1 rfl rfl rfl rfl rfl rfl

theorem execLatchingLoRead_keeps {r0 : State} (m : BusMaster) (at_ : LoRead) (s : State) (h0 : Keeps r0 s) :
    Keeps.R r0 (execLatchingLoRead m at_ s) := by
  unfold execLatchingLoRead
  with_reducible apply Keeps.toNext
  split
  · exact regRead_keeps _ _ (busDemand_keeps _ _ _ h0)
  · split
    · with_reducible exact Keeps.ite (Keeps.upd h0 rfl rfl rfl rfl rfl rfl) h0
    · exact h0

theorem execSageSramUe_keeps {r0 : State} (s : State) (h0 : Keeps r0 s) :
    Keeps.R r0 (execSageSramUe s) := by
  unfold execSageSramUe
  exact Keeps.toNext (Keeps.ite (preTripletFault_keeps _ h0) (Keeps.ite (cpRestart_keeps _ (safeCause_keeps _ _
    (setCause_keeps _ _ _ h0))) h0))

theorem execFaultNHoldExpiry_keeps {r0 : State} (s : State) (h0 : Keeps r0 s) :
    Keeps.R r0 (execFaultNHoldExpiry s) := by
  unfold execFaultNHoldExpiry
  extract_lets -underBinder +onlyGivenNames s1
  have hs1 : Keeps r0 s1 := by subst s1; exact Keeps.ite (setCause_keeps _ _ _ h0) h0
  clear_value s1
  exact Keeps.toNext (faultPin_keeps _ hs1)

theorem dozeBegin_keeps {r0 : State} (s : State) (compares : List (Option Nat)) (h0 : Keeps r0 s) :
    Keeps r0 (dozeBegin s compares) := by
  unfold dozeBegin
  extract_lets -underBinder +onlyGivenNames s1
  have hs1 : Keeps r0 s1 := by subst s1; exact stopMainDoms_keeps _ h0
  clear_value s1
  with_reducible exact Keeps.upd hs1 rfl rfl rfl rfl rfl rfl

theorem execDozeHoldExpiry_keeps {r0 : State} (compares : List (Option Nat)) (s : State) (h0 : Keeps r0 s) :
    Keeps.R r0 (execDozeHoldExpiry compares s) := by
  unfold execDozeHoldExpiry
  exact Keeps.toNext (Keeps.ite (dozeEntry_keeps _ h0) (Keeps.ite (dozeBegin_keeps _ _ h0) h0))

theorem execBootWatchdogExpiry_keeps {r0 : State} (s : State) (h0 : Keeps r0 s) :
    Keeps.R r0 (execBootWatchdogExpiry s) := by
  unfold execBootWatchdogExpiry
  exact Keeps.toNext (Keeps.ite (sageReset_keeps _ (sageFail_keeps _ _ h0)) h0)

theorem mainSteps_keeps {r0 : State} (s : State) (env : MainStart) (h0 : Keeps r0 s) :
    Keeps r0 (mainSteps s env) := by
  unfold mainSteps
  extract_lets -underBinder +onlyGivenNames y; subst y
  extract_lets -underBinder +onlyGivenNames s0
  have hs0 : Keeps r0 s0 := by subst s0; with_reducible exact Keeps.upd h0 rfl rfl rfl rfl rfl rfl
  clear_value s0
  extract_lets -underBinder +onlyGivenNames s1
  have hs1 : Keeps r0 s1 := by
    subst s1
    exact padsChange_keeps _ (evtSkip_keeps _ (startMainDoms_keeps _ (setPlls_keeps _ _ _ (reloadCopies_keeps _
      hs0))))
  clear_value s1
  with_reducible apply Keeps.ite
  · with_reducible apply mainFail_keeps
    exact hs1
  · extract_lets -underBinder +onlyGivenNames s2
    have hs2 : Keeps r0 s2 := by subst s2; exact State.setF_keeps _ _ _ (State.setF_keeps _ _ _ hs1)
    clear_value s2
    split
    · with_reducible exact mainFail_keeps _ _ (Keeps.upd hs2 rfl rfl rfl rfl rfl rfl)
    · extract_lets -underBinder +onlyGivenNames y; subst y
      extract_lets -underBinder +onlyGivenNames s3
      have hs3 : Keeps r0 s3 := by subst s3; with_reducible exact Keeps.upd hs2 rfl rfl rfl rfl rfl rfl
      clear_value s3
      extract_lets -underBinder +onlyGivenNames tests; clear_value tests
      exact windowEnds_keeps _ _ _ (openRun_keeps _ _ _ hs3)

theorem execMainDieBringUp_keeps {r0 : State} (env : MainStart) (s : State) (h0 : Keeps r0 s) :
    Keeps.R r0 (execMainDieBringUp env s) := by
  unfold execMainDieBringUp
  with_reducible apply Keeps.toNext
  split
  · exact Keeps.ite (mainBegin_keeps _ _ h0) h0
  · exact Keeps.ite (mainSteps_keeps _ _ h0) h0
  · exact h0

theorem execRailGoodTimeout_keeps {r0 : State} (s : State) (h0 : Keeps r0 s) :
    Keeps.R r0 (execRailGoodTimeout s) := by
  unfold execRailGoodTimeout
  with_reducible apply Keeps.toNext
  split
  · exact Keeps.ite (railFail_keeps _ h0) h0
  · exact h0

theorem execDomainIdleExpiry_keeps {r0 : State} (d : Nat) (s : State) (h0 : Keeps r0 s) :
    Keeps.R r0 (execDomainIdleExpiry d s) := by
  unfold execDomainIdleExpiry
  extract_lets -underBinder +onlyGivenNames hold; clear_value hold
  exact Keeps.toNext (Keeps.ite (gateDom_keeps _ _ h0) h0)

theorem rateWrite_keeps {r0 : State} (s : State) (m : BusMaster) (v : Nat) (h0 : Keeps r0 s) :
    Keeps r0 (rateWrite s m v) := by
  unfold rateWrite
  exact Keeps.ite (rateAdjust_keeps _ _ h0) (forbid_keeps _ _ _ _ h0)

theorem execTimeRateAdjWrite_keeps {r0 : State} (m : BusMaster) (v : Word) (s : State) (h0 : Keeps r0 s) :
    Keeps.R r0 (execTimeRateAdjWrite m v s) := by
  unfold execTimeRateAdjWrite
  exact Keeps.toNext (rateWrite_keeps _ _ _ (masterDemand_keeps _ _ h0))

theorem romStart_keeps {r0 : State} (s1 : State) (st : SageStart) (h0 : Keeps r0 s1) :
    Keeps r0 (romStart s1 st) := by
  unfold romStart
  extract_lets -underBinder +onlyGivenNames y; subst y
  extract_lets -underBinder +onlyGivenNames y; clear_value y
  extract_lets -underBinder +onlyGivenNames s2
  have hs2 : Keeps r0 s2 := by subst s2; with_reducible exact Keeps.upd h0 rfl rfl rfl rfl rfl rfl
  clear_value s2
  extract_lets -underBinder +onlyGivenNames s3
  have hs3 : Keeps r0 s3 := by
    subst s3
    exact setSafePins_keeps _ _ (setPlls_keeps _ _ _ (setRailGood_keeps _ _ _ (setRailGood_keeps _ _ _
      (setRailGood_keeps _ _ _ hs2))))
  clear_value s3
  extract_lets -underBinder +onlyGivenNames s4
  have hs4 : Keeps r0 s4 := by subst s4; exact setStep_keeps _ _ _ (State.setF_keeps _ _ _ hs3)
  clear_value s4
  extract_lets -underBinder +onlyGivenNames s5
  have hs5 : Keeps r0 s5 := by
    subst s5
    exact State.setF_keeps _ _ _ (State.setF_keeps _ _ _ (State.setF_keeps _ _ _ hs4))
  clear_value s5
  extract_lets -underBinder +onlyGivenNames rate; clear_value rate
  extract_lets -underBinder +onlyGivenNames y; subst y
  extract_lets -underBinder +onlyGivenNames y; subst y
  extract_lets -underBinder +onlyGivenNames s6
  have hs6 : Keeps r0 s6 := by subst s6; with_reducible exact Keeps.upd hs5 rfl rfl rfl rfl rfl rfl
  clear_value s6
  extract_lets -underBinder +onlyGivenNames s7
  have hs7 : Keeps r0 s7 := by subst s7; exact setCause_keeps _ _ _ (setCause_keeps _ _ _ hs6)
  clear_value s7
  exact windowEnds_keeps _ _ _ (openRun_keeps _ _ _ hs7)

theorem execSlowRisingEdge_keeps {r0 : State} (wakeN : Nat) (gpio : Nat) (s : State) (h0 : Keeps r0 s) :
    Keeps.R r0 (execSlowRisingEdge wakeN gpio s) := by
  unfold execSlowRisingEdge
  extract_lets -underBinder +onlyGivenNames y; subst y
  extract_lets -underBinder +onlyGivenNames s1
  have hs1 : Keeps r0 s1 := by subst s1; with_reducible exact Keeps.upd h0 rfl rfl rfl rfl rfl rfl
  clear_value s1
  extract_lets -underBinder +onlyGivenNames s2
  have hs2 : Keeps r0 s2 := by
    subst s2
    with_reducible apply Keeps.ite
    · split
      · exact romStart_keeps _ _ (timeRestart_keeps _ hs1)
      · exact Keeps.ite (timeRestart_keeps _ hs1) (sageWake_keeps _ (timeRestart_keeps _ hs1))
    · exact hs1
  clear_value s2
  extract_lets -underBinder +onlyGivenNames s3
  have hs3 : Keeps r0 s3 := by subst s3; exact Keeps.ite (recordPair_keeps _ hs2) hs2
  clear_value s3
  extract_lets -underBinder +onlyGivenNames u
  have hu : Keeps r0 u := by subst u; exact sageSleep_keeps _ hs3
  clear_value u
  extract_lets -underBinder +onlyGivenNames s4
  have hs4 : Keeps r0 s4 := by subst s4; exact Keeps.ite (Keeps.ite (parkExit_keeps _ hu) hu) hs3
  clear_value s4
  exact Keeps.toNext (padSample_keeps _ _ hs4)

theorem judgeCopy_keeps {r0 : State} (s : State) (d : Nat) (h0 : Keeps r0 s) :
    Keeps r0 (judgeCopy s d) := by
  unfold judgeCopy
  extract_lets -underBinder +onlyGivenNames dev; clear_value dev
  exact Keeps.ite (safeCause_keeps _ _ (State.setF_keeps _ _ _ h0)) h0

theorem execTimeCopyMismatch_keeps {r0 : State} (d : Nat) (ahead : Int) (s : State) (h0 : Keeps r0 s) :
    Keeps.R r0 (execTimeCopyMismatch d ahead s) := by
  unfold execTimeCopyMismatch
  with_reducible exact Keeps.toNext (Keeps.ite (judgeCopy_keeps _ _ (Keeps.upd h0 rfl rfl rfl rfl rfl rfl)) h0)

theorem execTripletResyncDone_keeps {r0 : State} (s : State) (h0 : Keeps r0 s) :
    Keeps.R r0 (execTripletResyncDone s) := by
  unfold execTripletResyncDone
  with_reducible exact Keeps.toNext (Keeps.ite (State.setF_keeps _ _ _ (Keeps.upd h0 rfl rfl rfl rfl rfl rfl)) h0)

theorem execRefclkRecovered_keeps {r0 : State} (s : State) (h0 : Keeps r0 s) :
    Keeps.R r0 (execRefclkRecovered s) := by
  unfold execRefclkRecovered
  exact Keeps.toNext (Keeps.ite (setCause_keeps _ _ _ (State.setF_keeps _ _ _ h0)) h0)

theorem groupCLoss_keeps {r0 : State} (s : State) (r : Rail) (k : Nat) (h0 : Keeps r0 s) :
    Keeps r0 (groupCLoss s r k) := by
  unfold groupCLoss
  extract_lets -underBinder +onlyGivenNames y; subst y
  extract_lets -underBinder +onlyGivenNames s1
  have hs1 : Keeps r0 s1 := by
    subst s1
    exact railLoses_keeps _ _ (recordTrip_keeps _ _ (State.setRail_keeps _ _ _ h0))
  clear_value s1
  split
  · exact hs1
  · extract_lets -underBinder +onlyGivenNames y; subst y
    extract_lets -underBinder +onlyGivenNames s2
    have hs2 : Keeps r0 s2 := by subst s2; with_reducible exact Keeps.upd hs1 rfl rfl rfl rfl rfl rfl
    clear_value s2
    extract_lets -underBinder +onlyGivenNames s3
    have hs3 : Keeps r0 s3 := by subst s3; exact safeStateEntry_keeps _ _ hs2
    clear_value s3
    exact takeDown_keeps _ _ _ hs3
  · exact takeDown_keeps _ _ _ hs1
  · with_reducible apply Keeps.ite
    · extract_lets -underBinder +onlyGivenNames y; subst y
      extract_lets -underBinder +onlyGivenNames s2
      have hs2 : Keeps r0 s2 := by subst s2; with_reducible exact Keeps.upd hs1 rfl rfl rfl rfl rfl rfl
      clear_value s2
      exact takeDown_keeps _ _ _ (State.setF_keeps _ _ _ hs2)
    · with_reducible apply mainFail_keeps
      exact hs1

theorem execRailMonitorTrip_keeps {r0 : State} (r : Rail) (stamp : Nat) (s : State) (h0 : Keeps r0 s) :
    Keeps.R r0 (execRailMonitorTrip r stamp s) := by
  unfold execRailMonitorTrip
  with_reducible apply Keeps.toNext
  split
  · exact groupBLoss_keeps _ _ h0
  · exact Keeps.ite (groupCLoss_keeps _ _ _ h0) h0

theorem execRefclkBad_keeps {r0 : State} (s : State) (h0 : Keeps r0 s) :
    Keeps.R r0 (execRefclkBad s) := by
  unfold execRefclkBad
  with_reducible apply Keeps.toNext
  with_reducible apply Keeps.ite
  · extract_lets -underBinder +onlyGivenNames s1
    have hs1 : Keeps r0 s1 := by subst s1; exact setCause_keeps _ _ _ (State.setF_keeps _ _ _ h0)
    clear_value s1
    with_reducible exact safeCause_keeps _ _ (Keeps.upd hs1 rfl rfl rfl rfl rfl rfl)
  · exact h0

theorem execDramStepChange_keeps {r0 : State} (s : State) (h0 : Keeps r0 s) :
    Keeps.R r0 (execDramStepChange s) := by
  unfold execDramStepChange
  exact Keeps.toNext (Keeps.ite (setStep_keeps _ _ _ h0) h0)

theorem bootCtrlWrite_keeps {r0 : State} (s : State) (m : BusMaster) (v : Nat) (h0 : Keeps r0 s) :
    Keeps r0 (bootCtrlWrite s m v) := by
  unfold bootCtrlWrite
  extract_lets -underBinder +onlyGivenNames r
  have hr : Keeps.By Prod.fst r0 r := by subst r; exact plainWrite_keeps _ _ _ _ h0
  clear_value r
  exact Keeps.ite (sageReset_keeps _ (Keeps.By.fst hr)) (Keeps.By.fst hr)

theorem execSageResetWrite_keeps {r0 : State} (m : BusMaster) (v : Word) (s : State) (h0 : Keeps r0 s) :
    Keeps.R r0 (execSageResetWrite m v s) := by
  unfold execSageResetWrite
  exact Keeps.toNext (bootCtrlWrite_keeps _ _ _ (masterDemand_keeps _ _ h0))

theorem execPorNRelease_keeps {r0 : State} (st : SageStart) (s : State) (h0 : Keeps r0 s) :
    Keeps.R r0 (execPorNRelease st s) := by
  unfold execPorNRelease
  exact Keeps.toNext (Keeps.ite (Keeps.ite (romWait_keeps _ _ h0) (romStart_keeps _ _ (timeRestart_keeps _ h0))) h0)

theorem execSageLinkFlitError_keeps {r0 : State} (failedReplays : Nat) (s : State) (h0 : Keeps r0 s) :
    Keeps.R r0 (execSageLinkFlitError failedReplays s) := by
  unfold execSageLinkFlitError
  exact Keeps.toNext (Keeps.ite (safeCause_keeps _ _ h0) h0)

theorem execPowerOnReset_keeps {r0 : State} (x0 : PorCause) (s : State) (h0 : Keeps r0 s) :
    Keeps.R r0 (execPowerOnReset x0 s) := by
  unfold execPowerOnReset
  exact Keeps.toNext (powerOnState_keeps h0)

theorem execPreTripletCoreFault_keeps {r0 : State} (x0 : CoreFault) (s : State) (h0 : Keeps r0 s) :
    Keeps.R r0 (execPreTripletCoreFault x0 s) := by
  unfold execPreTripletCoreFault
  exact Keeps.toNext (Keeps.ite h0 (preTripletFault_keeps _ h0))

theorem execLockstepMismatch_keeps {r0 : State} (s : State) (h0 : Keeps r0 s) :
    Keeps.R r0 (execLockstepMismatch s) := by
  unfold execLockstepMismatch
  exact Keeps.toNext (Keeps.ite (lockstepMismatch_keeps _ h0) h0)

theorem execBackoffExpiry_keeps {r0 : State} (xspiError : Bool) (s : State) (h0 : Keeps r0 s) :
    Keeps.R r0 (execBackoffExpiry xspiError s) := by
  unfold execBackoffExpiry
  with_reducible apply Keeps.toNext
  with_reducible apply Keeps.ite
  · with_reducible apply Keeps.ite
    · exact h0
    · with_reducible apply sageAttempt_keeps
      with_reducible refine Keeps.upd ?_ rfl rfl rfl rfl rfl rfl
      exact h0
  · with_reducible apply Keeps.ite
    · extract_lets -underBinder +onlyGivenNames s1
      have hs1 : Keeps r0 s1 := by subst s1; exact endBackoff_keeps _ h0
      clear_value s1
      with_reducible exact Keeps.upd hs1 rfl rfl rfl rfl rfl rfl
    · exact h0

theorem execDomainDemand_keeps {r0 : State} (d : Nat) (s : State) (h0 : Keeps r0 s) :
    Keeps.R r0 (execDomainDemand d s) := by
  unfold execDomainDemand
  exact Keeps.toNext (Keeps.ite (demand_keeps _ _ h0) h0)

theorem execTileStepChange_keeps {r0 : State} (s : State) (h0 : Keeps r0 s) :
    Keeps.R r0 (execTileStepChange s) := by
  unfold execTileStepChange
  exact Keeps.toNext (Keeps.ite h0 (tileAdvance_keeps _ h0))

theorem execMainStepTimeout_keeps {r0 : State} (s : State) (h0 : Keeps r0 s) :
    Keeps.R r0 (execMainStepTimeout s) := by
  unfold execMainStepTimeout
  with_reducible apply Keeps.toNext
  split
  · exact Keeps.ite (mainFail_keeps _ _ h0) h0
  · exact Keeps.ite (mainFail_keeps _ _ h0) h0
  · exact Keeps.ite (mainFail_keeps _ _ h0) h0
  · exact h0

/-! ### Packets -/

theorem peekBytes_keeps {r0 : State} (s : State) (w : Who) (va : Nat) (n : Nat) (h0 : Keeps r0 s) :
    Keeps.By Prod.fst r0 (peekBytes s w va n) := by
  unfold peekBytes
  split
  · exact Keeps.toFst (Keeps.By.eq_fst (by assumption) (rangeOk_keeps _ _ _ _ h0))
  · split
    · exact readLands_keeps _ _ _ (Keeps.By.eq_fst (by assumption) (xlateAll_keeps _ _ _ _ (Keeps.By.eq_fst (by
        assumption) (rangeOk_keeps _ _ _ _ h0))))
    · exact Keeps.toFst (Keeps.By.eq_fst (by assumption) (xlateAll_keeps _ _ _ _ (Keeps.By.eq_fst (by assumption)
        (rangeOk_keeps _ _ _ _ h0))))

theorem State.setQueue_keeps {r0 : State} (s : State) (q : Nat) (x : QueueState) (h0 : Keeps r0 s) :
    Keeps r0 (State.setQueue s q x) := by
  unfold State.setQueue
  with_reducible exact Keeps.upd h0 rfl rfl rfl rfl rfl rfl

theorem cpWrite_keeps {r0 : State} (s : State) (w : Who) (va : Nat) (bs : List Byte) (h0 : Keeps r0 s) :
    Keeps.By Prod.fst r0 (cpWrite s w va bs) := by
  unfold cpWrite
  split
  · exact Keeps.toFst (writeLands_keeps _ _ _ _ (Keeps.By.eq_fst (by assumption) (xlateAll_keeps _ _ _ _
      (demand_keeps _ _ h0))))
  · exact Keeps.toFst (Keeps.By.eq_fst (by assumption) (xlateAll_keeps _ _ _ _ (demand_keeps _ _ h0)))

theorem stopQueue_keeps {r0 : State} (s : State) (q : Nat) (reason : Nat) (h0 : Keeps r0 s) :
    Keeps r0 (stopQueue s q reason) := by
  unfold stopQueue
  exact State.setF_keeps _ _ _ (State.setF_keeps _ _ _ h0)

theorem statusNow_keeps {r0 : State} (s : State) (q : Nat) (h0 : Keeps r0 s) :
    Keeps r0 (statusNow s q) := by
  unfold statusNow
  extract_lets -underBinder +onlyGivenNames y; subst y
  extract_lets -underBinder +onlyGivenNames s0
  have hs0 : Keeps r0 s0 := by subst s0; exact State.setQueue_keeps _ _ _ h0
  clear_value s0
  extract_lets -underBinder +onlyGivenNames r
  have hr : Keeps.By Prod.fst r0 r := by subst r; exact cpWrite_keeps _ _ _ _ hs0
  clear_value r
  exact Keeps.ite (Keeps.By.fst hr) (stopQueue_keeps _ _ _ (vlog_keeps _ _ _ _ _ _ (Keeps.By.fst hr)))

theorem writeStatus_keeps {r0 : State} (s : State) (q : Nat) (h0 : Keeps r0 s) :
    Keeps r0 (writeStatus s q) := by
  unfold writeStatus
  extract_lets -underBinder +onlyGivenNames y; subst y
  extract_lets -underBinder +onlyGivenNames s1
  have hs1 : Keeps r0 s1 := by subst s1; exact State.setQueue_keeps _ _ _ h0
  clear_value s1
  exact Keeps.ite (paceAct_keeps _ _ _ (fun _ _ => statusNow_keeps _ _ (by assumption)) hs1) hs1

theorem writeReply_keeps {r0 : State} (s : State) (p : Pkt) (r : Reply) (h0 : Keeps r0 s) :
    Keeps r0 (writeReply s p r) := by
  unfold writeReply
  extract_lets -underBinder +onlyGivenNames bs; clear_value bs
  extract_lets -underBinder +onlyGivenNames c; clear_value c
  extract_lets -underBinder +onlyGivenNames orphan
  have horphan : ∀ a0, Keeps r0 a0 → Keeps r0 (orphan a0) := by
    subst orphan
    intro _ _
    beta_reduce
    extract_lets -underBinder +onlyGivenNames y; subst y
    extract_lets -underBinder +onlyGivenNames t1
    have ht1 : Keeps r0 t1 := by subst t1; exact State.setQueue_keeps _ _ _ (by assumption)
    clear_value t1
    exact writeStatus_keeps _ _ (vlog_keeps _ _ _ _ _ _ ht1)
  clear_value orphan
  with_reducible apply Keeps.ite
  · with_reducible apply_assumption
    exact h0
  · extract_lets -underBinder +onlyGivenNames r
    have hr : Keeps.By Prod.fst r0 r := by subst r; exact cpWrite_keeps _ _ _ _ h0
    clear_value r
    with_reducible apply Keeps.ite
    · with_reducible apply Keeps.By.fst
      exact hr
    · with_reducible apply_assumption
      exact Keeps.By.fst hr

theorem qIrq_keeps {r0 : State} (s : State) (q : Nat) (h0 : Keeps r0 s) :
    Keeps r0 (qIrq s q) := by
  unfold qIrq
  extract_lets -underBinder +onlyGivenNames k; clear_value k
  extract_lets -underBinder +onlyGivenNames m; clear_value m
  extract_lets -underBinder +onlyGivenNames s1
  have hs1 : Keeps r0 s1 := by subst s1; exact State.setF_keeps _ _ _ h0
  clear_value s1
  exact Keeps.ite (raiseHost_keeps _ _ (State.setQueue_keeps _ _ _ hs1)) hs1

theorem recordNow_keeps {r0 : State} (p : Pkt) (r : Reply) (s : State) (h0 : Keeps r0 s) :
    Keeps r0 (recordNow p r s) := by
  unfold recordNow
  extract_lets -underBinder +onlyGivenNames q; clear_value q
  extract_lets -underBinder +onlyGivenNames s1
  have hs1 : Keeps r0 s1 := by subst s1; exact writeReply_keeps _ _ _ h0
  clear_value s1
  extract_lets -underBinder +onlyGivenNames y; subst y
  extract_lets -underBinder +onlyGivenNames s2
  have hs2 : Keeps r0 s2 := by subst s2; exact State.setQueue_keeps _ _ _ hs1
  clear_value s2
  extract_lets -underBinder +onlyGivenNames s3
  have hs3 : Keeps r0 s3 := by
    subst s3
    with_reducible exact writeStatus_keeps _ _ (Keeps.upd hs2 rfl rfl rfl rfl rfl rfl)
  clear_value s3
  exact Keeps.ite (qIrq_keeps _ _ hs3) hs3

theorem flushOne_keeps {r0 : State} (s : State) (q : Nat) (h0 : Keeps r0 s) :
    Keeps r0 (flushOne s q) := by
  unfold flushOne
  split
  · exact h0
  · split
    · exact paceAct_keeps _ _ _ (fun _ _ => recordNow_keeps _ _ _ (by assumption)) h0
    · exact h0

theorem flushFuel_keeps {r0 : State} (x0 : Nat) : ∀ (x1 : State) (x2 : Nat),
    Keeps r0 x1 → Keeps r0 (flushFuel x0 x1 x2) := by
  induction x0 with
  | zero =>
    intro x1 x2 h0
    rw [flushFuel]
    exact h0
  | succ n ih =>
    intro x1 x2 h0
    rw [flushFuel]
    exact Keeps.ite (flushOne_keeps _ _ h0) (ih _ _ (flushOne_keeps _ _ h0))

theorem flush_keeps {r0 : State} (s : State) (q : Nat) (h0 : Keeps r0 s) :
    Keeps r0 (flush s q) := by
  unfold flush
  exact Keeps.ite (flushFuel_keeps _ _ _ h0) h0

theorem dropPktWaits_keeps {r0 : State} (s : State) (q : Nat) (idx : Nat) (h0 : Keeps r0 s) :
    Keeps r0 (dropPktWaits s q idx) := by
  unfold dropPktWaits
  exact paceDrop_keeps _ _ h0

theorem State.setPkt_keeps {r0 : State} (s : State) (p : Pkt) (h0 : Keeps r0 s) :
    Keeps r0 (State.setPkt s p) := by
  unfold State.setPkt
  with_reducible exact Keeps.upd h0 rfl rfl rfl rfl rfl rfl

theorem endPkt_keeps {r0 : State} (s : State) (q : Nat) (idx : Nat) (r : Reply) (h0 : Keeps r0 s) :
    Keeps r0 (endPkt s q idx r) := by
  unfold endPkt
  split
  · exact h0
  · exact flush_keeps _ _ (dropPktWaits_keeps _ _ _ (State.setPkt_keeps _ _ h0))

theorem complete_keeps {r0 : State} (s : State) (p : Pkt) (st : Nat) (detail : Nat) (fault : Nat) (h0 : Keeps r0 s) :
    Keeps r0 (complete s p st detail fault) := by
  unfold complete
  extract_lets -underBinder +onlyGivenNames j; clear_value j
  exact endPkt_keeps _ _ _ _ h0

theorem outTaken_keeps {r0 : State} (s : State) (p : Pkt) (o : PktOut) (h0 : Keeps r0 s) :
    Keeps r0 (outTaken s p o) := by
  unfold outTaken
  with_reducible apply Keeps.ite
  · extract_lets -underBinder +onlyGivenNames gone; clear_value gone
    with_reducible exact Keeps.upd h0 rfl rfl rfl rfl rfl rfl
  · exact h0

theorem outNow_keeps {r0 : State} (s : State) (p : Pkt) (o : PktOut) (h0 : Keeps r0 s) :
    Keeps r0 (outNow s p o) := by
  unfold outNow
  split
  · exact complete_keeps _ _ _ _ _ (outTaken_keeps _ _ _ (Keeps.By.eq_fst (by assumption) (dmaWrite_keeps _ _ _ _
      h0)))
  · exact complete_keeps _ _ _ _ _ (Keeps.By.eq_fst (by assumption) (dmaWrite_keeps _ _ _ _ h0))
  · exact complete_keeps _ _ _ _ _ (Keeps.By.eq_fst (by assumption) (dmaWrite_keeps _ _ _ _ h0))

theorem endPlain_keeps {r0 : State} (s : State) (p : Pkt) (st : Nat) (detail : Nat) (fault : Nat) (h0 : Keeps r0 s) :
    Keeps r0 (endPlain s p st detail fault) := by
  unfold endPlain
  exact endPkt_keeps _ _ _ _ h0

theorem noPre_keeps {r0 : State} (s : State) (x1 : Pkt) (h0 : Keeps r0 s) :
    Keeps.By Prod.fst r0 (noPre s x1) := by
  unfold noPre
  exact Keeps.toFst h0

theorem rangeCheck_keeps {r0 : State} (s : State) (w : Who) (off : Nat) (va : Nat) (n : Nat) (wr : Bool)
    (h0 : Keeps r0 s) :
    Keeps.By Prod.fst r0 (rangeCheck s w off va n wr) := by
  unfold rangeCheck
  split
  · exact Keeps.toFst (Keeps.By.eq_fst (by assumption) (xlateAll_keeps _ _ _ _ h0))
  · exact Keeps.toFst (Keeps.By.eq_fst (by assumption) (xlateAll_keeps _ _ _ _ h0))
  · exact Keeps.toFst (Keeps.By.eq_fst (by assumption) (xlateAll_keeps _ _ _ _ h0))

theorem preFail_keeps {r0 : State} (s : State) (p : Pkt) (d : Nat) (h0 : Keeps r0 s) :
    Keeps r0 (preFail s p d) := by
  unfold preFail
  extract_lets -underBinder +onlyGivenNames s1
  have hs1 : Keeps r0 s1 := by subst s1; exact vlog_keeps _ _ _ _ _ _ h0
  clear_value s1
  exact endPlain_keeps _ _ _ _ _ hs1

theorem deferFail_keeps {r0 : State} (s : State) (p : Pkt) (off : Nat) (va : Nat) (h0 : Keeps r0 s) :
    Keeps r0 (deferFail s p off va) := by
  unfold deferFail
  exact endPlain_keeps _ _ _ _ _ h0

theorem endPre_keeps {r0 : State} (s : State) (p : Pkt) (x2 : PreFail) (h0 : Keeps r0 s) :
    Keeps.O r0 (endPre s p x2) := by
  unfold endPre
  split
  · exact Keeps.noState
  · exact Keeps.toSome (preFail_keeps _ _ _ h0)
  · exact Keeps.toSome (deferFail_keeps _ _ _ _ h0)
  · exact Keeps.toSome (endPlain_keeps _ _ _ _ _ h0)
  · exact Keeps.toSome (endPlain_keeps _ _ _ _ _ h0)

theorem preThen_keeps {r0 : State} (p : Pkt) (pre : State → Pkt → State × PreFail) (eff : State → Pkt → State)
    (s : State) (h0 : ∀ a0 a1, Keeps r0 a0 → Keeps.By Prod.fst r0 (pre a0 a1)) (h1 : ∀ a0 a1, Keeps r0 a0 → Keeps r0
    (eff a0 a1)) (h2 : Keeps r0 s) :
    Keeps r0 (preThen p pre eff s) := by
  unfold preThen
  extract_lets -underBinder +onlyGivenNames r
  have hr : Keeps.By Prod.fst r0 r := by
    subst r
    with_reducible apply_assumption
    exact h2
  clear_value r
  split
  · exact Keeps.O.some_eq (endPre_keeps _ _ _ (Keeps.By.fst hr)) (by assumption)
  · with_reducible apply_assumption
    exact Keeps.By.fst hr

theorem outAndEnd_keeps {r0 : State} (s : State) (p : Pkt) (va : Nat) (bs : List Byte) (detail : Nat)
    (h0 : Keeps r0 s) :
    Keeps r0 (outAndEnd s p va bs detail) := by
  unfold outAndEnd
  exact outNow_keeps _ _ _ h0

theorem State.setInst_keeps {r0 : State} (s : State) (i : Nat) (x : InstRec) (h0 : Keeps r0 s) :
    Keeps r0 (State.setInst s i x) := by
  unfold State.setInst
  with_reducible exact Keeps.upd h0 rfl rfl rfl rfl rfl rfl

theorem endQuiesced_keeps {r0 : State} (s : State) (p : Pkt) (h0 : Keeps r0 s) :
    Keeps r0 (endQuiesced s p) := by
  unfold endQuiesced
  extract_lets -underBinder +onlyGivenNames i; clear_value i
  extract_lets -underBinder +onlyGivenNames y; clear_value y
  exact endPlain_keeps _ _ _ _ _ (State.setInst_keeps _ _ _ h0)

theorem flushAll_keeps {r0 : State} (s : State) (h0 : Keeps r0 s) :
    Keeps r0 (flushAll s) := by
  unfold flushAll
  with_reducible apply Keeps.foldl
  · exact h0
  · exact fun _ _ _ => flush_keeps _ _ (Keeps.ite (writeStatus_keeps _ _ (by assumption)) (by assumption))

theorem outWaited_keeps {r0 : State} (s : State) (p : Pkt) (o : PktOut) (h0 : Keeps r0 s) :
    Keeps r0 (outWaited s p o) := by
  unfold outWaited
  exact paceAct_keeps _ _ _ (fun _ _ => outNow_keeps _ _ _ (by assumption)) (State.setPkt_keeps _ _ h0)

theorem carryDma_keeps {r0 : State} (s : State) (q : Nat) (idx : Nat) (code : Nat)
    (pre : State → Pkt → State × PreFail) (eff : State → Pkt → State) (h0 : Keeps r0 s)
    (h1 : ∀ a0 a1, Keeps r0 a0 → Keeps.By Prod.fst r0 (pre a0 a1)) (h2 : ∀ a0 a1, Keeps r0 a0 → Keeps r0
    (eff a0 a1)) :
    Keeps.R r0 (carryDma s q idx code pre eff) := by
  unfold carryDma
  with_reducible apply Keeps.toNext
  split
  · exact h0
  · with_reducible apply paceAct_keeps
    · intro _ _
      with_reducible apply preThen_keeps
      · intro _ _ _
        with_reducible apply_assumption
        assumption
      · intro _ _ _
        with_reducible apply_assumption
        assumption
      · assumption
    · exact h0

theorem carry_keeps {r0 : State} (s : State) (q : Nat) (idx : Nat) (code : Nat)
    (pre : State → Pkt → State × PreFail) (eff : State → Pkt → State) (h0 : Keeps r0 s)
    (h1 : ∀ a0 a1, Keeps r0 a0 → Keeps.By Prod.fst r0 (pre a0 a1)) (h2 : ∀ a0 a1, Keeps r0 a0 → Keeps r0
    (eff a0 a1)) :
    Keeps.R r0 (carry s q idx code pre eff) := by
  unfold carry
  with_reducible apply Keeps.toNext
  split
  · exact h0
  · with_reducible apply preThen_keeps
    · intro _ _ _
      with_reducible apply_assumption
      assumption
    · intro _ _ _
      with_reducible apply_assumption
      assumption
    · exact h0

theorem endErr_keeps {r0 : State} (s : State) (p : Pkt) (x2 : MErr) (h0 : Keeps r0 s) :
    Keeps r0 (endErr s p x2) := by
  unfold endErr
  split
  · exact complete_keeps _ _ _ _ _ h0
  · exact complete_keeps _ _ _ _ _ h0

/-! ### Validate -/

theorem memCheck_keeps {r0 : State} (x1 : List (Nat × Nat × Nat × (List Byte → Bool))) : ∀ (w : Who) (x2 : State),
    Keeps r0 x2 → Keeps.By Prod.fst r0 (memCheck w x1 x2) := by
  induction x1 with
  | nil =>
    intro w x2 h0
    rw [memCheck]
    exact Keeps.toFst h0
  | cons a as ih =>
    intro w x2 h0
    rw [memCheck]
    split
    · extract_lets -underBinder +onlyGivenNames r
      have hr : Keeps.By Prod.fst r0 r := by
        subst r
        exact ih _ _ (Keeps.By.eq_fst (by assumption) (peekBytes_keeps _ _ _ _ h0))
      clear_value r
      exact Keeps.toFst (Keeps.By.fst hr)
    · exact Keeps.toFst (Keeps.By.eq_fst (by assumption) (peekBytes_keeps _ _ _ _ h0))
    · exact ih _ _ (Keeps.By.eq_fst (by assumption) (peekBytes_keeps _ _ _ _ h0))

theorem addrCheck_keeps {r0 : State} (x1 : List (Nat × Nat × Nat × Bool)) : ∀ (w : Who) (x2 : State),
    Keeps r0 x2 → Keeps.By Prod.fst r0 (addrCheck w x1 x2) := by
  induction x1 with
  | nil =>
    intro w x2 h0
    rw [addrCheck]
    exact Keeps.toFst h0
  | cons a as ih =>
    intro w x2 h0
    rw [addrCheck]
    split
    · exact ih _ _ (Keeps.By.eq_fst (by assumption) (rangeOk_keeps _ _ _ _ h0))
    · exact Keeps.toFst (xltRecord_keeps _ _ _ _ _ _ (Keeps.By.eq_fst (by assumption) (rangeOk_keeps _ _ _ _ h0)))

theorem validate_keeps {r0 : State} (s : State) (q : Nat) (size : Nat) (h : List Byte) (ps : List Byte)
    (h0 : Keeps r0 s) :
    Keeps.By Prod.fst r0 (validate s q size h ps) := by
  unfold validate
  extract_lets -underBinder +onlyGivenNames op; clear_value op
  extract_lets -underBinder +onlyGivenNames len; clear_value len
  with_reducible apply Keeps.By.ite
  · with_reducible apply Keeps.toFst
    exact h0
  · split
    · exact Keeps.toFst h0
    · with_reducible apply Keeps.By.ite
      · with_reducible apply Keeps.toFst
        exact h0
      · split
        · with_reducible apply Keeps.By.ite
          · with_reducible apply Keeps.toFst
            exact h0
          · extract_lets -underBinder +onlyGivenNames inst; clear_value inst
            extract_lets -underBinder +onlyGivenNames y; clear_value y
            extract_lets -underBinder +onlyGivenNames w; clear_value w
            split
            · exact Keeps.toFst (Keeps.By.eq_fst (by assumption) (memCheck_keeps _ _ _ h0))
            · split
              · exact Keeps.toFst (Keeps.By.eq_fst (by assumption) (memCheck_keeps _ _ _ h0))
              · split
                · exact Keeps.toFst (Keeps.By.eq_fst (by assumption) (addrCheck_keeps _ _ _ (Keeps.By.eq_fst (by
                    assumption) (memCheck_keeps _ _ _ h0))))
                · exact Keeps.By.ite (Keeps.toFst (Keeps.By.eq_fst (by assumption) (addrCheck_keeps _ _ _
                    (Keeps.By.eq_fst (by assumption) (memCheck_keeps _ _ _ h0))))) (Keeps.toFst (Keeps.By.eq_fst (by
                    assumption) (addrCheck_keeps _ _ _ (Keeps.By.eq_fst (by assumption) (memCheck_keeps _ _ _ h0)))))
        · exact Keeps.toFst h0

/-! ### InstOps -/

theorem notice_keeps {r0 : State} (s : State) (i : Nat) (old : Nat) (new : Nat) (op : Nat) (migrated : Bool)
    (h0 : Keeps r0 s) :
    Keeps r0 (notice s i old new op migrated) := by
  unfold notice
  extract_lets -underBinder +onlyGivenNames pg; clear_value pg
  with_reducible apply Keeps.ite
  · exact h0
  · with_reducible apply Keeps.ite
    · extract_lets -underBinder +onlyGivenNames y; clear_value y
      extract_lets -underBinder +onlyGivenNames n; clear_value n
      extract_lets -underBinder +onlyGivenNames fl; clear_value fl
      extract_lets -underBinder +onlyGivenNames s1
      have hs1 : Keeps r0 s1 := by subst s1; exact physWr_keeps _ _ _ _ (State.setInst_keeps _ _ _ h0)
      clear_value s1
      exact raiseHost_keeps _ _ (State.setF_keeps _ _ _ (State.addWrap_keeps _ _ _ hs1))
    · with_reducible apply State.setF_keeps
      exact h0

theorem setInstState_keeps {r0 : State} (s : State) (i : Nat) (new : Nat) (op : Nat) (h0 : Keeps r0 s) :
    Keeps r0 (setInstState s i new op) := by
  unfold setInstState
  extract_lets -underBinder +onlyGivenNames old; clear_value old
  exact Keeps.ite h0 (notice_keeps _ _ _ _ _ _ (State.setF_keeps _ _ _ h0))

theorem wakeEmpty_keeps {r0 : State} (s : State) (i : Nat) (op : Nat) (h0 : Keeps r0 s) :
    Keeps r0 (wakeEmpty s i op) := by
  unfold wakeEmpty
  exact Keeps.ite (setInstState_keeps _ _ _ _ h0) h0

theorem quiesceThese_keeps {r0 : State} (s : State) (l : List Pkt) (h0 : Keeps r0 s) :
    Keeps r0 (quiesceThese s l) := by
  unfold quiesceThese
  with_reducible apply Keeps.foldl
  · exact h0
  · exact fun _ _ _ => endQuiesced_keeps _ _ (by assumption)

end Sys2Proof.Machine
end

