-- ==== Sys2Proof/Laws/KeepsPackets.lean ====
section
/-! SUPPORT. Every operation over packets, the system, lane and memory opcodes and the operations of jobs leaves the waiting commands alone, draws
free values forward only, and keeps the canonical form of memory, flash, registers and latches: one lemma per operation. -/

namespace Sys2Proof.Machine

set_option linter.unusedVariables false

/-! ### PacketCmds -/

theorem vlogRdSet_keeps {r0 : State} (s : State) (m : BusMaster) (x2 : Option Nat) (h0 : Keeps r0 s) :
    Keeps r0 (vlogRdSet s m x2) := by
  unfold vlogRdSet
  split
  · exact forbid_keeps _ _ _ _ h0
  · exact State.setF_keeps _ _ _ h0

theorem vlogRd_keeps {r0 : State} (s : State) (m : BusMaster) (v : Nat) (h0 : Keeps r0 s) :
    Keeps r0 (vlogRd s m v) := by
  unfold vlogRd
  exact vlogRdSet_keeps _ _ _ h0

theorem guarded_keeps {r0 : State} (s : State) (m : BusMaster) (addr : Nat) (v : Nat) (f : State → State)
    (h0 : Keeps r0 s) (h1 : ∀ a0, Keeps r0 a0 → Keeps r0 (f a0)) :
    Keeps r0 (guarded s m addr v f) := by
  unfold guarded
  split
  · exact h0
  · with_reducible apply Keeps.ite
    · with_reducible apply forbid_keeps
      exact h0
    · with_reducible apply_assumption
      exact h0

theorem enableQueue_keeps {r0 : State} (s : State) (q : Nat) (h0 : Keeps r0 s) :
    Keeps r0 (enableQueue s q) := by
  unfold enableQueue
  extract_lets -underBinder +onlyGivenNames s1
  have hs1 : Keeps r0 s1 := by
    subst s1
    exact State.setF_keeps _ _ _ (State.setF_keeps _ _ _ (State.setF_keeps _ _ _ h0))
  clear_value s1
  extract_lets -underBinder +onlyGivenNames y; subst y
  extract_lets -underBinder +onlyGivenNames s2
  have hs2 : Keeps r0 s2 := by subst s2; exact State.setQueue_keeps _ _ _ (State.setF_keeps _ _ _ hs1)
  clear_value s2
  exact wakeEmpty_keeps _ _ _ (writeStatus_keeps _ _ (paceDrop_keeps _ _ hs2))

theorem qcfgWrite_keeps {r0 : State} (s : State) (m : BusMaster) (q : Nat) (v : Nat) (h0 : Keeps r0 s) :
    Keeps r0 (qcfgWrite s m q v) := by
  unfold qcfgWrite
  extract_lets -underBinder +onlyGivenNames a; clear_value a
  extract_lets -underBinder +onlyGivenNames en; clear_value en
  with_reducible apply Keeps.ite
  · extract_lets -underBinder +onlyGivenNames s1
    have hs1 : Keeps r0 s1 := by subst s1; exact Keeps.ite h0 (forbid_keeps _ _ _ _ h0)
    clear_value s1
    exact Keeps.ite hs1 (State.setF_keeps _ _ _ hs1)
  · with_reducible apply Keeps.ite
    · with_reducible apply forbid_keeps
      exact h0
    · extract_lets -underBinder +onlyGivenNames s1
      have hs1 : Keeps r0 s1 := by subst s1; exact State.setF_keeps _ _ _ (State.setF_keeps _ _ _ h0)
      clear_value s1
      exact Keeps.ite hs1 (Keeps.ite (enableQueue_keeps _ _ hs1) (forbid_keeps _ _ _ _ hs1))

theorem execQueueEnable_keeps {r0 : State} (m : BusMaster) (q : Nat) (v : Word) (s : State) (h0 : Keeps r0 s) :
    Keeps.R r0 (execQueueEnable m q v s) := by
  unfold execQueueEnable
  extract_lets -underBinder +onlyGivenNames y; clear_value y
  exact Keeps.toNext (Keeps.ite (guarded_keeps _ _ _ _ _ (masterDemand_keeps _ _ h0) (fun _ _ => qcfgWrite_keeps _ _
    _ _ (by assumption))) h0)

theorem doorbell_keeps {r0 : State} (s : State) (m : BusMaster) (q : Nat) (d : Nat) (h0 : Keeps r0 s) :
    Keeps r0 (doorbell s m q d) := by
  unfold doorbell
  with_reducible apply Keeps.ite
  · exact h0
  · with_reducible apply Keeps.ite
    · exact h0
    · with_reducible apply Keeps.ite
      · with_reducible apply State.setF_keeps
        exact h0
      · extract_lets -underBinder +onlyGivenNames s1
        have hs1 : Keeps r0 s1 := by subst s1; exact vlog_keeps _ _ _ _ _ _ h0
        clear_value s1
        exact writeStatus_keeps _ _ (stopQueue_keeps _ _ _ hs1)

theorem execDoorbellWrite_keeps {r0 : State} (m : BusMaster) (q : Nat) (v : Word) (s : State) (h0 : Keeps r0 s) :
    Keeps.R r0 (execDoorbellWrite m q v s) := by
  unfold execDoorbellWrite
  exact Keeps.toNext (Keeps.ite (guarded_keeps _ _ _ _ _ (masterDemand_keeps _ _ h0) (fun _ _ => doorbell_keeps _ _ _
    _ (by assumption))) h0)

theorem bindCtx_keeps {r0 : State} (s : State) (p : Pkt) (h0 : Keeps r0 s) :
    Keeps r0 (bindCtx s p) := by
  unfold bindCtx
  extract_lets -underBinder +onlyGivenNames c; clear_value c
  with_reducible apply Keeps.ite
  · extract_lets -underBinder +onlyGivenNames y; clear_value y
    extract_lets -underBinder +onlyGivenNames t
    have ht : Keeps r0 t := by subst t; with_reducible exact Keeps.upd h0 rfl rfl rfl rfl rfl rfl
    clear_value t
    exact State.setF_keeps _ _ _ (State.setF_keeps _ _ _ ht)
  · exact h0

theorem failCheck_keeps {r0 : State} (s : State) (p : Pkt) (check : Nat) (off : Nat) (fault : Nat) (h0 : Keeps r0 s) :
    Keeps r0 (failCheck s p check off fault) := by
  unfold failCheck
  extract_lets -underBinder +onlyGivenNames st; clear_value st
  extract_lets -underBinder +onlyGivenNames log
  have hlog : ∀ a0, Keeps r0 (log a0) := by subst log; exact fun _ => vlog_keeps _ _ _ _ _ _ h0
  clear_value log
  split
  · exact endPlain_keeps _ _ _ _ _ h0
  · exact endPlain_keeps _ _ _ _ _ h0
  · with_reducible apply endPlain_keeps
    with_reducible apply_assumption
  · with_reducible apply endPlain_keeps
    with_reducible apply_assumption
  · with_reducible apply endPlain_keeps
    with_reducible apply_assumption

theorem afterCheck_keeps {r0 : State} (s : State) (p : Pkt) (x2 : Verdict) (h0 : Keeps r0 s) :
    Keeps r0 (afterCheck s p x2) := by
  unfold afterCheck
  split
  · exact failCheck_keeps _ _ _ _ _ h0
  · exact endPlain_keeps _ _ _ _ _ h0
  · extract_lets -underBinder +onlyGivenNames s0
    have hs0 : Keeps r0 s0 := by subst s0; exact bindCtx_keeps _ _ h0
    clear_value s0
    extract_lets -underBinder +onlyGivenNames s1
    have hs1 : Keeps r0 s1 := by subst s1; exact Keeps.ite (writeReply_keeps _ _ _ hs0) hs0
    clear_value s1
    extract_lets -underBinder +onlyGivenNames i; clear_value i
    exact Keeps.ite (endQuiesced_keeps _ _ hs1) hs1

theorem execVlogRdWrite_keeps {r0 : State} (m : BusMaster) (v : Word) (s : State) (h0 : Keeps r0 s) :
    Keeps.R r0 (execVlogRdWrite m v s) := by
  unfold execVlogRdWrite
  exact Keeps.toNext (guarded_keeps _ _ _ _ _ (masterDemand_keeps _ _ h0) (fun _ _ => vlogRd_keeps _ _ _ (by
    assumption)))

theorem slotFault_keeps {r0 : State} (s : State) (q : Nat) (va : Nat) (h0 : Keeps r0 s) :
    Keeps r0 (slotFault s q va) := by
  unfold slotFault
  exact writeStatus_keeps _ _ (stopQueue_keeps _ _ _ (vlog_keeps _ _ _ _ _ _ h0))

theorem takePacket_keeps {r0 : State} (s : State) (q : Nat) (va : Nat) (h : List Byte) (ps : List Byte)
    (h0 : Keeps r0 s) :
    Keeps r0 (takePacket s q va h ps) := by
  unfold takePacket
  extract_lets -underBinder +onlyGivenNames y; subst y
  extract_lets -underBinder +onlyGivenNames p; clear_value p
  extract_lets -underBinder +onlyGivenNames s1
  have hs1 : Keeps r0 s1 := by
    subst s1
    with_reducible exact writeStatus_keeps _ _ (State.setQueue_keeps _ _ _ (Keeps.upd h0 rfl rfl rfl rfl rfl rfl))
  clear_value s1
  extract_lets -underBinder +onlyGivenNames r
  have hr : Keeps.By Prod.fst r0 r := by subst r; exact validate_keeps _ _ _ _ _ hs1
  clear_value r
  exact afterCheck_keeps _ _ _ (Keeps.By.fst hr)

theorem consume_keeps {r0 : State} (s : State) (q : Nat) (h0 : Keeps r0 s) :
    Keeps r0 (consume s q) := by
  unfold consume
  extract_lets -underBinder +onlyGivenNames va; clear_value va
  extract_lets -underBinder +onlyGivenNames w; clear_value w
  split
  · exact slotFault_keeps _ _ _ (Keeps.By.eq_fst (by assumption) (dmaRead_keeps _ _ _ _ (demand_keeps _ _ h0)))
  · extract_lets -underBinder +onlyGivenNames len; clear_value len
    with_reducible apply Keeps.ite
    · with_reducible apply takePacket_keeps
      with_reducible refine Keeps.By.eq_fst (by assumption) ?_
      with_reducible apply dmaRead_keeps
      with_reducible apply demand_keeps
      exact h0
    · split
      · exact slotFault_keeps _ _ _ (Keeps.By.eq_fst (by assumption) (dmaRead_keeps _ _ _ _ (Keeps.By.eq_fst (by
          assumption) (dmaRead_keeps _ _ _ _ (demand_keeps _ _ h0)))))
      · exact takePacket_keeps _ _ _ _ _ (Keeps.By.eq_fst (by assumption) (dmaRead_keeps _ _ _ _ (Keeps.By.eq_fst (by
          assumption) (dmaRead_keeps _ _ _ _ (demand_keeps _ _ h0)))))

theorem execPacketConsume_keeps {r0 : State} (q : Nat) (s : State) (h0 : Keeps r0 s) :
    Keeps.R r0 (execPacketConsume q s) := by
  unfold execPacketConsume
  exact Keeps.toNext (Keeps.ite (paceAct_keeps _ _ _ (fun _ _ => consume_keeps _ _ (by assumption)) h0) h0)

theorem execQueueDisable_keeps {r0 : State} (m : BusMaster) (q : Nat) (v : Word) (s : State) (h0 : Keeps r0 s) :
    Keeps.R r0 (execQueueDisable m q v s) := by
  unfold execQueueDisable
  extract_lets -underBinder +onlyGivenNames y; clear_value y
  exact Keeps.toNext (Keeps.ite (guarded_keeps _ _ _ _ _ (masterDemand_keeps _ _ h0) (fun _ _ => qcfgWrite_keeps _ _
    _ _ (by assumption))) h0)

/-! ### SystemCmds -/

theorem putEvent_keeps {r0 : State} (s : State) (i : Nat) (e : Nat) (b : Bool) (h0 : Keeps r0 s) :
    Keeps r0 (putEvent s i e b) := by
  unfold putEvent
  exact State.setInst_keeps _ _ _ h0

theorem execSysWait_keeps {r0 : State} (q : Nat) (idx : Nat) (s : State) (h0 : Keeps r0 s) :
    Keeps.R r0 (execSysWait q idx s) := by
  unfold execSysWait
  with_reducible apply carry_keeps
  · exact h0
  · intro _ _ _
    with_reducible apply noPre_keeps
    assumption
  · intro _ _ _
    extract_lets -underBinder +onlyGivenNames i; clear_value i
    extract_lets -underBinder +onlyGivenNames e; clear_value e
    exact Keeps.ite (complete_keeps _ _ _ _ _ (Keeps.ite (putEvent_keeps _ _ _ _ (by assumption)) (by assumption)))
      (State.setPkt_keeps _ _ (by assumption))

theorem execSysInfo_keeps {r0 : State} (q : Nat) (idx : Nat) (s : State) (h0 : Keeps r0 s) :
    Keeps.R r0 (execSysInfo q idx s) := by
  unfold execSysInfo
  exact carryDma_keeps _ _ _ _ _ _ h0 (fun _ _ _ => noPre_keeps _ _ (by assumption)) (fun _ _ _ => outAndEnd_keeps _
    _ _ _ _ (by assumption))

theorem preRollback_keeps {r0 : State} (s : State) (p : Pkt) (h0 : Keeps r0 s) :
    Keeps.By Prod.fst r0 (preRollback s p) := by
  unfold preRollback
  exact Keeps.toFst h0

theorem preFlashWrite_keeps {r0 : State} (s : State) (p : Pkt) (h0 : Keeps r0 s) :
    Keeps.By Prod.fst r0 (preFlashWrite s p) := by
  unfold preFlashWrite
  extract_lets -underBinder +onlyGivenNames a; clear_value a
  extract_lets -underBinder +onlyGivenNames n; clear_value n
  extract_lets -underBinder +onlyGivenNames slot; clear_value slot
  exact Keeps.toFst h0

theorem flashWrite_keeps {r0 : State} (s : State) (p : Pkt) (bs : List Byte) (bad : Option Nat) (h0 : Keeps r0 s) :
    Keeps r0 (flashWrite s p bs bad) := by
  unfold flashWrite
  extract_lets -underBinder +onlyGivenNames a; clear_value a
  split
  · with_reducible apply Keeps.ite
    · extract_lets -underBinder +onlyGivenNames f
      have hf : Keeps.By Prod.snd r0 f := by subst f; exact State.fresh_keeps (putFlash_keeps _ _ h0)
      clear_value f
      exact complete_keeps _ _ _ _ _ (putFlash_keeps _ _ (Keeps.By.snd hf))
    · with_reducible apply complete_keeps
      with_reducible apply putFlash_keeps
      exact h0
  · exact complete_keeps _ _ _ _ _ (putFlash_keeps _ _ h0)

theorem execSysFlashWrite_keeps {r0 : State} (q : Nat) (idx : Nat) (badSector : Option Nat) (s : State)
    (h0 : Keeps r0 s) :
    Keeps.R r0 (execSysFlashWrite q idx badSector s) := by
  unfold execSysFlashWrite
  with_reducible apply carryDma_keeps
  · exact h0
  · intro _ _ _
    with_reducible apply preFlashWrite_keeps
    assumption
  · intro _ _ _
    split
    · exact flashWrite_keeps _ _ _ _ (Keeps.By.eq_fst (by assumption) (dmaRead_keeps _ _ _ _ (by assumption)))
    · exact endErr_keeps _ _ _ (Keeps.By.eq_fst (by assumption) (dmaRead_keeps _ _ _ _ (by assumption)))

theorem signalEvent_keeps {r0 : State} (s : State) (i : Nat) (e : Nat) (h0 : Keeps r0 s) :
    Keeps r0 (signalEvent s i e) := by
  unfold signalEvent
  extract_lets -underBinder +onlyGivenNames ws; clear_value ws
  extract_lets -underBinder +onlyGivenNames s1
  have hs1 : Keeps r0 s1 := by
    subst s1
    with_reducible apply Keeps.foldl
    · exact putEvent_keeps _ _ _ _ h0
    · exact fun _ _ _ => complete_keeps _ _ _ _ _ (by assumption)
  clear_value s1
  exact Keeps.ite (putEvent_keeps _ _ _ _ hs1) hs1

theorem execSysSignal_keeps {r0 : State} (q : Nat) (idx : Nat) (s : State) (h0 : Keeps r0 s) :
    Keeps.R r0 (execSysSignal q idx s) := by
  unfold execSysSignal
  exact carry_keeps _ _ _ _ _ _ h0 (fun _ _ _ => noPre_keeps _ _ (by assumption)) (fun _ _ _ => signalEvent_keeps _ _
    _ (complete_keeps _ _ _ _ _ (by assumption)))

theorem execSysFlashCheck_keeps {r0 : State} (q : Nat) (idx : Nat) (xspiError : Bool) (s : State) (h0 : Keeps r0 s) :
    Keeps.R r0 (execSysFlashCheck q idx xspiError s) := by
  unfold execSysFlashCheck
  exact carry_keeps _ _ _ _ _ _ h0 (fun _ _ _ => noPre_keeps _ _ (by assumption)) (fun _ _ _ => complete_keeps _ _ _
    _ _ (by assumption))

theorem execSysRollback_keeps {r0 : State} (q : Nat) (idx : Nat) (s : State) (h0 : Keeps r0 s) :
    Keeps.R r0 (execSysRollback q idx s) := by
  unfold execSysRollback
  with_reducible apply carry_keeps
  · exact h0
  · intro _ _ _
    with_reducible apply preRollback_keeps
    assumption
  · intro _ _ _
    extract_lets -underBinder +onlyGivenNames y; subst y
    extract_lets -underBinder +onlyGivenNames t1
    have ht1 : Keeps r0 t1 := by subst t1; with_reducible exact Keeps.upd (by assumption) rfl rfl rfl rfl rfl rfl
    clear_value t1
    exact complete_keeps _ _ _ _ _ ht1

theorem preSysTime_keeps {r0 : State} (s : State) (p : Pkt) (h0 : Keeps r0 s) :
    Keeps.By Prod.fst r0 (preSysTime s p) := by
  unfold preSysTime
  exact Keeps.toFst h0

theorem execSysTime_keeps {r0 : State} (q : Nat) (idx : Nat) (s : State) (h0 : Keeps r0 s) :
    Keeps.R r0 (execSysTime q idx s) := by
  unfold execSysTime
  with_reducible apply carry_keeps
  · exact h0
  · intro _ _ _
    with_reducible apply preSysTime_keeps
    assumption
  · intro _ _ _
    extract_lets -underBinder +onlyGivenNames t1
    have ht1 : Keeps r0 t1 := by subst t1; exact State.setF_keeps _ _ _ (by assumption)
    clear_value t1
    extract_lets -underBinder +onlyGivenNames t2
    have ht2 : Keeps r0 t2 := by subst t2; exact Keeps.ite (rateAdjust_keeps _ _ ht1) ht1
    clear_value t2
    exact complete_keeps _ _ _ _ _ ht2

theorem execSysNop_keeps {r0 : State} (q : Nat) (idx : Nat) (s : State) (h0 : Keeps r0 s) :
    Keeps.R r0 (execSysNop q idx s) := by
  unfold execSysNop
  exact carry_keeps _ _ _ _ _ _ h0 (fun _ _ _ => noPre_keeps _ _ (by assumption)) (fun _ _ _ => complete_keeps _ _ _
    _ _ (by assumption))

/-! ### LaneOps -/

theorem State.setLane_keeps {r0 : State} (s : State) (l : Nat) (r : Option LaneRec) (h0 : Keeps r0 s) :
    Keeps r0 (State.setLane s l r) := by
  unfold State.setLane
  with_reducible exact Keeps.upd h0 rfl rfl rfl rfl rfl rfl

theorem paceReset_keeps {r0 : State} (s : State) (l : Nat) (h0 : Keeps r0 s) :
    Keeps r0 (paceReset s l) := by
  unfold paceReset
  extract_lets -underBinder +onlyGivenNames s1
  have hs1 : Keeps r0 s1 := by
    subst s1
    with_reducible apply Keeps.foldl
    · exact h0
    · intro _ _ _
      extract_lets -underBinder +onlyGivenNames k; clear_value k
      exact State.setF_keeps _ _ _ (State.setF_keeps _ _ _ (State.setF_keeps _ _ _ (by assumption)))
  clear_value s1
  extract_lets -underBinder +onlyGivenNames s2
  have hs2 : Keeps r0 s2 := by
    subst s2
    exact State.setF_keeps _ _ _ (State.setF_keeps _ _ _ (State.setF_keeps _ _ _ hs1))
  clear_value s2
  extract_lets -underBinder +onlyGivenNames s3
  have hs3 : Keeps r0 s3 := by subst s3; exact State.setF_keeps _ _ _ (State.setF_keeps _ _ _ hs2)
  clear_value s3
  extract_lets -underBinder +onlyGivenNames mine; clear_value mine
  with_reducible exact Keeps.upd hs3 rfl rfl rfl rfl rfl rfl

theorem laneRegs_keeps {r0 : State} (s : State) (l : Nat) (h0 : Keeps r0 s) :
    Keeps r0 (laneRegs s l) := by
  unfold laneRegs
  split
  · extract_lets -underBinder +onlyGivenNames s1
    have hs1 : Keeps r0 s1 := by subst s1; exact State.setF_keeps _ _ _ (State.setF_keeps _ _ _ h0)
    clear_value s1
    exact State.setF_keeps _ _ _ (State.setF_keeps _ _ _ (State.setF_keeps _ _ _ (State.setF_keeps _ _ _ hs1)))
  · extract_lets -underBinder +onlyGivenNames s1
    have hs1 : Keeps r0 s1 := by subst s1; exact State.setF_keeps _ _ _ (State.setF_keeps _ _ _ h0)
    clear_value s1
    exact State.setF_keeps _ _ _ (State.setF_keeps _ _ _ (State.setF_keeps _ _ _ (State.setF_keeps _ _ _ hs1)))

theorem qsClear_keeps {r0 : State} (s : State) (l : Nat) (mask : Nat) (h0 : Keeps r0 s) :
    Keeps r0 (qsClear s l mask) := by
  unfold qsClear
  with_reducible apply Keeps.foldl
  · exact h0
  · intro _ _ _
    extract_lets -underBinder +onlyGivenNames i; clear_value i
    exact State.setF_keeps _ _ _ (State.setF_keeps _ _ _ (State.setF_keeps _ _ _ (State.setF_keeps _ _ _
      (State.setF_keeps _ _ _ (by assumption)))))

theorem dropXlt_keeps {r0 : State} (s : State) (i : Nat) (va : Nat) (len : Nat) (h0 : Keeps r0 s) :
    Keeps r0 (dropXlt s i va len) := by
  unfold dropXlt
  with_reducible exact Keeps.upd h0 rfl rfl rfl rfl rfl rfl

theorem sharedRegs_keeps {r0 : State} (s : State) (h0 : Keeps r0 s) :
    Keeps r0 (sharedRegs s) := by
  unfold sharedRegs
  exact State.setF_keeps _ _ _ (State.setF_keeps _ _ _ h0)

/-! ### MemCmds -/

theorem execLaneQuery_keeps {r0 : State} (q : Nat) (idx : Nat) (s : State) (h0 : Keeps r0 s) :
    Keeps.R r0 (execLaneQuery q idx s) := by
  unfold execLaneQuery
  exact carryDma_keeps _ _ _ _ _ _ h0 (fun _ _ _ => noPre_keeps _ _ (by assumption)) (fun _ _ _ => outAndEnd_keeps _
    _ _ _ _ (by assumption))

theorem preMemRoot_keeps {r0 : State} (s : State) (p : Pkt) (h0 : Keeps r0 s) :
    Keeps.By Prod.fst r0 (preMemRoot s p) := by
  unfold preMemRoot
  exact Keeps.toFst h0

theorem newKey_keeps {r0 : State} (s : State) (i : Nat) (h0 : Keeps r0 s) :
    Keeps r0 (newKey s i) := by
  unfold newKey
  with_reducible apply Keeps.ite
  · extract_lets -underBinder +onlyGivenNames t
    have ht : Keeps r0 t := by subst t; exact Keeps.By.snd (State.fresh_keeps h0)
    clear_value t
    with_reducible exact Keeps.upd ht rfl rfl rfl rfl rfl rfl
  · exact h0

theorem setRoot_keeps {r0 : State} (s : State) (i : Nat) (fmt : Nat) (root : Nat) (op : Nat) (h0 : Keeps r0 s) :
    Keeps r0 (setRoot s i fmt root op) := by
  unfold setRoot
  extract_lets -underBinder +onlyGivenNames s1
  have hs1 : Keeps r0 s1 := by subst s1; exact State.setF_keeps _ _ _ (State.setF_keeps _ _ _ h0)
  clear_value s1
  extract_lets -underBinder +onlyGivenNames y; clear_value y
  extract_lets -underBinder +onlyGivenNames s2
  have hs2 : Keeps r0 s2 := by
    subst s2
    exact dropXlt_keeps _ _ _ _ (State.setInst_keeps _ _ _ (State.setF_keeps _ _ _ hs1))
  clear_value s2
  exact Keeps.ite hs2 (wakeEmpty_keeps _ _ _ (State.setF_keeps _ _ _ (newKey_keeps _ _ hs2)))

theorem execMemRoot_keeps {r0 : State} (q : Nat) (idx : Nat) (s : State) (h0 : Keeps r0 s) :
    Keeps.R r0 (execMemRoot q idx s) := by
  unfold execMemRoot
  exact carry_keeps _ _ _ _ _ _ h0 (fun _ _ _ => preMemRoot_keeps _ _ (by assumption)) (fun _ _ _ => complete_keeps _
    _ _ _ _ (State.addWrap_keeps _ _ _ (setRoot_keeps _ _ _ _ _ (by assumption))))

theorem bayLoad_keeps {r0 : State} (s : State) (p : Pkt) (h0 : Keeps r0 s) :
    Keeps r0 (bayLoad s p) := by
  unfold bayLoad
  extract_lets -underBinder +onlyGivenNames w; clear_value w
  extract_lets -underBinder +onlyGivenNames n; clear_value n
  split
  · exact endErr_keeps _ _ _ (Keeps.By.eq_fst (by assumption) (xlateAll_keeps _ _ _ _ h0))
  · split
    · exact endErr_keeps _ _ _ (Keeps.By.eq_fst (by assumption) (readLands_keeps _ _ _ (Keeps.By.eq_fst (by
        assumption) (xlateAll_keeps _ _ _ _ h0))))
    · extract_lets -underBinder +onlyGivenNames base; clear_value base
      extract_lets -underBinder +onlyGivenNames s3
      have hs3 : Keeps r0 s3 := by
        subst s3
        exact wrMem_keeps _ _ _ _ (Keeps.By.eq_fst (by assumption) (readLands_keeps _ _ _ (Keeps.By.eq_fst (by
          assumption) (xlateAll_keeps _ _ _ _ h0))))
      clear_value s3
      extract_lets -underBinder +onlyGivenNames s4
      have hs4 : Keeps r0 s4 := by
        subst s4
        with_reducible exact Keeps.ite (Keeps.upd hs3 rfl rfl rfl rfl rfl rfl) hs3
      clear_value s4
      exact complete_keeps _ _ _ _ _ hs4

theorem preParamLane_keeps {r0 : State} (s : State) (p : Pkt) (h0 : Keeps r0 s) :
    Keeps.By Prod.fst r0 (preParamLane s p) := by
  unfold preParamLane
  exact Keeps.toFst h0

theorem execMemPace_keeps {r0 : State} (q : Nat) (idx : Nat) (s : State) (h0 : Keeps r0 s) :
    Keeps.R r0 (execMemPace q idx s) := by
  unfold execMemPace
  with_reducible apply carry_keeps
  · exact h0
  · intro _ _ _
    with_reducible apply preParamLane_keeps
    assumption
  · intro _ _ _
    extract_lets -underBinder +onlyGivenNames l; clear_value l
    extract_lets -underBinder +onlyGivenNames bs; clear_value bs
    extract_lets -underBinder +onlyGivenNames keep; clear_value keep
    with_reducible exact complete_keeps _ _ _ _ _ (Keeps.upd (by assumption) rfl rfl rfl rfl rfl rfl)

theorem preLaneConfig_keeps {r0 : State} (s : State) (p : Pkt) (h0 : Keeps r0 s) :
    Keeps.By Prod.fst r0 (preLaneConfig s p) := by
  unfold preLaneConfig
  extract_lets -underBinder +onlyGivenNames l; clear_value l
  extract_lets -underBinder +onlyGivenNames others; clear_value others
  extract_lets -underBinder +onlyGivenNames free; clear_value free
  extract_lets -underBinder +onlyGivenNames bb; clear_value bb
  extract_lets -underBinder +onlyGivenNames bl; clear_value bl
  exact Keeps.By.ite (Keeps.toFst h0) (Keeps.toFst h0)

theorem laneDissolve_keeps {r0 : State} (s : State) (l : Nat) (h0 : Keeps r0 s) :
    Keeps r0 (laneDissolve s l) := by
  unfold laneDissolve
  split
  · exact h0
  · extract_lets -underBinder +onlyGivenNames s1
    have hs1 : Keeps r0 s1 := by subst s1; exact State.setLane_keeps _ _ _ (cacheFlushWays_keeps _ _ h0)
    clear_value s1
    with_reducible exact sharedRegs_keeps _ (laneRegs_keeps _ _ (paceReset_keeps _ _ (Keeps.upd hs1 rfl rfl rfl rfl
                     rfl rfl)))

theorem laneZero_keeps {r0 : State} (s : State) (r : LaneRec) (h0 : Keeps r0 s) :
    Keeps r0 (laneZero s r) := by
  unfold laneZero
  extract_lets -underBinder +onlyGivenNames s1
  have hs1 : Keeps r0 s1 := by
    subst s1
    with_reducible apply Keeps.foldl
    · exact h0
    · exact fun _ _ _ => zeroFill_keeps _ _ (by assumption)
  clear_value s1
  exact zeroFill_keeps _ _ hs1

theorem laneDefine_keeps {r0 : State} (s : State) (p : Pkt) (h0 : Keeps r0 s) :
    Keeps r0 (laneDefine s p) := by
  unfold laneDefine
  extract_lets -underBinder +onlyGivenNames l; clear_value l
  extract_lets -underBinder +onlyGivenNames r; clear_value r
  extract_lets -underBinder +onlyGivenNames s1
  have hs1 : Keeps r0 s1 := by subst s1; exact laneZero_keeps _ _ (cacheFlushWays_keeps _ _ h0)
  clear_value s1
  exact sharedRegs_keeps _ (laneRegs_keeps _ _ (qsClear_keeps _ _ _ (paceReset_keeps _ _ (State.setLane_keeps _ _ _
    hs1))))

theorem execLaneConfig_keeps {r0 : State} (q : Nat) (idx : Nat) (s : State) (h0 : Keeps r0 s) :
    Keeps.R r0 (execLaneConfig q idx s) := by
  unfold execLaneConfig
  exact carry_keeps _ _ _ _ _ _ h0 (fun _ _ _ => preLaneConfig_keeps _ _ (by assumption)) (fun _ _ _ =>
    complete_keeps _ _ _ _ _ (Keeps.ite (laneDissolve_keeps _ _ (by assumption)) (laneDefine_keeps _ _ (by
    assumption))))

theorem preBayLoad_keeps {r0 : State} (s : State) (p : Pkt) (h0 : Keeps r0 s) :
    Keeps.By Prod.fst r0 (preBayLoad s p) := by
  unfold preBayLoad
  extract_lets -underBinder +onlyGivenNames bay; clear_value bay
  extract_lets -underBinder +onlyGivenNames held; clear_value held
  with_reducible apply Keeps.By.ite
  · with_reducible apply Keeps.toFst
    exact h0
  · split
    · exact Keeps.toFst (Keeps.By.eq_fst (by assumption) (xlateAll_keeps _ _ _ _ h0))
    · exact Keeps.toFst (Keeps.By.eq_fst (by assumption) (xlateAll_keeps _ _ _ _ h0))
    · exact Keeps.toFst (Keeps.By.eq_fst (by assumption) (xlateAll_keeps _ _ _ _ h0))

theorem execMemBayLoad_keeps {r0 : State} (q : Nat) (idx : Nat) (s : State) (h0 : Keeps r0 s) :
    Keeps.R r0 (execMemBayLoad q idx s) := by
  unfold execMemBayLoad
  with_reducible exact carryDma_keeps _ _ _ _ _ _ h0 (fun _ _ _ => preBayLoad_keeps _ _ (by assumption)) (fun _ _ _
                   => bayLoad_keeps _ _ (Keeps.ite (Keeps.upd (by assumption) rfl rfl rfl rfl rfl rfl) (by
                   assumption)))

theorem copyAliased_keeps {r0 : State} (s : State) (dst : List (Land × Nat)) (src : List (Land × Nat))
    (h0 : Keeps r0 s) :
    Keeps r0 (copyAliased s dst src) := by
  unfold copyAliased
  split
  · exact h0
  · extract_lets -underBinder +onlyGivenNames f
    have hf : Keeps.By Prod.snd r0 f := by subst f; exact State.fresh_keeps h0
    clear_value f
    with_reducible apply Keeps.foldl
    · exact Keeps.By.snd hf
    · exact fun _ _ _ => wrMem_keeps _ _ _ _ (by assumption)

theorem preMemCopy_keeps {r0 : State} (s : State) (p : Pkt) (h0 : Keeps r0 s) :
    Keeps.By Prod.fst r0 (preMemCopy s p) := by
  unfold preMemCopy
  exact Keeps.toFst h0

theorem undefinedRange_keeps {r0 : State} (s : State) (w : Who) (va : Nat) (n : Nat) (h0 : Keeps r0 s) :
    Keeps r0 (undefinedRange s w va n) := by
  unfold undefinedRange
  extract_lets -underBinder +onlyGivenNames f
  have hf : Keeps.By Prod.snd r0 f := by subst f; exact State.fresh_keeps h0
  clear_value f
  with_reducible apply Keeps.foldl
  · exact Keeps.By.snd hf
  · intro _ _ _
    split
    · exact wrMem_keeps _ _ _ _ (Keeps.By.eq_fst (by assumption) (xlate_keeps _ _ _ _ (by assumption)))
    · exact Keeps.By.eq_fst (by assumption) (xlate_keeps _ _ _ _ (by assumption))

theorem memFill_keeps {r0 : State} (s : State) (p : Pkt) (n : Nat) (h0 : Keeps r0 s) :
    Keeps r0 (memFill s p n) := by
  unfold memFill
  extract_lets -underBinder +onlyGivenNames w; clear_value w
  split
  · exact complete_keeps _ _ _ _ _ (Keeps.By.eq_fst (by assumption) (dmaWrite_keeps _ _ _ _ h0))
  · exact endErr_keeps _ _ _ (undefinedRange_keeps _ _ _ _ (Keeps.By.eq_fst (by assumption) (dmaWrite_keeps _ _ _ _
      h0)))

theorem memCopy_keeps {r0 : State} (s : State) (p : Pkt) (h0 : Keeps r0 s) :
    Keeps r0 (memCopy s p) := by
  unfold memCopy
  extract_lets -underBinder +onlyGivenNames w; clear_value w
  extract_lets -underBinder +onlyGivenNames n; clear_value n
  extract_lets -underBinder +onlyGivenNames undef
  have hundef : ∀ a0 a1, Keeps r0 a0 → Keeps r0 (undef a0 a1) := by
    subst undef
    exact fun _ _ _ => endErr_keeps _ _ _ (undefinedRange_keeps _ _ _ _ (by assumption))
  clear_value undef
  with_reducible apply Keeps.ite
  · with_reducible apply memFill_keeps
    exact h0
  · split
    · with_reducible apply_assumption
      exact Keeps.By.eq_fst (by assumption) (xlateAll_keeps _ _ _ _ h0)
    · split
      · with_reducible apply_assumption
        exact Keeps.By.eq_fst (by assumption) (readLands_keeps _ _ _ (Keeps.By.eq_fst (by assumption) (xlateAll_keeps
          _ _ _ _ h0)))
      · split
        · with_reducible apply_assumption
          exact Keeps.By.eq_fst (by assumption) (xlateAll_keeps _ _ _ _ (Keeps.By.eq_fst (by assumption)
            (readLands_keeps _ _ _ (Keeps.By.eq_fst (by assumption) (xlateAll_keeps _ _ _ _ h0)))))
        · exact complete_keeps _ _ _ _ _ (copyAliased_keeps _ _ _ (writeLands_keeps _ _ _ _ (Keeps.By.eq_fst (by
            assumption) (xlateAll_keeps _ _ _ _ (Keeps.By.eq_fst (by assumption) (readLands_keeps _ _ _
            (Keeps.By.eq_fst (by assumption) (xlateAll_keeps _ _ _ _ h0))))))))

theorem execMemCopy_keeps {r0 : State} (q : Nat) (idx : Nat) (s : State) (h0 : Keeps r0 s) :
    Keeps.R r0 (execMemCopy q idx s) := by
  unfold execMemCopy
  exact carryDma_keeps _ _ _ _ _ _ h0 (fun _ _ _ => preMemCopy_keeps _ _ (by assumption)) (fun _ _ _ => memCopy_keeps
    _ _ (by assumption))

theorem preInvalidate_keeps {r0 : State} (s : State) (p : Pkt) (h0 : Keeps r0 s) :
    Keeps.By Prod.fst r0 (preInvalidate s p) := by
  unfold preInvalidate
  exact Keeps.toFst h0

theorem execMemInvalidate_keeps {r0 : State} (q : Nat) (idx : Nat) (s : State) (h0 : Keeps r0 s) :
    Keeps.R r0 (execMemInvalidate q idx s) := by
  unfold execMemInvalidate
  exact carry_keeps _ _ _ _ _ _ h0 (fun _ _ _ => preInvalidate_keeps _ _ (by assumption)) (fun _ _ _ =>
    complete_keeps _ _ _ _ _ (State.addWrap_keeps _ _ _ (dropXlt_keeps _ _ _ _ (by assumption))))

/-! ### JobOps -/

theorem State.setTile_keeps {r0 : State} (s : State) (t : Nat) (r : TileRec) (h0 : Keeps r0 s) :
    Keeps r0 (State.setTile s t r) := by
  unfold State.setTile
  with_reducible exact Keeps.upd h0 rfl rfl rfl rfl rfl rfl

theorem State.setJob_keeps {r0 : State} (s : State) (j : Job) (h0 : Keeps r0 s) :
    Keeps r0 (State.setJob s j) := by
  unfold State.setJob
  with_reducible exact Keeps.upd h0 rfl rfl rfl rfl rfl rfl

theorem seenAgain_keeps {r0 : State} (s : State) (j : Job) (h0 : Keeps r0 s) :
    Keeps r0 (seenAgain s j) := by
  unfold seenAgain
  exact Keeps.ite (State.setJob_keeps _ _ h0) h0

theorem updLag_keeps {r0 : State} (s : State) (h0 : Keeps r0 s) :
    Keeps r0 (updLag s) := by
  unfold updLag
  extract_lets -underBinder +onlyGivenNames c; clear_value c
  extract_lets -underBinder +onlyGivenNames f; clear_value f
  exact State.setF_keeps _ _ _ h0

theorem freeTile_keeps {r0 : State} (s : State) (t : Nat) (h0 : Keeps r0 s) :
    Keeps r0 (freeTile s t) := by
  unfold freeTile
  exact paceDrop_keeps _ _ (State.wr_keeps _ _ (State.setTile_keeps _ _ _ h0))

theorem engineShare_keeps {r0 : State} (add : Nat → Nat → State → State) (n : Nat) (j : Job) (s : State)
    (h0 : ∀ a0 a1 a2, Keeps r0 a2 → Keeps r0 (add a0 a1 a2)) (h1 : Keeps r0 s) :
    Keeps r0 (engineShare add n j s) := by
  unfold engineShare
  split
  · extract_lets -underBinder +onlyGivenNames f
    have hf : Keeps.By Prod.snd r0 f := by subst f; exact State.fresh_keeps h1
    clear_value f
    extract_lets -underBinder +onlyGivenNames k; clear_value k
    with_reducible apply_assumption
    with_reducible apply_assumption
    exact Keeps.By.snd hf
  · with_reducible apply_assumption
    exact h1

theorem progress_keeps {r0 : State} (s : State) (q : Nat) (idx : Nat) (h0 : Keeps r0 s) :
    Keeps r0 (progress s q idx) := by
  unfold progress
  split
  · exact State.setJob_keeps _ _ h0
  · exact h0

theorem restoreCkpt_keeps {r0 : State} (s : State) (j : Job) (h0 : Keeps r0 s) :
    Keeps r0 (restoreCkpt s j) := by
  unfold restoreCkpt
  with_reducible apply poisonAll_keeps
  with_reducible apply Keeps.foldl
  · exact h0
  · exact fun _ _ _ => physWr_keeps _ _ _ _ (by assumption)

theorem energyAdd_keeps {r0 : State} (s : State) (q : Nat) (idx : Nat) (k : Nat) (n : Nat) (h0 : Keeps r0 s) :
    Keeps r0 (energyAdd s q idx k n) := by
  unfold energyAdd
  split
  · exact State.setJob_keeps _ _ h0
  · exact h0

theorem engineWaits_keeps {r0 : State} (j : Job) (s : State) (h0 : Keeps r0 s) :
    Keeps r0 (engineWaits j s) := by
  unfold engineWaits
  with_reducible apply Keeps.foldl
  · exact h0
  · intro _ _ _
    extract_lets -underBinder +onlyGivenNames f
    have hf : Keeps.By Prod.snd r0 f := by subst f; exact State.fresh_keeps (by assumption)
    clear_value f
    exact State.addSat_keeps _ _ _ (Keeps.By.snd hf)

theorem buildCount_keeps {r0 : State} (s : State) (j : Job) (h0 : Keeps r0 s) :
    Keeps r0 (buildCount s j) := by
  unfold buildCount
  extract_lets -underBinder +onlyGivenNames a
  have ha : Keeps.By Prod.snd r0 a := by subst a; exact State.fresh_keeps h0
  clear_value a
  extract_lets -underBinder +onlyGivenNames b
  have hb : Keeps.By Prod.snd r0 b := by subst b; exact State.fresh_keeps (Keeps.By.snd ha)
  clear_value b
  extract_lets -underBinder +onlyGivenNames s1
  have hs1 : Keeps r0 s1 := by
    subst s1
    exact engineShare_keeps _ _ _ _ (fun _ _ _ _ => State.addWrap_keeps _ _ _ (by assumption)) (Keeps.By.snd hb)
  clear_value s1
  extract_lets -underBinder +onlyGivenNames s2
  have hs2 : Keeps r0 s2 := by
    subst s2
    exact engineShare_keeps _ _ _ _ (fun _ _ _ _ => State.addWrap_keeps _ _ _ (by assumption)) hs1
  clear_value s2
  exact energyAdd_keeps _ _ _ _ _ (energyAdd_keeps _ _ _ _ _ (engineWaits_keeps _ _ hs2))

theorem searchStopped_keeps {r0 : State} (s : State) (j : Job) (h0 : Keeps r0 s) :
    Keeps r0 (searchStopped s j) := by
  unfold searchStopped
  extract_lets -underBinder +onlyGivenNames a
  have ha : Keeps.By Prod.snd r0 a := by subst a; exact State.fresh_keeps h0
  clear_value a
  extract_lets -underBinder +onlyGivenNames b
  have hb : Keeps.By Prod.snd r0 b := by subst b; exact State.fresh_keeps (Keeps.By.snd ha)
  clear_value b
  extract_lets -underBinder +onlyGivenNames c
  have hc : Keeps.By Prod.snd r0 c := by subst c; exact State.fresh_keeps (Keeps.By.snd hb)
  clear_value c
  extract_lets -underBinder +onlyGivenNames s1
  have hs1 : Keeps r0 s1 := by
    subst s1
    exact engineShare_keeps _ _ _ _ (fun _ _ _ _ => State.addWrap_keeps _ _ _ (by assumption)) (Keeps.By.snd hc)
  clear_value s1
  exact buildCount_keeps _ _ (State.addSat_keeps _ _ _ (engineShare_keeps _ _ _ _ (fun _ _ _ _ => State.addSat_keeps
    _ _ _ (by assumption)) hs1))

theorem freeUnit_keeps {r0 : State} (s : State) (u : Nat) (h0 : Keeps r0 s) :
    Keeps r0 (freeUnit s u) := by
  unfold freeUnit
  split
  · exact State.setF_keeps _ _ _ h0
  · exact State.setF_keeps _ _ _ h0
  · exact State.setF_keeps _ _ _ h0
  · exact State.setF_keeps _ _ _ h0
  · exact State.setF_keeps _ _ _ h0

theorem dropKernel_keeps {r0 : State} (s : State) (j : Job) (h0 : Keeps r0 s) :
    Keeps r0 (dropKernel s j) := by
  unfold dropKernel
  extract_lets -underBinder +onlyGivenNames mine; clear_value mine
  extract_lets -underBinder +onlyGivenNames s1
  have hs1 : Keeps r0 s1 := by
    subst s1
    with_reducible apply Keeps.foldl
    · exact h0
    · exact fun _ _ _ => freeTile_keeps _ _ (by assumption)
  clear_value s1
  extract_lets -underBinder +onlyGivenNames s2
  have hs2 : Keeps r0 s2 := by
    subst s2
    with_reducible apply paceDrop_keeps
    with_reducible apply Keeps.foldl
    · exact hs1
    · exact fun _ _ _ => freeUnit_keeps _ _ (by assumption)
  clear_value s2
  split
  · exact State.setJob_keeps _ _ hs2
  · exact hs2

theorem tileCycles_keeps {r0 : State} (q : Nat) (idx : Nat) (s : State) (t : Nat) (h0 : Keeps r0 s) :
    Keeps r0 (tileCycles q idx s t) := by
  unfold tileCycles
  extract_lets -underBinder +onlyGivenNames c
  have hc : Keeps.By Prod.snd r0 c := by subst c; exact State.fresh_keeps h0
  clear_value c
  extract_lets -underBinder +onlyGivenNames b
  have hb : Keeps.By Prod.snd r0 b := by subst b; exact State.fresh_keeps (Keeps.By.snd hc)
  clear_value b
  exact energyAdd_keeps _ _ _ _ _ (State.addSat_keeps _ _ _ (State.addWrap_keeps _ _ _ (Keeps.By.snd hb)))

theorem passCount_keeps {r0 : State} (s : State) (j : Job) (comp : Bool) (h0 : Keeps r0 s) :
    Keeps r0 (passCount s j comp) := by
  unfold passCount
  extract_lets -underBinder +onlyGivenNames a
  have ha : Keeps.By Prod.snd r0 a := by subst a; exact State.fresh_keeps h0
  clear_value a
  extract_lets -underBinder +onlyGivenNames b
  have hb : Keeps.By Prod.snd r0 b := by subst b; exact State.fresh_keeps (Keeps.By.snd ha)
  clear_value b
  extract_lets -underBinder +onlyGivenNames c
  have hc : Keeps.By Prod.snd r0 c := by subst c; exact State.fresh_keeps (Keeps.By.snd hb)
  clear_value c
  extract_lets -underBinder +onlyGivenNames s1
  have hs1 : Keeps r0 s1 := by
    subst s1
    exact Keeps.ite (State.addWrap_keeps _ _ _ (State.addWrap_keeps _ _ _ (Keeps.By.snd hc))) (Keeps.By.snd hc)
  clear_value s1
  exact energyAdd_keeps _ _ _ _ _ hs1

theorem stopCounts_keeps {r0 : State} (s : State) (j : Job) (h0 : Keeps r0 s) :
    Keeps r0 (stopCounts s j) := by
  unfold stopCounts
  extract_lets -underBinder +onlyGivenNames mine; clear_value mine
  extract_lets -underBinder +onlyGivenNames s1
  have hs1 : Keeps r0 s1 := by
    subst s1
    with_reducible apply Keeps.foldl
    · exact h0
    · exact fun _ _ _ => tileCycles_keeps _ _ _ _ (by assumption)
  clear_value s1
  with_reducible apply Keeps.ite
  · exact hs1
  · split
    · extract_lets -underBinder +onlyGivenNames f
      have hf : Keeps.By Prod.snd r0 f := by subst f; exact State.fresh_keeps hs1
      clear_value f
      exact energyAdd_keeps _ _ _ _ _ (Keeps.By.snd hf)
    · exact searchStopped_keeps _ _ hs1
    · exact buildCount_keeps _ _ hs1
    · exact passCount_keeps _ _ _ hs1

theorem stopKernel_keeps {r0 : State} (s : State) (j : Job) (h0 : Keeps r0 s) :
    Keeps r0 (stopKernel s j) := by
  unfold stopKernel
  exact dropKernel_keeps _ _ (stopCounts_keeps _ _ h0)

theorem addStats_keeps {r0 : State} (s : State) (l : Nat) (st : List (Nat × QStat)) (h0 : Keeps r0 s) :
    Keeps r0 (addStats s l st) := by
  unfold addStats
  with_reducible apply Keeps.foldl
  · exact h0
  · intro _ _ _
    extract_lets -underBinder +onlyGivenNames i; clear_value i
    extract_lets -underBinder +onlyGivenNames y; clear_value y
    extract_lets -underBinder +onlyGivenNames sse; clear_value sse
    exact State.set64_keeps _ _ _ _ (State.addSat_keeps _ _ _ (State.addSat_keeps _ _ _ (State.addSat_keeps _ _ _ (by
      assumption))))

theorem State.dropJob_keeps {r0 : State} (s : State) (j : Job) (h0 : Keeps r0 s) :
    Keeps r0 (State.dropJob s j) := by
  unfold State.dropJob
  with_reducible exact Keeps.upd h0 rfl rfl rfl rfl rfl rfl

theorem endJob_keeps {r0 : State} (s : State) (j : Job) (st : Nat) (detail : Nat) (fault : Nat) (h0 : Keeps r0 s) :
    Keeps r0 (endJob s j st detail fault) := by
  unfold endJob
  split
  · extract_lets -underBinder +onlyGivenNames r; clear_value r
    extract_lets -underBinder +onlyGivenNames s0
    have hs0 : Keeps r0 s0 := by subst s0; exact Keeps.ite (restoreCkpt_keeps _ _ h0) h0
    clear_value s0
    extract_lets -underBinder +onlyGivenNames s1
    have hs1 : Keeps r0 s1 := by subst s1; exact stopKernel_keeps _ _ hs0
    clear_value s1
    extract_lets -underBinder +onlyGivenNames s2
    have hs2 : Keeps r0 s2 := by subst s2; exact Keeps.ite hs1 (addStats_keeps _ _ _ hs1)
    clear_value s2
    extract_lets -underBinder +onlyGivenNames s3
    have hs3 : Keeps r0 s3 := by subst s3; exact Keeps.ite (State.addSat_keeps _ _ _ hs2) hs2
    clear_value s3
    exact updLag_keeps _ (endPkt_keeps _ _ _ _ (State.dropJob_keeps _ _ hs3))
  · exact h0

theorem applyStaging_keeps {r0 : State} (s : State) (j : Job) (bad : List Nat) (h0 : Keeps r0 s) :
    Keeps r0 (applyStaging s j bad) := by
  unfold applyStaging
  with_reducible apply Keeps.foldl
  · exact h0
  · intro _ _ _
    split
    · assumption
    · exact Keeps.ite (pcieSend_keeps _ _ _ (by assumption)) (Keeps.ite (poisonLine_keeps _ _ _ _ (by assumption))
        (physWr_keeps _ _ _ _ (by assumption)))

theorem boundary_keeps {r0 : State} (s : State) (j : Job) (h0 : Keeps r0 s) :
    Keeps r0 (boundary s j) := by
  unfold boundary
  extract_lets -underBinder +onlyGivenNames i; clear_value i
  exact Keeps.ite (endJob_keeps _ _ _ _ _ (State.setInst_keeps _ _ _ h0)) (Keeps.ite (State.setJob_keeps _ _ h0) h0)

theorem newAttempt_keeps {r0 : State} (s : State) (j : Job) (retry : Bool) (count : Bool) (h0 : Keeps r0 s) :
    Keeps r0 (newAttempt s j retry count) := by
  unfold newAttempt
  extract_lets -underBinder +onlyGivenNames s1
  have hs1 : Keeps r0 s1 := by subst s1; exact restoreCkpt_keeps _ _ (stopKernel_keeps _ _ h0)
  clear_value s1
  extract_lets -underBinder +onlyGivenNames y; clear_value y
  extract_lets -underBinder +onlyGivenNames j1; clear_value j1
  exact boundary_keeps _ _ (updLag_keeps _ (State.setJob_keeps _ _ hs1))

theorem restartJob_keeps {r0 : State} (s : State) (j : Job) (st : Nat) (fault : Nat) (h0 : Keeps r0 s) :
    Keeps r0 (restartJob s j st fault) := by
  unfold restartJob
  exact Keeps.ite (endJob_keeps _ _ _ _ _ h0) (newAttempt_keeps _ _ _ _ h0)

theorem jobCharge_keeps {r0 : State} (s : State) (w : Who) (wr : Bool) (p : Piece) (h0 : Keeps r0 s) :
    Keeps r0 (jobCharge s w wr p) := by
  unfold jobCharge
  exact paceCharge_keeps _ _ _ _ h0

theorem commitPlain_keeps {r0 : State} (s : State) (j : Job) (st : Nat) (detail : Nat) (h0 : Keeps r0 s) :
    Keeps r0 (commitPlain s j st detail) := by
  unfold commitPlain
  exact endJob_keeps _ _ _ _ _ (applyStaging_keeps _ _ _ h0)

theorem energyAccess_keeps {r0 : State} (s : State) (q : Nat) (idx : Nat) (pa : Nat) (n : Nat) (h0 : Keeps r0 s) :
    Keeps r0 (energyAccess s q idx pa n) := by
  unfold energyAccess
  extract_lets -underBinder +onlyGivenNames units; clear_value units
  split
  · exact energyAdd_keeps _ _ _ _ _ h0
  · exact energyAdd_keeps _ _ _ _ _ h0
  · exact energyAdd_keeps _ _ _ _ _ h0
  · exact h0

theorem jobLand_keeps {r0 : State} (s : State) (j : Job) (w : Who) (wr : Bool) (p : Piece) (h0 : Keeps r0 s) :
    Keeps r0 (jobLand s j w wr p) := by
  unfold jobLand
  exact energyAccess_keeps _ _ _ _ _ (touchLines_keeps _ _ _ _ _ h0)

theorem jobTouch_keeps {r0 : State} (s : State) (j : Job) (w : Who) (wr : Bool) (p : Piece) (h0 : Keeps r0 s) :
    Keeps r0 (jobTouch s j w wr p) := by
  unfold jobTouch
  exact jobLand_keeps _ _ _ _ _ (jobCharge_keeps _ _ _ _ h0)

theorem undispatch_keeps {r0 : State} (s : State) (j : Job) (h0 : Keeps r0 s) :
    Keeps r0 (undispatch s j) := by
  unfold undispatch
  with_reducible apply Keeps.ite
  · exact h0
  · with_reducible apply Keeps.ite
    · extract_lets -underBinder +onlyGivenNames again; clear_value again
      exact State.setJob_keeps _ _ (dropKernel_keeps _ _ h0)
    · with_reducible apply Keeps.ite
      · exact h0
      · with_reducible apply State.setJob_keeps
        with_reducible apply dropKernel_keeps
        exact h0

theorem endAccess_keeps {r0 : State} (s : State) (j : Job) (va : Nat) (h0 : Keeps r0 s) :
    Keeps r0 (endAccess s j va) := by
  unfold endAccess
  exact endJob_keeps _ _ _ _ _ h0

end Sys2Proof.Machine
end

