-- ==== Sys2Proof/Laws/KeepsTiles.lean ====
section
/-! SUPPORT. Every operation over tiles: loads and stores, matrix, vector and control slots, images and kernels leaves the waiting commands alone, draws
free values forward only, and keeps the canonical form of memory, flash, registers and latches: one lemma per operation. -/

namespace Sys2Proof.Machine

set_option linter.unusedVariables false

/-! ### TileOps -/

theorem copyBegin_keeps {r0 : State} (s : State) (t : Nat) (c : Copy) (h0 : Keeps r0 s) :
    Keeps r0 (copyBegin s t c) := by
  unfold copyBegin
  extract_lets -underBinder +onlyGivenNames r; clear_value r
  extract_lets -underBinder +onlyGivenNames n; clear_value n
  extract_lets -underBinder +onlyGivenNames s1
  have hs1 : Keeps r0 s1 := by subst s1; exact State.setTile_keeps _ _ _ h0
  clear_value s1
  split
  · exact hs1
  · with_reducible apply paceAct_keeps
    · intro _ _
      with_reducible apply Keeps.foldl
      · assumption
      · exact fun _ _ _ => jobCharge_keeps _ _ _ _ (by assumption)
    · exact hs1

theorem applyWrite_keeps {r0 : State} (t : Nat) (s : State) (x2 : SlotWrite) (h0 : Keeps r0 s) :
    Keeps r0 (applyWrite t s x2) := by
  unfold applyWrite
  split
  · extract_lets -underBinder +onlyGivenNames r; clear_value r
    exact State.setTile_keeps _ _ _ h0
  · extract_lets -underBinder +onlyGivenNames r; clear_value r
    exact State.setTile_keeps _ _ _ h0
  · extract_lets -underBinder +onlyGivenNames r; clear_value r
    exact State.setTile_keeps _ _ _ h0
  · exact wrMem_keeps _ _ _ _ h0
  · extract_lets -underBinder +onlyGivenNames r; clear_value r
    exact State.setTile_keeps _ _ _ h0
  · exact copyBegin_keeps _ _ _ h0
  · extract_lets -underBinder +onlyGivenNames r; clear_value r
    exact State.setTile_keeps _ _ _ h0
  · extract_lets -underBinder +onlyGivenNames r; clear_value r
    exact State.setTile_keeps _ _ _ h0
  · extract_lets -underBinder +onlyGivenNames r; clear_value r
    exact State.setTile_keeps _ _ _ h0
  · exact State.addSat_keeps _ _ _ h0

theorem bundleLands_keeps {r0 : State} (s : State) (t : Nat) (pc : Nat) (ws : List SlotWrite) (h0 : Keeps r0 s) :
    Keeps r0 (bundleLands s t pc ws) := by
  unfold bundleLands
  with_reducible apply State.setF_keeps
  with_reducible apply State.addWrap_keeps
  with_reducible apply Keeps.foldl
  · exact h0
  · exact fun _ _ _ => applyWrite_keeps _ _ _ (by assumption)

theorem mendBay_keeps {r0 : State} (s : State) (l : Nat) (h0 : Keeps r0 s) :
    Keeps r0 (mendBay s l) := by
  unfold mendBay
  with_reducible apply Keeps.foldl
  · exact h0
  · intro _ _ _
    extract_lets -underBinder +onlyGivenNames t
    have ht : Keeps r0 t := by subst t; exact physRead_keeps _ _ (by assumption)
    clear_value t
    extract_lets -underBinder +onlyGivenNames bytes; clear_value bytes
    extract_lets -underBinder +onlyGivenNames base; clear_value base
    with_reducible apply Keeps.foldl
    · exact ht
    · intro _ _ _
      extract_lets -underBinder +onlyGivenNames b; clear_value b
      extract_lets -underBinder +onlyGivenNames bad; clear_value bad
      exact Keeps.ite (carryPoison_keeps _ _ _ (wrMem_keeps _ _ _ _ (by assumption))) (by assumption)

theorem jobPoison_keeps {r0 : State} (s : State) (j : Job) (pa : Nat) (h0 : Keeps r0 s) :
    Keeps r0 (jobPoison s j pa) := by
  unfold jobPoison
  extract_lets -underBinder +onlyGivenNames s1
  have hs1 : Keeps r0 s1 := by
    subst s1
    split
    · exact mendBay_keeps _ _ h0
    · exact h0
  clear_value s1
  exact restartJob_keeps _ _ _ _ hs1

theorem follow_keeps {r0 : State} (s : State) (t : Nat) (h0 : Keeps r0 s) :
    Keeps r0 (follow s t) := by
  unfold follow
  extract_lets -underBinder +onlyGivenNames r; clear_value r
  exact State.setTile_keeps _ _ _ h0

theorem endTile_keeps {r0 : State} (s : State) (t : Nat) (l : Nat) (h0 : Keeps r0 s) :
    Keeps r0 (endTile s t l) := by
  unfold endTile
  extract_lets -underBinder +onlyGivenNames r; clear_value r
  exact Keeps.ite (State.setTile_keeps _ _ _ h0) (State.setTile_keeps _ _ _ h0)

theorem tileFaultAt_keeps {r0 : State} (s : State) (t : Nat) (kind : Nat) (pc : Nat) (h0 : Keeps r0 s) :
    Keeps r0 (tileFaultAt s t kind pc) := by
  unfold tileFaultAt
  extract_lets -underBinder +onlyGivenNames r; clear_value r
  extract_lets -underBinder +onlyGivenNames s1
  have hs1 : Keeps r0 s1 := by
    subst s1
    exact State.addSat_keeps _ _ _ (State.setF_keeps _ _ _ (State.setF_keeps _ _ _ h0))
  clear_value s1
  split
  · exact h0
  · split
    · exact h0
    · exact restartJob_keeps _ _ _ _ hs1

theorem tileFault_keeps {r0 : State} (s : State) (t : Nat) (kind : Nat) (h0 : Keeps r0 s) :
    Keeps r0 (tileFault s t kind) := by
  unfold tileFault
  exact tileFaultAt_keeps _ _ _ _ h0

theorem advance_keeps {r0 : State} (s : State) (t : Nat) (l : Nat) (c : CtlOp) (h0 : Keeps r0 s) :
    Keeps r0 (advance s t l c) := by
  unfold advance
  extract_lets -underBinder +onlyGivenNames r; clear_value r
  extract_lets -underBinder +onlyGivenNames n; clear_value n
  split
  · exact endTile_keeps _ _ _ h0
  · extract_lets -underBinder +onlyGivenNames y; clear_value y
    exact Keeps.ite (State.setTile_keeps _ _ _ h0) (tileFault_keeps _ _ _ h0)
  · split
    · exact Keeps.ite (State.setTile_keeps _ _ _ h0) (tileFault_keeps _ _ _ h0)
    · exact tileFault_keeps _ _ _ h0
  · with_reducible apply Keeps.ite
    · with_reducible apply tileFault_keeps
      exact h0
    · with_reducible apply Keeps.ite
      · extract_lets -underBinder +onlyGivenNames y; clear_value y
        exact Keeps.ite (State.setTile_keeps _ _ _ h0) (tileFault_keeps _ _ _ h0)
      · with_reducible apply Keeps.ite
        · with_reducible apply tileFault_keeps
          exact h0
        · with_reducible apply State.setTile_keeps
          exact h0

theorem pairFault_keeps {r0 : State} (s : State) (t : Nat) (h0 : Keeps r0 s) :
    Keeps r0 (pairFault s t) := by
  unfold pairFault
  exact tileFault_keeps _ _ _ (State.addSat_keeps _ _ _ h0)

theorem retire_keeps {r0 : State} (s : State) (t : Nat) (j : Job) (h0 : Keeps r0 s) :
    Keeps r0 (retire s t j) := by
  unfold retire
  extract_lets -underBinder +onlyGivenNames r; clear_value r
  extract_lets -underBinder +onlyGivenNames b; clear_value b
  extract_lets -underBinder +onlyGivenNames s1
  have hs1 : Keeps r0 s1 := by subst s1; exact State.setTile_keeps _ _ _ h0
  clear_value s1
  with_reducible apply Keeps.ite
  · extract_lets -underBinder +onlyGivenNames c; clear_value c
    exact Keeps.ite (follow_keeps _ _ (advance_keeps _ _ _ _ (progress_keeps _ _ _ (bundleLands_keeps _ _ _ _
      (bundleLands_keeps _ _ _ _ hs1))))) (pairFault_keeps _ _ hs1)
  · with_reducible apply advance_keeps
    with_reducible apply progress_keeps
    with_reducible apply bundleLands_keeps
    exact hs1

theorem slotDone_keeps {r0 : State} (s : State) (t : Nat) (k : Nat) (j : Job) (ws : List SlotWrite) (c : CtlOp)
    (h0 : Keeps r0 s) :
    Keeps r0 (slotDone s t k j ws c) := by
  unfold slotDone
  extract_lets -underBinder +onlyGivenNames r; clear_value r
  extract_lets -underBinder +onlyGivenNames r1; clear_value r1
  extract_lets -underBinder +onlyGivenNames s1
  have hs1 : Keeps r0 s1 := by subst s1; exact State.setTile_keeps _ _ _ h0
  clear_value s1
  exact Keeps.ite (retire_keeps _ _ _ hs1) hs1

theorem stLocal_keeps {r0 : State} (s : State) (l : Nat) (t : Nat) (a : Nat) (bs : List Byte) (h0 : Keeps r0 s) :
    Keeps r0 (stLocal s l t a bs) := by
  unfold stLocal
  with_reducible apply Keeps.foldl
  · exact h0
  · exact fun _ _ _ => wrMem_keeps _ _ _ _ (by assumption)

theorem endGoes_keeps {r0 : State} (s : State) (t : Nat) (l : Nat) (h0 : Keeps r0 s) :
    Keeps r0 (endGoes s t l) := by
  unfold endGoes
  exact Keeps.ite (endTile_keeps _ _ _ h0) h0

/-! ### TileLs -/

theorem tileEnergy_keeps {r0 : State} (s : State) (j : Job) (t : Nat) (k : Nat) (n : Nat) (h0 : Keeps r0 s) :
    Keeps r0 (tileEnergy s j t k n) := by
  unfold tileEnergy
  exact energyAdd_keeps _ _ _ _ _ h0

theorem lsAccess_keeps {r0 : State} (s : State) (t : Nat) (op : Nat) (n : Nat) (rd : Bool) (h0 : Keeps r0 s) :
    Keeps r0 (lsAccess s t op n rd) := by
  unfold lsAccess
  split
  · exact h0
  · with_reducible apply Keeps.ite
    · with_reducible apply tileFault_keeps
      exact h0
    · split
      · exact jobPoison_keeps _ _ _ h0
      · exact slotDone_keeps _ _ _ _ _ _ (tileEnergy_keeps _ _ _ _ _ h0)

theorem execVst_keeps {r0 : State} (t : Nat) (s : State) (h0 : Keeps r0 s) :
    Keeps.R r0 (execVst t s) := by
  unfold execVst
  exact Keeps.toNext (lsAccess_keeps _ _ _ _ _ h0)

theorem copyRead_keeps {r0 : State} (x2 : List Piece) : ∀ (j : Job) (staged : Bool) (x3 : State),
    Keeps r0 x3 → Keeps.By Prod.fst r0 (copyRead j staged x2 x3) := by
  induction x2 with
  | nil =>
    intro j staged x3 h0
    rw [copyRead]
    exact Keeps.toFst h0
  | cons a as ih =>
    intro j staged x3 h0
    rw [copyRead]
    with_reducible apply Keeps.By.ite
    · extract_lets -underBinder +onlyGivenNames f
      have hf : Keeps.By Prod.snd r0 f := by subst f; exact State.fresh_keeps h0
      clear_value f
      extract_lets -underBinder +onlyGivenNames r
      have hr : Keeps.By Prod.fst r0 r := by subst r; exact ih _ _ _ (Keeps.By.snd hf)
      clear_value r
      exact Keeps.toFst (Keeps.By.fst hr)
    · extract_lets -underBinder +onlyGivenNames bs; clear_value bs
      extract_lets -underBinder +onlyGivenNames r
      have hr : Keeps.By Prod.fst r0 r := by subst r; exact ih _ _ _ h0
      clear_value r
      exact Keeps.toFst (Keeps.By.fst hr)

theorem copyTouch_keeps {r0 : State} (s : State) (j : Job) (w : Who) (wr : Bool) (ps : List Piece) (h0 : Keeps r0 s) :
    Keeps r0 (copyTouch s j w wr ps) := by
  unfold copyTouch
  with_reducible apply Keeps.foldl
  · exact h0
  · exact fun _ _ _ => jobLand_keeps _ _ _ _ _ (by assumption)

theorem copyDone_keeps {r0 : State} (s : State) (t : Nat) (n : Nat) (c : Copy) (j : Job) (h0 : Keeps r0 s) :
    Keeps r0 (copyDone s t n c j) := by
  unfold copyDone
  extract_lets -underBinder +onlyGivenNames r; clear_value r
  extract_lets -underBinder +onlyGivenNames r1; clear_value r1
  exact progress_keeps _ _ _ (endGoes_keeps _ _ _ (State.setTile_keeps _ _ _ h0))

theorem copyWrite_keeps {r0 : State} (x2 : List Piece) : ∀ (s : State) (j : Job) (x3 : List Byte),
    Keeps r0 s → Keeps r0 (copyWrite s j x2 x3) := by
  induction x2 with
  | nil =>
    intro s j x3 h0
    rw [copyWrite]
    exact h0
  | cons a as ih =>
    intro s j x3 h0
    rw [copyWrite]
    with_reducible apply ih
    split
    · exact stLocal_keeps _ _ _ _ _ h0
    · exact pcieSend_keeps _ _ _ h0
    · exact wrMem_keeps _ _ _ _ h0

theorem waitStaging_keeps {r0 : State} (s : State) (j : Job) (va : Nat) (h0 : Keeps r0 s) :
    Keeps r0 (waitStaging s j va) := by
  unfold waitStaging
  exact Keeps.ite (endJob_keeps _ _ _ _ _ h0) (Keeps.ite h0 (State.setJob_keeps _ _ h0))

theorem execCopyLand_keeps {r0 : State} (t : Nat) (n : Nat) (s : State) (h0 : Keeps r0 s) :
    Keeps.R r0 (execCopyLand t n s) := by
  unfold execCopyLand
  with_reducible apply Keeps.toNext
  extract_lets -underBinder +onlyGivenNames r; clear_value r
  split
  · split
    · exact h0
    · with_reducible apply Keeps.ite
      · exact h0
      · with_reducible apply Keeps.ite
        · exact h0
        · with_reducible apply Keeps.ite
          · split
            · exact jobPoison_keeps _ _ _ h0
            · extract_lets -underBinder +onlyGivenNames y
              have hy : Keeps.By Prod.fst r0 y := by
                subst y
                exact copyRead_keeps _ _ _ _ (copyTouch_keeps _ _ _ _ _ h0)
              clear_value y
              exact copyDone_keeps _ _ _ _ _ (stLocal_keeps _ _ _ _ _ (Keeps.By.fst hy))
          · extract_lets -underBinder +onlyGivenNames len; clear_value len
            split
            · exact jobPoison_keeps _ _ _ h0
            · extract_lets -underBinder +onlyGivenNames bs; clear_value bs
              with_reducible apply Keeps.ite
              · with_reducible apply copyDone_keeps
                with_reducible apply copyWrite_keeps
                with_reducible apply copyTouch_keeps
                exact h0
              · with_reducible apply Keeps.ite
                · extract_lets -underBinder +onlyGivenNames s1
                  have hs1 : Keeps r0 s1 := by subst s1; exact copyTouch_keeps _ _ _ _ _ h0
                  clear_value s1
                  split
                  · exact h0
                  · exact copyDone_keeps _ _ _ _ _ (State.setJob_keeps _ _ hs1)
                · with_reducible apply waitStaging_keeps
                  exact h0
  · exact h0

theorem execSld_keeps {r0 : State} (t : Nat) (s : State) (h0 : Keeps r0 s) :
    Keeps.R r0 (execSld t s) := by
  unfold execSld
  exact Keeps.toNext (lsAccess_keeps _ _ _ _ _ h0)

theorem execWld_keeps {r0 : State} (t : Nat) (s : State) (h0 : Keeps r0 s) :
    Keeps.R r0 (execWld t s) := by
  unfold execWld
  with_reducible apply Keeps.toNext
  split
  · exact h0
  · extract_lets -underBinder +onlyGivenNames mode; clear_value mode
    extract_lets -underBinder +onlyGivenNames a; clear_value a
    extract_lets -underBinder +onlyGivenNames n; clear_value n
    exact Keeps.ite h0 (Keeps.ite (tileFault_keeps _ _ _ h0) (slotDone_keeps _ _ _ _ _ _ (tileEnergy_keeps _ _ _ _ _
      h0)))

theorem weightsIn_keeps {r0 : State} (s : State) (t : Nat) (w : Nat) (h0 : Keeps r0 s) :
    Keeps r0 (weightsIn s t w) := by
  unfold weightsIn
  extract_lets -underBinder +onlyGivenNames r; clear_value r
  split
  · exact State.setTile_keeps _ _ _ h0
  · exact h0

theorem execWldComplete_keeps {r0 : State} (t : Nat) (w : Nat) (s : State) (h0 : Keeps r0 s) :
    Keeps.R r0 (execWldComplete t w s) := by
  unfold execWldComplete
  with_reducible apply Keeps.toNext
  extract_lets -underBinder +onlyGivenNames r; clear_value r
  split
  · split
    · exact h0
    · with_reducible apply Keeps.ite
      · exact h0
      · split
        · exact jobPoison_keeps _ _ _ h0
        · with_reducible apply Keeps.ite
          · with_reducible apply tileFaultAt_keeps
            exact h0
          · with_reducible apply Keeps.foldl
            · exact h0
            · exact fun _ _ _ => weightsIn_keeps _ _ _ (by assumption)
  · exact h0

theorem execVld_keeps {r0 : State} (t : Nat) (s : State) (h0 : Keeps r0 s) :
    Keeps.R r0 (execVld t s) := by
  unfold execVld
  exact Keeps.toNext (lsAccess_keeps _ _ _ _ _ h0)

theorem copyIssue_keeps {r0 : State} (s : State) (t : Nat) (op : Nat) (load : Bool) (h0 : Keeps r0 s) :
    Keeps r0 (copyIssue s t op load) := by
  unfold copyIssue
  split
  · exact h0
  · extract_lets -underBinder +onlyGivenNames a; clear_value a
    extract_lets -underBinder +onlyGivenNames sb; clear_value sb
    extract_lets -underBinder +onlyGivenNames n; clear_value n
    extract_lets -underBinder +onlyGivenNames cls; clear_value cls
    extract_lets -underBinder +onlyGivenNames off; clear_value off
    extract_lets -underBinder +onlyGivenNames peer; clear_value peer
    extract_lets -underBinder +onlyGivenNames who; clear_value who
    extract_lets -underBinder +onlyGivenNames go
    have hgo : ∀ a0 a1 a2 a3, Keeps r0 a0 → Keeps r0 (go a0 a1 a2 a3) := by
      subst go
      exact fun _ _ _ _ _ => slotDone_keeps _ _ _ _ _ _ (by assumption)
    clear_value go
    with_reducible apply Keeps.ite
    · with_reducible apply tileFault_keeps
      exact h0
    · with_reducible apply Keeps.ite
      · with_reducible apply tileFault_keeps
        exact h0
      · with_reducible apply Keeps.ite
        · with_reducible apply tileFault_keeps
          exact h0
        · with_reducible apply Keeps.ite
          · with_reducible apply tileFault_keeps
            exact h0
          · with_reducible apply Keeps.ite
            · exact h0
            · with_reducible apply Keeps.ite
              · with_reducible apply_assumption
                exact h0
              · with_reducible apply Keeps.ite
                · split
                  · exact h0
                  · extract_lets -underBinder +onlyGivenNames pa; clear_value pa
                    with_reducible apply Keeps.ite
                    · with_reducible apply endAccess_keeps
                      with_reducible apply xltRecord_keeps
                      exact h0
                    · with_reducible apply_assumption
                      exact h0
                · extract_lets -underBinder +onlyGivenNames b; clear_value b
                  extract_lets -underBinder +onlyGivenNames va; clear_value va
                  with_reducible apply Keeps.ite
                  · with_reducible apply endAccess_keeps
                    with_reducible apply xltRecord_keeps
                    exact h0
                  · split
                    · with_reducible apply_assumption
                      exact Keeps.By.eq_fst (by assumption) (xlateAll_keeps _ _ _ _ h0)
                    · exact endAccess_keeps _ _ _ (Keeps.By.eq_fst (by assumption) (xlateAll_keeps _ _ _ _ h0))
                    · exact jobPoison_keeps _ _ _ (Keeps.By.eq_fst (by assumption) (xlateAll_keeps _ _ _ _ h0))

theorem execSst_keeps {r0 : State} (t : Nat) (s : State) (h0 : Keeps r0 s) :
    Keeps.R r0 (execSst t s) := by
  unfold execSst
  exact Keeps.toNext (lsAccess_keeps _ _ _ _ _ h0)

theorem execXld_keeps {r0 : State} (t : Nat) (s : State) (h0 : Keeps r0 s) :
    Keeps.R r0 (execXld t s) := by
  unfold execXld
  exact Keeps.toNext (copyIssue_keeps _ _ _ _ h0)

theorem execXst_keeps {r0 : State} (t : Nat) (s : State) (h0 : Keeps r0 s) :
    Keeps.R r0 (execXst t s) := by
  unfold execXst
  exact Keeps.toNext (copyIssue_keeps _ _ _ _ h0)

/-! ### TileMx -/

theorem execMpool_keeps {r0 : State} (t : Nat) (s : State) (h0 : Keeps r0 s) :
    Keeps.R r0 (execMpool t s) := by
  unfold execMpool
  with_reducible apply Keeps.toNext
  split
  · exact h0
  · extract_lets -underBinder +onlyGivenNames d; clear_value d
    exact Keeps.ite h0 (Keeps.ite (tileFault_keeps _ _ _ h0) (slotDone_keeps _ _ _ _ _ _ h0))

theorem execMmt_keeps {r0 : State} (t : Nat) (s : State) (h0 : Keeps r0 s) :
    Keeps.R r0 (execMmt t s) := by
  unfold execMmt
  with_reducible apply Keeps.toNext
  split
  · exact h0
  · extract_lets -underBinder +onlyGivenNames d; clear_value d
    extract_lets -underBinder +onlyGivenNames mode; clear_value mode
    extract_lets -underBinder +onlyGivenNames wb; clear_value wb
    exact Keeps.ite h0 (Keeps.ite (tileFault_keeps _ _ _ h0) (slotDone_keeps _ _ _ _ _ _ h0))

theorem matrixLands_keeps {r0 : State} (s : State) (t : Nat) (h0 : Keeps r0 s) :
    Keeps r0 (matrixLands s t) := by
  unfold matrixLands
  extract_lets -underBinder +onlyGivenNames r; clear_value r
  split
  · exact h0
  · extract_lets -underBinder +onlyGivenNames rows; clear_value rows
    extract_lets -underBinder +onlyGivenNames acc; clear_value acc
    extract_lets -underBinder +onlyGivenNames sat; clear_value sat
    exact State.addSat_keeps _ _ _ (State.addSat_keeps _ _ _ (State.setTile_keeps _ _ _ h0))

theorem execMatrixOpEnd_keeps {r0 : State} (t : Nat) (s : State) (h0 : Keeps r0 s) :
    Keeps.R r0 (execMatrixOpEnd t s) := by
  unfold execMatrixOpEnd
  with_reducible apply Keeps.toNext
  extract_lets -underBinder +onlyGivenNames r; clear_value r
  split
  · split
    · exact h0
    · with_reducible apply Keeps.ite
      · exact h0
      · extract_lets -underBinder +onlyGivenNames n; clear_value n
        extract_lets -underBinder +onlyGivenNames px; clear_value px
        split
        · exact jobPoison_keeps _ _ _ h0
        · extract_lets -underBinder +onlyGivenNames s1
          have hs1 : Keeps r0 s1 := by
            subst s1
            with_reducible apply Keeps.foldl
            · exact h0
            · exact fun _ _ _ => matrixLands_keeps _ _ (by assumption)
          clear_value s1
          with_reducible apply Keeps.ite
          · with_reducible apply pairFault_keeps
            exact hs1
          · extract_lets -underBinder +onlyGivenNames s2
            have hs2 : Keeps r0 s2 := by subst s2; exact endGoes_keeps _ _ _ (tileEnergy_keeps _ _ _ _ _ hs1)
            clear_value s2
            exact Keeps.ite (tileEnergy_keeps _ _ _ _ _ hs2) hs2
  · exact h0

/-! ### TileVx -/

theorem vxOp_keeps {r0 : State} (s : State) (t : Nat) (op : Nat) (h0 : Keeps r0 s) :
    Keeps r0 (vxOp s t op) := by
  unfold vxOp
  split
  · exact h0
  · exact slotDone_keeps _ _ _ _ _ _ (tileEnergy_keeps _ _ _ _ _ h0)

theorem execVadd_keeps {r0 : State} (t : Nat) (s : State) (h0 : Keeps r0 s) :
    Keeps.R r0 (execVadd t s) := by
  unfold execVadd
  exact Keeps.toNext (vxOp_keeps _ _ _ h0)

theorem execVfma_keeps {r0 : State} (t : Nat) (s : State) (h0 : Keeps r0 s) :
    Keeps.R r0 (execVfma t s) := by
  unfold execVfma
  exact Keeps.toNext (vxOp_keeps _ _ _ h0)

theorem execVabs_keeps {r0 : State} (t : Nat) (s : State) (h0 : Keeps r0 s) :
    Keeps.R r0 (execVabs t s) := by
  unfold execVabs
  exact Keeps.toNext (vxOp_keeps _ _ _ h0)

theorem execVshr_keeps {r0 : State} (t : Nat) (s : State) (h0 : Keeps r0 s) :
    Keeps.R r0 (execVshr t s) := by
  unfold execVshr
  exact Keeps.toNext (vxOp_keeps _ _ _ h0)

theorem execVperm_keeps {r0 : State} (t : Nat) (s : State) (h0 : Keeps r0 s) :
    Keeps.R r0 (execVperm t s) := by
  unfold execVperm
  exact Keeps.toNext (vxOp_keeps _ _ _ h0)

theorem execVmin_keeps {r0 : State} (t : Nat) (s : State) (h0 : Keeps r0 s) :
    Keeps.R r0 (execVmin t s) := by
  unfold execVmin
  exact Keeps.toNext (vxOp_keeps _ _ _ h0)

theorem execVrsqrt_keeps {r0 : State} (t : Nat) (s : State) (h0 : Keeps r0 s) :
    Keeps.R r0 (execVrsqrt t s) := by
  unfold execVrsqrt
  exact Keeps.toNext (vxOp_keeps _ _ _ h0)

theorem execVbcst_keeps {r0 : State} (t : Nat) (s : State) (h0 : Keeps r0 s) :
    Keeps.R r0 (execVbcst t s) := by
  unfold execVbcst
  exact Keeps.toNext (vxOp_keeps _ _ _ h0)

theorem execVmax_keeps {r0 : State} (t : Nat) (s : State) (h0 : Keeps r0 s) :
    Keeps.R r0 (execVmax t s) := by
  unfold execVmax
  exact Keeps.toNext (vxOp_keeps _ _ _ h0)

theorem execVclamp_keeps {r0 : State} (t : Nat) (s : State) (h0 : Keeps r0 s) :
    Keeps.R r0 (execVclamp t s) := by
  unfold execVclamp
  exact Keeps.toNext (vxOp_keeps _ _ _ h0)

theorem execVcvt_keeps {r0 : State} (t : Nat) (s : State) (h0 : Keeps r0 s) :
    Keeps.R r0 (execVcvt t s) := by
  unfold execVcvt
  exact Keeps.toNext (vxOp_keeps _ _ _ h0)

theorem execVred_keeps {r0 : State} (t : Nat) (s : State) (h0 : Keeps r0 s) :
    Keeps.R r0 (execVred t s) := by
  unfold execVred
  exact Keeps.toNext (vxOp_keeps _ _ _ h0)

theorem execVrcp_keeps {r0 : State} (t : Nat) (s : State) (h0 : Keeps r0 s) :
    Keeps.R r0 (execVrcp t s) := by
  unfold execVrcp
  exact Keeps.toNext (vxOp_keeps _ _ _ h0)

theorem execVsel_keeps {r0 : State} (t : Nat) (s : State) (h0 : Keeps r0 s) :
    Keeps.R r0 (execVsel t s) := by
  unfold execVsel
  exact Keeps.toNext (vxOp_keeps _ _ _ h0)

theorem execVexp2_keeps {r0 : State} (t : Nat) (s : State) (h0 : Keeps r0 s) :
    Keeps.R r0 (execVexp2 t s) := by
  unfold execVexp2
  exact Keeps.toNext (vxOp_keeps _ _ _ h0)

theorem execVmul_keeps {r0 : State} (t : Nat) (s : State) (h0 : Keeps r0 s) :
    Keeps.R r0 (execVmul t s) := by
  unfold execVmul
  exact Keeps.toNext (vxOp_keeps _ _ _ h0)

theorem execVcmp_keeps {r0 : State} (t : Nat) (s : State) (h0 : Keeps r0 s) :
    Keeps.R r0 (execVcmp t s) := by
  unfold execVcmp
  exact Keeps.toNext (vxOp_keeps _ _ _ h0)

theorem execVacc_keeps {r0 : State} (t : Nat) (s : State) (h0 : Keeps r0 s) :
    Keeps.R r0 (execVacc t s) := by
  unfold execVacc
  with_reducible apply Keeps.toNext
  split
  · exact h0
  · exact Keeps.ite h0 (vxOp_keeps _ _ _ h0)

theorem execVmovs_keeps {r0 : State} (t : Nat) (s : State) (h0 : Keeps r0 s) :
    Keeps.R r0 (execVmovs t s) := by
  unfold execVmovs
  exact Keeps.toNext (vxOp_keeps _ _ _ h0)

theorem execVsub_keeps {r0 : State} (t : Nat) (s : State) (h0 : Keeps r0 s) :
    Keeps.R r0 (execVsub t s) := by
  unfold execVsub
  exact Keeps.toNext (vxOp_keeps _ _ _ h0)

/-! ### TileCt -/

theorem ctOp_keeps {r0 : State} (s : State) (t : Nat) (op : Nat) (h0 : Keeps r0 s) :
    Keeps r0 (ctOp s t op) := by
  unfold ctOp
  split
  · exact h0
  · exact slotDone_keeps _ _ _ _ _ _ h0

theorem execTileLoop_keeps {r0 : State} (t : Nat) (s : State) (h0 : Keeps r0 s) :
    Keeps.R r0 (execTileLoop t s) := by
  unfold execTileLoop
  exact Keeps.toNext (ctOp_keeps _ _ _ h0)

theorem execSalu_keeps {r0 : State} (t : Nat) (s : State) (h0 : Keeps r0 s) :
    Keeps.R r0 (execSalu t s) := by
  unfold execSalu
  exact Keeps.toNext (ctOp_keeps _ _ _ h0)

theorem releaseWait_keeps {r0 : State} (s : State) (t : Nat) (h0 : Keeps r0 s) :
    Keeps r0 (releaseWait s t) := by
  unfold releaseWait
  extract_lets -underBinder +onlyGivenNames r; clear_value r
  split
  · exact h0
  · split
    · exact h0
    · exact slotDone_keeps _ _ _ _ _ _ (State.setTile_keeps _ _ _ h0)

theorem execTileBarRelease_keeps {r0 : State} (t : Nat) (s : State) (h0 : Keeps r0 s) :
    Keeps.R r0 (execTileBarRelease t s) := by
  unfold execTileBarRelease
  with_reducible apply Keeps.toNext
  split
  · exact h0
  · split
    · exact h0
    · with_reducible apply Keeps.ite
      · with_reducible apply Keeps.foldl
        · exact h0
        · exact fun _ _ _ => releaseWait_keeps _ _ (by assumption)
      · exact h0

theorem execTileJmp_keeps {r0 : State} (t : Nat) (s : State) (h0 : Keeps r0 s) :
    Keeps.R r0 (execTileJmp t s) := by
  unfold execTileJmp
  exact Keeps.toNext (ctOp_keeps _ _ _ h0)

theorem execTileWaitt_keeps {r0 : State} (t : Nat) (s : State) (h0 : Keeps r0 s) :
    Keeps.R r0 (execTileWaitt t s) := by
  unfold execTileWaitt
  with_reducible apply Keeps.toNext
  split
  · exact h0
  · exact Keeps.ite (slotDone_keeps _ _ _ _ _ _ h0) (State.setTile_keeps _ _ _ h0)

theorem execTileEnd_keeps {r0 : State} (t : Nat) (s : State) (h0 : Keeps r0 s) :
    Keeps.R r0 (execTileEnd t s) := by
  unfold execTileEnd
  exact Keeps.toNext (ctOp_keeps _ _ _ h0)

theorem execTileBar_keeps {r0 : State} (t : Nat) (s : State) (h0 : Keeps r0 s) :
    Keeps.R r0 (execTileBar t s) := by
  unfold execTileBar
  with_reducible apply Keeps.toNext
  split
  · exact h0
  · exact State.setTile_keeps _ _ _ h0

theorem execTileWaittRelease_keeps {r0 : State} (t : Nat) (s : State) (h0 : Keeps r0 s) :
    Keeps.R r0 (execTileWaittRelease t s) := by
  unfold execTileWaittRelease
  with_reducible apply Keeps.toNext
  split
  · exact Keeps.ite (releaseWait_keeps _ _ h0) h0
  · exact h0

theorem execTileFset_keeps {r0 : State} (t : Nat) (s : State) (h0 : Keeps r0 s) :
    Keeps.R r0 (execTileFset t s) := by
  unfold execTileFset
  with_reducible apply Keeps.toNext
  split
  · exact h0
  · extract_lets -underBinder +onlyGivenNames a; clear_value a
    with_reducible apply Keeps.ite
    · with_reducible apply tileFault_keeps
      exact h0
    · split
      · exact jobPoison_keeps _ _ _ h0
      · exact Keeps.ite (slotDone_keeps _ _ _ _ _ _ (tileEnergy_keeps _ _ _ _ _ h0)) (tileFault_keeps _ _ _ h0)

theorem execSlui_keeps {r0 : State} (t : Nat) (s : State) (h0 : Keeps r0 s) :
    Keeps.R r0 (execSlui t s) := by
  unfold execSlui
  exact Keeps.toNext (ctOp_keeps _ _ _ h0)

theorem execTileBnz_keeps {r0 : State} (t : Nat) (s : State) (h0 : Keeps r0 s) :
    Keeps.R r0 (execTileBnz t s) := by
  unfold execTileBnz
  exact Keeps.toNext (ctOp_keeps _ _ _ h0)

theorem execTileNop_keeps {r0 : State} (t : Nat) (slot : Nat) (s : State) (h0 : Keeps r0 s) :
    Keeps.R r0 (execTileNop t slot s) := by
  unfold execTileNop
  with_reducible apply Keeps.toNext
  split
  · exact h0
  · exact slotDone_keeps _ _ _ _ _ _ h0

theorem execIllegalBundle_keeps {r0 : State} (t : Nat) (s : State) (h0 : Keeps r0 s) :
    Keeps.R r0 (execIllegalBundle t s) := by
  unfold execIllegalBundle
  with_reducible apply Keeps.toNext
  extract_lets -underBinder +onlyGivenNames r; clear_value r
  split
  · exact h0
  · split
    · exact h0
    · exact Keeps.ite (tileFault_keeps _ _ _ h0) h0

theorem execSaddi_keeps {r0 : State} (t : Nat) (s : State) (h0 : Keeps r0 s) :
    Keeps.R r0 (execSaddi t s) := by
  unfold execSaddi
  exact Keeps.toNext (ctOp_keeps _ _ _ h0)

theorem execPairMismatch_keeps {r0 : State} (k : Nat) (s : State) (h0 : Keeps r0 s) :
    Keeps.R r0 (execPairMismatch k s) := by
  unfold execPairMismatch
  with_reducible apply Keeps.toNext
  split
  · exact h0
  · split
    · exact h0
    · exact Keeps.ite (pairFault_keeps _ _ h0) h0

/-! ### Image -/

theorem startBytes_keeps {r0 : State} (s : State) (p : Pkt) (off : Nat) (va : Nat) (n : Nat) (h0 : Keeps r0 s) :
    Keeps.By Prod.fst r0 (startBytes s p off va n) := by
  unfold startBytes
  split
  · split
    · exact Keeps.toFst (Keeps.By.eq_fst (by assumption) (peekBytes_keeps _ _ _ _ (Keeps.By.eq_fst (by assumption)
        (rangeCheck_keeps _ _ _ _ _ _ h0))))
    · exact Keeps.toFst (Keeps.By.eq_fst (by assumption) (peekBytes_keeps _ _ _ _ (Keeps.By.eq_fst (by assumption)
        (rangeCheck_keeps _ _ _ _ _ _ h0))))
    · exact Keeps.toFst (Keeps.By.eq_fst (by assumption) (peekBytes_keeps _ _ _ _ (Keeps.By.eq_fst (by assumption)
        (rangeCheck_keeps _ _ _ _ _ _ h0))))
  · exact Keeps.toFst (Keeps.By.eq_fst (by assumption) (rangeCheck_keeps _ _ _ _ _ _ h0))

theorem readSides_keeps {r0 : State} (s : State) (p : Pkt) (h0 : Keeps r0 s) :
    Keeps.By Prod.fst r0 (readSides s p) := by
  unfold readSides
  with_reducible apply Keeps.By.ite
  · with_reducible apply Keeps.toFst
    exact h0
  · split
    · exact Keeps.toFst (Keeps.By.eq_fst (by assumption) (startBytes_keeps _ _ _ _ _ h0))
    · exact Keeps.toFst (Keeps.By.eq_fst (by assumption) (startBytes_keeps _ _ _ _ _ h0))

theorem readImage_keeps {r0 : State} (s : State) (p : Pkt) (h0 : Keeps r0 s) :
    Keeps.By Prod.fst r0 (readImage s p) := by
  unfold readImage
  split
  · exact Keeps.toFst (Keeps.By.eq_fst (by assumption) (startBytes_keeps _ _ _ _ _ h0))
  · exact Keeps.By.ite (startBytes_keeps _ _ _ _ _ (Keeps.By.eq_fst (by assumption) (startBytes_keeps _ _ _ _ _ h0)))
      (Keeps.toFst (Keeps.By.eq_fst (by assumption) (startBytes_keeps _ _ _ _ _ h0)))

theorem jobRunPre_keeps {r0 : State} (s : State) (p : Pkt) (h0 : Keeps r0 s) :
    Keeps.By Prod.fst r0 (jobRunPre s p) := by
  unfold jobRunPre
  split
  · exact Keeps.toFst (Keeps.By.eq_fst (by assumption) (readImage_keeps _ _ h0))
  · exact Keeps.toFst (Keeps.By.eq_fst (by assumption) (readImage_keeps _ _ h0))
  · split
    · exact Keeps.toFst (Keeps.By.eq_fst (by assumption) (readSides_keeps _ _ (Keeps.By.eq_fst (by assumption)
        (readImage_keeps _ _ h0))))
    · extract_lets -underBinder +onlyGivenNames ip; clear_value ip
      exact Keeps.toFst (Keeps.By.eq_fst (by assumption) (readSides_keeps _ _ (Keeps.By.eq_fst (by assumption)
        (readImage_keeps _ _ h0))))

/-! ### Jobs -/

theorem startJob_keeps {r0 : State} (s : State) (p : Pkt) (j : Job) (h0 : Keeps r0 s) :
    Keeps r0 (startJob s p j) := by
  unfold startJob
  extract_lets -underBinder +onlyGivenNames y
  have hy : Keeps r0 y := by subst y; exact State.setPkt_keeps _ _ h0
  clear_value y
  with_reducible exact Keeps.upd hy rfl rfl rfl rfl rfl rfl

theorem holdUnit_keeps {r0 : State} (j : Job) (ctx : Nat) (mode : Nat) (s : State) (u : Nat) (h0 : Keeps r0 s) :
    Keeps r0 (holdUnit j ctx mode s u) := by
  unfold holdUnit
  split
  · exact State.setF_keeps _ _ _ (State.setF_keeps _ _ _ (State.setF_keeps _ _ _ h0))
  · exact State.setF_keeps _ _ _ (State.setF_keeps _ _ _ (State.setF_keeps _ _ _ h0))
  · exact State.setF_keeps _ _ _ (State.setF_keeps _ _ _ (State.setF_keeps _ _ _ h0))
  · exact State.setF_keeps _ _ _ (State.setF_keeps _ _ _ (State.setF_keeps _ _ _ h0))
  · exact State.setF_keeps _ _ _ (State.setF_keeps _ _ _ (State.setF_keeps _ _ _ (State.setF_keeps _ _ _
      (State.setF_keeps _ _ _ h0))))

theorem execStallLimitExpiry_keeps {r0 : State} (q : Nat) (idx : Nat) (s : State) (h0 : Keeps r0 s) :
    Keeps.R r0 (execStallLimitExpiry q idx s) := by
  unfold execStallLimitExpiry
  with_reducible apply Keeps.toNext
  split
  · exact h0
  · exact Keeps.ite (restartJob_keeps _ _ _ _ (State.addSat_keeps _ _ _ h0)) h0

theorem placeTile_keeps {r0 : State} (j : Job) (checker : Bool) (i : Nat) (s : State) (t : Nat) (h0 : Keeps r0 s) :
    Keeps r0 (placeTile j checker i s t) := by
  unfold placeTile
  extract_lets -underBinder +onlyGivenNames r; clear_value r
  extract_lets -underBinder +onlyGivenNames d; clear_value d
  extract_lets -underBinder +onlyGivenNames s1
  have hs1 : Keeps r0 s1 := by
    subst s1
    split
    · exact Keeps.ite h0 (zeroFill_keeps _ _ h0)
    · exact h0
  clear_value s1
  extract_lets -underBinder +onlyGivenNames code; clear_value code
  extract_lets -underBinder +onlyGivenNames y; clear_value y
  extract_lets -underBinder +onlyGivenNames s2
  have hs2 : Keeps r0 s2 := by subst s2; exact State.setTile_keeps _ _ _ hs1
  clear_value s2
  exact State.setF_keeps _ _ _ (State.setF_keeps _ _ _ (State.setF_keeps _ _ _ (State.setF_keeps _ _ _
    (State.setF_keeps _ _ _ hs2))))

theorem placeTiles_keeps {r0 : State} (s : State) (j : Job) (bind : List Nat) (h0 : Keeps r0 s) :
    Keeps r0 (placeTiles s j bind) := by
  unfold placeTiles
  with_reducible apply Keeps.foldl
  · exact h0
  · intro _ _ _
    extract_lets -underBinder +onlyGivenNames t; clear_value t
    extract_lets -underBinder +onlyGivenNames u1
    have hu1 : Keeps r0 u1 := by subst u1; exact placeTile_keeps _ _ _ _ _ (by assumption)
    clear_value u1
    exact Keeps.ite (placeTile_keeps _ _ _ _ _ hu1) hu1

theorem startRun_keeps {r0 : State} (s : State) (p : Pkt) (h0 : Keeps r0 s) :
    Keeps r0 (startRun s p) := by
  unfold startRun
  split
  · exact startJob_keeps _ _ _ h0
  · exact h0

theorem dispatch_keeps {r0 : State} (s : State) (j : Job) (ckpt : List (Nat × Nat × List Byte)) (h0 : Keeps r0 s) :
    Keeps r0 (dispatch s j ckpt) := by
  unfold dispatch
  extract_lets -underBinder +onlyGivenNames k; clear_value k
  extract_lets -underBinder +onlyGivenNames bind; clear_value bind
  extract_lets -underBinder +onlyGivenNames units; clear_value units
  extract_lets -underBinder +onlyGivenNames pages; clear_value pages
  extract_lets -underBinder +onlyGivenNames j1; clear_value j1
  extract_lets -underBinder +onlyGivenNames s1
  have hs1 : Keeps r0 s1 := by subst s1; exact State.setJob_keeps _ _ (demand_keeps _ _ h0)
  clear_value s1
  extract_lets -underBinder +onlyGivenNames s2
  have hs2 : Keeps r0 s2 := by
    subst s2
    with_reducible apply Keeps.ite
    · with_reducible apply placeTiles_keeps
      exact hs1
    · with_reducible apply Keeps.foldl
      · exact hs1
      · exact fun _ _ _ => holdUnit_keeps _ _ _ _ _ (by assumption)
  clear_value s2
  extract_lets -underBinder +onlyGivenNames s3
  have hs3 : Keeps r0 s3 := by subst s3; with_reducible exact Keeps.ite (Keeps.upd hs2 rfl rfl rfl rfl rfl rfl) hs2
  clear_value s3
  exact updLag_keeps _ hs3

theorem takeCkpt_keeps {r0 : State} (x2 : List (Nat × Nat × Nat)) : ∀ (s : State) (j : Job) (x3 : List
    (Nat × Nat × List Byte)),
    Keeps r0 s → Keeps.By Prod.fst r0 (takeCkpt s j x2 x3) := by
  induction x2 with
  | nil =>
    intro s j x3 h0
    rw [takeCkpt]
    exact Keeps.toFst h0
  | cons a as ih =>
    intro s j x3 h0
    rw [takeCkpt]
    split
    · exact ih _ _ _ (Keeps.By.eq_fst (by assumption) (xlateAll_keeps _ _ _ _ h0))
    · exact Keeps.toFst (Keeps.By.eq_fst (by assumption) (xlateAll_keeps _ _ _ _ h0))
    · exact Keeps.toFst (Keeps.By.eq_fst (by assumption) (xlateAll_keeps _ _ _ _ h0))

theorem execKernelDispatch_keeps {r0 : State} (s : State) (h0 : Keeps r0 s) :
    Keeps.R r0 (execKernelDispatch s) := by
  unfold execKernelDispatch
  with_reducible apply Keeps.toNext
  with_reducible apply Keeps.ite
  · split
    · exact h0
    · with_reducible apply Keeps.ite
      · with_reducible apply dispatch_keeps
        exact h0
      · extract_lets -underBinder +onlyGivenNames bufs; clear_value bufs
        split
        · exact dispatch_keeps _ _ _ (Keeps.By.eq_fst (by assumption) (takeCkpt_keeps _ _ _ _ h0))
        · exact endAccess_keeps _ _ _ (Keeps.By.eq_fst (by assumption) (takeCkpt_keeps _ _ _ _ h0))
  · exact h0

theorem execStagingPageGrant_keeps {r0 : State} (q : Nat) (idx : Nat) (s : State) (h0 : Keeps r0 s) :
    Keeps.R r0 (execStagingPageGrant q idx s) := by
  unfold execStagingPageGrant
  with_reducible apply Keeps.toNext
  split
  · exact h0
  · split
    · exact h0
    · exact Keeps.ite h0 (Keeps.ite (State.setJob_keeps _ _ h0) (Keeps.ite (endJob_keeps _ _ _ _ _ h0) h0))

theorem execJobRun_keeps {r0 : State} (q : Nat) (idx : Nat) (s : State) (h0 : Keeps r0 s) :
    Keeps.R r0 (execJobRun q idx s) := by
  unfold execJobRun
  exact carryDma_keeps _ _ _ _ _ _ h0 (fun _ _ _ => jobRunPre_keeps _ _ (by assumption)) (fun _ _ _ => startRun_keeps
    _ _ (by assumption))

end Sys2Proof.Machine
end

