-- ==== Sys2Proof/Laws/KeepsEngines.lean ====
section
/-! SUPPORT. Every operation over attention, search, the index opcodes, graphics and kernel ends leaves the waiting commands alone, draws
free values forward only, and keeps the canonical form of memory, flash, registers and latches: one lemma per operation. -/

namespace Sys2Proof.Machine

set_option linter.unusedVariables false

/-! ### Attention -/

theorem ARes.andThen_keeps {r0 : State} {α β : Type} (r : ARes α) (f : α → State → ARes β)
    (h0 : Keeps.By Prod.fst r0 r)
    (h1 : ∀ a0 a1, Keeps r0 a1 → Keeps.By Prod.fst r0 (f a0 a1)) : Keeps.By Prod.fst r0 (ARes.andThen r f) := by
  unfold ARes.andThen
  split
  · with_reducible apply_assumption
    exact Keeps.By.of_fst (by assumption)
  · exact Keeps.toFst (Keeps.By.of_fst (by assumption))

theorem attnTouch_keeps {r0 : State} (s : State) (j : Job) (pa : Nat) (n : Nat) (wr : Bool) (h0 : Keeps r0 s) :
    Keeps r0 (attnTouch s j pa n wr) := by
  unfold attnTouch
  exact jobTouch_keeps _ _ _ _ _ h0

theorem attnRead_keeps {r0 : State} (j : Job) (pa : Nat) (n : Nat) (s : State) (h0 : Keeps r0 s) :
    Keeps.By Prod.fst r0 (attnRead j pa n s) := by
  unfold attnRead
  extract_lets -underBinder +onlyGivenNames s1
  have hs1 : Keeps r0 s1 := by subst s1; exact attnTouch_keeps _ _ _ _ _ h0
  clear_value s1
  split
  · exact Keeps.toFst hs1
  · exact Keeps.toFst hs1

theorem pageOf_keeps {r0 : State} (j : Job) (h : List Byte) (e : List Byte) (pos : Nat) (need : Nat) (entry : Nat)
    (s : State) (h0 : Keeps r0 s) :
    Keeps.By Prod.fst r0 (pageOf j h e pos need entry s) := by
  unfold pageOf
  extract_lets -underBinder +onlyGivenNames i; clear_value i
  extract_lets -underBinder +onlyGivenNames off; clear_value off
  split
  · exact Keeps.toFst h0
  · with_reducible apply Keeps.By.ite
    · with_reducible apply Keeps.toFst
      exact h0
    · with_reducible apply ARes.andThen_keeps
      · with_reducible apply attnRead_keeps
        exact h0
      · intro _ _ _
        extract_lets -underBinder +onlyGivenNames v; clear_value v
        extract_lets -underBinder +onlyGivenNames cnt; clear_value cnt
        exact Keeps.By.ite (Keeps.toFst (by assumption)) (Keeps.toFst (by assumption))

theorem loadKeys_keeps {r0 : State} (x6 : List Nat) : ∀ (j : Job) (h : List Byte) (e : List Byte) (c : Nat)
    (entry : Nat) (x5 : Option (Nat × Nat)) (x7 : State),
    Keeps r0 x7 → Keeps.By Prod.fst r0 (loadKeys j h e c entry x5 x6 x7) := by
  induction x6 with
  | nil =>
    intro j h e c entry x5 x7 h0
    rw [loadKeys]
    exact Keeps.toFst h0
  | cons a as ih =>
    intro j h e c entry x5 x7 h0
    rw [loadKeys]
    with_reducible apply ARes.andThen_keeps
    · split
      · exact Keeps.toFst h0
      · exact pageOf_keeps _ _ _ _ _ _ _ h0
    · intro _ _ _
      with_reducible apply ARes.andThen_keeps
      · with_reducible apply attnRead_keeps
        assumption
      · intro _ _ _
        with_reducible apply ARes.andThen_keeps
        · with_reducible apply attnRead_keeps
          assumption
        · intro _ _ _
          with_reducible apply ARes.andThen_keeps
          · with_reducible apply ih
            assumption
          · intro _ _ _
            with_reducible apply Keeps.toFst
            assumption

theorem attnPaced_keeps {r0 : State} (q : Nat) (idx : Nat) (op : Nat) (s : State) (f : State → State)
    (h0 : Keeps r0 s) (h1 : ∀ a0, Keeps r0 a0 → Keeps r0 (f a0)) :
    Keeps r0 (attnPaced q idx op s f) := by
  unfold attnPaced
  split
  · exact h0
  · with_reducible apply paceAct_keeps
    · intro _ _
      with_reducible apply_assumption
      assumption
    · exact h0

theorem takeSeq_keeps {r0 : State} (s : State) (j : Job) (c : Claim) (h0 : Keeps r0 s) :
    Keeps r0 (takeSeq s j c) := by
  unfold takeSeq
  split
  · exact Keeps.ite h0 (State.setJob_keeps _ _ h0)
  · exact h0

theorem attnFaultAt_keeps {r0 : State} (s : State) (j : Job) (c : Claim) (kind : Nat) (h0 : Keeps r0 s) :
    Keeps r0 (attnFaultAt s j c kind) := by
  unfold attnFaultAt
  extract_lets -underBinder +onlyGivenNames s1
  have hs1 : Keeps r0 s1 := by
    subst s1
    exact State.setF_keeps _ _ _ (State.setF_keeps _ _ _ (State.setF_keeps _ _ _ h0))
  clear_value s1
  extract_lets -underBinder +onlyGivenNames s2
  have hs2 : Keeps r0 s2 := by subst s2; exact State.addSat_keeps _ _ _ hs1
  clear_value s2
  extract_lets -underBinder +onlyGivenNames s3
  have hs3 : Keeps r0 s3 := by subst s3; exact Keeps.ite (State.addSat_keeps _ _ _ hs2) hs2
  clear_value s3
  exact restartJob_keeps _ _ _ _ hs3

theorem loseSeq_keeps {r0 : State} (s : State) (k : Job) (c : Claim) (h0 : Keeps r0 s) :
    Keeps r0 (loseSeq s k c) := by
  unfold loseSeq
  extract_lets -underBinder +onlyGivenNames s1
  have hs1 : Keeps r0 s1 := by subst s1; exact State.setJob_keeps _ _ h0
  clear_value s1
  split
  · exact Keeps.ite hs1 (attnFaultAt_keeps _ _ _ _ hs1)
  · exact hs1

theorem claim_keeps {r0 : State} (s : State) (j : Job) (entry : Nat) (item : Nat) (h0 : Keeps r0 s) :
    Keeps.O r0 (claim s j entry item) := by
  unfold claim
  extract_lets -underBinder +onlyGivenNames c; clear_value c
  split
  · exact Keeps.toSome (takeSeq_keeps _ _ _ h0)
  · exact Keeps.O.ite (Keeps.toSome (takeSeq_keeps _ _ _ (loseSeq_keeps _ _ _ h0))) Keeps.noState

theorem attnFault_keeps {r0 : State} (s : State) (j : Job) (kind : Nat) (entry : Nat) (h0 : Keeps r0 s) :
    Keeps r0 (attnFault s j kind entry) := by
  unfold attnFault
  exact attnFaultAt_keeps _ _ _ _ h0

theorem appendToken_keeps {r0 : State} (j : Job) (h : List Byte) (seq : Nat) (item : Nat) (kb : List Byte)
    (vb : List Byte) (s : State) (h0 : Keeps r0 s) :
    Keeps.By Prod.fst r0 (appendToken j h seq item kb vb s) := by
  unfold appendToken
  extract_lets -underBinder +onlyGivenNames ea; clear_value ea
  with_reducible apply ARes.andThen_keeps
  · with_reducible apply attnRead_keeps
    exact h0
  · intro _ _ _
    split
    · exact Keeps.toFst (by assumption)
    · split
      · exact Keeps.toFst (Keeps.O.some_eq (claim_keeps _ _ _ _ (by assumption)) (by assumption))
      · extract_lets -underBinder +onlyGivenNames r; clear_value r
        with_reducible apply Keeps.By.ite
        · with_reducible apply Keeps.toFst
          with_reducible refine Keeps.O.some_eq ?_ (by assumption)
          with_reducible apply claim_keeps
          assumption
        · with_reducible apply Keeps.By.ite
          · with_reducible apply Keeps.toFst
            with_reducible refine Keeps.O.some_eq ?_ (by assumption)
            with_reducible apply claim_keeps
            assumption
          · with_reducible apply ARes.andThen_keeps
            · with_reducible apply pageOf_keeps
              with_reducible refine Keeps.O.some_eq ?_ (by assumption)
              with_reducible apply claim_keeps
              assumption
            · intro _ _ _
              extract_lets -underBinder +onlyGivenNames ka; clear_value ka
              extract_lets -underBinder +onlyGivenNames va; clear_value va
              extract_lets -underBinder +onlyGivenNames s3
              have hs3 : Keeps r0 s3 := by
                subst s3
                exact wrMem_keeps _ _ _ _ (wrMem_keeps _ _ _ _ (attnTouch_keeps _ _ _ _ _ (attnTouch_keeps _ _ _ _ _
                  (by assumption))))
              clear_value s3
              split
              · exact Keeps.toFst hs3
              · exact Keeps.toFst (State.setJob_keeps _ _ hs3)

theorem appendAll_keeps {r0 : State} (x2 : List (Nat × Nat × List Byte × List Byte)) : ∀ (j : Job) (h : List Byte)
    (x3 : State),
    Keeps r0 x3 → Keeps.By Prod.fst r0 (appendAll j h x2 x3) := by
  induction x2 with
  | nil =>
    intro j h x3 h0
    rw [appendAll]
    exact Keeps.toFst h0
  | cons a as ih =>
    intro j h x3 h0
    rw [appendAll]
    exact ARes.andThen_keeps _ _ (appendToken_keeps _ _ _ _ _ _ _ h0) (fun _ _ _ => ih _ _ _ (by assumption))

theorem appendRows_keeps {r0 : State} (j : Job) (h : List Byte) (st : List Byte) (t : Nat) (s : State)
    (h0 : Keeps r0 s) :
    Keeps.By Prod.fst r0 (appendRows j h st t s) := by
  unfold appendRows
  extract_lets -underBinder +onlyGivenNames n; clear_value n
  extract_lets -underBinder +onlyGivenNames w; clear_value w
  exact ARes.andThen_keeps _ _ (attnRead_keeps _ _ _ _ h0) (fun _ _ _ => ARes.andThen_keeps _ _ (attnRead_keeps _ _ _
    _ (by assumption)) (fun _ _ _ => appendAll_keeps _ _ _ _ (by assumption)))

theorem stepDone_keeps {r0 : State} (s : State) (j : Job) (x2 : Except AErr Unit) (h0 : Keeps r0 s) :
    Keeps r0 (stepDone s j x2) := by
  unfold stepDone
  split
  · split
    · exact attnFault_keeps _ _ _ _ h0
    · exact h0
  · split
    · exact jobPoison_keeps _ _ _ h0
    · exact h0
  · split
    · extract_lets -underBinder +onlyGivenNames f
      have hf : Keeps.By Prod.snd r0 f := by subst f; exact State.fresh_keeps h0
      clear_value f
      exact progress_keeps _ _ _ (State.addSat_keeps _ _ _ (State.setJob_keeps _ _ (Keeps.By.snd hf)))
    · exact h0

theorem appendStep_keeps {r0 : State} (q : Nat) (idx : Nat) (s : State) (h0 : Keeps r0 s) :
    Keeps r0 (appendStep q idx s) := by
  unfold appendStep
  split
  · exact h0
  · extract_lets -underBinder +onlyGivenNames n; clear_value n
    extract_lets -underBinder +onlyGivenNames w; clear_value w
    extract_lets -underBinder +onlyGivenNames ko; clear_value ko
    extract_lets -underBinder +onlyGivenNames vo; clear_value vo
    with_reducible apply Keeps.ite
    · with_reducible apply attnFault_keeps
      exact h0
    · extract_lets -underBinder +onlyGivenNames r
      have hr : Keeps.By Prod.fst r0 r := by
        subst r
        split
        · exact appendRows_keeps _ _ _ _ _ h0
        · exact Keeps.toFst h0
        · exact Keeps.toFst h0
      clear_value r
      exact stepDone_keeps _ _ _ (Keeps.By.fst hr)

theorem execAppend_keeps {r0 : State} (q : Nat) (idx : Nat) (s : State) (h0 : Keeps r0 s) :
    Keeps.R r0 (execAppend q idx s) := by
  unfold execAppend
  exact Keeps.toNext (attnPaced_keeps _ _ _ _ _ h0 (fun _ _ => appendStep_keeps _ _ _ (by assumption)))

theorem commitSeq_keeps {r0 : State} (s : State) (j : Job) (r : KvRec) (h0 : Keeps r0 s) :
    Keeps r0 (commitSeq s j r) := by
  unfold commitSeq
  extract_lets -underBinder +onlyGivenNames e; clear_value e
  extract_lets -underBinder +onlyGivenNames s1
  have hs1 : Keeps r0 s1 := by
    subst s1
    with_reducible apply Keeps.foldl
    · exact h0
    · intro _ _ _
      with_reducible apply Keeps.ite
      · extract_lets -underBinder +onlyGivenNames a; clear_value a
        extract_lets -underBinder +onlyGivenNames v; clear_value v
        exact wrMem_keeps _ _ _ _ (by assumption)
      · assumption
  clear_value s1
  exact State.addWrap_keeps _ _ _ (wrMem_keeps _ _ _ _ hs1)

theorem attnStore_keeps {r0 : State} (s : State) (j : Job) (t : Nat) (off : Nat) (bs : List Byte) (h0 : Keeps r0 s) :
    Keeps r0 (attnStore s j t off bs) := by
  unfold attnStore
  exact stLocal_keeps _ _ _ _ _ (attnTouch_keeps _ _ _ _ _ h0)

theorem entryPipe_keeps {r0 : State} (s : State) (j : Job) (h0 : Keeps r0 s) :
    Keeps.By Prod.snd r0 (entryPipe s j) := by
  unfold entryPipe
  with_reducible apply Keeps.By.ite
  · extract_lets -underBinder +onlyGivenNames f
    have hf : Keeps.By Prod.snd r0 f := by subst f; exact State.fresh_keeps h0
    clear_value f
    exact Keeps.toSnd (Keeps.By.snd hf)
  · with_reducible apply Keeps.toSnd
    exact h0

theorem entryLands_keeps {r0 : State} (s : State) (j : Job) (h : List Byte) (st : List Byte) (b : List Byte)
    (ot : Nat) (L : Nat) (rows : List (List Byte × Nat × Nat)) (h0 : Keeps r0 s) :
    Keeps r0 (entryLands s j h st b ot L rows) := by
  unfold entryLands
  extract_lets -underBinder +onlyGivenNames on; clear_value on
  extract_lets -underBinder +onlyGivenNames s1
  have hs1 : Keeps r0 s1 := by
    subst s1
    with_reducible apply Keeps.foldl
    · exact h0
    · exact fun _ _ _ => attnStore_keeps _ _ _ _ _ (attnStore_keeps _ _ _ _ _ (by assumption))
  clear_value s1
  extract_lets -underBinder +onlyGivenNames pp
  have hpp : Keeps.By Prod.snd r0 pp := by subst pp; exact entryPipe_keeps _ _ hs1
  clear_value pp
  extract_lets -underBinder +onlyGivenNames n; clear_value n
  exact State.addWrap_keeps _ _ _ (State.addSat_keeps _ _ _ (State.addSat_keeps _ _ _ (Keeps.By.snd hpp)))

theorem attendEntry_keeps {r0 : State} (s : State) (j : Job) (h : List Byte) (st : List Byte) (entry : Nat)
    (b : List Byte) (h0 : Keeps r0 s) :
    Keeps.By Prod.fst r0 (attendEntry s j h st entry b) := by
  unfold attendEntry
  extract_lets -underBinder +onlyGivenNames nq; clear_value nq
  extract_lets -underBinder +onlyGivenNames pos; clear_value pos
  extract_lets -underBinder +onlyGivenNames qn; clear_value qn
  extract_lets -underBinder +onlyGivenNames on; clear_value on
  extract_lets -underBinder +onlyGivenNames seq; clear_value seq
  with_reducible apply Keeps.By.ite
  · with_reducible apply Keeps.toFst
    exact h0
  · split
    · extract_lets -underBinder +onlyGivenNames L; clear_value L
      with_reducible apply ARes.andThen_keeps
      · with_reducible apply attnRead_keeps
        exact h0
      · intro _ _ _
        with_reducible apply Keeps.By.ite
        · with_reducible apply Keeps.toFst
          assumption
        · with_reducible apply ARes.andThen_keeps
          · with_reducible apply attnRead_keeps
            assumption
          · intro _ _ _
            extract_lets -underBinder +onlyGivenNames seen; clear_value seen
            exact ARes.andThen_keeps _ _ (loadKeys_keeps _ _ _ _ _ _ _ _ (by assumption)) (fun _ _ _ => Keeps.toFst
              (entryLands_keeps _ _ _ _ _ _ _ _ (by assumption)))
    · exact Keeps.toFst h0
    · exact Keeps.toFst h0
    · exact Keeps.toFst h0

theorem readLines_keeps {r0 : State} (x1 : List Nat) : ∀ (j : Job) (x2 : State),
    Keeps r0 x2 → Keeps.By Prod.fst r0 (readLines j x1 x2) := by
  induction x1 with
  | nil =>
    intro j x2 h0
    rw [readLines]
    exact Keeps.toFst h0
  | cons a as ih =>
    intro j x2 h0
    rw [readLines]
    exact ARes.andThen_keeps _ _ (attnRead_keeps _ _ _ _ h0) (fun _ _ _ => ih _ _ (by assumption))

theorem gatherRow_keeps {r0 : State} (j : Job) (base : Nat) (stride : Nat) (w : Nat) (d : Nat) (s : State)
    (h0 : Keeps r0 s) :
    Keeps.By Prod.fst r0 (gatherRow j base stride w d s) := by
  unfold gatherRow
  exact ARes.andThen_keeps _ _ (readLines_keeps _ _ _ h0) (fun _ _ _ => Keeps.toFst (by assumption))

theorem scatterAll_keeps {r0 : State} (x5 : List (List Byte × Nat)) : ∀ (j : Job) (h : List Byte) (t : Nat)
    (tile : Nat) (stride : Nat) (x6 : State),
    Keeps r0 x6 → Keeps.By Prod.fst r0 (scatterAll j h t tile stride x5 x6) := by
  induction x5 with
  | nil =>
    intro j h t tile stride x6 h0
    rw [scatterAll]
    exact Keeps.toFst h0
  | cons a as ih =>
    intro j h t tile stride x6 h0
    rw [scatterAll]
    with_reducible apply Keeps.By.ite
    · with_reducible apply Keeps.toFst
      exact h0
    · split
      · exact ARes.andThen_keeps _ _ (gatherRow_keeps _ _ _ _ _ _ h0) (fun _ _ _ => ARes.andThen_keeps _ _
          (gatherRow_keeps _ _ _ _ _ _ (by assumption)) (fun _ _ _ => ARes.andThen_keeps _ _ (appendToken_keeps _ _ _
          _ _ _ _ (by assumption)) (fun _ _ _ => ih _ _ _ _ _ _ (by assumption))))
      · exact Keeps.toFst h0
      · exact Keeps.toFst h0

theorem attendAll_keeps {r0 : State} (x3 : List (Nat × Nat × List Byte)) : ∀ (j : Job) (h : List Byte)
    (st : List Byte) (x4 : State),
    Keeps r0 x4 → Keeps.By Prod.fst r0 (attendAll j h st x3 x4) := by
  induction x3 with
  | nil =>
    intro j h st x4 h0
    rw [attendAll]
    exact Keeps.toFst h0
  | cons a as ih =>
    intro j h st x4 h0
    rw [attendAll]
    exact ARes.andThen_keeps _ _ (attendEntry_keeps _ _ _ _ _ _ h0) (fun _ _ _ => ih _ _ _ _ (by assumption))

theorem attendBatch_keeps {r0 : State} (j : Job) (h : List Byte) (st : List Byte) (bs : List Byte) (s : State)
    (h0 : Keeps r0 s) :
    Keeps.By Prod.fst r0 (attendBatch j h st bs s) := by
  unfold attendBatch
  extract_lets -underBinder +onlyGivenNames es; clear_value es
  with_reducible apply attendAll_keeps
  with_reducible apply Keeps.foldl
  · exact h0
  · exact fun _ _ _ => State.addWrap_keeps _ _ _ (by assumption)

theorem scatterStep_keeps {r0 : State} (q : Nat) (idx : Nat) (s : State) (h0 : Keeps r0 s) :
    Keeps r0 (scatterStep q idx s) := by
  unfold scatterStep
  split
  · exact h0
  · extract_lets -underBinder +onlyGivenNames n; clear_value n
    extract_lets -underBinder +onlyGivenNames stride; clear_value stride
    extract_lets -underBinder +onlyGivenNames w; clear_value w
    with_reducible apply Keeps.ite
    · with_reducible apply attnFault_keeps
      exact h0
    · extract_lets -underBinder +onlyGivenNames r
      have hr : Keeps.By Prod.fst r0 r := by
        subst r
        split
        · exact Keeps.toFst h0
        · exact ARes.andThen_keeps _ _ (attnRead_keeps _ _ _ _ h0) (fun _ _ _ => scatterAll_keeps _ _ _ _ _ _ _ (by
            assumption))
      clear_value r
      exact stepDone_keeps _ _ _ (Keeps.By.fst hr)

theorem attendStep_keeps {r0 : State} (q : Nat) (idx : Nat) (s : State) (h0 : Keeps r0 s) :
    Keeps r0 (attendStep q idx s) := by
  unfold attendStep
  split
  · exact h0
  · extract_lets -underBinder +onlyGivenNames n; clear_value n
    with_reducible apply Keeps.ite
    · with_reducible apply attnFault_keeps
      exact h0
    · extract_lets -underBinder +onlyGivenNames r
      have hr : Keeps.By Prod.fst r0 r := by
        subst r
        split
        · exact Keeps.toFst h0
        · exact ARes.andThen_keeps _ _ (attnRead_keeps _ _ _ _ h0) (fun _ _ _ => attendBatch_keeps _ _ _ _ _ (by
            assumption))
      clear_value r
      exact stepDone_keeps _ _ _ (Keeps.By.fst hr)

theorem execScatter_keeps {r0 : State} (q : Nat) (idx : Nat) (s : State) (h0 : Keeps r0 s) :
    Keeps.R r0 (execScatter q idx s) := by
  unfold execScatter
  exact Keeps.toNext (attnPaced_keeps _ _ _ _ _ h0 (fun _ _ => scatterStep_keeps _ _ _ (by assumption)))

theorem execAttend_keeps {r0 : State} (q : Nat) (idx : Nat) (s : State) (h0 : Keeps r0 s) :
    Keeps.R r0 (execAttend q idx s) := by
  unfold execAttend
  exact Keeps.toNext (attnPaced_keeps _ _ _ _ _ h0 (fun _ _ => attendStep_keeps _ _ _ (by assumption)))

/-! ### Search -/

theorem Io.rd_keeps {r0 : State} (io : Io) (w : Who) (va : Nat) (n : Nat) (h0 : Keeps.By Io.s r0 io) :
    Keeps.By1 Io.s r0 (Io.rd io w va n) := by
  unfold Io.rd
  split
  · exact Keeps.toPair h0
  · split
    · exact Keeps.toPair (Keeps.toIo (Keeps.By.eq_fst (by assumption) (dmaRead_keeps _ _ _ _ (Keeps.By.io h0))))
    · exact Keeps.toPair (Keeps.toIo (Keeps.By.eq_fst (by assumption) (dmaRead_keeps _ _ _ _ (Keeps.By.io h0))))

theorem readRec_keeps {r0 : State} (io : Io) (w : Who) (x : IdxRec) (a : Nat) (i : Nat) (h0 : Keeps.By Io.s r0 io) :
    Keeps.By1 Io.s r0 (readRec io w x a i) := by
  unfold readRec
  extract_lets -underBinder +onlyGivenNames r
  have hr : Keeps.By1 Io.s r0 r := by subst r; exact Io.rd_keeps _ _ _ _ h0
  clear_value r
  exact Keeps.toPair (Keeps.By1.fst hr)

theorem liveSlot_keeps {r0 : State} (w : Who) (x : IdxRec) (ar : Area) (id : Nat) (io : Io)
    (h0 : Keeps.By Io.s r0 io) :
    Keeps.By1 Io.s r0 (liveSlot w x ar id io) := by
  unfold liveSlot
  with_reducible apply Keeps.By1.foldl
  · exact Keeps.toPair h0
  · intro _ _ _
    extract_lets -underBinder +onlyGivenNames e
    have he : Keeps.By1 Io.s r0 e := by subst e; exact readRec_keeps _ _ _ _ _ (Keeps.By1.fst (by assumption))
    clear_value e
    exact Keeps.toPair (Keeps.By1.fst he)

theorem Io.wr_keeps {r0 : State} (io : Io) (w : Who) (va : Nat) (bs : List Byte) (h0 : Keeps.By Io.s r0 io) :
    Keeps.By Io.s r0 (Io.wr io w va bs) := by
  unfold Io.wr
  split
  · exact h0
  · split
    exact Keeps.toIo (Keeps.By.eq_fst (by assumption) (dmaWrite_keeps _ _ _ _ (Keeps.By.io h0)))

theorem kill_keeps {r0 : State} (w : Who) (x : IdxRec) (a : Nat) (i : Nat) (epoch : Nat) (io : Io)
    (h0 : Keeps.By Io.s r0 io) :
    Keeps.By Io.s r0 (kill w x a i epoch io) := by
  unfold kill
  exact Io.wr_keeps _ _ _ _ h0

theorem idMapNote_keeps {r0 : State} (w : Who) (x : IdxRec) (a : Nat) (io : Io) (h0 : Keeps.By Io.s r0 io) :
    Keeps.By Io.s r0 (idMapNote w x a io) := by
  unfold idMapNote
  extract_lets -underBinder +onlyGivenNames f
  have hf : Keeps.By Prod.snd r0 f := by subst f; exact State.fresh_keeps (Keeps.By.io h0)
  clear_value f
  extract_lets -underBinder +onlyGivenNames g
  have hg : Keeps.By Prod.snd r0 g := by subst g; exact State.fresh_keeps (Keeps.By.snd hf)
  clear_value g
  exact Io.wr_keeps _ _ _ _ (Keeps.toIo (Keeps.By.snd hg))

theorem readVec_keeps {r0 : State} (io : Io) (w : Who) (x : IdxRec) (va : Nat) (h0 : Keeps.By Io.s r0 io) :
    Keeps.By1 Io.s r0 (readVec io w x va) := by
  unfold readVec
  extract_lets -underBinder +onlyGivenNames r
  have hr : Keeps.By1 Io.s r0 r := by subst r; exact Io.rd_keeps _ _ _ _ h0
  clear_value r
  exact Keeps.toPair (Keeps.By1.fst hr)

theorem coarseDists_keeps {r0 : State} (io : Io) (w : Who) (x : IdxRec) (v : List Num) (h0 : Keeps.By Io.s r0 io) :
    Keeps.By1 Io.s r0 (coarseDists io w x v) := by
  unfold coarseDists
  with_reducible apply Keeps.By1.foldl
  · exact Keeps.toPair h0
  · intro _ _ _
    extract_lets -underBinder +onlyGivenNames r
    have hr : Keeps.By1 Io.s r0 r := by subst r; exact readVec_keeps _ _ _ _ (Keeps.By1.fst (by assumption))
    clear_value r
    exact Keeps.toPair (Keeps.By1.fst hr)

theorem linkList_keeps {r0 : State} (x5 : Nat) : ∀ (w : Who) (x : IdxRec) (ar : Area) (i : Nat) (l : Nat) (x6 : Nat)
    (x7 : Io),
    Keeps.By Io.s r0 x7 → Keeps.By1 Io.s r0 (linkList w x ar i l x5 x6 x7) := by
  induction x5 with
  | zero =>
    intro w x ar i l x6 x7 h0
    rw [linkList]
    exact Keeps.toPair h0
  | succ n ih =>
    intro w x ar i l x6 x7 h0
    rw [linkList]
    with_reducible apply Keeps.By1.ite
    · with_reducible apply Keeps.toPair
      with_reducible apply Io.wr_keeps
      with_reducible apply Io.wr_keeps
      with_reducible apply Keeps.By1.fst
      with_reducible apply Io.rd_keeps
      exact h0
    · with_reducible apply Keeps.By1.ite
      · with_reducible apply ih
        with_reducible apply Keeps.By1.fst
        with_reducible apply Io.rd_keeps
        exact h0
      · extract_lets -underBinder +onlyGivenNames nb; clear_value nb
        extract_lets -underBinder +onlyGivenNames blk; clear_value blk
        exact Keeps.toPair (Io.wr_keeps _ _ _ _ (Io.wr_keeps _ _ _ _ (Keeps.By1.fst (Io.rd_keeps _ _ _ _ h0))))

theorem visit_keeps {r0 : State} (w : Who) (x : IdxRec) (c : QueryCtx) (rule : WalkRule) (a : Nat) (breadth : Nat)
    (st : WalkState) (i : Nat) (h0 : Keeps.By WalkState.st r0 st) :
    Keeps.By WalkState.st r0 (visit w x c rule a breadth st i) := by
  unfold visit
  with_reducible apply Keeps.By.ite
  · with_reducible apply Keeps.toWalk
    with_reducible apply Keeps.By.walk
    exact h0
  · with_reducible apply Keeps.By.ite
    · exact h0
    · extract_lets -underBinder +onlyGivenNames r
      have hr : Keeps.By1 Io.s r0 r := by subst r; exact readRec_keeps _ _ _ _ _ (Keeps.By.walk h0)
      clear_value r
      with_reducible apply Keeps.By.ite
      · extract_lets -underBinder +onlyGivenNames q; clear_value q
        exact Keeps.toWalk (Keeps.By1.fst hr)
      · with_reducible apply Keeps.toWalk
        with_reducible apply Keeps.By1.fst
        exact hr

theorem walkGraph_keeps {r0 : State} (x6 : Nat) : ∀ (w : Who) (x : IdxRec) (c : QueryCtx) (rule : WalkRule)
    (a : Nat) (breadth : Nat) (x7 : WalkState),
    Keeps.By WalkState.st r0 x7 → Keeps.By WalkState.st r0 (walkGraph w x c rule a breadth x6 x7) := by
  induction x6 with
  | zero =>
    intro w x c rule a breadth x7 h0
    rw [walkGraph]
    exact h0
  | succ n ih =>
    intro w x c rule a breadth x7 h0
    rw [walkGraph]
    split
    · exact h0
    · extract_lets -underBinder +onlyGivenNames st1
      have hst1 : Keeps.By WalkState.st r0 st1 := by subst st1; exact Keeps.toWalk (Keeps.By.walk h0)
      clear_value st1
      extract_lets -underBinder +onlyGivenNames st2
      have hst2 : Keeps.By WalkState.st r0 st2 := by
        subst st2
        with_reducible apply Keeps.By.foldl
        · exact hst1
        · intro _ _ _
          extract_lets -underBinder +onlyGivenNames l
          have hl : Keeps.By1 Io.s r0 l := by subst l; exact Io.rd_keeps _ _ _ _ (Keeps.By.walk (by assumption))
          clear_value l
          extract_lets -underBinder +onlyGivenNames u1
          have hu1 : Keeps.By WalkState.st r0 u1 := by subst u1; exact Keeps.toWalk (Keeps.By1.fst hl)
          clear_value u1
          extract_lets -underBinder +onlyGivenNames t; clear_value t
          exact Keeps.By.ite hu1 (visit_keeps _ _ _ _ _ _ _ _ hu1)
      clear_value st2
      exact ih _ _ _ _ _ _ _ hst2

theorem linkGraph_keeps {r0 : State} (w : Who) (x : IdxRec) (ar : Area) (i : Nat) (epoch : Nat) (c : QueryCtx)
    (io : Io) (h0 : Keeps.By Io.s r0 io) :
    Keeps.By Io.s r0 (linkGraph w x ar i epoch c io) := by
  unfold linkGraph
  extract_lets -underBinder +onlyGivenNames rule; clear_value rule
  extract_lets -underBinder +onlyGivenNames st
  have hst : Keeps.By WalkState.st r0 st := by
    subst st
    exact Keeps.By.ite (Keeps.toWalk h0) (walkGraph_keeps _ _ _ _ _ _ _ _ (visit_keeps _ _ _ _ _ _ _ _ (Keeps.toWalk
      h0)))
  clear_value st
  extract_lets -underBinder +onlyGivenNames near; clear_value near
  extract_lets -underBinder +onlyGivenNames links; clear_value links
  with_reducible apply Keeps.By.foldl
  · exact Io.wr_keeps _ _ _ _ (Keeps.By.walk hst)
  · intro _ _ _
    extract_lets -underBinder +onlyGivenNames r
    have hr : Keeps.By1 Io.s r0 r := by subst r; exact Io.rd_keeps _ _ _ _ (by assumption)
    clear_value r
    split
    · exact Io.wr_keeps _ _ _ _ (Keeps.By1.fst hr)
    · exact Keeps.By1.fst hr

theorem insertOne_keeps {r0 : State} (w : Who) (x : IdxRec) (cb : List Byte) (epoch : Nat) (id : Nat)
    (v : List Byte) (r : Io × Area) (h0 : Keeps.By1 Io.s r0 r) :
    Keeps.By1 Io.s r0 (insertOne w x cb epoch id v r) := by
  unfold insertOne
  split
  extract_lets -underBinder +onlyGivenNames i; clear_value i
  extract_lets -underBinder +onlyGivenNames vec; clear_value vec
  extract_lets -underBinder +onlyGivenNames old
  have hold : Keeps.By1 Io.s r0 old := by
    subst old
    exact liveSlot_keeps _ _ _ _ _ (Keeps.By1.of_pair (by assumption))
  clear_value old
  extract_lets -underBinder +onlyGivenNames io1
  have hio1 : Keeps.By Io.s r0 io1 := by
    subst io1
    split
    · exact kill_keeps _ _ _ _ _ _ (Keeps.By1.fst hold)
    · exact Keeps.By1.fst hold
  clear_value io1
  extract_lets -underBinder +onlyGivenNames code; clear_value code
  extract_lets -underBinder +onlyGivenNames io2
  have hio2 : Keeps.By Io.s r0 io2 := by subst io2; exact Io.wr_keeps _ _ _ _ hio1
  clear_value io2
  extract_lets -underBinder +onlyGivenNames io3
  have hio3 : Keeps.By Io.s r0 io3 := by subst io3; exact Keeps.By.ite (Io.wr_keeps _ _ _ _ hio2) hio2
  clear_value io3
  extract_lets -underBinder +onlyGivenNames io4
  have hio4 : Keeps.By Io.s r0 io4 := by subst io4; exact idMapNote_keeps _ _ _ _ hio3
  clear_value io4
  with_reducible apply Keeps.By1.ite
  · extract_lets -underBinder +onlyGivenNames ds
    have hds : Keeps.By1 Io.s r0 ds := by subst ds; exact coarseDists_keeps _ _ _ _ hio4
    clear_value ds
    extract_lets -underBinder +onlyGivenNames l; clear_value l
    extract_lets -underBinder +onlyGivenNames t
    have ht : Keeps.By1 Io.s r0 t := by subst t; exact linkList_keeps _ _ _ _ _ _ _ _ (Keeps.By1.fst hds)
    clear_value t
    exact Keeps.toPair (Keeps.By1.fst ht)
  · with_reducible apply Keeps.toPair
    with_reducible apply linkGraph_keeps
    exact hio4

theorem insertAll_keeps {r0 : State} (w : Who) (x : IdxRec) (cb : List Byte) (epoch : Nat) (r : Io × Area)
    (es : List (Nat × List Byte)) (h0 : Keeps.By1 Io.s r0 r) :
    Keeps.By1 Io.s r0 (insertAll w x cb epoch r es) := by
  unfold insertAll
  with_reducible apply Keeps.By1.foldl
  · exact h0
  · exact fun _ _ _ => insertOne_keeps _ _ _ _ _ _ _ (by assumption)

theorem Io.num_keeps {r0 : State} (io : Io) (w : Who) (va : Nat) (n : Nat) (h0 : Keeps.By Io.s r0 io) :
    Keeps.By1 Io.s r0 (Io.num io w va n) := by
  unfold Io.num
  extract_lets -underBinder +onlyGivenNames r
  have hr : Keeps.By1 Io.s r0 r := by subst r; exact Io.rd_keeps _ _ _ _ h0
  clear_value r
  exact Keeps.toPair (Keeps.By1.fst hr)

theorem State.setIdx_keeps {r0 : State} (s : State) (id : Nat) (x : Option IdxRec) (h0 : Keeps r0 s) :
    Keeps r0 (State.setIdx s id x) := by
  unfold State.setIdx
  with_reducible exact Keeps.upd h0 rfl rfl rfl rfl rfl rfl

theorem putIdx_keeps {r0 : State} (io : Io) (w : Who) (id : Nat) (x : IdxRec) (h0 : Keeps.By Io.s r0 io) :
    Keeps.By Io.s r0 (putIdx io w id x) := by
  unfold putIdx
  extract_lets -underBinder +onlyGivenNames io1
  have hio1 : Keeps.By Io.s r0 io1 := by subst io1; exact Io.wr_keeps _ _ _ _ h0
  clear_value io1
  exact Keeps.toIo (State.setIdx_keeps _ _ _ (Keeps.By.io hio1))

theorem listSlots_keeps {r0 : State} (x3 : Nat) : ∀ (w : Who) (x : IdxRec) (a : Nat) (x4 : Nat)
    (x5 : Io × List Nat × Nat),
    Keeps.By1 Io.s r0 x5 → Keeps.By1 Io.s r0 (listSlots w x a x3 x4 x5) := by
  induction x3 with
  | zero =>
    intro w x a x4 x5 h0
    rw [listSlots]
    exact h0
  | succ n ih =>
    intro w x a x4 x5 h0
    rw [listSlots]
    exact Keeps.By1.ite (Keeps.toPair (Keeps.By1.fst (Io.rd_keeps _ _ _ _ (Keeps.By1.fst h0)))) (Keeps.By1.ite
      (Keeps.toPair (Keeps.By1.fst (Io.rd_keeps _ _ _ _ (Keeps.By1.fst h0)))) (ih _ _ _ _ _ (Keeps.toPair
      (Keeps.By1.fst (Io.rd_keeps _ _ _ _ (Keeps.By1.fst h0))))))

theorem candidates_keeps {r0 : State} (io : Io) (w : Who) (x : IdxRec) (c : QueryCtx) (v : List Num) (e : Nat)
    (bound : Nat) (breadth : Nat) (h0 : Keeps.By Io.s r0 io) :
    Keeps.By1 Io.s r0 (candidates io w x c v e bound breadth) := by
  unfold candidates
  extract_lets -underBinder +onlyGivenNames a; clear_value a
  with_reducible apply Keeps.By1.ite
  · extract_lets -underBinder +onlyGivenNames ds
    have hds : Keeps.By1 Io.s r0 ds := by subst ds; exact coarseDists_keeps _ _ _ _ h0
    clear_value ds
    extract_lets -underBinder +onlyGivenNames order; clear_value order
    extract_lets -underBinder +onlyGivenNames lists; clear_value lists
    extract_lets -underBinder +onlyGivenNames sl
    have hsl : Keeps.By1 Io.s r0 sl := by
      subst sl
      with_reducible apply Keeps.By1.foldl
      · exact Keeps.toPair (Keeps.By1.fst hds)
      · exact fun _ _ _ => listSlots_keeps _ _ _ _ _ _ (by assumption)
    clear_value sl
    extract_lets -underBinder +onlyGivenNames good; clear_value good
    extract_lets -underBinder +onlyGivenNames r
    have hr : Keeps.By1 Io.s r0 r := by
      subst r
      with_reducible apply Keeps.By1.foldl
      · exact Keeps.toPair (Keeps.By1.fst hsl)
      · intro _ _ _
        extract_lets -underBinder +onlyGivenNames q
        have hq : Keeps.By1 Io.s r0 q := by subst q; exact readRec_keeps _ _ _ _ _ (Keeps.By1.fst (by assumption))
        clear_value q
        exact Keeps.By1.ite (Keeps.toPair (Keeps.By1.fst hq)) (Keeps.toPair (Keeps.By1.fst hq))
    clear_value r
    exact Keeps.toPair (Keeps.By1.fst hr)
  · extract_lets -underBinder +onlyGivenNames en; clear_value en
    with_reducible apply Keeps.By1.ite
    · with_reducible apply Keeps.toPair
      exact h0
    · extract_lets -underBinder +onlyGivenNames y
      have hy : Keeps.By1 Io.s r0 y := by subst y; exact readRec_keeps _ _ _ _ _ h0
      clear_value y
      with_reducible apply Keeps.By1.ite
      · with_reducible apply Keeps.toPair
        with_reducible apply Keeps.By1.fst
        exact hy
      · extract_lets -underBinder +onlyGivenNames rule; clear_value rule
        extract_lets -underBinder +onlyGivenNames st
        have hst : Keeps.By WalkState.st r0 st := by
          subst st
          exact walkGraph_keeps _ _ _ _ _ _ _ _ (visit_keeps _ _ _ _ _ _ _ _ (Keeps.toWalk (Keeps.By1.fst hy)))
        clear_value st
        exact Keeps.toPair (Keeps.By.walk hst)

theorem readCodes_keeps {r0 : State} (io : Io) (w : Who) (x : IdxRec) (h0 : Keeps.By Io.s r0 io) :
    Keeps.By1 Io.s r0 (readCodes io w x) := by
  unfold readCodes
  exact Io.rd_keeps _ _ _ _ h0

theorem queryOne_keeps {r0 : State} (io : Io) (w : Who) (x : IdxRec) (cb : List Byte) (e : Nat) (bound : Nat)
    (k : Nat) (breadth : Nat) (rerank : Nat) (va : Nat) (h0 : Keeps.By Io.s r0 io) :
    Keeps.By1 Io.s r0 (queryOne io w x cb e bound k breadth rerank va) := by
  unfold queryOne
  extract_lets -underBinder +onlyGivenNames v
  have hv : Keeps.By1 Io.s r0 v := by subst v; exact readVec_keeps _ _ _ _ h0
  clear_value v
  extract_lets -underBinder +onlyGivenNames c
  have hc : Keeps.By1 Io.s r0 c := by subst c; exact candidates_keeps _ _ _ _ _ _ _ _ (Keeps.By1.fst hv)
  clear_value c
  extract_lets -underBinder +onlyGivenNames best; clear_value best
  extract_lets -underBinder +onlyGivenNames rr
  have hrr : Keeps.By1 Io.s r0 rr := by
    subst rr
    with_reducible apply Keeps.By1.ite
    · with_reducible apply Keeps.toPair
      with_reducible apply Keeps.By1.fst
      exact hc
    · with_reducible apply Keeps.By1.foldl
      · exact Keeps.toPair (Keeps.By1.fst hc)
      · intro _ _ _
        extract_lets -underBinder +onlyGivenNames u
        have hu : Keeps.By1 Io.s r0 u := by subst u; exact readVec_keeps _ _ _ _ (Keeps.By1.fst (by assumption))
        clear_value u
        exact Keeps.toPair (Keeps.By1.fst hu)
  clear_value rr
  extract_lets -underBinder +onlyGivenNames res; clear_value res
  extract_lets -underBinder +onlyGivenNames bytes; clear_value bytes
  exact Keeps.toPair (Keeps.By1.fst hrr)

theorem queryRange_keeps {r0 : State} (io : Io) (w : Who) (x : IdxRec) (cb : List Byte) (e : Nat) (bound : Nat)
    (k : Nat) (breadth : Nat) (rerank : Nat) (va : Nat) (lo : Nat) (hi : Nat) (h0 : Keeps.By Io.s r0 io) :
    Keeps.By1 Io.s r0 (queryRange io w x cb e bound k breadth rerank va lo hi) := by
  unfold queryRange
  with_reducible apply Keeps.By1.foldl
  · exact Keeps.toPair h0
  · intro _ _ _
    extract_lets -underBinder +onlyGivenNames r
    have hr : Keeps.By1 Io.s r0 r := by
      subst r
      exact queryOne_keeps _ _ _ _ _ _ _ _ _ _ (Keeps.By1.fst (by assumption))
    clear_value r
    exact Keeps.toPair (Keeps.By1.fst hr)

theorem idxEnd_keeps {r0 : State} (s0 : State) (io : Io) (p : Pkt) (detail : Nat) (h0 : Keeps r0 s0)
    (h1 : Keeps.By Io.s r0 io) :
    Keeps r0 (idxEnd s0 io p detail) := by
  unfold idxEnd
  split
  · exact complete_keeps _ _ _ _ _ h1
  · refine endErr_keeps _ _ _ ⟨(Keeps.By.io h1).pending, (Keeps.By.io h1).free, fun hi => ?_⟩
    have a := (Keeps.inv_iff _).1 (Keeps.inv h0 hi)
    have b := (Keeps.inv_iff _).1 ((Keeps.By.io h1).inv hi)
    exact (Keeps.inv_iff _).2 ⟨a.1, b.2⟩

/-! ### IdxCmds -/

theorem killIds_keeps {r0 : State} (s : State) (p : Pkt) (x : IdxRec) (h0 : Keeps r0 s) :
    Keeps.By1 Io.s r0 (killIds s p x) := by
  unfold killIds
  extract_lets -underBinder +onlyGivenNames w; clear_value w
  extract_lets -underBinder +onlyGivenNames ids
  have hids : Keeps.By1 Io.s r0 ids := by subst ids; exact Io.rd_keeps _ _ _ _ (Keeps.toIo h0)
  clear_value ids
  with_reducible apply Keeps.By1.foldl
  · exact Keeps.toPair (Keeps.By1.fst hids)
  · intro _ _ _
    extract_lets -underBinder +onlyGivenNames l
    have hl : Keeps.By1 Io.s r0 l := by subst l; exact liveSlot_keeps _ _ _ _ _ (Keeps.By1.fst (by assumption))
    clear_value l
    split
    · exact Keeps.toPair (kill_keeps _ _ _ _ _ _ (Keeps.By1.fst hl))
    · exact Keeps.toPair (Keeps.By1.fst hl)

theorem bindAgain_keeps {r0 : State} (id : Nat) (y : IdxRec) (s : State) (j : Job) (h0 : Keeps r0 s) :
    Keeps r0 (bindAgain id y s j) := by
  unfold bindAgain
  extract_lets -underBinder +onlyGivenNames p; clear_value p
  exact Keeps.ite (State.setJob_keeps _ _ h0) h0

theorem published_keeps {r0 : State} (s : State) (id : Nat) (y : IdxRec) (h0 : Keeps r0 s) :
    Keeps r0 (published s id y) := by
  unfold published
  extract_lets -underBinder +onlyGivenNames ws; clear_value ws
  extract_lets -underBinder +onlyGivenNames s1
  have hs1 : Keeps r0 s1 := by
    subst s1
    with_reducible apply Keeps.foldl
    · exact h0
    · exact fun _ _ _ => complete_keeps _ _ _ _ _ (by assumption)
  clear_value s1
  with_reducible apply Keeps.foldl
  · exact hs1
  · exact fun _ _ _ => bindAgain_keeps _ _ _ _ (by assumption)

theorem putPublished_keeps {r0 : State} (s : State) (w : Who) (id : Nat) (x : IdxRec) (y : IdxRec) (h0 : Keeps r0 s) :
    Keeps.By Io.s r0 (putPublished s w id x y) := by
  unfold putPublished
  extract_lets -underBinder +onlyGivenNames io
  have hio : Keeps.By Io.s r0 io := by subst io; exact putIdx_keeps _ _ _ _ (Keeps.toIo h0)
  clear_value io
  split
  · exact Keeps.toIo (State.setIdx_keeps _ _ _ (Keeps.By.io hio))
  · exact Keeps.toIo (published_keeps _ _ _ (Keeps.By.io hio))

theorem publish_keeps {r0 : State} (s : State) (w : Who) (id : Nat) (x : IdxRec) (h0 : Keeps r0 s) :
    Keeps.By Io.s r0 (publish s w id x) := by
  unfold publish
  exact Keeps.By.ite (putPublished_keeps _ _ _ _ _ h0) (Keeps.toIo h0)

theorem publishIdx_keeps {r0 : State} (s : State) (p : Pkt) (h0 : Keeps r0 s) :
    Keeps r0 (publishIdx s p) := by
  unfold publishIdx
  split
  · exact h0
  · extract_lets -underBinder +onlyGivenNames io
    have hio : Keeps.By Io.s r0 io := by subst io; exact publish_keeps _ _ _ _ h0
    clear_value io
    exact idxEnd_keeps _ _ _ _ h0 hio

theorem readIdVecs_keeps {r0 : State} (s : State) (w : Who) (p : Pkt) (x : IdxRec) (h0 : Keeps r0 s) :
    Keeps.By1 Io.s r0 (readIdVecs s w p x) := by
  unfold readIdVecs
  extract_lets -underBinder +onlyGivenNames v
  have hv : Keeps.By1 Io.s r0 v := by subst v; exact Io.rd_keeps _ _ _ _ (Keeps.toIo h0)
  clear_value v
  extract_lets -underBinder +onlyGivenNames i
  have hi : Keeps.By1 Io.s r0 i := by subst i; exact Io.rd_keeps _ _ _ _ (Keeps.By1.fst hv)
  clear_value i
  exact Keeps.toPair (Keeps.By1.fst hi)

theorem ioPre_keeps {r0 : State} (io : Io) (off : Nat) (r : PreFail) (h0 : Keeps.By Io.s r0 io) :
    Keeps.By Prod.fst r0 (ioPre io off r) := by
  unfold ioPre
  split
  · exact Keeps.toFst (Keeps.By.io h0)
  · exact Keeps.toFst (Keeps.By.io h0)
  · exact Keeps.toFst (Keeps.By.io h0)

theorem idxBuildPre_keeps {r0 : State} (s : State) (p : Pkt) (h0 : Keeps r0 s) :
    Keeps.By Prod.fst r0 (idxBuildPre s p) := by
  unfold idxBuildPre
  split
  · exact Keeps.toFst h0
  · with_reducible apply Keeps.By.ite
    · with_reducible apply Keeps.toFst
      exact h0
    · with_reducible apply Keeps.By.ite
      · with_reducible apply Keeps.toFst
        exact h0
      · extract_lets -underBinder +onlyGivenNames r
        have hr : Keeps.By1 Io.s r0 r := by subst r; exact readIdVecs_keeps _ _ _ _ h0
        clear_value r
        exact ioPre_keeps _ _ _ (Keeps.By1.fst hr)

theorem idxPre_keeps {r0 : State} (s : State) (p : Pkt) (h0 : Keeps r0 s) :
    Keeps.By Prod.fst r0 (idxPre s p) := by
  unfold idxPre
  split
  · exact Keeps.toFst h0
  · exact Keeps.By.ite (Keeps.toFst h0) (Keeps.toFst h0)

theorem searchRun_keeps {r0 : State} (s : State) (j : Job) (x : IdxRec) (h0 : Keeps r0 s) :
    Keeps.By1 Io.s r0 (searchRun s j x) := by
  unfold searchRun
  extract_lets -underBinder +onlyGivenNames p; clear_value p
  extract_lets -underBinder +onlyGivenNames w; clear_value w
  extract_lets -underBinder +onlyGivenNames lo; clear_value lo
  extract_lets -underBinder +onlyGivenNames hi; clear_value hi
  extract_lets -underBinder +onlyGivenNames cb
  have hcb : Keeps.By1 Io.s r0 cb := by subst cb; exact readCodes_keeps _ _ _ (Keeps.toIo h0)
  clear_value cb
  exact queryRange_keeps _ _ _ _ _ _ _ _ _ _ _ _ (Keeps.By1.fst hcb)

theorem idxInsertPre_keeps {r0 : State} (s : State) (p : Pkt) (h0 : Keeps r0 s) :
    Keeps.By Prod.fst r0 (idxInsertPre s p) := by
  unfold idxInsertPre
  split
  · exact Keeps.toFst h0
  · with_reducible apply Keeps.By.ite
    · with_reducible apply Keeps.toFst
      exact h0
    · extract_lets -underBinder +onlyGivenNames r
      have hr : Keeps.By1 Io.s r0 r := by subst r; exact readIdVecs_keeps _ _ _ _ h0
      clear_value r
      exact ioPre_keeps _ _ _ (Keeps.By1.fst hr)

theorem insertRecords_keeps {r0 : State} (s : State) (p : Pkt) (h0 : Keeps r0 s) :
    Keeps r0 (insertRecords s p) := by
  unfold insertRecords
  split
  · exact h0
  · extract_lets -underBinder +onlyGivenNames w; clear_value w
    extract_lets -underBinder +onlyGivenNames r
    have hr : Keeps.By1 Io.s r0 r := by subst r; exact readIdVecs_keeps _ _ _ _ h0
    clear_value r
    extract_lets -underBinder +onlyGivenNames cb
    have hcb : Keeps.By1 Io.s r0 cb := by subst cb; exact readCodes_keeps _ _ _ (Keeps.By1.fst hr)
    clear_value cb
    extract_lets -underBinder +onlyGivenNames ins
    have hins : Keeps.By1 Io.s r0 ins := by
      subst ins
      exact insertAll_keeps _ _ _ _ _ _ (Keeps.toPair (Keeps.By1.fst hcb))
    clear_value ins
    exact idxEnd_keeps _ _ _ _ h0 (putIdx_keeps _ _ _ _ (Keeps.By1.fst hins))

theorem execIdxInsert_keeps {r0 : State} (q : Nat) (idx : Nat) (s : State) (h0 : Keeps r0 s) :
    Keeps.R r0 (execIdxInsert q idx s) := by
  unfold execIdxInsert
  exact carryDma_keeps _ _ _ _ _ _ h0 (fun _ _ _ => idxInsertPre_keeps _ _ (by assumption)) (fun _ _ _ =>
    insertRecords_keeps _ _ (by assumption))

theorem idxLive_keeps {r0 : State} (s : State) (id : Nat) (on : Bool) (h0 : Keeps r0 s) :
    Keeps r0 (idxLive s id on) := by
  unfold idxLive
  extract_lets -underBinder +onlyGivenNames f; clear_value f
  exact State.setF_keeps _ _ _ h0

theorem idxGone_keeps {r0 : State} (s : State) (p : Pkt) (h0 : Keeps r0 s) :
    Keeps r0 (idxGone s p) := by
  unfold idxGone
  extract_lets -underBinder +onlyGivenNames s1
  have hs1 : Keeps r0 s1 := by
    subst s1
    with_reducible apply Keeps.foldl
    · exact h0
    · exact fun _ _ _ => Keeps.ite (State.setJob_keeps _ _ (by assumption)) (by assumption)
  clear_value s1
  exact complete_keeps _ _ _ _ _ (idxLive_keeps _ _ _ (State.setIdx_keeps _ _ _ hs1))

theorem execIdxWait_keeps {r0 : State} (q : Nat) (idx : Nat) (s : State) (h0 : Keeps r0 s) :
    Keeps.R r0 (execIdxWait q idx s) := by
  unfold execIdxWait
  with_reducible apply carry_keeps
  · exact h0
  · intro _ _ _
    with_reducible apply idxPre_keeps
    assumption
  · intro _ _ _
    split
    · assumption
    · exact Keeps.ite (complete_keeps _ _ _ _ _ (by assumption)) (State.setPkt_keeps _ _ (by assumption))

theorem execIdxDestroy_keeps {r0 : State} (q : Nat) (idx : Nat) (s : State) (h0 : Keeps r0 s) :
    Keeps.R r0 (execIdxDestroy q idx s) := by
  unfold execIdxDestroy
  split
  · exact Keeps.toNext h0
  · with_reducible apply Keeps.R.ite
    · with_reducible apply Keeps.toNext
      with_reducible apply Keeps.ite
      · exact h0
      · with_reducible apply idxGone_keeps
        exact h0
    · with_reducible apply carry_keeps
      · exact h0
      · intro _ _ _
        with_reducible apply idxPre_keeps
        assumption
      · intro _ _ _
        split
        · assumption
        · extract_lets -underBinder +onlyGivenNames t1
          have ht1 : Keeps r0 t1 := by subst t1; exact State.setIdx_keeps _ _ _ (by assumption)
          clear_value t1
          exact Keeps.ite (State.setPkt_keeps _ _ ht1) (idxGone_keeps _ _ ht1)

theorem deleteRecords_keeps {r0 : State} (s : State) (p : Pkt) (h0 : Keeps r0 s) :
    Keeps r0 (deleteRecords s p) := by
  unfold deleteRecords
  split
  · exact h0
  · extract_lets -underBinder +onlyGivenNames r
    have hr : Keeps.By1 Io.s r0 r := by subst r; exact killIds_keeps _ _ _ h0
    clear_value r
    exact idxEnd_keeps _ _ _ _ h0 (putIdx_keeps _ _ _ _ (Keeps.By1.fst hr))

theorem execIdxDelete_keeps {r0 : State} (q : Nat) (idx : Nat) (s : State) (h0 : Keeps r0 s) :
    Keeps.R r0 (execIdxDelete q idx s) := by
  unfold execIdxDelete
  exact carryDma_keeps _ _ _ _ _ _ h0 (fun _ _ _ => idxPre_keeps _ _ (by assumption)) (fun _ _ _ =>
    deleteRecords_keeps _ _ (by assumption))

theorem jobSearchPre_keeps {r0 : State} (s : State) (p : Pkt) (h0 : Keeps r0 s) :
    Keeps.By Prod.fst r0 (jobSearchPre s p) := by
  unfold jobSearchPre
  split
  · exact Keeps.toFst h0
  · extract_lets -underBinder +onlyGivenNames e; clear_value e
    extract_lets -underBinder +onlyGivenNames k; clear_value k
    extract_lets -underBinder +onlyGivenNames b; clear_value b
    extract_lets -underBinder +onlyGivenNames rr; clear_value rr
    split
    · exact rangeCheck_keeps _ _ _ _ _ _ h0
    · exact Keeps.toFst h0

theorem startSearch_keeps {r0 : State} (s : State) (p : Pkt) (h0 : Keeps r0 s) :
    Keeps r0 (startSearch s p) := by
  unfold startSearch
  split
  · exact h0
  · extract_lets -underBinder +onlyGivenNames e; clear_value e
    exact startJob_keeps _ _ _ h0

theorem execJobSearch_keeps {r0 : State} (q : Nat) (idx : Nat) (s : State) (h0 : Keeps r0 s) :
    Keeps.R r0 (execJobSearch q idx s) := by
  unfold execJobSearch
  exact carryDma_keeps _ _ _ _ _ _ h0 (fun _ _ _ => jobSearchPre_keeps _ _ (by assumption)) (fun _ _ _ =>
    startSearch_keeps _ _ (by assumption))

theorem codebookOk_keeps {r0 : State} (io : Io) (w : Who) (x : IdxRec) (h0 : Keeps.By Io.s r0 io) :
    Keeps.By1 Io.s r0 (codebookOk io w x) := by
  unfold codebookOk
  extract_lets -underBinder +onlyGivenNames r
  have hr : Keeps.By1 Io.s r0 r := by
    subst r
    with_reducible apply Keeps.By1.ite
    · with_reducible apply Keeps.By1.foldl
      · exact Keeps.toPair h0
      · intro _ _ _
        extract_lets -underBinder +onlyGivenNames v
        have hv : Keeps.By1 Io.s r0 v := by subst v; exact readVec_keeps _ _ _ _ (Keeps.By1.fst (by assumption))
        clear_value v
        exact Keeps.toPair (Keeps.By1.fst hv)
    · with_reducible apply Keeps.toPair
      exact h0
  clear_value r
  extract_lets -underBinder +onlyGivenNames c
  have hc : Keeps.By1 Io.s r0 c := by subst c; exact readCodes_keeps _ _ _ (Keeps.By1.fst hr)
  clear_value c
  exact Keeps.toPair (Keeps.By1.fst hc)

theorem idxPublishPre_keeps {r0 : State} (s : State) (p : Pkt) (h0 : Keeps r0 s) :
    Keeps.By Prod.fst r0 (idxPublishPre s p) := by
  unfold idxPublishPre
  split
  · exact Keeps.toFst h0
  · exact Keeps.By.ite (Keeps.toFst h0) (Keeps.toFst h0)

theorem buildCommit_keeps {r0 : State} (s : State) (j : Job) (h0 : Keeps r0 s) :
    Keeps r0 (buildCommit s j) := by
  unfold buildCommit
  extract_lets -underBinder +onlyGivenNames p; clear_value p
  split
  · exact h0
  · extract_lets -underBinder +onlyGivenNames a; clear_value a
    exact Keeps.By.io (putIdx_keeps _ _ _ _ (Keeps.toIo h0))

theorem idxCreatePre_keeps {r0 : State} (s : State) (p : Pkt) (h0 : Keeps r0 s) :
    Keeps.By Prod.fst r0 (idxCreatePre s p) := by
  unfold idxCreatePre
  extract_lets -underBinder +onlyGivenNames y; clear_value y
  extract_lets -underBinder +onlyGivenNames w; clear_value w
  split
  · split
    split
    · exact Keeps.toFst (Keeps.By.io (Keeps.By1.eq_fst (by assumption) (codebookOk_keeps _ _ _ (Keeps.toIo h0))))
    · exact Keeps.toFst (Keeps.By.io (Keeps.By1.eq_fst (by assumption) (codebookOk_keeps _ _ _ (Keeps.toIo h0))))
    · exact Keeps.toFst (Keeps.By.io (Keeps.By1.eq_fst (by assumption) (codebookOk_keeps _ _ _ (Keeps.toIo h0))))
  · exact Keeps.toFst h0

theorem clearArea_keeps {r0 : State} (w : Who) (x : IdxRec) (a : Nat) (io : Io) (h0 : Keeps.By Io.s r0 io) :
    Keeps.By Io.s r0 (clearArea w x a io) := by
  unfold clearArea
  extract_lets -underBinder +onlyGivenNames io1
  have hio1 : Keeps.By Io.s r0 io1 := by subst io1; exact Io.wr_keeps _ _ _ _ h0
  clear_value io1
  exact Keeps.By.ite (Io.wr_keeps _ _ _ _ hio1) hio1

theorem createIdx_keeps {r0 : State} (s : State) (p : Pkt) (h0 : Keeps r0 s) :
    Keeps r0 (createIdx s p) := by
  unfold createIdx
  extract_lets -underBinder +onlyGivenNames y; clear_value y
  extract_lets -underBinder +onlyGivenNames w; clear_value w
  extract_lets -underBinder +onlyGivenNames io
  have hio : Keeps.By Io.s r0 io := by subst io; exact putIdx_keeps _ _ _ _ (clearArea_keeps _ _ _ _ (Keeps.toIo h0))
  clear_value io
  exact idxEnd_keeps _ _ _ _ h0 (Keeps.toIo (idxLive_keeps _ _ _ (Keeps.By.io hio)))

theorem execIdxCreate_keeps {r0 : State} (q : Nat) (idx : Nat) (s : State) (h0 : Keeps r0 s) :
    Keeps.R r0 (execIdxCreate q idx s) := by
  unfold execIdxCreate
  exact carryDma_keeps _ _ _ _ _ _ h0 (fun _ _ _ => idxCreatePre_keeps _ _ (by assumption)) (fun _ _ _ =>
    createIdx_keeps _ _ (by assumption))

theorem startBuild_keeps {r0 : State} (s : State) (p : Pkt) (h0 : Keeps r0 s) :
    Keeps r0 (startBuild s p) := by
  unfold startBuild
  split
  · exact h0
  · extract_lets -underBinder +onlyGivenNames y; clear_value y
    extract_lets -underBinder +onlyGivenNames io
    have hio : Keeps.By Io.s r0 io := by subst io; exact putIdx_keeps _ _ _ _ (Keeps.toIo h0)
    clear_value io
    split
    · exact endErr_keeps _ _ _ (Keeps.By.io hio)
    · exact startJob_keeps _ _ _ (Keeps.By.io hio)

theorem execIdxBuild_keeps {r0 : State} (q : Nat) (idx : Nat) (s : State) (h0 : Keeps r0 s) :
    Keeps.R r0 (execIdxBuild q idx s) := by
  unfold execIdxBuild
  exact carryDma_keeps _ _ _ _ _ _ h0 (fun _ _ _ => idxBuildPre_keeps _ _ (by assumption)) (fun _ _ _ =>
    startBuild_keeps _ _ (by assumption))

theorem execIdxPublish_keeps {r0 : State} (q : Nat) (idx : Nat) (s : State) (h0 : Keeps r0 s) :
    Keeps.R r0 (execIdxPublish q idx s) := by
  unfold execIdxPublish
  exact carryDma_keeps _ _ _ _ _ _ h0 (fun _ _ _ => idxPublishPre_keeps _ _ (by assumption)) (fun _ _ _ =>
    publishIdx_keeps _ _ (by assumption))

theorem searchCount_keeps {r0 : State} (s : State) (j : Job) (nq : Nat) (empties : Nat) (c : QueryCost)
    (h0 : Keeps r0 s) :
    Keeps r0 (searchCount s j nq empties c) := by
  unfold searchCount
  extract_lets -underBinder +onlyGivenNames s1
  have hs1 : Keeps r0 s1 := by
    subst s1
    exact engineShare_keeps _ _ _ _ (fun _ _ _ _ => State.addWrap_keeps _ _ _ (by assumption)) h0
  clear_value s1
  extract_lets -underBinder +onlyGivenNames s2
  have hs2 : Keeps r0 s2 := by
    subst s2
    exact engineShare_keeps _ _ _ _ (fun _ _ _ _ => State.addWrap_keeps _ _ _ (by assumption)) hs1
  clear_value s2
  extract_lets -underBinder +onlyGivenNames s3
  have hs3 : Keeps r0 s3 := by
    subst s3
    exact engineShare_keeps _ _ _ _ (fun _ _ _ _ => State.addWrap_keeps _ _ _ (by assumption)) hs2
  clear_value s3
  extract_lets -underBinder +onlyGivenNames s4
  have hs4 : Keeps r0 s4 := by
    subst s4
    exact engineShare_keeps _ _ _ _ (fun _ _ _ _ => State.addSat_keeps _ _ _ (by assumption)) hs3
  clear_value s4
  exact energyAdd_keeps _ _ _ _ _ (energyAdd_keeps _ _ _ _ _ (engineWaits_keeps _ _ (State.addSat_keeps _ _ _ hs4)))

theorem buildRun_keeps {r0 : State} (s : State) (j : Job) (h0 : Keeps r0 s) :
    Keeps.By1 Io.s r0 (buildRun s j) := by
  unfold buildRun
  extract_lets -underBinder +onlyGivenNames p; clear_value p
  split
  · exact Keeps.toPair (Keeps.toIo h0)
  · extract_lets -underBinder +onlyGivenNames w; clear_value w
    extract_lets -underBinder +onlyGivenNames a; clear_value a
    extract_lets -underBinder +onlyGivenNames r
    have hr : Keeps.By1 Io.s r0 r := by subst r; exact readIdVecs_keeps _ _ _ _ h0
    clear_value r
    extract_lets -underBinder +onlyGivenNames cb
    have hcb : Keeps.By1 Io.s r0 cb := by
      subst cb
      exact readCodes_keeps _ _ _ (clearArea_keeps _ _ _ _ (Keeps.By1.fst hr))
    clear_value cb
    extract_lets -underBinder +onlyGivenNames ins
    have hins : Keeps.By1 Io.s r0 ins := by
      subst ins
      exact insertAll_keeps _ _ _ _ _ _ (Keeps.toPair (Keeps.By1.fst hcb))
    clear_value ins
    exact Keeps.toPair (Keeps.By1.fst hins)

theorem jobPieces_keeps {r0 : State} (s : State) (w : Who) (va : Nat) (n : Nat) (wr : Bool) (h0 : Keeps r0 s) :
    Keeps.By Prod.fst r0 (jobPieces s w va n wr) := by
  unfold jobPieces
  split
  · exact Keeps.toFst (Keeps.By.eq_fst (by assumption) (xlateAll_keeps _ _ _ _ h0))
  · exact Keeps.toFst (Keeps.By.eq_fst (by assumption) (xlateAll_keeps _ _ _ _ h0))

/-! ### Graphics -/

theorem piecesTouch_keeps {r0 : State} (s : State) (j : Job) (w : Who) (wr : Bool) (ps : List Piece)
    (h0 : Keeps r0 s) :
    Keeps r0 (piecesTouch s j w wr ps) := by
  unfold piecesTouch
  with_reducible apply Keeps.foldl
  · exact h0
  · exact fun _ _ _ => jobTouch_keeps _ _ _ _ _ (by assumption)

theorem Gio.wr_keeps {r0 : State} (g : Gio) (va : Nat) (bs : List Byte) (h0 : Keeps.By Gio.s r0 g) :
    Keeps.By Gio.s r0 (Gio.wr g va bs) := by
  unfold Gio.wr
  split
  · extract_lets -underBinder +onlyGivenNames w; clear_value w
    split
    · exact Keeps.toGio (Keeps.By.eq_fst (by assumption) (jobPieces_keeps _ _ _ _ _ (Keeps.By.gio h0)))
    · with_reducible apply Keeps.By.ite
      · with_reducible apply Keeps.toGio
        with_reducible apply Keeps.By.gio
        exact h0
      · extract_lets -underBinder +onlyGivenNames s2
        have hs2 : Keeps r0 s2 := by
          subst s2
          exact piecesTouch_keeps _ _ _ _ _ (Keeps.By.eq_fst (by assumption) (jobPieces_keeps _ _ _ _ _ (Keeps.By.gio
            h0)))
        clear_value s2
        split
        · exact h0
        · exact Keeps.toGio (State.setJob_keeps _ _ hs2)
  · exact h0

theorem binBytes_keeps {r0 : State} (g : Gio) (st : GfxState) (fill : Nat) (h0 : Keeps.By Gio.s r0 g) :
    Keeps.By Gio.s r0 (binBytes g st fill) := by
  unfold binBytes
  extract_lets -underBinder +onlyGivenNames f
  have hf : Keeps.By Prod.snd r0 f := by subst f; exact State.fresh_keeps (Keeps.By.gio h0)
  clear_value f
  exact Gio.wr_keeps _ _ _ (Keeps.toGio (Keeps.By.snd hf))

theorem Gio.rd_keeps {r0 : State} (g : Gio) (va : Nat) (n : Nat) (h0 : Keeps.By Gio.s r0 g) :
    Keeps.By1 Gio.s r0 (Gio.rd g va n) := by
  unfold Gio.rd
  extract_lets -underBinder +onlyGivenNames zero; clear_value zero
  split
  · extract_lets -underBinder +onlyGivenNames w; clear_value w
    split
    · exact Keeps.toPair (Keeps.toGio (Keeps.By.eq_fst (by assumption) (jobPieces_keeps _ _ _ _ _ (Keeps.By.gio h0))))
    · split
      · exact Keeps.toPair (Keeps.toGio (Keeps.By.eq_fst (by assumption) (jobPieces_keeps _ _ _ _ _ (Keeps.By.gio
          h0))))
      · extract_lets -underBinder +onlyGivenNames r
        have hr : Keeps.By Prod.fst r0 r := by
          subst r
          exact copyRead_keeps _ _ _ _ (piecesTouch_keeps _ _ _ _ _ (Keeps.By.eq_fst (by assumption) (jobPieces_keeps
            _ _ _ _ _ (Keeps.By.gio h0))))
        clear_value r
        exact Keeps.toPair (Keeps.toGio (Keeps.By.fst hr))
  · exact Keeps.toPair h0

theorem setMeta_keeps {r0 : State} (g : Gio) (d : List Byte) (n : Nat) (code : Nat) (h0 : Keeps.By Gio.s r0 g) :
    Keeps.By Gio.s r0 (setMeta g d n code) := by
  unfold setMeta
  extract_lets -underBinder +onlyGivenNames r
  have hr : Keeps.By1 Gio.s r0 r := by subst r; exact Gio.rd_keeps _ _ _ h0
  clear_value r
  extract_lets -underBinder +onlyGivenNames v; clear_value v
  exact Gio.wr_keeps _ _ _ (Keeps.By1.fst hr)

theorem gfxFault_keeps {r0 : State} (s : State) (j : Job) (kind : Nat) (h0 : Keeps r0 s) :
    Keeps r0 (gfxFault s j kind) := by
  unfold gfxFault
  extract_lets -underBinder +onlyGivenNames s1
  have hs1 : Keeps r0 s1 := by
    subst s1
    exact State.addSat_keeps _ _ _ (State.setF_keeps _ _ _ (State.setF_keeps _ _ _ h0))
  clear_value s1
  exact restartJob_keeps _ _ _ _ hs1

theorem metaCode_keeps {r0 : State} (g : Gio) (d : List Byte) (n : Nat) (h0 : Keeps.By Gio.s r0 g) :
    Keeps.By1 Gio.s r0 (metaCode g d n) := by
  unfold metaCode
  extract_lets -underBinder +onlyGivenNames r
  have hr : Keeps.By1 Gio.s r0 r := by subst r; exact Gio.rd_keeps _ _ _ h0
  clear_value r
  exact Keeps.toPair (Keeps.By1.fst hr)

theorem Gio.fail_keeps {r0 : State} (g : Gio) (e : GErr) (h0 : Keeps.By Gio.s r0 g) :
    Keeps.By Gio.s r0 (Gio.fail g e) := by
  unfold Gio.fail
  exact Keeps.toGio (Keeps.By.gio h0)

theorem readBlock_keeps {r0 : State} (g : Gio) (d : List Byte) (bx : Nat) (by_ : Nat) (h0 : Keeps.By Gio.s r0 g) :
    Keeps.By1 Gio.s r0 (readBlock g d bx by_) := by
  unfold readBlock
  extract_lets -underBinder +onlyGivenNames n; clear_value n
  extract_lets -underBinder +onlyGivenNames c
  have hc : Keeps.By1 Gio.s r0 c := by subst c; exact metaCode_keeps _ _ _ h0
  clear_value c
  extract_lets -underBinder +onlyGivenNames r
  have hr : Keeps.By1 Gio.s r0 r := by
    subst r
    exact Keeps.By1.ite (Keeps.toPair (Keeps.By1.fst hc)) (Gio.rd_keeps _ _ _ (Keeps.By1.fst hc))
  clear_value r
  split
  · exact Keeps.toPair (Keeps.By1.fst hr)
  · extract_lets -underBinder +onlyGivenNames pa; clear_value pa
    exact Keeps.toPair (Gio.fail_keeps _ _ (Keeps.By1.fst hr))

theorem getPixel_keeps {r0 : State} (g : Gio) (d : List Byte) (x : Nat) (y : Nat) (h0 : Keeps.By Gio.s r0 g) :
    Keeps.By1 Gio.s r0 (getPixel g d x y) := by
  unfold getPixel
  with_reducible apply Keeps.By1.ite
  · with_reducible apply Gio.rd_keeps
    exact h0
  · extract_lets -underBinder +onlyGivenNames r
    have hr : Keeps.By1 Gio.s r0 r := by subst r; exact readBlock_keeps _ _ _ _ h0
    clear_value r
    exact Keeps.toPair (Keeps.By1.fst hr)

theorem writeBlock_keeps {r0 : State} (g : Gio) (d : List Byte) (bx : Nat) (by_ : Nat) (px : List (List Nat))
    (h0 : Keeps.By Gio.s r0 g) :
    Keeps.By1 Gio.s r0 (writeBlock g d bx by_ px) := by
  unfold writeBlock
  extract_lets -underBinder +onlyGivenNames n; clear_value n
  extract_lets -underBinder +onlyGivenNames e; clear_value e
  extract_lets -underBinder +onlyGivenNames g1
  have hg1 : Keeps.By Gio.s r0 g1 := by subst g1; exact Keeps.By.ite h0 (Gio.wr_keeps _ _ _ h0)
  clear_value g1
  exact Keeps.toPair (setMeta_keeps _ _ _ _ hg1)

theorem setPixel_keeps {r0 : State} (g : Gio) (d : List Byte) (x : Nat) (y : Nat) (bs : List Byte)
    (h0 : Keeps.By Gio.s r0 g) :
    Keeps.By Gio.s r0 (setPixel g d x y bs) := by
  unfold setPixel
  with_reducible apply Keeps.By.ite
  · with_reducible apply Gio.wr_keeps
    exact h0
  · extract_lets -underBinder +onlyGivenNames r
    have hr : Keeps.By1 Gio.s r0 r := by subst r; exact readBlock_keeps _ _ _ _ h0
    clear_value r
    exact Keeps.By1.fst (writeBlock_keeps _ _ _ _ _ (Keeps.By1.fst hr))

theorem applyFrag_keeps {r0 : State} (st : GfxState) (g : Gio) (f : Frag) (h0 : Keeps.By Gio.s r0 g) :
    Keeps.By Gio.s r0 (applyFrag st g f) := by
  unfold applyFrag
  extract_lets -underBinder +onlyGivenNames fl; clear_value fl
  extract_lets -underBinder +onlyGivenNames dd; clear_value dd
  extract_lets -underBinder +onlyGivenNames t
  have ht : Keeps.By1 Gio.s r0 t := by subst t; exact Keeps.By1.ite (Keeps.toPair h0) (getPixel_keeps _ _ _ _ h0)
  clear_value t
  extract_lets -underBinder +onlyGivenNames pass; clear_value pass
  with_reducible apply Keeps.By.ite
  · with_reducible apply Keeps.By1.fst
    exact ht
  · extract_lets -underBinder +onlyGivenNames g1
    have hg1 : Keeps.By Gio.s r0 g1 := by
      subst g1
      exact Keeps.By.ite (setPixel_keeps _ _ _ _ _ (Keeps.By1.fst ht)) (Keeps.By1.fst ht)
    clear_value g1
    with_reducible apply Keeps.By.foldl
    · exact hg1
    · intro _ _ _
      extract_lets -underBinder +onlyGivenNames d; clear_value d
      with_reducible apply Keeps.By.ite
      · assumption
      · extract_lets -underBinder +onlyGivenNames p
        have hp : Keeps.By1 Gio.s r0 p := by subst p; exact getPixel_keeps _ _ _ _ (by assumption)
        clear_value p
        exact setPixel_keeps _ _ _ _ _ (Keeps.By1.fst hp)

theorem drawReads_keeps {r0 : State} (st : GfxState) (c : List Byte) (g : Gio) (h0 : Keeps.By Gio.s r0 g) :
    Keeps.By Gio.s r0 (drawReads st c g) := by
  unfold drawReads
  extract_lets -underBinder +onlyGivenNames v; clear_value v
  extract_lets -underBinder +onlyGivenNames first; clear_value first
  extract_lets -underBinder +onlyGivenNames n; clear_value n
  extract_lets -underBinder +onlyGivenNames stride; clear_value stride
  extract_lets -underBinder +onlyGivenNames addr; clear_value addr
  extract_lets -underBinder +onlyGivenNames len; clear_value len
  extract_lets -underBinder +onlyGivenNames vertex
  have hvertex : ∀ a0 a1, Keeps.By Gio.s r0 a0 → Keeps.By Gio.s r0 (vertex a0 a1) := by
    subst vertex
    exact fun _ _ _ => Keeps.By.ite (Keeps.By1.fst (Gio.rd_keeps _ _ _ (by assumption))) (by assumption)
  clear_value vertex
  with_reducible apply Keeps.By.ite
  · exact h0
  · with_reducible apply Keeps.By.ite
    · with_reducible apply Keeps.By.foldl
      · exact h0
      · intro _ _ _
        with_reducible apply_assumption
        assumption
    · extract_lets -underBinder +onlyGivenNames w; clear_value w
      extract_lets -underBinder +onlyGivenNames r
      have hr : Keeps.By1 Gio.s r0 r := by subst r; exact Gio.rd_keeps _ _ _ h0
      clear_value r
      with_reducible apply Keeps.By.foldl
      · exact Keeps.By1.fst hr
      · intro _ _ _
        with_reducible apply_assumption
        assumption

theorem startGfx_keeps {r0 : State} (s : State) (p : Pkt) (h0 : Keeps r0 s) :
    Keeps r0 (startGfx s p) := by
  unfold startGfx
  split
  · split
    · exact Keeps.O.some_eq (endPre_keeps _ _ _ (Keeps.By.eq_fst (by assumption) (startBytes_keeps _ _ _ _ _ h0)))
        (by assumption)
    · exact Keeps.By.eq_fst (by assumption) (startBytes_keeps _ _ _ _ _ h0)
  · exact startJob_keeps _ _ _ (Keeps.By.eq_fst (by assumption) (startBytes_keeps _ _ _ _ _ h0))

theorem execJobGfx_keeps {r0 : State} (q : Nat) (idx : Nat) (s : State) (h0 : Keeps r0 s) :
    Keeps.R r0 (execJobGfx q idx s) := by
  unfold execJobGfx
  exact carryDma_keeps _ _ _ _ _ _ h0 (fun _ _ _ => noPre_keeps _ _ (by assumption)) (fun _ _ _ => startGfx_keeps _ _
    (by assumption))

theorem gfxNext_keeps {r0 : State} (s : State) (q : Nat) (idx : Nat) (n : Nat) (f : Job → Job) (h0 : Keeps r0 s) :
    Keeps r0 (gfxNext s q idx n f) := by
  unfold gfxNext
  split
  · exact progress_keeps _ _ _ (State.setJob_keeps _ _ h0)
  · exact h0

theorem gfxCmd_keeps {r0 : State} (s : State) (q : Nat) (idx : Nat) (op : Nat) (ok : List Byte → Bool)
    (eff : Job → List Byte → State) (h0 : Keeps r0 s) (h1 : ∀ a0 a1, Keeps r0 (eff a0 a1)) :
    Keeps r0 (gfxCmd s q idx op ok eff) := by
  unfold gfxCmd
  split
  · exact h0
  · exact gfxFault_keeps _ _ _ h0
  · with_reducible apply Keeps.ite
    · with_reducible apply_assumption
    · with_reducible apply gfxFault_keeps
      exact h0

theorem execGfxEnd_keeps {r0 : State} (q : Nat) (idx : Nat) (s : State) (h0 : Keeps r0 s) :
    Keeps.R r0 (execGfxEnd q idx s) := by
  unfold execGfxEnd
  exact Keeps.toNext (gfxCmd_keeps _ _ _ _ _ _ h0 (fun _ _ => gfxNext_keeps _ _ _ _ _ h0))

theorem gfxEndCmd_keeps {r0 : State} (s0 : State) (g : Gio) (n : Nat) (f : Job → Job) (h0 : Keeps r0 s0)
    (h1 : Keeps.By Gio.s r0 g) :
    Keeps r0 (gfxEndCmd s0 g n f) := by
  unfold gfxEndCmd
  split
  · exact gfxNext_keeps _ _ _ _ _ (Keeps.By.gio h1)
  · split
    · exact waitStaging_keeps _ _ _ h0
    · exact h0
  · split
    · exact gfxFault_keeps _ _ _ (Keeps.By.gio h1)
    · exact h0
  · split
    · exact endAccess_keeps _ _ _ (Keeps.By.gio h1)
    · exact h0
  · split
    · exact jobPoison_keeps _ _ _ (Keeps.By.gio h1)
    · exact h0

theorem gio_keeps {r0 : State} (s : State) (q : Nat) (idx : Nat) (h0 : Keeps r0 s) :
    Keeps.By Gio.s r0 (gio s q idx) := by
  unfold gio
  exact Keeps.toGio h0

theorem execFragmentRetire_keeps {r0 : State} (q : Nat) (idx : Nat) (n : Nat) (s : State) (h0 : Keeps r0 s) :
    Keeps.R r0 (execFragmentRetire q idx n s) := by
  unfold execFragmentRetire
  with_reducible apply Keeps.toNext
  split
  · exact h0
  · split
    · exact h0
    · exact Keeps.ite (gfxEndCmd_keeps _ _ _ _ h0 (applyFrag_keeps _ _ _ (gio_keeps _ _ _ h0))) h0

theorem execGfxShader_keeps {r0 : State} (q : Nat) (idx : Nat) (s : State) (h0 : Keeps r0 s) :
    Keeps.R r0 (execGfxShader q idx s) := by
  unfold execGfxShader
  with_reducible apply Keeps.toNext
  with_reducible apply gfxCmd_keeps
  · exact h0
  · intro _ _
    extract_lets -underBinder +onlyGivenNames va; clear_value va
    extract_lets -underBinder +onlyGivenNames r
    have hr : Keeps.By1 Gio.s r0 r := by subst r; exact Gio.rd_keeps _ _ _ (gio_keeps _ _ _ h0)
    clear_value r
    extract_lets -underBinder +onlyGivenNames ok; clear_value ok
    exact gfxEndCmd_keeps _ _ _ _ h0 (Keeps.By.ite (Keeps.By1.fst hr) (Gio.fail_keeps _ _ (Keeps.By1.fst hr)))

theorem execGfxBins_keeps {r0 : State} (q : Nat) (idx : Nat) (s : State) (h0 : Keeps r0 s) :
    Keeps.R r0 (execGfxBins q idx s) := by
  unfold execGfxBins
  exact Keeps.toNext (gfxCmd_keeps _ _ _ _ _ _ h0 (fun _ _ => Keeps.ite (gfxFault_keeps _ _ _ h0) (gfxNext_keeps _ _
    _ _ _ h0)))

theorem execGfxVertex_keeps {r0 : State} (q : Nat) (idx : Nat) (s : State) (h0 : Keeps r0 s) :
    Keeps.R r0 (execGfxVertex q idx s) := by
  unfold execGfxVertex
  exact Keeps.toNext (gfxCmd_keeps _ _ _ _ _ _ h0 (fun _ _ => gfxNext_keeps _ _ _ _ _ h0))

theorem execGfxState_keeps {r0 : State} (q : Nat) (idx : Nat) (s : State) (h0 : Keeps r0 s) :
    Keeps.R r0 (execGfxState q idx s) := by
  unfold execGfxState
  exact Keeps.toNext (gfxCmd_keeps _ _ _ _ _ _ h0 (fun _ _ => gfxNext_keeps _ _ _ _ _ h0))

theorem clearSlot_keeps {r0 : State} (g : Gio) (slot : Nat) (d : List Byte) (rgba : List Byte) (depth : List Byte)
    (h0 : Keeps.By Gio.s r0 g) :
    Keeps.By1 Gio.s r0 (clearSlot g slot d rgba depth) := by
  unfold clearSlot
  extract_lets -underBinder +onlyGivenNames f; clear_value f
  extract_lets -underBinder +onlyGivenNames px; clear_value px
  with_reducible apply Keeps.By1.ite
  · with_reducible apply Keeps.toPair
    with_reducible apply Keeps.By.foldl
    · exact h0
    · exact fun _ _ _ => Gio.wr_keeps _ _ _ (by assumption)
  · with_reducible apply Keeps.By1.ite
    · with_reducible apply Keeps.toPair
      with_reducible apply Keeps.By.foldl
      · exact h0
      · exact fun _ _ _ => setMeta_keeps _ _ _ _ (by assumption)
    · with_reducible apply Keeps.By1.foldl
      · exact Keeps.toPair h0
      · intro _ _ _
        extract_lets -underBinder +onlyGivenNames r
        have hr : Keeps.By1 Gio.s r0 r := by subst r; exact writeBlock_keeps _ _ _ _ _ (Keeps.By1.fst (by assumption))
        clear_value r
        exact Keeps.toPair (Keeps.By1.fst hr)

theorem execGfxClear_keeps {r0 : State} (q : Nat) (idx : Nat) (s : State) (h0 : Keeps r0 s) :
    Keeps.R r0 (execGfxClear q idx s) := by
  unfold execGfxClear
  with_reducible apply Keeps.toNext
  with_reducible apply gfxCmd_keeps
  · exact h0
  · intro _ _
    extract_lets -underBinder +onlyGivenNames ts; clear_value ts
    extract_lets -underBinder +onlyGivenNames r
    have hr : Keeps.By1 Gio.s r0 r := by
      subst r
      with_reducible apply Keeps.By1.foldl
      · exact Keeps.toPair (gio_keeps _ _ _ h0)
      · intro _ _ _
        extract_lets -underBinder +onlyGivenNames y
        have hy : Keeps.By1 Gio.s r0 y := by subst y; exact clearSlot_keeps _ _ _ _ _ (Keeps.By1.fst (by assumption))
        clear_value y
        exact Keeps.toPair (Keeps.By1.fst hy)
    clear_value r
    extract_lets -underBinder +onlyGivenNames y
    have hy : Keeps.By Gio.s r0 y := by subst y; exact Keeps.By1.fst hr
    clear_value y
    extract_lets -underBinder +onlyGivenNames g
    have hg : Keeps.By Gio.s r0 g := by
      subst g
      exact Keeps.toGio (State.addWrap_keeps _ _ _ (State.addWrap_keeps _ _ _ (Keeps.By.gio (Keeps.By1.fst hr))))
    clear_value g
    exact gfxEndCmd_keeps _ _ _ _ h0 hg

theorem ctxCommit_keeps {r0 : State} (s : State) (j : Job) (h0 : Keeps r0 s) :
    Keeps r0 (ctxCommit s j) := by
  unfold ctxCommit
  extract_lets -underBinder +onlyGivenNames c; clear_value c
  with_reducible exact Keeps.upd h0 rfl rfl rfl rfl rfl rfl

theorem execGfxDraw_keeps {r0 : State} (q : Nat) (idx : Nat) (frags : List Frag) (s : State) (h0 : Keeps r0 s) :
    Keeps.R r0 (execGfxDraw q idx frags s) := by
  unfold execGfxDraw
  with_reducible apply Keeps.toNext
  with_reducible apply gfxCmd_keeps
  · exact h0
  · intro _ _
    extract_lets -underBinder +onlyGivenNames st; subst st
    extract_lets -underBinder +onlyGivenNames direct; clear_value direct
    extract_lets -underBinder +onlyGivenNames fs; clear_value fs
    extract_lets -underBinder +onlyGivenNames np; clear_value np
    with_reducible apply Keeps.ite
    · with_reducible apply gfxFault_keeps
      exact h0
    · with_reducible apply Keeps.ite
      · exact h0
      · extract_lets -underBinder +onlyGivenNames g
        have hg : Keeps.By Gio.s r0 g := by subst g; exact drawReads_keeps _ _ _ (gio_keeps _ _ _ h0)
        clear_value g
        with_reducible apply Keeps.ite
        · extract_lets -underBinder +onlyGivenNames w
          have hw : Keeps.By Prod.snd r0 w := by subst w; exact State.fresh_keeps (Keeps.By.gio hg)
          clear_value w
          extract_lets -underBinder +onlyGivenNames g1
          have hg1 : Keeps.By Gio.s r0 g1 := by
            subst g1
            exact Keeps.By.ite (Keeps.toGio (State.addSat_keeps _ _ _ (Keeps.By.snd hw))) hg
          clear_value g1
          exact gfxEndCmd_keeps _ _ _ _ h0 hg1
        · with_reducible apply Keeps.ite
          · with_reducible apply gfxFault_keeps
            exact h0
          · split
            · exact gfxEndCmd_keeps _ _ _ _ h0 (Gio.fail_keeps _ _ hg)
            · extract_lets -underBinder +onlyGivenNames g1
              have hg1 : Keeps.By Gio.s r0 g1 := by
                subst g1
                with_reducible apply Keeps.By.foldl
                · exact binBytes_keeps _ _ _ hg
                · exact fun _ _ _ => applyFrag_keeps _ _ _ (by assumption)
              clear_value g1
              extract_lets -underBinder +onlyGivenNames g2
              have hg2 : Keeps.By Gio.s r0 g2 := by
                subst g2
                exact Keeps.toGio (State.addWrap_keeps _ _ _ (State.addSat_keeps _ _ _ (Keeps.By.gio hg1)))
              clear_value g2
              exact gfxEndCmd_keeps _ _ _ _ h0 hg2

theorem execGfxTarget_keeps {r0 : State} (q : Nat) (idx : Nat) (s : State) (h0 : Keeps r0 s) :
    Keeps.R r0 (execGfxTarget q idx s) := by
  unfold execGfxTarget
  with_reducible apply Keeps.toNext
  with_reducible apply gfxCmd_keeps
  · exact h0
  · intro _ _
    extract_lets -underBinder +onlyGivenNames slot; clear_value slot
    extract_lets -underBinder +onlyGivenNames va; clear_value va
    with_reducible apply Keeps.ite
    · exact h0
    · with_reducible apply Keeps.ite
      · with_reducible apply gfxNext_keeps
        exact h0
      · extract_lets -underBinder +onlyGivenNames r
        have hr : Keeps.By1 Gio.s r0 r := by subst r; exact Gio.rd_keeps _ _ _ (gio_keeps _ _ _ h0)
        clear_value r
        extract_lets -underBinder +onlyGivenNames g
        have hg : Keeps.By Gio.s r0 g := by
          subst g
          exact Keeps.By.ite (Keeps.By1.fst hr) (Gio.fail_keeps _ _ (Keeps.By1.fst hr))
        clear_value g
        exact gfxEndCmd_keeps _ _ _ _ h0 hg

theorem dropCtxs_keeps {r0 : State} (s : State) (i : Nat) (h0 : Keeps r0 s) :
    Keeps r0 (dropCtxs s i) := by
  unfold dropCtxs
  with_reducible apply Keeps.foldl
  · exact h0
  · with_reducible exact fun _ _ _ => Keeps.ite (State.wr_keeps _ _ (Keeps.upd (by assumption) rfl rfl rfl rfl rfl
                     rfl)) (by assumption)

/-! ### KernelEnd -/

theorem kernelDone_keeps {r0 : State} (s : State) (q : Nat) (idx : Nat) (last : Bool) (h0 : Keeps r0 s) :
    Keeps r0 (kernelDone s q idx last) := by
  unfold kernelDone
  split
  · exact h0
  · extract_lets -underBinder +onlyGivenNames s1
    have hs1 : Keeps r0 s1 := by
      subst s1
      with_reducible apply Keeps.foldl
      · exact h0
      · exact fun _ _ _ => freeUnit_keeps _ _ (by assumption)
    clear_value s1
    extract_lets -underBinder +onlyGivenNames j1; clear_value j1
    with_reducible apply Keeps.ite
    · extract_lets -underBinder +onlyGivenNames j2; clear_value j2
      extract_lets -underBinder +onlyGivenNames s2
      have hs2 : Keeps r0 s2 := by subst s2; exact updLag_keeps _ (State.setJob_keeps _ _ hs1)
      clear_value s2
      exact Keeps.ite (boundary_keeps _ _ hs2) (Keeps.ite hs2 (commitPlain_keeps _ _ _ _ hs2))
    · extract_lets -underBinder +onlyGivenNames j2; clear_value j2
      exact boundary_keeps _ _ (updLag_keeps _ (State.setJob_keeps _ _ hs1))

theorem endSearch_keeps {r0 : State} (s : State) (j : Job) (h0 : Keeps r0 s) :
    Keeps r0 (endSearch s j) := by
  unfold endSearch
  extract_lets -underBinder +onlyGivenNames p; clear_value p
  split
  · exact h0
  · extract_lets -underBinder +onlyGivenNames last; clear_value last
    extract_lets -underBinder +onlyGivenNames nq; clear_value nq
    extract_lets -underBinder +onlyGivenNames r
    have hr : Keeps.By1 Io.s r0 r := by subst r; exact searchRun_keeps _ _ _ h0
    clear_value r
    split
    · exact endAccess_keeps _ _ _ (Keeps.By.io (Keeps.By1.fst hr))
    · exact jobPoison_keeps _ _ _ (Keeps.By.io (Keeps.By1.fst hr))
    · extract_lets -underBinder +onlyGivenNames em; clear_value em
      extract_lets -underBinder +onlyGivenNames g0
      have hg0 : Keeps.By Gio.s r0 g0 := by subst g0; exact Keeps.toGio (Keeps.By.io (Keeps.By1.fst hr))
      clear_value g0
      extract_lets -underBinder +onlyGivenNames g1
      have hg1 : Keeps.By Gio.s r0 g1 := by subst g1; exact Gio.wr_keeps _ _ _ hg0
      clear_value g1
      extract_lets -underBinder +onlyGivenNames g
      have hg : Keeps.By Gio.s r0 g := by subst g; exact Keeps.By.ite (Gio.wr_keeps _ _ _ hg1) hg1
      clear_value g
      split
      · exact waitStaging_keeps _ _ _ h0
      · exact endAccess_keeps _ _ _ (Keeps.By.gio hg)
      · exact jobPoison_keeps _ _ _ (Keeps.By.gio hg)
      · exact h0
      · extract_lets -underBinder +onlyGivenNames s1
        have hs1 : Keeps r0 s1 := by subst s1; exact searchCount_keeps _ _ _ _ _ (Keeps.By.gio hg)
        clear_value s1
        split
        · exact h0
        · exact kernelDone_keeps _ _ _ _ (State.setJob_keeps _ _ hs1)

theorem leaveTile_keeps {r0 : State} (q : Nat) (idx : Nat) (checker : Bool) (s : State) (t : Nat) (h0 : Keeps r0 s) :
    Keeps r0 (leaveTile q idx checker s t) := by
  unfold leaveTile
  extract_lets -underBinder +onlyGivenNames r; clear_value r
  extract_lets -underBinder +onlyGivenNames s2
  have hs2 : Keeps r0 s2 := by subst s2; exact tileCycles_keeps _ _ _ _ h0
  clear_value s2
  extract_lets -underBinder +onlyGivenNames s3
  have hs3 : Keeps r0 s3 := by
    subst s3
    split
    · exact Keeps.ite hs2 (State.setJob_keeps _ _ hs2)
    · exact hs2
  clear_value s3
  exact freeTile_keeps _ _ hs3

theorem endTiles_keeps {r0 : State} (s : State) (j : Job) (h0 : Keeps r0 s) :
    Keeps r0 (endTiles s j) := by
  unfold endTiles
  extract_lets -underBinder +onlyGivenNames ts; clear_value ts
  with_reducible apply Keeps.ite
  · extract_lets -underBinder +onlyGivenNames s1
    have hs1 : Keeps r0 s1 := by
      subst s1
      with_reducible apply Keeps.foldl
      · exact h0
      · intro _ _ _
        extract_lets -underBinder +onlyGivenNames u1
        have hu1 : Keeps r0 u1 := by subst u1; exact leaveTile_keeps _ _ _ _ _ (by assumption)
        clear_value u1
        exact Keeps.ite (leaveTile_keeps _ _ _ _ _ hu1) hu1
    clear_value s1
    exact kernelDone_keeps _ _ _ _ hs1
  · exact h0

theorem endAttn_keeps {r0 : State} (s : State) (j : Job) (h0 : Keeps r0 s) :
    Keeps r0 (endAttn s j) := by
  unfold endAttn
  with_reducible apply Keeps.ite
  · extract_lets -underBinder +onlyGivenNames f
    have hf : Keeps.By Prod.snd r0 f := by subst f; exact State.fresh_keeps h0
    clear_value f
    exact kernelDone_keeps _ _ _ _ (energyAdd_keeps _ _ _ _ _ (Keeps.By.snd hf))
  · exact h0

theorem endBuild_keeps {r0 : State} (s : State) (j : Job) (h0 : Keeps r0 s) :
    Keeps r0 (endBuild s j) := by
  unfold endBuild
  extract_lets -underBinder +onlyGivenNames r
  have hr : Keeps.By1 Io.s r0 r := by subst r; exact buildRun_keeps _ _ h0
  clear_value r
  split
  · exact endAccess_keeps _ _ _ (Keeps.By.io (Keeps.By1.fst hr))
  · exact jobPoison_keeps _ _ _ (Keeps.By.io (Keeps.By1.fst hr))
  · extract_lets -underBinder +onlyGivenNames s1
    have hs1 : Keeps r0 s1 := by subst s1; exact buildCount_keeps _ _ (Keeps.By.io (Keeps.By1.fst hr))
    clear_value s1
    split
    · exact h0
    · exact kernelDone_keeps _ _ _ _ (State.setJob_keeps _ _ hs1)

theorem endPass_keeps {r0 : State} (s : State) (j : Job) (h0 : Keeps r0 s) :
    Keeps r0 (endPass s j) := by
  unfold endPass
  with_reducible apply Keeps.ite
  · extract_lets -underBinder +onlyGivenNames s1
    have hs1 : Keeps r0 s1 := by subst s1; exact State.addWrap_keeps _ _ _ (State.addWrap_keeps _ _ _ h0)
    clear_value s1
    extract_lets -underBinder +onlyGivenNames comp; clear_value comp
    extract_lets -underBinder +onlyGivenNames s3
    have hs3 : Keeps r0 s3 := by subst s3; exact passCount_keeps _ _ _ hs1
    clear_value s3
    split
    · exact h0
    · exact kernelDone_keeps _ _ _ _ (State.setJob_keeps _ _ hs3)
  · exact h0

theorem execKernelEnd_keeps {r0 : State} (q : Nat) (idx : Nat) (s : State) (h0 : Keeps r0 s) :
    Keeps.R r0 (execKernelEnd q idx s) := by
  unfold execKernelEnd
  with_reducible apply Keeps.toNext
  split
  · exact h0
  · with_reducible apply Keeps.ite
    · split
      · exact Keeps.ite (endTiles_keeps _ _ h0) (endAttn_keeps _ _ h0)
      · exact Keeps.ite h0 (paceAct_keeps _ _ _ (fun _ _ => endSearch_keeps _ _ (by assumption)) h0)
      · exact Keeps.ite h0 (paceAct_keeps _ _ _ (fun _ _ => endBuild_keeps _ _ (by assumption)) h0)
      · exact endPass_keeps _ _ h0
    · exact h0

end Sys2Proof.Machine
end

