-- ==== Sys2Proof/Laws/KeepsUnits.lean ====
section
/-! SUPPORT. Every operation over display, sensors, CAN, networks and power leaves the waiting commands alone, draws
free values forward only, and keeps the canonical form of memory, flash, registers and latches: one lemma per operation. -/

namespace Sys2Proof.Machine

set_option linter.unusedVariables false

/-! ### Display -/

theorem fetchPart_keeps {r0 : State} (o : Nat) (f : Fetch) (va : Nat) (n : Nat) (h0 : Keeps.By Fetch.s r0 f) :
    Keeps.By1 Fetch.s r0 (fetchPart o f va n) := by
  unfold fetchPart
  with_reducible apply Keeps.By1.ite
  · with_reducible apply Keeps.toPair
    exact h0
  · split
    · exact Keeps.toPair (Keeps.toFetch (Keeps.By.eq_fst (by assumption) (dmaRead_keeps _ _ _ _ (Keeps.By.fetch h0))))
    · exact Keeps.toPair (Keeps.toFetch (State.addSat_keeps _ _ _ (Keeps.By.eq_fst (by assumption) (dmaRead_keeps _ _
        _ _ (Keeps.By.fetch h0)))))
    · exact Keeps.toPair (Keeps.toFetch (State.addSat_keeps _ _ _ (Keeps.By.eq_fst (by assumption) (dmaRead_keeps _ _
        _ _ (Keeps.By.fetch h0)))))

theorem execDisplayLinkUp_keeps {r0 : State} (o : Nat) (s : State) (h0 : Keeps r0 s) :
    Keeps.R r0 (execDisplayLinkUp o s) := by
  unfold execDisplayLinkUp
  exact Keeps.toNext (Keeps.ite (State.setF_keeps _ _ _ h0) h0)

theorem pktBytes_keeps {r0 : State} (s : State) (p : Pkt) (off : Nat) (va : Nat) (n : Nat) (h0 : Keeps r0 s) :
    Keeps.By Prod.fst r0 (pktBytes s p off va n) := by
  unfold pktBytes
  split
  · split
    · exact Keeps.toFst (Keeps.By.eq_fst (by assumption) (peekBytes_keeps _ _ _ _ (Keeps.By.eq_fst (by assumption)
        (rangeCheck_keeps _ _ _ _ _ _ h0))))
    · exact Keeps.toFst (Keeps.By.eq_fst (by assumption) (peekBytes_keeps _ _ _ _ (Keeps.By.eq_fst (by assumption)
        (rangeCheck_keeps _ _ _ _ _ _ h0))))
    · exact Keeps.toFst (Keeps.By.eq_fst (by assumption) (peekBytes_keeps _ _ _ _ (Keeps.By.eq_fst (by assumption)
        (rangeCheck_keeps _ _ _ _ _ _ h0))))
  · exact Keeps.toFst (Keeps.By.eq_fst (by assumption) (rangeCheck_keeps _ _ _ _ _ _ h0))

theorem readBlocks_keeps {r0 : State} (s : State) (p : Pkt) (o : Nat) (layerVa : Nat) (timingVa : Nat)
    (h0 : Keeps r0 s) :
    Keeps.By Prod.fst r0 (readBlocks s p o layerVa timingVa) := by
  unfold readBlocks
  split
  · exact Keeps.toFst (Keeps.By.eq_fst (by assumption) (pktBytes_keeps _ _ _ _ _ h0))
  · with_reducible apply Keeps.By.ite
    · with_reducible apply Keeps.toFst
      with_reducible refine Keeps.By.eq_fst (by assumption) ?_
      with_reducible apply pktBytes_keeps
      exact h0
    · split
      · exact Keeps.toFst (Keeps.By.eq_fst (by assumption) (pktBytes_keeps _ _ _ _ _ (Keeps.By.eq_fst (by assumption)
          (pktBytes_keeps _ _ _ _ _ h0))))
      · extract_lets -underBinder +onlyGivenNames es; clear_value es
        split
        · exact Keeps.toFst (Keeps.By.eq_fst (by assumption) (pktBytes_keeps _ _ _ _ _ (Keeps.By.eq_fst (by
            assumption) (pktBytes_keeps _ _ _ _ _ (Keeps.By.eq_fst (by assumption) (pktBytes_keeps _ _ _ _ _ h0))))))
        · exact Keeps.By.ite (Keeps.toFst (Keeps.By.eq_fst (by assumption) (pktBytes_keeps _ _ _ _ _ (Keeps.By.eq_fst
            (by assumption) (pktBytes_keeps _ _ _ _ _ (Keeps.By.eq_fst (by assumption) (pktBytes_keeps _ _ _ _ _
            h0))))))) (Keeps.By.ite (Keeps.toFst (Keeps.By.eq_fst (by assumption) (pktBytes_keeps _ _ _ _ _
            (Keeps.By.eq_fst (by assumption) (pktBytes_keeps _ _ _ _ _ (Keeps.By.eq_fst (by assumption)
            (pktBytes_keeps _ _ _ _ _ h0))))))) (Keeps.toFst (Keeps.By.eq_fst (by assumption) (pktBytes_keeps _ _ _ _
            _ (Keeps.By.eq_fst (by assumption) (pktBytes_keeps _ _ _ _ _ (Keeps.By.eq_fst (by assumption)
            (pktBytes_keeps _ _ _ _ _ h0))))))))

theorem preStreamDisplay_keeps {r0 : State} (s : State) (p : Pkt) (h0 : Keeps r0 s) :
    Keeps.By Prod.fst r0 (preStreamDisplay s p) := by
  unfold preStreamDisplay
  with_reducible apply Keeps.By.ite
  · with_reducible apply Keeps.toFst
    exact h0
  · split
    · exact Keeps.toFst (Keeps.By.eq_fst (by assumption) (readBlocks_keeps _ _ _ _ _ h0))
    · exact Keeps.toFst (Keeps.By.eq_fst (by assumption) (readBlocks_keeps _ _ _ _ _ h0))

theorem startDisplay_keeps {r0 : State} (s : State) (p : Pkt) (h0 : Keeps r0 s) :
    Keeps r0 (startDisplay s p) := by
  unfold startDisplay
  exact Keeps.ite (complete_keeps _ _ _ _ _ h0) (State.setPkt_keeps _ _ h0)

theorem State.setDisp_keeps {r0 : State} (s : State) (o : Nat) (r : DispRec) (h0 : Keeps r0 s) :
    Keeps r0 (State.setDisp s o r) := by
  unfold State.setDisp
  with_reducible exact Keeps.upd h0 rfl rfl rfl rfl rfl rfl

theorem execDisplayUnderrun_keeps {r0 : State} (o : Nat) (line : Nat) (x : Nat) (s : State) (h0 : Keeps r0 s) :
    Keeps.R r0 (execDisplayUnderrun o line x s) := by
  unfold execDisplayUnderrun
  with_reducible apply Keeps.toNext
  with_reducible apply Keeps.ite
  · extract_lets -underBinder +onlyGivenNames d; clear_value d
    extract_lets -underBinder +onlyGivenNames mx; clear_value mx
    extract_lets -underBinder +onlyGivenNames bg; clear_value bg
    extract_lets -underBinder +onlyGivenNames s1
    have hs1 : Keeps r0 s1 := by subst s1; exact State.setF_keeps _ _ _ (State.addSat_keeps _ _ _ h0)
    clear_value s1
    exact State.setDisp_keeps _ _ _ hs1
  · exact h0

theorem execStreamDisplay_keeps {r0 : State} (q : Nat) (idx : Nat) (s : State) (h0 : Keeps r0 s) :
    Keeps.R r0 (execStreamDisplay q idx s) := by
  unfold execStreamDisplay
  exact carryDma_keeps _ _ _ _ _ _ h0 (fun _ _ _ => preStreamDisplay_keeps _ _ (by assumption)) (fun _ _ _ =>
    startDisplay_keeps _ _ (by assumption))

theorem fetchParts_keeps {r0 : State} (o : Nat) (va : Nat) (n : Nat) (f : Fetch) (h0 : Keeps.By Fetch.s r0 f) :
    Keeps.By1 Fetch.s r0 (fetchParts o va n f) := by
  unfold fetchParts
  with_reducible apply Keeps.By1.foldl
  · exact Keeps.toPair h0
  · intro _ _ _
    extract_lets -underBinder +onlyGivenNames len; clear_value len
    extract_lets -underBinder +onlyGivenNames y
    have hy : Keeps.By1 Fetch.s r0 y := by subst y; exact fetchPart_keeps _ _ _ _ (Keeps.By1.fst (by assumption))
    clear_value y
    exact Keeps.toPair (Keeps.By1.fst hy)

theorem State.setDispSaved_keeps {r0 : State} (s : State) (o : Nat) (r : Option (Nat × Nat × Nat)) (h0 : Keeps r0 s) :
    Keeps r0 (State.setDispSaved s o r) := by
  unfold State.setDispSaved
  with_reducible exact Keeps.upd h0 rfl rfl rfl rfl rfl rfl

theorem latchOutput_keeps {r0 : State} (s : State) (o : Nat) (inst : Nat) (layerVa : Nat) (timingVa : Nat)
    (es : List (List Byte)) (t : List Byte) (h0 : Keeps r0 s) :
    Keeps r0 (latchOutput s o inst layerVa timingVa es t) := by
  unfold latchOutput
  extract_lets -underBinder +onlyGivenNames train; clear_value train
  extract_lets -underBinder +onlyGivenNames s1
  have hs1 : Keeps r0 s1 := by subst s1; exact State.setF_keeps _ _ _ (State.setF_keeps _ _ _ h0)
  clear_value s1
  extract_lets -underBinder +onlyGivenNames s2
  have hs2 : Keeps r0 s2 := by subst s2; exact State.setF_keeps _ _ _ hs1
  clear_value s2
  extract_lets -underBinder +onlyGivenNames s3
  have hs3 : Keeps r0 s3 := by subst s3; exact Keeps.ite (State.setF_keeps _ _ _ (State.setF_keeps _ _ _ hs2)) hs2
  clear_value s3
  exact State.setDisp_keeps _ _ _ (State.setDispSaved_keeps _ _ _ hs3)

theorem fetchRow_keeps {r0 : State} (o : Nat) (d : List Byte) (y : Nat) (f : Fetch) (h0 : Keeps.By Fetch.s r0 f) :
    Keeps.By1 Fetch.s r0 (fetchRow o d y f) := by
  unfold fetchRow
  extract_lets -underBinder +onlyGivenNames r
  have hr : Keeps.By1 Fetch.s r0 r := by subst r; exact fetchParts_keeps _ _ _ _ h0
  clear_value r
  exact Keeps.toPair (Keeps.By1.fst hr)

theorem fetchBlock_keeps {r0 : State} (o : Nat) (d : List Byte) (bx : Nat) (by_ : Nat) (f : Fetch)
    (h0 : Keeps.By Fetch.s r0 f) :
    Keeps.By1 Fetch.s r0 (fetchBlock o d bx by_ f) := by
  unfold fetchBlock
  extract_lets -underBinder +onlyGivenNames n; clear_value n
  split
  · exact Keeps.toPair (Keeps.By1.eq_fst (by assumption) (fetchPart_keeps _ _ _ _ h0))
  · extract_lets -underBinder +onlyGivenNames code; clear_value code
    extract_lets -underBinder +onlyGivenNames r
    have hr : Keeps.By1 Fetch.s r0 r := by
      subst r
      exact Keeps.By1.ite (Keeps.toPair (Keeps.By1.eq_fst (by assumption) (fetchPart_keeps _ _ _ _ h0)))
        (fetchParts_keeps _ _ _ _ (Keeps.By1.eq_fst (by assumption) (fetchPart_keeps _ _ _ _ h0)))
    clear_value r
    with_reducible apply Keeps.By1.ite
    · with_reducible apply Keeps.toPair
      with_reducible apply Keeps.By1.fst
      exact hr
    · split
      · exact Keeps.toPair (Keeps.By1.fst hr)
      · with_reducible apply Keeps.toPair
        extract_lets -underBinder +onlyGivenNames y
        have hy : Keeps.By Fetch.s r0 y := by subst y; exact Keeps.By1.fst hr
        clear_value y
        exact Keeps.toFetch (State.addSat_keeps _ _ _ (Keeps.By.fetch (Keeps.By1.fst hr)))

theorem fetchBlockRow_keeps {r0 : State} (o : Nat) (d : List Byte) (by_ : Nat) (f : Fetch)
    (h0 : Keeps.By Fetch.s r0 f) :
    Keeps.By1 Fetch.s r0 (fetchBlockRow o d by_ f) := by
  unfold fetchBlockRow
  extract_lets -underBinder +onlyGivenNames r
  have hr : Keeps.By1 Fetch.s r0 r := by
    subst r
    with_reducible apply Keeps.By1.foldl
    · exact Keeps.toPair h0
    · intro _ _ _
      extract_lets -underBinder +onlyGivenNames y
      have hy : Keeps.By1 Fetch.s r0 y := by subst y; exact fetchBlock_keeps _ _ _ _ _ (Keeps.By1.fst (by assumption))
      clear_value y
      exact Keeps.toPair (Keeps.By1.fst hy)
  clear_value r
  exact Keeps.toPair (Keeps.By1.fst hr)

theorem fetchLayer_keeps {r0 : State} (o : Nat) (d : List Byte) (y : Int) (h : Nat) (f : Fetch)
    (h0 : Keeps.By Fetch.s r0 f) :
    Keeps.By1 Fetch.s r0 (fetchLayer o d y h f) := by
  unfold fetchLayer
  extract_lets -underBinder +onlyGivenNames seen; clear_value seen
  with_reducible apply Keeps.By1.ite
  · with_reducible apply Keeps.By1.foldl
    · exact Keeps.toPair h0
    · intro _ _ _
      extract_lets -underBinder +onlyGivenNames y
      have hy : Keeps.By1 Fetch.s r0 y := by subst y; exact fetchRow_keeps _ _ _ _ (Keeps.By1.fst (by assumption))
      clear_value y
      exact Keeps.toPair (Keeps.By1.fst hy)
  · with_reducible apply Keeps.By1.foldl
    · exact Keeps.toPair h0
    · intro _ _ _
      extract_lets -underBinder +onlyGivenNames y
      have hy : Keeps.By1 Fetch.s r0 y := by
        subst y
        exact fetchBlockRow_keeps _ _ _ _ (Keeps.By1.fst (by assumption))
      clear_value y
      exact Keeps.toPair (Keeps.By1.fst hy)

theorem fetchLayers_keeps {r0 : State} (o : Nat) (h : Nat) (es : List (List Byte)) (s : State) (h0 : Keeps r0 s) :
    Keeps.By Prod.fst r0 (fetchLayers o h es s) := by
  unfold fetchLayers
  with_reducible apply Keeps.By.foldl
  · exact Keeps.toFst h0
  · intro _ _ _
    with_reducible apply Keeps.By.ite
    · extract_lets -underBinder +onlyGivenNames y; clear_value y
      extract_lets -underBinder +onlyGivenNames r
      have hr : Keeps.By1 Fetch.s r0 r := by
        subst r
        exact fetchLayer_keeps _ _ _ _ _ (Keeps.toFetch (Keeps.By.fst (by assumption)))
      clear_value r
      exact Keeps.toFst (Keeps.By.fetch (Keeps.By1.fst hr))
    · assumption

theorem showFrame_keeps {r0 : State} (o : Nat) (s : State) (h0 : Keeps r0 s) :
    Keeps r0 (showFrame o s) := by
  unfold showFrame
  extract_lets -underBinder +onlyGivenNames d; clear_value d
  extract_lets -underBinder +onlyGivenNames r
  have hr : Keeps.By Prod.fst r0 r := by subst r; exact fetchLayers_keeps _ _ _ _ h0
  clear_value r
  exact State.setDisp_keeps _ _ _ (State.setF_keeps _ _ _ (Keeps.By.fst hr))

theorem startFrame_keeps {r0 : State} (s : State) (o : Nat) (h0 : Keeps r0 s) :
    Keeps r0 (startFrame s o) := by
  unfold startFrame
  extract_lets -underBinder +onlyGivenNames d; clear_value d
  extract_lets -underBinder +onlyGivenNames s1
  have hs1 : Keeps r0 s1 := by subst s1; exact paceDrop_keeps _ _ (State.addWrap_keeps _ _ _ h0)
  clear_value s1
  exact Keeps.ite (paceAct_keeps _ _ _ (fun _ _ => showFrame_keeps _ _ (by assumption)) hs1) (State.setDisp_keeps _ _
    _ hs1)

theorem execHotPlugDetectChange_keeps {r0 : State} (o : Nat) (level : Bool) (s : State) (h0 : Keeps r0 s) :
    Keeps.R r0 (execHotPlugDetectChange o level s) := by
  unfold execHotPlugDetectChange
  with_reducible apply Keeps.toNext
  with_reducible apply Keeps.ite
  · extract_lets -underBinder +onlyGivenNames p; subst p
    extract_lets -underBinder +onlyGivenNames s1
    have hs1 : Keeps r0 s1 := by
      subst s1
      exact Keeps.ite h0 (Keeps.ite (State.setPad_keeps _ _ _ h0) (padPush_keeps _ _ _ _ _ h0))
    clear_value s1
    exact Keeps.ite (State.setF_keeps _ _ _ (State.setF_keeps _ _ _ hs1)) hs1
  · exact h0

theorem stopOutput_keeps {r0 : State} (s : State) (o : Nat) (h0 : Keeps r0 s) :
    Keeps r0 (stopOutput s o) := by
  unfold stopOutput
  extract_lets -underBinder +onlyGivenNames s1
  have hs1 : Keeps r0 s1 := by
    subst s1
    exact State.setF_keeps _ _ _ (State.setF_keeps _ _ _ (State.setF_keeps _ _ _ h0))
  clear_value s1
  extract_lets -underBinder +onlyGivenNames s2
  have hs2 : Keeps r0 s2 := by subst s2; exact State.setF_keeps _ _ _ (State.setF_keeps _ _ _ hs1)
  clear_value s2
  exact State.setDisp_keeps _ _ _ (State.setDispSaved_keeps _ _ _ hs2)

theorem blankPkt_keeps {r0 : State} (o : Nat) (s : State) (p : Pkt) (h0 : Keeps r0 s) :
    Keeps r0 (blankPkt o s p) := by
  unfold blankPkt
  extract_lets -underBinder +onlyGivenNames frames; clear_value frames
  with_reducible apply Keeps.ite
  · with_reducible apply failCheck_keeps
    exact h0
  · with_reducible apply Keeps.ite
    · with_reducible apply complete_keeps
      with_reducible apply stopOutput_keeps
      exact h0
    · with_reducible apply Keeps.ite
      · with_reducible apply complete_keeps
        with_reducible apply stopOutput_keeps
        exact h0
      · split
        · with_reducible apply Keeps.O.getD
          · exact endPre_keeps _ _ _ (Keeps.By.eq_fst (by assumption) (readBlocks_keeps _ _ _ _ _ h0))
          · exact Keeps.By.eq_fst (by assumption) (readBlocks_keeps _ _ _ _ _ h0)
        · exact complete_keeps _ _ _ _ _ (latchOutput_keeps _ _ _ _ _ _ _ (Keeps.By.eq_fst (by assumption)
            (readBlocks_keeps _ _ _ _ _ h0)))

theorem execVerticalBlank_keeps {r0 : State} (o : Nat) (s : State) (h0 : Keeps r0 s) :
    Keeps.R r0 (execVerticalBlank o s) := by
  unfold execVerticalBlank
  extract_lets -underBinder +onlyGivenNames ps; clear_value ps
  with_reducible apply Keeps.toNext
  with_reducible apply Keeps.ite
  · extract_lets -underBinder +onlyGivenNames s1
    have hs1 : Keeps r0 s1 := by subst s1; exact State.setF_keeps _ _ _ (State.set64_keeps _ _ _ _ h0)
    clear_value s1
    extract_lets -underBinder +onlyGivenNames s2
    have hs2 : Keeps r0 s2 := by
      subst s2
      with_reducible apply Keeps.foldl
      · exact hs1
      · exact fun _ _ _ => paceAct_keeps _ _ _ (fun _ _ => blankPkt_keeps _ _ _ (by assumption)) (by assumption)
    clear_value s2
    extract_lets -underBinder +onlyGivenNames s3
    have hs3 : Keeps r0 s3 := by subst s3; exact Keeps.ite (stopOutput_keeps _ _ hs2) hs2
    clear_value s3
    exact Keeps.ite (startFrame_keeps _ _ hs3) hs3
  · exact h0

theorem restoreOutput_keeps {r0 : State} (s : State) (o : Nat) (h0 : Keeps r0 s) :
    Keeps r0 (restoreOutput s o) := by
  unfold restoreOutput
  split
  · exact h0
  · extract_lets -underBinder +onlyGivenNames p; clear_value p
    split
    · exact State.setF_keeps _ _ _ (latchOutput_keeps _ _ _ _ _ _ _ (Keeps.By.eq_fst (by assumption)
        (readBlocks_keeps _ _ _ _ _ h0)))
    · exact State.setF_keeps _ _ _ (State.setDispSaved_keeps _ _ _ (Keeps.By.eq_fst (by assumption) (readBlocks_keeps
        _ _ _ _ _ h0)))

/-! ### Sensors -/

theorem sensPacket_keeps {r0 : State} (s : State) (t : Nat) (ecc : HeaderEcc) (f : State → State) (h0 : Keeps r0 s)
    (h1 : ∀ a0, Keeps r0 a0 → Keeps r0 (f a0)) :
    Keeps r0 (sensPacket s t ecc f) := by
  unfold sensPacket
  extract_lets -underBinder +onlyGivenNames port; clear_value port
  with_reducible apply Keeps.ite
  · exact h0
  · split
    · exact State.addSat_keeps _ _ _ h0
    · extract_lets -underBinder +onlyGivenNames s1
      have hs1 : Keeps r0 s1 := by subst s1; exact Keeps.ite (State.addSat_keeps _ _ _ h0) h0
      clear_value s1
      with_reducible apply Keeps.ite
      · with_reducible apply_assumption
        exact hs1
      · with_reducible apply State.addSat_keeps
        exact hs1

theorem State.setSens_keeps {r0 : State} (s : State) (t : Nat) (r : Option SensRec) (h0 : Keeps r0 s) :
    Keeps r0 (State.setSens s t r) := by
  unfold State.setSens
  with_reducible exact Keeps.upd h0 rfl rfl rfl rfl rfl rfl

theorem writeRow_keeps {r0 : State} (x1 : List (Nat × Nat)) : ∀ (w : Who) (x2 : List Byte) (x3 : State),
    Keeps r0 x3 → Keeps.By Prod.fst r0 (writeRow w x1 x2 x3) := by
  induction x1 with
  | nil =>
    intro w x2 x3 h0
    rw [writeRow]
    exact Keeps.toFst h0
  | cons a as ih =>
    intro w x2 x3 h0
    rw [writeRow]
    split
    · exact ih _ _ _ (Keeps.By.eq_fst (by assumption) (dmaWrite_keeps _ _ _ _ h0))
    · exact Keeps.toFst (Keeps.By.fst (ih _ _ _ (Keeps.By.eq_fst (by assumption) (dmaWrite_keeps _ _ _ _ h0))))

theorem putLine_keeps {r0 : State} (s : State) (t : Nat) (r : SensRec) (f : SensFrame) (crcBad : Bool)
    (kept : Option Nat) (pixels : List Nat) (h0 : Keeps r0 s) :
    Keeps r0 (putLine s t r f crcBad kept pixels) := by
  unfold putLine
  extract_lets -underBinder +onlyGivenNames w; clear_value w
  extract_lets -underBinder +onlyGivenNames px; clear_value px
  extract_lets -underBinder +onlyGivenNames row; clear_value row
  extract_lets -underBinder +onlyGivenNames fl0; clear_value fl0
  extract_lets -underBinder +onlyGivenNames fl; clear_value fl
  extract_lets -underBinder +onlyGivenNames s0
  have hs0 : Keeps r0 s0 := by subst s0; exact Keeps.ite (State.addSat_keeps _ _ _ h0) h0
  clear_value s0
  with_reducible apply Keeps.ite
  · with_reducible apply State.setSens_keeps
    exact hs0
  · extract_lets -underBinder +onlyGivenNames va; clear_value va
    extract_lets -underBinder +onlyGivenNames y
    have hy : Keeps.By Prod.fst r0 y := by subst y; exact writeRow_keeps _ _ _ _ hs0
    clear_value y
    exact State.setSens_keeps _ _ _ (Keeps.By.fst hy)

theorem lineReceive_keeps {r0 : State} (t : Nat) (ecc : HeaderEcc) (dt : Nat) (crcBad : Bool) (kept : Option Nat)
    (pixels : List Nat) (s : State) (h0 : Keeps r0 s) :
    Keeps r0 (lineReceive t ecc dt crcBad kept pixels s) := by
  unfold lineReceive
  with_reducible apply sensPacket_keeps
  · exact h0
  · intro _ _
    split
    · assumption
    · with_reducible apply Keeps.ite
      · with_reducible apply State.addSat_keeps
        assumption
      · split
        · exact putLine_keeps _ _ _ _ _ _ _ (by assumption)
        · assumption

theorem execSensorLineReceive_keeps {r0 : State} (t : Nat) (ecc : HeaderEcc) (dt : Nat) (crcBad : Bool)
    (kept : Option Nat) (pixels : List Nat) (s : State) (h0 : Keeps r0 s) :
    Keeps.R r0 (execSensorLineReceive t ecc dt crcBad kept pixels s) := by
  unfold execSensorLineReceive
  exact Keeps.toNext (paceAct_keeps _ _ _ (fun _ _ => lineReceive_keeps _ _ _ _ _ _ _ (by assumption)) (demand_keeps
    _ _ h0))

theorem preStreamSensor_keeps {r0 : State} (s : State) (p : Pkt) (h0 : Keeps r0 s) :
    Keeps.By Prod.fst r0 (preStreamSensor s p) := by
  unfold preStreamSensor
  exact Keeps.toFst h0

theorem sensRegs_keeps {r0 : State} (s : State) (t : Nat) (r : SensRec) (h0 : Keeps r0 s) :
    Keeps r0 (sensRegs s t r) := by
  unfold sensRegs
  exact State.setF_keeps _ _ _ (State.setF_keeps _ _ _ (State.setF_keeps _ _ _ h0))

theorem execStreamSensor_keeps {r0 : State} (q : Nat) (idx : Nat) (s : State) (h0 : Keeps r0 s) :
    Keeps.R r0 (execStreamSensor q idx s) := by
  unfold execStreamSensor
  with_reducible apply carry_keeps
  · exact h0
  · intro _ _ _
    with_reducible apply preStreamSensor_keeps
    assumption
  · intro _ _ _
    extract_lets -underBinder +onlyGivenNames t; clear_value t
    extract_lets -underBinder +onlyGivenNames r; clear_value r
    exact complete_keeps _ _ _ _ _ (sensRegs_keeps _ _ _ (State.setSens_keeps _ _ _ (by assumption)))

theorem stopStream_keeps {r0 : State} (s : State) (t : Nat) (h0 : Keeps r0 s) :
    Keeps r0 (stopStream s t) := by
  unfold stopStream
  exact State.setSens_keeps _ _ _ (State.setF_keeps _ _ _ (State.setF_keeps _ _ _ (State.setF_keeps _ _ _ h0)))

theorem streamBoundary_keeps {r0 : State} (s : State) (t : Nat) (h0 : Keeps r0 s) :
    Keeps r0 (streamBoundary s t) := by
  unfold streamBoundary
  split
  · exact Keeps.ite (stopStream_keeps _ _ h0) h0
  · with_reducible apply Keeps.foldl
    · exact stopStream_keeps _ _ h0
    · exact fun _ _ _ => complete_keeps _ _ _ _ _ (by assumption)

theorem closeFrame_keeps {r0 : State} (s : State) (t : Nat) (r : SensRec) (f : SensFrame) (h0 : Keeps r0 s) :
    Keeps r0 (closeFrame s t r f) := by
  unfold closeFrame
  extract_lets -underBinder +onlyGivenNames short; clear_value short
  extract_lets -underBinder +onlyGivenNames flags; clear_value flags
  extract_lets -underBinder +onlyGivenNames bs; clear_value bs
  extract_lets -underBinder +onlyGivenNames s1
  have hs1 : Keeps r0 s1 := by subst s1; exact Keeps.By.fst (dmaWrite_keeps _ _ _ _ h0)
  clear_value s1
  extract_lets -underBinder +onlyGivenNames r1; clear_value r1
  extract_lets -underBinder +onlyGivenNames s2
  have hs2 : Keeps r0 s2 := by subst s2; exact State.setF_keeps _ _ _ (State.setSens_keeps _ _ _ hs1)
  clear_value s2
  extract_lets -underBinder +onlyGivenNames s3
  have hs3 : Keeps r0 s3 := by subst s3; exact State.setF_keeps _ _ _ hs2
  clear_value s3
  exact streamBoundary_keeps _ _ (raiseHost_keeps _ _ hs3)

theorem endFrame_keeps {r0 : State} (s : State) (t : Nat) (h0 : Keeps r0 s) :
    Keeps r0 (endFrame s t) := by
  unfold endFrame
  split
  · exact h0
  · split
    · exact closeFrame_keeps _ _ _ _ h0
    · exact Keeps.ite (streamBoundary_keeps _ _ (State.setSens_keeps _ _ _ h0)) h0

theorem restoreStream_keeps {r0 : State} (s : State) (t : Nat) (h0 : Keeps r0 s) :
    Keeps r0 (restoreStream s t) := by
  unfold restoreStream
  split
  · exact h0
  · extract_lets -underBinder +onlyGivenNames r1; clear_value r1
    exact sensRegs_keeps _ _ _ (State.setSens_keeps _ _ _ h0)

theorem frameTimeout_keeps {r0 : State} (t : Nat) (s : State) (h0 : Keeps r0 s) :
    Keeps r0 (frameTimeout t s) := by
  unfold frameTimeout
  split
  · exact closeFrame_keeps _ _ _ _ h0
  · exact h0

theorem startSensFrame_keeps {r0 : State} (s : State) (t : Nat) (tick : Nat) (r : SensRec) (h0 : Keeps r0 s) :
    Keeps r0 (startSensFrame s t tick r) := by
  unfold startSensFrame
  extract_lets -underBinder +onlyGivenNames no; clear_value no
  split
  · exact State.setSens_keeps _ _ _ (State.addSat_keeps _ _ _ (Keeps.By.eq_fst (by assumption) (dmaRead_keeps _ _ _ _
      h0)))
  · with_reducible apply Keeps.ite
    · with_reducible apply State.setSens_keeps
      with_reducible apply State.addSat_keeps
      with_reducible refine Keeps.By.eq_fst (by assumption) ?_
      with_reducible apply dmaRead_keeps
      exact h0
    · extract_lets -underBinder +onlyGivenNames flags; clear_value flags
      exact State.setSens_keeps _ _ _ (Keeps.By.eq_fst (by assumption) (dmaRead_keeps _ _ _ _ h0))

theorem frameEnd_keeps {r0 : State} (t : Nat) (ecc : HeaderEcc) (s : State) (h0 : Keeps r0 s) :
    Keeps r0 (frameEnd t ecc s) := by
  unfold frameEnd
  exact sensPacket_keeps _ _ _ _ h0 (fun _ _ => endFrame_keeps _ _ (by assumption))

theorem execSensorFrameEnd_keeps {r0 : State} (t : Nat) (ecc : HeaderEcc) (s : State) (h0 : Keeps r0 s) :
    Keeps.R r0 (execSensorFrameEnd t ecc s) := by
  unfold execSensorFrameEnd
  exact Keeps.toNext (paceAct_keeps _ _ _ (fun _ _ => frameEnd_keeps _ _ _ (by assumption)) (demand_keeps _ _ h0))

theorem execSensorFrameTimeout_keeps {r0 : State} (t : Nat) (s : State) (h0 : Keeps r0 s) :
    Keeps.R r0 (execSensorFrameTimeout t s) := by
  unfold execSensorFrameTimeout
  exact Keeps.toNext (paceAct_keeps _ _ _ (fun _ _ => frameTimeout_keeps _ _ (by assumption)) h0)

theorem frameStart_keeps {r0 : State} (t : Nat) (ecc : HeaderEcc) (tick : Nat) (s : State) (h0 : Keeps r0 s) :
    Keeps r0 (frameStart t ecc tick s) := by
  unfold frameStart
  with_reducible apply sensPacket_keeps
  · exact h0
  · intro _ _
    extract_lets -underBinder +onlyGivenNames s2
    have hs2 : Keeps r0 s2 := by subst s2; exact endFrame_keeps _ _ (by assumption)
    clear_value s2
    with_reducible apply Keeps.ite
    · split
      · exact startSensFrame_keeps _ _ _ _ hs2
      · exact hs2
    · exact hs2

theorem execSensorFrameStart_keeps {r0 : State} (t : Nat) (ecc : HeaderEcc) (s : State) (h0 : Keeps r0 s) :
    Keeps.R r0 (execSensorFrameStart t ecc s) := by
  unfold execSensorFrameStart
  exact Keeps.toNext (paceAct_keeps _ _ _ (fun _ _ => frameStart_keeps _ _ _ _ (by assumption)) (demand_keeps _ _ h0))

/-! ### Can -/

theorem State.setCan_keeps {r0 : State} (s : State) (c : Nat) (r : CanRec) (h0 : Keeps r0 s) :
    Keeps r0 (State.setCan s c r) := by
  unfold State.setCan
  with_reducible exact Keeps.upd h0 rfl rfl rfl rfl rfl rfl

theorem routeTo_keeps {r0 : State} (x : CanFrame) (s : State) (o : Nat) (h0 : Keeps r0 s) :
    Keeps r0 (routeTo x s o) := by
  unfold routeTo
  extract_lets -underBinder +onlyGivenNames r; clear_value r
  exact Keeps.ite (State.addSat_keeps _ _ _ h0) (State.addWrap_keeps _ _ _ (State.setCan_keeps _ _ _ h0))

theorem routeFrame_keeps {r0 : State} (s : State) (c : Nat) (x : CanFrame) (h0 : Keeps r0 s) :
    Keeps r0 (routeFrame s c x) := by
  unfold routeFrame
  with_reducible apply Keeps.ite
  · exact h0
  · split
    · exact h0
    · with_reducible apply Keeps.foldl
      · exact h0
      · exact fun _ _ _ => routeTo_keeps _ _ _ (by assumption)

theorem rxPut_keeps {r0 : State} (s : State) (c : Nat) (e : List Byte) (h0 : Keeps r0 s) :
    Keeps r0 (rxPut s c e) := by
  unfold rxPut
  extract_lets -underBinder +onlyGivenNames r; clear_value r
  extract_lets -underBinder +onlyGivenNames wr; clear_value wr
  extract_lets -underBinder +onlyGivenNames slots; clear_value slots
  with_reducible apply Keeps.ite
  · with_reducible apply State.addSat_keeps
    exact h0
  · split
    · exact State.setF_keeps _ _ _ (Keeps.By.eq_fst (by assumption) (dmaWrite_keeps _ _ _ _ h0))
    · exact State.addSat_keeps _ _ _ (Keeps.By.eq_fst (by assumption) (dmaWrite_keeps _ _ _ _ h0))

theorem rxFirst_keeps {r0 : State} (c : Nat) (s : State) (h0 : Keeps r0 s) :
    Keeps r0 (rxFirst c s) := by
  unfold rxFirst
  extract_lets -underBinder +onlyGivenNames r; clear_value r
  split
  · exact h0
  · exact rxPut_keeps _ _ _ (State.setCan_keeps _ _ _ h0)

theorem rxHeldFuel_keeps {r0 : State} (x0 : Nat) : ∀ (x1 : State) (x2 : Nat),
    Keeps r0 x1 → Keeps r0 (rxHeldFuel x0 x1 x2) := by
  induction x0 with
  | zero =>
    intro x1 x2 h0
    rw [rxHeldFuel]
    exact h0
  | succ n ih =>
    intro x1 x2 h0
    rw [rxHeldFuel]
    exact Keeps.ite (ih _ _ (paceAct_keeps _ _ _ (fun _ _ => rxFirst_keeps _ _ (by assumption)) h0)) (paceAct_keeps _
      _ _ (fun _ _ => rxFirst_keeps _ _ (by assumption)) h0)

theorem rxHeld_keeps {r0 : State} (s : State) (c : Nat) (h0 : Keeps r0 s) :
    Keeps r0 (rxHeld s c) := by
  unfold rxHeld
  exact Keeps.ite (rxHeldFuel_keeps _ _ _ h0) h0

theorem rxDeliver_keeps {r0 : State} (s : State) (c : Nat) (e : List Byte) (h0 : Keeps r0 s) :
    Keeps r0 (rxDeliver s c e) := by
  unfold rxDeliver
  extract_lets -underBinder +onlyGivenNames r; clear_value r
  exact Keeps.ite (rxHeld_keeps _ _ (State.setCan_keeps _ _ _ h0)) (State.addSat_keeps _ _ _ h0)

theorem acceptFrame_keeps {r0 : State} (s : State) (c : Nat) (x : CanFrame) (esi : Bool) (sof : Nat)
    (h0 : Keeps r0 s) :
    Keeps r0 (acceptFrame s c x esi sof) := by
  unfold acceptFrame
  extract_lets -underBinder +onlyGivenNames r; clear_value r
  extract_lets -underBinder +onlyGivenNames seq; clear_value seq
  extract_lets -underBinder +onlyGivenNames s1
  have hs1 : Keeps r0 s1 := by subst s1; exact State.setCan_keeps _ _ _ h0
  clear_value s1
  extract_lets -underBinder +onlyGivenNames hits; clear_value hits
  extract_lets -underBinder +onlyGivenNames has; clear_value has
  extract_lets -underBinder +onlyGivenNames s2
  have hs2 : Keeps r0 s2 := by subst s2; exact Keeps.ite (wakeEvent_keeps _ _ hs1) hs1
  clear_value s2
  exact Keeps.ite (rxDeliver_keeps _ _ _ hs2) hs2

theorem execCanBusRecover_keeps {r0 : State} (c : Nat) (s : State) (h0 : Keeps r0 s) :
    Keeps.R r0 (execCanBusRecover c s) := by
  unfold execCanBusRecover
  exact Keeps.toNext (Keeps.ite (State.setF_keeps _ _ _ (State.setF_keeps _ _ _ (State.setF_keeps _ _ _ h0))) h0)

theorem stopSensor_keeps {r0 : State} (s : State) (p : Pkt) (t : Nat) (h0 : Keeps r0 s) :
    Keeps r0 (stopSensor s p t) := by
  unfold stopSensor
  split
  · exact complete_keeps _ _ _ _ _ h0
  · exact Keeps.ite (State.setPkt_keeps _ _ h0) (complete_keeps _ _ _ _ _ (stopStream_keeps _ _ h0))

theorem canOff_keeps {r0 : State} (s : State) (c : Nat) (h0 : Keeps r0 s) :
    Keeps r0 (canOff s c) := by
  unfold canOff
  extract_lets -underBinder +onlyGivenNames r; clear_value r
  extract_lets -underBinder +onlyGivenNames s1
  have hs1 : Keeps r0 s1 := by subst s1; exact State.addSat_keeps _ _ _ h0
  clear_value s1
  extract_lets -underBinder +onlyGivenNames s2
  have hs2 : Keeps r0 s2 := by
    subst s2
    exact State.setF_keeps _ _ _ (State.setF_keeps _ _ _ (State.setF_keeps _ _ _ hs1))
  clear_value s2
  exact State.setCan_keeps _ _ _ hs2

theorem canOn_keeps {r0 : State} (s : State) (p : Pkt) (c : Nat) (bs : List Byte) (h0 : Keeps r0 s) :
    Keeps r0 (canOn s p c bs) := by
  unfold canOn
  extract_lets -underBinder +onlyGivenNames r; clear_value r
  extract_lets -underBinder +onlyGivenNames s1
  have hs1 : Keeps r0 s1 := by
    subst s1
    exact State.setF_keeps _ _ _ (State.setF_keeps _ _ _ (State.setF_keeps _ _ _ h0))
  clear_value s1
  extract_lets -underBinder +onlyGivenNames s2
  have hs2 : Keeps r0 s2 := by
    subst s2
    exact State.setF_keeps _ _ _ (State.setF_keeps _ _ _ (State.setF_keeps _ _ _ hs1))
  clear_value s2
  exact State.setCan_keeps _ _ _ (State.setF_keeps _ _ _ hs2)

theorem applyCanCfg_keeps {r0 : State} (s : State) (p : Pkt) (h0 : Keeps r0 s) :
    Keeps r0 (applyCanCfg s p) := by
  unfold applyCanCfg
  extract_lets -underBinder +onlyGivenNames c; clear_value c
  with_reducible apply Keeps.ite
  · with_reducible apply complete_keeps
    with_reducible apply Keeps.ite
    · exact h0
    · with_reducible apply State.setF_keeps
      with_reducible apply State.setF_keeps
      with_reducible apply canOff_keeps
      exact h0
  · split
    · with_reducible apply Keeps.O.getD
      · exact endPre_keeps _ _ _ (Keeps.By.eq_fst (by assumption) (pktBytes_keeps _ _ _ _ _ h0))
      · exact Keeps.By.eq_fst (by assumption) (pktBytes_keeps _ _ _ _ _ h0)
    · exact Keeps.ite (complete_keeps _ _ _ _ _ (canOn_keeps _ _ _ _ (Keeps.By.eq_fst (by assumption) (pktBytes_keeps
        _ _ _ _ _ h0)))) (preFail_keeps _ _ _ (Keeps.By.eq_fst (by assumption) (pktBytes_keeps _ _ _ _ _ h0)))

theorem canDrained_keeps {r0 : State} (s : State) (c : Nat) (h0 : Keeps r0 s) :
    Keeps r0 (canDrained s c) := by
  unfold canDrained
  with_reducible apply Keeps.ite
  · extract_lets -underBinder +onlyGivenNames s1
    have hs1 : Keeps r0 s1 := by
      subst s1
      with_reducible apply Keeps.foldl
      · exact h0
      · exact fun _ _ _ => Keeps.ite (paceAct_keeps _ _ _ (fun _ _ => applyCanCfg_keeps _ _ (by assumption)) (by
          assumption)) (complete_keeps _ _ _ _ _ (canOff_keeps _ _ (by assumption)))
    clear_value s1
    exact Keeps.ite (canOff_keeps _ _ hs1) hs1
  · exact h0

theorem execCanBusOff_keeps {r0 : State} (c : Nat) (s : State) (h0 : Keeps r0 s) :
    Keeps.R r0 (execCanBusOff c s) := by
  unfold execCanBusOff
  extract_lets -underBinder +onlyGivenNames r; clear_value r
  with_reducible apply Keeps.toNext
  with_reducible apply Keeps.ite
  · extract_lets -underBinder +onlyGivenNames f
    have hf : Keeps.By Prod.snd r0 f := by subst f; exact State.fresh_keeps (State.addSat_keeps _ _ _ h0)
    clear_value f
    extract_lets -underBinder +onlyGivenNames s1
    have hs1 : Keeps r0 s1 := by
      subst s1
      exact State.setCan_keeps _ _ _ (State.setF_keeps _ _ _ (State.setF_keeps _ _ _ (Keeps.By.snd hf)))
    clear_value s1
    with_reducible apply canDrained_keeps
    with_reducible apply Keeps.foldl
    · exact hs1
    · exact fun _ _ _ => complete_keeps _ _ _ _ _ (by assumption)
  · exact h0

theorem preCanTx_keeps {r0 : State} (s : State) (p : Pkt) (h0 : Keeps r0 s) :
    Keeps.By Prod.fst r0 (preCanTx s p) := by
  unfold preCanTx
  extract_lets -underBinder +onlyGivenNames c; clear_value c
  exact Keeps.toFst h0

theorem feedPkt_keeps {r0 : State} (c : Nat) (s : State) (p : Pkt) (h0 : Keeps r0 s) :
    Keeps r0 (feedPkt c s p) := by
  unfold feedPkt
  extract_lets -underBinder +onlyGivenNames r; clear_value r
  extract_lets -underBinder +onlyGivenNames k; clear_value k
  extract_lets -underBinder +onlyGivenNames fs; clear_value fs
  exact State.setPkt_keeps _ _ (State.setCan_keeps _ _ _ h0)

theorem canFeed_keeps {r0 : State} (s : State) (c : Nat) (h0 : Keeps r0 s) :
    Keeps r0 (canFeed s c) := by
  unfold canFeed
  with_reducible apply Keeps.ite
  · with_reducible apply Keeps.foldl
    · exact h0
    · exact fun _ _ _ => feedPkt_keeps _ _ _ (by assumption)
  · exact h0

theorem execStreamCanTx_keeps {r0 : State} (q : Nat) (idx : Nat) (s : State) (h0 : Keeps r0 s) :
    Keeps.R r0 (execStreamCanTx q idx s) := by
  unfold execStreamCanTx
  exact carry_keeps _ _ _ _ _ _ h0 (fun _ _ _ => preCanTx_keeps _ _ (by assumption)) (fun _ _ _ => canFeed_keeps _ _
    (State.setPkt_keeps _ _ (by assumption)))

theorem startCanCfg_keeps {r0 : State} (s : State) (p : Pkt) (h0 : Keeps r0 s) :
    Keeps r0 (startCanCfg s p) := by
  unfold startCanCfg
  extract_lets -underBinder +onlyGivenNames c; clear_value c
  exact Keeps.ite (applyCanCfg_keeps _ _ h0) (State.setPkt_keeps _ _ h0)

theorem execCanFrameReceive_keeps {r0 : State} (c : Nat) (frame : CanFrame) (remote : Bool) (esi : Bool) (sof : Nat)
    (s : State) (h0 : Keeps r0 s) :
    Keeps.R r0 (execCanFrameReceive c frame remote esi sof s) := by
  unfold execCanFrameReceive
  exact Keeps.toNext (Keeps.ite (Keeps.ite (State.addSat_keeps _ _ _ h0) (Keeps.ite h0 (acceptFrame_keeps _ _ _ _ _
    (routeFrame_keeps _ _ _ h0)))) h0)

theorem canSend_keeps {r0 : State} (s : State) (c : Nat) (x : CanFrame) (h0 : Keeps r0 s) :
    Keeps r0 (canSend s c x) := by
  unfold canSend
  extract_lets -underBinder +onlyGivenNames y
  have hy : Keeps r0 y := by subst y; exact State.addWrap_keeps _ _ _ h0
  clear_value y
  with_reducible exact Keeps.upd hy rfl rfl rfl rfl rfl rfl

theorem canQueue_keeps {r0 : State} (s : State) (c : Nat) (f : CanFrame) (h0 : Keeps r0 s) :
    Keeps.O r0 (canQueue s c f) := by
  unfold canQueue
  extract_lets -underBinder +onlyGivenNames r; clear_value r
  exact Keeps.O.ite (Keeps.toSome (State.setCan_keeps _ _ _ h0)) Keeps.noState

theorem txDone_keeps {r0 : State} (s : State) (k : Nat × Nat) (h0 : Keeps r0 s) :
    Keeps r0 (txDone s k) := by
  unfold txDone
  split
  · exact h0
  · extract_lets -underBinder +onlyGivenNames p1; clear_value p1
    extract_lets -underBinder +onlyGivenNames s1
    have hs1 : Keeps r0 s1 := by subst s1; exact State.setPkt_keeps _ _ h0
    clear_value s1
    exact Keeps.ite (complete_keeps _ _ _ _ _ hs1) hs1

theorem execCanWakeDetect_keeps {r0 : State} (c : Nat) (s : State) (h0 : Keeps r0 s) :
    Keeps.R r0 (execCanWakeDetect c s) := by
  unfold execCanWakeDetect
  with_reducible apply Keeps.toNext
  with_reducible apply Keeps.ite
  · extract_lets -underBinder +onlyGivenNames s1
    have hs1 : Keeps r0 s1 := by subst s1; exact setRefreq_keeps _ _ h0
    clear_value s1
    with_reducible exact Keeps.upd hs1 rfl rfl rfl rfl rfl rfl
  · exact h0

theorem preRouter_keeps {r0 : State} (s : State) (p : Pkt) (h0 : Keeps r0 s) :
    Keeps.By Prod.fst r0 (preRouter s p) := by
  unfold preRouter
  exact Keeps.toFst h0

theorem execCanFrameTransmit_keeps {r0 : State} (c : Nat) (s : State) (h0 : Keeps r0 s) :
    Keeps.R r0 (execCanFrameTransmit c s) := by
  unfold execCanFrameTransmit
  extract_lets -underBinder +onlyGivenNames r; clear_value r
  with_reducible apply Keeps.toNext
  with_reducible apply Keeps.ite
  · exact h0
  · split
    · extract_lets -underBinder +onlyGivenNames s1
      have hs1 : Keeps r0 s1 := by subst s1; exact State.setCan_keeps _ _ _ h0
      clear_value s1
      exact Keeps.ite (State.addSat_keeps _ _ _ hs1) (canSend_keeps _ _ _ hs1)
    · extract_lets -underBinder +onlyGivenNames s1
      have hs1 : Keeps r0 s1 := by subst s1; exact canSend_keeps _ _ _ (State.setCan_keeps _ _ _ h0)
      clear_value s1
      extract_lets -underBinder +onlyGivenNames s2
      have hs2 : Keeps r0 s2 := by
        subst s2
        split
        · exact txDone_keeps _ _ hs1
        · exact hs1
      clear_value s2
      exact canDrained_keeps _ _ (canFeed_keeps _ _ hs2)
    · exact h0

theorem execStreamRouter_keeps {r0 : State} (q : Nat) (idx : Nat) (s : State) (h0 : Keeps r0 s) :
    Keeps.R r0 (execStreamRouter q idx s) := by
  unfold execStreamRouter
  with_reducible apply carry_keeps
  · exact h0
  · intro _ _ _
    with_reducible apply preRouter_keeps
    assumption
  · intro _ _ _
    extract_lets -underBinder +onlyGivenNames rs; clear_value rs
    with_reducible exact complete_keeps _ _ _ _ _ (Keeps.upd (by assumption) rfl rfl rfl rfl rfl rfl)

theorem execStreamCanCfg_keeps {r0 : State} (q : Nat) (idx : Nat) (s : State) (h0 : Keeps r0 s) :
    Keeps.R r0 (execStreamCanCfg q idx s) := by
  unfold execStreamCanCfg
  exact carryDma_keeps _ _ _ _ _ _ h0 (fun _ _ _ => noPre_keeps _ _ (by assumption)) (fun _ _ _ => startCanCfg_keeps
    _ _ (by assumption))

theorem execStreamStop_keeps {r0 : State} (q : Nat) (idx : Nat) (s : State) (h0 : Keeps r0 s) :
    Keeps.R r0 (execStreamStop q idx s) := by
  unfold execStreamStop
  with_reducible apply carry_keeps
  · exact h0
  · intro _ _ _
    with_reducible apply noPre_keeps
    assumption
  · intro _ _ _
    extract_lets -underBinder +onlyGivenNames u; clear_value u
    split
    · exact stopSensor_keeps _ _ _ (by assumption)
    · exact Keeps.ite (State.setPkt_keeps _ _ (by assumption)) (complete_keeps _ _ _ _ _ (State.setDispSaved_keeps _
        _ _ (by assumption)))
    · exact Keeps.ite (complete_keeps _ _ _ _ _ (by assumption)) (Keeps.ite (complete_keeps _ _ _ _ _ (canOff_keeps _
        _ (by assumption))) (State.setPkt_keeps _ _ (by assumption)))

/-! ### Network -/

theorem State.setNetNext_keeps {r0 : State} (s : State) (n : Nat) (x : Nat × Nat) (h0 : Keeps r0 s) :
    Keeps r0 (State.setNetNext s n x) := by
  unfold State.setNetNext
  with_reducible exact Keeps.upd h0 rfl rfl rfl rfl rfl rfl

theorem netRingWrite_keeps {r0 : State} (s : State) (n : Nat) (old : Nat) (h0 : Keeps r0 s) :
    Keeps r0 (netRingWrite s n old) := by
  unfold netRingWrite
  extract_lets -underBinder +onlyGivenNames y; clear_value y
  extract_lets -underBinder +onlyGivenNames on; clear_value on
  exact State.setNetNext_keeps _ _ _ h0

theorem netStamp_keeps {r0 : State} (s : State) (tick : Nat) (h0 : Keeps r0 s) :
    Keeps.By Prod.snd r0 (netStamp s tick) := by
  unfold netStamp
  extract_lets -underBinder +onlyGivenNames f
  have hf : Keeps.By Prod.snd r0 f := by subst f; exact State.fresh_keeps h0
  clear_value f
  exact Keeps.toSnd (Keeps.By.snd hf)

theorem netReturn_keeps {r0 : State} (s : State) (n : Nat) (va : Nat) (d : List Byte) (flags : Nat) (rxLen : Nat)
    (time : Nat) (h0 : Keeps r0 s) :
    Keeps r0 (netReturn s n va d flags rxLen time) := by
  unfold netReturn
  exact Keeps.By.fst (dmaWrite_keeps _ _ _ _ h0)

theorem netStore_keeps {r0 : State} (s : State) (n : Nat) (tick : Nat) (va : Nat) (d : List Byte)
    (frame : List Byte) (h0 : Keeps r0 s) :
    Keeps r0 (netStore s n tick va d frame) := by
  unfold netStore
  extract_lets -underBinder +onlyGivenNames st
  have hst : Keeps.By Prod.snd r0 st := by subst st; exact netStamp_keeps _ _ h0
  clear_value st
  extract_lets -underBinder +onlyGivenNames len; clear_value len
  extract_lets -underBinder +onlyGivenNames k; clear_value k
  extract_lets -underBinder +onlyGivenNames r
  have hr : Keeps.By Prod.fst r0 r := by subst r; exact dmaWrite_keeps _ _ _ _ (Keeps.By.snd hst)
  clear_value r
  extract_lets -underBinder +onlyGivenNames fl0; clear_value fl0
  extract_lets -underBinder +onlyGivenNames fl1; clear_value fl1
  extract_lets -underBinder +onlyGivenNames fl2; clear_value fl2
  exact netReturn_keeps _ _ _ _ _ _ _ (Keeps.By.fst hr)

theorem netReceive_keeps {r0 : State} (n : Nat) (fcsOk : Bool) (frame : List Byte) (tick : Nat) (s : State)
    (h0 : Keeps r0 s) :
    Keeps r0 (netReceive n fcsOk frame tick s) := by
  unfold netReceive
  extract_lets -underBinder +onlyGivenNames y; clear_value y
  extract_lets -underBinder +onlyGivenNames slots; clear_value slots
  extract_lets -underBinder +onlyGivenNames drop
  have hdrop : ∀ a0, Keeps r0 a0 → Keeps r0 (drop a0) := by
    subst drop
    exact fun _ _ => State.addSat_keeps _ _ _ (by assumption)
  clear_value drop
  with_reducible apply Keeps.ite
  · with_reducible apply Keeps.ite
    · with_reducible apply State.addSat_keeps
      exact h0
    · with_reducible apply Keeps.ite
      · with_reducible apply_assumption
        exact h0
      · extract_lets -underBinder +onlyGivenNames va; clear_value va
        split
        · with_reducible apply_assumption
          exact Keeps.By.eq_fst (by assumption) (dmaRead_keeps _ _ _ _ h0)
        · with_reducible apply Keeps.ite
          · with_reducible apply netStore_keeps
            with_reducible apply State.setNetNext_keeps
            with_reducible refine Keeps.By.eq_fst (by assumption) ?_
            with_reducible apply dmaRead_keeps
            exact h0
          · with_reducible apply_assumption
            exact Keeps.By.eq_fst (by assumption) (dmaRead_keeps _ _ _ _ h0)
  · exact h0

theorem execEthernetLinkChange_keeps {r0 : State} (n : Nat) (up : Bool) (s : State) (h0 : Keeps r0 s) :
    Keeps.R r0 (execEthernetLinkChange n up s) := by
  unfold execEthernetLinkChange
  exact Keeps.toNext (Keeps.ite (State.setF_keeps _ _ _ h0) h0)

theorem netSend_keeps {r0 : State} (s : State) (n : Nat) (va : Nat) (d : List Byte) (h0 : Keeps r0 s) :
    Keeps r0 (netSend s n va d) := by
  unfold netSend
  extract_lets -underBinder +onlyGivenNames len; clear_value len
  extract_lets -underBinder +onlyGivenNames flags; clear_value flags
  extract_lets -underBinder +onlyGivenNames st
  have hst : Keeps.By Prod.snd r0 st := by subst st; exact Keeps.By.ite (netStamp_keeps _ _ h0) (State.fresh_keeps h0)
  clear_value st
  extract_lets -underBinder +onlyGivenNames fail
  have hfail : ∀ a0, Keeps r0 a0 → Keeps r0 (fail a0) := by
    subst fail
    exact fun _ _ => netReturn_keeps _ _ _ _ _ _ _ (by assumption)
  clear_value fail
  with_reducible apply Keeps.ite
  · with_reducible apply_assumption
    exact Keeps.By.snd hst
  · split
    · with_reducible apply_assumption
      exact Keeps.By.eq_fst (by assumption) (dmaRead_keeps _ _ _ _ (Keeps.By.snd hst))
    · extract_lets -underBinder +onlyGivenNames frame; clear_value frame
      with_reducible exact netReturn_keeps _ _ _ _ _ _ _ (Keeps.upd (Keeps.By.eq_fst (by assumption) (dmaRead_keeps _
                       _ _ _ (Keeps.By.snd hst))) rfl rfl rfl rfl rfl rfl)

theorem netTransmit_keeps {r0 : State} (n : Nat) (s : State) (h0 : Keeps r0 s) :
    Keeps r0 (netTransmit n s) := by
  unfold netTransmit
  extract_lets -underBinder +onlyGivenNames y; clear_value y
  extract_lets -underBinder +onlyGivenNames slots; clear_value slots
  with_reducible apply Keeps.ite
  · extract_lets -underBinder +onlyGivenNames va; clear_value va
    extract_lets -underBinder +onlyGivenNames s1
    have hs1 : Keeps r0 s1 := by subst s1; exact State.setNetNext_keeps _ _ _ h0
    clear_value s1
    split
    · exact Keeps.By.eq_fst (by assumption) (dmaRead_keeps _ _ _ _ hs1)
    · exact Keeps.ite (netSend_keeps _ _ _ _ (Keeps.By.eq_fst (by assumption) (dmaRead_keeps _ _ _ _ hs1))) h0
  · exact h0

theorem execNetFrameTransmit_keeps {r0 : State} (n : Nat) (s : State) (h0 : Keeps r0 s) :
    Keeps.R r0 (execNetFrameTransmit n s) := by
  unfold execNetFrameTransmit
  exact Keeps.toNext (paceAct_keeps _ _ _ (fun _ _ => netTransmit_keeps _ _ (by assumption)) (demand_keeps _ _ h0))

theorem execNetRxTailWrite_keeps {r0 : State} (m : BusMaster) (n : Nat) (v : Word) (s : State) (h0 : Keeps r0 s) :
    Keeps.R r0 (execNetRxTailWrite m n v s) := by
  unfold execNetRxTailWrite
  exact Keeps.toNext (Keeps.ite (Keeps.By.fst (plainWrite_keeps _ _ _ _ (busDemand_keeps _ _ _ h0))) h0)

theorem execNetFrameReceive_keeps {r0 : State} (n : Nat) (fcsOk : Bool) (frame : List Byte) (s : State)
    (h0 : Keeps r0 s) :
    Keeps.R r0 (execNetFrameReceive n fcsOk frame s) := by
  unfold execNetFrameReceive
  exact Keeps.toNext (paceAct_keeps _ _ _ (fun _ _ => netReceive_keeps _ _ _ _ _ (by assumption)) (demand_keeps _ _
    h0))

theorem execPcieWake_keeps {r0 : State} (k : Nat) (s : State) (h0 : Keeps r0 s) :
    Keeps.R r0 (execPcieWake k s) := by
  unfold execPcieWake
  exact Keeps.toNext (Keeps.ite (wakeEvent_keeps _ _ h0) h0)

theorem execPcieLinkDown_keeps {r0 : State} (k : Nat) (s : State) (h0 : Keeps r0 s) :
    Keeps.R r0 (execPcieLinkDown k s) := by
  unfold execPcieLinkDown
  exact Keeps.toNext (Keeps.ite (linkDown_keeps _ _ h0) h0)

theorem execPcieLinkUp_keeps {r0 : State} (k : Nat) (width : Nat) (gen : Nat) (s : State) (h0 : Keeps r0 s) :
    Keeps.R r0 (execPcieLinkUp k width gen s) := by
  unfold execPcieLinkUp
  with_reducible apply Keeps.toNext
  with_reducible apply Keeps.ite
  · extract_lets -underBinder +onlyGivenNames s1
    have hs1 : Keeps r0 s1 := by
      subst s1
      exact State.setF_keeps _ _ _ (State.setF_keeps _ _ _ (State.setF_keeps _ _ _ h0))
    clear_value s1
    with_reducible exact Keeps.upd hs1 rfl rfl rfl rfl rfl rfl
  · exact h0

theorem execNetTxTailWrite_keeps {r0 : State} (m : BusMaster) (n : Nat) (v : Word) (s : State) (h0 : Keeps r0 s) :
    Keeps.R r0 (execNetTxTailWrite m n v s) := by
  unfold execNetTxTailWrite
  exact Keeps.toNext (Keeps.ite (Keeps.By.fst (plainWrite_keeps _ _ _ _ (busDemand_keeps _ _ _ h0))) h0)

/-! ### Power -/

theorem execDroopTrip_keeps {r0 : State} (d : Nat) (s : State) (h0 : Keeps r0 s) :
    Keeps.R r0 (execDroopTrip d s) := by
  unfold execDroopTrip
  with_reducible apply Keeps.toNext
  with_reducible apply Keeps.ite
  · extract_lets -underBinder +onlyGivenNames s1
    have hs1 : Keeps r0 s1 := by subst s1; exact State.addSat_keeps _ _ _ h0
    clear_value s1
    with_reducible exact Keeps.upd hs1 rfl rfl rfl rfl rfl rfl
  · exact h0

theorem levelRound_keeps {r0 : State} (s : State) (words : List Nat) (h0 : Keeps r0 s) :
    Keeps r0 (levelRound s words) := by
  unfold levelRound
  extract_lets -underBinder +onlyGivenNames cap7; clear_value cap7
  extract_lets -underBinder +onlyGivenNames g; clear_value g
  extract_lets -underBinder +onlyGivenNames y; subst y
  extract_lets -underBinder +onlyGivenNames go; clear_value go
  extract_lets -underBinder +onlyGivenNames s1
  have hs1 : Keeps r0 s1 := by subst s1; exact State.setF_keeps _ _ _ (Keeps.ite (State.setDom_keeps _ _ _ h0) h0)
  clear_value s1
  with_reducible exact tileAdvance_keeps _ (refreshDom_keeps _ _ (Keeps.upd hs1 rfl rfl rfl rfl rfl rfl))

theorem setClaimRounds_keeps {r0 : State} (s : State) (n : Nat) (h0 : Keeps r0 s) :
    Keeps r0 (setClaimRounds s n) := by
  unfold setClaimRounds
  with_reducible exact Keeps.upd h0 rfl rfl rfl rfl rfl rfl

theorem updCap_keeps {r0 : State} (s : State) (h0 : Keeps r0 s) :
    Keeps r0 (updCap s) := by
  unfold updCap
  exact State.setF_keeps _ _ _ h0

theorem setShift_keeps {r0 : State} (s : State) (claim : Bool) (raise : Nat) (donation : Nat) (h0 : Keeps r0 s) :
    Keeps r0 (setShift s claim raise donation) := by
  unfold setShift
  extract_lets -underBinder +onlyGivenNames s1
  have hs1 : Keeps r0 s1 := by
    subst s1
    exact State.setF_keeps _ _ _ (State.setF_keeps _ _ _ (State.setF_keeps _ _ _ h0))
  clear_value s1
  with_reducible exact updCap_keeps _ (Keeps.upd hs1 rfl rfl rfl rfl rfl rfl)

theorem multiSingle_keeps {r0 : State} (s : State) (h0 : Keeps r0 s) :
    Keeps r0 (multiSingle s) := by
  unfold multiSingle
  extract_lets -underBinder +onlyGivenNames y; subst y
  extract_lets -underBinder +onlyGivenNames s1
  have hs1 : Keeps r0 s1 := by subst s1; exact State.setDom_keeps _ _ _ h0
  clear_value s1
  exact tileAdvance_keeps _ (refreshDom_keeps _ _ (setClaimRounds_keeps _ _ (setShift_keeps _ _ _ _ hs1)))

theorem execMultiRoundTimeout_keeps {r0 : State} (s : State) (h0 : Keeps r0 s) :
    Keeps.R r0 (execMultiRoundTimeout s) := by
  unfold execMultiRoundTimeout
  extract_lets -underBinder +onlyGivenNames per; clear_value per
  extract_lets -underBinder +onlyGivenNames gone; clear_value gone
  with_reducible apply Keeps.toNext
  with_reducible apply Keeps.ite
  · exact h0
  · extract_lets -underBinder +onlyGivenNames s1
    have hs1 : Keeps r0 s1 := by subst s1; exact Keeps.ite (setClaimRounds_keeps _ _ (setShift_keeps _ _ _ _ h0)) h0
    clear_value s1
    extract_lets -underBinder +onlyGivenNames s2
    have hs2 : Keeps r0 s2 := by subst s2; exact Keeps.ite (setShift_keeps _ _ _ _ hs1) hs1
    clear_value s2
    exact Keeps.ite (multiSingle_keeps _ (State.setF_keeps _ _ _ hs2)) hs2

theorem hotTrip_keeps {r0 : State} (s : State) (h0 : Keeps r0 s) :
    Keeps r0 (hotTrip s) := by
  unfold hotTrip
  with_reducible apply Keeps.foldl
  · exact State.setF_keeps _ _ _ h0
  · exact fun _ _ _ => refreshDom_keeps _ _ (State.setDom_keeps _ _ _ (by assumption))

theorem prePwrMulti_keeps {r0 : State} (s : State) (p : Pkt) (h0 : Keeps r0 s) :
    Keeps.By Prod.fst r0 (prePwrMulti s p) := by
  unfold prePwrMulti
  extract_lets -underBinder +onlyGivenNames nodes; clear_value nodes
  exact Keeps.toFst h0

theorem execPwrQuery_keeps {r0 : State} (q : Nat) (idx : Nat) (s : State) (h0 : Keeps r0 s) :
    Keeps.R r0 (execPwrQuery q idx s) := by
  unfold execPwrQuery
  exact carryDma_keeps _ _ _ _ _ _ h0 (fun _ _ _ => noPre_keeps _ _ (by assumption)) (fun _ _ _ => outAndEnd_keeps _
    _ _ _ _ (by assumption))

theorem State.setMissed_keeps {r0 : State} (s : State) (r : Nat) (n : Nat) (h0 : Keeps r0 s) :
    Keeps r0 (State.setMissed s r n) := by
  unfold State.setMissed
  with_reducible exact Keeps.upd h0 rfl rfl rfl rfl rfl rfl

theorem shiftRound_keeps {r0 : State} (s : State) (words : List Nat) (h0 : Keeps r0 s) :
    Keeps r0 (shiftRound s words) := by
  unfold shiftRound
  extract_lets -underBinder +onlyGivenNames own; clear_value own
  extract_lets -underBinder +onlyGivenNames others; clear_value others
  extract_lets -underBinder +onlyGivenNames claims; clear_value claims
  extract_lets -underBinder +onlyGivenNames gift; clear_value gift
  extract_lets -underBinder +onlyGivenNames y; subst y
  extract_lets -underBinder +onlyGivenNames s
  have hs : Keeps r0 s := by subst s; with_reducible exact Keeps.ite h0 (Keeps.upd h0 rfl rfl rfl rfl rfl rfl)
  clear_value s
  extract_lets -underBinder +onlyGivenNames above; clear_value above
  with_reducible apply Keeps.ite
  · with_reducible apply Keeps.ite
    · with_reducible apply setClaimRounds_keeps
      with_reducible apply setShift_keeps
      exact hs
    · with_reducible apply Keeps.ite
      · with_reducible apply setClaimRounds_keeps
        with_reducible apply setShift_keeps
        exact hs
      · with_reducible apply Keeps.ite
        · with_reducible apply setClaimRounds_keeps
          with_reducible apply setShift_keeps
          exact hs
        · extract_lets -underBinder +onlyGivenNames n; clear_value n
          exact setClaimRounds_keeps _ _ (setShift_keeps _ _ _ _ hs)
  · with_reducible apply Keeps.ite
    · with_reducible apply setShift_keeps
      exact hs
    · with_reducible apply Keeps.ite
      · with_reducible apply setClaimRounds_keeps
        with_reducible apply setShift_keeps
        exact hs
      · with_reducible apply setShift_keeps
        exact hs

theorem unjoinedRound_keeps {r0 : State} (s : State) (words : List Nat) (h0 : Keeps r0 s) :
    Keeps r0 (unjoinedRound s words) := by
  unfold unjoinedRound
  extract_lets -underBinder +onlyGivenNames n; clear_value n
  extract_lets -underBinder +onlyGivenNames s0
  have hs0 : Keeps r0 s0 := by subst s0; exact State.setF_keeps _ _ _ (State.setF_keeps _ _ _ h0)
  clear_value s0
  extract_lets -underBinder +onlyGivenNames y; subst y
  extract_lets -underBinder +onlyGivenNames s1
  have hs1 : Keeps r0 s1 := by subst s1; with_reducible exact Keeps.upd hs0 rfl rfl rfl rfl rfl rfl
  clear_value s1
  extract_lets -underBinder +onlyGivenNames s2
  have hs2 : Keeps r0 s2 := by subst s2; exact Keeps.ite (setClaimRounds_keeps _ _ (setShift_keeps _ _ _ _ hs1)) hs1
  clear_value s2
  extract_lets -underBinder +onlyGivenNames seen; clear_value seen
  extract_lets -underBinder +onlyGivenNames y; subst y
  extract_lets -underBinder +onlyGivenNames s3
  have hs3 : Keeps r0 s3 := by subst s3; with_reducible exact Keeps.ite (Keeps.upd hs2 rfl rfl rfl rfl rfl rfl) hs2
  clear_value s3
  exact Keeps.ite (multiSingle_keeps _ hs3) hs3

theorem warnMove_keeps {r0 : State} (s : State) (f : Nat → Nat → Nat) (h0 : Keeps r0 s) :
    Keeps r0 (warnMove s f) := by
  unfold warnMove
  extract_lets -underBinder +onlyGivenNames s1
  have hs1 : Keeps r0 s1 := by
    subst s1
    with_reducible apply Keeps.foldl
    · exact h0
    · exact fun _ _ _ => State.setDom_keeps _ _ _ (by assumption)
  clear_value s1
  with_reducible exact tileAdvance_keeps _ (refreshDoms_keeps _ (Keeps.upd hs1 rfl rfl rfl rfl rfl rfl))

theorem prePwrCap_keeps {r0 : State} (s : State) (p : Pkt) (h0 : Keeps r0 s) :
    Keeps.By Prod.fst r0 (prePwrCap s p) := by
  unfold prePwrCap
  exact Keeps.toFst h0

theorem execPwrCap_keeps {r0 : State} (q : Nat) (idx : Nat) (s : State) (h0 : Keeps r0 s) :
    Keeps.R r0 (execPwrCap q idx s) := by
  unfold execPwrCap
  with_reducible exact carry_keeps _ _ _ _ _ _ h0 (fun _ _ _ => prePwrCap_keeps _ _ (by assumption)) (fun _ _ _ =>
                   complete_keeps _ _ _ _ _ (Keeps.upd (by assumption) rfl rfl rfl rfl rfl rfl))

theorem execStatusWordPoll_keeps {r0 : State} (faults : Nat) (s : State) (h0 : Keeps r0 s) :
    Keeps.R r0 (execStatusWordPoll faults s) := by
  unfold execStatusWordPoll
  exact Keeps.toNext (Keeps.ite (State.setF_keeps _ _ _ h0) h0)

theorem sampleRail_keeps {r0 : State} (readings : List (Option (Nat × Nat))) (a : State × Nat) (r : Nat)
    (h0 : Keeps.By Prod.fst r0 a) :
    Keeps.By Prod.fst r0 (sampleRail readings a r) := by
  unfold sampleRail
  extract_lets -underBinder +onlyGivenNames s
  have hs : Keeps r0 s := by subst s; exact Keeps.By.fst h0
  clear_value s
  with_reducible apply Keeps.By.ite
  · exact h0
  · split
    · extract_lets -underBinder +onlyGivenNames s1
      have hs1 : Keeps r0 s1 := by
        subst s1
        exact State.setF_keeps _ _ _ (State.setF_keeps _ _ _ (State.setMissed_keeps _ _ _ hs))
      clear_value s1
      exact Keeps.toFst hs1
    · extract_lets -underBinder +onlyGivenNames n; clear_value n
      extract_lets -underBinder +onlyGivenNames s1
      have hs1 : Keeps r0 s1 := by subst s1; exact State.setMissed_keeps _ _ _ hs
      clear_value s1
      exact Keeps.By.ite (Keeps.toFst (State.setF_keeps _ _ _ hs1)) (Keeps.toFst hs1)

theorem capLower_keeps {r0 : State} (s : State) (h0 : Keeps r0 s) :
    Keeps r0 (capLower s) := by
  unfold capLower
  extract_lets -underBinder +onlyGivenNames y; subst y
  extract_lets -underBinder +onlyGivenNames s1
  have hs1 : Keeps r0 s1 := by subst s1; with_reducible exact Keeps.upd h0 rfl rfl rfl rfl rfl rfl
  clear_value s1
  extract_lets -underBinder +onlyGivenNames s0
  have hs0 : Keeps r0 s0 := by subst s0; exact Keeps.ite (State.setF_keeps _ _ _ hs1) hs1
  clear_value s0
  split
  · extract_lets -underBinder +onlyGivenNames y; subst y
    extract_lets -underBinder +onlyGivenNames s1
    have hs1 : Keeps r0 s1 := by subst s1; exact State.setDom_keeps _ _ _ hs0
    clear_value s1
    with_reducible exact Keeps.upd hs1 rfl rfl rfl rfl rfl rfl
  · exact hs0

theorem capRaise_keeps {r0 : State} (s : State) (h0 : Keeps r0 s) :
    Keeps r0 (capRaise s) := by
  unfold capRaise
  extract_lets -underBinder +onlyGivenNames n; clear_value n
  with_reducible apply Keeps.ite
  · with_reducible refine Keeps.upd ?_ rfl rfl rfl rfl rfl rfl
    exact h0
  · extract_lets -underBinder +onlyGivenNames y; subst y
    extract_lets -underBinder +onlyGivenNames s0
    have hs0 : Keeps r0 s0 := by subst s0; with_reducible exact Keeps.upd h0 rfl rfl rfl rfl rfl rfl
    clear_value s0
    split
    · exact hs0
    · extract_lets -underBinder +onlyGivenNames y; subst y
      extract_lets -underBinder +onlyGivenNames s1
      have hs1 : Keeps r0 s1 := by subst s1; exact State.setDom_keeps _ _ _ hs0
      clear_value s1
      with_reducible exact Keeps.upd hs1 rfl rfl rfl rfl rfl rfl

theorem capLoop_keeps {r0 : State} (s : State) (sum : Nat) (n : Nat) (h0 : Keeps r0 s) :
    Keeps r0 (capLoop s sum n) := by
  unfold capLoop
  extract_lets -underBinder +onlyGivenNames c; clear_value c
  extract_lets -underBinder +onlyGivenNames s1
  have hs1 : Keeps r0 s1 := by subst s1; exact Keeps.ite (State.setF_keeps _ _ _ h0) h0
  clear_value s1
  with_reducible exact Keeps.ite (capLower_keeps _ hs1) (Keeps.ite (capRaise_keeps _ hs1) (Keeps.upd hs1 rfl rfl rfl
                   rfl rfl rfl))

theorem sample_keeps {r0 : State} (s : State) (readings : List (Option (Nat × Nat))) (h0 : Keeps r0 s) :
    Keeps r0 (sample s readings) := by
  unfold sample
  extract_lets -underBinder +onlyGivenNames r
  have hr : Keeps.By Prod.fst r0 r := by
    subst r
    with_reducible apply Keeps.By.foldl
    · exact Keeps.toFst h0
    · exact fun _ _ _ => sampleRail_keeps _ _ _ (by assumption)
  clear_value r
  extract_lets -underBinder +onlyGivenNames p; clear_value p
  extract_lets -underBinder +onlyGivenNames ps; clear_value ps
  extract_lets -underBinder +onlyGivenNames s1
  have hs1 : Keeps r0 s1 := by
    subst s1
    split
    · exact State.setF_keeps _ _ _ (Keeps.By.fst hr)
    · exact Keeps.By.fst hr
  clear_value s1
  extract_lets -underBinder +onlyGivenNames y; subst y
  extract_lets -underBinder +onlyGivenNames s2
  have hs2 : Keeps r0 s2 := by
    subst s2
    with_reducible exact State.setF_keeps _ _ _ (updCap_keeps _ (Keeps.upd hs1 rfl rfl rfl rfl rfl rfl))
  clear_value s2
  extract_lets -underBinder +onlyGivenNames y; subst y
  extract_lets -underBinder +onlyGivenNames s3
  have hs3 : Keeps r0 s3 := by subst s3; with_reducible exact Keeps.upd hs2 rfl rfl rfl rfl rfl rfl
  clear_value s3
  extract_lets -underBinder +onlyGivenNames s4
  have hs4 : Keeps r0 s4 := by subst s4; exact tileAdvance_keeps _ (refreshDoms_keeps _ (capLoop_keeps _ _ _ hs3))
  clear_value s4
  with_reducible exact Keeps.upd hs4 rfl rfl rfl rfl rfl rfl

theorem hotRelease_keeps {r0 : State} (s : State) (h0 : Keeps r0 s) :
    Keeps r0 (hotRelease s) := by
  unfold hotRelease
  with_reducible apply Keeps.foldl
  · exact State.setF_keeps _ _ _ h0
  · intro _ _ _
    extract_lets -underBinder +onlyGivenNames low; clear_value low
    extract_lets -underBinder +onlyGivenNames y; subst y
    extract_lets -underBinder +onlyGivenNames t1
    have ht1 : Keeps r0 t1 := by subst t1; exact State.setDom_keeps _ _ _ (by assumption)
    clear_value t1
    exact Keeps.ite (refreshDom_keeps _ _ (setStep_keeps _ _ _ (State.setF_keeps _ _ _ ht1))) ht1

theorem thermLevels_keeps {r0 : State} (s : State) (l : List (Nat × Nat)) (h0 : Keeps r0 s) :
    Keeps r0 (thermLevels s l) := by
  unfold thermLevels
  extract_lets -underBinder +onlyGivenNames h; clear_value h
  extract_lets -underBinder +onlyGivenNames s1
  have hs1 : Keeps r0 s1 := by
    subst s1
    exact State.setF_keeps _ _ _ (State.setF_keeps _ _ _ (State.setF_keeps _ _ _ h0))
  clear_value s1
  extract_lets -underBinder +onlyGivenNames main; clear_value main
  extract_lets -underBinder +onlyGivenNames s2
  have hs2 : Keeps r0 s2 := by
    subst s2
    exact Keeps.ite hs1 (Keeps.ite (Keeps.ite (hotRelease_keeps _ hs1) hs1) (Keeps.ite (hotTrip_keeps _ hs1) hs1))
  clear_value s2
  exact Keeps.ite (Keeps.ite hs2 (safeCause_keeps _ _ (setCause_keeps _ _ _ (State.setF_keeps _ _ _ hs2))))
    (setCause_keeps _ _ _ (State.setF_keeps _ _ _ hs2))

theorem execThermalRead_keeps {r0 : State} (temps : List (Option Nat)) (s : State) (h0 : Keeps r0 s) :
    Keeps.R r0 (execThermalRead temps s) := by
  unfold execThermalRead
  with_reducible apply Keeps.toNext
  with_reducible apply Keeps.ite
  · extract_lets -underBinder +onlyGivenNames l; clear_value l
    exact Keeps.ite h0 (thermLevels_keeps _ _ (tempsPut_keeps _ _ h0))
  · exact h0

theorem execTelemetrySample_keeps {r0 : State} (readings : List (Option (Nat × Nat))) (s : State) (h0 : Keeps r0 s) :
    Keeps.R r0 (execTelemetrySample readings s) := by
  unfold execTelemetrySample
  exact Keeps.toNext (Keeps.ite (sample_keeps _ _ h0) h0)

theorem execPwrMulti_keeps {r0 : State} (q : Nat) (idx : Nat) (s : State) (h0 : Keeps r0 s) :
    Keeps.R r0 (execPwrMulti q idx s) := by
  unfold execPwrMulti
  with_reducible apply carry_keeps
  · exact h0
  · intro _ _ _
    with_reducible apply prePwrMulti_keeps
    assumption
  · intro _ _ _
    extract_lets -underBinder +onlyGivenNames m; clear_value m
    extract_lets -underBinder +onlyGivenNames t1
    have ht1 : Keeps r0 t1 := by subst t1; exact State.setF_keeps _ _ _ (State.setF_keeps _ _ _ (by assumption))
    clear_value t1
    extract_lets -underBinder +onlyGivenNames t2
    have ht2 : Keeps r0 t2 := by subst t2; exact State.setF_keeps _ _ _ ht1
    clear_value t2
    extract_lets -underBinder +onlyGivenNames y; subst y
    extract_lets -underBinder +onlyGivenNames t3
    have ht3 : Keeps r0 t3 := by subst t3; exact State.setDom_keeps _ _ _ (State.wr_keeps _ _ ht2)
    clear_value t3
    extract_lets -underBinder +onlyGivenNames t4
    have ht4 : Keeps r0 t4 := by subst t4; exact setClaimRounds_keeps _ _ (setShift_keeps _ _ _ _ ht3)
    clear_value t4
    extract_lets -underBinder +onlyGivenNames y; subst y
    extract_lets -underBinder +onlyGivenNames t5
    have ht5 : Keeps r0 t5 := by subst t5; with_reducible exact Keeps.upd ht4 rfl rfl rfl rfl rfl rfl
    clear_value t5
    exact complete_keeps _ _ _ _ _ (tileAdvance_keeps _ (refreshDom_keeps _ _ ht5))

theorem execPwrStep_keeps {r0 : State} (q : Nat) (idx : Nat) (s : State) (h0 : Keeps r0 s) :
    Keeps.R r0 (execPwrStep q idx s) := by
  unfold execPwrStep
  with_reducible apply carry_keeps
  · exact h0
  · intro _ _ _
    with_reducible apply noPre_keeps
    assumption
  · intro _ _ _
    extract_lets -underBinder +onlyGivenNames d; clear_value d
    extract_lets -underBinder +onlyGivenNames c; clear_value c
    extract_lets -underBinder +onlyGivenNames t1
    have ht1 : Keeps r0 t1 := by
      subst t1
      split
      · exact State.setDom_keeps _ _ _ (by assumption)
      · exact State.setF_keeps _ _ _ (State.setF_keeps _ _ _ (by assumption))
      · exact State.setF_keeps _ _ _ (by assumption)
      · exact State.setDom_keeps _ _ _ (by assumption)
    clear_value t1
    extract_lets -underBinder +onlyGivenNames t2
    have ht2 : Keeps r0 t2 := by subst t2; exact refreshDom_keeps _ _ ht1
    clear_value t2
    extract_lets -underBinder +onlyGivenNames t3
    have ht3 : Keeps r0 t3 := by subst t3; exact Keeps.ite (tileAdvance_keeps _ ht2) ht2
    clear_value t3
    exact complete_keeps _ _ _ _ _ ht3

theorem execWarnThrottleStep_keeps {r0 : State} (s : State) (h0 : Keeps r0 s) :
    Keeps.R r0 (execWarnThrottleStep s) := by
  unfold execWarnThrottleStep
  extract_lets -underBinder +onlyGivenNames h; clear_value h
  extract_lets -underBinder +onlyGivenNames w; clear_value w
  exact Keeps.toNext (Keeps.ite h0 (Keeps.ite (Keeps.ite (warnMove_keeps _ _ h0) h0) (Keeps.ite (warnMove_keeps _ _
    h0) h0)))

theorem multiRound_keeps {r0 : State} (s : State) (words : List Nat) (h0 : Keeps r0 s) :
    Keeps r0 (multiRound s words) := by
  unfold multiRound
  extract_lets -underBinder +onlyGivenNames mode; clear_value mode
  extract_lets -underBinder +onlyGivenNames y; subst y
  extract_lets -underBinder +onlyGivenNames s0
  have hs0 : Keeps r0 s0 := by subst s0; with_reducible exact Keeps.upd h0 rfl rfl rfl rfl rfl rfl
  clear_value s0
  with_reducible apply Keeps.ite
  · exact hs0
  · extract_lets -underBinder +onlyGivenNames w; clear_value w
    with_reducible apply Keeps.ite
    · extract_lets -underBinder +onlyGivenNames s1
      have hs1 : Keeps r0 s1 := by subst s1; exact State.setF_keeps _ _ _ (State.setF_keeps _ _ _ hs0)
      clear_value s1
      exact Keeps.ite (shiftRound_keeps _ _ hs1) (levelRound_keeps _ _ hs1)
    · with_reducible apply unjoinedRound_keeps
      exact hs0

theorem execDroopRelease_keeps {r0 : State} (d : Nat) (s : State) (h0 : Keeps r0 s) :
    Keeps.R r0 (execDroopRelease d s) := by
  unfold execDroopRelease
  with_reducible exact Keeps.toNext (Keeps.ite (Keeps.upd h0 rfl rfl rfl rfl rfl rfl) h0)

end Sys2Proof.Machine
end

