-- ==== Sys2Proof/Laws/KeepsRing.lean ====
section
/-! SUPPORT. Every operation over the relay ring leaves the waiting commands alone, draws
free values forward only, and keeps the canonical form of memory, flash, registers and latches: one lemma per operation. -/

namespace Sys2Proof.Machine

set_option linter.unusedVariables false

/-! ### RingLine -/

theorem State.setRing_keeps {r0 : State} (s : State) (r : RingState) (h0 : Keeps r0 s) :
    Keeps r0 (State.setRing s r) := by
  unfold State.setRing
  with_reducible exact Keeps.upd h0 rfl rfl rfl rfl rfl rfl

theorem sendSyms_keeps {r0 : State} (s : State) (p : Nat) (xs : List RingSym) (h0 : Keeps r0 s) :
    Keeps r0 (sendSyms s p xs) := by
  unfold sendSyms
  extract_lets -underBinder +onlyGivenNames r; clear_value r
  exact State.setRing_keeps _ _ h0

theorem State.setRport_keeps {r0 : State} (s : State) (p : Nat) (r : RingPort) (h0 : Keeps r0 s) :
    Keeps r0 (State.setRport s p r) := by
  unfold State.setRport
  exact State.setRing_keeps _ _ h0

theorem rxSyms_keeps {r0 : State} (s : State) (p : Nat) (gs : List Nat) (h0 : Keeps r0 s) :
    Keeps.By Prod.fst r0 (rxSyms s p gs) := by
  unfold rxSyms
  extract_lets -underBinder +onlyGivenNames r; clear_value r
  exact Keeps.toFst (State.addSat_keeps _ _ _ (State.setRport_keeps _ _ _ h0))

theorem endSets_keeps {r0 : State} (s : State) (p : Nat) (h0 : Keeps r0 s) :
    Keeps r0 (endSets s p) := by
  unfold endSets
  exact State.setRport_keeps _ _ _ h0

theorem passOn_keeps {r0 : State} (s : State) (p : Nat) (gs : List Nat) (h0 : Keeps r0 s) :
    Keeps r0 (passOn s p gs) := by
  unfold passOn
  exact State.setRing_keeps _ _ h0

theorem sendOn_keeps {r0 : State} (s : State) (p : Nat) (bs : List Byte) (h0 : Keeps r0 s) :
    Keeps r0 (sendOn s p bs) := by
  unfold sendOn
  exact sendSyms_keeps _ _ _ h0

/-! ### RingOps -/

theorem setWrapped_keeps {r0 : State} (s : State) (p : Nat) (b : Bool) (h0 : Keeps r0 s) :
    Keeps r0 (setWrapped s p b) := by
  unfold setWrapped
  exact Keeps.ite (State.setF_keeps _ _ _ h0) (State.setF_keeps _ _ _ h0)

theorem putData_keeps {r0 : State} (s : State) (old : DataOut) (new : DataOut) (h0 : Keeps r0 s) :
    Keeps r0 (putData s old new) := by
  unfold putData
  exact State.setRing_keeps _ _ h0

theorem originate_keeps {r0 : State} (s : State) (p : Nat) (f : RFrame) (h0 : Keeps r0 s) :
    Keeps r0 (originate s p f) := by
  unfold originate
  exact Keeps.ite (sendOn_keeps _ _ _ h0) (Keeps.ite (sendOn_keeps _ _ _ h0) h0)

theorem sendOneData_keeps {r0 : State} (s : State) (e : DataOut) (h0 : Keeps r0 s) :
    Keeps r0 (sendOneData s e) := by
  unfold sendOneData
  extract_lets -underBinder +onlyGivenNames last; clear_value last
  extract_lets -underBinder +onlyGivenNames e1; clear_value e1
  extract_lets -underBinder +onlyGivenNames e2; clear_value e2
  extract_lets -underBinder +onlyGivenNames s1
  have hs1 : Keeps r0 s1 := by subst s1; exact putData_keeps _ _ _ h0
  clear_value s1
  extract_lets -underBinder +onlyGivenNames y; subst y
  extract_lets -underBinder +onlyGivenNames s2
  have hs2 : Keeps r0 s2 := by subst s2; exact State.setRing_keeps _ _ hs1
  clear_value s2
  exact originate_keeps _ _ _ hs2

theorem setPortState_keeps {r0 : State} (s : State) (p : Nat) (v : Nat) (h0 : Keeps r0 s) :
    Keeps r0 (setPortState s p v) := by
  unfold setPortState
  exact Keeps.ite (State.setF_keeps _ _ _ h0) (State.setF_keeps _ _ _ h0)

theorem setMiswire_keeps {r0 : State} (s : State) (p : Nat) (b : Bool) (h0 : Keeps r0 s) :
    Keeps r0 (setMiswire s p b) := by
  unfold setMiswire
  exact Keeps.ite (State.setF_keeps _ _ _ h0) (State.setF_keeps _ _ _ h0)

theorem setNeigh_keeps {r0 : State} (s : State) (p : Nat) (x2 : Option Nat) (h0 : Keeps r0 s) :
    Keeps r0 (setNeigh s p x2) := by
  unfold setNeigh
  split
  · exact Keeps.ite (State.setF_keeps _ _ _ (State.setF_keeps _ _ _ h0)) (State.setF_keeps _ _ _ (State.setF_keeps _
      _ _ h0))
  · exact Keeps.ite (State.setF_keeps _ _ _ h0) (State.setF_keeps _ _ _ h0)

theorem issueBaton_keeps {r0 : State} (s : State) (gen : Nat) (h0 : Keeps r0 s) :
    Keeps r0 (issueBaton s gen) := by
  unfold issueBaton
  extract_lets -underBinder +onlyGivenNames g; clear_value g
  extract_lets -underBinder +onlyGivenNames y; subst y
  extract_lets -underBinder +onlyGivenNames s1
  have hs1 : Keeps r0 s1 := by subst s1; exact State.setRing_keeps _ _ h0
  clear_value s1
  exact originate_keeps _ _ _ hs1

theorem portComesUp_keeps {r0 : State} (s : State) (p : Nat) (neigh : Nat) (h0 : Keeps r0 s) :
    Keeps r0 (portComesUp s p neigh) := by
  unfold portComesUp
  extract_lets -underBinder +onlyGivenNames s1
  have hs1 : Keeps r0 s1 := by
    subst s1
    exact setNeigh_keeps _ _ _ (setPortState_keeps _ _ _ (sendSyms_keeps _ _ _ h0))
  clear_value s1
  exact Keeps.ite (issueBaton_keeps _ _ hs1) hs1

theorem trainStep_keeps {r0 : State} (s : State) (p : Nat) (ts2 : Bool) (n : Nat) (h0 : Keeps r0 s) :
    Keeps r0 (trainStep s p ts2 n) := by
  unfold trainStep
  extract_lets -underBinder +onlyGivenNames r; clear_value r
  extract_lets -underBinder +onlyGivenNames s0
  have hs0 : Keeps r0 s0 := by subst s0; exact sendSyms_keeps _ _ _ h0
  clear_value s0
  with_reducible apply Keeps.ite
  · with_reducible apply State.setRport_keeps
    with_reducible apply setMiswire_keeps
    exact hs0
  · extract_lets -underBinder +onlyGivenNames r1; clear_value r1
    extract_lets -underBinder +onlyGivenNames s1
    have hs1 : Keeps r0 s1 := by subst s1; exact State.setRport_keeps _ _ _ hs0
    clear_value s1
    exact Keeps.ite (portComesUp_keeps _ _ _ hs1) hs1

theorem wrapNotice_keeps {r0 : State} (s : State) (p : Nat) (state : Nat) (h0 : Keeps r0 s) :
    Keeps r0 (wrapNotice s p state) := by
  unfold wrapNotice
  extract_lets -underBinder +onlyGivenNames f; clear_value f
  with_reducible apply Keeps.foldl
  · exact h0
  · exact fun _ _ _ => sendOn_keeps _ _ _ (by assumption)

theorem wrapPort_keeps {r0 : State} (s : State) (p : Nat) (h0 : Keeps r0 s) :
    Keeps r0 (wrapPort s p) := by
  unfold wrapPort
  exact Keeps.ite (wrapNotice_keeps _ _ _ (setWrapped_keeps _ _ _ h0)) h0

theorem trainPort_keeps {r0 : State} (s : State) (p : Nat) (h0 : Keeps r0 s) :
    Keeps r0 (trainPort s p) := by
  unfold trainPort
  extract_lets -underBinder +onlyGivenNames s1
  have hs1 : Keeps r0 s1 := by subst s1; exact setNeigh_keeps _ _ _ (sendSyms_keeps _ _ _ h0)
  clear_value s1
  exact Keeps.ite (State.setRport_keeps _ _ _ (setPortState_keeps _ _ _ hs1)) (State.setRport_keeps _ _ _
    (setPortState_keeps _ _ _ hs1))

theorem portDown_keeps {r0 : State} (s : State) (p : Nat) (h0 : Keeps r0 s) :
    Keeps r0 (portDown s p) := by
  unfold portDown
  exact wrapPort_keeps _ _ (trainPort_keeps _ _ h0)

theorem trainOnUp_keeps {r0 : State} (s : State) (p : Nat) (ts2 : Bool) (h0 : Keeps r0 s) :
    Keeps r0 (trainOnUp s p ts2) := by
  unfold trainOnUp
  extract_lets -underBinder +onlyGivenNames n; clear_value n
  exact Keeps.ite (portDown_keeps _ _ h0) (State.setRport_keeps _ _ _ h0)

theorem execRingTrainingSet_keeps {r0 : State} (p : Nat) (groups : List Nat) (s : State) (h0 : Keeps r0 s) :
    Keeps.R r0 (execRingTrainingSet p groups s) := by
  unfold execRingTrainingSet
  with_reducible apply Keeps.toNext
  with_reducible apply Keeps.ite
  · exact h0
  · with_reducible apply Keeps.ite
    · with_reducible apply passOn_keeps
      exact h0
    · with_reducible apply Keeps.ite
      · exact h0
      · extract_lets -underBinder +onlyGivenNames r
        have hr : Keeps.By Prod.fst r0 r := by subst r; exact rxSyms_keeps _ _ _ (demand_keeps _ _ h0)
        clear_value r
        split
        · exact endSets_keeps _ _ (Keeps.By.fst hr)
        · exact Keeps.ite (trainStep_keeps _ _ _ _ (Keeps.By.fst hr)) (Keeps.ite (trainOnUp_keeps _ _ _ (Keeps.By.fst
            hr)) (Keeps.By.fst hr))

theorem sendData_keeps {r0 : State} (x0 : Nat) : ∀ (x1 : State),
    Keeps r0 x1 → Keeps r0 (sendData x0 x1) := by
  induction x0 with
  | zero =>
    intro x1 h0
    rw [sendData]
    exact h0
  | succ n ih =>
    intro x1 h0
    rw [sendData]
    split
    · exact h0
    · exact ih _ (sendOneData_keeps _ _ h0)

theorem execRingTrainRestart_keeps {r0 : State} (p : Nat) (s : State) (h0 : Keeps r0 s) :
    Keeps.R r0 (execRingTrainRestart p s) := by
  unfold execRingTrainRestart
  exact Keeps.toNext (Keeps.ite (trainPort_keeps _ _ h0) h0)

theorem openBypass_keeps {r0 : State} (s : State) (h0 : Keeps r0 s) :
    Keeps r0 (openBypass s) := by
  unfold openBypass
  extract_lets -underBinder +onlyGivenNames s1
  have hs1 : Keeps r0 s1 := by subst s1; exact trainPort_keeps _ _ (trainPort_keeps _ _ (State.setF_keeps _ _ _ h0))
  clear_value s1
  exact setWrapped_keeps _ _ _ (setWrapped_keeps _ _ _ hs1)

theorem execBypassOpen_keeps {r0 : State} (s : State) (h0 : Keeps r0 s) :
    Keeps.R r0 (execBypassOpen s) := by
  unfold execBypassOpen
  exact Keeps.toNext (Keeps.ite (openBypass_keeps _ h0) h0)

theorem dataEnd_keeps {r0 : State} (s : State) (e : DataOut) (st : Nat) (detail : Nat) (h0 : Keeps r0 s) :
    Keeps r0 (dataEnd s e st detail) := by
  unfold dataEnd
  split
  · split
    · exact Keeps.ite (complete_keeps _ _ _ _ _ h0) h0
    · exact h0
  · exact h0

theorem dropData_keeps {r0 : State} (s : State) (old : DataOut) (h0 : Keeps r0 s) :
    Keeps r0 (dropData s old) := by
  unfold dropData
  exact State.setRing_keeps _ _ h0

theorem dataFailed_keeps {r0 : State} (s : State) (e : DataOut) (h0 : Keeps r0 s) :
    Keeps r0 (dataFailed s e) := by
  unfold dataFailed
  extract_lets -underBinder +onlyGivenNames s1
  have hs1 : Keeps r0 s1 := by subst s1; exact dropData_keeps _ _ h0
  clear_value s1
  exact dataEnd_keeps _ _ _ _ (State.setRing_keeps _ _ hs1)

theorem dataBack_keeps {r0 : State} (s : State) (e : DataOut) (copied : Bool) (h0 : Keeps r0 s) :
    Keeps r0 (dataBack s e copied) := by
  unfold dataBack
  exact Keeps.ite (dataEnd_keeps _ _ _ _ (dropData_keeps _ _ h0)) (Keeps.ite h0 (Keeps.ite (dataFailed_keeps _ _ h0)
    (putData_keeps _ _ _ h0)))

theorem execDataRetransmitTimeout_keeps {r0 : State} (dst : Nat) (s : State) (h0 : Keeps r0 s) :
    Keeps.R r0 (execDataRetransmitTimeout dst s) := by
  unfold execDataRetransmitTimeout
  with_reducible apply Keeps.toNext
  split
  · exact Keeps.ite (dataBack_keeps _ _ _ h0) h0
  · exact h0

theorem execRingPortDown_keeps {r0 : State} (p : Nat) (seen : LineSeen) (s : State) (h0 : Keeps r0 s) :
    Keeps.R r0 (execRingPortDown p seen s) := by
  unfold execRingPortDown
  with_reducible apply Keeps.toNext
  with_reducible apply Keeps.ite
  · exact h0
  · extract_lets -underBinder +onlyGivenNames gs; clear_value gs
    with_reducible apply Keeps.ite
    · with_reducible apply passOn_keeps
      exact h0
    · with_reducible apply Keeps.ite
      · exact h0
      · extract_lets -underBinder +onlyGivenNames r
        have hr : Keeps.By Prod.fst r0 r := by subst r; exact rxSyms_keeps _ _ _ h0
        clear_value r
        extract_lets -underBinder +onlyGivenNames s1
        have hs1 : Keeps r0 s1 := by subst s1; exact endSets_keeps _ _ (Keeps.By.fst hr)
        clear_value s1
        exact Keeps.ite (portDown_keeps _ _ hs1) hs1

theorem unwrapPorts_keeps {r0 : State} (s : State) (ps : List Nat) (h0 : Keeps r0 s) :
    Keeps r0 (unwrapPorts s ps) := by
  unfold unwrapPorts
  with_reducible apply Keeps.foldl
  · exact h0
  · exact fun _ _ _ => setWrapped_keeps _ _ _ (by assumption)

theorem execBatonTimeout_keeps {r0 : State} (s : State) (h0 : Keeps r0 s) :
    Keeps.R r0 (execBatonTimeout s) := by
  unfold execBatonTimeout
  with_reducible apply Keeps.toNext
  split
  · exact Keeps.ite (issueBaton_keeps _ _ h0) h0
  · exact h0

theorem unwrapNotices_keeps {r0 : State} (s : State) (ps : List Nat) (h0 : Keeps r0 s) :
    Keeps r0 (unwrapNotices s ps) := by
  unfold unwrapNotices
  with_reducible apply Keeps.foldl
  · exact h0
  · exact fun _ _ _ => wrapNotice_keeps _ _ _ (by assumption)

theorem closeBypass_keeps {r0 : State} (s : State) (h0 : Keeps r0 s) :
    Keeps r0 (closeBypass s) := by
  unfold closeBypass
  extract_lets -underBinder +onlyGivenNames s1
  have hs1 : Keeps r0 s1 := by
    subst s1
    with_reducible apply Keeps.foldl
    · exact h0
    · exact fun _ _ _ => State.setRport_keeps _ _ _ (setWrapped_keeps _ _ _ (setMiswire_keeps _ _ _ (setNeigh_keeps _
        _ _ (setPortState_keeps _ _ _ (by assumption)))))
  clear_value s1
  exact State.setF_keeps _ _ _ hs1

theorem execBypassClose_keeps {r0 : State} (s : State) (h0 : Keeps r0 s) :
    Keeps.R r0 (execBypassClose s) := by
  unfold execBypassClose
  exact Keeps.toNext (Keeps.ite (closeBypass_keeps _ h0) h0)

theorem forward_keeps {r0 : State} (s : State) (p : Nat) (f : RFrame) (h0 : Keeps r0 s) :
    Keeps r0 (forward s p f) := by
  unfold forward
  with_reducible apply Keeps.ite
  · with_reducible apply State.addSat_keeps
    exact h0
  · extract_lets -underBinder +onlyGivenNames g; clear_value g
    exact Keeps.ite (sendOn_keeps _ _ _ h0) (Keeps.ite (sendOn_keeps _ _ _ h0) h0)

/-! ### RingSweep -/

theorem openWindow_keeps {r0 : State} (s : State) (atEdge : Bool) (h0 : Keeps r0 s) :
    Keeps r0 (openWindow s atEdge) := by
  unfold openWindow
  extract_lets -underBinder +onlyGivenNames s1
  have hs1 : Keeps r0 s1 := by subst s1; exact setPlls_keeps _ _ _ (setRefreq_keeps _ _ (State.setF_keeps _ _ _ h0))
  clear_value s1
  extract_lets -underBinder +onlyGivenNames y; subst y
  extract_lets -underBinder +onlyGivenNames s2
  have hs2 : Keeps r0 s2 := by subst s2; with_reducible exact Keeps.upd hs1 rfl rfl rfl rfl rfl rfl
  clear_value s2
  extract_lets -underBinder +onlyGivenNames y; subst y
  extract_lets -underBinder +onlyGivenNames s3
  have hs3 : Keeps r0 s3 := by
    subst s3
    with_reducible exact Keeps.ite hs2 (Keeps.ite (recordPair_keeps _ (timeRestart_keeps _ hs2)) (Keeps.upd hs2 rfl
                     rfl rfl rfl rfl rfl))
  clear_value s3
  extract_lets -underBinder +onlyGivenNames run
  have hrun : ∀ a0 a1 a2, Keeps r0 a0 → Keeps r0 (run a0 a1 a2) := by
    subst run
    exact fun _ _ _ _ => setStep_keeps _ _ _ (State.setF_keeps _ _ _ (by assumption))
  clear_value run
  with_reducible apply_assumption
  with_reducible apply_assumption
  exact hs3

theorem State.setSweep_keeps {r0 : State} (s : State) (r : Option SweepRun) (h0 : Keeps r0 s) :
    Keeps r0 (State.setSweep s r) := by
  unfold State.setSweep
  exact State.setRing_keeps _ _ h0

theorem sendLeg_keeps {r0 : State} (s : State) (r : SweepRun) (p : Nat) (h0 : Keeps r0 s) :
    Keeps r0 (sendLeg s r p) := by
  unfold sendLeg
  extract_lets -underBinder +onlyGivenNames rev; clear_value rev
  extract_lets -underBinder +onlyGivenNames r1; clear_value r1
  extract_lets -underBinder +onlyGivenNames f; clear_value f
  exact sendOn_keeps _ _ _ (State.setSweep_keeps _ _ h0)

theorem putPark_keeps {r0 : State} (s : State) (r : SweepRun) (st : Nat) (h0 : Keeps r0 s) :
    Keeps r0 (putPark s r st) := by
  unfold putPark
  extract_lets -underBinder +onlyGivenNames wr; clear_value wr
  extract_lets -underBinder +onlyGivenNames s1
  have hs1 : Keeps r0 s1 := by subst s1; exact Keeps.ite (State.addSat_keeps _ _ _ (State.addWrap_keeps _ _ _ h0)) h0
  clear_value s1
  exact State.addWrap_keeps _ _ _ (wrRaw_keeps _ _ hs1)

theorem closeWindow_keeps {r0 : State} (s : State) (h0 : Keeps r0 s) :
    Keeps r0 (closeWindow s) := by
  unfold closeWindow
  extract_lets -underBinder +onlyGivenNames s1
  have hs1 : Keeps r0 s1 := by subst s1; exact State.setF_keeps _ _ _ h0
  clear_value s1
  with_reducible exact Keeps.ite (Keeps.ite (Keeps.upd hs1 rfl rfl rfl rfl rfl rfl) hs1) (refreshDom_keeps _ _ hs1)

theorem sleepNow_keeps {r0 : State} (s : State) (h0 : Keeps r0 s) :
    Keeps r0 (sleepNow s) := by
  unfold sleepNow
  extract_lets -underBinder +onlyGivenNames s1
  have hs1 : Keeps r0 s1 := by
    subst s1
    with_reducible apply Keeps.foldl
    · exact h0
    · exact fun _ _ _ => setPortState_keeps _ _ _ (sendSyms_keeps _ _ _ (by assumption))
  clear_value s1
  extract_lets -underBinder +onlyGivenNames y; subst y
  extract_lets -underBinder +onlyGivenNames s2
  have hs2 : Keeps r0 s2 := by subst s2; exact State.setRing_keeps _ _ hs1
  clear_value s2
  exact closeWindow_keeps _ hs2

theorem parkSwept_keeps {r0 : State} (s : State) (r : SweepRun) (st : Nat) (h0 : Keeps r0 s) :
    Keeps r0 (parkSwept s r st) := by
  unfold parkSwept
  extract_lets -underBinder +onlyGivenNames s1
  have hs1 : Keeps r0 s1 := by subst s1; exact State.addWrap_keeps _ _ _ (putPark_keeps _ _ _ h0)
  clear_value s1
  extract_lets -underBinder +onlyGivenNames held; clear_value held
  extract_lets -underBinder +onlyGivenNames s2
  have hs2 : Keeps r0 s2 := by subst s2; exact Keeps.ite (wakeEvent_keeps _ _ hs1) hs1
  clear_value s2
  extract_lets -underBinder +onlyGivenNames s3
  have hs3 : Keeps r0 s3 := by subst s3; exact Keeps.ite (wakeEvent_keeps _ _ hs2) hs2
  clear_value s3
  exact Keeps.ite (closeWindow_keeps _ hs3) (Keeps.ite (sleepNow_keeps _ hs3) (State.setRing_keeps _ _ hs3))

theorem endSweep_keeps {r0 : State} (s : State) (r : SweepRun) (noPort : Bool) (h0 : Keeps r0 s) :
    Keeps r0 (endSweep s r noPort) := by
  unfold endSweep
  extract_lets -underBinder +onlyGivenNames y; subst y
  extract_lets -underBinder +onlyGivenNames s1
  have hs1 : Keeps r0 s1 := by subst s1; exact State.setRing_keeps _ _ (State.setSweep_keeps _ _ h0)
  clear_value s1
  extract_lets -underBinder +onlyGivenNames st; clear_value st
  split
  · exact parkSwept_keeps _ _ _ hs1
  · split
    · exact hs1
    · exact outWaited_keeps _ _ _ hs1

theorem beginSweep_keeps {r0 : State} (s : State) (pkt : Option (Nat × Nat)) (h0 : Keeps r0 s) :
    Keeps.By Prod.fst r0 (beginSweep s pkt) := by
  unfold beginSweep
  extract_lets -underBinder +onlyGivenNames id; clear_value id
  extract_lets -underBinder +onlyGivenNames r; clear_value r
  extract_lets -underBinder +onlyGivenNames ps; clear_value ps
  extract_lets -underBinder +onlyGivenNames s1
  have hs1 : Keeps r0 s1 := by subst s1; exact State.setF_keeps _ _ _ (unwrapPorts_keeps _ _ h0)
  clear_value s1
  extract_lets -underBinder +onlyGivenNames y; subst y
  extract_lets -underBinder +onlyGivenNames s2
  have hs2 : Keeps r0 s2 := by subst s2; exact unwrapNotices_keeps _ _ (State.setRing_keeps _ _ hs1)
  clear_value s2
  exact Keeps.toFst hs2

theorem contSweep_keeps {r0 : State} (x0 : Nat) : ∀ (x1 : State) (x2 : SweepRun) (x3 : Bool),
    Keeps r0 x1 → Keeps r0 (contSweep x0 x1 x2 x3) := by
  induction x0 with
  | zero =>
    intro x1 x2 x3 h0
    rw [contSweep]
    exact State.setSweep_keeps _ _ h0
  | succ n ih =>
    intro x1 x2 x3 h0
    rw [contSweep]
    with_reducible apply Keeps.ite
    · with_reducible apply sendLeg_keeps
      exact h0
    · with_reducible apply Keeps.ite
      · with_reducible apply State.setSweep_keeps
        exact h0
      · extract_lets -underBinder +onlyGivenNames s1
        have hs1 : Keeps r0 s1 := by subst s1; exact endSweep_keeps _ _ _ h0
        clear_value s1
        split
        · exact hs1
        · with_reducible apply Keeps.ite
          · extract_lets -underBinder +onlyGivenNames b
            have hb : Keeps.By Prod.fst r0 b := by subst b; exact beginSweep_keeps _ _ hs1
            clear_value b
            exact ih _ _ _ (Keeps.By.fst hb)
          · exact hs1

theorem sweepOn_keeps {r0 : State} (s : State) (r : SweepRun) (whole : Bool) (h0 : Keeps r0 s) :
    Keeps r0 (sweepOn s r whole) := by
  unfold sweepOn
  exact contSweep_keeps _ _ _ _ h0

theorem askMissing_keeps {r0 : State} (s : State) (r : SweepRun) (h0 : Keeps r0 s) :
    Keeps r0 (askMissing s r) := by
  unfold askMissing
  extract_lets -underBinder +onlyGivenNames ms; clear_value ms
  extract_lets -underBinder +onlyGivenNames s1
  have hs1 : Keeps r0 s1 := by
    subst s1
    with_reducible apply Keeps.foldl
    · exact h0
    · intro _ _ _
      extract_lets -underBinder +onlyGivenNames k; clear_value k
      extract_lets -underBinder +onlyGivenNames y; subst y
      extract_lets -underBinder +onlyGivenNames t1
      have ht1 : Keeps r0 t1 := by subst t1; exact State.setRing_keeps _ _ (by assumption)
      clear_value t1
      with_reducible apply Keeps.foldl
      · exact ht1
      · exact fun _ _ _ => sendOn_keeps _ _ _ (by assumption)
  clear_value s1
  exact State.setSweep_keeps _ _ hs1

theorem State.setProbe_keeps {r0 : State} (s : State) (r : Option ProbeRun) (h0 : Keeps r0 s) :
    Keeps r0 (State.setProbe s r) := by
  unfold State.setProbe
  exact State.setRing_keeps _ _ h0

theorem endProbe_keeps {r0 : State} (s : State) (r : ProbeRun) (h0 : Keeps r0 s) :
    Keeps r0 (endProbe s r) := by
  unfold endProbe
  extract_lets -underBinder +onlyGivenNames s0
  have hs0 : Keeps r0 s0 := by subst s0; exact State.setProbe_keeps _ _ h0
  clear_value s0
  with_reducible apply Keeps.ite
  · split
    · exact complete_keeps _ _ _ _ _ hs0
    · exact hs0
  · extract_lets -underBinder +onlyGivenNames es; clear_value es
    extract_lets -underBinder +onlyGivenNames ns; clear_value ns
    extract_lets -underBinder +onlyGivenNames members; clear_value members
    extract_lets -underBinder +onlyGivenNames dup; clear_value dup
    extract_lets -underBinder +onlyGivenNames t32s; clear_value t32s
    extract_lets -underBinder +onlyGivenNames s1
    have hs1 : Keeps r0 s1 := by subst s1; exact State.setF_keeps _ _ _ (State.setF_keeps _ _ _ hs0)
    clear_value s1
    extract_lets -underBinder +onlyGivenNames y; subst y
    extract_lets -underBinder +onlyGivenNames s2
    have hs2 : Keeps r0 s2 := by subst s2; exact State.setRing_keeps _ _ hs1
    clear_value s2
    extract_lets -underBinder +onlyGivenNames block; clear_value block
    split
    · exact outWaited_keeps _ _ _ hs2
    · exact hs2

theorem sendProbe_keeps {r0 : State} (s : State) (r : ProbeRun) (p : Nat) (h0 : Keeps r0 s) :
    Keeps r0 (sendProbe s r p) := by
  unfold sendProbe
  extract_lets -underBinder +onlyGivenNames rev; clear_value rev
  extract_lets -underBinder +onlyGivenNames body; clear_value body
  extract_lets -underBinder +onlyGivenNames r1; clear_value r1
  extract_lets -underBinder +onlyGivenNames y; subst y
  extract_lets -underBinder +onlyGivenNames s1
  have hs1 : Keeps r0 s1 := by subst s1; exact State.setRing_keeps _ _ h0
  clear_value s1
  exact sendOn_keeps _ _ _ hs1

theorem beginProbe_keeps {r0 : State} (s : State) (p : Pkt) (h0 : Keeps r0 s) :
    Keeps r0 (beginProbe s p) := by
  unfold beginProbe
  extract_lets -underBinder +onlyGivenNames id; clear_value id
  extract_lets -underBinder +onlyGivenNames y; subst y
  extract_lets -underBinder +onlyGivenNames s1
  have hs1 : Keeps r0 s1 := by subst s1; exact State.setRing_keeps _ _ h0
  clear_value s1
  extract_lets -underBinder +onlyGivenNames r; clear_value r
  split
  · exact sendProbe_keeps _ _ _ hs1
  · exact complete_keeps _ _ _ _ _ hs1

theorem finishProbe_keeps {r0 : State} (s : State) (r : ProbeRun) (h0 : Keeps r0 s) :
    Keeps r0 (finishProbe s r) := by
  unfold finishProbe
  with_reducible apply Keeps.ite
  · with_reducible apply State.setProbe_keeps
    exact h0
  · extract_lets -underBinder +onlyGivenNames s1
    have hs1 : Keeps r0 s1 := by subst s1; exact endProbe_keeps _ _ h0
    clear_value s1
    split
    · exact hs1
    · exact beginProbe_keeps _ _ hs1

theorem probeOn_keeps {r0 : State} (s : State) (r : ProbeRun) (whole : Bool) (h0 : Keeps r0 s) :
    Keeps r0 (probeOn s r whole) := by
  unfold probeOn
  extract_lets -underBinder +onlyGivenNames r1; clear_value r1
  split
  · exact Keeps.ite (finishProbe_keeps _ _ h0) (sendProbe_keeps _ _ _ h0)
  · exact finishProbe_keeps _ _ h0

theorem probeReturn_keeps {r0 : State} (s : State) (p : Nat) (f : RFrame) (h0 : Keeps r0 s) :
    Keeps r0 (probeReturn s p f) := by
  unfold probeReturn
  split
  · exact h0
  · with_reducible apply Keeps.ite
    · exact h0
    · extract_lets -underBinder +onlyGivenNames order; clear_value order
      extract_lets -underBinder +onlyGivenNames new; clear_value new
      extract_lets -underBinder +onlyGivenNames r1; clear_value r1
      exact Keeps.ite (State.setProbe_keeps _ _ h0) (probeOn_keeps _ _ _ h0)

theorem sweepReply_keeps {r0 : State} (s : State) (a : RingAsk) (reply : Option (List Byte)) (h0 : Keeps r0 s) :
    Keeps r0 (sweepReply s a reply) := by
  unfold sweepReply
  extract_lets -underBinder +onlyGivenNames y; subst y
  extract_lets -underBinder +onlyGivenNames s1
  have hs1 : Keeps r0 s1 := by subst s1; exact State.setRing_keeps _ _ h0
  clear_value s1
  split
  · exact hs1
  · extract_lets -underBinder +onlyGivenNames got; clear_value got
    extract_lets -underBinder +onlyGivenNames r1; clear_value r1
    exact Keeps.ite (sweepOn_keeps _ _ _ hs1) (State.setSweep_keeps _ _ hs1)

theorem recvEnd_keeps {r0 : State} (s : State) (p : Pkt) (detail : Nat) (h0 : Keeps r0 s) :
    Keeps r0 (recvEnd s p detail) := by
  unfold recvEnd
  extract_lets -underBinder +onlyGivenNames mine; clear_value mine
  exact outWaited_keeps _ _ _ h0

theorem recvFuel_keeps {r0 : State} (x0 : Nat) : ∀ (x1 : State),
    Keeps r0 x1 → Keeps r0 (recvFuel x0 x1) := by
  induction x0 with
  | zero =>
    intro x1 h0
    rw [recvFuel]
    exact h0
  | succ n ih =>
    intro x1 h0
    rw [recvFuel]
    split
    · exact h0
    · exact ih _ (recvEnd_keeps _ _ _ h0)

theorem recvFeed_keeps {r0 : State} (s : State) (h0 : Keeps r0 s) :
    Keeps r0 (recvFeed s) := by
  unfold recvFeed
  exact Keeps.ite (recvFuel_keeps _ _ h0) h0

theorem recollectDone_keeps {r0 : State} (s : State) (p : Pkt) (x2 : Option (List Byte)) (h0 : Keeps r0 s) :
    Keeps r0 (recollectDone s p x2) := by
  unfold recollectDone
  split
  · exact outWaited_keeps _ _ _ h0
  · exact complete_keeps _ _ _ _ _ h0

theorem ringAgain_keeps {r0 : State} (s : State) (p : Pkt) (h0 : Keeps r0 s) :
    Keeps r0 (ringAgain s p) := by
  unfold ringAgain
  extract_lets -underBinder +onlyGivenNames r; subst r
  extract_lets -underBinder +onlyGivenNames mine; clear_value mine
  extract_lets -underBinder +onlyGivenNames lost; clear_value lost
  extract_lets -underBinder +onlyGivenNames s1
  have hs1 : Keeps r0 s1 := by subst s1; exact State.setRing_keeps _ _ h0
  clear_value s1
  exact State.setPkt_keeps _ _ hs1

theorem wakeRing_keeps {r0 : State} (s : State) (h0 : Keeps r0 s) :
    Keeps r0 (wakeRing s) := by
  unfold wakeRing
  with_reducible apply Keeps.foldl
  · exact State.setRing_keeps _ _ h0
  · exact fun _ _ _ => Keeps.ite (State.setRport_keeps _ _ _ (sendSyms_keeps _ _ _ (by assumption))) (by assumption)

theorem startSweep_keeps {r0 : State} (s : State) (pkt : Option (Nat × Nat)) (h0 : Keeps r0 s) :
    Keeps r0 (startSweep s pkt) := by
  unfold startSweep
  extract_lets -underBinder +onlyGivenNames b
  have hb : Keeps.By Prod.fst r0 b := by subst b; exact beginSweep_keeps _ _ h0
  clear_value b
  exact contSweep_keeps _ _ _ _ (Keeps.By.fst hb)

theorem askAnswered_keeps {r0 : State} (s : State) (f : RFrame) (h0 : Keeps r0 s) :
    Keeps r0 (askAnswered s f) := by
  unfold askAnswered
  split
  · exact h0
  · split
    · exact sweepReply_keeps _ _ _ h0
    · split
      · exact Keeps.ite h0 (recollectDone_keeps _ _ _ (State.setRing_keeps _ _ h0))
      · exact State.setRing_keeps _ _ h0

theorem sweepReturn_keeps {r0 : State} (s : State) (p : Nat) (f : RFrame) (h0 : Keeps r0 s) :
    Keeps r0 (sweepReturn s p f) := by
  unfold sweepReturn
  split
  · exact h0
  · with_reducible apply Keeps.ite
    · exact h0
    · extract_lets -underBinder +onlyGivenNames r1; clear_value r1
      exact Keeps.ite (State.setSweep_keeps _ _ h0) (sweepOn_keeps _ _ _ h0)

theorem ringResume_keeps {r0 : State} (s : State) (h0 : Keeps r0 s) :
    Keeps r0 (ringResume s) := by
  unfold ringResume
  extract_lets -underBinder +onlyGivenNames s1
  have hs1 : Keeps r0 s1 := by
    subst s1
    with_reducible apply Keeps.foldl
    · exact h0
    · intro _ _ _
      split
      · extract_lets -underBinder +onlyGivenNames y; subst y
        extract_lets -underBinder +onlyGivenNames t1
        have ht1 : Keeps r0 t1 := by subst t1; exact State.setRing_keeps _ _ (by assumption)
        clear_value t1
        split
        · exact recollectDone_keeps _ _ _ ht1
        · exact ht1
      · assumption
  clear_value s1
  extract_lets -underBinder +onlyGivenNames s2
  have hs2 : Keeps r0 s2 := by
    subst s2
    split
    · exact Keeps.ite (contSweep_keeps _ _ _ _ hs1) hs1
    · split
      · exact Keeps.ite hs1 (startSweep_keeps _ _ hs1)
      · exact hs1
  clear_value s2
  extract_lets -underBinder +onlyGivenNames s3
  have hs3 : Keeps r0 s3 := by
    subst s3
    split
    · exact Keeps.ite (finishProbe_keeps _ _ hs2) hs2
    · exact hs2
  clear_value s3
  extract_lets -underBinder +onlyGivenNames s4
  have hs4 : Keeps r0 s4 := by subst s4; exact Keeps.ite (closeWindow_keeps _ hs3) hs3
  clear_value s4
  exact recvFeed_keeps _ (Keeps.ite (wakeRing_keeps _ hs4) hs4)

/-! ### RingCmds -/

theorem execTimesyncPeriod_keeps {r0 : State} (s : State) (h0 : Keeps r0 s) :
    Keeps.R r0 (execTimesyncPeriod s) := by
  unfold execTimesyncPeriod
  with_reducible apply Keeps.toNext
  with_reducible apply Keeps.ite
  · extract_lets -underBinder +onlyGivenNames n; clear_value n
    extract_lets -underBinder +onlyGivenNames lags; clear_value lags
    extract_lets -underBinder +onlyGivenNames y; subst y
    extract_lets -underBinder +onlyGivenNames s1
    have hs1 : Keeps r0 s1 := by subst s1; exact State.setRing_keeps _ _ h0
    clear_value s1
    exact originate_keeps _ _ _ hs1
  · exact h0

theorem portEnable_keeps {r0 : State} (s : State) (p : Nat) (b : Bool) (h0 : Keeps r0 s) :
    Keeps r0 (portEnable s p b) := by
  unfold portEnable
  with_reducible apply Keeps.ite
  · exact h0
  · extract_lets -underBinder +onlyGivenNames s1
    have hs1 : Keeps r0 s1 := by subst s1; exact State.setF_keeps _ _ _ h0
    clear_value s1
    exact Keeps.ite (wrapPort_keeps _ _ (trainPort_keeps _ _ hs1)) hs1

theorem setSweepPeriod_keeps {r0 : State} (s : State) (per : Nat) (h0 : Keeps r0 s) :
    Keeps r0 (setSweepPeriod s per) := by
  unfold setSweepPeriod
  extract_lets -underBinder +onlyGivenNames s1
  have hs1 : Keeps r0 s1 := by subst s1; exact State.setF_keeps _ _ _ h0
  clear_value s1
  with_reducible exact Keeps.ite (Keeps.upd hs1 rfl rfl rfl rfl rfl rfl) hs1

theorem execRingParkCfg_keeps {r0 : State} (q : Nat) (idx : Nat) (s : State) (h0 : Keeps r0 s) :
    Keeps.R r0 (execRingParkCfg q idx s) := by
  unfold execRingParkCfg
  with_reducible apply carry_keeps
  · exact h0
  · intro _ _ _
    with_reducible apply noPre_keeps
    assumption
  · intro _ _ _
    extract_lets -underBinder +onlyGivenNames ths; clear_value ths
    extract_lets -underBinder +onlyGivenNames t1
    have ht1 : Keeps r0 t1 := by subst t1; exact setSweepPeriod_keeps _ _ (by assumption)
    clear_value t1
    exact complete_keeps _ _ _ _ _ (State.setRing_keeps _ _ ht1)

theorem actSweep_keeps {r0 : State} (s : State) (f : RFrame) (h0 : Keeps r0 s) :
    Keeps.By Prod.fst r0 (actSweep s f) := by
  unfold actSweep
  with_reducible apply Keeps.By.ite
  · with_reducible apply Keeps.toFst
    exact h0
  · extract_lets -underBinder +onlyGivenNames ps; clear_value ps
    extract_lets -underBinder +onlyGivenNames s1
    have hs1 : Keeps r0 s1 := by subst s1; exact unwrapPorts_keeps _ _ h0
    clear_value s1
    with_reducible apply Keeps.By.ite
    · with_reducible apply Keeps.toFst
      exact hs1
    · extract_lets -underBinder +onlyGivenNames r; clear_value r
      extract_lets -underBinder +onlyGivenNames n; clear_value n
      exact Keeps.toFst (State.setRing_keeps _ _ hs1)

theorem actRecollect_keeps {r0 : State} (s : State) (p : Nat) (f : RFrame) (h0 : Keeps r0 s) :
    Keeps.By Prod.fst r0 (actRecollect s p f) := by
  unfold actRecollect
  with_reducible apply Keeps.By.ite
  · with_reducible apply Keeps.toFst
    exact h0
  · with_reducible apply Keeps.By.ite
    · with_reducible apply Keeps.toFst
      with_reducible apply askAnswered_keeps
      exact h0
    · with_reducible apply Keeps.By.ite
      · with_reducible apply Keeps.toFst
        exact h0
      · extract_lets -underBinder +onlyGivenNames y; subst y
        extract_lets -underBinder +onlyGivenNames s1
        have hs1 : Keeps r0 s1 := by subst s1; exact State.setRing_keeps _ _ h0
        clear_value s1
        exact Keeps.toFst (sendOn_keeps _ _ _ hs1)

theorem deliver_keeps {r0 : State} (s : State) (f : RFrame) (key : Nat) (h0 : Keeps r0 s) :
    Keeps r0 (deliver s f key) := by
  unfold deliver
  exact recvFeed_keeps _ (State.setRing_keeps _ _ h0)

theorem actData_keeps {r0 : State} (s : State) (f : RFrame) (h0 : Keeps r0 s) :
    Keeps.By Prod.fst r0 (actData s f) := by
  unfold actData
  with_reducible apply Keeps.By.ite
  · with_reducible apply Keeps.By.ite
    · with_reducible apply Keeps.toFst
      exact h0
    · with_reducible apply Keeps.By.ite
      · with_reducible apply Keeps.toFst
        with_reducible apply deliver_keeps
        exact h0
      · with_reducible apply Keeps.toFst
        with_reducible apply State.addSat_keeps
        exact h0
  · with_reducible apply Keeps.By.ite
    · with_reducible apply Keeps.toFst
      exact h0
    · extract_lets -underBinder +onlyGivenNames last; clear_value last
      exact Keeps.By.ite (Keeps.toFst h0) (Keeps.By.ite (Keeps.By.ite (Keeps.toFst (deliver_keeps _ _ _ h0))
        (Keeps.toFst (State.addSat_keeps _ _ _ h0))) (Keeps.toFst h0))

theorem actBaton_keeps {r0 : State} (s : State) (f : RFrame) (h0 : Keeps r0 s) :
    Keeps r0 (actBaton s f) := by
  unfold actBaton
  exact Keeps.ite h0 (sendData_keeps _ _ (State.setRing_keeps _ _ h0))

theorem actProbe_keeps {r0 : State} (s : State) (f : RFrame) (h0 : Keeps r0 s) :
    Keeps.By Prod.fst r0 (actProbe s f) := by
  unfold actProbe
  exact Keeps.By.ite (Keeps.toFst h0) (Keeps.toFst (State.setRing_keeps _ _ h0))

theorem actWrap_keeps {r0 : State} (s : State) (f : RFrame) (h0 : Keeps r0 s) :
    Keeps r0 (actWrap s f) := by
  unfold actWrap
  extract_lets -underBinder +onlyGivenNames port; clear_value port
  extract_lets -underBinder +onlyGivenNames state; clear_value state
  extract_lets -underBinder +onlyGivenNames id; clear_value id
  with_reducible apply Keeps.ite
  · exact h0
  · extract_lets -underBinder +onlyGivenNames last; clear_value last
    exact State.setRing_keeps _ _ h0

theorem actSync_keeps {r0 : State} (s : State) (f : RFrame) (h0 : Keeps r0 s) :
    Keeps.By Prod.fst r0 (actSync s f) := by
  unfold actSync
  extract_lets -underBinder +onlyGivenNames t; clear_value t
  extract_lets -underBinder +onlyGivenNames s0
  have hs0 : Keeps r0 s0 := by subst s0; exact State.set64_keeps _ _ _ _ h0
  clear_value s0
  extract_lets -underBinder +onlyGivenNames y; subst y
  extract_lets -underBinder +onlyGivenNames s2
  have hs2 : Keeps r0 s2 := by subst s2; exact State.setRing_keeps _ _ hs0
  clear_value s2
  extract_lets -underBinder +onlyGivenNames v
  have hv : Keeps.By Prod.snd r0 v := by subst v; exact State.fresh_keeps hs2
  clear_value v
  extract_lets -underBinder +onlyGivenNames s3
  have hs3 : Keeps r0 s3 := by subst s3; exact Keeps.ite (rateAdjust_keeps _ _ (Keeps.By.snd hv)) hs2
  clear_value s3
  extract_lets -underBinder +onlyGivenNames s1
  have hs1 : Keeps r0 s1 := by subst s1; exact Keeps.ite h0 (multiRound_keeps _ _ hs3)
  clear_value s1
  extract_lets -underBinder +onlyGivenNames v
  have hv : Keeps.By Prod.snd r0 v := by subst v; exact State.fresh_keeps hs1
  clear_value v
  extract_lets -underBinder +onlyGivenNames corr; clear_value corr
  exact Keeps.toFst (Keeps.By.snd hv)

theorem ringAct_keeps {r0 : State} (s : State) (p : Nat) (f : RFrame) (h0 : Keeps r0 s) :
    Keeps.By Prod.fst r0 (ringAct s p f) := by
  unfold ringAct
  split
  · exact actSweep_keeps _ _ h0
  · extract_lets -underBinder +onlyGivenNames r
    have hr : Keeps.By Prod.fst r0 r := by subst r; exact actRecollect_keeps _ _ _ h0
    clear_value r
    exact Keeps.toFst (Keeps.By.fst hr)
  · extract_lets -underBinder +onlyGivenNames r
    have hr : Keeps.By Prod.fst r0 r := by subst r; exact actData_keeps _ _ h0
    clear_value r
    exact Keeps.toFst (Keeps.By.fst hr)
  · exact Keeps.toFst (actBaton_keeps _ _ h0)
  · extract_lets -underBinder +onlyGivenNames r
    have hr : Keeps.By Prod.fst r0 r := by subst r; exact actProbe_keeps _ _ h0
    clear_value r
    exact Keeps.toFst (Keeps.By.fst hr)
  · exact Keeps.toFst (actWrap_keeps _ _ h0)
  · extract_lets -underBinder +onlyGivenNames r
    have hr : Keeps.By Prod.fst r0 r := by subst r; exact actSync_keeps _ _ h0
    clear_value r
    exact Keeps.toFst (Keeps.By.fst hr)

theorem batonBack_keeps {r0 : State} (s : State) (f : RFrame) (h0 : Keeps r0 s) :
    Keeps r0 (batonBack s f) := by
  unfold batonBack
  with_reducible apply Keeps.ite
  · exact h0
  · extract_lets -underBinder +onlyGivenNames s1
    have hs1 : Keeps r0 s1 := by subst s1; exact sendData_keeps _ _ h0
    clear_value s1
    with_reducible apply Keeps.ite
    · with_reducible apply sleepNow_keeps
      exact hs1
    · extract_lets -underBinder +onlyGivenNames y; subst y
      extract_lets -underBinder +onlyGivenNames s2
      have hs2 : Keeps r0 s2 := by subst s2; exact Keeps.ite (closeWindow_keeps _ (State.setRing_keeps _ _ hs1)) hs1
      clear_value s2
      exact issueBaton_keeps _ _ hs2

theorem ownBack_keeps {r0 : State} (s : State) (p : Nat) (f : RFrame) (h0 : Keeps r0 s) :
    Keeps r0 (ownBack s p f) := by
  unfold ownBack
  split
  · exact sweepReturn_keeps _ _ _ h0
  · split
    · exact dataBack_keeps _ _ _ h0
    · exact h0
  · exact batonBack_keeps _ _ h0
  · exact probeReturn_keeps _ _ _ h0
  · exact Keeps.ite (multiRound_keeps _ _ (State.setRing_keeps _ _ h0)) h0
  · exact h0

theorem passMark_keeps {r0 : State} (s : State) (f : RFrame) (on : Bool) (h0 : Keeps r0 s) :
    Keeps r0 (passMark s f on) := by
  unfold passMark
  extract_lets -underBinder +onlyGivenNames l; clear_value l
  exact State.setRing_keeps _ _ h0

theorem ringPipeline_keeps {r0 : State} (s : State) (p : Nat) (f : RFrame) (h0 : Keeps r0 s) :
    Keeps r0 (ringPipeline s p f) := by
  unfold ringPipeline
  with_reducible apply Keeps.ite
  · with_reducible apply Keeps.ite
    · with_reducible apply ownBack_keeps
      with_reducible apply passMark_keeps
      exact h0
    · with_reducible apply forward_keeps
      with_reducible apply passMark_keeps
      exact h0
  · extract_lets -underBinder +onlyGivenNames r
    have hr : Keeps.By Prod.fst r0 r := by subst r; exact ringAct_keeps _ _ _ h0
    clear_value r
    exact unwrapNotices_keeps _ _ (forward_keeps _ _ _ (Keeps.By.fst hr))

theorem frameOn_keeps {r0 : State} (s : State) (p : Nat) (groups : List Nat) (h0 : Keeps r0 s) :
    Keeps r0 (frameOn s p groups) := by
  unfold frameOn
  extract_lets -underBinder +onlyGivenNames r
  have hr : Keeps.By Prod.fst r0 r := by subst r; exact rxSyms_keeps _ _ _ (demand_keeps _ _ h0)
  clear_value r
  extract_lets -underBinder +onlyGivenNames s1
  have hs1 : Keeps r0 s1 := by subst s1; exact endSets_keeps _ _ (Keeps.By.fst hr)
  clear_value s1
  with_reducible apply Keeps.ite
  · exact hs1
  · with_reducible apply Keeps.ite
    · with_reducible apply portDown_keeps
      exact hs1
    · split
      · exact State.addSat_keeps _ _ _ hs1
      · exact ringPipeline_keeps _ _ _ hs1

theorem ringReceive_keeps {r0 : State} (p : Nat) (groups : List Nat) (only : Option Nat) (s : State)
    (h0 : Keeps r0 s) :
    Keeps.R r0 (ringReceive p groups only s) := by
  unfold ringReceive
  exact Keeps.toNext (Keeps.ite h0 (Keeps.ite (passOn_keeps _ _ _ h0) (Keeps.ite (frameOn_keeps _ _ _ h0) h0)))

theorem execProbeFrame_keeps {r0 : State} (p : Nat) (groups : List Nat) (s : State) (h0 : Keeps r0 s) :
    Keeps.R r0 (execProbeFrame p groups s) := by
  unfold execProbeFrame
  exact ringReceive_keeps _ _ _ _ h0

theorem execLegTimeout_keeps {r0 : State} (s : State) (h0 : Keeps r0 s) :
    Keeps.R r0 (execLegTimeout s) := by
  unfold execLegTimeout
  extract_lets -underBinder +onlyGivenNames late; clear_value late
  extract_lets -underBinder +onlyGivenNames probes
  have hprobes : ∀ a0, Keeps r0 a0 → Keeps r0 (probes a0) := by
    subst probes
    intro _ _
    beta_reduce
    split
    · exact Keeps.ite (probeOn_keeps _ _ _ (by assumption)) (by assumption)
    · assumption
  clear_value probes
  with_reducible apply Keeps.toNext
  split
  · with_reducible apply Keeps.ite
    · with_reducible apply Keeps.ite
      · with_reducible apply sweepOn_keeps
        with_reducible apply State.setRing_keeps
        exact h0
      · with_reducible apply Keeps.ite
        · with_reducible apply sweepOn_keeps
          exact h0
        · with_reducible apply askMissing_keeps
          exact h0
    · with_reducible apply_assumption
      exact h0
  · with_reducible apply_assumption
    exact h0

theorem execWrapFrame_keeps {r0 : State} (p : Nat) (groups : List Nat) (s : State) (h0 : Keeps r0 s) :
    Keeps.R r0 (execWrapFrame p groups s) := by
  unfold execWrapFrame
  exact ringReceive_keeps _ _ _ _ h0

theorem preRingConfig_keeps {r0 : State} (s : State) (p : Pkt) (h0 : Keeps r0 s) :
    Keeps.By Prod.fst r0 (preRingConfig s p) := by
  unfold preRingConfig
  exact Keeps.toFst h0

theorem execDataFrame_keeps {r0 : State} (p : Nat) (groups : List Nat) (s : State) (h0 : Keeps r0 s) :
    Keeps.R r0 (execDataFrame p groups s) := by
  unfold execDataFrame
  exact ringReceive_keeps _ _ _ _ h0

theorem preNode0_keeps {r0 : State} (s : State) (x1 : Pkt) (h0 : Keeps r0 s) :
    Keeps.By Prod.fst r0 (preNode0 s x1) := by
  unfold preNode0
  exact Keeps.toFst h0

theorem execRingRecollect_keeps {r0 : State} (q : Nat) (idx : Nat) (s : State) (h0 : Keeps r0 s) :
    Keeps.R r0 (execRingRecollect q idx s) := by
  unfold execRingRecollect
  with_reducible apply carry_keeps
  · exact h0
  · intro _ _ _
    with_reducible apply preNode0_keeps
    assumption
  · intro _ _ _
    extract_lets -underBinder +onlyGivenNames n; clear_value n
    extract_lets -underBinder +onlyGivenNames id; clear_value id
    with_reducible apply Keeps.ite
    · with_reducible apply complete_keeps
      assumption
    · with_reducible apply Keeps.ite
      · with_reducible apply recollectDone_keeps
        assumption
      · extract_lets -underBinder +onlyGivenNames k; clear_value k
        extract_lets -underBinder +onlyGivenNames y; subst y
        extract_lets -underBinder +onlyGivenNames t1
        have ht1 : Keeps r0 t1 := by subst t1; exact State.setRing_keeps _ _ (State.setPkt_keeps _ _ (by assumption))
        clear_value t1
        with_reducible apply Keeps.foldl
        · exact ht1
        · exact fun _ _ _ => sendOn_keeps _ _ _ (by assumption)

theorem execRingSleepSet_keeps {r0 : State} (s : State) (h0 : Keeps r0 s) :
    Keeps.R r0 (execRingSleepSet s) := by
  unfold execRingSleepSet
  with_reducible apply Keeps.toNext
  with_reducible apply Keeps.ite
  · extract_lets -underBinder +onlyGivenNames s1
    have hs1 : Keeps r0 s1 := by
      subst s1
      with_reducible apply Keeps.foldl
      · exact h0
      · exact fun _ _ _ => State.setRport_keeps _ _ _ (setPortState_keeps _ _ _ (sendSyms_keeps _ _ _ (by
          assumption)))
    clear_value s1
    exact Keeps.ite (closeWindow_keeps _ hs1) hs1
  · exact h0

theorem parkSweepDue_keeps {r0 : State} (s : State) (h0 : Keeps r0 s) :
    Keeps r0 (parkSweepDue s) := by
  unfold parkSweepDue
  exact Keeps.ite (startSweep_keeps _ _ (State.setRing_keeps _ _ h0)) h0

theorem execRingRelockTimeout_keeps {r0 : State} (p : Nat) (s : State) (h0 : Keeps r0 s) :
    Keeps.R r0 (execRingRelockTimeout p s) := by
  unfold execRingRelockTimeout
  with_reducible apply Keeps.toNext
  with_reducible apply Keeps.ite
  · split
    · exact Keeps.ite (parkSweepDue_keeps _ (portDown_keeps _ _ h0)) h0
    · exact h0
  · exact h0

theorem preRingSweep_keeps {r0 : State} (s : State) (p : Pkt) (h0 : Keeps r0 s) :
    Keeps.By Prod.fst r0 (preRingSweep s p) := by
  unfold preRingSweep
  exact Keeps.By.ite (Keeps.toFst h0) (Keeps.toFst h0)

theorem pbufRdSet_keeps {r0 : State} (s : State) (m : BusMaster) (x2 : Option Nat) (h0 : Keeps r0 s) :
    Keeps r0 (pbufRdSet s m x2) := by
  unfold pbufRdSet
  split
  · exact forbid_keeps _ _ _ _ h0
  · exact State.setF_keeps _ _ _ h0

theorem pbufRd_keeps {r0 : State} (s : State) (m : BusMaster) (v : Nat) (h0 : Keeps r0 s) :
    Keeps r0 (pbufRd s m v) := by
  unfold pbufRd
  exact pbufRdSet_keeps _ _ _ h0

theorem execRecollectFrame_keeps {r0 : State} (p : Nat) (groups : List Nat) (s : State) (h0 : Keeps r0 s) :
    Keeps.R r0 (execRecollectFrame p groups s) := by
  unfold execRecollectFrame
  exact ringReceive_keeps _ _ _ _ h0

theorem portRelocked_keeps {r0 : State} (s : State) (p : Nat) (h0 : Keeps r0 s) :
    Keeps r0 (portRelocked s p) := by
  unfold portRelocked
  extract_lets -underBinder +onlyGivenNames s1
  have hs1 : Keeps r0 s1 := by subst s1; exact State.setRport_keeps _ _ _ (setPortState_keeps _ _ _ h0)
  clear_value s1
  extract_lets -underBinder +onlyGivenNames s2
  have hs2 : Keeps r0 s2 := by subst s2; exact Keeps.ite (issueBaton_keeps _ _ hs1) hs1
  clear_value s2
  exact parkSweepDue_keeps _ hs2

theorem execRingSleepWake_keeps {r0 : State} (p : Nat) (relocked : Bool) (s : State) (h0 : Keeps r0 s) :
    Keeps.R r0 (execRingSleepWake p relocked s) := by
  unfold execRingSleepWake
  with_reducible apply Keeps.toNext
  with_reducible apply Keeps.ite
  · extract_lets -underBinder +onlyGivenNames y; clear_value y
    extract_lets -underBinder +onlyGivenNames t
    have ht : Keeps r0 t := by subst t; exact State.setRport_keeps _ _ _ h0
    clear_value t
    extract_lets -underBinder +onlyGivenNames u
    have hu : Keeps r0 u := by
      subst u
      with_reducible apply Keeps.foldl
      · exact ht
      · exact fun _ _ _ => Keeps.ite (sendSyms_keeps _ _ _ (by assumption)) (by assumption)
    clear_value u
    extract_lets -underBinder +onlyGivenNames s1
    have hs1 : Keeps r0 s1 := by subst s1; exact Keeps.ite h0 (Keeps.ite (openWindow_keeps _ _ hu) hu)
    clear_value s1
    exact Keeps.ite (portRelocked_keeps _ _ hs1) hs1
  · with_reducible apply Keeps.ite
    · with_reducible apply passOn_keeps
      exact h0
    · exact h0

theorem execRingSweep_keeps {r0 : State} (q : Nat) (idx : Nat) (s : State) (h0 : Keeps r0 s) :
    Keeps.R r0 (execRingSweep q idx s) := by
  unfold execRingSweep
  with_reducible apply carry_keeps
  · exact h0
  · intro _ _ _
    with_reducible apply preRingSweep_keeps
    assumption
  · intro _ _ _
    extract_lets -underBinder +onlyGivenNames t1
    have ht1 : Keeps r0 t1 := by subst t1; exact State.setPkt_keeps _ _ (by assumption)
    clear_value t1
    exact Keeps.ite (startSweep_keeps _ _ ht1) ht1

theorem execRingConfig_keeps {r0 : State} (q : Nat) (idx : Nat) (s : State) (h0 : Keeps r0 s) :
    Keeps.R r0 (execRingConfig q idx s) := by
  unfold execRingConfig
  with_reducible apply carry_keeps
  · exact h0
  · intro _ _ _
    with_reducible apply preRingConfig_keeps
    assumption
  · intro _ _ _
    extract_lets -underBinder +onlyGivenNames y; subst y
    extract_lets -underBinder +onlyGivenNames t0
    have ht0 : Keeps r0 t0 := by subst t0; with_reducible exact Keeps.upd (by assumption) rfl rfl rfl rfl rfl rfl
    clear_value t0
    extract_lets -underBinder +onlyGivenNames t1
    have ht1 : Keeps r0 t1 := by subst t1; exact State.setF_keeps _ _ _ (State.setF_keeps _ _ _ ht0)
    clear_value t1
    extract_lets -underBinder +onlyGivenNames t2
    have ht2 : Keeps r0 t2 := by subst t2; exact portEnable_keeps _ _ _ (portEnable_keeps _ _ _ ht1)
    clear_value t2
    extract_lets -underBinder +onlyGivenNames t3
    have ht3 : Keeps r0 t3 := by subst t3; exact Keeps.ite ht2 (closeBypass_keeps _ ht2)
    clear_value t3
    exact complete_keeps _ _ _ _ _ ht3

theorem execRingRecv_keeps {r0 : State} (q : Nat) (idx : Nat) (s : State) (h0 : Keeps r0 s) :
    Keeps.R r0 (execRingRecv q idx s) := by
  unfold execRingRecv
  exact carry_keeps _ _ _ _ _ _ h0 (fun _ _ _ => noPre_keeps _ _ (by assumption)) (fun _ _ _ => recvFeed_keeps _
    (State.setPkt_keeps _ _ (by assumption)))

theorem execSweepFrame_keeps {r0 : State} (p : Nat) (groups : List Nat) (s : State) (h0 : Keeps r0 s) :
    Keeps.R r0 (execSweepFrame p groups s) := by
  unfold execSweepFrame
  exact ringReceive_keeps _ _ _ _ h0

theorem execTimesyncFrame_keeps {r0 : State} (p : Nat) (groups : List Nat) (s : State) (h0 : Keeps r0 s) :
    Keeps.R r0 (execTimesyncFrame p groups s) := by
  unfold execTimesyncFrame
  exact ringReceive_keeps _ _ _ _ h0

theorem execSweepTimerExpiry_keeps {r0 : State} (s : State) (h0 : Keeps r0 s) :
    Keeps.R r0 (execSweepTimerExpiry s) := by
  unfold execSweepTimerExpiry
  with_reducible apply Keeps.toNext
  split
  · exact h0
  · with_reducible apply Keeps.ite
    · exact h0
    · extract_lets -underBinder +onlyGivenNames per; subst per
      extract_lets -underBinder +onlyGivenNames y; subst y
      extract_lets -underBinder +onlyGivenNames s1
      have hs1 : Keeps r0 s1 := by subst s1; with_reducible exact Keeps.upd h0 rfl rfl rfl rfl rfl rfl
      extract_lets -underBinder +onlyGivenNames s2
      have hs2 : Keeps r0 s2 := by
        subst s2
        split
        · exact State.setRing_keeps _ _ hs1
        · exact hs1
      with_reducible apply Keeps.ite
      · exact hs2
      · with_reducible apply Keeps.ite
        · with_reducible apply State.addSat_keeps
          exact hs2
        · extract_lets -underBinder +onlyGivenNames s3
          have hs3 : Keeps r0 s3 := by subst s3; exact wakeRing_keeps _ (openWindow_keeps _ _ hs2)
          clear_value s3
          exact parkSweepDue_keeps _ (State.setRing_keeps _ _ hs3)

theorem execRingProbe_keeps {r0 : State} (q : Nat) (idx : Nat) (s : State) (h0 : Keeps r0 s) :
    Keeps.R r0 (execRingProbe q idx s) := by
  unfold execRingProbe
  with_reducible apply carry_keeps
  · exact h0
  · intro _ _ _
    with_reducible apply preNode0_keeps
    assumption
  · intro _ _ _
    with_reducible apply Keeps.ite
    · with_reducible apply complete_keeps
      assumption
    · extract_lets -underBinder +onlyGivenNames p1; clear_value p1
      extract_lets -underBinder +onlyGivenNames t1
      have ht1 : Keeps r0 t1 := by subst t1; exact State.setPkt_keeps _ _ (by assumption)
      clear_value t1
      exact Keeps.ite (beginProbe_keeps _ _ ht1) ht1

theorem execRingFrameReceive_keeps {r0 : State} (p : Nat) (groups : List Nat) (s : State) (h0 : Keeps r0 s) :
    Keeps.R r0 (execRingFrameReceive p groups s) := by
  unfold execRingFrameReceive
  exact ringReceive_keeps _ _ _ _ h0

theorem execBatonFrame_keeps {r0 : State} (p : Nat) (groups : List Nat) (s : State) (h0 : Keeps r0 s) :
    Keeps.R r0 (execBatonFrame p groups s) := by
  unfold execBatonFrame
  exact ringReceive_keeps _ _ _ _ h0

theorem execPbufRdWrite_keeps {r0 : State} (m : BusMaster) (v : Word) (s : State) (h0 : Keeps r0 s) :
    Keeps.R r0 (execPbufRdWrite m v s) := by
  unfold execPbufRdWrite
  exact Keeps.toNext (guarded_keeps _ _ _ _ _ (masterDemand_keeps _ _ h0) (fun _ _ => pbufRd_keeps _ _ _ (by
    assumption)))

theorem execRingSend_keeps {r0 : State} (q : Nat) (idx : Nat) (s : State) (h0 : Keeps r0 s) :
    Keeps.R r0 (execRingSend q idx s) := by
  unfold execRingSend
  with_reducible apply carry_keeps
  · exact h0
  · intro _ _ _
    with_reducible apply noPre_keeps
    assumption
  · intro _ _ _
    with_reducible apply Keeps.ite
    · with_reducible apply complete_keeps
      assumption
    · extract_lets -underBinder +onlyGivenNames e; clear_value e
      exact State.setRing_keeps _ _ (State.setPkt_keeps _ _ (by assumption))

end Sys2Proof.Machine
end

