-- ==== Sys2Proof/Laws/KeepsCommands.lean ====
section
/-! SUPPORT. Every operation over sleep, safety tests, instances, pads, bus accesses, transfers, pacers, commit and acceptance leaves the waiting commands alone, draws
free values forward only, and keeps the canonical form of memory, flash, registers and latches: one lemma per operation. -/

namespace Sys2Proof.Machine

set_option linter.unusedVariables false

/-! ### SleepCmds -/

theorem parkDone_keeps {r0 : State} (s : State) (p : Pkt) (h0 : Keeps r0 s) :
    Keeps r0 (parkDone s p) := by
  unfold parkDone
  extract_lets -underBinder +onlyGivenNames hits; clear_value hits
  exact complete_keeps _ _ _ _ _ h0

theorem parkCancel_keeps {r0 : State} (s : State) (p : Pkt) (h0 : Keeps r0 s) :
    Keeps r0 (parkCancel s p) := by
  unfold parkCancel
  extract_lets -underBinder +onlyGivenNames p1; clear_value p1
  extract_lets -underBinder +onlyGivenNames y; subst y
  extract_lets -underBinder +onlyGivenNames s1
  have hs1 : Keeps r0 s1 := by subst s1; with_reducible exact Keeps.upd h0 rfl rfl rfl rfl rfl rfl
  clear_value s1
  with_reducible apply Keeps.ite
  · with_reducible apply parkDone_keeps
    with_reducible apply restartDom_keeps
    exact hs1
  · extract_lets -underBinder +onlyGivenNames s2
    have hs2 : Keeps r0 s2 := by subst s2; exact State.setPkt_keeps _ _ hs1
    clear_value s2
    with_reducible exact Keeps.upd hs2 rfl rfl rfl rfl rfl rfl

theorem clearRecords_keeps {r0 : State} (s : State) (h0 : Keeps r0 s) :
    Keeps r0 (clearRecords s) := by
  unfold clearRecords
  with_reducible exact Keeps.upd h0 rfl rfl rfl rfl rfl rfl

theorem parkCommit_keeps {r0 : State} (s : State) (p : Pkt) (h0 : Keeps r0 s) :
    Keeps r0 (parkCommit s p) := by
  unfold parkCommit
  extract_lets -underBinder +onlyGivenNames s1
  have hs1 : Keeps r0 s1 := by subst s1; exact State.setF_keeps _ _ _ (State.setPkt_keeps _ _ h0)
  clear_value s1
  extract_lets -underBinder +onlyGivenNames y; subst y
  extract_lets -underBinder +onlyGivenNames y; subst y
  extract_lets -underBinder +onlyGivenNames s2
  have hs2 : Keeps r0 s2 := by subst s2; with_reducible exact Keeps.upd hs1 rfl rfl rfl rfl rfl rfl
  clear_value s2
  exact takeDown_keeps _ _ _ hs2

theorem parkStep_keeps {r0 : State} (s : State) (p : Pkt) (h0 : Keeps r0 s) :
    Keeps r0 (parkStep s p) := by
  unfold parkStep
  split
  · with_reducible apply Keeps.ite
    · extract_lets -underBinder +onlyGivenNames en; clear_value en
      extract_lets -underBinder +onlyGivenNames s1
      have hs1 : Keeps r0 s1 := by subst s1; exact Keeps.ite h0 (State.setF_keeps _ _ _ h0)
      clear_value s1
      with_reducible apply gateDom_keeps
      extract_lets -underBinder +onlyGivenNames y
      have hy : Keeps r0 y := by subst y; exact State.setPkt_keeps _ _ hs1
      clear_value y
      with_reducible exact Keeps.upd hy rfl rfl rfl rfl rfl rfl
    · exact h0
  · with_reducible apply Keeps.ite
    · with_reducible apply parkCancel_keeps
      exact h0
    · extract_lets -underBinder +onlyGivenNames s1
      have hs1 : Keeps r0 s1 := by subst s1; exact clearRecords_keeps _ (State.setPkt_keeps _ _ h0)
      clear_value s1
      extract_lets -underBinder +onlyGivenNames y; subst y
      extract_lets -underBinder +onlyGivenNames s2
      have hs2 : Keeps r0 s2 := by
        subst s2
        with_reducible exact mainDieReset_keeps _ (Keeps.upd hs1 rfl rfl rfl rfl rfl rfl)
      clear_value s2
      with_reducible exact Keeps.upd hs2 rfl rfl rfl rfl rfl rfl
  · exact Keeps.ite (parkCancel_keeps _ _ h0) (parkCommit_keeps _ _ h0)
  · exact h0

theorem preDrain_keeps {r0 : State} (s : State) (p : Pkt) (h0 : Keeps r0 s) :
    Keeps.By Prod.fst r0 (preDrain s p) := by
  unfold preDrain
  exact Keeps.toFst h0

theorem execPwrPark_keeps {r0 : State} (q : Nat) (idx : Nat) (s : State) (h0 : Keeps r0 s) :
    Keeps.R r0 (execPwrPark q idx s) := by
  unfold execPwrPark
  with_reducible apply Keeps.toNext
  split
  · with_reducible apply Keeps.ite
    · with_reducible apply parkStep_keeps
      exact h0
    · with_reducible apply Keeps.ite
      · split
        · exact Keeps.O.some_eq (endPre_keeps _ _ _ h0) (by assumption)
        · exact State.setPkt_keeps _ _ h0
      · exact h0
  · exact h0

theorem shutDown_keeps {r0 : State} (s : State) (h0 : Keeps r0 s) :
    Keeps r0 (shutDown s) := by
  unfold shutDown
  extract_lets -underBinder +onlyGivenNames s1
  have hs1 : Keeps r0 s1 := by subst s1; exact mainDieReset_keeps _ (clearRecords_keeps _ h0)
  clear_value s1
  extract_lets -underBinder +onlyGivenNames y; subst y
  extract_lets -underBinder +onlyGivenNames s2
  have hs2 : Keeps r0 s2 := by subst s2; with_reducible exact Keeps.upd hs1 rfl rfl rfl rfl rfl rfl
  clear_value s2
  exact takeDown_keeps _ _ _ hs2

theorem execPwrShutdown_keeps {r0 : State} (q : Nat) (idx : Nat) (s : State) (h0 : Keeps r0 s) :
    Keeps.R r0 (execPwrShutdown q idx s) := by
  unfold execPwrShutdown
  with_reducible apply Keeps.toNext
  split
  · with_reducible apply Keeps.ite
    · with_reducible apply Keeps.ite
      · with_reducible apply shutDown_keeps
        with_reducible apply complete_keeps
        exact h0
      · exact h0
    · with_reducible apply Keeps.ite
      · split
        · exact Keeps.O.some_eq (endPre_keeps _ _ _ h0) (by assumption)
        · exact State.setPkt_keeps _ _ h0
      · exact h0
  · exact h0

/-! ### SafCmds -/

theorem execSafStall_keeps {r0 : State} (q : Nat) (idx : Nat) (s : State) (h0 : Keeps r0 s) :
    Keeps.R r0 (execSafStall q idx s) := by
  unfold execSafStall
  with_reducible apply carry_keeps
  · exact h0
  · intro _ _ _
    with_reducible apply preParamLane_keeps
    assumption
  · intro _ _ _
    extract_lets -underBinder +onlyGivenNames l; clear_value l
    extract_lets -underBinder +onlyGivenNames v; clear_value v
    extract_lets -underBinder +onlyGivenNames t1
    have ht1 : Keeps r0 t1 := by subst t1; exact State.setF_keeps _ _ _ (by assumption)
    clear_value t1
    with_reducible exact complete_keeps _ _ _ _ _ (Keeps.upd ht1 rfl rfl rfl rfl rfl rfl)

theorem preSafPair_keeps {r0 : State} (s : State) (p : Pkt) (h0 : Keeps r0 s) :
    Keeps.By Prod.fst r0 (preSafPair s p) := by
  unfold preSafPair
  extract_lets -underBinder +onlyGivenNames l; clear_value l
  exact Keeps.toFst h0

theorem safTestDone_keeps {r0 : State} (s : State) (failed : Nat) (h0 : Keeps r0 s) :
    Keeps r0 (safTestDone s failed) := by
  unfold safTestDone
  split
  · with_reducible exact complete_keeps _ _ _ _ _ (Keeps.upd h0 rfl rfl rfl rfl rfl rfl)
  · exact h0

theorem safTestBegin_keeps {r0 : State} (s : State) (p : Pkt) (h0 : Keeps r0 s) :
    Keeps r0 (safTestBegin s p) := by
  unfold safTestBegin
  with_reducible apply Keeps.ite
  · extract_lets -underBinder +onlyGivenNames ks; clear_value ks
    extract_lets -underBinder +onlyGivenNames s1
    have hs1 : Keeps r0 s1 := by subst s1; exact State.setPkt_keeps _ _ h0
    clear_value s1
    exact Keeps.ite (safTestDone_keeps _ _ hs1) (openRun_keeps _ _ _ hs1)
  · exact h0

theorem execSafTest_keeps {r0 : State} (q : Nat) (idx : Nat) (s : State) (h0 : Keeps r0 s) :
    Keeps.R r0 (execSafTest q idx s) := by
  unfold execSafTest
  with_reducible apply Keeps.toNext
  split
  · with_reducible apply Keeps.ite
    · with_reducible apply safTestBegin_keeps
      exact h0
    · with_reducible apply Keeps.ite
      · extract_lets -underBinder +onlyGivenNames p1; clear_value p1
        with_reducible exact safTestBegin_keeps _ _ (State.setPkt_keeps _ _ (Keeps.upd h0 rfl rfl rfl rfl rfl rfl))
      · exact h0
  · exact h0

theorem execSafPair_keeps {r0 : State} (q : Nat) (idx : Nat) (s : State) (h0 : Keeps r0 s) :
    Keeps.R r0 (execSafPair q idx s) := by
  unfold execSafPair
  with_reducible apply carry_keeps
  · exact h0
  · intro _ _ _
    with_reducible apply preSafPair_keeps
    assumption
  · intro _ _ _
    extract_lets -underBinder +onlyGivenNames l; clear_value l
    split
    · assumption
    · exact complete_keeps _ _ _ _ _ (laneRegs_keeps _ _ (State.setLane_keeps _ _ _ (by assumption)))

theorem execInjectionWindowEnd_keeps {r0 : State} (k : Nat) (r : InjReport) (s : State) (h0 : Keeps r0 s) :
    Keeps.R r0 (execInjectionWindowEnd k r s) := by
  unfold execInjectionWindowEnd
  extract_lets -underBinder +onlyGivenNames t
  have ht : Keeps r0 t := by subst t; exact windowEnd_keeps _ _ _ h0
  clear_value t
  exact Keeps.toNext (Keeps.ite (safTestDone_keeps _ _ ht) ht)

theorem execSafReport_keeps {r0 : State} (q : Nat) (idx : Nat) (s : State) (h0 : Keeps r0 s) :
    Keeps.R r0 (execSafReport q idx s) := by
  unfold execSafReport
  exact carryDma_keeps _ _ _ _ _ _ h0 (fun _ _ _ => noPre_keeps _ _ (by assumption)) (fun _ _ _ => outAndEnd_keeps _
    _ _ _ _ (by assumption))

theorem execSafEnter_keeps {r0 : State} (q : Nat) (idx : Nat) (s : State) (h0 : Keeps r0 s) :
    Keeps.R r0 (execSafEnter q idx s) := by
  unfold execSafEnter
  exact carry_keeps _ _ _ _ _ _ h0 (fun _ _ _ => noPre_keeps _ _ (by assumption)) (fun _ _ _ => Keeps.ite
    (safeCause_keeps _ _ (State.setPkt_keeps _ _ (by assumption))) (complete_keeps _ _ _ _ _ (by assumption)))

/-! ### InstCmds -/

theorem stopIo_keeps {r0 : State} (s : State) (i : Nat) (h0 : Keeps r0 s) :
    Keeps r0 (stopIo s i) := by
  unfold stopIo
  extract_lets -underBinder +onlyGivenNames s1
  have hs1 : Keeps r0 s1 := by
    subst s1
    with_reducible apply Keeps.foldl
    · exact h0
    · intro _ _ _
      split
      · exact Keeps.ite (stopStream_keeps _ _ (by assumption)) (by assumption)
      · assumption
  clear_value s1
  extract_lets -underBinder +onlyGivenNames s2
  have hs2 : Keeps r0 s2 := by
    subst s2
    with_reducible apply Keeps.foldl
    · exact hs1
    · intro _ _ _
      split
      · exact Keeps.ite (State.setDispSaved_keeps _ _ _ (by assumption)) (by assumption)
      · assumption
  clear_value s2
  with_reducible apply Keeps.foldl
  · exact hs2
  · exact fun _ _ _ => Keeps.ite (canOff_keeps _ _ (by assumption)) (by assumption)

theorem disableQueues_keeps {r0 : State} (s : State) (i : Nat) (h0 : Keeps r0 s) :
    Keeps r0 (disableQueues s i) := by
  unfold disableQueues
  with_reducible apply Keeps.foldl
  · exact h0
  · exact fun _ _ _ => State.setF_keeps _ _ _ (by assumption)

theorem releaseCtxs_keeps {r0 : State} (s : State) (i : Nat) (h0 : Keeps r0 s) :
    Keeps r0 (releaseCtxs s i) := by
  unfold releaseCtxs
  with_reducible apply Keeps.foldl
  · exact h0
  · with_reducible exact fun _ _ _ => State.wr_keeps _ _ (Keeps.upd (by assumption) rfl rfl rfl rfl rfl rfl)

theorem instDone_keeps {r0 : State} (s : State) (p : Pkt) (detail : Nat) (h0 : Keeps r0 s) :
    Keeps r0 (instDone s p detail) := by
  unfold instDone
  extract_lets -underBinder +onlyGivenNames i; clear_value i
  exact complete_keeps _ _ _ _ _ (State.setInst_keeps _ _ _ h0)

theorem finishRemove_keeps {r0 : State} (s : State) (p : Pkt) (h0 : Keeps r0 s) :
    Keeps r0 (finishRemove s p) := by
  unfold finishRemove
  extract_lets -underBinder +onlyGivenNames i; clear_value i
  extract_lets -underBinder +onlyGivenNames s1
  have hs1 : Keeps r0 s1 := by subst s1; exact stopIo_keeps _ _ h0
  clear_value s1
  with_reducible apply Keeps.ite
  · exact hs1
  · extract_lets -underBinder +onlyGivenNames s2
    have hs2 : Keeps r0 s2 := by
      subst s2
      with_reducible apply Keeps.foldl
      · exact hs1
      · exact fun _ _ _ => idxLive_keeps _ _ _ (State.setIdx_keeps _ _ _ (by assumption))
    clear_value s2
    extract_lets -underBinder +onlyGivenNames s3
    have hs3 : Keeps r0 s3 := by subst s3; exact disableQueues_keeps _ _ (releaseCtxs_keeps _ _ hs2)
    clear_value s3
    extract_lets -underBinder +onlyGivenNames s4
    have hs4 : Keeps r0 s4 := by
      subst s4
      exact State.setF_keeps _ _ _ (dropKey_keeps _ _ (setRoot_keeps _ _ _ _ _ hs3))
    clear_value s4
    extract_lets -underBinder +onlyGivenNames s5
    have hs5 : Keeps r0 s5 := by
      subst s5
      exact State.setF_keeps _ _ _ (State.setF_keeps _ _ _ (State.setF_keeps _ _ _ hs4))
    clear_value s5
    extract_lets -underBinder +onlyGivenNames s6
    have hs6 : Keeps r0 s6 := by subst s6; exact setInstState_keeps _ _ _ _ hs5
    clear_value s6
    extract_lets -underBinder +onlyGivenNames s7
    have hs7 : Keeps r0 s7 := by
      subst s7
      exact State.setF_keeps _ _ _ (State.setF_keeps _ _ _ (State.setF_keeps _ _ _ hs6))
    clear_value s7
    exact instDone_keeps _ _ _ (State.setInst_keeps _ _ _ hs7)

theorem beginRemove_keeps {r0 : State} (s : State) (p : Pkt) (h0 : Keeps r0 s) :
    Keeps r0 (beginRemove s p) := by
  unfold beginRemove
  extract_lets -underBinder +onlyGivenNames i; clear_value i
  extract_lets -underBinder +onlyGivenNames p1; clear_value p1
  extract_lets -underBinder +onlyGivenNames y; clear_value y
  extract_lets -underBinder +onlyGivenNames s1
  have hs1 : Keeps r0 s1 := by subst s1; exact State.setInst_keeps _ _ _ (State.setPkt_keeps _ _ h0)
  clear_value s1
  extract_lets -underBinder +onlyGivenNames s2
  have hs2 : Keeps r0 s2 := by subst s2; exact quiesceThese_keeps _ _ hs1
  clear_value s2
  with_reducible apply finishRemove_keeps
  with_reducible apply Keeps.foldl
  · exact hs2
  · exact fun _ _ _ => endJob_keeps _ _ _ _ _ (by assumption)

theorem restoreQueue_keeps {r0 : State} (i : Nat) (s : State) (e : SavedQueue × Nat) (h0 : Keeps r0 s) :
    Keeps r0 (restoreQueue i s e) := by
  unfold restoreQueue
  extract_lets -underBinder +onlyGivenNames q; clear_value q
  extract_lets -underBinder +onlyGivenNames y; clear_value y
  extract_lets -underBinder +onlyGivenNames s1
  have hs1 : Keeps r0 s1 := by subst s1; exact State.set64_keeps _ _ _ _ (State.set64_keeps _ _ _ _ h0)
  clear_value s1
  extract_lets -underBinder +onlyGivenNames s2
  have hs2 : Keeps r0 s2 := by subst s2; exact State.setF_keeps _ _ _ (State.setF_keeps _ _ _ hs1)
  clear_value s2
  with_reducible apply Keeps.ite
  · extract_lets -underBinder +onlyGivenNames s3
    have hs3 : Keeps r0 s3 := by
      subst s3
      exact State.setF_keeps _ _ _ (State.setF_keeps _ _ _ (State.setF_keeps _ _ _ hs2))
    clear_value s3
    extract_lets -underBinder +onlyGivenNames y; subst y
    extract_lets -underBinder +onlyGivenNames s4
    have hs4 : Keeps r0 s4 := by subst s4; exact State.setQueue_keeps _ _ _ (State.setF_keeps _ _ _ hs3)
    clear_value s4
    exact writeStatus_keeps _ _ hs4
  · with_reducible apply State.setQueue_keeps
    exact hs2

theorem restoreJob_keeps {r0 : State} (x : SavedInst) (s : State) (e : SavedPkt) (h0 : Keeps r0 s) :
    Keeps r0 (restoreJob x s e) := by
  unfold restoreJob
  with_reducible apply Keeps.ite
  · extract_lets -underBinder +onlyGivenNames c; clear_value c
    extract_lets -underBinder +onlyGivenNames bs; clear_value bs
    extract_lets -underBinder +onlyGivenNames y; clear_value y
    extract_lets -underBinder +onlyGivenNames j; clear_value j
    with_reducible exact Keeps.upd h0 rfl rfl rfl rfl rfl rfl
  · exact h0

theorem restoreInst_keeps {r0 : State} (s : State) (i : Nat) (x : SavedInst) (h0 : Keeps r0 s) :
    Keeps r0 (restoreInst s i x) := by
  unfold restoreInst
  extract_lets -underBinder +onlyGivenNames s1
  have hs1 : Keeps r0 s1 := by
    subst s1
    exact State.setF_keeps _ _ _ (State.setF_keeps _ _ _ (State.setF_keeps _ _ _ h0))
  clear_value s1
  extract_lets -underBinder +onlyGivenNames y; subst y
  extract_lets -underBinder +onlyGivenNames s2
  have hs2 : Keeps r0 s2 := by subst s2; with_reducible exact Keeps.upd hs1 rfl rfl rfl rfl rfl rfl
  clear_value s2
  extract_lets -underBinder +onlyGivenNames s3
  have hs3 : Keeps r0 s3 := by subst s3; exact State.setF_keeps _ _ _ (State.setF_keeps _ _ _ hs2)
  clear_value s3
  extract_lets -underBinder +onlyGivenNames s4
  have hs4 : Keeps r0 s4 := by
    subst s4
    exact dropXlt_keeps _ _ _ _ (State.setF_keeps _ _ _ (State.setF_keeps _ _ _ hs3))
  clear_value s4
  extract_lets -underBinder +onlyGivenNames s5
  have hs5 : Keeps r0 s5 := by subst s5; exact State.setF_keeps _ _ _ (State.setF_keeps _ _ _ hs4)
  clear_value s5
  extract_lets -underBinder +onlyGivenNames y; clear_value y
  extract_lets -underBinder +onlyGivenNames s6
  have hs6 : Keeps r0 s6 := by subst s6; exact State.setInst_keeps _ _ _ hs5
  clear_value s6
  extract_lets -underBinder +onlyGivenNames s7
  have hs7 : Keeps r0 s7 := by
    subst s7
    with_reducible apply Keeps.foldl
    · exact hs6
    · exact fun _ _ _ => idxLive_keeps _ _ _ (State.setIdx_keeps _ _ _ (by assumption))
  clear_value s7
  extract_lets -underBinder +onlyGivenNames s8
  have hs8 : Keeps r0 s8 := by
    subst s8
    with_reducible apply Keeps.foldl
    · exact hs7
    · with_reducible exact fun _ _ _ => State.setF_keeps _ _ _ (State.setF_keeps _ _ _ (Keeps.upd (by assumption) rfl
                       rfl rfl rfl rfl rfl))
  clear_value s8
  extract_lets -underBinder +onlyGivenNames s9
  have hs9 : Keeps r0 s9 := by
    subst s9
    with_reducible apply Keeps.foldl
    · exact hs8
    · exact fun _ _ _ => restoreQueue_keeps _ _ _ (by assumption)
  clear_value s9
  extract_lets -underBinder +onlyGivenNames s10
  have hs10 : Keeps r0 s10 := by subst s10; with_reducible exact Keeps.upd hs9 rfl rfl rfl rfl rfl rfl
  clear_value s10
  with_reducible apply Keeps.foldl
  · exact hs10
  · exact fun _ _ _ => restoreJob_keeps _ _ _ (by assumption)

theorem restored_keeps {r0 : State} (s : State) (p : Pkt) (x : SavedInst) (h0 : Keeps r0 s) :
    Keeps r0 (restored s p x) := by
  unfold restored
  extract_lets -underBinder +onlyGivenNames i; clear_value i
  extract_lets -underBinder +onlyGivenNames s1
  have hs1 : Keeps r0 s1 := by
    subst s1
    exact State.setF_keeps _ _ _ (State.setF_keeps _ _ _ (restoreInst_keeps _ _ _ h0))
  clear_value s1
  extract_lets -underBinder +onlyGivenNames s2
  have hs2 : Keeps r0 s2 := by subst s2; exact State.addSat_keeps _ _ _ (State.setF_keeps _ _ _ hs1)
  clear_value s2
  exact instDone_keeps _ _ _ (notice_keeps _ _ _ _ _ _ hs2)

theorem imageIn_keeps {r0 : State} (s : State) (p : Pkt) (h0 : Keeps r0 s) :
    Keeps r0 (imageIn s p) := by
  unfold imageIn
  split
  · exact endErr_keeps _ _ _ (Keeps.By.eq_fst (by assumption) (dmaRead_keeps _ _ _ _ h0))
  · split
    · exact preFail_keeps _ _ _ (Keeps.By.eq_fst (by assumption) (dmaRead_keeps _ _ _ _ h0))
    · exact restored_keeps _ _ _ (Keeps.By.eq_fst (by assumption) (dmaRead_keeps _ _ _ _ h0))

theorem takeBack_keeps {r0 : State} (s : State) (p : Pkt) (h0 : Keeps r0 s) :
    Keeps r0 (takeBack s p) := by
  unfold takeBack
  with_reducible apply Keeps.ite
  · exact h0
  · with_reducible apply Keeps.ite
    · split
      · exact State.setIdx_keeps _ _ _ h0
      · exact h0
    · with_reducible apply Keeps.ite
      · with_reducible apply ringAgain_keeps
        exact h0
      · exact h0

theorem startTick_keeps {r0 : State} (s : State) (i : Nat) (h0 : Keeps r0 s) :
    Keeps r0 (startTick s i) := by
  unfold startTick
  extract_lets -underBinder +onlyGivenNames s1
  have hs1 : Keeps r0 s1 := by
    subst s1
    with_reducible apply Keeps.foldl
    · exact h0
    · exact fun _ _ _ => undispatch_keeps _ _ (by assumption)
  clear_value s1
  with_reducible apply Keeps.foldl
  · exact hs1
  · exact fun _ _ _ => State.setPkt_keeps _ _ (dropPktWaits_keeps _ _ _ (takeBack_keeps _ _ (by assumption)))

theorem finishFreeze_keeps {r0 : State} (s : State) (p : Pkt) (h0 : Keeps r0 s) :
    Keeps r0 (finishFreeze s p) := by
  unfold finishFreeze
  extract_lets -underBinder +onlyGivenNames i; clear_value i
  with_reducible apply Keeps.ite
  · exact h0
  · extract_lets -underBinder +onlyGivenNames s1
    have hs1 : Keeps r0 s1 := by subst s1; exact State.setF_keeps _ _ _ h0
    clear_value s1
    exact instDone_keeps _ _ _ (setInstState_keeps _ _ _ _ hs1)

theorem pauseNow_keeps {r0 : State} (s : State) (i : Nat) (h0 : Keeps r0 s) :
    Keeps r0 (pauseNow s i) := by
  unfold pauseNow
  with_reducible apply Keeps.foldl
  · exact h0
  · exact fun _ _ _ => State.setJob_keeps _ _ (by assumption)

theorem beginFreeze_keeps {r0 : State} (s : State) (p : Pkt) (h0 : Keeps r0 s) :
    Keeps r0 (beginFreeze s p) := by
  unfold beginFreeze
  extract_lets -underBinder +onlyGivenNames i; clear_value i
  extract_lets -underBinder +onlyGivenNames p1; clear_value p1
  extract_lets -underBinder +onlyGivenNames y; clear_value y
  extract_lets -underBinder +onlyGivenNames s1
  have hs1 : Keeps r0 s1 := by subst s1; exact State.setInst_keeps _ _ _ (State.setPkt_keeps _ _ h0)
  clear_value s1
  extract_lets -underBinder +onlyGivenNames s2
  have hs2 : Keeps r0 s2 := by subst s2; exact startTick_keeps _ _ hs1
  clear_value s2
  exact finishFreeze_keeps _ _ (pauseNow_keeps _ _ (quiesceThese_keeps _ _ hs2))

theorem preRunning_keeps {r0 : State} (cs : State → Pkt → List (Bool × Nat)) (s : State) (p : Pkt) (h0 : Keeps r0 s) :
    Keeps.By Prod.fst r0 (preRunning cs s p) := by
  unfold preRunning
  exact Keeps.toFst h0

theorem execInstResume_keeps {r0 : State} (q : Nat) (idx : Nat) (s : State) (h0 : Keeps r0 s) :
    Keeps.R r0 (execInstResume q idx s) := by
  unfold execInstResume
  exact carry_keeps _ _ _ _ _ _ h0 (fun _ _ _ => preRunning_keeps _ _ _ (by assumption)) (fun _ _ _ => instDone_keeps
    _ _ _ (Keeps.ite (setInstState_keeps _ _ _ _ (by assumption)) (by assumption)))

theorem startJobOp_keeps {r0 : State} (p : Pkt) (s : State) (h0 : Keeps r0 s) :
    Keeps r0 (startJobOp p s) := by
  unfold startJobOp
  split
  · exact preThen_keeps _ _ _ _ (fun _ _ _ => jobRunPre_keeps _ _ (by assumption)) (fun _ _ _ => startRun_keeps _ _
      (by assumption)) h0
  · exact preThen_keeps _ _ _ _ (fun _ _ _ => jobSearchPre_keeps _ _ (by assumption)) (fun _ _ _ => startSearch_keeps
      _ _ (by assumption)) h0
  · exact preThen_keeps _ _ _ _ (fun _ _ _ => noPre_keeps _ _ (by assumption)) (fun _ _ _ => startGfx_keeps _ _ (by
      assumption)) h0
  · exact preThen_keeps _ _ _ _ (fun _ _ _ => idxBuildPre_keeps _ _ (by assumption)) (fun _ _ _ => startBuild_keeps _
      _ (by assumption)) h0

theorem thawCarried_keeps {r0 : State} (s : State) (j : Job) (h0 : Keeps r0 s) :
    Keeps r0 (thawCarried s j) := by
  unfold thawCarried
  split
  · exact State.dropJob_keeps _ _ h0
  · extract_lets -underBinder +onlyGivenNames p1; clear_value p1
    extract_lets -underBinder +onlyGivenNames s1
    have hs1 : Keeps r0 s1 := by
      subst s1
      exact startJobOp_keeps _ _ (State.setPkt_keeps _ _ (State.dropJob_keeps _ _ h0))
    clear_value s1
    split
    · exact hs1
    · extract_lets -underBinder +onlyGivenNames bufs; clear_value bufs
      split
      · exact endAccess_keeps _ _ _ (Keeps.By.eq_fst (by assumption) (takeCkpt_keeps _ _ _ _ hs1))
      · exact newAttempt_keeps _ _ _ _ (Keeps.By.eq_fst (by assumption) (takeCkpt_keeps _ _ _ _ hs1))

theorem preRestore_keeps {r0 : State} (s : State) (p : Pkt) (h0 : Keeps r0 s) :
    Keeps.By Prod.fst r0 (preRestore s p) := by
  unfold preRestore
  extract_lets -underBinder +onlyGivenNames i; clear_value i
  with_reducible apply Keeps.By.ite
  · with_reducible apply Keeps.toFst
    exact h0
  · split
    · split
      · exact Keeps.toFst (Keeps.By.eq_fst (by assumption) (dmaRead_keeps _ _ _ _ h0))
      · exact Keeps.toFst (Keeps.By.eq_fst (by assumption) (dmaRead_keeps _ _ _ _ h0))
      · exact Keeps.toFst (Keeps.By.eq_fst (by assumption) (dmaRead_keeps _ _ _ _ h0))
    · exact Keeps.toFst h0

theorem execInstRestore_keeps {r0 : State} (q : Nat) (idx : Nat) (s : State) (h0 : Keeps r0 s) :
    Keeps.R r0 (execInstRestore q idx s) := by
  unfold execInstRestore
  exact carryDma_keeps _ _ _ _ _ _ h0 (fun _ _ _ => preRestore_keeps _ _ (by assumption)) (fun _ _ _ => imageIn_keeps
    _ _ (by assumption))

theorem preRemove_keeps {r0 : State} (s : State) (p : Pkt) (h0 : Keeps r0 s) :
    Keeps.By Prod.fst r0 (preRemove s p) := by
  unfold preRemove
  exact Keeps.toFst h0

theorem preReset_keeps {r0 : State} (x0 : State) (x1 : Pkt) (h0 : Keeps r0 x0) :
    Keeps.By Prod.fst r0 (preReset x0 x1) := by
  unfold preReset
  exact preRunning_keeps _ _ _ h0

theorem preRights_keeps {r0 : State} (x0 : State) (x1 : Pkt) (h0 : Keeps r0 x0) :
    Keeps.By Prod.fst r0 (preRights x0 x1) := by
  unfold preRights
  exact preRunning_keeps _ _ _ h0

theorem dropSlot_keeps {r0 : State} (w : Who) (x : IdxRec) (a : Nat) (i : Nat) (io : Io) (h0 : Keeps.By Io.s r0 io) :
    Keeps.By Io.s r0 (dropSlot w x a i io) := by
  unfold dropSlot
  extract_lets -underBinder +onlyGivenNames p; clear_value p
  extract_lets -underBinder +onlyGivenNames r
  have hr : Keeps.By1 Io.s r0 r := by subst r; exact readRec_keeps _ _ _ _ _ h0
  clear_value r
  extract_lets -underBinder +onlyGivenNames io1
  have hio1 : Keeps.By Io.s r0 io1 := by
    subst io1
    exact Keeps.By.ite (Io.wr_keeps _ _ _ _ (Keeps.By1.fst hr)) (Keeps.By1.fst hr)
  clear_value io1
  with_reducible apply Keeps.By.ite
  · with_reducible apply Keeps.By.foldl
    · exact hio1
    · intro _ _ _
      extract_lets -underBinder +onlyGivenNames l
      have hl : Keeps.By1 Io.s r0 l := by subst l; exact Io.rd_keeps _ _ _ _ (by assumption)
      clear_value l
      exact Keeps.By.ite (Io.wr_keeps _ _ _ _ (Keeps.By1.fst hl)) (Keeps.By1.fst hl)
  · exact hio1

theorem dropLists_keeps {r0 : State} (x4 : Nat) : ∀ (w : Who) (x : IdxRec) (a : Nat) (bound : Nat) (x5 : Nat)
    (x6 : Io × Nat),
    Keeps.By1 Io.s r0 x6 → Keeps.By1 Io.s r0 (dropLists w x a bound x4 x5 x6) := by
  induction x4 with
  | zero =>
    intro w x a bound x5 x6 h0
    rw [dropLists]
    exact h0
  | succ n ih =>
    intro w x a bound x5 x6 h0
    rw [dropLists]
    with_reducible apply Keeps.By1.ite
    · with_reducible apply Keeps.toPair
      with_reducible apply Keeps.By.ite
      · with_reducible apply Keeps.By1.fst
        with_reducible apply Io.rd_keeps
        with_reducible apply Keeps.By1.fst
        exact h0
      · with_reducible apply Io.wr_keeps
        with_reducible apply Keeps.By1.fst
        with_reducible apply Io.rd_keeps
        with_reducible apply Keeps.By1.fst
        exact h0
    · extract_lets -underBinder +onlyGivenNames h
      have hh : Keeps.By1 Io.s r0 h := by
        subst h
        exact Io.rd_keeps _ _ _ _ (Keeps.By.ite (Keeps.By1.fst (Io.rd_keeps _ _ _ _ (Keeps.By1.fst h0))) (Io.wr_keeps
          _ _ _ _ (Keeps.By1.fst (Io.rd_keeps _ _ _ _ (Keeps.By1.fst h0)))))
      clear_value h
      exact Keeps.By1.ite (ih _ _ _ _ _ _ (Keeps.toPair (Keeps.By1.fst hh))) (Keeps.toPair (Io.wr_keeps _ _ _ _
        (Keeps.By1.fst hh)))

theorem dropStaged_keeps {r0 : State} (s : State) (i : Nat) (id : Nat) (x : IdxRec) (h0 : Keeps r0 s) :
    Keeps r0 (dropStaged s i id x) := by
  unfold dropStaged
  with_reducible apply Keeps.ite
  · extract_lets -underBinder +onlyGivenNames w; clear_value w
    extract_lets -underBinder +onlyGivenNames a; clear_value a
    extract_lets -underBinder +onlyGivenNames io1
    have hio1 : Keeps.By Io.s r0 io1 := by
      subst io1
      with_reducible apply Keeps.By.foldl
      · exact Keeps.toIo h0
      · exact fun _ _ _ => dropSlot_keeps _ _ _ _ _ (by assumption)
    clear_value io1
    extract_lets -underBinder +onlyGivenNames r
    have hr : Keeps.By1 Io.s r0 r := by
      subst r
      with_reducible apply Keeps.By1.ite
      · with_reducible apply Keeps.By1.foldl
        · exact Keeps.toPair hio1
        · exact fun _ _ _ => dropLists_keeps _ _ _ _ _ _ _ (by assumption)
      · with_reducible apply Keeps.toPair
        exact hio1
    clear_value r
    extract_lets -underBinder +onlyGivenNames io3
    have hio3 : Keeps.By Io.s r0 io3 := by subst io3; exact idMapNote_keeps _ _ _ _ (Keeps.By1.fst hr)
    clear_value io3
    exact Keeps.By.io (putIdx_keeps _ _ _ _ hio3)
  · exact h0

theorem resetInst_keeps {r0 : State} (s : State) (p : Pkt) (h0 : Keeps r0 s) :
    Keeps r0 (resetInst s p) := by
  unfold resetInst
  extract_lets -underBinder +onlyGivenNames i; clear_value i
  extract_lets -underBinder +onlyGivenNames s1
  have hs1 : Keeps r0 s1 := by subst s1; exact releaseCtxs_keeps _ _ (disableQueues_keeps _ _ h0)
  clear_value s1
  extract_lets -underBinder +onlyGivenNames y; clear_value y
  extract_lets -underBinder +onlyGivenNames s2
  have hs2 : Keeps r0 s2 := by subst s2; exact State.setInst_keeps _ _ _ hs1
  clear_value s2
  with_reducible apply instDone_keeps
  with_reducible apply Keeps.foldl
  · exact hs2
  · exact fun _ _ _ => dropStaged_keeps _ _ _ _ (by assumption)

theorem execInstReset_keeps {r0 : State} (q : Nat) (idx : Nat) (s : State) (h0 : Keeps r0 s) :
    Keeps.R r0 (execInstReset q idx s) := by
  unfold execInstReset
  exact carryDma_keeps _ _ _ _ _ _ h0 (fun _ _ _ => preReset_keeps _ _ (by assumption)) (fun _ _ _ => resetInst_keeps
    _ _ (by assumption))

theorem longRow_keeps {r0 : State} (q : Nat) (idx : Nat) (code : Nat) (pre : State → Pkt → State × PreFail)
    (first : State → Pkt → State) (again : State → Pkt → State) (s : State)
    (h0 : ∀ a0 a1, Keeps r0 a0 → Keeps.By Prod.fst r0 (pre a0 a1)) (h1 : ∀ a0 a1, Keeps r0 a0 → Keeps r0
    (first a0 a1)) (h2 : ∀ a0 a1, Keeps r0 a0 → Keeps r0 (again a0 a1)) (h3 : Keeps r0 s) :
    Keeps.R r0 (longRow q idx code pre first again s) := by
  unfold longRow
  split
  · with_reducible apply Keeps.R.ite
    · with_reducible apply Keeps.toNext
      with_reducible apply_assumption
      exact h3
    · with_reducible apply carry_keeps
      · exact h3
      · intro _ _ _
        with_reducible apply_assumption
        assumption
      · intro _ _ _
        with_reducible apply_assumption
        assumption
  · exact Keeps.toNext h3

theorem preFreeze_keeps {r0 : State} (s : State) (p : Pkt) (h0 : Keeps r0 s) :
    Keeps.By Prod.fst r0 (preFreeze s p) := by
  unfold preFreeze
  exact Keeps.toFst h0

theorem execInstFreeze_keeps {r0 : State} (q : Nat) (idx : Nat) (s : State) (h0 : Keeps r0 s) :
    Keeps.R r0 (execInstFreeze q idx s) := by
  unfold execInstFreeze
  exact longRow_keeps _ _ _ _ _ _ _ (fun _ _ _ => preFreeze_keeps _ _ (by assumption)) (fun _ _ _ =>
    beginFreeze_keeps _ _ (by assumption)) (fun _ _ _ => finishFreeze_keeps _ _ (by assumption)) h0

theorem preSave_keeps {r0 : State} (s : State) (p : Pkt) (h0 : Keeps r0 s) :
    Keeps.By Prod.fst r0 (preSave s p) := by
  unfold preSave
  exact Keeps.toFst h0

theorem imageOut_keeps {r0 : State} (s : State) (p : Pkt) (h0 : Keeps r0 s) :
    Keeps r0 (imageOut s p) := by
  unfold imageOut
  extract_lets -underBinder +onlyGivenNames i; clear_value i
  extract_lets -underBinder +onlyGivenNames y; clear_value y
  extract_lets -underBinder +onlyGivenNames n; clear_value n
  extract_lets -underBinder +onlyGivenNames y; clear_value y
  extract_lets -underBinder +onlyGivenNames s0
  have hs0 : Keeps r0 s0 := by subst s0; exact State.setInst_keeps _ _ _ h0
  clear_value s0
  with_reducible apply Keeps.ite
  · with_reducible apply complete_keeps
    exact hs0
  · extract_lets -underBinder +onlyGivenNames f
    have hf : Keeps.By Prod.snd r0 f := by subst f; exact State.fresh_keeps hs0
    clear_value f
    exact outAndEnd_keeps _ _ _ _ _ (Keeps.By.snd hf)

theorem execInstSave_keeps {r0 : State} (q : Nat) (idx : Nat) (s : State) (h0 : Keeps r0 s) :
    Keeps.R r0 (execInstSave q idx s) := by
  unfold execInstSave
  exact carryDma_keeps _ _ _ _ _ _ h0 (fun _ _ _ => preSave_keeps _ _ (by assumption)) (fun _ _ _ => imageOut_keeps _
    _ (by assumption))

theorem preThaw_keeps {r0 : State} (s : State) (p : Pkt) (h0 : Keeps r0 s) :
    Keeps.By Prod.fst r0 (preThaw s p) := by
  unfold preThaw
  exact Keeps.toFst h0

theorem thawJob_keeps {r0 : State} (s : State) (j : Job) (h0 : Keeps r0 s) :
    Keeps r0 (thawJob s j) := by
  unfold thawJob
  exact Keeps.ite (thawCarried_keeps _ _ h0) (Keeps.ite (newAttempt_keeps _ _ _ _ h0) (State.setJob_keeps _ _ h0))

theorem execInstRights_keeps {r0 : State} (q : Nat) (idx : Nat) (s : State) (h0 : Keeps r0 s) :
    Keeps.R r0 (execInstRights q idx s) := by
  unfold execInstRights
  with_reducible apply carry_keeps
  · exact h0
  · intro _ _ _
    with_reducible apply preRights_keeps
    assumption
  · intro _ _ _
    extract_lets -underBinder +onlyGivenNames i; clear_value i
    extract_lets -underBinder +onlyGivenNames t1
    have ht1 : Keeps r0 t1 := by
      subst t1
      exact State.setF_keeps _ _ _ (State.setF_keeps _ _ _ (State.setF_keeps _ _ _ (by assumption)))
    clear_value t1
    extract_lets -underBinder +onlyGivenNames st; clear_value st
    extract_lets -underBinder +onlyGivenNames t2
    have ht2 : Keeps r0 t2 := by
      subst t2
      exact Keeps.ite (setInstState_keeps _ _ _ _ ht1) (notice_keeps _ _ _ _ _ _ ht1)
    clear_value t2
    exact instDone_keeps _ _ _ ht2

theorem quiesceJob_keeps {r0 : State} (s : State) (j : Job) (h0 : Keeps r0 s) :
    Keeps r0 (quiesceJob s j) := by
  unfold quiesceJob
  extract_lets -underBinder +onlyGivenNames y; clear_value y
  exact endJob_keeps _ _ _ _ _ (State.setInst_keeps _ _ _ h0)

theorem thawInst_keeps {r0 : State} (s : State) (p : Pkt) (h0 : Keeps r0 s) :
    Keeps r0 (thawInst s p) := by
  unfold thawInst
  extract_lets -underBinder +onlyGivenNames i; clear_value i
  extract_lets -underBinder +onlyGivenNames new; clear_value new
  extract_lets -underBinder +onlyGivenNames s1
  have hs1 : Keeps r0 s1 := by subst s1; exact setInstState_keeps _ _ _ _ h0
  clear_value s1
  extract_lets -underBinder +onlyGivenNames y; clear_value y
  extract_lets -underBinder +onlyGivenNames s2
  have hs2 : Keeps r0 s2 := by subst s2; exact State.setInst_keeps _ _ _ (State.setF_keeps _ _ _ hs1)
  clear_value s2
  extract_lets -underBinder +onlyGivenNames s3
  have hs3 : Keeps r0 s3 := by
    subst s3
    with_reducible apply Keeps.foldl
    · exact hs2
    · exact fun _ _ _ => thawJob_keeps _ _ (by assumption)
  clear_value s3
  with_reducible apply instDone_keeps
  with_reducible apply Keeps.foldl
  · exact hs3
  · exact fun _ _ _ => flush_keeps _ _ (by assumption)

theorem execInstThaw_keeps {r0 : State} (q : Nat) (idx : Nat) (s : State) (h0 : Keeps r0 s) :
    Keeps.R r0 (execInstThaw q idx s) := by
  unfold execInstThaw
  exact carryDma_keeps _ _ _ _ _ _ h0 (fun _ _ _ => preThaw_keeps _ _ (by assumption)) (fun _ _ _ => thawInst_keeps _
    _ (by assumption))

theorem finishQuiesce_keeps {r0 : State} (s : State) (p : Pkt) (h0 : Keeps r0 s) :
    Keeps r0 (finishQuiesce s p) := by
  unfold finishQuiesce
  extract_lets -underBinder +onlyGivenNames i; clear_value i
  with_reducible apply Keeps.ite
  · extract_lets -underBinder +onlyGivenNames n; clear_value n
    exact instDone_keeps _ _ _ (setInstState_keeps _ _ _ _ h0)
  · exact h0

theorem beginQuiesce_keeps {r0 : State} (s : State) (p : Pkt) (h0 : Keeps r0 s) :
    Keeps r0 (beginQuiesce s p) := by
  unfold beginQuiesce
  extract_lets -underBinder +onlyGivenNames i; clear_value i
  with_reducible apply Keeps.ite
  · with_reducible apply instDone_keeps
    exact h0
  · extract_lets -underBinder +onlyGivenNames mode; clear_value mode
    extract_lets -underBinder +onlyGivenNames p1; clear_value p1
    extract_lets -underBinder +onlyGivenNames y; clear_value y
    extract_lets -underBinder +onlyGivenNames s1
    have hs1 : Keeps r0 s1 := by subst s1; exact State.setInst_keeps _ _ _ (State.setPkt_keeps _ _ h0)
    clear_value s1
    extract_lets -underBinder +onlyGivenNames s2
    have hs2 : Keeps r0 s2 := by subst s2; exact startTick_keeps _ _ hs1
    clear_value s2
    extract_lets -underBinder +onlyGivenNames s3
    have hs3 : Keeps r0 s3 := by subst s3; exact quiesceThese_keeps _ _ hs2
    clear_value s3
    with_reducible apply finishQuiesce_keeps
    with_reducible apply Keeps.foldl
    · exact hs3
    · exact fun _ _ _ => quiesceJob_keeps _ _ (by assumption)

theorem preQuiesce_keeps {r0 : State} (x0 : State) (x1 : Pkt) (h0 : Keeps r0 x0) :
    Keeps.By Prod.fst r0 (preQuiesce x0 x1) := by
  unfold preQuiesce
  exact preRunning_keeps _ _ _ h0

theorem execInstQuiesce_keeps {r0 : State} (q : Nat) (idx : Nat) (s : State) (h0 : Keeps r0 s) :
    Keeps.R r0 (execInstQuiesce q idx s) := by
  unfold execInstQuiesce
  exact longRow_keeps _ _ _ _ _ _ _ (fun _ _ _ => preQuiesce_keeps _ _ (by assumption)) (fun _ _ _ =>
    beginQuiesce_keeps _ _ (by assumption)) (fun _ _ _ => finishQuiesce_keeps _ _ (by assumption)) h0

theorem execInstRemove_keeps {r0 : State} (q : Nat) (idx : Nat) (s : State) (h0 : Keeps r0 s) :
    Keeps.R r0 (execInstRemove q idx s) := by
  unfold execInstRemove
  exact longRow_keeps _ _ _ _ _ _ _ (fun _ _ _ => preRemove_keeps _ _ (by assumption)) (fun _ _ _ =>
    beginRemove_keeps _ _ (by assumption)) (fun _ _ _ => finishRemove_keeps _ _ (by assumption)) h0

/-! ### PadCmds -/

theorem execPadParkEnd_keeps {r0 : State} (pad : Nat) (level : Bool) (s : State) (h0 : Keeps r0 s) :
    Keeps.R r0 (execPadParkEnd pad level s) := by
  unfold execPadParkEnd
  exact Keeps.toNext (Keeps.ite (padEnd_keeps _ _ _ h0) h0)

theorem tapSelect_keeps {r0 : State} (s : State) (code : Nat) (h0 : Keeps r0 s) :
    Keeps r0 (tapSelect s code) := by
  unfold tapSelect
  with_reducible exact padsChange_keeps _ (Keeps.upd h0 rfl rfl rfl rfl rfl rfl)

theorem tapScan_keeps {r0 : State} (s : State) (code : Nat) (h0 : Keeps r0 s) :
    Keeps r0 (tapScan s code) := by
  unfold tapScan
  with_reducible exact Keeps.ite (padsChange_keeps _ (Keeps.upd h0 rfl rfl rfl rfl rfl rfl)) (tapSelect_keeps _ _
                   (forbid_keeps _ _ _ _ h0))

theorem execTapReset_keeps {r0 : State} (s : State) (h0 : Keeps r0 s) :
    Keeps.R r0 (execTapReset s) := by
  unfold execTapReset
  exact Keeps.toNext (tapSelect_keeps _ _ h0)

theorem redrive_keeps {r0 : State} (s : State) (n : Nat) (h0 : Keeps r0 s) :
    Keeps r0 (redrive s n) := by
  unfold redrive
  extract_lets -underBinder +onlyGivenNames p; subst p
  with_reducible apply Keeps.ite
  · exact h0
  · split
    · exact h0
    · exact padPush_keeps _ _ _ _ _ h0

theorem evtCtrl_keeps {r0 : State} (s : State) (m : BusMaster) (gen : Nat) (v : Nat) (h0 : Keeps r0 s) :
    Keeps r0 (evtCtrl s m gen v) := by
  unfold evtCtrl
  extract_lets -underBinder +onlyGivenNames a; clear_value a
  extract_lets -underBinder +onlyGivenNames was; clear_value was
  extract_lets -underBinder +onlyGivenNames p; clear_value p
  extract_lets -underBinder +onlyGivenNames w; clear_value w
  with_reducible apply Keeps.ite
  · extract_lets -underBinder +onlyGivenNames r
    have hr : Keeps.By Prod.fst r0 r := by subst r; exact plainWrite_keeps _ _ _ _ h0
    clear_value r
    exact Keeps.ite (redrive_keeps _ _ (forbid_keeps _ _ _ _ (Keeps.By.fst hr))) (Keeps.By.fst hr)
  · extract_lets -underBinder +onlyGivenNames r
    have hr : Keeps.By Prod.fst r0 r := by subst r; exact plainWrite_keeps _ _ _ _ h0
    clear_value r
    with_reducible apply Keeps.ite
    · extract_lets -underBinder +onlyGivenNames on; clear_value on
      extract_lets -underBinder +onlyGivenNames y; subst y
      extract_lets -underBinder +onlyGivenNames s1
      have hs1 : Keeps r0 s1 := by
        subst s1
        exact Keeps.ite (State.setEvt_keeps _ _ _ (Keeps.By.fst hr)) (Keeps.ite (Keeps.By.fst hr) (State.setEvt_keeps
          _ _ _ (Keeps.By.fst hr)))
      clear_value s1
      exact redrive_keeps _ _ hs1
    · with_reducible apply Keeps.By.fst
      exact hr

theorem execEvtEnableWrite_keeps {r0 : State} (m : BusMaster) (gen : Nat) (v : Word) (s : State) (h0 : Keeps r0 s) :
    Keeps.R r0 (execEvtEnableWrite m gen v s) := by
  unfold execEvtEnableWrite
  exact Keeps.toNext (Keeps.ite (evtCtrl_keeps _ _ _ _ (masterDemand_keeps _ _ h0)) h0)

theorem padCfgWrite_keeps {r0 : State} (s : State) (m : BusMaster) (pad : Nat) (v : Nat) (h0 : Keeps r0 s) :
    Keeps r0 (padCfgWrite s m pad v) := by
  unfold padCfgWrite
  extract_lets -underBinder +onlyGivenNames r
  have hr : Keeps.By Prod.fst r0 r := by subst r; exact plainWrite_keeps _ _ _ _ h0
  clear_value r
  exact Keeps.ite (redrive_keeps _ _ (padChange_keeps _ _ (Keeps.By.fst hr))) (Keeps.By.fst hr)

theorem scanShift_keeps {r0 : State} (s : State) (preload : List Bool) (h0 : Keeps r0 s) :
    Keeps r0 (scanShift s preload) := by
  unfold scanShift
  extract_lets -underBinder +onlyGivenNames f
  have hf : Keeps.By Prod.snd r0 f := by subst f; exact State.fresh_keeps h0
  clear_value f
  extract_lets -underBinder +onlyGivenNames n; clear_value n
  extract_lets -underBinder +onlyGivenNames cap; clear_value cap
  extract_lets -underBinder +onlyGivenNames all; clear_value all
  extract_lets -underBinder +onlyGivenNames y
  have hy : Keeps r0 y := by subst y; exact Keeps.By.snd hf
  clear_value y
  with_reducible exact Keeps.upd hy rfl rfl rfl rfl rfl rfl

theorem execTapSamplePreload_keeps {r0 : State} (preload : List Bool) (s : State) (h0 : Keeps r0 s) :
    Keeps.R r0 (execTapSamplePreload preload s) := by
  unfold execTapSamplePreload
  exact Keeps.toNext (tapSelect_keeps _ _ (scanShift_keeps _ _ h0))

theorem execTapExtest_keeps {r0 : State} (s : State) (h0 : Keeps r0 s) :
    Keeps.R r0 (execTapExtest s) := by
  unfold execTapExtest
  exact Keeps.toNext (tapScan_keeps _ _ h0)

theorem redriveAll_keeps {r0 : State} (s : State) (h0 : Keeps r0 s) :
    Keeps r0 (redriveAll s) := by
  unfold redriveAll
  with_reducible apply Keeps.foldl
  · exact h0
  · exact fun _ _ _ => redrive_keeps _ _ (by assumption)

theorem execTapClamp_keeps {r0 : State} (s : State) (h0 : Keeps r0 s) :
    Keeps.R r0 (execTapClamp s) := by
  unfold execTapClamp
  exact Keeps.toNext (tapScan_keeps _ _ h0)

theorem execTapIdcode_keeps {r0 : State} (s : State) (h0 : Keeps r0 s) :
    Keeps.R r0 (execTapIdcode s) := by
  unfold execTapIdcode
  extract_lets -underBinder +onlyGivenNames s1
  have hs1 : Keeps r0 s1 := by subst s1; exact tapSelect_keeps _ _ h0
  clear_value s1
  with_reducible exact Keeps.toNext (Keeps.upd hs1 rfl rfl rfl rfl rfl rfl)

theorem execTapBypass_keeps {r0 : State} (code : Nat) (s : State) (h0 : Keeps r0 s) :
    Keeps.R r0 (execTapBypass code s) := by
  unfold execTapBypass
  exact Keeps.toNext (Keeps.ite (tapSelect_keeps _ _ h0) h0)

theorem execTapHighz_keeps {r0 : State} (s : State) (h0 : Keeps r0 s) :
    Keeps.R r0 (execTapHighz s) := by
  unfold execTapHighz
  exact Keeps.toNext (tapScan_keeps _ _ h0)

theorem execEvtPulseEnd_keeps {r0 : State} (gen : Nat) (s : State) (h0 : Keeps r0 s) :
    Keeps.R r0 (execEvtPulseEnd gen s) := by
  unfold execEvtPulseEnd
  extract_lets -underBinder +onlyGivenNames y; subst y
  exact Keeps.toNext (Keeps.ite (redrive_keeps _ _ (State.setEvt_keeps _ _ _ h0)) h0)

theorem evtTiming_keeps {r0 : State} (s : State) (m : BusMaster) (gen : Nat) (a : Nat) (v : Nat) (h0 : Keeps r0 s) :
    Keeps r0 (evtTiming s m gen a v) := by
  unfold evtTiming
  exact Keeps.ite (forbid_keeps _ _ _ _ h0) (Keeps.By.fst (plainWrite_keeps _ _ _ _ h0))

theorem execEvtPulseStart_keeps {r0 : State} (gen : Nat) (s : State) (h0 : Keeps r0 s) :
    Keeps.R r0 (execEvtPulseStart gen s) := by
  unfold execEvtPulseStart
  extract_lets -underBinder +onlyGivenNames y; subst y
  exact Keeps.toNext (Keeps.ite (redrive_keeps _ _ (State.addWrap_keeps _ _ _ (State.setEvt_keeps _ _ _ h0))) h0)

theorem execPadFunctionChange_keeps {r0 : State} (m : BusMaster) (pad : Nat) (v : Word) (s : State)
    (h0 : Keeps r0 s) :
    Keeps.R r0 (execPadFunctionChange m pad v s) := by
  unfold execPadFunctionChange
  exact Keeps.toNext (Keeps.ite (padCfgWrite_keeps _ _ _ _ (masterDemand_keeps _ _ h0)) h0)

/-! ### BusCmds -/

theorem moveManager_keeps {r0 : State} (s : State) (old : Nat) (new : Nat) (h0 : Keeps r0 s) :
    Keeps r0 (moveManager s old new) := by
  unfold moveManager
  extract_lets -underBinder +onlyGivenNames s1
  have hs1 : Keeps r0 s1 := by subst s1; exact State.wr_keeps _ _ (State.wr_keeps _ _ h0)
  clear_value s1
  extract_lets -underBinder +onlyGivenNames was; clear_value was
  extract_lets -underBinder +onlyGivenNames y; clear_value y
  extract_lets -underBinder +onlyGivenNames s2
  have hs2 : Keeps r0 s2 := by subst s2; exact notice_keeps _ _ _ _ _ _ (State.setF_keeps _ _ _ hs1)
  clear_value s2
  exact notice_keeps _ _ _ _ _ _ hs2

theorem instCtrlWrite_keeps {r0 : State} (s : State) (m : BusMaster) (v : Nat) (h0 : Keeps r0 s) :
    Keeps r0 (instCtrlWrite s m v) := by
  unfold instCtrlWrite
  extract_lets -underBinder +onlyGivenNames old; clear_value old
  extract_lets -underBinder +onlyGivenNames new; clear_value new
  extract_lets -underBinder +onlyGivenNames locked; clear_value locked
  exact Keeps.ite (Keeps.By.fst (plainWrite_keeps _ _ _ _ h0)) (guarded_keeps _ _ _ _ _ h0 (fun _ _ => Keeps.ite
    (forbid_keeps _ _ _ _ (by assumption)) (moveManager_keeps _ _ _ (Keeps.By.fst (plainWrite_keeps _ _ _ _ (by
    assumption))))))

theorem execManagerWrite_keeps {r0 : State} (m : BusMaster) (v : Word) (s : State) (h0 : Keeps r0 s) :
    Keeps.R r0 (execManagerWrite m v s) := by
  unfold execManagerWrite
  exact Keeps.toNext (instCtrlWrite_keeps _ _ _ (masterDemand_keeps _ _ h0))

theorem execLockSet_keeps {r0 : State} (m : BusMaster) (addr : Nat) (s : State) (h0 : Keeps r0 s) :
    Keeps.R r0 (execLockSet m addr s) := by
  unfold execLockSet
  with_reducible apply Keeps.toNext
  split
  · exact Keeps.ite h0 (Keeps.ite (answered_keeps _ _ (Keeps.By.fst (plainWrite_keeps _ _ _ _ (busDemand_keeps _ _ _
      h0)))) (answered_keeps _ _ h0))
  · exact h0

theorem qsClearWrite_keeps {r0 : State} (s : State) (m : BusMaster) (v : Nat) (h0 : Keeps r0 s) :
    Keeps r0 (qsClearWrite s m v) := by
  unfold qsClearWrite
  extract_lets -underBinder +onlyGivenNames r
  have hr : Keeps.By Prod.fst r0 r := by subst r; exact plainWrite_keeps _ _ _ _ h0
  clear_value r
  exact Keeps.ite (qsClear_keeps _ _ _ (Keeps.By.fst hr)) (Keeps.By.fst hr)

theorem execQsClear_keeps {r0 : State} (m : BusMaster) (v : Word) (s : State) (h0 : Keeps r0 s) :
    Keeps.R r0 (execQsClear m v s) := by
  unfold execQsClear
  exact Keeps.toNext (Keeps.ite (answered_keeps _ _ (qsClearWrite_keeps _ _ _ (busDemand_keeps _ _ _ h0)))
    (answered_keeps _ _ h0))

theorem qsetWrite_keeps {r0 : State} (s : State) (m : BusMaster) (q : Nat) (a : Nat) (v : Nat) (h0 : Keeps r0 s) :
    Keeps r0 (qsetWrite s m q a v) := by
  unfold qsetWrite
  exact Keeps.ite (Keeps.ite h0 (forbid_keeps _ _ _ _ h0)) (Keeps.By.fst (plainWrite_keeps _ _ _ _ h0))

theorem mboxWrite_keeps {r0 : State} (s : State) (m : BusMaster) (i : Nat) (hi : Bool) (v : Nat) (h0 : Keeps r0 s) :
    Keeps r0 (mboxWrite s m i hi v) := by
  unfold mboxWrite
  extract_lets -underBinder +onlyGivenNames a; clear_value a
  with_reducible apply guarded_keeps
  · exact h0
  · intro _ _
    extract_lets -underBinder +onlyGivenNames pa; clear_value pa
    with_reducible apply Keeps.ite
    · extract_lets -underBinder +onlyGivenNames t1
      have ht1 : Keeps r0 t1 := by subst t1; exact Keeps.By.fst (plainWrite_keeps _ _ _ _ (by assumption))
      clear_value t1
      exact State.setInst_keeps _ _ _ ht1
    · with_reducible apply forbid_keeps
      assumption

theorem mboxRing_keeps {r0 : State} (s : State) (m : BusMaster) (i : Nat) (v : Nat) (h0 : Keeps r0 s) :
    Keeps r0 (mboxRing s m i v) := by
  unfold mboxRing
  split
  · exact h0
  · extract_lets -underBinder +onlyGivenNames ok; clear_value ok
    extract_lets -underBinder +onlyGivenNames s1
    have hs1 : Keeps r0 s1 := by subst s1; exact Keeps.By.fst (plainWrite_keeps _ _ _ _ h0)
    clear_value s1
    extract_lets -underBinder +onlyGivenNames s2
    have hs2 : Keeps r0 s2 := by subst s2; exact Keeps.ite (raiseHost_keeps _ _ (State.setF_keeps _ _ _ hs1)) hs1
    clear_value s2
    exact Keeps.ite (raiseHost_keeps _ _ (State.setF_keeps _ _ _ hs2)) hs2

theorem execRingTen_keeps {r0 : State} (m : BusMaster) (inst : Nat) (s : State) (h0 : Keeps r0 s) :
    Keeps.R r0 (execRingTen m inst s) := by
  unfold execRingTen
  exact Keeps.toNext (Keeps.ite (mboxRing_keeps _ _ _ _ (masterDemand_keeps _ _ h0)) h0)

theorem sweepPeriodWrite_keeps {r0 : State} (s : State) (m : BusMaster) (a : Nat) (v : Nat) (h0 : Keeps r0 s) :
    Keeps r0 (sweepPeriodWrite s m a v) := by
  unfold sweepPeriodWrite
  extract_lets -underBinder +onlyGivenNames r
  have hr : Keeps.By Prod.fst r0 r := by subst r; exact plainWrite_keeps _ _ _ _ h0
  clear_value r
  exact Keeps.ite (setSweepPeriod_keeps _ _ h0) (Keeps.By.fst hr)

theorem execRingMgr_keeps {r0 : State} (m : BusMaster) (inst : Nat) (s : State) (h0 : Keeps r0 s) :
    Keeps.R r0 (execRingMgr m inst s) := by
  unfold execRingMgr
  exact Keeps.toNext (Keeps.ite (mboxRing_keeps _ _ _ _ (masterDemand_keeps _ _ h0)) h0)

theorem padSetClr_keeps {r0 : State} (s : State) (m : BusMaster) (k : Nat) (a : Nat) (v : Nat) (set : Bool)
    (h0 : Keeps r0 s) :
    Keeps r0 (padSetClr s m k a v set) := by
  unfold padSetClr
  split
  · exact h0
  · extract_lets -underBinder +onlyGivenNames ok; clear_value ok
    extract_lets -underBinder +onlyGivenNames s1
    have hs1 : Keeps r0 s1 := by subst s1; exact Keeps.By.fst (plainWrite_keeps _ _ _ _ h0)
    clear_value s1
    extract_lets -underBinder +onlyGivenNames s2
    have hs2 : Keeps r0 s2 := by subst s2; exact State.wr_keeps _ _ hs1
    clear_value s2
    extract_lets -underBinder +onlyGivenNames cur; clear_value cur
    exact redriveAll_keeps _ (State.wr_keeps _ _ hs2)

theorem execQsCountRead_keeps {r0 : State} (m : BusMaster) (lane : Nat) (slot : Nat) (s : State) (h0 : Keeps r0 s) :
    Keeps.R r0 (execQsCountRead m lane slot s) := by
  unfold execQsCountRead
  exact Keeps.toNext (Keeps.ite (regRead_keeps _ _ (busDemand_keeps _ _ _ h0)) h0)

theorem execMboxAddressWrite_keeps {r0 : State} (m : BusMaster) (inst : Nat) (hi : Bool) (v : Word) (s : State)
    (h0 : Keeps r0 s) :
    Keeps.R r0 (execMboxAddressWrite m inst hi v s) := by
  unfold execMboxAddressWrite
  exact Keeps.toNext (Keeps.ite (mboxWrite_keeps _ _ _ _ _ (masterDemand_keeps _ _ h0)) h0)

theorem domCtrlWrite_keeps {r0 : State} (s : State) (m : BusMaster) (d : Nat) (v : Nat) (h0 : Keeps r0 s) :
    Keeps r0 (domCtrlWrite s m d v) := by
  unfold domCtrlWrite
  with_reducible apply Keeps.ite
  · exact h0
  · with_reducible apply Keeps.ite
    · with_reducible apply guarded_keeps
      · exact h0
      · intro _ _
        with_reducible apply forbid_keeps
        assumption
    · extract_lets -underBinder +onlyGivenNames r
      have hr : Keeps.By Prod.fst r0 r := by subst r; exact plainWrite_keeps _ _ _ _ h0
      clear_value r
      exact Keeps.ite (refreshDom_keeps _ _ (Keeps.By.fst hr)) (Keeps.By.fst hr)

theorem wakeStatusWrite_keeps {r0 : State} (s : State) (m : BusMaster) (a : Nat) (v : Nat) (h0 : Keeps r0 s) :
    Keeps r0 (wakeStatusWrite s m a v) := by
  unfold wakeStatusWrite
  extract_lets -underBinder +onlyGivenNames fresh; clear_value fresh
  extract_lets -underBinder +onlyGivenNames t
  have ht : Keeps r0 t := by subst t; exact Keeps.By.fst (plainWrite_keeps _ _ _ _ h0)
  clear_value t
  exact State.wr_keeps _ _ ht

theorem thenDo_keeps {r0 : State} (f : State → Nat → State) (s : State) (m : BusMaster) (i : Nat) (a : Nat)
    (v : Nat) (h0 : ∀ a0 a1, Keeps r0 a0 → Keeps r0 (f a0 a1)) (h1 : Keeps r0 s) :
    Keeps r0 (thenDo f s m i a v) := by
  unfold thenDo
  extract_lets -underBinder +onlyGivenNames r
  have hr : Keeps.By Prod.fst r0 r := by subst r; exact plainWrite_keeps _ _ _ _ h1
  clear_value r
  with_reducible apply Keeps.ite
  · with_reducible apply_assumption
    exact Keeps.By.fst hr
  · with_reducible apply Keeps.By.fst
    exact hr

theorem ringCtrlWrite_keeps {r0 : State} (s : State) (m : BusMaster) (v : Nat) (h0 : Keeps r0 s) :
    Keeps r0 (ringCtrlWrite s m v) := by
  unfold ringCtrlWrite
  with_reducible apply guarded_keeps
  · exact h0
  · intro _ _
    extract_lets -underBinder +onlyGivenNames a; clear_value a
    extract_lets -underBinder +onlyGivenNames b; clear_value b
    extract_lets -underBinder +onlyGivenNames t1
    have ht1 : Keeps r0 t1 := by subst t1; exact Keeps.By.fst (plainWrite_keeps _ _ _ _ (by assumption))
    clear_value t1
    extract_lets -underBinder +onlyGivenNames na; clear_value na
    extract_lets -underBinder +onlyGivenNames nb; clear_value nb
    extract_lets -underBinder +onlyGivenNames t2
    have ht2 : Keeps r0 t2 := by subst t2; exact State.setF_keeps _ _ _ (State.setF_keeps _ _ _ ht1)
    clear_value t2
    exact portEnable_keeps _ _ _ (portEnable_keeps _ _ _ ht2)

theorem xltWrite_keeps {r0 : State} (s : State) (m : BusMaster) (i : Nat) (a : Nat) (v : Nat) (h0 : Keeps r0 s) :
    Keeps r0 (xltWrite s m i a v) := by
  unfold xltWrite
  extract_lets -underBinder +onlyGivenNames t
  have ht : Keeps r0 t := by subst t; exact Keeps.By.fst (plainWrite_keeps _ _ _ _ h0)
  clear_value t
  exact State.setInst_keeps _ _ _ ht

theorem laterWrite_keeps {r0 : State} (s : State) (m : BusMaster) (key : Nat) (a : Nat) (v : Nat) (h0 : Keeps r0 s) :
    Keeps r0 (laterWrite s m key a v) := by
  unfold laterWrite
  extract_lets -underBinder +onlyGivenNames r
  have hr : Keeps.By Prod.fst r0 r := by subst r; exact plainWrite_keeps _ _ _ _ h0
  clear_value r
  with_reducible apply Keeps.ite
  · extract_lets -underBinder +onlyGivenNames t
    have ht : Keeps r0 t := by subst t; exact Keeps.By.fst hr
    clear_value t
    extract_lets -underBinder +onlyGivenNames new; clear_value new
    with_reducible exact Keeps.upd ht rfl rfl rfl rfl rfl rfl
  · with_reducible apply Keeps.By.fst
    exact hr

theorem regEffect_keeps {r0 : State} (name : String) (s : State) (m : BusMaster) (i a v : Nat) (h0 : Keeps r0 s) :
    Keeps r0 (regEffect name s m i a v) := by
  have key : ∀ e ∈ busTable, ∀ (s : State) (m : BusMaster) (i a v : Nat), Keeps r0 s → Keeps r0 (e.2 s m i a v) := by
    simp only [busTable, List.cons_append, List.nil_append, List.forall_mem_cons]
    refine ⟨?_, ?_, ?_, ?_, ?_, ?_, ?_, ?_, ?_, ?_, ?_, ?_, ?_, ?_, ?_, ?_, ?_, ?_, ?_, ?_, ?_, ?_, ?_, ?_, ?_, ?_,
      ?_, ?_, ?_, ?_, ?_, ?_, ?_, ?_, ?_, ?_, ?_, ?_, ?_, fun _ h => nomatch h⟩
    all_goals intro s m i a v h0
    · exact aliveWrite_keeps _ _ _ h0
    · exact bootCtrlWrite_keeps _ _ _ h0
    · exact sweepPeriodWrite_keeps _ _ _ _ h0
    · exact wakeStatusWrite_keeps _ _ _ _ h0
    · exact thenDo_keeps _ _ _ _ _ _ (fun _ _ _ => updCap_keeps _ (by assumption)) h0
    · exact domCtrlWrite_keeps _ _ _ _ h0
    · exact rateWrite_keeps _ _ _ h0
    · exact guarded_keeps _ _ _ _ _ h0 (fun _ _ => vlogRd_keeps _ _ _ (by assumption))
    · exact guarded_keeps _ _ _ _ _ h0 (fun _ _ => qsetWrite_keeps _ _ _ _ _ (by assumption))
    · exact guarded_keeps _ _ _ _ _ h0 (fun _ _ => qsetWrite_keeps _ _ _ _ _ (by assumption))
    · exact guarded_keeps _ _ _ _ _ h0 (fun _ _ => qsetWrite_keeps _ _ _ _ _ (by assumption))
    · exact guarded_keeps _ _ _ _ _ h0 (fun _ _ => qsetWrite_keeps _ _ _ _ _ (by assumption))
    · exact guarded_keeps _ _ _ _ _ h0 (fun _ _ => qcfgWrite_keeps _ _ _ _ (by assumption))
    · exact guarded_keeps _ _ _ _ _ h0 (fun _ _ => doorbell_keeps _ _ _ _ (by assumption))
    · exact ringCtrlWrite_keeps _ _ _ h0
    · exact guarded_keeps _ _ _ _ _ h0 (fun _ _ => pbufRd_keeps _ _ _ (by assumption))
    · exact thenDo_keeps _ _ _ _ _ _ (fun _ _ _ => redriveAll_keeps _ (by assumption)) h0
    · exact thenDo_keeps _ _ _ _ _ _ (fun _ _ _ => redriveAll_keeps _ (by assumption)) h0
    · exact padSetClr_keeps _ _ _ _ _ _ h0
    · exact padSetClr_keeps _ _ _ _ _ _ h0
    · exact thenDo_keeps _ _ _ _ _ _ (fun _ _ _ => padsChange_keeps _ (by assumption)) h0
    · exact padCfgWrite_keeps _ _ _ _ h0
    · exact evtTiming_keeps _ _ _ _ _ h0
    · exact evtTiming_keeps _ _ _ _ _ h0
    · exact evtTiming_keeps _ _ _ _ _ h0
    · exact evtTiming_keeps _ _ _ _ _ h0
    · exact evtCtrl_keeps _ _ _ _ h0
    · exact instCtrlWrite_keeps _ _ _ h0
    · exact mboxWrite_keeps _ _ _ _ _ h0
    · exact mboxWrite_keeps _ _ _ _ _ h0
    · exact mboxRing_keeps _ _ _ _ h0
    · exact xltWrite_keeps _ _ _ _ _ h0
    · exact xltWrite_keeps _ _ _ _ _ h0
    · exact xltWrite_keeps _ _ _ _ _ h0
    · exact laterWrite_keeps _ _ _ _ _ h0
    · exact laterWrite_keeps _ _ _ _ _ h0
    · exact qsClearWrite_keeps _ _ _ h0
    · exact netRingWrite_keeps _ _ _ (Keeps.By.fst (plainWrite_keeps _ _ _ _ h0))
    · exact thenDo_keeps _ _ _ _ _ _ (fun _ _ _ => redriveAll_keeps _ (by assumption)) h0
  unfold regEffect
  cases h : busTable.find? fun e => decide (e.1 = name) with
  | none => exact Keeps.By.fst (plainWrite_keeps _ _ _ _ h0)
  | some e => exact key e (List.mem_of_find?_eq_some h) _ _ _ _ _ h0

theorem busWrite_keeps {r0 : State} (s : State) (m : BusMaster) (a : Nat) (v : Nat) (h0 : Keeps r0 s) :
    Keeps r0 (busWrite s m a v) := by
  unfold busWrite
  with_reducible apply Keeps.ite
  · with_reducible apply forbid_keeps
    exact h0
  · with_reducible apply Keeps.ite
    · exact h0
    · split
      · exact h0
      · exact regEffect_keeps _ _ _ _ _ _ h0

theorem execRegisterWrite_keeps {r0 : State} (m : BusMaster) (addr : Nat) (v : Word) (s : State) (h0 : Keeps r0 s) :
    Keeps.R r0 (execRegisterWrite m addr v s) := by
  unfold execRegisterWrite
  exact Keeps.toNext (Keeps.ite (answered_keeps _ _ (busWrite_keeps _ _ _ _ (busDemand_keeps _ _ _ h0))) (Keeps.ite
    (answered_keeps _ _ h0) h0))

theorem readZero_keeps {r0 : State} (s : State) (h0 : Keeps r0 s) :
    Keeps r0 (readZero s) := by
  unfold readZero
  with_reducible exact Keeps.upd h0 rfl rfl rfl rfl rfl rfl

theorem execForbiddenRegisterRead_keeps {r0 : State} (m : BusMaster) (addr : Nat) (s : State) (h0 : Keeps r0 s) :
    Keeps.R r0 (execForbiddenRegisterRead m addr s) := by
  unfold execForbiddenRegisterRead
  exact Keeps.toNext (Keeps.ite (readZero_keeps _ (forbid_keeps _ _ _ _ (masterDemand_keeps _ _ h0))) h0)

/-! ### DmaCmds -/

theorem pcieErr_keeps {r0 : State} (s : State) (k : Nat) (h0 : Keeps r0 s) :
    Keeps r0 (pcieErr s k) := by
  unfold pcieErr
  exact State.addSat_keeps _ _ _ h0

theorem pcieDone_keeps {r0 : State} (s : State) (k : Nat) (st : Nat) (bs : List Byte) (h0 : Keeps r0 s) :
    Keeps r0 (pcieDone s k st bs) := by
  unfold pcieDone
  with_reducible exact Keeps.upd h0 rfl rfl rfl rfl rfl rfl

theorem pcieMem_keeps {r0 : State} (s : State) (k : Nat) (r : PcieReq) (h0 : Keeps r0 s) :
    Keeps r0 (pcieMem s k r) := by
  unfold pcieMem
  extract_lets -underBinder +onlyGivenNames w; clear_value w
  with_reducible apply Keeps.ite
  · split
    · exact Keeps.By.eq_fst (by assumption) (dmaWrite_keeps _ _ _ _ h0)
    · exact pcieErr_keeps _ _ (Keeps.By.eq_fst (by assumption) (dmaWrite_keeps _ _ _ _ h0))
  · split
    · exact pcieDone_keeps _ _ _ _ (Keeps.By.eq_fst (by assumption) (dmaRead_keeps _ _ _ _ h0))
    · exact pcieDone_keeps _ _ _ _ (pcieErr_keeps _ _ (Keeps.By.eq_fst (by assumption) (dmaRead_keeps _ _ _ _ h0)))
    · exact pcieDone_keeps _ _ _ _ (pcieErr_keeps _ _ (Keeps.By.eq_fst (by assumption) (dmaRead_keeps _ _ _ _ h0)))

theorem hostGets_keeps {r0 : State} (s : State) (data : Nat) (fault : Bool) (h0 : Keeps r0 s) :
    Keeps r0 (hostGets s data fault) := by
  unfold hostGets
  with_reducible exact Keeps.upd h0 rfl rfl rfl rfl rfl rfl

theorem poisonOnce_keeps {r0 : State} (s : State) (pa : Nat) (kind : Nat) (master : Nat) (h0 : Keeps r0 s) :
    Keeps r0 (poisonOnce s pa kind master) := by
  unfold poisonOnce
  exact Keeps.ite h0 (poisonLine_keeps _ _ _ _ h0)

theorem cacheDrop_keeps {r0 : State} (s : State) (line : Nat) (h0 : Keeps r0 s) :
    Keeps r0 (cacheDrop s line) := by
  unfold cacheDrop
  with_reducible exact Keeps.upd h0 rfl rfl rfl rfl rfl rfl

theorem lineError_keeps {r0 : State} (s : State) (addr : Nat) (master : Nat) (x3 : ReadError) (h0 : Keeps r0 s) :
    Keeps r0 (lineError s addr master x3) := by
  unfold lineError
  split
  · exact Keeps.ite (State.addSat_keeps _ _ _ h0) h0
  · exact poisonOnce_keeps _ _ _ _ h0
  · exact Keeps.ite h0 (Keeps.ite (poisonOnce_keeps _ _ _ _ h0) (cacheDrop_keeps _ _ h0))
  · exact Keeps.ite (State.addSat_keeps _ _ _ h0) h0
  · exact Keeps.ite (State.addSat_keeps _ _ _ h0) h0
  · exact Keeps.ite (poisonOnce_keeps _ _ _ _ h0) h0

theorem reloadMain_keeps {r0 : State} (s : State) (line : Nat) (h0 : Keeps r0 s) :
    Keeps r0 (reloadMain s line) := by
  unfold reloadMain
  with_reducible exact Keeps.upd h0 rfl rfl rfl rfl rfl rfl

theorem poisonSeen_keeps {r0 : State} (s : State) (pa : Nat) (x2 : PoisonReader) (h0 : Keeps r0 s) :
    Keeps r0 (poisonSeen s pa x2) := by
  unfold poisonSeen
  split
  · split
    · exact Keeps.ite (jobPoison_keeps _ _ _ h0) h0
    · exact h0
  · exact hostGets_keeps _ _ _ h0
  · split
    · exact xltRecord_keeps _ _ _ _ _ _ (Keeps.By.eq_fst (by assumption) (xlateEntry_keeps _ _ _ h0))
    · exact xltRecord_keeps _ _ _ _ _ _ (Keeps.By.eq_fst (by assumption) (xlateEntry_keeps _ _ _ h0))
  · exact h0
  · exact h0
  · exact h0

theorem poisonGiven_keeps {r0 : State} (s : State) (addr : Nat) (x2 : PoisonReader) (h0 : Keeps r0 s) :
    Keeps r0 (poisonGiven s addr x2) := by
  unfold poisonGiven
  split
  · exact reloadMain_keeps _ _ h0
  · exact poisonSeen_keeps _ _ _ h0

theorem execPoisonRead_keeps {r0 : State} (reader : PoisonReader) (addr : Nat) (err : ReadError) (s : State)
    (h0 : Keeps r0 s) :
    Keeps.R r0 (execPoisonRead reader addr err s) := by
  unfold execPoisonRead
  with_reducible apply Keeps.toNext
  with_reducible apply Keeps.ite
  · extract_lets -underBinder +onlyGivenNames t
    have ht : Keeps r0 t := by subst t; exact lineError_keeps _ _ _ _ h0
    clear_value t
    exact Keeps.ite (poisonGiven_keeps _ _ _ ht) ht
  · exact h0

theorem hostFault_keeps {r0 : State} (s : State) (w : Who) (pa : Nat) (wr : Bool) (h0 : Keeps r0 s) :
    Keeps r0 (hostFault s w pa wr) := by
  unfold hostFault
  exact hostGets_keeps _ _ _ (xltRecord_keeps _ _ _ _ _ _ h0)

theorem hostMem_keeps {r0 : State} (s : State) (w : Who) (addr : Nat) (len : Nat) (store : Option (List Byte))
    (h0 : Keeps r0 s) :
    Keeps r0 (hostMem s w addr len store) := by
  unfold hostMem
  split
  · exact hostFault_keeps _ _ _ _ h0
  · split
    · exact hostGets_keeps _ _ _ (writeLands_keeps _ _ _ _ h0)
    · split
      · exact hostGets_keeps _ _ _ (Keeps.By.eq_fst (by assumption) (readLands_keeps _ _ _ h0))
      · exact hostGets_keeps _ _ _ (Keeps.By.eq_fst (by assumption) (readLands_keeps _ _ _ h0))

theorem msixWrite_keeps {r0 : State} (s : State) (k : Nat) (off : Nat) (bs : List Byte) (h0 : Keeps r0 s) :
    Keeps r0 (msixWrite s k off bs) := by
  unfold msixWrite
  extract_lets -underBinder +onlyGivenNames d; clear_value d
  with_reducible exact Keeps.upd h0 rfl rfl rfl rfl rfl rfl

theorem bar0Write_keeps {r0 : State} (s : State) (k : Nat) (off : Nat) (bs : List Byte) (h0 : Keeps r0 s) :
    Keeps r0 (bar0Write s k off bs) := by
  unfold bar0Write
  with_reducible apply Keeps.ite
  · extract_lets -underBinder +onlyGivenNames a; clear_value a
    exact Keeps.ite (busWrite_keeps _ _ _ _ h0) (forbid_keeps _ _ _ _ h0)
  · with_reducible apply Keeps.ite
    · with_reducible apply msixWrite_keeps
      exact h0
    · exact h0

theorem bar0Read_keeps {r0 : State} (s : State) (k : Nat) (off : Nat) (len : Nat) (h0 : Keeps r0 s) :
    Keeps r0 (bar0Read s k off len) := by
  unfold bar0Read
  with_reducible apply Keeps.ite
  · extract_lets -underBinder +onlyGivenNames a; clear_value a
    with_reducible apply Keeps.ite
    · extract_lets -underBinder +onlyGivenNames t
      have ht : Keeps r0 t := by subst t; exact regRead_keeps _ _ h0
      clear_value t
      exact pcieDone_keeps _ _ _ _ ht
    · with_reducible apply pcieDone_keeps
      with_reducible apply forbid_keeps
      exact h0
  · with_reducible apply Keeps.ite
    · with_reducible apply pcieDone_keeps
      exact h0
    · with_reducible apply pcieDone_keeps
      exact h0

theorem pcieRequest_keeps {r0 : State} (s : State) (k : Nat) (r : PcieReq) (h0 : Keeps r0 s) :
    Keeps r0 (pcieRequest s k r) := by
  unfold pcieRequest
  extract_lets -underBinder +onlyGivenNames ep; subst ep
  extract_lets -underBinder +onlyGivenNames doze; clear_value doze
  with_reducible apply Keeps.ite
  · with_reducible apply pcieErr_keeps
    exact h0
  · with_reducible apply Keeps.ite
    · extract_lets -underBinder +onlyGivenNames s1
      have hs1 : Keeps r0 s1 := by subst s1; exact Keeps.ite (wakeEvent_keeps _ _ h0) h0
      clear_value s1
      exact Keeps.ite (bar0Write_keeps _ _ _ _ hs1) (bar0Read_keeps _ _ _ _ hs1)
    · with_reducible apply Keeps.ite
      · with_reducible apply wakeEvent_keeps
        exact h0
      · with_reducible apply Keeps.ite
        · with_reducible apply Keeps.ite
          · with_reducible apply pcieErr_keeps
            exact h0
          · with_reducible apply pcieDone_keeps
            with_reducible apply pcieErr_keeps
            exact h0
        · with_reducible apply pcieMem_keeps
          exact h0

theorem hostReg_keeps {r0 : State} (s : State) (m : BusMaster) (addr : Nat) (len : Nat) (store : Option (List Byte))
    (h0 : Keeps r0 s) :
    Keeps r0 (hostReg s m addr len store) := by
  unfold hostReg
  with_reducible apply Keeps.ite
  · with_reducible apply hostGets_keeps
    with_reducible apply forbid_keeps
    exact h0
  · split
    · exact hostGets_keeps _ _ _ (busWrite_keeps _ _ _ _ (busDemand_keeps _ _ _ h0))
    · exact regRead_keeps _ _ (busDemand_keeps _ _ _ h0)

theorem hostAccess_keeps {r0 : State} (core : Nat) (machine : Bool) (addr : Nat) (len : Nat) (store : Option
    (List Byte)) (s : State) (h0 : Keeps r0 s) :
    Keeps r0 (hostAccess core machine addr len store s) := by
  unfold hostAccess
  extract_lets -underBinder +onlyGivenNames m; clear_value m
  extract_lets -underBinder +onlyGivenNames w; clear_value w
  extract_lets -underBinder +onlyGivenNames n; clear_value n
  split
  · exact Keeps.ite (hostReg_keeps _ _ _ _ _ h0) (hostFault_keeps _ _ _ _ h0)
  · exact Keeps.ite (hostReg_keeps _ _ _ _ _ h0) (hostFault_keeps _ _ _ _ h0)
  · exact hostMem_keeps _ _ _ _ _ h0

theorem scrubWord_keeps {r0 : State} (s : State) (pa : Nat) (kind : Nat) (x3 : ScrubFinding) (h0 : Keeps r0 s) :
    Keeps r0 (scrubWord s pa kind x3) := by
  unfold scrubWord
  split
  · exact h0
  · exact State.addSat_keeps _ _ _ h0
  · exact poisonOnce_keeps _ _ _ _ h0

theorem execPatrolScrub_keeps {r0 : State} (tile : Bool) (err : ScrubFinding) (s : State) (h0 : Keeps r0 s) :
    Keeps.R r0 (execPatrolScrub tile err s) := by
  unfold execPatrolScrub
  with_reducible apply Keeps.toNext
  with_reducible apply Keeps.ite
  · with_reducible apply Keeps.ite
    · extract_lets -underBinder +onlyGivenNames s1
      have hs1 : Keeps r0 s1 := by subst s1; exact scrubWord_keeps _ _ _ _ h0
      clear_value s1
      extract_lets -underBinder +onlyGivenNames n; clear_value n
      extract_lets -underBinder +onlyGivenNames s2
      have hs2 : Keeps r0 s2 := by subst s2; exact Keeps.ite (State.addWrap_keeps _ _ _ hs1) hs1
      clear_value s2
      with_reducible exact Keeps.upd hs2 rfl rfl rfl rfl rfl rfl
    · extract_lets -underBinder +onlyGivenNames s1
      have hs1 : Keeps r0 s1 := by subst s1; exact scrubWord_keeps _ _ _ _ h0
      clear_value s1
      extract_lets -underBinder +onlyGivenNames n; clear_value n
      extract_lets -underBinder +onlyGivenNames s2
      have hs2 : Keeps r0 s2 := by subst s2; exact Keeps.ite (State.addWrap_keeps _ _ _ hs1) hs1
      clear_value s2
      with_reducible exact Keeps.upd hs2 rfl rfl rfl rfl rfl rfl
  · exact h0

theorem execPcieInbound_keeps {r0 : State} (k : Nat) (req : PcieReq) (s : State) (h0 : Keeps r0 s) :
    Keeps.R r0 (execPcieInbound k req s) := by
  unfold execPcieInbound
  exact Keeps.toNext (Keeps.ite (paceAct_keeps _ _ _ (fun _ _ => pcieRequest_keeps _ _ _ (by assumption))
    (demand_keeps _ _ (demand_keeps _ _ h0))) h0)

theorem execHostCoreLoadStore_keeps {r0 : State} (core : Nat) (machine : Bool) (addr : Nat) (len : Nat)
    (store : Option (List Byte)) (s : State) (h0 : Keeps r0 s) :
    Keeps.R r0 (execHostCoreLoadStore core machine addr len store s) := by
  unfold execHostCoreLoadStore
  exact Keeps.toNext (Keeps.ite (paceAct_keeps _ _ _ (fun _ _ => hostAccess_keeps _ _ _ _ _ _ (by assumption))
    (demand_keeps _ _ (demand_keeps _ _ h0))) h0)

/-! ### Pacers -/

theorem deviceRun_keeps {r0 : State} (tick : Nat) (x1 : DevAct) (x2 : State) (h0 : Keeps r0 x2) :
    Keeps r0 (deviceRun tick x1 x2) := by
  unfold deviceRun
  split
  · exact hostAccess_keeps _ _ _ _ _ _ h0
  · exact pcieRequest_keeps _ _ _ h0
  · exact frameStart_keeps _ _ _ _ h0
  · exact frameEnd_keeps _ _ _ h0
  · exact lineReceive_keeps _ _ _ _ _ _ _ h0
  · exact frameTimeout_keeps _ _ h0
  · exact netTransmit_keeps _ _ h0
  · exact netReceive_keeps _ _ _ _ _ h0

theorem setUrg_keeps {r0 : State} (s : State) (k : Nat) (l : Nat) (h0 : Keeps r0 s) :
    Keeps r0 (setUrg s k l) := by
  unfold setUrg
  exact State.setF_keeps _ _ _ h0

theorem execUrgFall_keeps {r0 : State} (k : Nat) (fill : Nat) (s : State) (h0 : Keeps r0 s) :
    Keeps.R r0 (execUrgFall k fill s) := by
  unfold execUrgFall
  exact Keeps.toNext (Keeps.ite (setUrg_keeps _ _ _ h0) h0)

theorem pktGoesOn_keeps {r0 : State} (s : State) (q : Nat) (idx : Nat) (h0 : Keeps r0 s) :
    Keeps r0 (pktGoesOn s q idx) := by
  unfold pktGoesOn
  split
  · split
    · exact paceAct_keeps _ _ _ (fun _ _ => outNow_keeps _ _ _ (by assumption)) h0
    · exact canDrained_keeps _ _ h0
  · exact h0

theorem goOn_keeps {r0 : State} (s : State) (i : Nat) (w : Wait) (h0 : Keeps r0 s) :
    Keeps r0 (goOn s i w) := by
  unfold goOn
  extract_lets -underBinder +onlyGivenNames y; subst y
  extract_lets -underBinder +onlyGivenNames rest
  have hrest : Keeps r0 rest := by subst rest; with_reducible exact Keeps.upd h0 rfl rfl rfl rfl rfl rfl
  clear_value rest
  split
  · with_reducible apply Keeps.ite
    · with_reducible apply paceDone_keeps
      · intro _ _
        with_reducible apply deviceRun_keeps
        assumption
      · exact hrest
    · split
      · exact Keeps.By.eq_fst (by assumption) (paceTry_keeps _ _ (fun _ _ => deviceRun_keeps _ _ _ (by assumption))
          hrest)
      · extract_lets -underBinder +onlyGivenNames ws; clear_value ws
        with_reducible exact Keeps.upd (Keeps.By.eq_fst (by assumption) (paceTry_keeps _ _ (fun _ _ =>
                         deviceRun_keeps _ _ _ (by assumption)) hrest)) rfl rfl rfl rfl rfl rfl
  · exact flush_keeps _ _ h0
  · exact writeStatus_keeps _ _ h0
  · exact paceAct_keeps _ _ _ (fun _ _ => showFrame_keeps _ _ (by assumption)) h0
  · exact rxHeld_keeps _ _ h0
  · exact paceAct_keeps _ _ _ (fun _ _ => restoreOutput_keeps _ _ (by assumption)) h0
  · exact pktGoesOn_keeps _ _ _ h0
  · exact hrest

theorem applyNext_keeps {r0 : State} (s : State) (h0 : Keeps r0 s) :
    Keeps r0 (applyNext s) := by
  unfold applyNext
  extract_lets -underBinder +onlyGivenNames s1
  have hs1 : Keeps r0 s1 := by
    subst s1
    with_reducible apply Keeps.foldl
    · exact h0
    · exact fun _ _ _ => State.setF_keeps _ _ _ (by assumption)
  clear_value s1
  with_reducible exact Keeps.upd hs1 rfl rfl rfl rfl rfl rfl

theorem actProgress_keeps {r0 : State} (s : State) (x1 : HeldAct) (h0 : Keeps r0 s) :
    Keeps r0 (actProgress s x1) := by
  unfold actProgress
  split
  · exact progress_keeps _ _ _ h0
  · split
    · exact progress_keeps _ _ _ h0
    · exact h0
  · exact h0

theorem pumpFuel_keeps {r0 : State} (x0 : Nat) : ∀ (x1 : State),
    Keeps r0 x1 → Keeps r0 (pumpFuel x0 x1) := by
  induction x0 with
  | zero =>
    intro x1 h0
    rw [pumpFuel]
    exact h0
  | succ n ih =>
    intro x1 h0
    rw [pumpFuel]
    split
    · exact h0
    · extract_lets -underBinder +onlyGivenNames s1
      have hs1 : Keeps r0 s1 := by subst s1; exact paceCount_keeps _ _ (paceUrg_keeps _ _ h0)
      clear_value s1
      extract_lets -underBinder +onlyGivenNames y; subst y
      extract_lets -underBinder +onlyGivenNames s2
      have hs2 : Keeps r0 s2 := by subst s2; with_reducible exact Keeps.upd hs1 rfl rfl rfl rfl rfl rfl
      clear_value s2
      with_reducible apply ih
      split
      · exact actProgress_keeps _ _ hs2
      · exact hs2

theorem goOnFuel_keeps {r0 : State} (x0 : Nat) : ∀ (x1 : State),
    Keeps r0 x1 → Keeps r0 (goOnFuel x0 x1) := by
  induction x0 with
  | zero =>
    intro x1 h0
    rw [goOnFuel]
    exact h0
  | succ n ih =>
    intro x1 h0
    rw [goOnFuel]
    split
    · exact h0
    · split
      · exact ih _ (goOn_keeps _ _ _ h0)
      · exact h0

theorem pump_keeps {r0 : State} (s : State) (h0 : Keeps r0 s) :
    Keeps r0 (pump s) := by
  unfold pump
  extract_lets -underBinder +onlyGivenNames n; clear_value n
  exact goOnFuel_keeps _ _ (pumpFuel_keeps _ _ h0)

theorem execUrgRise_keeps {r0 : State} (k : Nat) (fill : Nat) (s : State) (h0 : Keeps r0 s) :
    Keeps.R r0 (execUrgRise k fill s) := by
  unfold execUrgRise
  exact Keeps.toNext (Keeps.ite (pump_keeps _ (setUrg_keeps _ _ _ h0)) h0)

theorem adaptEngine_keeps {r0 : State} (s : State) (e : Nat) (slow : Bool) (held : Bool) (maxBefore : Nat)
    (h0 : Keeps r0 s) :
    Keeps r0 (adaptEngine s e slow held maxBefore) := by
  unfold adaptEngine
  extract_lets -underBinder +onlyGivenNames a; clear_value a
  extract_lets -underBinder +onlyGivenNames m; clear_value m
  extract_lets -underBinder +onlyGivenNames s1
  have hs1 : Keeps r0 s1 := by subst s1; exact Keeps.ite (State.addSat_keeps _ _ _ h0) h0
  clear_value s1
  exact State.setF_keeps _ _ _ hs1

theorem execPacerWindowBoundary_keeps {r0 : State} (busy : Nat) (s : State) (h0 : Keeps r0 s) :
    Keeps.R r0 (execPacerWindowBoundary busy s) := by
  unfold execPacerWindowBoundary
  with_reducible apply Keeps.toNext
  with_reducible apply Keeps.ite
  · extract_lets -underBinder +onlyGivenNames held; clear_value held
    extract_lets -underBinder +onlyGivenNames maxs; clear_value maxs
    extract_lets -underBinder +onlyGivenNames lanes; clear_value lanes
    extract_lets -underBinder +onlyGivenNames s1
    have hs1 : Keeps r0 s1 := by
      subst s1
      with_reducible apply Keeps.foldl
      · exact h0
      · exact fun _ _ _ => State.addSat_keeps _ _ _ (by assumption)
    clear_value s1
    extract_lets -underBinder +onlyGivenNames s2
    have hs2 : Keeps r0 s2 := by
      subst s2
      with_reducible apply Keeps.foldl
      · exact hs1
      · exact fun _ _ _ => State.setF_keeps _ _ _ (by assumption)
    clear_value s2
    extract_lets -underBinder +onlyGivenNames s3
    have hs3 : Keeps r0 s3 := by
      subst s3
      with_reducible apply Keeps.foldl
      · exact hs2
      · exact fun _ _ _ => State.setF_keeps _ _ _ (by assumption)
    clear_value s3
    extract_lets -underBinder +onlyGivenNames y; subst y
    extract_lets -underBinder +onlyGivenNames s4
    have hs4 : Keeps r0 s4 := by
      subst s4
      with_reducible exact applyNext_keeps _ (Keeps.upd hs3 rfl rfl rfl rfl rfl rfl)
    clear_value s4
    extract_lets -underBinder +onlyGivenNames s5
    have hs5 : Keeps r0 s5 := by
      subst s5
      with_reducible apply Keeps.foldl
      · exact hs4
      · exact fun _ _ _ => adaptEngine_keeps _ _ _ _ _ (by assumption)
    clear_value s5
    exact pump_keeps _ hs5
  · exact h0

/-! ### Commit -/

theorem sideDone_keeps {r0 : State} (s : State) (j : Job) (h0 : Keeps r0 s) :
    Keeps r0 (sideDone s j) := by
  unfold sideDone
  exact State.setJob_keeps _ _ h0

theorem sidePub_keeps {r0 : State} (s : State) (j : Job) (d : List Byte) (h0 : Keeps r0 s) :
    Keeps r0 (sidePub s j d) := by
  unfold sidePub
  extract_lets -underBinder +onlyGivenNames id; clear_value id
  split
  · extract_lets -underBinder +onlyGivenNames y; clear_value y
    extract_lets -underBinder +onlyGivenNames io
    have hio : Keeps.By Io.s r0 io := by subst io; exact putPublished_keeps _ _ _ _ _ h0
    clear_value io
    split
    · exact endAccess_keeps _ _ _ (Keeps.By.io hio)
    · exact sideDone_keeps _ _ (Keeps.By.io hio)
    · exact sideDone_keeps _ _ (Keeps.By.io hio)
  · exact sideDone_keeps _ _ h0

theorem sidePayload_keeps {r0 : State} (s : State) (j : Job) (d : List Byte) (h0 : Keeps r0 s) :
    Keeps.By Prod.fst r0 (sidePayload s j d) := by
  unfold sidePayload
  split
  · exact Keeps.toFst (Keeps.By.eq_fst (by assumption) (dmaRead_keeps _ _ _ _ h0))
  · exact Keeps.toFst (Keeps.By.eq_fst (by assumption) (dmaRead_keeps _ _ _ _ h0))
  · exact Keeps.toFst (Keeps.By.eq_fst (by assumption) (dmaRead_keeps _ _ _ _ h0))

theorem sideCan_keeps {r0 : State} (s : State) (j : Job) (d : List Byte) (h0 : Keeps r0 s) :
    Keeps r0 (sideCan s j d) := by
  unfold sideCan
  extract_lets -underBinder +onlyGivenNames c; clear_value c
  with_reducible apply Keeps.ite
  · with_reducible apply sideDone_keeps
    with_reducible apply State.addSat_keeps
    exact h0
  · with_reducible apply Keeps.ite
    · exact h0
    · split
      · exact endAccess_keeps _ _ _ (Keeps.By.eq_fst (by assumption) (sidePayload_keeps _ _ _ h0))
      · exact sideDone_keeps _ _ (Keeps.By.eq_fst (by assumption) (sidePayload_keeps _ _ _ h0))
      · split
        · exact sideDone_keeps _ _ (Keeps.O.some_eq (canQueue_keeps _ _ _ (Keeps.By.eq_fst (by assumption)
            (sidePayload_keeps _ _ _ h0))) (by assumption))
        · exact h0

theorem sideRing_keeps {r0 : State} (s : State) (j : Job) (d : List Byte) (h0 : Keeps r0 s) :
    Keeps r0 (sideRing s j d) := by
  unfold sideRing
  split
  · exact endAccess_keeps _ _ _ (Keeps.By.eq_fst (by assumption) (sidePayload_keeps _ _ _ h0))
  · exact sideDone_keeps _ _ (Keeps.By.eq_fst (by assumption) (sidePayload_keeps _ _ _ h0))
  · extract_lets -underBinder +onlyGivenNames e; clear_value e
    exact sideDone_keeps _ _ (Keeps.ite (Keeps.By.eq_fst (by assumption) (sidePayload_keeps _ _ _ h0))
      (State.setRing_keeps _ _ (Keeps.By.eq_fst (by assumption) (sidePayload_keeps _ _ _ h0))))

theorem nextSide_keeps {r0 : State} (s : State) (j : Job) (h0 : Keeps r0 s) :
    Keeps r0 (nextSide s j) := by
  unfold nextSide
  extract_lets -underBinder +onlyGivenNames d; clear_value d
  split
  · exact sideRing_keeps _ _ _ h0
  · exact sideCan_keeps _ _ _ h0
  · exact sidePub_keeps _ _ _ h0

theorem sealJob_keeps {r0 : State} (s : State) (j : Job) (h0 : Keeps r0 s) :
    Keeps r0 (sealJob s j) := by
  unfold sealJob
  exact State.setJob_keeps _ _ h0

theorem copyJob_keeps {r0 : State} (s : State) (j : Job) (bad : List Nat) (h0 : Keeps r0 s) :
    Keeps r0 (copyJob s j bad) := by
  unfold copyJob
  extract_lets -underBinder +onlyGivenNames s1
  have hs1 : Keeps r0 s1 := by subst s1; exact applyStaging_keeps _ _ _ h0
  clear_value s1
  extract_lets -underBinder +onlyGivenNames s2
  have hs2 : Keeps r0 s2 := by
    subst s2
    with_reducible apply Keeps.foldl
    · exact hs1
    · exact fun _ _ _ => commitSeq_keeps _ _ _ (by assumption)
  clear_value s2
  extract_lets -underBinder +onlyGivenNames s3
  have hs3 : Keeps r0 s3 := by
    subst s3
    split
    · exact ctxCommit_keeps _ _ hs2
    · exact buildCommit_keeps _ _ hs2
    · exact hs2
  clear_value s3
  with_reducible apply State.setJob_keeps
  with_reducible apply Keeps.ite
  · exact hs3
  · with_reducible apply Keeps.foldl
    · exact hs3
    · exact fun _ _ _ => seenAgain_keeps _ _ (by assumption)

theorem commitStep_keeps {r0 : State} (s : State) (j : Job) (bad : List Nat) (h0 : Keeps r0 s) :
    Keeps r0 (commitStep s j bad) := by
  unfold commitStep
  split
  · exact Keeps.ite (sealJob_keeps _ _ h0) h0
  · exact Keeps.ite (copyJob_keeps _ _ _ h0) (Keeps.ite (nextSide_keeps _ _ h0) (endJob_keeps _ _ _ _ _ h0))
  · exact h0

theorem execJobCommit_keeps {r0 : State} (q : Nat) (idx : Nat) (bad : List Nat) (s : State) (h0 : Keeps r0 s) :
    Keeps.R r0 (execJobCommit q idx bad s) := by
  unfold execJobCommit
  with_reducible apply Keeps.toNext
  split
  · exact Keeps.ite (paceAct_keeps _ _ _ (fun _ _ => commitStep_keeps _ _ _ (by assumption)) h0) h0
  · exact h0

/-! ### Start -/

theorem startPre_keeps {r0 : State} (op : Nat) (s : State) (p : Pkt) (h0 : Keeps r0 s) :
    Keeps.By Prod.fst r0 (startPre op s p) := by
  have key : Keeps.Pre r0 (startPre op) := by
    unfold startPre
    split <;> try split
    all_goals intro s p h0
    · exact preSysTime_keeps _ _ h0
    · exact preFlashWrite_keeps _ _ h0
    · exact preRollback_keeps _ _ h0
    · exact noPre_keeps _ _ h0
    · exact jobRunPre_keeps _ _ h0
    · exact jobSearchPre_keeps _ _ h0
    · exact noPre_keeps _ _ h0
    · exact preLaneConfig_keeps _ _ h0
    · exact preMemRoot_keeps _ _ h0
    · exact preInvalidate_keeps _ _ h0
    · exact preMemCopy_keeps _ _ h0
    · exact preBayLoad_keeps _ _ h0
    · exact preParamLane_keeps _ _ h0
    · exact noPre_keeps _ _ h0
    · exact preStreamSensor_keeps _ _ h0
    · exact preStreamDisplay_keeps _ _ h0
    · exact preCanTx_keeps _ _ h0
    · exact preRouter_keeps _ _ h0
    · exact noPre_keeps _ _ h0
    · exact idxCreatePre_keeps _ _ h0
    · exact idxBuildPre_keeps _ _ h0
    · exact idxInsertPre_keeps _ _ h0
    · exact idxPublishPre_keeps _ _ h0
    · exact idxPre_keeps _ _ h0
    · exact preRingConfig_keeps _ _ h0
    · exact preRingSweep_keeps _ _ h0
    · exact preNode0_keeps _ _ h0
    · exact preNode0_keeps _ _ h0
    · exact noPre_keeps _ _ h0
    · exact prePwrCap_keeps _ _ h0
    · exact prePwrMulti_keeps _ _ h0
    · exact preDrain_keeps _ _ h0
    · exact preDrain_keeps _ _ h0
    · exact noPre_keeps _ _ h0
    · exact preParamLane_keeps _ _ h0
    · exact preSafPair_keeps _ _ h0
    · exact noPre_keeps _ _ h0
    · exact preRights_keeps _ _ h0
    · exact preQuiesce_keeps _ _ h0
    · exact preRunning_keeps _ _ _ h0
    · exact preReset_keeps _ _ h0
    · exact preFreeze_keeps _ _ h0
    · exact preSave_keeps _ _ h0
    · exact preRestore_keeps _ _ h0
    · exact preThaw_keeps _ _ h0
    · exact preRemove_keeps _ _ h0
    · exact noPre_keeps _ _ h0
  exact key s p h0

theorem lanePre_keeps {r0 : State} (s : State) (p : Pkt) (h0 : Keeps r0 s) :
    Keeps.By Prod.fst r0 (lanePre s p) := by
  unfold lanePre
  exact Keeps.By.ite (Keeps.toFst h0) (startPre_keeps _ _ _ h0)

theorem startPkt_keeps {r0 : State} (s : State) (p : Pkt) (h0 : Keeps r0 s) :
    Keeps r0 (startPkt s p) := by
  unfold startPkt
  extract_lets -underBinder +onlyGivenNames r
  have hr : Keeps.By Prod.fst r0 r := by subst r; exact lanePre_keeps _ _ h0
  clear_value r
  split
  · exact Keeps.O.some_eq (endPre_keeps _ _ _ (Keeps.By.fst hr)) (by assumption)
  · exact State.setPkt_keeps _ _ (Keeps.By.fst hr)

theorem sweepTimeout.sweepNone_keeps {r0 : State} (s : State) (p : Pkt) (h0 : Keeps r0 s) :
    Keeps r0 (sweepTimeout.sweepNone s p) := by
  unfold sweepTimeout.sweepNone
  extract_lets -underBinder +onlyGivenNames r; clear_value r
  exact outWaited_keeps _ _ _ h0

theorem sweepTimeout_keeps {r0 : State} (s : State) (p : Pkt) (h0 : Keeps r0 s) :
    Keeps r0 (sweepTimeout s p) := by
  unfold sweepTimeout
  split
  · exact Keeps.ite (contSweep_keeps _ _ _ _ h0) (sweepTimeout.sweepNone_keeps _ _ h0)
  · exact sweepTimeout.sweepNone_keeps _ _ h0

theorem sendTimeout_keeps {r0 : State} (s : State) (p : Pkt) (h0 : Keeps r0 s) :
    Keeps r0 (sendTimeout s p) := by
  unfold sendTimeout
  split
  · exact Keeps.ite (complete_keeps _ _ _ _ _ (dropData_keeps _ _ h0)) (dataFailed_keeps _ _ h0)
  · exact complete_keeps _ _ _ _ _ h0

theorem probeTimeout_keeps {r0 : State} (s : State) (p : Pkt) (h0 : Keeps r0 s) :
    Keeps r0 (probeTimeout s p) := by
  unfold probeTimeout
  split
  · with_reducible apply Keeps.ite
    · extract_lets -underBinder +onlyGivenNames t
      have ht : Keeps r0 t := by subst t; exact complete_keeps _ _ _ _ _ (State.setProbe_keeps _ _ h0)
      clear_value t
      split
      · exact beginProbe_keeps _ _ ht
      · exact ht
    · with_reducible apply complete_keeps
      exact h0
  · exact complete_keeps _ _ _ _ _ h0

theorem timeoutEnd_keeps {r0 : State} (s : State) (p : Pkt) (h0 : Keeps r0 s) :
    Keeps r0 (timeoutEnd s p) := by
  unfold timeoutEnd
  split
  · exact complete_keeps _ _ _ _ _ h0
  · exact complete_keeps _ _ _ _ _ h0
  · exact sweepTimeout_keeps _ _ h0
  · exact complete_keeps _ _ _ _ _ (State.setRing_keeps _ _ h0)
  · exact sendTimeout_keeps _ _ h0
  · exact recvEnd_keeps _ _ _ h0
  · exact probeTimeout_keeps _ _ h0

theorem execWaitTimeout_keeps {r0 : State} (q : Nat) (idx : Nat) (s : State) (h0 : Keeps r0 s) :
    Keeps.R r0 (execWaitTimeout q idx s) := by
  unfold execWaitTimeout
  with_reducible apply Keeps.toNext
  split
  · exact Keeps.ite (timeoutEnd_keeps _ _ h0) h0
  · exact h0

theorem execPacketStart_keeps {r0 : State} (q : Nat) (idx : Nat) (s : State) (h0 : Keeps r0 s) :
    Keeps.R r0 (execPacketStart q idx s) := by
  unfold execPacketStart
  with_reducible apply Keeps.toNext
  split
  · exact Keeps.ite (paceAct_keeps _ _ _ (fun _ _ => startPkt_keeps _ _ (by assumption)) h0) h0
  · exact h0

/-! ### Accept -/

theorem restorePace_keeps {r0 : State} (s : State) (h0 : Keeps r0 s) :
    Keeps r0 (restorePace s) := by
  unfold restorePace
  extract_lets -underBinder +onlyGivenNames s1
  have hs1 : Keeps r0 s1 := by
    subst s1
    with_reducible apply Keeps.foldl
    · exact h0
    · exact fun _ _ _ => State.setF_keeps _ _ _ (by assumption)
  clear_value s1
  extract_lets -underBinder +onlyGivenNames s2
  have hs2 : Keeps r0 s2 := by
    subst s2
    with_reducible apply Keeps.foldl
    · exact hs1
    · exact fun _ _ _ => State.setF_keeps _ _ _ (by assumption)
  clear_value s2
  with_reducible apply Keeps.foldl
  · exact hs2
  · exact fun _ _ _ => State.setF_keeps _ _ _ (by assumption)

theorem restoreXlt_keeps {r0 : State} (s : State) (h0 : Keeps r0 s) :
    Keeps r0 (restoreXlt s) := by
  unfold restoreXlt
  with_reducible apply Keeps.foldl
  · exact h0
  · intro _ _ _
    extract_lets -underBinder +onlyGivenNames y; clear_value y
    extract_lets -underBinder +onlyGivenNames t1
    have ht1 : Keeps r0 t1 := by subst t1; exact State.setF_keeps _ _ _ (State.setF_keeps _ _ _ (by assumption))
    clear_value t1
    exact State.setF_keeps _ _ _ (State.setF_keeps _ _ _ ht1)

theorem lostStart_keeps {r0 : State} (s : State) (p : Pkt) (h0 : Keeps r0 s) :
    Keeps r0 (lostStart s p) := by
  unfold lostStart
  exact Keeps.ite (endPlain_keeps _ _ _ _ _ h0) h0

theorem lostJob_keeps {r0 : State} (s : State) (j : Job) (h0 : Keeps r0 s) :
    Keeps r0 (lostJob s j) := by
  unfold lostJob
  exact endJob_keeps _ _ _ _ _ (State.setJob_keeps _ _ h0)

theorem resumeJob_keeps {r0 : State} (s : State) (j : Job) (h0 : Keeps r0 s) :
    Keeps r0 (resumeJob s j) := by
  unfold resumeJob
  split
  · exact State.setJob_keeps _ _ h0
  · exact State.setJob_keeps _ _ h0
  · exact newAttempt_keeps _ _ _ _ h0
  · exact newAttempt_keeps _ _ _ _ h0
  · exact Keeps.ite (newAttempt_keeps _ _ _ _ h0) h0

theorem resumeJobs_keeps {r0 : State} (s : State) (h0 : Keeps r0 s) :
    Keeps r0 (resumeJobs s) := by
  unfold resumeJobs
  with_reducible apply Keeps.ite
  · with_reducible apply Keeps.foldl
    · with_reducible apply Keeps.foldl
      · exact h0
      · exact fun _ _ _ => lostJob_keeps _ _ (by assumption)
    · exact fun _ _ _ => lostStart_keeps _ _ (by assumption)
  · with_reducible apply Keeps.foldl
    · exact h0
    · exact fun _ _ _ => resumeJob_keeps _ _ (by assumption)

theorem timersRaise_keeps {r0 : State} (s : State) (h0 : Keeps r0 s) :
    Keeps r0 (timersRaise s) := by
  unfold timersRaise
  extract_lets -underBinder +onlyGivenNames due; clear_value due
  with_reducible apply Keeps.foldl
  · with_reducible exact Keeps.upd h0 rfl rfl rfl rfl rfl rfl
  · exact fun _ _ _ => raiseHost_keeps _ _ (by assumption)

theorem restoreLocks_keeps {r0 : State} (s : State) (h0 : Keeps r0 s) :
    Keeps r0 (restoreLocks s) := by
  unfold restoreLocks
  with_reducible apply Keeps.foldl
  · exact h0
  · exact fun _ _ _ => State.wr_keeps _ _ (by assumption)

theorem restoreViews_keeps {r0 : State} (s : State) (h0 : Keeps r0 s) :
    Keeps r0 (restoreViews s) := by
  unfold restoreViews
  extract_lets -underBinder +onlyGivenNames s1
  have hs1 : Keeps r0 s1 := by
    subst s1
    with_reducible apply Keeps.foldl
    · exact h0
    · exact fun _ _ _ => Keeps.ite (idxLive_keeps _ _ _ (by assumption)) (by assumption)
  clear_value s1
  with_reducible apply Keeps.foldl
  · exact hs1
  · intro _ _ _
    split
    · exact State.setF_keeps _ _ _ (State.setF_keeps _ _ _ (by assumption))
    · assumption

theorem restoreRegs_keeps {r0 : State} (s : State) (h0 : Keeps r0 s) :
    Keeps r0 (restoreRegs s) := by
  unfold restoreRegs
  extract_lets -underBinder +onlyGivenNames s1
  have hs1 : Keeps r0 s1 := by
    subst s1
    with_reducible apply Keeps.foldl
    · exact restoreLocks_keeps _ h0
    · exact fun _ _ _ => laneRegs_keeps _ _ (by assumption)
  clear_value s1
  exact restoreViews_keeps _ (restorePace_keeps _ (restoreXlt_keeps _ (sharedRegs_keeps _ hs1)))

theorem turnOn_keeps {r0 : State} (s : State) (h0 : Keeps r0 s) :
    Keeps r0 (turnOn s) := by
  unfold turnOn
  extract_lets -underBinder +onlyGivenNames s1
  have hs1 : Keeps r0 s1 := by subst s1; exact State.setF_keeps _ _ _ (State.setF_keeps _ _ _ h0)
  clear_value s1
  with_reducible exact Keeps.upd hs1 rfl rfl rfl rfl rfl rfl

theorem safeEnds_keeps {r0 : State} (s : State) (h0 : Keeps r0 s) :
    Keeps r0 (safeEnds s) := by
  unfold safeEnds
  extract_lets -underBinder +onlyGivenNames e; clear_value e
  extract_lets -underBinder +onlyGivenNames s1
  have hs1 : Keeps r0 s1 := by subst s1; exact Keeps.ite (State.setF_keeps _ _ _ (State.setF_keeps _ _ _ h0)) h0
  clear_value s1
  exact setSafePins_keeps _ _ (releaseCauses_keeps _ (State.setF_keeps _ _ _ hs1))

theorem mainSucceeds_keeps {r0 : State} (s : State) (h0 : Keeps r0 s) :
    Keeps r0 (mainSucceeds s) := by
  unfold mainSucceeds
  extract_lets -underBinder +onlyGivenNames mark; clear_value mark
  extract_lets -underBinder +onlyGivenNames s1
  have hs1 : Keeps r0 s1 := by subst s1; exact Keeps.ite h0 (State.addSat_keeps _ _ _ h0)
  clear_value s1
  extract_lets -underBinder +onlyGivenNames s2
  have hs2 : Keeps r0 s2 := by
    subst s2
    exact State.setF_keeps _ _ _ (endBackoff_keeps _ (State.setF_keeps _ _ _ hs1))
  clear_value s2
  with_reducible exact updFaultBoot_keeps _ (Keeps.upd hs2 rfl rfl rfl rfl rfl rfl)

theorem resumePkt_keeps {r0 : State} (safe : Bool) (s : State) (p : Pkt) (h0 : Keeps r0 s) :
    Keeps r0 (resumePkt safe s p) := by
  unfold resumePkt
  with_reducible apply Keeps.ite
  · with_reducible apply Keeps.ite
    · with_reducible apply ringAgain_keeps
      exact h0
    · split
      · exact outWaited_keeps _ _ _ h0
      · exact h0
  · with_reducible apply Keeps.ite
    · exact h0
    · with_reducible apply Keeps.ite
      · with_reducible apply ringAgain_keeps
        exact h0
      · with_reducible apply Keeps.ite
        · with_reducible apply State.setPkt_keeps
          exact h0
        · split
          · exact Keeps.ite (parkDone_keeps _ _ h0) (State.setPkt_keeps _ _ h0)
          · exact State.setPkt_keeps _ _ h0
          · exact complete_keeps _ _ _ _ _ h0
          · exact h0

theorem resumeCan_keeps {r0 : State} (s : State) (h0 : Keeps r0 s) :
    Keeps r0 (resumeCan s) := by
  unfold resumeCan
  with_reducible apply Keeps.foldl
  · exact h0
  · exact fun _ _ _ => canDrained_keeps _ _ (canFeed_keeps _ _ (rxHeld_keeps _ _ (by assumption)))

theorem acceptAfterReset_keeps {r0 : State} (s : State) (h0 : Keeps r0 s) :
    Keeps r0 (acceptAfterReset s) := by
  unfold acceptAfterReset
  extract_lets -underBinder +onlyGivenNames s1
  have hs1 : Keeps r0 s1 := by
    subst s1
    exact evtSkip_keeps _ (restoreRegs_keeps _ (turnOn_keeps _ (safeEnds_keeps _ (mainSucceeds_keeps _ h0))))
  clear_value s1
  extract_lets -underBinder +onlyGivenNames y; subst y
  extract_lets -underBinder +onlyGivenNames s2
  have hs2 : Keeps r0 s2 := by subst s2; with_reducible exact Keeps.upd hs1 rfl rfl rfl rfl rfl rfl
  clear_value s2
  extract_lets -underBinder +onlyGivenNames s3
  have hs3 : Keeps r0 s3 := by
    subst s3
    with_reducible apply Keeps.foldl
    · exact hs2
    · exact fun _ _ _ => restoreStream_keeps _ _ (by assumption)
  clear_value s3
  extract_lets -underBinder +onlyGivenNames s4
  have hs4 : Keeps r0 s4 := by
    subst s4
    with_reducible apply Keeps.foldl
    · exact hs3
    · exact fun _ _ _ => paceAct_keeps _ _ _ (fun _ _ => restoreOutput_keeps _ _ (by assumption)) (by assumption)
  clear_value s4
  extract_lets -underBinder +onlyGivenNames s5
  have hs5 : Keeps r0 s5 := by subst s5; exact resumeJobs_keeps _ hs4
  clear_value s5
  extract_lets -underBinder +onlyGivenNames y; subst y
  extract_lets -underBinder +onlyGivenNames s6
  have hs6 : Keeps r0 s6 := by
    subst s6
    with_reducible apply Keeps.foldl
    · with_reducible exact Keeps.upd hs5 rfl rfl rfl rfl rfl rfl
    · exact fun _ _ _ => resumePkt_keeps _ _ _ (by assumption)
  clear_value s6
  exact flushAll_keeps _ (padsChange_keeps _ (ringResume_keeps _ (resumeCan_keeps _ hs6)))

theorem acceptAfterDoze_keeps {r0 : State} (s : State) (h0 : Keeps r0 s) :
    Keeps r0 (acceptAfterDoze s) := by
  unfold acceptAfterDoze
  extract_lets -underBinder +onlyGivenNames s1
  have hs1 : Keeps r0 s1 := by subst s1; exact turnOn_keeps _ (setPlls_keeps _ _ _ (reloadCopies_keeps _ h0))
  clear_value s1
  extract_lets -underBinder +onlyGivenNames s2
  have hs2 : Keeps r0 s2 := by
    subst s2
    with_reducible apply timersRaise_keeps
    with_reducible apply Keeps.foldl
    · exact hs1
    · exact fun _ _ _ => Keeps.ite (restartDom_keeps _ _ (by assumption)) (by assumption)
  clear_value s2
  extract_lets -underBinder +onlyGivenNames s3
  have hs3 : Keeps r0 s3 := by
    subst s3
    with_reducible apply Keeps.foldl
    · exact hs2
    · exact fun _ _ _ => State.setF_keeps _ _ _ (by assumption)
  clear_value s3
  exact flushAll_keeps _ (ringResume_keeps _ (resumeCan_keeps _ (evtSkip_keeps _ hs3)))

theorem execJobsAccepted_keeps {r0 : State} (s : State) (h0 : Keeps r0 s) :
    Keeps.R r0 (execJobsAccepted s) := by
  unfold execJobsAccepted
  exact Keeps.toNext (Keeps.ite (acceptAfterReset_keeps _ h0) (Keeps.ite (acceptAfterDoze_keeps _ h0) h0))

end Sys2Proof.Machine
end

