-- ==== Sys2Proof/Laws/Packets.lean ====
section
/-! SUPPORT. What the shared shapes of a meaning answer: an opcode carried out on its packet, a guarded register write, an
operation of one bundle slot. -/

namespace Sys2Proof.Machine

/-- No packet of that opcode is due: nothing happens. -/
theorem carry_none {s : State} {q idx code : Nat} (pre : State → Pkt → State × PreFail) (eff : State → Pkt → State)
    (h : startedPkt s q idx code = none) : carry s q idx code pre eff = .next s := by
  unfold carry
  rw [h]

/-- A started packet of that opcode is carried out: its preconditions, then its effect. -/
theorem carry_some {s : State} {q idx code : Nat} {p : Pkt} (pre : State → Pkt → State × PreFail) (eff : State → Pkt → State)
    (h : startedPkt s q idx code = some p) : carry s q idx code pre eff = .next (preThen p pre eff s) := by
  unfold carry
  rw [h]

/-- A precondition fails: the packet ends as the failure says. -/
theorem preThen_fail {s t : State} {p : Pkt} (pre : State → Pkt → State × PreFail) (eff : State → Pkt → State)
    (hf : endPre (pre s p).1 p (pre s p).2 = some t) : preThen p pre eff s = t := by
  simp only [preThen, hf]

/-- Every precondition holds: the opcode has its effect. -/
theorem preThen_effect {s : State} {p : Pkt} (pre : State → Pkt → State × PreFail) (eff : State → Pkt → State)
    (hf : endPre (pre s p).1 p (pre s p).2 = none) : preThen p pre eff s = eff (pre s p).1 p := by
  simp only [preThen, hf]

/-- An opcode with no precondition. -/
theorem carry_plain {s : State} {q idx code : Nat} {p : Pkt} (eff : State → Pkt → State)
    (h : startedPkt s q idx code = some p) : carry s q idx code noPre eff = .next (eff s p) := carry_some _ _ h

/-- An access that the pacers admit has its effect. -/
theorem paceAct_admitted {act : HeldAct} {f : State → State} {s t : State} (h : Admitted act f s t) : paceAct act f s = t := by
  unfold Admitted at h
  unfold paceAct
  cases hh : s.pace.waits.find? fun w => sameEntry w.act act with
  | none => rw [hh] at h; simp only [h]
  | some w =>
    rw [hh] at h
    obtain ⟨h1, h2, h3, rfl⟩ := h
    cases act <;> simp_all

/-- A started packet whose accesses the pacers admit is carried out. -/
theorem carryDma_adm {s t : State} {q i c : Nat} {p : Pkt} {pre eff} (h : startedPkt s q i c = some p)
    (ha : Admitted (.packet q i) (preThen p pre eff) s t) : carryDma s q i c pre eff = .next t := by
  simp only [carryDma, h]; rw [paceAct_admitted ha]

/-- An opcode always answers a next state. -/
theorem carry_next (s : State) (q idx code : Nat) (pre : State → Pkt → State × PreFail) (eff : State → Pkt → State) :
    ∃ t, carry s q idx code pre eff = .next t := ⟨_, rfl⟩

/-- A writable register takes the effect of its write. -/
theorem guarded_write {s : State} {m : BusMaster} {a v : Nat} {r : RegRow} {i : Nat} (f : State → State)
    (h : findReg a = some (r, i)) (hm : writeMask s m r i v ≠ 0) : guarded s m a v f = f s := by
  unfold guarded
  rw [h]
  exact if_neg hm

/-- A write no bit of which the master may change is forbidden. -/
theorem guarded_forbidden {s : State} {m : BusMaster} {a v : Nat} {r : RegRow} {i : Nat} (f : State → State)
    (h : findReg a = some (r, i)) (hm : writeMask s m r i v = 0) : guarded s m a v f = forbid s m a 4 := by
  unfold guarded
  rw [h]
  exact if_pos hm

/-- The word a slot issues is of the operation asked for. -/
theorem issue_opOf {s : State} {t k op w : Nat} {r : TileRec} {j : Job} (h : issue s t k op = some (r, j, w)) : opOf w = op := by
  unfold issue at h
  cases hj : (s.tile t).job with
  | none => simp [hj] at h
  | some id =>
    simp only [hj] at h
    cases hk : s.job id.1 id.2 with
    | none => simp [hk] at h
    | some j' =>
      simp only [hk] at h
      split at h
      · rename_i hc; cases h; simp only [Bool.and_eq_true, decide_eq_true_eq] at hc; exact hc.1.2
      · cases h

/-- A record of another queue or index is left alone. -/
theorem State.queue_setQueue_ne (s : State) {q r : Nat} (x : QueueState) (h : r ≠ q) : (s.setQueue q x).queue r = s.queue r :=
  tabGet_put_ne _ _ _ h

theorem State.inst_setInst_ne (s : State) {i k : Nat} (x : InstRec) (h : k ≠ i) : (s.setInst i x).inst k = s.inst k :=
  tabGet_put_ne _ _ _ h

theorem State.tile_setTile_ne (s : State) {t u : Nat} (r : TileRec) (h : u ≠ t) : (s.setTile t r).tile u = s.tile u :=
  tabGet_put_ne _ _ _ h

theorem State.lane_setLane_ne (s : State) {l k : Nat} (r : Option LaneRec) (h : k ≠ l) : (s.setLane l r).lane k = s.lane k :=
  tabGet_put_ne _ _ _ h

end Sys2Proof.Machine
end

