-- ==== Sys2Proof/Laws/Registers.lean ====
section
/-! SUPPORT. What a register, and a field of one, reads as after a register is written. -/

namespace Sys2Proof.Machine

set_option Elab.async false

/-- A write is read back. -/
theorem State.rd_wr_same {s : State} (h : tabWf regReset s.regs = true) (a : Nat) (v : Word) : (s.wr a v).rd a = v :=
  tabGet_put_same _ h a v

/-- A write leaves every other register alone. -/
theorem State.rd_wr_ne (s : State) {a b : Nat} (v : Word) (h : b ≠ a) : (s.wr a v).rd b = s.rd b := tabGet_put_ne _ _ _ h

theorem State.rd_setF_ne (s : State) (f : FRef) (x : Nat) {b : Nat} (h : b ≠ f.addr) : (s.setF f x).rd b = s.rd b :=
  s.rd_wr_ne _ h

/-- A field of another register reads as before. -/
theorem State.getF_setF_ne (s : State) (f g : FRef) (x : Nat) (h : g.addr ≠ f.addr) : (s.setF f x).getF g = s.getF g := by
  rw [State.getF, State.rd_setF_ne _ _ _ h, State.getF]

theorem State.toNat_rd_setF {s : State} (hw : tabWf regReset s.regs = true) (f : FRef) (x : Nat) (h : f.lo + f.width ≤ 32) :
    ((s.setF f x).rd f.addr).toNat = putBits (s.rd f.addr).toNat f.lo f.width x := by
  rw [State.setF, State.rd_wr_same hw, BitVec.toNat_ofNat, Nat.mod_eq_of_lt (putBits_lt x (s.rd f.addr).isLt h)]

/-- A written field reads as what was written, cut to its width. -/
theorem State.getF_setF_same {s : State} (hw : tabWf regReset s.regs = true) (f : FRef) (x : Nat) (h : f.lo + f.width ≤ 32) :
    (s.setF f x).getF f = x % 2 ^ f.width := by
  rw [State.getF, State.toNat_rd_setF hw f x h, bits_putBits_same]

/-- Another field of the same register reads as before. -/
theorem State.getF_setF_apart {s : State} (hw : tabWf regReset s.regs = true) (f g : FRef) (x : Nat) (h : f.lo + f.width ≤ 32)
    (ha : g.addr = f.addr) (hd : f.lo + f.width ≤ g.lo ∨ g.lo + g.width ≤ f.lo) : (s.setF f x).getF g = s.getF g := by
  rw [State.getF, ha, State.toNat_rd_setF hw f x h, State.getF, ha]
  rcases hd with hd | hd
  · exact bits_putBits_above _ _ _ _ _ hd
  · exact bits_putBits_below _ _ _ _ hd

theorem State.getF_lt (s : State) (f : FRef) : s.getF f < 2 ^ f.width := bits_lt _ _ _

/-- A register write keeps the register file canonical. -/
theorem State.wr_wf {s : State} (h : tabWf regReset s.regs = true) (a : Nat) (v : Word) : tabWf regReset (s.wr a v).regs = true :=
  tabWf_put _ h a v

theorem State.setF_wf {s : State} (h : tabWf regReset s.regs = true) (f : FRef) (x : Nat) :
    tabWf regReset (s.setF f x).regs = true := State.wr_wf h _ _

/-- Counting up: the new value, and where it stops. -/
theorem State.getF_addWrap {s : State} (hw : tabWf regReset s.regs = true) (f : FRef) (n : Nat) (h : f.lo + f.width ≤ 32) :
    (s.addWrap f n).getF f = (s.getF f + n) % 2 ^ f.width := State.getF_setF_same hw f _ h

theorem State.getF_addSat {s : State} (hw : tabWf regReset s.regs = true) (f : FRef) (n : Nat) (h : f.lo + f.width ≤ 32) :
    (s.addSat f n).getF f = min (s.getF f + n) (2 ^ f.width - 1) := by
  rw [State.addSat, State.getF_setF_same hw f _ h]
  have hp := Nat.two_pow_pos f.width
  exact Nat.mod_eq_of_lt (by omega)

end Sys2Proof.Machine
end

