-- ==== Sys2Proof/Machine/Pins.lean ====
section
/-! DEFINITION. What every signal of the package shows (R433, R561, R568, R574, R577): a view of the state, which no command
reads. -/

namespace Sys2Proof.Machine

/-- The signals of R561. A bus is one signal where all its lines stand alike. -/
inductive Signal where
  | porN | pwrOn | wakeN (n : Nat) | faultN | safeStateN | dispFallback | slowclk | refclk
  | xspiCsN | xspiResetN | xspiCk | xspiDq | pmb | pmbAlertN | avsClk | avsMdata | avsSdata
  | canTx (c : Nat) | canRx (c : Nat) | tckTrst | tmsTdi | tdo | gpio (n : Nat) | ring (p : Nat)
  | csi (p : Nat) | edpMl (o : Nat) | edpAux (o : Nat) | dsi (o : Nat) | ethTx (n : Nat) | ethRx (n : Nat)
  | pcieTx (k : Nat) | pcieRx (k : Nat) | pcieRefclk | lpddr
deriving DecidableEq, Repr

/-- The state of a signal. `active`: its function works it, with levels that are the traffic's; `kept`: a keeper holds a level;
`scanned`: boundary scan drives it from its cells. -/
inductive PinState where
  | low | high | hiZ | input | inputUp | inputDown | released | idle | lp11 | bypassed | oscillating | hold | selfRefresh
  | active | kept (level : Bool) | scanned
deriving DecidableEq, Repr

def levelState (b : Bool) : PinState := if b then .high else .low

/-- Boundary scan covers every VDDIO_18 signal but the JTAG pins; POR_N and REFCLK are only observed (R580). -/
def scanCovers : Signal → Bool
  | .pwrOn => true
  | .faultN => true
  | .safeStateN => true
  | .dispFallback => true
  | .xspiCsN => true
  | .xspiResetN => true
  | .xspiCk => true
  | .xspiDq => true
  | .pmb => true
  | .avsClk => true
  | .avsMdata => true
  | .canTx _ => true
  | .gpio _ => true
  | _ => false

/-- The Sage-side buses rest as in a Sage reset: in one, and in PARK (R574). -/
def sageRests (s : State) : Bool := decide (s.boot.sage = .held ∨ s.clk.mode = .park)

/-- A pad's pull in its function, or in its park state (R568). -/
def pullState : Nat → PinState
  | 1 => .inputUp
  | 2 => .inputDown
  | _ => .input

/-- A GPIO pad: its park, or its function (R566 to R569). -/
def gpioState (s : State) (n : Nat) : PinState :=
  let p := s.pad n
  if p.parking then
    (if p.keepDrive then levelState p.level
     else match s.getF (PAD_CFG.park n) with
       | 0 => .kept p.level
       | 3 => .hiZ
       | k => pullState k)
  else match padDrives s n p.func with
    | some b => levelState b
    | none => if p.func = 2 then .kept p.level else pullState (s.getF (PAD_CFG.pull n))

/-- A signal of the Sage die on VDDIO_18 that is powered, outside boundary scan. -/
def sageSignal (s : State) : Signal → PinState
  | .pwrOn => levelState s.pins.pwrOn
  | .wakeN _ => .inputUp
  | .faultN => if s.pins.powerOn then .hiZ else levelState !s.pins.faultN
  | .safeStateN => if s.pins.powerOn then .hiZ else levelState !s.pins.safeState
  | .dispFallback => if s.pins.powerOn then .hiZ else levelState s.pins.dispFallback
  | .xspiCsN => if sageRests s then .high else .active
  | .xspiResetN => if sageRests s ∨ s.pins.xspiReset then .low else .high
  | .xspiCk => if sageRests s then .low else .active
  | .xspiDq => if sageRests s then .inputDown else .active
  | .pmb => if sageRests s then .released else .active
  | .avsClk => if sageRests s then .low else .active
  | .avsMdata => if sageRests s then .high else .active
  | .canTx c => if sageRests s ∨ canMode s c = 0 then .high else .active
  | .tckTrst => .inputDown
  | .tmsTdi => .inputUp
  | .tdo => .hiZ
  | .gpio n => gpioState s n
  | _ => .input

/-- A ring port (R577): both switches closed, or the port's own state. -/
def ringSignal (s : State) (p : Nat) : PinState :=
  if railGoodB s 2 = false ∨ bypassOpen s = false then .bypassed
  else if portState s p = 4 then .idle
  else .active
where
  /-- A rail of group B is in range (PWR_RAIL_STATUS). -/
  railGoodB (s : State) (bit : Nat) : Bool := bitB (s.getF PWR_RAIL_STATUS.good) bit

/-- A display lane: its output sends, or rests as the lane does. -/
def dispLane (s : State) (o : Nat) (rest : PinState) : PinState :=
  if s.clk.mode ≠ .doze ∧ s.flag (DISP_OUT_STATE.enabled o) then .active else rest

/-- A signal of the main die whose PHY is powered (R433, R574). -/
def mainSignal (s : State) (sig : Signal) : PinState :=
  let up := mainReleased s
  let on := up && decide (s.clk.mode ≠ .doze)
  match sig with
  | .csi _ => if on then .active else if up then .idle else .hiZ
  | .edpMl o => if up then dispLane s o .idle else .idle
  | .edpAux o => if up then dispLane s o .idle else .hiZ
  | .dsi o => if up then dispLane s o .lp11 else .lp11
  | .ethTx n => if on ∧ s.flag (NET_STATE.link n) then .active else .idle
  | .ethRx _ => if on then .active else if up then .idle else .hiZ
  | .pcieTx k => if on ∧ s.flag (PCIE_STATE.link_up k) then .active else .idle
  | .pcieRx _ => if on then .active else if up then .idle else .hiZ
  | _ => .input

/-- The LPDDR5X signals: hold pads in PARK and in a main-die reset, self-refresh in DOZE (R27, R574). -/
def lpddrSignal (s : State) : PinState :=
  if railGood s 0 = false ∨ railGood s 1 = false then .hiZ
  else if !mainReleased s then .hold
  else if s.clk.mode = .doze then .selfRefresh
  else .active

/-- What a signal shows now. -/
def signalState (s : State) (sig : Signal) : PinState :=
  match sig with
  | .slowclk => .oscillating
  | .ring p => ringSignal s p
  | .lpddr => lpddrSignal s
  | .csi _ => pow
  | .edpMl _ => pow
  | .edpAux _ => pow
  | .dsi _ => pow
  | .ethTx _ => pow
  | .ethRx _ => pow
  | .pcieTx _ => pow
  | .pcieRx _ => pow
  | .pcieRefclk => pow
  | _ =>
    if s.pins.powerOn = false ∧ ringSignal.railGoodB s 3 = false then .hiZ
    else if scanHolds s && scanCovers sig then (if s.tap.ir = 5 then .hiZ else .scanned)
    else sageSignal s sig
where
  pow : PinState := if railGood s 2 then mainSignal s sig else .hiZ

end Sys2Proof.Machine
end

