-- ==== Sys2Proof/WellFormed.lean ====
section
/-! DEFINITION. Which commands the block can be given: every unit, pin and index a command names exists (the counts are
those of spec/00, spec/01 and spec/21). A meaning given a command outside these bounds leaves the state as it is. -/

namespace Sys2Proof

/-- The command names only units, pins and indexes that exist. -/
def Instr.wf (i : Instr) : Bool :=
  match i with
  | .powerOnReset _ | .porNRelease _ | .sageReset | .groupBRailLoss _ | .railMonitorTrip _ _ |
  .preTripletCoreFault _ | .backoffExpiry _ | .bootWatchdogExpiry | .bootAliveWrite _ _ | .sageResetWrite _ _ |
  .groupCRailGood _ | .railGoodTimeout | .railOffDone _ | .mainDieBringUp _ | .mainStepTimeout | .jobsAccepted |
  .sageLinkFlitError _ | .timeRateAdjWrite _ _ | .sweepTimerExpiry | .refreqAssert | .dozeHoldExpiry _ |
  .tileStepChange | .avsSettleExpiry | .dramStepChange | .vlogRdWrite _ _ | .managerWrite _ _ | .kernelDispatch |
  .lockstepMismatch | .heartbeatMiss | .tripletDisagreement _ | .tripletResyncDone | .backgroundTest _ |
  .refclkBad | .refclkRecovered | .mainDieNoResponse | .duplicateCheckDisagree | .sageSramUe | .faultNHoldExpiry |
  .telemetrySample _ | .thermalRead _ | .warnThrottleStep | .multiRoundTimeout | .pacerWindowBoundary _ |
  .bypassClose | .bypassOpen | .timesyncPeriod | .batonTimeout | .legTimeout | .ringSleepSet | .pbufRdWrite _ _ |
  .qsClear _ _ | .tapExtest | .tapSamplePreload _ | .tapIdcode | .tapClamp | .tapHighz | .tapReset |
  .patrolScrub _ _ | .heartbeatIncrement
    => true
  | .injectionWindowEnd test _
    => decide (1 ≤ test ∧ test ≤ 13)
  | .timeCopyMismatch domain _
    => decide (domain < 14)
  | .latchingLoRead _ .timeCsr
    => true
  | .latchingLoRead _ (.reg addr) | .poisonRead _ addr _ | .lockSet _ addr | .registerWrite _ addr _ |
  .forbiddenRegisterRead _ addr
    => decide (addr < 2 ^ 40)
  | .wakeNLatch pin
    => decide (pin < 4)
  | .hostTimerCompare core
    => decide (core < 12)
  | .pcieWake k | .pcieInbound k _ | .pcieLinkDown k
    => decide (k < 2)
  | .canWakeDetect c | .canFrameReceive c _ _ _ _ | .canFrameTransmit c | .canBusOff c | .canBusRecover c
    => decide (c < 16)
  | .domainIdleExpiry domain | .domainDemand domain
    => decide (domain < 14)
  | .doorbellWrite _ q _ | .queueEnable _ q _ | .queueDisable _ q _ | .packetConsume q
    => decide (q < 64)
  | .packetStart q idx | .sysNop q idx | .sysInfo q idx | .sysTime q idx | .sysSignal q idx | .sysWait q idx |
  .waitTimeout q idx | .sysFlashWrite q idx _ | .sysFlashCheck q idx _ | .sysRollback q idx | .jobRun q idx |
  .jobSearch q idx | .jobGfx q idx | .laneConfig q idx | .laneQuery q idx | .memRoot q idx | .memInvalidate q idx
  | .memCopy q idx | .memBayLoad q idx | .memPace q idx | .streamSensor q idx | .streamDisplay q idx |
  .streamCanCfg q idx | .streamCanTx q idx | .streamRouter q idx | .streamStop q idx | .idxCreate q idx |
  .idxBuild q idx | .idxInsert q idx | .idxDelete q idx | .idxPublish q idx | .idxWait q idx | .idxDestroy q idx |
  .ringConfig q idx | .ringSweep q idx | .ringRecollect q idx | .ringSend q idx | .ringRecv q idx |
  .ringProbe q idx | .ringParkCfg q idx | .pwrStep q idx | .pwrCap q idx | .pwrMulti q idx | .pwrPark q idx |
  .pwrShutdown q idx | .pwrQuery q idx | .safStall q idx | .safPair q idx | .safTest q idx | .safEnter q idx |
  .safReport q idx | .instRights q idx | .instQuiesce q idx | .instResume q idx | .instReset q idx |
  .instFreeze q idx | .instSave q idx | .instRestore q idx | .instThaw q idx | .instRemove q idx |
  .kernelEnd q idx | .stallLimitExpiry q idx | .jobCommit q idx _ | .stagingPageGrant q idx | .attend q idx |
  .append q idx | .scatter q idx | .gfxTarget q idx | .gfxShader q idx | .gfxState q idx | .gfxVertex q idx |
  .gfxDraw q idx _ | .fragmentRetire q idx _ | .gfxClear q idx | .gfxBins q idx | .gfxEnd q idx
    => decide (q < 64 ∧ idx < 2 ^ 32)
  | .mboxAddressWrite _ inst _ _ | .ringMgr _ inst | .ringTen _ inst
    => decide (inst < 16)
  | .pllUnlock pll
    => decide (pll < 13)
  | .statusWordPoll faults
    => decide (faults < 2 ^ 16)
  | .droopTrip detector | .droopRelease detector
    => decide (detector < 6)
  | .urgRise k fill | .urgFall k fill
    => decide (k < 8 ∧ fill ≤ 16)
  | .vld t | .vst t | .sld t | .sst t | .wld t | .xld t | .xst t | .copyLand t _ | .mmt t | .mpool t |
  .matrixOpEnd t | .vadd t | .vsub t | .vmul t | .vfma t | .vmax t | .vmin t | .vabs t | .vshr t | .vclamp t |
  .vcmp t | .vsel t | .vperm t | .vred t | .vbcst t | .vexp2 t | .vrcp t | .vrsqrt t | .vacc t | .vcvt t |
  .vmovs t | .saddi t | .slui t | .salu t | .tileLoop t | .tileBnz t | .tileJmp t | .tileFset t | .tileWaitt t |
  .tileWaittRelease t | .tileBar t | .tileBarRelease t | .tileEnd t | .illegalBundle t
    => decide (t < 32)
  | .wldComplete t w
    => decide (t < 32 ∧ w < 2)
  | .tileNop t slot
    => decide (t < 32 ∧ slot < 4)
  | .pairMismatch k
    => decide (k < 16)
  | .verticalBlank o | .displayLinkUp o | .displayUnderrun o _ _
    => decide (o < 4)
  | .sensorFrameStart t _ | .sensorFrameEnd t _ | .sensorLineReceive t _ _ _ _ _ | .sensorFrameTimeout t
    => decide (t < 16)
  | .netTxTailWrite _ n _ | .netRxTailWrite _ n _ | .netFrameTransmit n | .netFrameReceive n _ _ |
  .ethernetLinkChange n _
    => decide (n < 6)
  | .pcieLinkUp k width gen
    => decide (k < 2 ∧ width ≤ 8 ∧ gen ≤ 5)
  | .ringTrainRestart p | .ringSleepWake p _ | .ringRelockTimeout p
    => decide (p < 2)
  | .ringPortDown p seen
    => decide (p < 2) && match seen with
      | .groups gs => gs.all fun g => decide (g < 2 ^ 10)
      | _ => true
  | .ringTrainingSet p gs | .ringFrameReceive p gs | .sweepFrame p gs | .recollectFrame p gs | .dataFrame p gs |
  .batonFrame p gs | .probeFrame p gs | .wrapFrame p gs | .timesyncFrame p gs
    => decide (p < 2) && gs.all fun g => decide (g < 2 ^ 10)
  | .dataRetransmitTimeout dst
    => decide (dst < 16)
  | .qsCountRead _ lane slot
    => decide (lane < 8 ∧ slot < 16)
  | .padFunctionChange _ pad _ | .padParkEnd pad _
    => decide (pad < 64)
  | .evtEnableWrite _ gen _ | .evtPulseStart gen | .evtPulseEnd gen
    => decide (gen < 4)
  | .tapBypass code
    => decide (code < 2 ^ 6)
  | .slowRisingEdge wakeN gpio
    => decide (wakeN < 2 ^ 4 ∧ gpio < 2 ^ 64)
  | .hostCoreLoadStore core _ addr _ _
    => decide (core < 12 ∧ addr < 2 ^ 40)
  | .hotPlugDetectChange o _
    => decide (o < 2)

end Sys2Proof
end

