-- ==== Sys2Proof/Tests/Slice0.lean ====
section
/-! SUPPORT. The author's own tests: ill-formed commands that the check refuses, single steps on small states with results
taken from the spec, and a witness for the hypotheses of every statement. -/

open Sys2Proof Sys2Proof.Machine

namespace Sys2Proof.Tests

set_option Elab.async false

/-! ### Small states -/

/-- A started packet of a queue with an opcode and no parameters. -/
def witPkt (q idx op : Nat) : Pkt where
  q := q
  idx := idx
  slotAddr := 0
  opcode := op
  flags := 0
  seq := 0
  inst := 0
  lane := 0
  lc := false
  deadline := 0
  replyAddr := 0
  params := []
  at_ := 0
  began := 0
  phase := .started
  reply := none
  prog := 0
  out := none

/-- Work whose accesses the pacers have admitted in the states below. -/
def witActs : List HeldAct := [.packet 3 0, .job 3 0, .start 7 0, .consume 7]

/-- The reset state accepting jobs, with some packets; every access of `witActs` has been admitted. -/
def witOn (ps : List Pkt) : State :=
  { State.reset.setF CMDP_STATUS.accepting 1 with
    pkts := ps
    pace := { State.reset.pace with waits := witActs.map fun a => ⟨a, true, [], 0⟩ } }

/-- A lane of tiles 0 and 1, memory channel 0 and the first 16 MiB of the Bay. -/
def witLane : LaneRec := ⟨3, 1, 0xF, 0, 16, 0, 0, 0, false⟩

/-- Memory cells from an address on; zero bytes are not listed. -/
def witCells (a : Nat) (bs : List Byte) : List Host.Cell :=
  ((List.range bs.length).filter fun i => decide (bs.getD i 0 ≠ 0)).map fun i => (a + i, bs.getD i 0)

/-- Accepting, with `witLane` defined, the Bay and channel 0 mapped one to one for instance 0, and bytes at the
start of the Bay. -/
def witReach (ps : List Pkt) (bs : List Byte) : State :=
  let s := (((witOn ps).setF (XLT_CFG.format 0) 2).setF (INST_STATE.state 0) 1).setF (INST_RIGHTS.lane_mask 0) 0xFF
  { s with
    lanes := [(0, some witLane)]
    ms := { s.ms with tlb := [⟨0, 1, 1, 0x4000000F⟩, ⟨0, 1, 32, 0x80000000F⟩], mem := witCells 0x40000000 bs } }

/-- An image with one tile kernel on one tile: header, descriptor, one bundle (R310, R311). -/
def witImage : List Byte :=
  leBytes 12 (0x31494E52 + 1 * 2 ^ 32 + 1 * 2 ^ 64 + 1 * 2 ^ 80) ++ leBytes 16 (128 + 64 * 2 ^ 32) ++
  leBytes 36 (96 + 32 * 2 ^ 32 + 96 * 2 ^ 64) ++ leBytes 32 (1 * 2 ^ 8 + 1 * 2 ^ 64) ++ leBytes 32 0

/-- A ready job of packet 0 of queue 3. -/
def witJob : Job :=
  { newJob State.reset (witPkt 3 0 0x1000) .run 1 0 with image := witImage, stall := 0 }

/-- Parameters of an IDX_CREATE: index 0 in memory channel 0, one element a vector, product codes, 16 slots. -/
def witCreate : List Byte :=
  leBytes 16 (2 ^ 24 + 2 ^ 32 + 2 ^ 48 + 2 ^ 64 + 16 * 2 ^ 96) ++ leBytes 16 (0x800000000 + 0x7000 * 2 ^ 64)

/-- That index, as IDX_CREATE makes it. -/
def witIdx : IdxRec := newIdx { witPkt 3 0 0x4000 with params := witCreate }

/-- Accepting, with port A enabled and UP. -/
def witRing : State := ((witOn []).setF RING_CTRL.port_a_en 1).setF RING_STATUS.a_state 2

/-- The code-groups of the shortest frame of a type, from /S/ to /T/. -/
def witGroups (k : Nat) : List Nat :=
  let body : List Byte := if k = 1 then List.replicate 16 0 else if k = 3 then [0] else if k = 6 then List.replicate 8 0
    else if k = 7 then List.replicate 80 0 else []
  (encode false (.start :: (RFrame.bytes ⟨k, 0, 1, 0, 0, 0, 0xFF, 0, body⟩).map (fun b => .data b.toNat) ++ [.stop])).1

/-- A running tile kernel of `witJob` on tile 0 whose one bundle has these slot words. -/
def witTile (ls mx vx ct : Nat) (r : TileRec) : State :=
  let s := (witReach [{ witPkt 3 0 0x1000 with phase := .waiting }] []).setF (CLK_DOM_STATUS.running 4) 1
  let c := leBytes 32 (ls + mx * 2 ^ 64 + vx * 2 ^ 128 + ct * 2 ^ 224)
  ({ s with jobs := [{ witJob with phase := .running, bind := [0] }] } : State).setTile 0
    { r with job := some (3, 0), code := c }

/-- A feeder descriptor of one pixel of 64 elements (R331). -/
def witFeeder : List Byte :=
  leBytes 14 (2 ^ 32 + 2 ^ 48 + 64 * 2 ^ 64 + 64 * 2 ^ 96) ++ leBytes 50 (2 ^ 16 + 2 ^ 32)

/-- A running attention kernel with one step of an operation (R369, R370). -/
def witAttn (op : Nat) : State :=
  let s := (witReach [{ witPkt 3 0 0x1000 with phase := .waiting }] []).setF (CLK_DOM_STATUS.running 5) 1
  let m := leBytes 64 (2 ^ 80 + 64 * 2 ^ 128) ++ leBytes 32 (1 + 96 * 2 ^ 160) ++
    leBytes 64 (1 + 16 * 2 ^ 16 + 3 * 2 ^ 32 + 2 ^ 40 + 2 ^ 96) ++
    leBytes 32 (op + (if op = 3 then 2 ^ 16 else 0) + 2 ^ 32)
  { s with jobs := [{ witJob with phase := .running, bind := [0], image := m }] }

/-- A running graphics job with a stream, and bytes at the start of the Bay. -/
def witGfx (mem stream : List Byte) : State :=
  let s := (witReach [{ witPkt 3 0 0x1002 with phase := .waiting }] mem).setF (CLK_DOM_STATUS.running 7) 1
  { s with jobs := [{ witJob with phase := .running, kind := .gfx, image := stream }] }

/-- A plain surface of one pixel (R418). -/
def witSurface : List Byte := leBytes 32 (0x40001000 + 64 * 2 ^ 128 + 2 ^ 160 + 2 ^ 176 + 2 ^ 192)

def witFrag : Frag := ⟨0, 0, 0, 0, []⟩

/-- Accepting in mode ON with the main die up; core 1 belongs to instance 1, PCIe port 1 to instance 5. -/
def witUp : State :=
  { ((witReach [] []).setF (SYS_CORE_TAG.tag 1) 1).setF (PCIE_CFG.bound 1) 5 with boot := { State.reset.boot with sage := .up, main := .up }, clk := { State.reset.clk with mode := .on } }

/-- A timing block with one active line. -/
def witTiming : List Byte := leBytes 64 (2 ^ 32 + 2 ^ 96)

def witSens : SensRec := ⟨0, leBytes 32 (1 * 2 ^ 128), 0, 0, false, false, none, false⟩
def witFrame : SensFrame := ⟨0, 0, 0, 1, 0, 0⟩

/-- Port 5 of the network with a link, rings of two descriptors in the Bay, both handed over. -/
def witNet : State :=
  let s := { witUp with ms := { witUp.ms with mem := witCells 0x40000000 (leBytes 64 (2 ^ 80 + 2 ^ 336)) } }
  let s := ((s.setF (NET_PORT_CFG.enable 5) 1).setF (NET_STATE.link 5) 1).setF (NET_RING_CFG.tx_en 5) 1
  let s := ((s.setF (NET_RING_CFG.rx_en 5) 1).setF (NET_RING_CFG.tx_log2 5) 1).setF (NET_RING_CFG.rx_log2 5) 1
  let s := (s.setF (NET_TX_BASE_LO.lo 5) 0x1000000).setF (NET_RX_BASE_LO.lo 5) 0x1000000
  (s.setF (NET_TX_TAIL.tail 5) 1).setF (NET_RX_TAIL.tail 5) 1

/-- The same with every rail group good. -/
def witGood : State := witUp.setF PWR_RAIL_STATUS.good 0x1FF

/-- A host core of instance 1 that is not in machine mode. -/
def witTenant : BusMaster := .hostCore 1 false

/-! ### Witnesses of the statements' hypotheses -/


/-- Every statement about admitted work has such work in the states of its witness. -/
theorem wit_admitted (act : HeldAct) (h : act ∈ witActs) (f : State → State) (s : State)
    (hs : s.pace.waits = (witOn []).pace.waits) : ∃ t, Admitted act f s t := by
  unfold Admitted
  rw [hs]
  simp only [witActs, List.mem_cons, List.not_mem_nil, or_false] at h
  rcases h with rfl | rfl | rfl | rfl <;> exact ⟨_, fun _ => by simp, rfl, rfl, rfl⟩
theorem wit_empty_queue : State.reset.pending = [] := rfl
theorem wit_next_state : ∃ t, exec .sageReset State.reset = .next t := ⟨_, rfl⟩
theorem wit_step_answers : ∃ t, step State.reset = .next t := ⟨_, rfl⟩
theorem wit_canonical_state : State.Inv State.reset ∧ ∃ t, step State.reset = .next t := ⟨by decide, _, rfl⟩
theorem wit_store : State.Inv State.reset ∧ 0x40000000 + [(1 : Byte), 2].length ≤ 0x800000000 := by decide
theorem wit_log : State.Inv State.reset := by decide
theorem wit_record_waits : ∃ (s : State) (p o : Pkt), s.pkt 0 1 = some p ∧ s.pkt 0 (s.queue 0).done = some o ∧
    o.phase ≠ .ended ∧ (s.queue 0).done ≠ 1 :=
  ⟨{ State.reset with pkts := [witPkt 0 0 0, witPkt 0 1 0] }, witPkt 0 1 0, witPkt 0 0 0, by decide, by decide, by decide, by decide⟩
theorem test_judge_at_the_deadline : judge 100 100 0 0 0 = (0, 0) ∧ judge 100 101 2 0 0 = (0x30, 0x20000001) := by decide
theorem wit_resets : State.reset.boot.sage = .held ∧ State.reset.clk.stopValid = false ∧ State.reset.clk.mode = .off ∧
    ({ State.reset.clk with mode := .on } : ClockState).mode ≠ .off ∧
    railIdx .sage = none ∧ railIdx .vdd2h = some 0 ∧ (State.reset.rail 0).watched = false ∧
    (let s : State := { State.reset.setRail 0 ⟨true, 0, true, 0⟩ with clk := { State.reset.clk with time := 1 } }
     (s.rail 0).watched = true ∧ (s.rail 0).on = true ∧ 0 < s.now) ∧
    (let s : State := State.reset.setRail 0 ⟨false, 0, true, 7⟩
     (s.rail 0).watched = true ∧ (s.rail 0).on = false ∧ (s.rail 0).offAt ≤ 7) ∧
    (let s : State := { State.reset with boot := { State.reset.boot with startDue := some ⟨[], false⟩ },
                                         clk := { State.reset.clk with restartDue := true, stopValid := true } }
     (romStart (timeRestart s) ⟨[], false⟩).clk.running = true ∧ (romStart (timeRestart s) ⟨[], false⟩).clk.stopDue = false) ∧
    State.reset.boot.tripletRan = false ∧ ({ State.reset.boot with sage := .waitAlive } : BootState).sage ≠ .held := by
  decide +kernel
theorem wit_sage_start : State.reset.boot.backoffUntil ≤ State.reset.now ∧
    ({ State.reset.boot with sage := .backoff } : BootState).sage = .backoff ∧
    (let s : State := { State.reset with boot := { State.reset.boot with main := .backoff } }
     s.boot.mainUntil ≤ s.now ∧ s.boot.sage ≠ .backoff ∧ s.boot.main = .backoff) ∧
    (let s : State := { State.reset with boot := { State.reset.boot with sage := .waitAlive }, clk := { State.reset.clk with time := 1 } }
     s.boot.watchdog < s.now) ∧
    (let s : State := { State.reset with boot := { State.reset.boot with sage := .waitAlive } }
     s.now ≤ s.boot.watchdog) := by decide
theorem wit_bring_up : railIdx .soc = some 2 ∧
    (let s : State := { State.reset.setRail 2 ⟨true, 5, false, 0⟩ with boot := { State.reset.boot with main := .rails 2 },
                                                                       clk := { State.reset.clk with time := 500005 } }
     s.boot.main = .rails 2 ∧ (s.rail 2).onAt ≤ s.now ∧ s.now ≤ (s.rail 2).onAt + 500000 ∧
     nextRail (setRailGood (s.setRail 2 { s.rail 2 with watched := true }) 6 true) = some 0) ∧
    (let s : State := { State.reset with boot := { State.reset.boot with main := .rails 2 }, clk := { State.reset.clk with time := 500001 } }
     s.boot.main = .rails 2 ∧ (s.rail 2).onAt + 500000 < s.now) ∧
    (let s : State := { State.reset with pwr := { State.reset.pwr with down := [3] }, clk := { State.reset.clk with time := 100000 } }
     s.pwr.down = [3] ∧ (s.rail 3).offAt + 100000 ≤ s.now) ∧
    ({ State.reset.pwr with down := [3, 2] } : PowerState).down = [3, 2] ∧
    (let s : State := { State.reset with boot := { State.reset.boot with main := .start }, clk := { State.reset.clk with running := true } }
     s.boot.main = .start ∧ s.pwr.down = [] ∧ s.clk.running = true) ∧
    (let s : State := { State.reset with boot := { State.reset.boot with main := .step2 }, clk := { State.reset.clk with time := 100001 } }
     (s.boot.main = .step2 ∨ s.boot.main = .ready) ∧ s.boot.stepAt + 100000 < s.now) ∧
    (let s : State := { State.reset with boot := { State.reset.boot with main := .tests }, clk := { State.reset.clk with time := 1480001 } }
     s.boot.main = .tests ∧ s.boot.stepAt + 1480000 < s.now) := by decide
theorem wit_hot_sensor : State.Inv State.reset ∧ (182 : Nat) ∈ [89, 182] ∧ (182 : Nat) ≤ 182 ∧
    (let s : State := { State.reset with boot := { State.reset.boot with main := .start }, clk := { State.reset.clk with running := true } }
     State.Inv s ∧ s.boot.main = .start ∧ s.pwr.down = [] ∧ s.clk.running = true) := by decide
theorem wit_tests : State.reset.boot.run ≠ .safTest ∧
    (let s : State := { State.reset with boot := { State.reset.boot with run := .safTest, left := [4] } }
     s.boot.run = .safTest ∧ s.boot.left = [4]) ∧
    (let s : State := { State.reset.setF SAF_STATUS.safe 1 with
       boot := { State.reset.boot with main := .ready }, clk := { State.reset.clk with running := true, time := 10000 } }
     mayAccept s = true ∧ s.flag SAF_STATUS.safe = true) ∧
    (let s : State := { State.reset with clk := { State.reset.clk with mode := .doze, dozeExit := true },
                                         pwr := { State.reset.pwr with vTile := 850 } }
     mayAccept s = false ∧ dozeMayEnd s = true) ∧
    (let s : State := { State.reset with boot := { State.reset.boot with main := .up },
                                         clk := { State.reset.clk with mode := .on, time := 100000000 } }
     s.boot.main = .up ∧ s.clk.mode = .on ∧ s.boot.run = .none ∧ s.saf.bgAt + 100000000 ≤ s.now) := by decide
theorem wit_acceptance :
    (let s : State := { State.reset with boot := { State.reset.boot with main := .ready }, clk := { State.reset.clk with running := true } }
     mayAccept s = true ∧ State.Inv s) := by decide
theorem wit_safe_causes : (3 : Nat) ≤ 3 ∧ (2 : Nat) < 3 ∧
    (let s : State := { State.reset with boot := { State.reset.boot with main := .up } }
     3 ∈ [3, 4, 5, 6, 7, 8, 9, 10, 11, 12] ∧ mainReleased s = true ∧ 2 ≤ Int.natAbs (-2) ∧ Int.natAbs (-1) = 1) ∧
    (let s := setPlls State.reset mainPlls true
     bitB (s.getF CLK_PLL_STATUS.lock) 3 = true ∧ (3 : Nat) < 13 ∧ bitB mainPlls 3 = true) ∧
    refclkNeeded { State.reset with clk := { State.reset.clk with mode := .on } } = true ∧
    (let s : State := { State.reset with boot := { State.reset.boot with sage := .romTests }
                                         clk := { State.reset.clk with mode := .on } }
     cpRuns s = true ∧ s.boot.tripletRan = false ∧ s.boot.sage ≠ .held) ∧
    (let s : State := { State.reset with boot := { State.reset.boot with sage := .up, tripletRan := true }
                                         clk := { State.reset.clk with mode := .on, time := 1000000 } }
     tsuquelRuns s = true ∧ s.boot.tripletRan = true ∧ s.saf.beatAt + 1000000 ≤ s.now) := by decide
theorem wit_safe_entry :
    (let s : State := { State.reset with boot := { State.reset.boot with sage := .up, main := .up } }
     let m : AcceptMark := ⟨0, 0, .on, 0, false, false, false, 0, 0, 0⟩
     State.Inv s ∧ (1 : Nat) < 256 ∧ s.boot.sage = .up ∧ s.boot.main = .up ∧ acceptedNow s = none ∧
     acceptedNow { s with saf := { s.saf with accept := some m } } ≠ none) := by decide
theorem wit_safety_events :
    (let s : State := { State.reset with boot := { State.reset.boot with sage := .up, tripletRan := true }
                                         clk := { State.reset.clk with mode := .on } }
     tsuquelRuns s = true ∧ s.boot.tripletRan = true ∧ s.saf.resync = none ∧ s.saf.retired = none) ∧
    ({ State.reset.saf with resync := some 1 } : SafetyState).resync = some 1 ∧
    (let s : State := { State.reset.setF SAF_CLKMON.refclk_bad 1 with clk := { State.reset.clk with time := 1000000 } }
     s.flag SAF_CLKMON.refclk_bad = true ∧ s.saf.refBadAt + 1000000 ≤ s.now) ∧
    (let s : State := { State.reset.setF SAF_FAULT.causes 64 with clk := { State.reset.clk with time := 1000000000 } }
     bitB (faultCauses s) 6 = true ∧ s.saf.entries.headD 0 + 1000000000 ≤ s.now) ∧
    bitB (faultCauses State.reset) 6 = false ∧
    (let s := State.reset.setF SAF_FAULT.fault_n 0
     bitB (faultCauses s) 3 = false ∧ s.flag SAF_FAULT.fault_n = false ∧ s.saf.holdUntil ≤ 10000) ∧
    (let s : State := { State.reset.setF SAF_FAULT.causes 8 with clk := { State.reset.clk with time := 1 } }
     bitB (faultCauses s) 3 = true ∧ tabGet (fun _ => 0) s.saf.causeAt 3 ≠ s.now) := by decide
theorem wit_time : isFirmware .jtag = false ∧ State.reset.clk.restartDue = false ∧ State.reset.clk.running = false ∧
    scanHolds State.reset = false ∧
    (let s : State := { State.reset with clk := { State.reset.clk with running := true, stopDue := true } }
     s.clk.running = true ∧ s.clk.stopDue = true ∧ s.clk.wakePending = false ∧ s.clk.restartDue = false) ∧
    (let s : State := { State.reset.setF (CLK_DOM_STATUS.running 3) 1 with boot := { State.reset.boot with main := .up } }
     mainReleased s = true ∧ gated s 3 = false) ∧
    (let s : State := { State.reset with clk := { State.reset.clk with nextSweep := some 0, mode := .on } }
     s.clk.nextSweep = some 0 ∧ 0 ≤ s.clk.slow ∧ s.clk.mode ≠ .park ∧ s.ring.parkNext = none) ∧
    (let s : State := { State.reset with clk := { State.reset.clk with nextSweep := some 64, mode := .park } }
     s.clk.nextSweep = some 64 ∧ s.clk.mode = .park ∧ 64 ≤ s.clk.slow + 64) := by decide
theorem wit_wakes :
    (let s : State := { State.reset with clk := { State.reset.clk with wakeHist := [4, 7, 7, 7], mode := .park } }
     s.clk.wakeHist.getD 0 7 % 8 = 4 ∧ s.clk.mode = .park ∧ State.Inv s) ∧
    (let s : State := { State.reset with clk := { State.reset.clk with mode := .doze, compares := [(11, 0)] }, pcieUp := [1] }
     s.clk.mode = .doze ∧ (11, 0) ∈ s.clk.compares ∧ 0 ≤ s.now ∧ 1 ∈ s.pcieUp) ∧
    ({ State.reset.clk with mode := .dozeEntry } : ClockState).mode = .dozeEntry ∧
    (let r : CanRec := { CanRec.init with filters := [leBytes 16 (2 * 2 ^ 64)] }
     let s : State := (({ State.reset with clk := { State.reset.clk with mode := .park } } : State).setF (CAN_STATE.mode 3) 2).setCan 3 r
     s.clk.mode = .park ∧ canMode s 3 ≠ 0 ∧ 3 ∉ s.io.canAwake ∧
     ((s.can 3).filters.any fun f => bitB (leAt f 8 1) 1) = true) ∧
    (let s : State := { ((State.reset.setF CMDP_STATUS.accepting 1).setF CLK_DOZE_HOLD.doze_en 1) with
       clk := { State.reset.clk with mode := .on, time := 100000 } }
     s.clk.mode = .on ∧ accepting s = true ∧ s.flag CLK_DOZE_HOLD.doze_en = true ∧ dozeDoms.all (gated s) = true ∧
     s.clk.gatedSince + s.getF CLK_DOZE_HOLD.doze_hold ≤ s.now) := by decide
theorem wit_domains :
    (let s : State := { State.reset.setF (CLK_DOM_STATUS.running 7) 1 with clk := { State.reset.clk with mode := .on, time := 10001 } }
     s.getF (CLK_DOM_CTRL.idle_hold 7) ≠ 0 ∧ (s.dom 7).lastDemand + s.getF (CLK_DOM_CTRL.idle_hold 7) < s.now ∧
     domBusy s 7 = false ∧ gated s 7 = false ∧ State.Inv s) ∧
    State.reset.clk.mode ≠ .doze ∧
    (let s : State := { State.reset with pwr := { State.reset.pwr with avsDue := some 0 } }
     s.pwr.avsDue = some 0 ∧ 0 ≤ s.now ∧ s.clk.mode ≠ .doze) ∧
    (∀ v ∈ [550, 600], ∀ e ∈ [true, false],
      (let s : State := { State.reset with clk := { State.reset.clk with mode := .doze, dozeExit := e, wakePending := true },
                                           pwr := { State.reset.pwr with avsDue := some 0, vTile := v } }
       s.pwr.avsDue = some 0 ∧ 0 ≤ s.now ∧ s.clk.mode = .doze ∧ s.clk.dozeExit = e ∧ s.pwr.vTile = v ∧ s.clk.wakePending = true)) ∧
    (let s : State := { State.reset.setF (CLK_DOM_STATUS.running 10) 1 with clk := { State.reset.clk with mode := .on } }
     s.clk.mode = .on ∧ gated s 8 = true ∧ gated s 9 = true ∧ gated s 10 = false) := by decide
theorem wit_voltage : State.reset.pwr.vTile = 0 ∧ State.reset.pwr.vTile ≠ 550 ∧ State.reset.pwr.avsDue = none ∧
    ({ State.reset.pwr with avsDue := some 5 } : PowerState).avsDue ≠ none := by decide
theorem wit_time_read : State.Inv State.reset ∧ State.reset.clk.time < 2 ^ 64 ∧
    (match exec (.latchingLoRead (.hostCore 0 true) (.reg TIME_NOW_LO.addr))
        { State.reset with clk := { State.reset.clk with time := 0x1_FFFF_FFFF } } with
     | .next t => match exec (.latchingLoRead (.hostCore 0 true) (.reg TIME_NOW_HI.addr))
          { t with clk := { t.clk with time := 0x2_0000_0000 } } with
       | .next v => decide (t.bus.data = 0xFFFFFFFF ∧ v.bus.data = 1)
       | _ => false
     | _ => false) = true := by decide +kernel
theorem wit_queue_doorbell :
    (let s := ((State.reset.setF (CMDP_QCFG.enable 5) 1).setF (CMDP_QCFG.log2_entries 5) 3)
     s.flag (CMDP_QCFG.enable 5) = true ∧ s.flag (CMDP_QSTATE.error 5) = false ∧ (8 : Nat) ≠ s.getF (CMDP_DB.tail 5) ∧
     doorbellOk s 5 8 = true ∧ doorbellOk s 5 9 = false ∧
     ((findReg (CMDP_DB.addr 5)).map fun e => decide (writeMask s (.hostCore 0 true) e.1 e.2 8 ≠ 0)) = some true ∧
     ((findReg (CMDP_DB.addr 5)).map fun e => decide (writeMask s (.pcie 1) { e.1 with writer := .tsuquel } e.2 8 = 0)) = some true ∧
     ((findReg (CMDP_QCFG.addr 5)).map fun e => decide (writeMask s (.hostCore 0 true) e.1 e.2 0 ≠ 0)) = some true ∧
     (s.rd (CMDP_QCFG.addr 5)).toNat % 256 = (3 : Word).toNat % 256) := by decide
theorem wit_queue_setting :
    (let s := State.reset
     s.flag (CMDP_QCFG.enable 63) = false ∧ drained s 63 = true ∧
     queueSetOk ((s.setF (CMDP_QCFG.log2_entries 63) (bits (putBits 0x003 8 1 1) 0 4)).setF (CMDP_QCFG.slot_code 63)
        (bits (putBits 0x003 8 1 1) 4 4)) 63 = true ∧
     ((findReg (CMDP_QCFG.addr 63)).map fun e => decide (writeMask s (.hostCore 0 true) e.1 e.2 0x103 ≠ 0)) = some true ∧
     ((findReg CMDP_VLOG_RD.addr).map fun e => decide (writeMask s (.hostCore 0 true) e.1 e.2 0 ≠ 0)) = some true ∧
     drainRd 64 (s.getF CMDP_VLOG_WR.wr) (s.getF CMDP_VLOG_RD.rd) 0 = some 0) := by decide
theorem wit_packets :
    (let s := ((witOn []).setF (CMDP_QCFG.enable 7) 1).setF (CMDP_DB.tail 7) 1
     mayConsume s 7 = true) ∧
    (let p := { witPkt 7 0 0 with phase := .consumed }
     let s := (witOn [p]).setF (INST_STATE.state 0) 1
     s.pkt 7 0 = some p ∧ startable s p = true ∧ (lanePre s p).2 = .bad 8) ∧
    (let p := { witPkt 7 0 0x2000 with phase := .consumed }
     let s := (witOn [p]).setF (INST_STATE.state 0) 1
     startable s p = true ∧ (lanePre s p).2 = .ok) ∧
    (let p := { witPkt 7 0 0x0004 with phase := .waiting, params := leBytes 16 (5 * 2 ^ 64) }
     let s : State := { witOn [p] with clk := { State.reset.clk with time := 6 } }
     s.pkt 7 0 = some p ∧ timedOut s p = true) := by decide
theorem wit_fence :
    (let p := { witPkt 7 1 0 with phase := .consumed, flags := 4 }
     let s := (witOn [p]).setF (INST_STATE.state 0) 3
     s.pkt 7 1 = some p ∧ bitB p.flags 2 = true ∧ (s.queue p.q).done ≠ p.idx ∧
     (instState s p.inst = 2 ∨ instState s p.inst = 3)) := by decide
theorem wit_system_opcodes :
    (∀ op ∈ [0x0000, 0x0001, 0x0002, 0x0003, 0x0004, 0x0010, 0x0011, 0x0012],
      (startedPkt (witOn [witPkt 3 0 op]) 3 0 op).isSome = true) ∧
    ((witPkt 3 0 2).u 0 1 ≠ 2 ∧ (witPkt 3 0 2).u 1 1 = 0) ∧
    (let p := { witPkt 3 0 2 with params := leBytes 8 0x101 }
     (startedPkt (witOn [p]) 3 0 2).isSome = true ∧ p.u 0 1 = 1 ∧ p.u 1 1 = 1) ∧
    eventSet (witOn []) (qOwner 3) 0 = false ∧ eventSet (putEvent (witOn []) 0 63 true) (qOwner 3) 63 = true ∧
    (let p := { witPkt 3 0 0x10 with params := leBytes 16 0x400000 }
     (preFlashWrite (witOn [p]) p).2 = .ok ∧
     (match (dmaRead (witOn [p]) (pktWho p false) (p.u 8 8) (p.u 4 4)).2 with | .ok _ => true | .error _ => false) = true) ∧
    (witPkt 3 0 0x12).u 0 4 ≤ runningRollback (witOn []) := by decide
theorem wit_rollback : ∃ t, exec (.sysRollback 3 0) (witOn [witPkt 3 0 0x12]) = .next t := ⟨_, rfl⟩
theorem wit_rollback_started :
    (let s := witOn [witPkt 3 0 0x12]
     (startedPkt s 3 0 0x12).any (fun p => decide (p.u 0 4 ≤ runningRollback s))) = true ∧
    (let p : Pkt := { witPkt 3 0 0x12 with params := [1] }
     let s := { witOn [p] with ms := { (witOn [p]).ms with flash := [(12, 0), (13, 0), (14, 0), (15, 0)] } }
     (startedPkt s 3 0 0x12).any (fun p => decide (runningRollback s < p.u 0 4))) = true := by decide +kernel
theorem wit_lane_memory :
    (∀ op ∈ [0x2000, 0x2001, 0x2002, 0x2003, 0x2004, 0x2005, 0x2006],
      (startedPkt (witOn [witPkt 3 0 op]) 3 0 op).isSome = true) ∧
    anyQueue (witOn []) ((witPkt 3 0 0x2002).u 0 1) = false ∧ (witPkt 3 0 0x2003).u 0 1 = qOwner 3 ∧
    (let p := { witPkt 3 0 0x2000 with params := leBytes 32 0x100 }
     let s := { witOn [p] with lanes := [(0, some ⟨0, 0, 0, 0, 0, 0, 0, 0, false⟩)] }
     (preLaneConfig s p).2 = .ok ∧ p.u 1 1 = 1 ∧ (s.lane 0).isSome = true) ∧
    (let p := { witPkt 3 0 0x2004 with params := leBytes 24 (0x40000000 + 0x40001000 * 2 ^ 64 + 4 * 2 ^ 128) }
     let s := witReach [p] []
     (startedPkt s 3 0 0x2004).isSome = true ∧ bitB (p.u 0x14 4) 0 = false ∧
     overlaps (p.u 0 8) (p.u 0x10 4) (p.u 8 8) (p.u 0x10 4) = false ∧
     (match xlateAll (pktWho p false) false (pageSegs (p.u 8 8) (p.u 0x10 4)) s with
      | (u, .ok src) => (match readLands (pktWho p false) src u with
        | (v, .ok _) => (match xlateAll (pktWho p false) true (pageSegs (p.u 0 8) (p.u 0x10 4)) v with
          | (_, .ok dst) => decide (sharedRanges dst src = [])
          | _ => false)
        | _ => false)
      | _ => false) = true) ∧
    (let p := { witPkt 3 0 0x2004 with params := leBytes 24 (0x40000000 + 4 * 2 ^ 128 + 2 ^ 160) }
     let s := witReach [p] []
     (startedPkt s 3 0 0x2004).isSome = true ∧ bitB (p.u 0x14 4) 0 = true ∧
     (dmaWrite s (pktWho p false) (p.u 0 8) (List.replicate (p.u 0x10 4) 0)).2 = none) ∧
    (let p := witPkt 3 0 0x2005
     (preBayLoad (witOn [p]) p).2 = .ok) := by decide +kernel
theorem wit_job_run :
    (let p := { witPkt 3 0 0x1000 with params := leBytes 32 0x40000000 }
     let s := witReach [p] witImage
     (startedPkt s 3 0 0x1000).isSome = true ∧ (jobRunPre s p).2 = .ok ∧
     (match (readImage (jobRunPre s p).1 p).2 with | .ok m => decide (m.length = 128) | .error _ => false) = true ∧
     (match (readSides (jobRunPre s p).1 p).2 with | .ok l => l.isEmpty | .error _ => false) = true) := by decide +kernel
theorem wit_job_search :
    (let p := { witPkt 3 0 0x1001 with params := leBytes 40 (1 * 2 ^ 32 + 1 * 2 ^ 16 + 0x40000000 * 2 ^ 64 + 2 ^ 224 + 2 ^ 240) }
     let s := { witReach [p] [] with idxs := [(0, some witIdx)] }
     (startedPkt s 3 0 0x1001).isSome = true ∧ (jobSearchPre s p).2 = .ok ∧
     (pktIdx (jobSearchPre s p).1 p).isSome = true) := by decide +kernel
theorem wit_job_gfx :
    (let p := { witPkt 3 0 0x1002 with params := leBytes 40 (0x40000000 + 16 * 2 ^ 64) }
     let s := witReach [p] []
     (startedPkt s 3 0 0x1002).isSome = true ∧
     (match (startBytes s p 0 (p.u 0 8) (p.u 8 4)).2 with | .ok b => decide (b.length = 16) | .error _ => false) = true) := by
  decide +kernel
theorem wit_dispatch :
    (let s := { witReach [] [] with jobs := [witJob] }
     accepting s = true ∧ (nextKernel s).isSome = true ∧ nextKernel (witReach [] []) = none ∧
     (match (takeCkpt s witJob ((jrBufs (jobPkt s witJob)).filter inPlace) []).2 with
      | .ok _ => true | .error _ => false) = true ∧
     (nextKernel { s with jobs := [{ witJob with started := true }] }).isSome = true) := by decide +kernel
theorem wit_kernel_end :
    (let j := { witJob with phase := .running, bind := [0] }
     let s := { witReach [] [] with jobs := [j] }
     let t := s.setTile 0 { s.tile 0 with job := some (3, 0), ended := true }
     needKind j = 0 ∧ (kernelTiles t j).all (fun k => (t.tile k).ended) = true ∧
     (let v := s.setTile 0 { s.tile 0 with job := some (3, 0) }
      (kernelTiles v j).all fun k => (v.tile k).ended) = false ∧ (s.job 3 0).isSome = true) ∧
    (let j := { witJob with phase := .running, image := leBytes 64 (64 * 2 ^ 128) ++ leBytes 64 1 }
     needKind j = 1 ∧ leAt (attnHead j.image (kernelDesc j j.kernel)) 0 2 ≤ j.pos) ∧
    (∀ k ∈ [JobKind.search, JobKind.build],
      (let s := { (witReach [] []).setF (CLK_DOM_STATUS.running 6) 1 with jobs := [{ witJob with phase := .running, kind := k }] }
       (s.job 3 0).any (fun j => decide (j.kind = k ∧ j.phase = .running)) = true ∧ accepting s = true ∧ gated s 6 = false)) ∧
    passOver { witJob with kind := .gfx, gfxEnd := true } = true := by decide +kernel
theorem wit_stall :
    (let j := { witJob with phase := .running, retries := 1 }
     let s := { witReach [] [] with jobs := [j], clk := { State.reset.clk with time := 1 } }
     s.job 3 0 = some j ∧ accepting s = true ∧ j.waitPage = none ∧ j.progressAt + j.stall < s.now ∧ instState s 0 ≠ 3 ∧
     standsStill s j = true ∧ j.used < j.retries ∧
     ckptFits { s with lanes := [(0, some { witLane with ckptLen := 65536 })] } { j with waitPage := some 0 } 1 = true ∧
     ckptFits s { j with waitPage := some 0 } 1 = false ∧ ckptHeld s 0 3 0 = 0) := by decide +kernel
theorem wit_commit :
    (let j := { witJob with phase := .ended }
     let s := { witReach [{ witPkt 3 0 0x1000 with flags := 8, phase := .waiting }] [] with jobs := [j], clk := { State.reset.clk with time := 5 } }
     s.job 3 0 = some j ∧ accepting s = true ∧ jobCommits s j = true ∧ maySeal s j = true ∧
     jobCommits (witReach [] []) j = false) ∧
    (∀ b ∈ [true, false], (let j := { witJob with phase := .sealed, copied := b }
      j.phase = .sealed ∧ j.copied = b ∧ j.sides.length ≤ j.sidesDone ∧
      ({ j with sides := [[]] } : Job).sidesDone < ({ j with sides := [[]] } : Job).sides.length)) := by decide +kernel
theorem wit_stream_packets :
    (∀ op ∈ [0x3000, 0x3001, 0x3002, 0x3003, 0x3004, 0x3005],
      (startedPkt (witOn [witPkt 3 0 op]) 3 0 op).isSome = true) ∧
    (let p := { witPkt 3 0 0x3000 with params := leBytes 32 (640 * 2 ^ 32 + 2 ^ 48 + 2 ^ 184) }
     (startedPkt (witOn [p]) 3 0 0x3000).isSome = true ∧ (preStreamSensor (witOn [p]) p).2 = .ok) ∧
    (preStreamDisplay (witOn []) (witPkt 3 0 0x3001)).2 = .ok ∧ outEnabled (witOn []) 0 = false ∧
    outEnabled ((witOn []).setF (DISP_OUT_STATE.enabled 0) 1) 0 = true ∧
    (preCanTx ((witOn []).setF (CAN_STATE.mode 0) 2) (witPkt 3 0 0x3003)).2 = .ok := by decide +kernel
theorem wit_stream_stop :
    (let s := (witOn []).setF (CAN_STATE.mode 15) 2
     canMode s 15 ≠ 0 ∧ (s.can 15).host = [] ∧ ((s.setCan 15 { s.can 15 with host := [⟨⟨0, false, false, false, []⟩, none⟩] }).can 15).host ≠ []) ∧
    (witOn []).sens 15 = none ∧
    ((witOn []).setSens 15 (some ⟨0, [], 0, 0, false, false, none, true⟩)).sens 15 =
      some ⟨0, [], 0, 0, false, false, none, true⟩ := by decide +kernel
theorem wit_index_create :
    (let p := { witPkt 3 0 0x4000 with params := witCreate }
     let s := witReach [p] []
     (startedPkt s 3 0 0x4000).isSome = true ∧ (idxCreatePre s p).2 = .ok) := by decide +kernel
theorem wit_index_build :
    (let p := { witPkt 3 0 0x4001 with flags := 8 }
     let s := { witReach [p] [] with idxs := [(0, some witIdx)] }
     let s1 := { witReach [p] [] with idxs := [(0, some { witIdx with layout := 2 })] }
     (startedPkt s 3 0 0x4001).isSome = true ∧ (idxBuildPre s p).2 = .ok ∧ (idxBuildPre s1 p).2 = .ok ∧
     (pktIdx (idxBuildPre s p).1 p).isSome = true ∧ witIdx.layout = 1 ∧
     (putIdx ⟨(idxBuildPre s p).1, none⟩ (pktWho p true) 0 witIdx).err = none) := by decide +kernel
theorem wit_index_insert :
    (let p := witPkt 3 0 0x4002
     let s := { witReach [p] [] with idxs := [(0, some witIdx)] }
     (startedPkt s 3 0 0x4002).isSome = true ∧ (idxInsertPre s p).2 = .ok ∧
     (pktIdx (idxInsertPre s p).1 p).isSome = true ∧
     (let u := (idxInsertPre s p).1
      let r := readIdVecs u (pktWho p false) p witIdx
      let cb := readCodes r.1 (pktWho p false) witIdx
      let ins := insertAll (pktWho p false) witIdx cb.2 (witIdx.epoch + 1) (cb.1, activeArea witIdx)
        (idVecs witIdx (p.u 4 4) r.2.1 r.2.2)
      (putIdx ins.1 (pktWho p false) (p.u 0 2) (withArea witIdx ins.2)).err = none)) := by decide +kernel
theorem wit_index_rest :
    (∀ op ∈ [0x4003, 0x4004, 0x4005, 0x4006],
      (startedPkt (witOn [witPkt 3 0 op]) 3 0 op).isSome = true) ∧
    witIdx.closing = false ∧ witIdx.epoch = 0 ∧
    (let p := witPkt 3 0 0x4004
     let s := { witReach [p] [] with idxs := [(0, some { witIdx with dirty := true })] }
     let io := publish s (pktWho p false) 0 { witIdx with dirty := true }
     (pktIdx s p).isSome = true ∧ io.err = none ∧ (io.s.idx 0).isSome = true ∧ idxBusy s 0 = false ∧
     idxBusy { s with pkts := [{ witPkt 3 1 0x1001 with phase := .waiting }], jobs := [{ witJob with kind := .search, idx := 1 }] }
       0 = true) := by decide +kernel
theorem wit_ring_packets :
    (∀ op ∈ [0x5000, 0x5001, 0x5002, 0x5003, 0x5004, 0x5005, 0x5006],
      (startedPkt (witOn [witPkt 3 0 op]) 3 0 op).isSome = true) ∧
    ownNode (witOn []) = 0 ∧ upPorts (witOn []) = [] ∧ portEn (witOn []) 0 = false ∧ portEn (witOn []) 1 = false ∧
    upPorts witRing ≠ [] ∧ ownNode witRing = 0 ∧ witRing.ring.sweep = none ∧ witRing.ring.parkDue = false ∧
    witRing.ring.probe = none ∧
    (let p := { witPkt 3 0 0x5001 with params := leBytes 16 (4416 * 2 ^ 64) }
     (startedPkt { witRing with pkts := [p] } 3 0 0x5001).isSome = true ∧ 4416 ≤ p.u 8 4) ∧
    (let p := { witPkt 3 0 0x5002 with params := leBytes 16 7 }
     (startedPkt { witRing with pkts := [p] } 3 0 0x5002).isSome = true ∧ p.u 0 1 ≠ ownNode witRing) := by decide +kernel
theorem wit_power_packets :
    (∀ op ∈ [0x6000, 0x6001, 0x6002, 0x6005], (startedPkt (witOn [witPkt 3 0 op]) 3 0 op).isSome = true) ∧
    (∀ k ∈ [0, 1, 2, 3], (let p := { witPkt 3 0 0x6000 with params := leBytes 8 (5 + k * 256) }
      (startedPkt (witOn [p]) 3 0 0x6000).isSome = true ∧ p.u 1 1 = k ∧ p.u 0 1 ≠ 4)) ∧
    (let p := { witPkt 3 0 0x6000 with params := leBytes 8 (4 + 3 * 256) }
     (startedPkt (witOn [p]) 3 0 0x6000).isSome = true ∧ p.u 0 1 = 4) ∧
    (witPkt 3 0 0x6001).u 0 4 ≤ 95000 ∧
    (let p := { witPkt 3 0 0x6001 with params := leBytes 8 95001 }
     (startedPkt (witOn [p]) 3 0 0x6001).isSome = true ∧ 95000 < p.u 0 4 ∧ sprintPermit (witOn []) = false) ∧
    (let p := { witPkt 3 0 0x6002 with params := leBytes 8 0xFFFFFF0000000000 }
     let s := (witOn [p]).setRing { State.reset.ring with configured := true, t32s := 1 }
     (startedPkt s 3 0 0x6002).isSome = true ∧ (prePwrMulti s p).2 = .ok) := by decide +kernel
theorem wit_sleep_packets :
    (∀ op ∈ [0x6003, 0x6004], (startedPkt (witOn [witPkt 3 0 op]) 3 0 op).isSome = true ∧
      (preDrain (witOn [witPkt 3 0 op]) (witPkt 3 0 op)).2 = .ok) ∧
    (let p := { witPkt 3 0 0x6003 with phase := .waiting }
     let s := { witOn [p] with clk := { State.reset.clk with mode := .on } }
     s.pkt 3 0 = some p ∧ allDone s p = true ∧ s.clk.mode = .on ∧ accepting s = true ∧
     allDone { s with pkts := [p, witPkt 4 0 0] } p = false ∧
     (preDrain { s with pkts := [p, witPkt 4 0 0x6003] } (witPkt 4 0 0x6003)).2 = .bad 0) := by decide +kernel
theorem wit_safety_packets :
    (∀ op ∈ [0x7000, 0x7001, 0x7002, 0x7003, 0x7004], (startedPkt (witOn [witPkt 3 0 op]) 3 0 op).isSome = true) ∧
    (let s := witReach [witPkt 3 0 0x7001] []
     s.lane 0 = some witLane ∧ laneInFlight s 0 3 0 = false ∧ popCount 32 witLane.tiles % 2 = 0) ∧
    (witOn []).boot.main ≠ .up ∧
    ({ witOn [] with boot := { State.reset.boot with main := .up } } : State).boot.main = .up := by decide +kernel
theorem wit_instance_rights :
    (let p := { witPkt 3 0 0x8000 with params := leBytes 8 (1 + 2 ^ 16) }
     let s := witOn [p]
     (startedPkt s 3 0 0x8000).isSome = true ∧ (preRights s p).2 = .ok ∧ p.u 2 2 ≠ 0 ∧ instState s (target p) = 0 ∧
     instState (s.setF (INST_STATE.state 1) 2) 1 ≠ 0 ∧ (preRights (s.setF (INST_STATE.state 1) 2) p).2 = .ok) := by
  decide +kernel
theorem wit_instance_others :
    (∀ op ∈ [0x8002, 0x8003, 0x8007], (let p := { witPkt 3 0 op with params := leBytes 8 1 }
     (startedPkt (witOn [p]) 3 0 op).isSome = true ∧ target p ≠ qOwner p.q)) ∧
    (∀ k ∈ [0, 1, 2, 3], instState ((witOn []).setF (INST_STATE.state 1) k) 1 = k) := by decide +kernel
theorem wit_quiesce :
    (∀ op ∈ [0x8001, 0x8004, 0x8008], (let p := { witPkt 3 0 op with params := leBytes 8 1 }
     (startedPkt (witOn [p]) 3 0 op).isSome = true ∧ target p ≠ qOwner p.q ∧ instPkts (witOn [p]) 1 = [] ∧
     (instPkts (witOn [p]) 1).any (holdsFreeze (witOn [p])) = false ∧
     ownsIo (stopIo (witOn [p]) 1) 1 = false)) ∧
    (∀ k ∈ [1, 2, 3], instState ((witOn []).setF (INST_STATE.state 1) k) 1 = k) ∧
    (let x := { witPkt 4 0 0x1000 with inst := 1, phase := .waiting }
     instPkts (witOn [x]) 1 ≠ [] ∧ (instPkts (witOn [x]) 1).any (holdsFreeze (witOn [x])) = true ∧
     (let r : SensRec := ⟨1, [], 0, 0, false, false, none, true⟩
      ownsIo (stopIo ((witOn []).setSens 0 (some r)) 1) 1 = true)) := by decide +kernel
theorem wit_save :
    (let p := { witPkt 3 0 0x8005 with params := leBytes 8 1 }
     let s := (witOn [p]).setF (INST_STATE.state 1) 3
     (startedPkt s 3 0 0x8005).isSome = true ∧ target p ≠ qOwner p.q ∧ instState s (target p) = 3 ∧ p.u 0x10 8 = 0) := by
  decide +kernel
theorem wit_save_written :
    (let p := { witPkt 3 0 0x8005 with params := leBytes 24 (1 + 2 ^ 128 * 2 ^ 20) }
     let s := (witOn [p]).setF (INST_STATE.state 1) 3
     (startedPkt s 3 0 0x8005).isSome = true ∧ target p ≠ qOwner p.q ∧ instState s (target p) = 3 ∧ p.u 0x10 8 ≠ 0 ∧
     imageSize (saveInst s (target p)) ≤ p.u 0x10 8) := by decide +kernel
/-- A restore of 64 KiB of the Bay onto instance 1, whose header gives that length and no magic number. -/
def witRestore : Pkt := { witPkt 3 0 0x8006 with params := leBytes 24 (1 + 0x40000000 * 2 ^ 64 + 2 ^ 128 * 2 ^ 16) }
theorem wit_restore :
    (let s := witReach [witRestore] (leBytes 24 (2 ^ 128 * 65536))
     (startedPkt s 3 0 0x8006).isSome = true ∧ target witRestore ≠ qOwner witRestore.q ∧ instState s (target witRestore) = 0 ∧
     65536 ≤ witRestore.u 0x10 8) := by decide +kernel
theorem wit_restore_read :
    (match dmaRead (witReach [witRestore] (leBytes 24 (2 ^ 128 * 65536))) (pktWho witRestore false) (witRestore.u 8 8)
        (witRestore.u 0x10 8) with
     | (u, .ok img) => decide (leAt img 0x10 8 ≤ witRestore.u 0x10 8) && decide (256 ≤ leAt img 0x10 8) &&
         (restorable u (target witRestore) img).isNone
     | _ => false) = true := by decide +kernel
theorem wit_tile_loads :
    (∀ op ∈ [0x01, 0x02, 0x03, 0x04], (issue (witTile op 0 0 0 TileRec.init) 0 0 op).isSome = true) ∧
    localOk (lsAddr TileRec.init 1) 256 256 = true ∧ localOk (lsAddr TileRec.init (1 + 2 ^ 40)) 256 256 = false ∧
    (issue (witTile (1 + 2 ^ 40) 0 0 0 TileRec.init) 0 0 1).isSome = true ∧
    pairPoison (witTile 1 0 0 0 TileRec.init) witJob 0 0 256 = none := by decide +kernel
theorem wit_tile_weights :
    (issue (witTile 8 0 0 0 TileRec.init) 0 0 8).isSome = true ∧ matrixReads TileRec.init 0 = false ∧
    weightLoading TileRec.init 0 = false ∧ localOk (lsAddr TileRec.init 8) (blockLen 0) 64 = true ∧
    (let r := { TileRec.init with loading := [(1, 0, 0, 0)] }
     let s := witTile 0 0 0 0 r
     (s.tile 0).loading.find? (fun e => decide (e.1 = 1)) = some (1, 0, 0, 0) ∧ (s.tile 0).job = some (3, 0) ∧
     (s.job 3 0).isSome = true ∧ accepting s = true ∧ gated s 4 = false ∧ matrixReads (s.tile 0) 1 = false ∧
     pairPoison s witJob 0 0 (blockLen 0) = none ∧
     (∀ t ∈ tilePair s 0 0, (s.tile t).loading = [(1, 0, 0, 0)])) := by decide +kernel
theorem wit_tile_copies :
    (∀ op ∈ [0x10, 0x11], ∀ cls ∈ [1, 2],
      (let w := op + 1 * 2 ^ 21 + cls * 2 ^ 30
       let r := { TileRec.init with sregs := [(1, 64)] }
       (issue (witTile w 0 0 0 r) 0 0 op).isSome = true ∧ sreg r (lsSc w) = 64 ∧ sreg r (lsSb w) = 0 ∧ lsCls w = cls ∧
       localOk (lsAddr r w) 64 64 = true ∧ token r (lsTok w) < 255)) ∧
    0 < leAt (kernelDesc witJob 0) 1 1 ∧
    (witTile 0 0 0 0 TileRec.init).lane 0 = some witLane ∧ 64 ≤ 0x100000 * witLane.bayLen := by decide +kernel
theorem wit_tile_buffer :
    (∀ op ∈ [0x10, 0x11],
      (let w := op + 1 * 2 ^ 21
       let r := { TileRec.init with sregs := [(1, 64)] }
       let m := putBits (leNat witImage) 48 16 1
       let s0 := witTile w 0 0 0 r
       let p := { witPkt 3 0 0x1000 with phase := .waiting, params := leBytes 32 (1 * 2 ^ 64) ++ leBytes 16 (0x40000000 + 4096 * 2 ^ 64 + 3 * 2 ^ 96) }
       let j := { witJob with phase := .running, bind := [0], image := leBytes 128 m }
       let s := { s0 with pkts := [p], jobs := [j] }
       let b := bufDesc s j 0
       (issue s 0 0 op).isSome = true ∧ 64 ≤ b.2.1 ∧ bitB b.2.2 0 = true ∧ bitB b.2.2 1 = true ∧
       ∀ wr ∈ [true, false], (match (xlateAll (tileWho s j 0) wr (pageSegs (b.1 % 2 ^ 64) 64) s).2 with
        | .ok _ => true | .error _ => false) = true)) := by decide +kernel
theorem wit_copy_land :
    (∀ ld ∈ [true, false], ∀ st ∈ [true, false],
      (let c : Copy := ⟨0, ld, [⟨0x40000000, 0, 64, true⟩], 0, 5, st, 0⟩
       let s0 := witTile 0 0 0 0 { TileRec.init with copies := [c] }
       let s := { s0 with lanes := [(0, some { witLane with ckptLen := 65536 })] }
       (s.tile 0).copies[0]? = some c ∧ (s.tile 0).job = some (3, 0) ∧ accepting s = true ∧
       paceHolds s (.copy 0 c.num) = false ∧ localPoison s 0 0 64 = none ∧
       ((s.job 3 0).map fun j => decide (j.phase = .running) && (piecesPoison s j st c.remote).isNone &&
         ckptFits s j (copyNewPages j c.remote) &&
         ((copyTouch s j (tileWho s j 0) true c.remote).job 3 0).isSome) = some true)) := by decide +kernel
theorem wit_tile_matrix :
    (∀ op ∈ [1, 2], (let r := { TileRec.init with feeders := [(0, witFeeder)] }
      (issue (witTile 0 op 0 0 r) 0 1 op).isSome = true ∧ r.matrix = none ∧ feeder r (mxF op) ≠ [] ∧
      mxRow op + feederRows witFeeder ≤ 512 ∧ elemOk 0 (fdElem witFeeder) = true ∧ (wbuf r (mxW op)).mode = 3 ∧
      pixFit witFeeder (pixLen (fdElem witFeeder) 0) = true ∧ pixLen (fdElem witFeeder) 0 ≤ fdPixPitch witFeeder ∧ feeder TileRec.init (mxF op) = [] ∧
      (issue (witTile 0 op 0 0 TileRec.init) 0 1 op).isSome = true)) ∧
    (∀ op ∈ [1, 2], (let m : MatOp := ⟨op, witFeeder⟩
      let s := witTile 0 0 0 0 { TileRec.init with matrix := some m }
      (s.tile 0).matrix = some m ∧ (s.tile 0).job = some (3, 0) ∧ (s.job 3 0).isSome = true ∧ accepting s = true ∧
      gated s 4 = false ∧ (matrixPixels m).findSome? (fun a => pairPoison s witJob 0 a (pixLen (fdElem m.feeder) 0)) = none ∧
      lanePaired s 0 = false ∧
      (let u := { s with lanes := [(0, some { witLane with paired := true })] }
       lanePaired u 0 = true ∧ matrixGives u 0 ≠ matrixGives u 1))) := by decide +kernel
theorem wit_tile_vector :
    (∀ op ∈ [1, 2, 3, 5, 6, 7, 8, 9, 0xA], (issue (witTile 0 0 op 0 TileRec.init) 0 2 op).isSome = true) ∧
    (issue (witTile 0 0 0x44 0 TileRec.init) 0 2 4).isSome = true ∧
    (∀ op ∈ [0xB, 0xC, 0xD, 0xE, 0x10, 0x11, 0x12, 0x18, 0x19, 0x1A],
      (issue (witTile 0 0 op 0 TileRec.init) 0 2 op).isSome = true) ∧
    matrixWrites TileRec.init (vxRow 0x18) = false ∧
    (let r := { TileRec.init with matrix := some ⟨1, witFeeder⟩ }
     matrixWrites r (vxRow 0x18) = true ∧ (issue (witTile 0 0 0x18 0 r) 0 2 0x18).isSome = true) := by decide +kernel
theorem wit_tile_control :
    (issue (witTile 0 0 0 0x10008 TileRec.init) 0 3 8).isSome = true ∧
    (∀ op ∈ [1, 2, 3, 9, 0xA, 0x10, 0x11, 0x12, 0x13], (issue (witTile 0 0 0 op TileRec.init) 0 3 op).isSome = true) ∧
    (∀ k ∈ [0, 1, 2, 3], (issue (witTile 0 0 0 0 TileRec.init) 0 k 0).isSome = true) ∧
    localOk (sreg TileRec.init (ctSa 0x10)) 64 64 = true ∧ pairPoison (witTile 0 0 0 0x10 TileRec.init) witJob 0 0 64 = none ∧
    tokensClear TileRec.init 0xFFFF = true ∧
    (let r := { TileRec.init with tokens := [(15, 1)] }
     tokensClear r 0x8000 = false ∧ (issue (witTile 0 0 0 (0x11 + 0x8000 * 2 ^ 16) r) 0 3 0x11).isSome = true ∧
     ctImm (0x11 + 0x8000 * 2 ^ 16) = 0x8000) ∧
    feederOk witFeeder = true ∧ feederOk (ldLocal (witTile 0 0 0 0 TileRec.init) 0 0 64) = false := by decide +kernel
theorem wit_tile_release :
    (let s := witTile 0 0 0 0x12 { TileRec.init with wait := some .bar }
     (s.tile 0).job = some (3, 0) ∧ ((s.job 3 0).map fun j => barReady s j) = some true ∧ accepting s = true) ∧
    (let s := witTile 0 0 0 0x3F TileRec.init
     bundleLegal (bundleAt (s.tile 0) (s.tile 0).pc) (leAt witJob.image 6 2) = false ∧ gated s 4 = false ∧
     (s.tile 0).pc * 32 < (s.tile 0).code.length ∧ (s.tile 0).wait = none ∧ (s.tile 0).ended = false) ∧
    (let s := witTile 0 0 0 0 { TileRec.init with wait := some (.tokens 0xFFFF) }
     (s.tile 0).wait = some (.tokens 0xFFFF) ∧ accepting s = true ∧ tokensClear (s.tile 0) 0xFFFF = true) ∧
    lanePaired { witTile 0 0 0 0 TileRec.init with lanes := [(0, some { witLane with paired := true })] } 0 = true := by
  decide +kernel
theorem wit_attention :
    (∀ op ∈ [1, 2, 3],
      (let s := witAttn op
       (match attnAt s 3 0 op with
        | some (j, h, st, ok) =>
          ok && decide (leAt st 4 2 = 1 ∧ leAt st 1 1 = 0 ∧ leAt st 6 2 = 0 ∧ leAt st 0xC 4 = 0) &&
          decide (leAt st 0x10 4 = 0 ∧ leAt st 2 2 < hdNSeq h + 2 ∧ (op = 2 → leAt st 2 2 < hdNSeq h)) &&
          decide (op = 3 → leAt st 2 2 = kvWidth (hdKv h)) && decide (leNat (slice st 9 3) = 0 ∧ leNat (slice st 0x10 16) = 0) &&
          (match tileSpan j 0 0 (1 * rowPitch (hdDim h * kvWidth (hdKv h))) 0 with | .ok t => decide (t = 0) | .error _ => false) &&
          (match (attnRead j (tileBase 0) 64 s).2 with | .ok _ => true | .error _ => false)
        | none => false) = true)) ∧
    (match attnAt (witAttn 0) 3 0 1 with | some (_, _, _, ok) => !ok | none => false) = true ∧
    (let s := { witAttn 1 with jobs := (witAttn 1).jobs.map fun j => { j with image := patch j.image 164 [0, 0] } }
     (match attnAt s 3 0 1 with | some (_, _, st, ok) => ok && decide (leAt st 4 2 = 0) | none => false) = true) := by
  decide +kernel
theorem wit_graphics_commands :
    (∀ e ∈ [(0x01, 1), (0x03, 2), (0x06, 2), (0x07, 1), (0x0F, 1)],
      (match gfxAt (witGfx [] (leBytes 16 (e.1 + e.2 * 256) ++ leBytes 16 0)) 3 0 e.1 with
       | .cmd j c => decide (j.drew = false ∧ leAt c 4 4 = 0 ∧ leAt c 8 8 = 0)
       | _ => false) = true) ∧
    (match gfxAt (witGfx [] (leBytes 16 (0x01 + 256 + 0x40000000 * 2 ^ 64) ++ leBytes 16 0)) 3 0 0x01 with
     | .cmd _ c => decide (leAt c 8 8 = 0x40000000) | _ => false) = true ∧
    (let r := (gio (witGfx witSurface []) 3 0).rd 0x40000000 32
     r.1.err.isNone = true ∧ surfaceOk r.2 = true ∧ targetFmt 0 (sdFmt r.2) = true) ∧
    (let s := witGfx (leBytes 16 (0x52484453 + 2 ^ 32)) (leBytes 16 (0x02 + 256 + 0x40000000 * 2 ^ 64))
     (match gfxAt s 3 0 0x02 with | .cmd _ c => decide (leAt c 4 1 = 0 ∧ leAt c 8 8 = 0x40000000) | _ => false) = true ∧
     (let r := (gio s 3 0).rd 0x40000000 16
      r.1.err.isNone = true ∧ leAt r.2 0 4 = 0x52484453 ∧ leAt r.2 4 2 = 1 ∧ leNat (slice r.2 6 10) = 0)) ∧
    (match gfxAt (witGfx [] (leBytes 32 (0x04 + 512 + 4 * 2 ^ 32))) 3 0 0x04 with
     | .cmd _ c => decide (leAt c 4 2 = 4 ∧ leAt c 6 2 = 0 ∧ leAt c 0x14 1 = 0) | _ => false) = true ∧
    (match gfxAt (witGfx [] (leBytes 16 (0x07 + 256 + 8192 * 2 ^ 32))) 3 0 0x07 with
     | .cmd j c => decide (leAt c 4 4 = 8192 ∧ 64 * passBins j.gfx + 4096 ≤ leAt c 4 4) | _ => false) = true := by
  decide +kernel
theorem wit_graphics_draw :
    (let c := leBytes 16 (0x05 + 256 + 3 * 2 ^ 96)
     let g := { GfxState.init with vertexShader := 1, fragShader := 1, targets := [(0, witSurface)], bins := leBytes 16 (8192 * 2 ^ 32) }
     let s := witGfx [] c
     let s1 := { s with jobs := s.jobs.map fun j => { j with gfx := g, binned := true } }
     (match gfxAt s1 3 0 0x05 with
      | .cmd j c => decide (leAt c 0xC 4 = 3 ∧ leAt c 4 1 = 0 ∧ boundTargets j.gfx ≠ [] ∧ (jobPkt s1 j).u 0xD 1 ≠ 1) &&
        decide (64 * passBins j.gfx + 4096 ≤ leAt j.gfx.bins 4 4) &&
        (binAll ((leAt j.gfx.bins 4 4 - 64 * passBins j.gfx) / 8)
          ((List.range (primCount (leAt c 4 1) (leAt c 0xC 4))).map (primBins [])) (j.binFill, 0)).isSome
      | _ => false) = true ∧
     (let s2 := { s1 with pkts := s1.pkts.map fun p => { p with params := leBytes 16 (2 ^ 104) } }
      (match gfxAt s2 3 0 0x05 with | .cmd j _ => decide ((jobPkt s2 j).u 0xD 1 = 1) | _ => false) = true) ∧
     fragsOrdered [] = true) := by decide +kernel
theorem wit_fragment :
    (let s := witGfx [] []
     let f : Frag := witFrag
     let s1 := { s with jobs := s.jobs.map fun j => { j with frags := [f] } }
     ((s1.job 3 0).map fun j => decide (j.frags[0]? = some f ∧ j.phase = .running)) = some true ∧ accepting s1 = true ∧
     gated s1 7 = false) := by decide +kernel
theorem wit_display :
    (let s := (witOn []).setF (DISP_OUT_STATE.enabled 1) 1
     outEnabled s 1 = true ∧ accepting s = true ∧ hotPlug s 1 = true ∧ (s.pad 17).parking = false ∧
     (let s1 := s.setDisp 1 { s.disp 1 with timing := witTiming }
      0 < tmVActive (s1.disp 1).timing ∧ outEnabled s1 1 = true)) := by decide +kernel
theorem wit_sensor :
    (let s := (witUp.setSens 15 (some witSens)).setF (SENS_STREAM_STATE.enabled 15) 1
     streamOn s 15 = true ∧ mainReleased s = true ∧ s.sens 15 = some witSens ∧
     endFrame s 15 = s ∧
     (let r := { witSens with frame := some witFrame }
      let s1 : State := { s.setSens 15 (some r) with clk := { State.reset.clk with time := 100000001 } }
      s1.sens 15 = some r ∧ witFrame.time + 100000000 < s1.nowAt 9 ∧ streamOn s1 15 = true)) := by decide +kernel
theorem wit_network :
    (let s := witNet
     netUp s 5 = true ∧ s.flag (NET_RING_CFG.tx_en 5) = true ∧ s.flag (NET_RING_CFG.rx_en 5) = true ∧ mainReleased s = true ∧
     (s.netNext 5).1 % netTxSlots s 5 ≠ s.getF (NET_TX_TAIL.tail 5) % netTxSlots s 5 ∧
     (s.netNext 5).2 % netRxSlots s 5 ≠ s.getF (NET_RX_TAIL.tail 5) % netRxSlots s 5 ∧
     (match (dmaRead (s.setNetNext 5 (1, 0)) (netWho s 5) (netTxBase s 5) 32).2 with
      | .ok d => bitB (leAt d 0xA 2) 0 | .error _ => false) = true ∧
     (match (dmaRead s (netWho s 5) (netRxBase s 5) 32).2 with
      | .ok d => bitB (leAt d 0xA 2) 0 | .error _ => false) = true) := by decide +kernel
/-- With nothing waiting for the pacers. -/
def bare (s : State) : State := { s with pace := { s.pace with waits := [] } }
theorem wit_admitted_device (c : DevAct) (f : State → State) (s : State) (h : s.pace.waits = []) (hp : (paceTry f s).2 = none) :
    ∃ t, Admitted (.device c) f s t :=
  ⟨(paceTry f s).1, by unfold Admitted; rw [h]; exact Prod.ext rfl hp⟩
/-- The pacers admit what a running stream, a network port, a host core and a link do (with wit_admitted_device). -/
theorem wit_devices :
    (let s := demand (bare ((witUp.setSens 15 (some witSens)).setF (SENS_STREAM_STATE.enabled 15) 1)) 9
     let r := s.setSens 15 (some { witSens with frame := some witFrame })
     s.pace.waits = [] ∧ (paceTry (frameStart 15 .clean 5) s).2 = none ∧ (paceTry (frameEnd 15 .clean) r).2 = none ∧
     (paceTry (lineReceive 15 .clean 0 false none [1]) r).2 = none ∧ (paceTry (frameTimeout 15) r).2 = none) ∧
    (let s := demand (bare witNet) 12
     s.pace.waits = [] ∧ (paceTry (netTransmit 5) s).2 = none ∧
     (paceTry (netReceive 5 true (List.replicate 60 0) 5) s).2 = none) ∧
    (let s := demand (demand (bare witUp) 3) 11
     s.pace.waits = [] ∧ (paceTry (hostAccess 1 false 0x40000000 4 none) s).2 = none) ∧
    (let s := demand (demand { bare witUp with pcieUp := [1] } 12) 11
     s.pace.waits = [] ∧ (paceTry (fun t => pcieRequest t 1 ⟨0, 0, false, 4, [], false⟩) s).2 = none) := by decide +kernel
theorem wit_can :
    (let s : State := witUp.setF (CAN_STATE.mode 15) 2
     canOnBus s 15 = true ∧ canMode s 15 ≠ 0 ∧ canPowered s 15 = true ∧ (s.setF (CAN_STATE.bus 15) 2).getF (CAN_STATE.bus 15) = 2 ∧
     ((s.setCan 15 { s.can 15 with router := [⟨1, false, false, false, []⟩] }).can 15).router = [⟨1, false, false, false, []⟩]) := by
  decide +kernel
theorem wit_host_access :
    (let s : State := { witUp with pcieUp := [1] }
     s.clk.mode = .on ∧ mainReleased s = true ∧ region s 0x10000000 = .mainRegs ∧ inSlot (CMDP_DB.addr 0) = true ∧
     (region s (CMDP_DB.addr 0) = .sageRegs ∨ region s (CMDP_DB.addr 0) = .mainRegs) ∧ inSlot 0x1FFFFFFC = false ∧ region s 0x1FFFFFFC = .mainRegs ∧
     region s 0x40000000 ≠ .sageRegs ∧ region s 0x40000000 ≠ .mainRegs ∧ 1 ∈ s.pcieUp ∧ hasEcc s 0x60000000 = true ∧
     s.clk.mode ≠ .doze ∧ s.flag MEM_SCRUB.scrub_en = true ∧ s.ms.scrubTile + 1 ≠ 0x1000000 ∧
     (let t := (s.setF (PCIE_CFG.width 1) 3).setF (PCIE_CFG.gen 1) 5
      perstLow t 1 = false ∧ 3 ≤ t.getF (PCIE_CFG.width 1) ∧ 5 ≤ t.getF (PCIE_CFG.gen 1))) := by decide +kernel
theorem wit_ring_ports :
    (let t := (witUp.setF RING_CTRL.port_a_en 1).setF RING_STATUS.a_state 1
     let s : State := { t.setF RING_STATUS.bypass_closed 0 with clk := { t.clk with time := 100000 } }
     bypassOpen s = true ∧ portEn s 0 = true ∧ portState s 0 = 1 ∧ bits 0x15 4 1 ≠ 0 ∧ 0x15 % 16 ≠ ownNode s ∧
     (s.rport 0).seen2 + 1 < 8 ∧ (s.rport 0).since + 100000 ≤ s.now ∧
     (let r := { s.rport 0 with seen := 8, seen2 := 7, sent2 := 15 }
      let u := s.setRport 0 r
      8 ≤ (u.rport 0).seen2 + 1 ∧ 8 ≤ (u.rport 0).seen ∧ 16 ≤ (u.rport 0).sent2 + 1 ∧ miswired u 0 = false) ∧
     (let u := s.setF RING_STATUS.a_state 2
      portUp u 0 = true ∧ groupsGood (u.setF PWR_RAIL_STATUS.good 0) = false ∧ upPorts (u.setF RING_CTRL.node 1) ≠ [] ∧
      ownNode (u.setF RING_CTRL.node 1) ≠ 0 ∧ bypassOpen (u.setF RING_CTRL.node 1) = true) ∧
     (let u := (s.setF RING_STATUS.a_state 4).setRport 0 { s.rport 0 with signalAt := some 0 }
      let v : State := { u with clk := { u.clk with time := 100001 } }
      portState v 0 = 4 ∧ bypassOpen v = true ∧ portEn v 0 = true ∧ (v.rport 0).signalAt = some 0 ∧ 0 + 100000 < v.now)) := by
  decide +kernel
theorem wit_bypass :
    (let s := (witGood.setF RING_CTRL.port_a_en 1).setF RING_STATUS.bypass_closed 1
     bypassOpen s = false ∧ groupsGood s = true ∧ s.boot.sage ≠ .held ∧ portEn s 0 = true) := by decide +kernel
theorem wit_ring_frames :
    (∀ k ∈ [1, 2, 3, 4, 5, 6, 7],
      (let s := witRing.setF RING_STATUS.bypass_closed 0
       let gs := witGroups k
       bypassOpen s = true ∧ portEn s 0 = true ∧ portUp s 0 = true ∧ (lineFrame s 0 gs).any (fun f => decide (f.typ = k)) = true ∧
       errorBurst (rxSyms (demand s 13) 0 gs).2 = false)) ∧
    lineFrame witRing 0 [] = none ∧ errorBurst (rxSyms witRing 0 (List.replicate 4 0)).2 = true ∧
    bypassOpen (witRing.setF RING_STATUS.bypass_closed 1) = false := by decide +kernel
theorem wit_ring_timers :
    (let t := (witRing.setF RING_CTRL.ts_en 1)
     let s : State := { t with clk := { t.clk with time := 10 ^ 12 } }
     ownNode s = 0 ∧ s.flag RING_CTRL.ts_en = true ∧ upPorts s ≠ [] ∧ s.ring.syncAt + s.getF RING_TS_PERIOD.ticks ≤ s.now ∧
     0 + s.getF RING_BATON_TO.ticks < s.now ∧ 0 + s.getF RING_LEG_TO.ticks < s.now ∧ s.ring.sweep = none ∧
     (let e : DataOut := ⟨15, [], none, none, 0, true, 0, 0, true⟩
      (s.setRing { s.ring with dataOut := [e], batonOut := some 0 }).ring.dataOut.find?
        (fun e => decide (e.dst = 15) && e.flying) = some e) ∧
     ((findReg RING_PBUF_RD.addr).map fun e => decide (writeMask s (.hostCore 0 true) e.1 e.2 0 ≠ 0)) = some true ∧
     ((findReg RING_PBUF_RD.addr).map fun e => decide (writeMask (s.setF (PCIE_CFG.bound 1) 5) (.pcie 1) e.1 e.2 0 = 0)) = some true) := by decide +kernel
theorem wit_pads :
    (let t := (witUp.setF (PAD_EVT_CTRL.en 3) 1).setF (PAD_EVT_PERIOD.p 3) 1000
     let s : State := { t with clk := { t.clk with time := 10 ^ 9, running := true } }
     s.flag (PAD_EVT_CTRL.en 3) = true ∧ (s.evt 3).active = false ∧ evtRuns s = true ∧ evtStart s 3 (s.evt 3).nextK ≤ s.now ∧
     (s.evt 3).nextK = 0 ∧ (let u := s.setEvt 3 ⟨true, 1⟩
       (u.evt 3).active = true ∧ evtStart u 3 0 + u.getF (PAD_EVT_WIDTH.wd 3) ≤ u.now) ∧
     (let u := s.setPad 63 { s.pad 63 with parking := true, endAt := 0 }
      parkDue u (u.pad 63) = true)) := by decide +kernel
theorem wit_register_writes :
    (let s := witUp
     inSlot 0x90000 = true ∧ inSlot 0x90002 = true ∧ (findReg INST_CTRL.addr).isSome = true ∧ blockUp s INST_CTRL.addr = true ∧
     bits 0 0 4 = s.manager ∧ bits 1 0 4 ≠ s.manager ∧ isLocked s INST_CTRL.addr = false ∧ anyQueue s 0 = false ∧
     anyQueue s 1 = false ∧ anyQueue (s.setF (CMDP_QCFG.enable 4) 1) 1 = true ∧
     ((findReg INST_CTRL.addr).map fun e => decide (writeMask s (.hostCore 0 true) e.1 e.2 1 ≠ 0)) = some true ∧
     blockLock INST_CTRL.addr = some INST_CTRL.lock ∧ INST_CTRL.lock.addr = INST_CTRL.addr ∧
     readForbidden (.hostCore 0 false) 0x90002 = true) := by decide +kernel
theorem wit_mailbox :
    (let s := witUp
     ((findReg (INST_MBOX_LO.addr 0)).map fun e => decide (writeMask s (.hostCore 0 true) e.1 e.2 0 ≠ 0)) = some true ∧
     ((findReg (INST_MBOX_HI.addr 15)).map fun e => decide (writeMask s (.pcie 1) e.1 e.2 0 = 0)) = some true ∧
     (0 : Nat) + s.getF (INST_MBOX_HI.hi 0) = 0 ∧
     ((findReg (INST_MBOX_DB.addr 1)).map fun e =>
       bitB (andN 1 (writeMask s witTenant e.1 e.2 1)) 0 && !bitB (andN 1 (writeMask s witTenant e.1 e.2 1)) 1) = some true ∧
     ((findReg (INST_MBOX_DB.addr 1)).map fun e =>
       bitB (andN 2 (writeMask s (.hostCore 0 true) e.1 e.2 2)) 1 && !bitB (andN 2 (writeMask s (.hostCore 0 true) e.1 e.2 2)) 0) =
         some true) := by decide +kernel
theorem wit_statistics :
    mainReleased witUp = true ∧ (plainWrite witUp (.hostCore 0 true) TILE_QS_CLEAR.addr 0x10001).2 = true ∧
    (plainWrite witUp (.pcie 1) TILE_QS_CLEAR.addr 0x10001).2 = false := by decide +kernel
theorem wit_telemetry :
    (let t := witUp
     let s : State := { t with clk := { t.clk with time := 10 ^ 9, running := true } }
     tsuquelRuns s = true ∧ s.clk.running = true ∧ s.pwr.sampleAt + 12500 ≤ s.now ∧ mainReleased s = true ∧
     bitB s.pwr.droop 5 = false ∧ bitB (putBits 0 5 1 1) 5 = true ∧ sensorRead s 12 = true ∧
     s.pwr.warnAt + 1000000 ≤ s.now ∧ (s.dom 4).warnCeil = 8 ∧
     s.getF PWR_THERM_STATUS.hottest + 5 ≤ s.getF PWR_THERM_CFG.warn ∧
     (let u := s.setF PWR_THERM_STATUS.hottest 255
      u.getF PWR_THERM_CFG.warn ≤ u.getF PWR_THERM_STATUS.hottest) ∧
     ((s.setDom 4 { s.dom 4 with warnCeil := 7 }).dom 4).warnCeil ≠ 8) := by decide +kernel
theorem wit_multi_and_pacers :
    (let t := witUp.setF PWR_MULTI_CFG.mode 1
     let s : State := { t with clk := { t.clk with time := 10 ^ 12, running := true } }
     s.getF PWR_MULTI_CFG.mode ≠ 0 ∧ tsuquelRuns s = true ∧ s.flag PWR_MULTI_STATUS.claim = false ∧ s.pwr.donation = 0 ∧
     2 * s.pwr.roundAt + 6 * s.getF RING_TS_PERIOD.ticks ≤ 2 * s.now ∧ mainReleased s = true ∧ s.pace.window < s.now / 1000 ∧
     (∃ f ∈ [0, 1, 8, 15, 16], urgLevel s 7 < urgOf s 7 f ∨ urgOf s 7 f < urgLevel (setUrg s 7 3) 7)) := by decide +kernel

/-! ### Ill-formed commands are refused -/

theorem test_wf_refuses_missing_units :
    ([.injectionWindowEnd 0 .missed, .injectionWindowEnd 14 .missed, .timeCopyMismatch 14 0, .wakeNLatch 4,
      .hostTimerCompare 12, .pcieWake 2, .canWakeDetect 16, .domainIdleExpiry 14, .pllUnlock 13,
      .statusWordPoll (2 ^ 16), .droopTrip 6, .urgRise 8 0, .urgFall 0 17, .slowRisingEdge 16 0, .slowRisingEdge 0 (2 ^ 64),
      .hotPlugDetectChange 2 true, .pcieLinkUp 2 1 1, .pcieLinkUp 0 9 1, .pcieLinkUp 0 1 6, .pcieLinkDown 2,
      .verticalBlank 4, .sensorFrameTimeout 16, .netFrameTransmit 6, .pairMismatch 16] : List Instr).all
      (fun i => !i.wf) = true := by decide +kernel

theorem test_wf_refuses_missing_queues_and_tiles :
    ([.packetConsume 64, .packetStart 64 0, .packetStart 0 (2 ^ 32), .doorbellWrite .tsuquel 64 0, .vld 32, .wldComplete 0 2,
      .wldComplete 32 0, .tileNop 0 4, .tileNop 32 0, .ringMgr .jtag 16, .mboxAddressWrite .tsuquel 16 true 0] : List Instr).all
      (fun i => !i.wf) = true := by decide +kernel

theorem test_wf_refuses_missing_addresses_and_pins :
    ([.registerWrite .tsuquel (2 ^ 40) 0, .latchingLoRead .jtag (.reg (2 ^ 40)), .hostCoreLoadStore 12 true 0 4 none,
      .hostCoreLoadStore 0 true (2 ^ 40) 4 none, .qsCountRead .tsuquel 8 0, .qsCountRead .tsuquel 0 16,
      .padFunctionChange .tsuquel 64 0, .padParkEnd 64 true, .evtPulseStart 4, .tapBypass 64, .ringTrainRestart 2,
      .ringTrainingSet 2 [], .ringTrainingSet 0 [1024], .ringFrameReceive 0 [1024], .ringFrameReceive 2 [],
      .ringPortDown 0 (.groups [1024]), .ringPortDown 2 (.silent 32), .dataRetransmitTimeout 16] : List Instr).all (fun i => !i.wf) = true := by decide +kernel

theorem test_wf_accepts :
    ([.packetStart 63 (2 ^ 32 - 1), .injectionWindowEnd 13 .expected, .tileNop 31 3, .padParkEnd 63 false,
      .tapBypass 63] : List Instr).all (fun i => i.wf) = true := by decide

/-! ### Steps and values the spec works out -/

/-- The backoffs of the worked case of an unreadable flash (spec/03, R91). -/
theorem test_backoff_worked_case :
    [1, 2, 3, 4, 5, 6, 7, 8, 9, 10].map backoffMs = [10, 20, 40, 80, 160, 320, 640, 1280, 2000, 2000] := by decide

/-- The worked case of a one-minute PARK interval (spec/02, R74): TIME and the remainder after it. -/
theorem test_park_worked_case :
    (let s0 := (State.reset.set64 TIME_STOP_LO.lo TIME_STOP_HI.hi 1250000000000).set64 TIME_STOP_SLOW_LO.lo
       TIME_STOP_SLOW_HI.hi 4000000
     let s1 := s0.setF TIME_FRAC.acc 100
     let t := timeRestart { s1 with clk := { s1.clk with stopValid := true, slow := 5966083 } }
     (t.clk.time, t.getF TIME_FRAC.acc)) = (1256000009156, 7) := by decide +kernel

/-- The climb of the worked case from S2 to sprint (spec/02, R23, R49): 0.75 V to 0.80 V first, then no change for 2,000 ticks,
then 0.85 V. -/
theorem test_sprint_climb :
    (let s := { State.reset with pwr := { State.reset.pwr with vTile := tileVolt 2 } }
     let t := avsToward s (tileVolt 8)
     let u := { t with pwr := { t.pwr with avsDue := none } }
     (s.pwr.vTile, t.pwr.vTile, t.pwr.avsDue, (avsToward t (tileVolt 8)).pwr.vTile, (avsToward u (tileVolt 8)).pwr.vTile)) =
       (750, 800, some 2000, 800, 850) := by decide

/-- The detail of the worked case of a stall, a restart and a late completion (spec/08). -/
theorem test_late_after_a_restart : judge 2000000 2012000 1 0 0 = (0x30, 0x10002EE0) := by decide

/-- The worked case of a horizontal ramp (spec/13, R426): its header bytes, and one sector of 32 bytes. -/
theorem test_ramp_block :
    (let b := encodeBlock 1 [] ((List.range 64).map fun i => [0x10 + i % 8, 0x40, 0x80, 0xFF])
     (b.1, b.2.length, (b.2.take 7).map BitVec.toNat)) = (1, 32, [0x40, 0x00, 0x2D, 0x40, 0xF0, 0x0F, 0xAA]) := by
  decide +kernel

/-- A compressed block decodes to its pixels. -/
theorem test_ramp_block_decodes :
    (let px := (List.range 64).map fun i => [0x10 + i % 8, 0x40, 0x80, 0xFF]
     decodeBlock 1 [] 1 (encodeBlock 1 [] px).2 = some px) := by decide +kernel

/-- The identification register (R579). -/
theorem test_idcode : (match exec .tapIdcode State.reset with
    | .next t => decide (t.bus.data = 0x1C32A0F3 ∧ t.tap.ir = 2)
    | _ => false) = true := by decide +kernel

/-- The worked case of an access from host core 4 with tag 5 (spec/21): the doorbell of queue 24, which belongs to instance 6,
is discarded and logged with kind 4, master 4, instance 5 and the register's address. -/
theorem test_doorbell_of_another_instance :
    (let s := State.reset.setF (SYS_CORE_TAG.tag 4) 5
     let t := busWrite s (.hostCore 4 false) 0x41614 43
     (t.getF (CMDP_DB.tail 24), t.getF CMDP_VLOG_WR.wr, t.rd (CMDP_VLOG.addr 2), t.rd (CMDP_VLOG.addr 4))) =
       (0, 1, 0x41614, 4 + 5 * 2 ^ 16 + 4 * 2 ^ 24) := by decide +kernel

/-- A parked pad that gets a second write restarts its park (spec/19, the case of two writes in one park). -/
theorem test_two_writes_in_one_park :
    (let s0 := (State.reset.setF (PAD_OE.oe 0) (2 ^ 19)).setF (PAD_OUT.out 0) (2 ^ 19)
     let s := redrive { s0 with clk := { s0.clk with running := true, time := 1000 }, boot := { s0.boot with main := .up } } 19
     let a := padCfgWrite s (.hostCore 0 true) 19 1
     let b := padCfgWrite { a with clk := { a.clk with time := 1002 } } (.hostCore 0 true) 19 0
     let c := padEnd { b with clk := { b.clk with time := 1006 } } 19 false
     (s.pad 19).level && (a.pad 19).parking && (a.pad 19).level && (a.pad 19).endAt == 1004 && (b.pad 19).endAt == 1006 &&
       (b.pad 19).level && !(c.pad 19).parking && (c.pad 19).level) = true := by decide +kernel

/-- The worked case of an MMQ column (spec/10), lane 5: the two codes that are not zero, their groups' scales and the channel's
scale, rounded once: 0x3F780000. -/
theorem test_mmq_worked_column :
    (let blk := (0 : Byte) :: 0 :: 0x30 :: (List.replicate 0x41F 0 ++ [0x90])
     let px := (0x4C : Byte) :: (List.replicate 32 0 ++ [0xC2])
     let chan := decodeF fp16 0x3800
     let term (k sc : Nat) := ((actNum 3 px k).mul (numInt (codeAt blk 4 k 5))).mul ((decodeF e4m3 sc).mul chan)
     toF32 (Num.sum [f32 0, term 0 0x14, term 33 0x18])) = 0x3F780000 := by decide +kernel

end Sys2Proof.Tests
end

section
/-! SUPPORT. Rails, falling rails and the steps of a main-die attempt (R30 to R32, R99, R100). -/

namespace Sys2Proof.Machine

/-- A value that is not what an unlisted key reads as is read back from any table, canonical or not. -/
theorem tabGet_put_of_ne_default {α : Type} [DecidableEq α] (d : Nat → α) (t : List (Nat × α)) {k : Nat} {v : α} (hv : v ≠ d k) :
    tabGet d (tabPut d t k v) k = v := by
  induction t with
  | nil => simp [tabPut, hv, tabGet_cons]
  | cons e t ih =>
    simp only [tabPut, if_neg hv]
    split
    · simp [tabGet_cons]
    · split
      · simp [tabGet_cons]
      · next hne => rw [tabGet_cons, if_neg hne, ih]

/-- A rail that is commanded on is found so. -/
theorem State.rail_setRail_on (s : State) (k : Nat) {r : RailState} (h : r.on = true) : (s.setRail k r).rail k = r :=
  tabGet_put_of_ne_default _ _ (by rintro rfl; cases h)

@[simp] theorem railOn_main (s : State) (k at_ : Nat) : (railOn s k at_).boot.main = .rails k := rfl

@[simp] theorem railOn_rail (s : State) (k at_ : Nat) : (railOn s k at_).rail k = ⟨true, at_, false, 0⟩ := by
  have hrails : (railOn s k at_).pwr.rails = (s.setRail k ⟨true, at_, false, 0⟩).pwr.rails := by
    unfold railOn
    split <;> rfl
  rw [State.rail, hrails]
  exact s.rail_setRail_on k rfl

/-- After a good rail the next one that is down is commanded on, 10,000 ticks later (R30). -/
theorem railIsGood_next {s : State} {k j : Nat}
    (h : nextRail (setRailGood (s.setRail k { s.rail k with watched := true }) (4 + k) true) = some j) :
    railIsGood s k = railOn (setRailGood (s.setRail k { s.rail k with watched := true }) (4 + k) true) j (s.now + 10000) := by
  rw [railIsGood, h]
  rfl

theorem execGroupCRailGood_within_limit (r : Rail) (k : Nat) (s : State) (hr : railIdx r = some k) (hm : s.boot.main = .rails k)
    (hon : (s.rail k).onAt ≤ s.now) (hlim : s.now ≤ (s.rail k).onAt + 500000) :
    execGroupCRailGood r s = .next (railIsGood s k) := by
  simp only [execGroupCRailGood, hr]
  rw [if_pos ⟨hm, hon, hlim⟩]

theorem execRailGoodTimeout_past_limit (k : Nat) (s : State) (hm : s.boot.main = .rails k) (hlim : (s.rail k).onAt + 500000 < s.now) :
    execRailGoodTimeout s = .next (railFail s) := by
  simp only [execRailGoodTimeout, hm, if_pos hlim]

/-- The state once the first falling rail is down: its good bit is clear, what it held is lost, and `ks` fall after it (R32). -/
def railFallen (s : State) (k : Nat) (ks : List Nat) : State :=
  let u := railLoses (setRailGood s (4 + k) false) k
  { u with pwr := { u.pwr with down := ks } }

/-- What follows once a falling rail is down: the next OFF goes out, or the power-down order has ended (R32). -/
def nextOff (s : State) : List Nat → State
  | [] => downDone s
  | j :: _ => railOff s j

theorem execRailOffDone_fallen {b : Bool} {k : Nat} {ks : List Nat} {s : State} (hd : s.pwr.down = k :: ks)
    (hf : b = true ∨ (s.rail k).offAt + 100000 ≤ s.now) :
    execRailOffDone b s = .next (nextOff (railFallen s k ks) ks) := by
  have hc : (b || decide ((s.rail k).offAt + 100000 ≤ s.now)) = true := by simpa using hf
  simp only [execRailOffDone, hd, hc, if_true]
  cases ks <;> rfl

theorem execMainDieBringUp_start (e : MainStart) (s : State) (hm : s.boot.main = .start) (hd : s.pwr.down = [])
    (hr : s.clk.running = true) : execMainDieBringUp e s = .next (mainBegin s e) := by
  simp only [execMainDieBringUp, hm, hd, hr, List.isEmpty_nil, Bool.and_self, if_true]

theorem execMainDieBringUp_step2 (e : MainStart) (s : State) (hm : s.boot.main = .step2) (hat : s.boot.stepAt ≤ s.now) :
    execMainDieBringUp e s = .next (mainSteps s e) := by
  simp only [execMainDieBringUp, hm, if_pos hat]

theorem execMainStepTimeout_step (s : State) (hm : s.boot.main = .step2 ∨ s.boot.main = .ready)
    (hlim : s.boot.stepAt + 100000 < s.now) : execMainStepTimeout s = .next (mainFail s 0x14) := by
  rcases hm with hm | hm <;> simp only [execMainStepTimeout, hm, if_pos hlim]

theorem execMainStepTimeout_tests (s : State) (hm : s.boot.main = .tests) (hlim : s.boot.stepAt + 1480000 < s.now) :
    execMainStepTimeout s = .next (mainFail s 0x13) := by
  simp only [execMainStepTimeout, hm, if_pos hlim]

/-- Settles O16: each clause is the rule of its command; the ON of the next rail is read back because a rail that is on differs
from an unlisted one. -/
theorem mainDieBringUpTakesItsSteps : Obligations.MainDieBringUpTakesItsSteps :=
  ⟨execGroupCRailGood_within_limit,
   fun _ _ _ h => by rw [railIsGood_next h, railOn_rail, railOn_main]; exact ⟨rfl, rfl⟩,
   execRailGoodTimeout_past_limit,
   fun _ _ _ hd hf => execRailOffDone_fallen hd hf,
   fun _ _ _ _ _ hd hf => execRailOffDone_fallen hd hf,
   execMainDieBringUp_start,
   execMainDieBringUp_step2,
   execMainStepTimeout_step,
   execMainStepTimeout_tests⟩

end Sys2Proof.Machine
end

section
/-! SUPPORT. The causes of the safe state and the faults that bring them (R512, R514, R524, R528, R621). -/

namespace Sys2Proof.Machine

theorem execSageLinkFlitError_third_replay (n : Nat) (s : State) (h : 3 ≤ n) : execSageLinkFlitError n s = .next (safeCause s 0x05) :=
  congrArg _ (if_pos h)

theorem execSageLinkFlitError_replayed (n : Nat) (s : State) (h : n < 3) : execSageLinkFlitError n s = .next s :=
  congrArg _ (if_neg (Nat.not_le.2 h))

/-- The state in which the TIME copy of domain `d` stands `n` ticks before the master. -/
def withCopy (s : State) (d : Nat) (n : Int) : State :=
  { s with clk := { s.clk with copies := tabPut (fun _ => (0 : Int)) s.clk.copies d n } }

/-- A copy that is off is judged by how far it is off (R69). -/
theorem judgeCopy_withCopy (s : State) (d : Nat) {n : Int} (hn : n ≠ 0) : judgeCopy (withCopy s d n) d =
    if 2 ≤ n.natAbs then safeCause ((withCopy s d n).setF TIME_STATUS.dist_error 1) 0x06 else withCopy s d n := by
  have hread : tabGet (fun _ => (0 : Int)) (withCopy s d n).clk.copies d = n := tabGet_put_of_ne_default _ _ hn
  simp only [judgeCopy, hread]

theorem execTimeCopyMismatch_judges {d : Nat} {n : Int} {s : State} (hd : d ∈ [3, 4, 5, 6, 7, 8, 9, 10, 11, 12])
    (hm : mainReleased s = true) : execTimeCopyMismatch d n s = .next (judgeCopy (withCopy s d n) d) :=
  congrArg _ (if_pos ⟨hd, hm⟩)

theorem execTimeCopyMismatch_two_ticks {d : Nat} {n : Int} {s : State} (hd : d ∈ [3, 4, 5, 6, 7, 8, 9, 10, 11, 12])
    (hm : mainReleased s = true) (hn : 2 ≤ n.natAbs) :
    execTimeCopyMismatch d n s = .next (safeCause ((withCopy s d n).setF TIME_STATUS.dist_error 1) 0x06) := by
  rw [execTimeCopyMismatch_judges hd hm, judgeCopy_withCopy s d (by omega), if_pos hn]

theorem execTimeCopyMismatch_one_tick {d : Nat} {n : Int} {s : State} (hd : d ∈ [3, 4, 5, 6, 7, 8, 9, 10, 11, 12])
    (hm : mainReleased s = true) (hn : n.natAbs = 1) : execTimeCopyMismatch d n s = .next (withCopy s d n) := by
  rw [execTimeCopyMismatch_judges hd hm, judgeCopy_withCopy s d (by omega), if_neg (by omega)]

theorem execPllUnlock_main (k : Nat) (s : State) (hl : bitB (s.getF CLK_PLL_STATUS.lock) k = true) (hk : k < 13)
    (hm : bitB mainPlls k = true) :
    execPllUnlock k s = .next (safeCause ((setPlls s (2 ^ k) false).setF SAF_CLKMON.pll_unlock 1) 0x0A) := by
  simp only [execPllUnlock, hl, hk, hm, decide_true, Bool.and_self, if_true]

theorem execRefclkBad_needed (s : State) (h : refclkNeeded s = true) : execRefclkBad s = .next
    (safeCause (let u := setCause (s.setF SAF_CLKMON.refclk_bad 1) 5 true
      { u with saf := { u.saf with refBadAt := u.now } }) 0x0A) :=
  congrArg _ (if_pos h)

theorem execLockstepMismatch_triplet (s : State) (hr : tsuquelRuns s = true) (ht : s.boot.tripletRan = true) :
    execLockstepMismatch s = .next
      (cpRestart (safeCause (sweepFault (setCause (s.addSat SAF_LS_MISMATCH.n 1) 2 true)) 0x02)) := by
  have hc : cpRuns s = true := by simp only [cpRuns, hr, Bool.true_or]
  simp only [execLockstepMismatch, hc, lockstepMismatch, ht, if_true, Bool.not_true, Bool.false_eq_true, if_false]

/-- Before the triplet runs a core fault outside reset fails the Sage attempt and resets the Sage die (R621). -/
theorem preTripletFault_running {s : State} (h : s.boot.sage ≠ .held) : preTripletFault s = sageReset (sageFail s 0x09) := by
  unfold preTripletFault
  split
  · next hh => exact absurd hh h
  · rfl

theorem execLockstepMismatch_before_triplet (s : State) (hc : cpRuns s = true) (ht : s.boot.tripletRan = false)
    (hs : s.boot.sage ≠ .held) : execLockstepMismatch s = .next (sageReset (sageFail s 0x09)) := by
  simp only [execLockstepMismatch, hc, lockstepMismatch, ht, Bool.not_false, if_true, preTripletFault_running hs]

theorem execHeartbeatMiss_due (s : State) (ht : s.boot.tripletRan = true) (hr : tsuquelRuns s = true)
    (hb : s.saf.beatAt + 1000000 ≤ s.now) :
    execHeartbeatMiss s = .next (cpRestart (safeCause (sweepFault (setCause s 2 true)) 0x03)) := by
  simp only [execHeartbeatMiss, ht, hr, hb, decide_true, Bool.and_self, if_true]

theorem execSageSramUe_running (s : State) (ht : s.boot.tripletRan = true) (hr : tsuquelRuns s = true) :
    execSageSramUe s = .next (cpRestart (safeCause (setCause s 2 true) 0x0D)) := by
  simp only [execSageSramUe, ht, hr, Bool.not_true, Bool.false_eq_true, if_false, if_true]

/-- Settles O20: each cause by the rule of its event; of a TIME copy only one that differs from the master by two ticks or
more is a fault. -/
theorem safeStateCausesStartIt : Obligations.SafeStateCausesStartIt :=
  ⟨execSageLinkFlitError_third_replay,
   execSageLinkFlitError_replayed,
   fun d n s hd hm => ⟨withCopy s d n, rfl, execTimeCopyMismatch_two_ticks hd hm, execTimeCopyMismatch_one_tick hd hm⟩,
   fun _ => rfl,
   fun _ => rfl,
   execPllUnlock_main,
   execRefclkBad_needed,
   execLockstepMismatch_triplet,
   execLockstepMismatch_before_triplet,
   execHeartbeatMiss_due,
   execSageSramUe_running⟩

end Sys2Proof.Machine
end

section
/-! SUPPORT. VDD_TILE moves in changes of at most 50 mV (R23); domains are gated, start on demand and change step (R46, R49,
R50, R55 to R57). -/

namespace Sys2Proof.Machine

/-- At the voltage already, or while an earlier change settles, VDD_TILE stands. -/
theorem avsToward_stands {s : State} {mv : Nat} (h : s.pwr.vTile = mv ∨ s.pwr.avsDue ≠ none) : avsToward s mv = s :=
  if_pos (by rwa [← Option.isSome_iff_ne_none] at h)

/-- Otherwise one change goes out, of 50 mV or what is left (R23). -/
theorem avsToward_moves {s : State} {mv : Nat} (hv : s.pwr.vTile ≠ mv) (hd : s.pwr.avsDue = none) :
    avsToward s mv = { s with pwr := { s.pwr with
      vTile := if s.pwr.vTile < mv then min mv (s.pwr.vTile + 50) else max mv (s.pwr.vTile - 50)
      avsDue := some (s.now + 2000) } } :=
  if_neg (by simp [hv, hd])

/-- Settles O26: a change moves by 50 mV or by what is left, whichever is less. -/
theorem voltageStepsAreAtMostFiftyMillivolts : Obligations.VoltageStepsAreAtMostFiftyMillivolts := by
  intro s mv
  refine ⟨avsToward_stands, fun hv hd => ?_⟩
  rw [avsToward_moves hv hd]
  refine ⟨rfl, ?_⟩
  dsimp only
  split <;> omega

theorem State.regs_wf_of_inv {s : State} (h : State.Inv s = true) : tabWf regReset s.regs = true := by
  obtain ⟨-, -, hregs, -⟩ := (Keeps.inv_iff s).1 h
  exact hregs

/-- A domain's other fields do not bear on whether it is gated. -/
theorem gated_setF_apart {s : State} (hs : tabWf regReset s.regs = true) (d : Nat) (f : FRef) (x : Nat) (hw : f.lo + f.width ≤ 32)
    (ha : CLK_DOM_STATUS.addr d = f.addr) (hf : f.lo + f.width ≤ 8 ∨ 9 ≤ f.lo) : gated (s.setF f x) d = gated s d := by
  have hrun := State.getF_setF_apart hs f (CLK_DOM_STATUS.running d) x hw ha hf
  simp only [gated, State.flag, hrun]

/-- A domain put at a step is gated exactly at step 7. -/
theorem gated_setStep {s : State} (hs : tabWf regReset s.regs = true) (d c : Nat) : gated (setStep s d c) d = decide (c = 7) := by
  unfold setStep
  extract_lets -underBinder +onlyGivenNames y; subst y
  extract_lets -underBinder +onlyGivenNames s0
  have hs0 : tabWf regReset s0.regs = true := by
    subst s0
    split <;> exact hs
  clear_value s0
  extract_lets -underBinder +onlyGivenNames s1
  have hs1 : tabWf regReset s1.regs = true := State.setF_wf hs0 _ _
  have hg : gated s1 d = decide (c = 7) := by
    rw [gated, State.flag, State.getF_setF_same hs0 _ _ (by simp)]
    by_cases hc : c = 7 <;> simp [hc, b2n]
  clear_value s1
  split
  · exact hg
  · rw [← hg]
    rw [State.addSat, gated_setF_apart (State.setF_wf hs1 _ _) d (CLK_DOM_STATUS.change_count d) _ (by simp) rfl (by simp),
      gated_setF_apart hs1 d (CLK_DOM_STATUS.cur_step d) _ (by simp) rfl (by simp)]

/-- Gating a running domain of R58's condition keeps the tick. -/
theorem gatedSince_setStep_gated {s : State} {d : Nat} (hd : d ∈ dozeDoms) (hg : gated s d = false) :
    (setStep s d 7).clk.gatedSince = s.now := by
  simp only [setStep, hd, hg, true_and, if_true]
  split <;> rfl

/-- The state in which a domain is about to be gated: it remembers the step it held, and its target is step 7. -/
def gateTarget (s : State) (d : Nat) : State :=
  (s.setDom d { s.dom d with held := s.getF (CLK_DOM_STATUS.cur_step d) }).setF (CLK_DOM_STATUS.target_step d) 7

/-- Gating a running domain puts it at step 7 (R56). -/
theorem gateDom_running {s : State} {d : Nat} (hg : gated s d = false) : gateDom s d = setStep (gateTarget s d) d 7 :=
  if_neg (by simp [hg])

theorem gateTarget_wf {s : State} (hs : tabWf regReset s.regs = true) (d : Nat) : tabWf regReset (gateTarget s d).regs = true :=
  State.setF_wf (s := s.setDom d _) hs _ _

/-- The domain still runs then. -/
theorem gated_gateTarget {s : State} (hs : tabWf regReset s.regs = true) (d : Nat) : gated (gateTarget s d) d = gated s d :=
  gated_setF_apart (s := s.setDom d _) hs d (CLK_DOM_STATUS.target_step d) _ (by simp) rfl (by simp)

theorem gateDom_gates {s : State} {d : Nat} (hs : tabWf regReset s.regs = true) (hg : gated s d = false) :
    gated (gateDom s d) d = true := by
  rw [gateDom_running hg, gated_setStep (gateTarget_wf hs d), decide_eq_true rfl]

theorem gatedSince_gateDom {s : State} {d : Nat} (hs : tabWf regReset s.regs = true) (hd : d ∈ dozeDoms) (hg : gated s d = false) :
    (gateDom s d).clk.gatedSince = s.now := by
  rw [gateDom_running hg, gatedSince_setStep_gated hd ((gated_gateTarget hs d).trans hg)]
  rfl

theorem execDomainIdleExpiry_idle (d : Nat) (s : State) (hm : s.clk.mode = .on) (hd : d ∈ [3, 4, 5, 6, 7, 8, 9, 12, 13])
    (hh : s.getF (CLK_DOM_CTRL.idle_hold d) ≠ 0) (hl : (s.dom d).lastDemand + s.getF (CLK_DOM_CTRL.idle_hold d) < s.now)
    (hb : domBusy s d = false) (hg : gated s d = false) : execDomainIdleExpiry d s = .next (gateDom s d) :=
  congrArg _ (if_pos ⟨hm, hd, hh, hl, hb, hg⟩)

theorem execDomainDemand_starts (d : Nat) (s : State) (hd : d ∈ [3, 4, 5, 6, 7, 8, 9, 11, 12, 13]) :
    execDomainDemand d s = .next (demand s d) :=
  congrArg _ (if_pos hd)

theorem execDomainDemand_none (d : Nat) (s : State) (hd : d ∈ [0, 1, 2, 10]) : execDomainDemand d s = .next s :=
  congrArg _ (if_neg (by fin_cases hd <;> decide))

theorem execTileStepChange_outside_doze (s : State) (hm : s.clk.mode ≠ .doze) : execTileStepChange s = .next (tileAdvance s) :=
  congrArg _ (if_neg hm)

/-- Once a change has settled outside DOZE, TILE goes on toward its target (R49). -/
theorem execAvsSettleExpiry_outside_doze (n : Nat) (s : State) (hn : s.pwr.avsDue = some n) (hd : n ≤ s.now)
    (hm : s.clk.mode ≠ .doze) : execAvsSettleExpiry s = .next (tileAdvance { s with pwr := { s.pwr with avsDue := none } }) := by
  simp only [execAvsSettleExpiry, hn, if_neg (Nat.not_lt.2 hd)]

/-- Once a change has settled in DOZE, the voltage goes down to 0.55 V, or up again in the exit; an exit begins at 0.55 V where
a wake event waits (R66). -/
theorem execAvsSettleExpiry_doze {n : Nat} {s : State} (hn : s.pwr.avsDue = some n) (hd : n ≤ s.now) (hm : s.clk.mode = .doze) :
    execAvsSettleExpiry s = .next (
      let s1 := { s with pwr := { s.pwr with avsDue := none } }
      if s.clk.dozeExit then avsToward s1 (tileVolt (s.dom 4).held)
      else if s.pwr.vTile = 550 then (if s.clk.wakePending then dozeExit s1 else s1)
      else avsToward s1 550) := by
  simp only [execAvsSettleExpiry, hn, if_neg (Nat.not_lt.2 hd), hm, dozeEnded, Option.isNone_none, Bool.true_and, decide_eq_true_eq]
  rfl

theorem execDramStepChange_allowed (s : State) (hm : s.clk.mode = .on) (h8 : gated s 8 = true) (h9 : gated s 9 = true)
    (h10 : gated s 10 = false) : execDramStepChange s = .next (setStep s 10 (s.getF (CLK_DOM_STATUS.target_step 10))) :=
  congrArg _ (if_pos ⟨hm, h8, h9, h10⟩)

/-- Settles O25: each clause is the rule of its command; of a settled voltage change the four cases of DOZE are told apart. -/
theorem domainsGateStartAndStep : Obligations.DomainsGateStartAndStep :=
  ⟨execDomainIdleExpiry_idle,
   fun _ _ hi hd hg => ⟨gateDom_gates (State.regs_wf_of_inv hi) hg, gatedSince_gateDom (State.regs_wf_of_inv hi) hd hg⟩,
   execDomainDemand_starts,
   execDomainDemand_none,
   execTileStepChange_outside_doze,
   execAvsSettleExpiry_outside_doze,
   fun _ _ hn hd hm hx hv => (execAvsSettleExpiry_doze hn hd hm).trans (by simp only [hx, hv, Bool.false_eq_true, if_false]),
   fun _ _ hn hd hm hx hv hw => (execAvsSettleExpiry_doze hn hd hm).trans
     (by simp only [hx, hv, hw, Bool.false_eq_true, if_false, if_true]),
   fun _ _ hn hd hm hx => (execAvsSettleExpiry_doze hn hd hm).trans (by simp only [hx, if_true]),
   execDramStepChange_allowed⟩

end Sys2Proof.Machine
end

section
/-! SUPPORT. PWR_PARK and PWR_SHUTDOWN, from the start of the packet to the commit point (R61, R185, R186). -/

namespace Sys2Proof.Machine

theorem endPre_ok (s : State) (p : Pkt) : endPre s p .ok = none := rfl

theorem endPre_bad (s : State) (p : Pkt) (d : Nat) : endPre s p (.bad d) = some (preFail s p d) := rfl

/-- A PWR_PARK that starts is judged by its precondition, and waits where that holds. -/
theorem execPwrPark_started {q i : Nat} {s : State} {p : Pkt} (hk : s.pkt q i = some p) (ho : p.opcode = 0x6003)
    (ha : accepting s = true) (hp : p.phase = .started) : execPwrPark q i s = .next
      ((endPre s p (preDrain s p).2).getD (s.setPkt { p with phase := .waiting, prog := 0 })) := by
  simp only [execPwrPark, hk, ho, hp, ha, reduceCtorEq, false_and, and_false, if_false, and_self, if_true]
  cases endPre s p (preDrain s p).2 <;> rfl

/-- One that waits goes on by one step: from the drain at any time, later while the entry lasts. -/
theorem execPwrPark_waiting {q i : Nat} {s : State} {p : Pkt} (hk : s.pkt q i = some p) (ho : p.opcode = 0x6003)
    (hp : p.phase = .waiting) (hprog : p.prog < 3) (hm : p.prog = 0 ∨ s.clk.mode = .parkEntry) :
    execPwrPark q i s = .next (parkStep s p) := by
  simp only [execPwrPark, hk]
  rw [if_pos ⟨ho, hp, hprog, hm⟩]

/-- While another packet is open the drain goes on. -/
theorem parkStep_draining {s : State} {p : Pkt} (h0 : p.prog = 0) (hd : allDone s p = false) : parkStep s p = s := by
  simp only [parkStep, h0, hd, Bool.false_eq_true, false_and, if_false]

/-- Once the queues are drained the entry begins: LPDDR5X is in self-refresh and its clock gated. -/
theorem parkStep_drained {s : State} {p : Pkt} (h0 : p.prog = 0) (hd : allDone s p = true) (hm : s.clk.mode = .on)
    (ha : accepting s = true) {u : State} (hu : u = if p.u 0 4 = 0 then s else s.setF CLK_WAKE_EN.en (p.u 0 4)) :
    parkStep s p = gateDom { u.setPkt { p with prog := 1 } with
      clk := { u.clk with mode := .parkEntry, wakePending := false } } 10 := by
  subst hu
  simp only [parkStep, h0, hd, hm, ha, and_self, if_true]

/-- A wake event before the commit point cancels the entry. -/
theorem parkStep_cancelled {s : State} {p : Pkt} (hp : p.prog = 1 ∨ p.prog = 2) (hw : s.clk.wakePending = true) :
    parkStep s p = parkCancel s p := by
  rcases hp with hp | hp <;> simp only [parkStep, hp, hw, if_true]

/-- The main die in isolation and reset, for a PARK entry. -/
def parkReset (s : State) : State := mainDieReset { s with clk := { s.clk with entryReset := true } }

/-- No main-die attempt is due. -/
def mainIdle (s : State) : State := { s with boot := { s.boot with main := .idle } }

/-- With LPDDR5X in self-refresh the main die is isolated and put in reset. -/
theorem parkStep_isolates {s : State} {p : Pkt} (hp : p.prog = 1) (hw : s.clk.wakePending = false) :
    parkStep s p = mainIdle (parkReset (clearRecords (s.setPkt { p with prog := 2 }))) := by
  simp only [parkStep, hp, hw, Bool.false_eq_true, if_false, mainIdle, parkReset]

/-- With the main die in reset the first OPERATION OFF goes out. -/
theorem parkStep_commits {s : State} {p : Pkt} (hp : p.prog = 2) (hw : s.clk.wakePending = false) :
    parkStep s p = parkCommit s p := by
  simp only [parkStep, hp, hw, Bool.false_eq_true, if_false]

/-- A PWR_SHUTDOWN that starts is judged by its precondition, and waits where that holds. -/
theorem execPwrShutdown_started {q i : Nat} {s : State} {p : Pkt} (hk : s.pkt q i = some p) (ho : p.opcode = 0x6004)
    (ha : accepting s = true) (hp : p.phase = .started) : execPwrShutdown q i s = .next
      ((endPre s p (preDrain s p).2).getD (s.setPkt { p with phase := .waiting, prog := 0 })) := by
  simp only [execPwrShutdown, hk, ho, hp, ha, reduceCtorEq, false_and, and_false, if_false, and_self, if_true]
  cases endPre s p (preDrain s p).2 <;> rfl

/-- One that waits writes its record and shuts down at the end of the drain. -/
theorem execPwrShutdown_waiting {q i : Nat} {s : State} {p : Pkt} (hk : s.pkt q i = some p) (ho : p.opcode = 0x6004)
    (ha : accepting s = true) (hp : p.phase = .waiting) :
    execPwrShutdown q i s = .next (if allDone s p then shutDown (complete s p 0 0 0) else s) := by
  simp only [execPwrShutdown, hk]
  rw [if_pos ⟨ho, hp, ha⟩]

/-- Settles O42: by the phase of the packet and, while it waits, by its progress. -/
theorem sleepOpcodesDrainThenAct : Obligations.SleepOpcodesDrainThenAct := by
  refine ⟨?_, ?_, ?_⟩
  · intro q i s p hk ho ha
    have started := fun hp => execPwrPark_started hk ho ha hp
    have draining := fun hp (h0 : p.prog = 0) => execPwrPark_waiting hk ho hp (by omega) (.inl h0)
    exact ⟨fun hp hok => (started hp).trans (by rw [hok, endPre_ok, Option.getD_none]),
      fun hp hbad => (started hp).trans (by rw [hbad, endPre_bad, Option.getD_some]),
      fun hp h0 hd => (draining hp h0).trans (by rw [parkStep_draining h0 hd]),
      fun hp h0 hd hm u hu => (draining hp h0).trans (by rw [parkStep_drained h0 hd hm ha hu])⟩
  · intro q i s p hk ho hp hm
    have entering := fun (h : p.prog = 1 ∨ p.prog = 2) => execPwrPark_waiting hk ho hp (by omega) (.inr hm)
    exact ⟨fun hprog hw => (entering hprog).trans (by rw [parkStep_cancelled hprog hw]),
      fun u v h1 hw hu (hv : v = parkReset u) => (entering (.inl h1)).trans (by rw [parkStep_isolates h1 hw, hv, hu]; rfl),
      fun h2 hw => (entering (.inr h2)).trans (by rw [parkStep_commits h2 hw])⟩
  · intro q i s p hk ho ha
    exact ⟨fun hp hok => (execPwrShutdown_started hk ho ha hp).trans (by rw [hok, endPre_ok, Option.getD_none]),
      fun hp hd => (execPwrShutdown_waiting hk ho ha hp).trans (by rw [if_pos hd]),
      fun hp hd => (execPwrShutdown_waiting hk ho ha hp).trans (by rw [hd]; rfl)⟩

end Sys2Proof.Machine
end

section
/-! SUPPORT. Register writes and reads by a master (R138, R605, R607 to R609), the manager field and the mailboxes (R463, R468,
R469), LOCK bits (R611) and the tile statistics (R359). -/

namespace Sys2Proof.Machine

theorem busWrite_misaligned {s : State} {a : Nat} (m : BusMaster) (v : Nat) (ha : a % 4 ≠ 0) : busWrite s m a v = forbid s m a 4 :=
  if_pos ha

theorem busWrite_isolated {s : State} {a : Nat} (m : BusMaster) (v : Nat) (ha : a % 4 = 0) (hb : blockUp s a = false) :
    busWrite s m a v = s := by
  simp only [busWrite, ha, hb, ne_eq, not_true, if_false, Bool.not_false, if_true]

/-- An empty offset ignores a write, whether its block answers or not (R605). -/
theorem busWrite_empty (s : State) {a : Nat} (m : BusMaster) (v : Nat) (ha : a % 4 = 0) (hf : findReg a = none) :
    busWrite s m a v = s := by
  simp only [busWrite, ha, hf, ne_eq, not_true, if_false, ite_self]

theorem busWrite_register {s : State} {a : Nat} (m : BusMaster) (v : Nat) {r : RegRow} {i : Nat} (ha : a % 4 = 0)
    (hb : blockUp s a = true) (hf : findReg a = some (r, i)) : busWrite s m a v = regEffect r.name s m i a v := by
  simp only [busWrite, ha, hb, hf, ne_eq, not_true, if_false, Bool.not_true, Bool.false_eq_true]

/-- A write in a slot answers with an error only where it is aligned and its block is isolated (R17). -/
theorem execRegisterWrite_inSlot {m : BusMaster} {a : Nat} {v : Word} {s : State} (h : inSlot a = true) :
    execRegisterWrite m a v s =
      .next (answered (busWrite (busDemand s m a) m a v.toNat) (decide (a % 4 = 0) && !blockUp s a)) :=
  congrArg _ (if_pos h)

theorem execRegisterWrite_outside {m : BusMaster} {a : Nat} {v : Word} {s : State} (h : inSlot a = false) :
    execRegisterWrite m a v s = .next (if isFirmware m then answered s true else s) :=
  congrArg _ (if_neg (by simp [h]))

theorem instCtrlWrite_same_manager {s : State} {v : Nat} (m : BusMaster) (h : bits v 0 4 = s.manager) :
    instCtrlWrite s m v = (plainWrite s m INST_CTRL.addr v).1 :=
  if_pos (.inl h)

/-- A write of another manager by a master that may write moves the right, unless the old or the new manager has an enabled queue (R463). -/
theorem instCtrlWrite_new_manager {s : State} {m : BusMaster} {v : Nat} {r : RegRow} {i : Nat} (hn : bits v 0 4 ≠ s.manager)
    (hl : isLocked s INST_CTRL.addr = false) (hv : bitB v 31 = false) (hf : findReg INST_CTRL.addr = some (r, i))
    (hw : writeMask s m r i v ≠ 0) : instCtrlWrite s m v =
      if anyQueue s s.manager || anyQueue s (bits v 0 4) then forbid s m INST_CTRL.addr 4
      else moveManager (plainWrite s m INST_CTRL.addr v).1 s.manager (bits v 0 4) := by
  simp only [instCtrlWrite, hn, hl, hv, Bool.or_self, Bool.false_eq_true, or_self, if_false, guarded_write _ hf hw]

/-- The register that holds a half of a mailbox address. -/
abbrev mboxReg (k : Nat) (hi : Bool) : Nat := if hi then INST_MBOX_HI.addr k else INST_MBOX_LO.addr k

/-- The mailbox address that a write of one half would leave (R468). -/
abbrev mboxWould (s : State) (k : Nat) (hi : Bool) (v : Nat) : Nat :=
  if hi then s.getF (INST_MBOX_LO.lo k) * 4096 + bits v 0 8 * 2 ^ 32
  else bits v 12 20 * 4096 + s.getF (INST_MBOX_HI.hi k) * 2 ^ 32

theorem execMboxAddressWrite_inst {m : BusMaster} {k : Nat} {hi : Bool} {v : Word} {s : State} (hk : k < 16) :
    execMboxAddressWrite m k hi v s = .next (mboxWrite (masterDemand s m) m k hi v.toNat) :=
  congrArg _ (if_pos hk)

/-- A half of a mailbox address is written where the whole address would be none or a good one. -/
theorem mboxWrite_accepted {s t : State} {m : BusMaster} {k v : Nat} {hi : Bool} {r : RegRow} {i : Nat}
    (hf : findReg (mboxReg k hi) = some (r, i)) (hw : writeMask s m r i v ≠ 0) (ht : t = (plainWrite s m (mboxReg k hi) v).1)
    (hpa : mboxWould s k hi v = 0 ∨ mboxOk s (mboxWould s k hi v) = true) :
    mboxWrite s m k hi v = t.setInst k { t.inst k with notices := 0 } := by
  subst ht
  unfold mboxWrite
  rw [guarded_write _ hf hw]
  exact if_pos hpa

theorem mboxWrite_bad_address {s : State} {m : BusMaster} {k v : Nat} {hi : Bool} {r : RegRow} {i : Nat}
    (hf : findReg (mboxReg k hi) = some (r, i)) (hw : writeMask s m r i v ≠ 0) (h0 : mboxWould s k hi v ≠ 0)
    (hno : mboxOk s (mboxWould s k hi v) = false) : mboxWrite s m k hi v = forbid s m (mboxReg k hi) 4 := by
  unfold mboxWrite
  rw [guarded_write _ hf hw]
  exact if_neg (not_or.2 ⟨h0, Bool.not_eq_true _ ▸ hno⟩)

theorem mboxWrite_no_bit {s : State} {m : BusMaster} {k v : Nat} {hi : Bool} {r : RegRow} {i : Nat}
    (hf : findReg (mboxReg k hi) = some (r, i)) (hw : writeMask s m r i v = 0) :
    mboxWrite s m k hi v = forbid s m (mboxReg k hi) 4 := by
  unfold mboxWrite
  rw [guarded_forbidden _ hf hw]

/-- A doorbell write that may set pend_mgr alone raises the manager's source (R469). -/
theorem mboxRing_manager {s t : State} {m : BusMaster} {k v : Nat} {r : RegRow} {i : Nat}
    (hf : findReg (INST_MBOX_DB.addr k) = some (r, i)) (h0 : bitB (andN v (writeMask s m r i v)) 0 = true)
    (h1 : bitB (andN v (writeMask s m r i v)) 1 = false) (ht : t = (plainWrite s m (INST_MBOX_DB.addr k) v).1) :
    mboxRing s m k v = raiseHost (t.setF (INST_MBOX_PEND.pend_mgr k) 1) (112 + k) := by
  subst ht
  simp only [mboxRing, hf, h0, h1, if_true, Bool.false_eq_true, if_false]

/-- One that may set pend_ten alone raises the tenant's source (R469). -/
theorem mboxRing_tenant {s t : State} {m : BusMaster} {k v : Nat} {r : RegRow} {i : Nat}
    (hf : findReg (INST_MBOX_DB.addr k) = some (r, i)) (h1 : bitB (andN v (writeMask s m r i v)) 1 = true)
    (h0 : bitB (andN v (writeMask s m r i v)) 0 = false) (ht : t = (plainWrite s m (INST_MBOX_DB.addr k) v).1) :
    mboxRing s m k v = raiseHost (t.setF (INST_MBOX_PEND.pend_ten k) 1) (128 + k) := by
  subst ht
  simp only [mboxRing, hf, h0, h1, if_true, Bool.false_eq_true, if_false]

theorem execRingMgr_inst {m : BusMaster} {k : Nat} {s : State} (hk : k < 16) :
    execRingMgr m k s = .next (mboxRing (masterDemand s m) m k 1) :=
  congrArg _ (if_pos hk)

theorem execRingTen_inst {m : BusMaster} {k : Nat} {s : State} (hk : k < 16) :
    execRingTen m k s = .next (mboxRing (masterDemand s m) m k 2) :=
  congrArg _ (if_pos hk)

/-- LOCK_SET at its LOCK register writes the present word with the lock bit, or meets an isolated block. -/
theorem execLockSet_at {m : BusMaster} {a : Nat} {f : FRef} {s : State} (hf : blockLock a = some f) (ha : f.addr = a) :
    execLockSet m a s = .next (if blockUp s a then
      answered (plainWrite (busDemand s m a) m a (orN (s.rd a).toNat (2 ^ f.lo))).1 false else answered s true) := by
  simp only [execLockSet, hf, ha, ne_eq, not_true, if_false]

theorem execQsCountRead_slot (m : BusMaster) (l k : Nat) (s : State) (hl : l < 8) (hk : k < 16) :
    execQsCountRead m l k s =
      .next (regRead (busDemand s m (TILE_QS_COUNT.addr (16 * l + k))) m (TILE_QS_COUNT.addr (16 * l + k))) :=
  congrArg _ (if_pos ⟨hl, hk⟩)

theorem execQsClear_released {m : BusMaster} {v : Word} {s : State} (h : mainReleased s = true) : execQsClear m v s =
    .next (answered (qsClearWrite (busDemand s m TILE_QS_CLEAR.addr) m v.toNat) false) :=
  congrArg _ (if_pos h)

theorem execQsClear_isolated {m : BusMaster} {v : Word} {s : State} (h : mainReleased s = false) :
    execQsClear m v s = .next (answered s true) :=
  congrArg _ (if_neg (by simp [h]))

/-- A write of TILE_QS_CLEAR that takes effect clears the slots it names. -/
theorem qsClearWrite_of_plainWrite {s t : State} {m : BusMaster} {v : Nat} {ok : Bool}
    (h : plainWrite s m TILE_QS_CLEAR.addr v = (t, ok)) :
    qsClearWrite s m v = if ok then qsClear t (bits v 16 3) (bits v 0 16) else t := by
  simp only [qsClearWrite, h]

theorem execForbiddenRegisterRead_forbidden {m : BusMaster} {a : Nat} {s : State} (h : readForbidden m a = true) :
    execForbiddenRegisterRead m a s = .next (readZero (forbid (masterDemand s m) m a 4)) :=
  congrArg _ (if_pos h)

/-- Settles O59: each clause is the rule of its command, and of a write in a slot the case of R605 and R609 it falls under. -/
theorem registersAnswerTheirWriters : Obligations.RegistersAnswerTheirWriters := by
  refine ⟨?_, ?_, ?_, ?_, ?_, ?_, ?_, ?_, execQsCountRead_slot, ?_, ?_⟩
  · intro m a v s hs
    have answers := execRegisterWrite_inSlot (m := m) (v := v) (s := s) hs
    exact ⟨fun ha => answers.trans (by rw [busWrite_misaligned _ _ ha, decide_eq_false ha, Bool.false_and]),
      fun ha hb hb' => answers.trans (by rw [busWrite_isolated _ _ ha hb', hb, decide_eq_true ha]; rfl),
      fun ha hb hf => answers.trans (by rw [busWrite_empty _ _ _ ha hf, hb, decide_eq_true ha]; rfl),
      fun r i ha hb hb' hf => answers.trans (by rw [busWrite_register _ _ ha hb' hf, hb, decide_eq_true ha]; rfl)⟩
  · intro m a v s hs
    exact ⟨fun hfw => (execRegisterWrite_outside hs).trans (by rw [if_pos hfw]),
      fun hfw => (execRegisterWrite_outside hs).trans (by rw [hfw]; rfl)⟩
  · rintro m v s _ rfl hv
    exact congrArg _ (instCtrlWrite_same_manager m hv)
  · rintro m v s _ r i rfl hn hl hv hf hw
    have write := instCtrlWrite_new_manager hn hl hv hf hw
    exact ⟨fun hq => congrArg _ (write.trans (if_pos (by simpa using hq))),
      fun hq hq' => congrArg _ (write.trans (if_neg (by simp [hq, hq'])))⟩
  · rintro m k _ hi v s t _ r i hk hf rfl hw rfl ht
    exact ⟨fun hok => (execMboxAddressWrite_inst hk).trans (congrArg _ (mboxWrite_accepted hf hw ht hok)),
      fun h0 hno => (execMboxAddressWrite_inst hk).trans (congrArg _ (mboxWrite_bad_address hf hw h0 hno))⟩
  · rintro m k hi v s _ r i hk hf rfl hw
    exact (execMboxAddressWrite_inst hk).trans (congrArg _ (mboxWrite_no_bit hf hw))
  · rintro m k s t _ r i hk hf rfl
    exact ⟨fun h0 h1 ht => (execRingMgr_inst hk).trans (congrArg _ (mboxRing_manager hf h0 h1 ht)),
      fun h1 h0 ht => (execRingTen_inst hk).trans (congrArg _ (mboxRing_tenant hf h1 h0 ht))⟩
  · intro m a f s hf ha
    exact ⟨fun hb => (execLockSet_at hf ha).trans (by rw [if_pos hb]), fun hb => (execLockSet_at hf ha).trans (by rw [hb]; rfl)⟩
  · intro m v s t ok hw
    exact ⟨fun hr hok => (execQsClear_released hr).trans (by rw [qsClearWrite_of_plainWrite hw, if_pos hok]),
      fun hr hok => (execQsClear_released hr).trans (by rw [qsClearWrite_of_plainWrite hw, hok]; rfl),
      execQsClear_isolated⟩
  · rintro m a s _ hr rfl
    exact execForbiddenRegisterRead_forbidden hr

end Sys2Proof.Machine
end

section
/-! SUPPORT. TIME as a master reads it (R71, R72), its rate, the SLOW edge and the sweep timer (R62, R73 to R78); and what a move
of clock domains leaves alone. -/

namespace Sys2Proof.Machine

/-- What a move of clock domains leaves alone: the bus, TIME and whether a wake event waits. -/
def clockView (s : State) : BusState × Nat × Bool := (s.bus, s.clk.time, s.clk.wakePending)

@[simp] theorem clockView_setF (s : State) (f : FRef) (x : Nat) : clockView (s.setF f x) = clockView s := rfl
@[simp] theorem clockView_addSat (s : State) (f : FRef) (n : Nat) : clockView (s.addSat f n) = clockView s := rfl
@[simp] theorem clockView_setDom (s : State) (d : Nat) (x : DomState) : clockView (s.setDom d x) = clockView s := rfl

@[simp] theorem clockView_setStep (s : State) (d c : Nat) : clockView (setStep s d c) = clockView s := by
  simp only [setStep]
  split_ifs <;> rfl

@[simp] theorem clockView_episode (s : State) (d : Nat) (was now_ : Bool) (ctr : FRef) :
    clockView (episode s d was now_ ctr) = clockView s := by
  simp only [episode, apply_ite clockView, clockView_setF, clockView_addSat, ite_self]

@[simp] theorem clockView_refreshDom (s : State) (d : Nat) : clockView (refreshDom s d) = clockView s := by
  simp only [refreshDom, apply_ite clockView, clockView_setF, clockView_setDom, clockView_setStep, clockView_episode, ite_self]

@[simp] theorem clockView_restartDom (s : State) (d : Nat) : clockView (restartDom s d) = clockView s := by
  simp only [restartDom, clockView_refreshDom, clockView_setStep, clockView_setF]

@[simp] theorem clockView_gateDom (s : State) (d : Nat) : clockView (gateDom s d) = clockView s := by
  simp only [gateDom, apply_ite clockView, clockView_setStep, clockView_setF, clockView_setDom, ite_self]

theorem clockView_demand (s : State) (d : Nat) : clockView (demand s d) = clockView s := by
  have hc : clockView (dozeCancel s) = clockView s := by
    simp only [dozeCancel, List.foldl, clockView_restartDom]
    rfl
  have hd : ∀ t, clockView (dramFull t d) = clockView t := fun t => by
    simp only [dramFull, apply_ite clockView, clockView_setStep, ite_self]
  simp only [demand, apply_ite clockView, clockView_restartDom, hd, clockView_setDom, hc, ite_self]

theorem clockView_masterDemand (s : State) (m : BusMaster) : clockView (masterDemand s m) = clockView s := by
  cases m <;> simp only [masterDemand, clockView_demand]

theorem clockView_busDemand (s : State) (m : BusMaster) (a : Nat) : clockView (busDemand s m a) = clockView s := by
  unfold busDemand
  split <;> simp only [clockView_demand, clockView_masterDemand]

/-- Master `m` has read TIME_NOW_LO: its low half is on the bus, its upper half latched under the master's own key (R72). -/
def timeLoRead (s : State) (m : BusMaster) : State := { s with bus := { s.bus with
  data := s.clk.time % 2 ^ 32
  fault := false
  latches := tabPut (fun _ => 0) s.bus.latches (latchKey m TIME_NOW_HI.addr) (s.clk.time / 2 ^ 32 % 2 ^ 32) } }

/-- Master `m` has read TIME_NOW_HI: its latch is on the bus (R72). -/
def timeHiRead (s : State) (m : BusMaster) : State := { s with bus := { s.bus with
  data := tabGet (fun _ => 0) s.bus.latches (latchKey m TIME_NOW_HI.addr)
  fault := false } }

theorem execLatchingLoRead_timeNowLo (m : BusMaster) (s : State) :
    execLatchingLoRead m (.reg TIME_NOW_LO.addr) s = .next (timeLoRead (busDemand s m TIME_NOW_LO.addr) m) := rfl

theorem execLatchingLoRead_timeNowHi (m : BusMaster) (s : State) :
    execLatchingLoRead m (.reg TIME_NOW_HI.addr) s = .next (timeHiRead (busDemand s m TIME_NOW_HI.addr) m) := rfl

theorem State.latches_wf_of_inv {s : State} (h : State.Inv s = true) : tabWf (fun _ => 0) s.bus.latches = true := by
  obtain ⟨-, -, -, hlatches⟩ := (Keeps.inv_iff s).1 h
  exact hlatches

/-- A read of TIME_NOW_HI shows what the master's last read of TIME_NOW_LO latched. -/
theorem timeHiRead_data_of_timeLoRead {s u : State} {m : BusMaster} (hs : tabWf (fun _ => 0) s.bus.latches = true)
    (ht : s.clk.time < 2 ^ 64) (hu : u.bus.latches = (timeLoRead s m).bus.latches) :
    (timeHiRead u m).bus.data = s.clk.time / 2 ^ 32 := by
  calc (timeHiRead u m).bus.data
      = tabGet (fun _ => 0) (timeLoRead s m).bus.latches (latchKey m TIME_NOW_HI.addr) := by rw [← hu]; rfl
    _ = s.clk.time / 2 ^ 32 % 2 ^ 32 := tabGet_put_same _ hs _ _
    _ = s.clk.time / 2 ^ 32 := by omega

/-- Settles O27: the low read latches the upper half under the master's own key, and the high read looks it up there; the demand
that either access makes moves clock domains only. -/
theorem timeReadsAreConsistent : Obligations.TimeReadsAreConsistent := by
  intro m s hi ht
  have hview := clockView_busDemand s m TIME_NOW_LO.addr
  have hbus : (busDemand s m TIME_NOW_LO.addr).bus = s.bus := congrArg (·.1) hview
  have htime : (busDemand s m TIME_NOW_LO.addr).clk.time = s.clk.time := congrArg (·.2.1) hview
  have hlo : (timeLoRead (busDemand s m TIME_NOW_LO.addr) m).bus.data = s.clk.time % 2 ^ 32 := congrArg (· % 2 ^ 32) htime
  refine ⟨_, execLatchingLoRead_timeNowLo m s, hlo, htime, fun u hu => ?_⟩
  have hlatches : (busDemand u m TIME_NOW_HI.addr).bus.latches = (timeLoRead (busDemand s m TIME_NOW_LO.addr) m).bus.latches :=
    (congrArg (·.1.latches) (clockView_busDemand u m TIME_NOW_HI.addr)).trans hu
  have hhi : (timeHiRead (busDemand u m TIME_NOW_HI.addr) m).bus.data = s.clk.time / 2 ^ 32 := by
    rw [timeHiRead_data_of_timeLoRead (hbus ▸ State.latches_wf_of_inv hi) (htime ▸ ht) hlatches, htime]
  exact ⟨_, execLatchingLoRead_timeNowHi m u, hhi, by rw [hhi, hlo]; omega, hlatches⟩

/-- The SLOW count advanced and WAKE_N[3:0] sampled, where boundary scan holds no pin. -/
def slowCounted (s : State) (w : Nat) : State :=
  { s with clk := { s.clk with
    slow := (s.clk.slow + 1) % 2 ^ 48
    wakeHist := (List.range 4).map fun n => (2 * s.clk.wakeHist.getD n 7 + b2n (bitB w n)) % 8 } }

/-- TIME stops at a SLOW edge where that is due, and a wake event that waits begins the exit of PARK (R62, R64). -/
def stopWhereDue (s : State) : State :=
  if s.clk.stopDue && s.clk.running then
    let u := sageSleep s
    if u.clk.wakePending && decide (u.clk.mode = .park) && u.pwr.down.isEmpty then parkExit u else u
  else s

/-- A SLOW edge at which TIME does not restart. -/
theorem execSlowRisingEdge_no_restart {w g : Nat} {s : State} (hr : s.clk.restartDue = false) (hs : scanHolds s = false) :
    execSlowRisingEdge w g s = .next (padSample (stopWhereDue
      (if s.clk.running then recordPair (slowCounted s w) else slowCounted s w)) g) := by
  simp only [execSlowRisingEdge, hr, hs, Bool.false_eq_true, if_false, slowCounted, stopWhereDue]

theorem stopWhereDue_stays {s : State} (h : s.clk.stopDue = false ∨ s.clk.running = false) : stopWhereDue s = s :=
  if_neg (by rcases h with h | h <;> simp [h])

theorem wakePending_sageSleep (s : State) : (sageSleep s).clk.wakePending = s.clk.wakePending :=
  congrArg (·.2.2) ((clockView_gateDom (gateDom s 2) 13).trans (clockView_gateDom s 2))

theorem stopWhereDue_sleeps {s : State} (hd : s.clk.stopDue = true) (hr : s.clk.running = true) (hw : s.clk.wakePending = false) :
    stopWhereDue s = sageSleep s := by
  simp only [stopWhereDue, hd, hr, wakePending_sageSleep, hw, Bool.and_self, Bool.false_and, Bool.false_eq_true, if_true, if_false]

/-- The next expiry of the sweep timer is a whole period after the last, however late the last was seen (R62). -/
theorem execSweepTimerExpiry_outside_park {n : Nat} {s : State} (hn : s.clk.nextSweep = some n) (hd : n ≤ s.clk.slow)
    (hm : s.clk.mode ≠ .park) (hp : s.ring.parkNext = none) :
    execSweepTimerExpiry s = .next { s with clk := { s.clk with
      nextSweep := if s.getF CLK_SWEEP_PERIOD.period_s = 0 then none
                   else some (n + s.getF CLK_SWEEP_PERIOD.period_s * 32768) } } := by
  simp only [execSweepTimerExpiry, hn, if_neg (Nat.not_lt.2 hd), hp]
  exact congrArg _ (if_pos (.inl hm))

theorem execRefreqAssert_due {n : Nat} {s : State} (hn : s.clk.nextSweep = some n) (hm : s.clk.mode = .park)
    (hd : n ≤ s.clk.slow + 64) : execRefreqAssert s = .next (setRefreq s true) := by
  simp only [execRefreqAssert, hn]
  exact congrArg _ (if_pos ⟨hm, hd⟩)

/-- The `time` CSR of a host core whose domain runs shows the TIME copy of that domain (R71). -/
theorem execLatchingLoRead_timeCsr (c : Nat) (b : Bool) (s : State) (hm : mainReleased s = true) (hg : gated s 3 = false) :
    execLatchingLoRead (.hostCore c b) .timeCsr s = .next { s with bus := { s.bus with data := hostTime s, fault := false } } :=
  congrArg _ (if_pos (by simp [hm, hg]))

/-- A write by another master is refused and logged (R78, R608). -/
theorem execTimeRateAdjWrite_other (m : BusMaster) (v : Word) (s : State) (h : isFirmware m = false) :
    execTimeRateAdjWrite m v s = .next (forbid (masterDemand s m) m TIME_RATE_ADJ.addr 4) :=
  congrArg _ (if_neg (by simp [h]))

/-- A write by Tsuquel is clamped and stored (R76). -/
theorem execTimeRateAdjWrite_tsuquel (v : Word) (s : State) :
    execTimeRateAdjWrite .tsuquel v s = .next (rateAdjust s (sext 32 v.toNat)) := by
  simp only [execTimeRateAdjWrite, masterDemand, rateWrite, isFirmware, if_true]

/-- Settles O23: each clause is the rule of its command; of a SLOW edge the three cases of TIME are told apart. -/
theorem timeIsReadSetAndSampled : Obligations.TimeIsReadSetAndSampled := by
  refine ⟨fun m s => ⟨_, rfl, execLatchingLoRead_timeNowLo m s⟩, execLatchingLoRead_timeCsr, execTimeRateAdjWrite_tsuquel,
    execTimeRateAdjWrite_other, ?_, fun _ _ => execSweepTimerExpiry_outside_park, fun _ _ => execRefreqAssert_due⟩
  intro w g s hr hs
  have answers := execSlowRisingEdge_no_restart (w := w) (g := g) hr hs
  refine ⟨slowCounted s w, rfl, fun hrun => answers.trans ?_, fun hrun hstop => answers.trans ?_,
    fun hrun hstop hwake => answers.trans ?_⟩
  · rw [hrun, if_neg (by decide), stopWhereDue_stays (s := slowCounted s w) (.inr hrun)]
  · rw [hrun, if_pos rfl, stopWhereDue_stays (s := recordPair (slowCounted s w)) (.inl hstop)]
  · rw [hrun, if_pos rfl, stopWhereDue_sleeps (s := recordPair (slowCounted s w)) hstop hrun hwake]

end Sys2Proof.Machine
end

section
/-! SUPPORT. Wake events and the entry of DOZE (R43, R58 to R60, R65, R455, R460, R599). -/

namespace Sys2Proof.Machine

theorem bitB_eq_testBit (v i : Nat) : bitB v i = v.testBit i := (Nat.testBit_eq_decide_div_mod_eq ..).symm

/-- A bit set in a field within its width reads back as set. -/
theorem bitB_orN_two_pow {i w : Nat} (v : Nat) (h : i < w) : bitB (orN v (2 ^ i) % 2 ^ w) i = true := by
  have hset : (v ||| 2 ^ i).testBit i = true := by rw [Nat.testBit_or, Nat.testBit_two_pow_self, Bool.or_true]
  rw [bitB_eq_testBit, Nat.testBit_mod_two_pow, decide_eq_true h, Bool.true_and]
  exact hset

/-- The event of a WAKE_N pin is latched in its bit of CLK_WAKE_STATUS (R59). -/
def hitLatched (s : State) (pin : Nat) : State :=
  s.setF CLK_WAKE_STATUS.hit (orN (s.getF CLK_WAKE_STATUS.hit) (2 ^ pin))

theorem bitB_hitLatched {s : State} {pin : Nat} (hs : tabWf regReset s.regs = true) (hp : pin < 4) :
    bitB ((hitLatched s pin).getF CLK_WAKE_STATUS.hit) pin = true := by
  rw [hitLatched, State.getF_setF_same hs _ _ (by decide)]
  exact bitB_orN_two_pow _ hp

/-- In PARK a WAKE_N event requests REFCLK whether or not an exit follows; of the registers it writes CLK_WAKE_STATUS alone (R43). -/
theorem wakeEvent_park {s : State} {pin : Nat} (hp : pin < 4) (hm : s.clk.mode = .park) :
    (wakeEvent s pin).pins.refreq = true ∧ (wakeEvent s pin).regs = (hitLatched s pin).regs := by
  simp only [wakeEvent, if_pos hp, State.setF_clk, hm]
  split_ifs <;> exact ⟨rfl, rfl⟩

theorem execWakeNLatch_falling (pin : Nat) (s : State) (hp : pin < 4) (hh : s.clk.wakeHist.getD pin 7 % 8 = 4) :
    execWakeNLatch pin s = .next (wakeEvent s pin) :=
  congrArg _ (if_pos ⟨hp, hh⟩)

theorem compareDue_of_mem {s : State} {core v : Nat} (h : (core, v) ∈ s.clk.compares) (hv : v ≤ s.now) :
    compareDue s core = true :=
  List.any_eq_true.2 ⟨_, h, decide_eq_true ⟨rfl, hv⟩⟩

theorem execHostTimerCompare_due (core v : Nat) (s : State) (hm : s.clk.mode = .doze ∨ s.clk.mode = .dozeEntry)
    (hc : (core, v) ∈ s.clk.compares) (hv : v ≤ s.now) : execHostTimerCompare core s = .next (wakeEvent s 7) :=
  congrArg _ (if_pos ⟨hm, compareDue_of_mem hc hv⟩)

theorem execPcieWake_doze (k : Nat) (s : State) (hm : s.clk.mode = .doze) (hk : k ∈ s.pcieUp) :
    execPcieWake k s = .next (wakeEvent s 5) :=
  congrArg _ (if_pos ⟨hm, hk⟩)

/-- In PARK a controller with a wake filter that is not up is brought up (R455). -/
theorem execCanWakeDetect_park (c : Nat) (s : State) (hm : s.clk.mode = .park) (hc : c < 16) (hmode : canMode s c ≠ 0)
    (ha : c ∉ s.io.canAwake) (hf : ((s.can c).filters.any fun f => bitB (leAt f 8 1) 1) = true) :
    execCanWakeDetect c s = .next { s with
      pins := { s.pins with refreq := true }
      io := { s.io with canAwake := c :: s.io.canAwake } } := by
  have awake : (if c ∈ s.io.canAwake then s.io.canAwake else c :: s.io.canAwake) = c :: s.io.canAwake := if_neg ha
  rw [execCanWakeDetect, if_pos ⟨hm, hc, hmode, hf⟩, ← awake]
  rfl

theorem execDozeHoldExpiry_begins (cs : List (Option Nat)) (s : State) (hm : s.clk.mode = .on) (ha : accepting s = true)
    (he : s.flag CLK_DOZE_HOLD.doze_en = true) (hg : dozeDoms.all (gated s) = true)
    (hh : s.clk.gatedSince + s.getF CLK_DOZE_HOLD.doze_hold ≤ s.now) :
    execDozeHoldExpiry cs s = .next (dozeBegin s cs) := by
  rw [execDozeHoldExpiry, if_neg (by simp [hm]), if_pos ⟨hm, ha, he, hg, hh⟩]

/-- Given again, the entry passes its commit point (assumption 88). -/
theorem execDozeHoldExpiry_commits (cs : List (Option Nat)) (s : State) (hm : s.clk.mode = .dozeEntry) :
    execDozeHoldExpiry cs s = .next (dozeEntry s) :=
  congrArg _ (if_pos hm)

/-- Settles O24: each clause is the rule of its command; in PARK the latched pin also requests REFCLK, and its bit is read back. -/
theorem wakeEventsLatch : Obligations.WakeEventsLatch := by
  refine ⟨execWakeNLatch_falling, ?_, execHostTimerCompare_due, execPcieWake_doze, execCanWakeDetect_park,
    execDozeHoldExpiry_begins, execDozeHoldExpiry_commits⟩
  intro pin s hi hp hh hm
  obtain ⟨hrefreq, hregs⟩ := wakeEvent_park hp hm
  have hhit := bitB_hitLatched (State.regs_wf_of_inv hi) hp
  refine ⟨_, execWakeNLatch_falling pin s hp hh, hrefreq, ?_⟩
  rwa [State.getF, State.rd, hregs]

end Sys2Proof.Machine
end

section
/-! SUPPORT. The registers of the queues: doorbells, enable and disable, and the drain of the violation log (R116, R117, R121, R125,
R140, R608). -/

namespace Sys2Proof.Machine

theorem execDoorbellWrite_queue {m : BusMaster} {q : Nat} {v : Word} {s : State} (hq : q < 64) : execDoorbellWrite m q v s =
    .next (guarded (masterDemand s m) m (CMDP_DB.addr q) v.toNat fun t => doorbell t m q v.toNat) :=
  congrArg _ (if_pos hq)

/-- A valid doorbell value becomes the tail, whether the queue is stopped or not (R121). -/
theorem doorbell_valid {s : State} {q d : Nat} (m : BusMaster) (he : s.flag (CMDP_QCFG.enable q) = true)
    (hd : d ≠ s.getF (CMDP_DB.tail q)) (hok : doorbellOk s q d = true) : doorbell s m q d = s.setF (CMDP_DB.tail q) d := by
  simp only [doorbell, he, Bool.not_true, Bool.false_eq_true, if_false, if_neg hd, hok, if_true]

/-- One beyond the free slots is logged with kind 6 and stops the queue (R121). -/
theorem doorbell_beyond {s : State} {q d : Nat} (m : BusMaster) (he : s.flag (CMDP_QCFG.enable q) = true)
    (hd : d ≠ s.getF (CMDP_DB.tail q)) (hno : doorbellOk s q d = false) : doorbell s m q d =
      writeStatus (stopQueue (vlog s 6 (CMDP_DB.addr q) (masterId m) (masterInst s m) (qCtx q)) q 1) q := by
  simp only [doorbell, he, Bool.not_true, Bool.false_eq_true, if_false, if_neg hd, hno]

theorem execQueueEnable_queue {m : BusMaster} {q : Nat} {v : Word} {s : State} (hq : q < 64) : execQueueEnable m q v s =
    .next (guarded (masterDemand s m) m (CMDP_QCFG.addr q) (putBits v.toNat 8 1 1) fun t => qcfgWrite t m q (putBits v.toNat 8 1 1)) :=
  congrArg _ (if_pos hq)

theorem execQueueDisable_queue {m : BusMaster} {q : Nat} {v : Word} {s : State} (hq : q < 64) : execQueueDisable m q v s =
    .next (guarded (masterDemand s m) m (CMDP_QCFG.addr q) (putBits v.toNat 8 1 0) fun t => qcfgWrite t m q (putBits v.toNat 8 1 0)) :=
  congrArg _ (if_pos hq)

theorem bitB_putBits_one (v i x : Nat) : bitB (putBits v i 1 x) i = decide (x % 2 = 1) :=
  congrArg (fun n => decide (n = 1)) (bits_putBits_same v i 1 x)

/-- A write of enable 1 to a drained queue that leaves valid settings enables it (R117). -/
theorem qcfgWrite_enables {s x : State} {m : BusMaster} {q v : Nat} (he : s.flag (CMDP_QCFG.enable q) = false)
    (hd : drained s q = true) (hv : bitB v 8 = true) (hx : x = (s.setF (CMDP_QCFG.log2_entries q) (bits v 0 4)).setF
      (CMDP_QCFG.slot_code q) (bits v 4 4)) (hok : queueSetOk x q = true) : qcfgWrite s m q v = enableQueue x q := by
  subst hx
  simp only [qcfgWrite, he, hv, hd, hok, Bool.not_true, Bool.and_false, Bool.false_eq_true, if_false, if_true]

/-- A write of enable 0 that leaves the settings of an enabled queue disables it (R125). -/
theorem qcfgWrite_disables {s : State} {m : BusMaster} {q v : Nat} (he : s.flag (CMDP_QCFG.enable q) = true)
    (hv : bitB v 8 = false) (hsame : (s.rd (CMDP_QCFG.addr q)).toNat % 256 = v % 256) :
    qcfgWrite s m q v = s.setF (CMDP_QCFG.enable q) 0 := by
  simp only [qcfgWrite, he, hv, if_pos hsame, Bool.false_eq_true, if_false, if_true]

/-- The enable bit lies above the settings. -/
theorem settings_putBits_enable (v x : Nat) : putBits v 8 1 x % 256 = v % 256 := by
  simpa [bits] using bits_putBits_below v 8 1 x (lo' := 0) (w' := 8) (by decide)

/-- Settles O28: by the writer's bits, then by what the doorbell, the settings or the drain rule say of the value. -/
theorem queueRegistersActAsWritten : Obligations.QueueRegistersActAsWritten := by
  rintro m v s _ rfl
  refine ⟨?_, ?_, ?_⟩
  · intro q r i hq hf
    have answers := execDoorbellWrite_queue (m := m) (v := v) (s := s) hq
    exact ⟨fun hw he hd hok => answers.trans (by rw [guarded_write _ hf hw, doorbell_valid m he hd hok]),
      fun hw he hd hno => answers.trans (by rw [guarded_write _ hf hw, doorbell_beyond m he hd hno]),
      fun hw => answers.trans (by rw [guarded_forbidden _ hf hw])⟩
  · intro q r i hq hf
    exact ⟨fun hw he hd x hx hok => (execQueueEnable_queue hq).trans
        (by rw [guarded_write _ hf hw, qcfgWrite_enables he hd (bitB_putBits_one ..) hx hok]),
      fun hw he hsame => (execQueueDisable_queue hq).trans
        (by rw [guarded_write _ hf hw, qcfgWrite_disables he (bitB_putBits_one ..) (hsame.trans (settings_putBits_enable ..).symm)])⟩
  · intro r i x hf hw hx
    exact congrArg _ ((guarded_write _ hf hw).trans (by rw [vlogRd, hx, vlogRdSet]))

end Sys2Proof.Machine
end

section
/-! SUPPORT. The system opcodes (R78, R151 to R155). -/

namespace Sys2Proof.Machine

/-- A started packet whose preconditions hold and leave the state alone is carried out on it. -/
theorem carry_ok {s : State} {q idx code : Nat} {p : Pkt} {pre : State → Pkt → State × PreFail} (eff : State → Pkt → State)
    (h : startedPkt s q idx code = some p) (hpre : pre s p = (s, .ok)) : carry s q idx code pre eff = .next (eff s p) := by
  rw [carry_some pre eff h, preThen, hpre]
  rfl

/-- A started packet with a bad parameter ends with the failure of that parameter. -/
theorem carry_bad {s : State} {q idx code d : Nat} {p : Pkt} {pre : State → Pkt → State × PreFail} (eff : State → Pkt → State)
    (h : startedPkt s q idx code = some p) (hpre : pre s p = (s, .bad d)) :
    carry s q idx code pre eff = .next (preFail s p d) := by
  rw [carry_some pre eff h, preThen, hpre]
  rfl

theorem preSysTime_ok {s : State} {p : Pkt} (hsrc : p.u 0 1 ≠ 2) (hadj : p.u 1 1 = 0 ∨ p.u 0 1 = 1) :
    preSysTime s p = (s, .ok) := by
  simp only [preSysTime, firstPre, hsrc, hadj, ne_eq, not_false_eq_true, decide_true, Bool.true_or, if_true]

/-- A SYS_TIME that sets the rate source alone. -/
theorem execSysTime_source (q i : Nat) (s : State) (p : Pkt) (hk : startedPkt s q i 0x0002 = some p) (hsrc : p.u 0 1 ≠ 2)
    (hadj : p.u 1 1 = 0) : execSysTime q i s = .next (let u := s.setF TIME_CTRL.rate_src (p.u 0 1)
      complete u p 0 (u.getF TIME_RATE_ADJ.adj) 0) :=
  (carry_ok _ hk (preSysTime_ok hsrc (.inl hadj))).trans (by simp only [hadj, Nat.zero_ne_one, if_false])

/-- A SYS_TIME that also sets the adjustment, which is clamped (R76). -/
theorem execSysTime_adjust (q i : Nat) (s : State) (p : Pkt) (hk : startedPkt s q i 0x0002 = some p) (hsrc : p.u 0 1 = 1)
    (hadj : p.u 1 1 = 1) : execSysTime q i s = .next (let u := rateAdjust (s.setF TIME_CTRL.rate_src 1) (sext 32 (p.u 4 4))
      complete u p 0 (u.getF TIME_RATE_ADJ.adj) 0) :=
  (carry_ok _ hk (preSysTime_ok (by omega) (.inr hsrc))).trans (by simp only [hsrc, hadj, if_true])

theorem execSysWait_set (q i : Nat) (s : State) (p : Pkt) (hk : startedPkt s q i 0x0004 = some p)
    (he : eventSet s (qOwner q) (p.u 0 1) = true) : execSysWait q i s = .next
      (complete (if bitB (p.u 1 1) 0 then putEvent s (qOwner q) (p.u 0 1) false else s) p 0 (p.u 0 1) 0) :=
  (carry_plain _ hk).trans (congrArg _ (if_pos he))

theorem execSysWait_unset (q i : Nat) (s : State) (p : Pkt) (hk : startedPkt s q i 0x0004 = some p)
    (he : eventSet s (qOwner q) (p.u 0 1) = false) : execSysWait q i s = .next (s.setPkt { p with phase := .waiting }) :=
  (carry_plain _ hk).trans (congrArg _ (if_neg (by simp [he])))

theorem preRollback_ok {s : State} {p : Pkt} (h : p.u 0 4 ≤ runningRollback s) : preRollback s p = (s, .ok) := by
  simp only [preRollback, firstPre, h, decide_true, if_true]

/-- Settles O31: of each opcode the preconditions, then its effect; an opcode with accesses goes through the pacers. -/
theorem systemOpcodesAnswer : Obligations.SystemOpcodesAnswer :=
  ⟨fun _ _ _ _ hk => carry_plain _ hk,
   fun _ _ _ _ _ hk ha => carryDma_adm hk ha,
   execSysTime_source,
   execSysTime_adjust,
   fun _ _ _ _ hk => carry_plain _ hk,
   execSysWait_set,
   execSysWait_unset,
   fun _ _ _ _ _ _ hk ha => carryDma_adm hk ha,
   fun _ _ _ => rfl,
   fun _ _ _ _ _ hk => carry_plain _ hk,
   fun _ _ _ _ hk hf => carry_ok _ hk (preRollback_ok hf)⟩

end Sys2Proof.Machine
end

section
/-! SUPPORT. PWR_STEP, PWR_CAP, PWR_MULTI and PWR_QUERY (R52, R53, R182 to R184, R490, R510). -/

namespace Sys2Proof.Machine

/-- What a PWR_STEP asks of its domain: to request a step, to fix one, to free it, or to drop the request (R182). SPRINT stands for
step 0 where it is not permitted (R52). -/
def stepAsked (s : State) (p : Pkt) : State :=
  let d := p.u 0 1
  match p.u 1 1 with
  | 0 => s.setDom d { s.dom d with req := if p.u 2 1 = 8 && !sprintPermit s then 0 else p.u 2 1 }
  | 1 => (s.setF (CLK_DOM_CTRL.fixed_step d) (p.u 2 1)).setF (CLK_DOM_CTRL.fixed_en d) 1
  | 2 => s.setF (CLK_DOM_CTRL.fixed_en d) 0
  | _ => s.setDom d { s.dom d with req := 16 }

/-- The modes of a PWR_STEP told apart one after the other. -/
theorem stepAsked_eq (s : State) (p : Pkt) : stepAsked s p =
    if p.u 1 1 = 0 then s.setDom (p.u 0 1) { s.dom (p.u 0 1) with
      req := if p.u 2 1 = 8 ∧ sprintPermit s = false then 0 else p.u 2 1 }
    else if p.u 1 1 = 1 then (s.setF (CLK_DOM_CTRL.fixed_step (p.u 0 1)) (p.u 2 1)).setF (CLK_DOM_CTRL.fixed_en (p.u 0 1)) 1
    else if p.u 1 1 = 2 then s.setF (CLK_DOM_CTRL.fixed_en (p.u 0 1)) 0
    else s.setDom (p.u 0 1) { s.dom (p.u 0 1) with req := 16 } := by
  unfold stepAsked
  split
  · next h => simp only [h, if_true, Bool.and_eq_true, decide_eq_true_eq, Bool.not_eq_true']
  · next h => simp only [h, Nat.one_ne_zero, if_false, if_true]
  · next h => simp only [h, OfNat.ofNat_ne_zero, OfNat.ofNat_ne_one, if_false, if_true]
  · next h0 h1 h2 => rw [if_neg h0, if_neg h1, if_neg h2]

/-- The domain of a PWR_STEP settles; TILE goes on by its own steps (R49). -/
theorem execPwrStep_started {q i : Nat} {s : State} {p : Pkt} (hk : startedPkt s q i 0x6000 = some p) {u v : State}
    (hu : u = refreshDom (stepAsked s p) (p.u 0 1)) (hv : v = if p.u 0 1 = 4 then tileAdvance u else u) :
    execPwrStep q i s = .next (complete v p 0
      (v.getF (CLK_DOM_STATUS.cur_step (p.u 0 1)) + 16 * v.getF (CLK_DOM_STATUS.target_step (p.u 0 1))) 0) := by
  subst hu hv
  exact carry_plain _ hk

theorem prePwrCap_ok {s : State} {p : Pkt} (h : p.u 0 4 ≤ 95000 ∨ sprintPermit s = true) : prePwrCap s p = (s, .ok) := by
  rw [prePwrCap, firstPre, if_pos (by simpa using h), firstPre]

theorem prePwrCap_bad {s : State} {p : Pkt} (hc : 95000 < p.u 0 4) (hs : sprintPermit s = false) :
    prePwrCap s p = (s, .bad 0x20) := by
  rw [prePwrCap, firstPre, if_neg (by simpa [hs] using hc)]

/-- Settles O41: of each opcode the preconditions, then its effect. -/
theorem powerOpcodesAct : Obligations.PowerOpcodesAct := by
  refine ⟨?_, ?_, ?_, ?_⟩
  · rintro q i _ s _ u v p hk rfl rfl hu hv
    exact execPwrStep_started hk (by rw [stepAsked_eq, hu]) hv
  · intro q i s p hk
    exact ⟨fun h => carry_ok _ hk (prePwrCap_ok h), fun hc hs => carry_bad _ hk (prePwrCap_bad hc hs)⟩
  · rintro q i s _ _ _ p _ hk hpre rfl rfl rfl rfl
    exact carry_ok _ hk hpre
  · intro q i s t p hk ha
    exact carryDma_adm hk (by simp only [List.isEmpty_iff]; exact ha)

end Sys2Proof.Machine
end

section
/-! SUPPORT. Resets, rail losses and the Sage attempt: power-on and Sage resets, the ROM's start, backoff, watchdog and BOOT_ALIVE
(R34 to R36, R74, R79, R82 to R84, R91, R621). -/

namespace Sys2Proof.Machine

/-- Settles O12: the model carries a power-on reset out in this very state. -/
theorem powerOnResetLeavesTheResetState : Obligations.PowerOnResetLeavesTheResetState := fun _ _ => rfl

/-! ### Resets and rail losses -/

theorem execPorNRelease_held (st : SageStart) {s : State} (h : s.boot.sage = .held) :
    execPorNRelease st s = .next (if s.clk.stopValid then romWait s st else romStart (timeRestart s) st) :=
  congrArg _ (if_pos h)

theorem timeRestart_no_pair {s : State} (h : s.clk.stopValid = false) : timeRestart s = timeFrom s 0 :=
  if_neg (by simp [h])

/-- The SLOW count advanced and WAKE_N[3:0] sampled, where boundary scan may hold the pins. -/
def slowEdge (s : State) (w : Nat) : State :=
  { s with clk := { s.clk with
    slow := (s.clk.slow + 1) % 2 ^ 48
    wakeHist := if scanHolds s then s.clk.wakeHist
      else (List.range 4).map fun n => (2 * s.clk.wakeHist.getD n 7 + b2n (bitB w n)) % 8 } }

/-- A SLOW edge at which TIME restarts and the ROM with it (R74, R80). -/
theorem execSlowRisingEdge_rom {w g : Nat} {st : SageStart} {s : State} (hr : s.clk.restartDue = true)
    (hs : s.boot.startDue = some st) :
    execSlowRisingEdge w g s = .next (padSample (stopWhereDue
      (if (romStart (timeRestart (slowEdge s w)) st).clk.running then recordPair (romStart (timeRestart (slowEdge s w)) st)
       else romStart (timeRestart (slowEdge s w)) st)) g) := by
  simp only [execSlowRisingEdge, hr, hs, if_true, slowEdge, stopWhereDue]

theorem sageReset_not_off {s : State} (h : s.clk.mode ≠ .off) : sageReset s = sageResetState s := if_neg h

theorem sageReset_off {s : State} (h : s.clk.mode = .off) : sageReset s = s := if_pos h

theorem groupBLoss_off (r : Rail) (s : State) (h : s.clk.mode = .off) : groupBLoss s r = s := if_pos h

theorem execGroupBRailLoss_groupB {r : Rail} (s : State) (h : railIdx r = none) :
    execGroupBRailLoss r s = .next (groupBLoss s r) := by
  simp only [execGroupBRailLoss, h]

theorem execRailMonitorTrip_groupB {r : Rail} (n : Nat) (s : State) (h : railIdx r = none) :
    execRailMonitorTrip r n s = .next (groupBLoss s r) := by
  simp only [execRailMonitorTrip, h]

theorem execRailMonitorTrip_groupC {r : Rail} {k : Nat} (n : Nat) (s : State) (h : railIdx r = some k) :
    execRailMonitorTrip r n s =
      .next (if watchedAt s k n && (decide (n < s.now) || !s.clk.running) then groupCLoss s r k else s) := by
  simp only [execRailMonitorTrip, h]

theorem watchedAt_iff (s : State) (k n : Nat) :
    watchedAt s k n = true ↔ (s.rail k).watched = true ∧ ((s.rail k).on = true ∨ n < (s.rail k).offAt) := by
  simp only [watchedAt, Bool.and_eq_true, Bool.or_eq_true, decide_eq_true_eq]

/-- The monitor of a rail that is not good yet, or was commanded off by the tick of the trip, does not watch it (R34, R35). -/
theorem watchedAt_eq_false {s : State} {k n : Nat}
    (h : (s.rail k).watched = false ∨ ((s.rail k).on = false ∧ (s.rail k).offAt ≤ n)) : watchedAt s k n = false := by
  rw [← Bool.not_eq_true, watchedAt_iff]
  rintro ⟨hw, hon⟩
  rcases h with h | ⟨hoff, hle⟩
  · exact Bool.false_ne_true (h.symm.trans hw)
  · rcases hon with hon | hlt
    · exact Bool.false_ne_true (hoff.symm.trans hon)
    · omega

/-- Settles O13: each clause is the rule of its command; a trip is judged by whether its monitor watched the rail at its tick. -/
theorem resetsAndRailLossesTakeEffect : Obligations.ResetsAndRailLossesTakeEffect := by
  refine ⟨?_, ?_, ?_, ?_, ?_, ?_, groupBLoss_off, ?_, ?_, ?_⟩
  · intro st s hh hv
    exact (execPorNRelease_held st hh).trans (by rw [if_neg (by simp [hv]), timeRestart_no_pair hv])
  · intro st s hh hv
    exact (execPorNRelease_held st hh).trans (by rw [if_pos hv])
  · intro st w g s hr hs
    refine ⟨slowEdge s w, _, rfl, rfl, rfl, rfl, fun hrun hstop => (execSlowRisingEdge_rom hr hs).trans ?_⟩
    rw [if_pos hrun, stopWhereDue_stays (s := recordPair _) (.inl hstop)]
  · exact fun s h => congrArg Host.Outcome.next (sageReset_not_off h)
  · exact fun s h => congrArg Host.Outcome.next (sageReset_off h)
  · exact fun r n s h => ⟨execGroupBRailLoss_groupB s h, execRailMonitorTrip_groupB n s h⟩
  · intro r k n s hk hw hon hlt
    refine (execRailMonitorTrip_groupC n s hk).trans ?_
    rw [if_pos (by simp [(watchedAt_iff s k n).2 ⟨hw, hon⟩, hlt])]
  · intro r k n s hk hno
    refine (execRailMonitorTrip_groupC n s hk).trans ?_
    rw [watchedAt_eq_false hno]
    rfl
  · intro f s ht hs
    exact (congrArg _ (if_neg (by simp [ht]))).trans (congrArg _ (preTripletFault_running hs))

/-! ### The Sage attempt -/

theorem execBackoffExpiry_sage (x : Bool) (s : State) (hd : s.boot.backoffUntil ≤ s.now) (hs : s.boot.sage = .backoff) :
    execBackoffExpiry x s = .next (sageAttempt { s with boot := { s.boot with xspiError := x } }) := by
  rw [execBackoffExpiry, if_pos hs, if_neg (Nat.not_lt.2 hd)]

theorem execBackoffExpiry_main (x : Bool) (s : State) (hd : s.boot.mainUntil ≤ s.now) (hs : s.boot.sage ≠ .backoff)
    (hm : s.boot.main = .backoff) :
    execBackoffExpiry x s = .next { endBackoff s with boot := { (endBackoff s).boot with main := .start } } := by
  rw [execBackoffExpiry, if_neg hs, if_pos ⟨hm, hd⟩]

theorem execBootWatchdogExpiry_late (s : State) (hs : s.boot.sage = .waitAlive) (hd : s.boot.watchdog < s.now) :
    execBootWatchdogExpiry s = .next (sageReset (sageFail s 0x08)) :=
  congrArg _ (if_pos ⟨hs, hd⟩)

/-- A write by Tsuquel of a register whose one field is write-only takes effect, and leaves the word that it finds (R10). -/
theorem plainWrite_tsuquel_writeOnly (s : State) {a i : Nat} (v : Nat) {r : RegRow} {f : FieldSpec} (hr : findReg a = some (r, i))
    (hw : r.writer = .tsuquel) (hf : r.fields = [f]) (hacc : f.acc = .wo) (hok : r.rowOk = anyRow)
    (hb : clrN (fieldMask f) allBits = 0) (hl : blockLock a = none) :
    plainWrite s .tsuquel a v = (s.wr a (s.rd a), true) := by
  have hmask : writeMask s .tsuquel r i v = allBits := by simp [writeMask, isFirmware, hw]
  have hall : allBits ≠ 0 := by decide
  have hnew (m : Nat) (lk : Bool) : writtenWord r (s.rd a).toNat v m lk = (s.rd a).toNat := by simp [writtenWord, hf, hacc]
  have hval : valueOk r i (s.rd a).toNat = true := by simp [valueOk, hf, hacc, hok, anyRow]
  have hbits : refusedBits r (s.rd a).toNat v allBits = false := by simp [refusedBits, hf, hacc, hb, andN]
  simp [plainWrite, hr, hmask, hall, hnew, hval, hbits, isLocked, hl]

theorem plainWrite_bootAlive (s : State) (v : Nat) : plainWrite s .tsuquel BOOT_ALIVE.addr v =
    (s.wr BOOT_ALIVE.addr (s.rd BOOT_ALIVE.addr), true) :=
  plainWrite_tsuquel_writeOnly s v (f := ⟨"alive", 0, 32, .wo, (fun _ => 0), .sage, anyOk⟩) rfl rfl rfl rfl rfl rfl rfl

theorem plainWrite_bootCtrl (s : State) (v : Nat) : plainWrite s .tsuquel BOOT_CTRL.addr v =
    (s.wr BOOT_CTRL.addr (s.rd BOOT_CTRL.addr), true) :=
  plainWrite_tsuquel_writeOnly s v (f := ⟨"sage_reset", 0, 1, .wo, (fun _ => 0), .sage, anyOk⟩) rfl rfl rfl rfl rfl rfl rfl

/-- Tsuquel's write of the magic word by the expiry tick ends the attempt as a success (R84). -/
theorem aliveWrite_in_time {s : State} (hs : s.boot.sage = .waitAlive) (hd : s.now ≤ s.boot.watchdog) :
    aliveWrite s .tsuquel 0xA11E = bootAlive (plainWrite s .tsuquel BOOT_ALIVE.addr 0xA11E).1 := by
  rw [aliveWrite, plainWrite_bootAlive]
  refine if_pos ?_
  simp only [Bool.and_eq_true]
  exact ⟨⟨⟨trivial, rfl⟩, decide_eq_true hs⟩, decide_eq_true hd⟩

theorem bootCtrlWrite_one (s : State) :
    bootCtrlWrite s .tsuquel 1 = sageReset (plainWrite s .tsuquel BOOT_CTRL.addr 1).1 := by
  rw [bootCtrlWrite, plainWrite_bootCtrl]
  rfl

/-- Settles O15: each clause is the rule of its command; a write by Tsuquel makes no demand and is not refused. -/
theorem sageStartRetriesAndEnds : Obligations.SageStartRetriesAndEnds :=
  ⟨execBackoffExpiry_sage,
   execBackoffExpiry_main,
   execBootWatchdogExpiry_late,
   fun _ hs hd => congrArg Host.Outcome.next (aliveWrite_in_time hs hd),
   fun s => congrArg Host.Outcome.next (bootCtrlWrite_one s)⟩

end Sys2Proof.Machine
end

section
/-! SUPPORT. Checker tests and the acceptance (R98, R105, R188, R522, R523, R600). -/

namespace Sys2Proof.Machine

theorem execInjectionWindowEnd_no_safTest (k : Nat) (r : InjReport) (s : State) (h : s.boot.run ≠ .safTest) :
    execInjectionWindowEnd k r s = .next (windowEnd s k r) :=
  congrArg _ (if_neg fun hc => h hc.1)

/-- The last window of a SAF_TEST ends it with the mask of the failed tests (R188). -/
theorem execInjectionWindowEnd_last (k : Nat) (r : InjReport) (s : State) (hr : s.boot.run = .safTest) (hl : s.boot.left = [k]) :
    execInjectionWindowEnd k r s = .next (safTestDone (windowEnd s k r)
      (orN (s.getF BOOT_TEST_FAIL.ck) (if r = .expected then 0 else testBit k))) :=
  congrArg _ (if_pos (by simp [hr, hl]))

theorem pinsHeld_of_mayAccept {s : State} (h : mayAccept s = true) : pinsHeld s = true := by
  simp only [mayAccept, Bool.and_eq_true] at h
  obtain ⟨⟨⟨⟨⟨-, hpins⟩, -⟩, -⟩, -⟩, -⟩ := h
  exact hpins

/-- A safe state ends once its pins have been asserted for 10,000 ticks (R600). -/
theorem safe_pins_asserted_long_enough (s : State) (h : mayAccept s = true) (hs : s.flag SAF_STATUS.safe = true) :
    s.get64 SAF_LAST_ENTRY_LO.lo SAF_LAST_ENTRY_HI.hi + 10000 ≤ s.now := by
  simpa [pinsHeld, hs] using pinsHeld_of_mayAccept h

theorem execJobsAccepted_after_reset (s : State) (h : mayAccept s = true) :
    execJobsAccepted s = .next (acceptAfterReset s) :=
  congrArg _ (if_pos h)

theorem execJobsAccepted_after_doze (s : State) (h : mayAccept s = false) (hd : dozeMayEnd s = true) :
    execJobsAccepted s = .next (acceptAfterDoze s) := by
  rw [execJobsAccepted, if_neg (by simp [h]), if_pos hd]

theorem execBackgroundTest_due (rs : List InjReport) (s : State) (hm : s.boot.main = .up) (hc : s.clk.mode = .on)
    (hr : s.boot.run = .none) (hd : s.saf.bgAt + 100000000 ≤ s.now) : execBackgroundTest rs s = .next (windowEnds
      (openRun { s with saf := { s.saf with bgAt := s.now } } .background [1, 2, 3, 4]) [1, 2, 3, 4] rs) :=
  congrArg _ (if_pos ⟨hm, hc, hr, hd⟩)

/-- Settles O18: each clause is the rule of its command. -/
theorem testsAndAcceptance : Obligations.TestsAndAcceptance :=
  ⟨execInjectionWindowEnd_no_safTest,
   execInjectionWindowEnd_last,
   execJobsAccepted_after_reset,
   safe_pins_asserted_long_enough,
   execJobsAccepted_after_doze,
   execBackgroundTest_due⟩

end Sys2Proof.Machine
end

section
/-! SUPPORT. What a Sage reset leaves (R79, R80). -/

namespace Sys2Proof.Machine

/-- What every step of a fold leaves alone, the fold leaves alone. -/
theorem view_foldl {α β : Type} (view : State → β) {f : State → α → State} (hf : ∀ t a, view (f t a) = view t)
    (l : List α) (s : State) : view (l.foldl f s) = view s := by
  induction l generalizing s with
  | nil => rfl
  | cons a l ih => exact (ih (f s a)).trans (hf s a)

/-- The step of a domain stands in its registers, and in the tick from which a DOZE domain has been gated. -/
theorem view_setStep {β : Type} (view : State → β)
    (hv : ∀ (t : State) regs g, view { t with regs := regs, clk := { t.clk with gatedSince := g } } = view t) (s : State) (d c : Nat) :
    view (setStep s d c) = view s := by
  simp only [setStep]
  split_ifs <;> exact hv s _ _

/-- A change of pad functions writes the pads and their registers only. -/
theorem view_padsChange {β : Type} (view : State → β)
    (hv : ∀ (t : State) regs pads, view { t with regs := regs, pads := pads } = view t) (s : State) :
    view (padsChange s) = view s := by
  refine view_foldl view (fun t n => ?_) _ s
  simp only [padChange]
  split_ifs <;> exact hv t _ _

/-- What the tail of a Sage reset leaves alone: TIME and the SLOW count, the phases of both attempts, packets, jobs and lanes, flash
and the key store. -/
def sageResetView (s : State) :=
  (s.clk.time, s.clk.running, s.clk.slow, s.boot.sage, s.boot.main, s.pkts, s.jobs, s.lanes, s.ms.flash, s.ms.keys, s.ms.floor)

@[simp] theorem sageResetView_setF (s : State) (f : FRef) (x : Nat) : sageResetView (s.setF f x) = sageResetView s := rfl
@[simp] theorem sageResetView_addSat (s : State) (f : FRef) (n : Nat) : sageResetView (s.addSat f n) = sageResetView s := rfl
@[simp] theorem sageResetView_loseDram (s : State) : sageResetView (loseDram s) = sageResetView s := rfl
@[simp] theorem sageResetView_loseTiles (s : State) : sageResetView (loseTiles s) = sageResetView s := rfl
@[simp] theorem sageResetView_loseBay (s : State) : sageResetView (loseBay s) = sageResetView s := rfl
@[simp] theorem sageResetView_memForget (s : State) (lo hi : Nat) : sageResetView (memForget s lo hi) = sageResetView s := rfl

@[simp] theorem sageResetView_setStep (s : State) (d c : Nat) : sageResetView (setStep s d c) = sageResetView s :=
  view_setStep sageResetView (fun _ _ _ => rfl) s d c

@[simp] theorem sageResetView_stopAllDoms (s : State) : sageResetView (stopAllDoms s) = sageResetView s :=
  view_foldl sageResetView (fun t d => by simp only [sageResetView_setStep, sageResetView_setF]) _ s

@[simp] theorem sageResetView_resetTags (s : State) : sageResetView (resetTags s) = sageResetView s := by
  unfold resetTags
  exact view_foldl sageResetView (fun _ _ => by rfl) _ _

@[simp] theorem sageResetView_evtQuiet (s : State) : sageResetView (evtQuiet s) = sageResetView s := by
  unfold evtQuiet
  exact view_foldl sageResetView (fun _ _ => by rfl) _ _

@[simp] theorem sageResetView_padsChange (s : State) : sageResetView (padsChange s) = sageResetView s :=
  view_padsChange sageResetView (fun _ _ _ => rfl) s

/-- TIME stands where it stood, the SLOW count goes on, both sequences begin again with nothing left to carry out, and flash and the
key store stay (R79, R80). -/
theorem sageResetView_sageResetState (s : State) : sageResetView (sageResetState s) =
    (s.clk.time, false, s.clk.slow, .held, .idle, [], [], [], s.ms.flash, s.ms.keys, s.ms.floor) := by
  simp only [sageResetState, sageResetView_padsChange, sageResetView_evtQuiet, sageResetView_resetTags, sageResetView_setF,
    sageResetView_stopAllDoms, sageResetView_memForget, sageResetView_loseBay, sageResetView_loseTiles, sageResetView_loseDram]
  rfl

/-- Settles O14: what follows the change of domains in a Sage reset leaves the view alone. -/
theorem sageResetKeepsTheAlwaysOnDomain : Obligations.SageResetKeepsTheAlwaysOnDomain := by
  intro s hm
  refine ⟨sageResetState s, congrArg Host.Outcome.next (sageReset_not_off hm), ?_⟩
  have hv := sageResetView_sageResetState s
  simp only [sageResetView, Prod.mk.injEq] at hv
  exact hv

end Sys2Proof.Machine
end

section
/-! SUPPORT. What the violation log, memory, translation and the pacers leave alone: the power mode, the stage of the main die and
the safe pins. -/

namespace Sys2Proof.Machine

/-- The power mode, the stage of the main die, and the levels of SAFE_STATE_N and DISP_FALLBACK. -/
def acceptView (s : State) : PowerMode × MainStage × Bool × Bool :=
  (s.clk.mode, s.boot.main, s.pins.safeState, s.pins.dispFallback)

@[simp] theorem acceptView_setF (s : State) (f : FRef) (x : Nat) : acceptView (s.setF f x) = acceptView s := rfl
@[simp] theorem acceptView_addSat (s : State) (f : FRef) (n : Nat) : acceptView (s.addSat f n) = acceptView s := rfl
@[simp] theorem acceptView_addWrap (s : State) (f : FRef) (n : Nat) : acceptView (s.addWrap f n) = acceptView s := rfl
@[simp] theorem acceptView_set64 (s : State) (lo hi : FRef) (v : Nat) : acceptView (s.set64 lo hi v) = acceptView s := rfl
@[simp] theorem acceptView_setJob (s : State) (j : Job) : acceptView (s.setJob j) = acceptView s := rfl
@[simp] theorem acceptView_fresh (s : State) : acceptView s.fresh.2 = acceptView s := rfl

theorem acceptView_foldl {α : Type} {f : State → α → State} (hf : ∀ t a, acceptView (f t a) = acceptView t) (l : List α)
    (s : State) : acceptView (l.foldl f s) = acceptView s := view_foldl acceptView hf l s

/-! ### The violation log and memory -/

theorem acceptView_writeWords (s : State) (a : Nat) (ws : List Nat) : acceptView (writeWords s a ws) = acceptView s := by
  induction ws generalizing s a with
  | nil => rfl
  | cons w ws ih => exact ih _ _

theorem acceptView_vlog (s : State) (k a m : Nat) (i : Option Nat) (c : LogCtx) : acceptView (vlog s k a m i c) = acceptView s := by
  simp only [vlog]
  split <;> exact acceptView_writeWords _ _ _

theorem acceptView_wrSeg (s : State) (g : Nat × Nat × Nat) (slot : Nat) (bs : List Byte) :
    acceptView (wrSeg s g slot bs) = acceptView s := by
  simp only [wrSeg]
  split_ifs <;> rfl

theorem acceptView_wrMem (s : State) (pa slot : Nat) (bs : List Byte) : acceptView (wrMem s pa slot bs) = acceptView s := by
  unfold wrMem
  generalize lineSegs pa bs.length = gs
  induction gs generalizing s bs with
  | nil => rfl
  | cons g gs ih => exact (ih _ _).trans (acceptView_wrSeg _ _ _ _)

theorem acceptView_poisonLine (s : State) (pa k m : Nat) : acceptView (poisonLine s pa k m) = acceptView s := by
  simp only [poisonLine, poisonShow]
  split <;> rfl

theorem acceptView_cacheTouch (s : State) (line ways slot : Nat) (wr : Bool) :
    acceptView (cacheTouch s line ways slot wr) = acceptView s := by
  simp only [cacheTouch]
  split
  · rfl
  · split
    · rfl
    · split <;> rfl

theorem acceptView_touchLines (s : State) (ways slot : Nat) (wr : Bool) (gs : List (Nat × Nat × Nat)) :
    acceptView (touchLines s ways slot wr gs) = acceptView s :=
  acceptView_foldl (fun t g => by split; exacts [acceptView_cacheTouch _ _ _ _ _, rfl]) gs s

theorem acceptView_physWr (s : State) (pa slot : Nat) (bs : List Byte) : acceptView (physWr s pa slot bs) = acceptView s :=
  (acceptView_wrMem _ _ _ _).trans (acceptView_touchLines _ _ _ _ _)

theorem acceptView_poisonAll (s : State) (ls : List Nat) : acceptView (poisonAll s ls) = acceptView s :=
  acceptView_foldl (fun _ _ => acceptView_poisonLine _ _ _ _) ls s

/-! ### Translation -/

theorem acceptView_walkFuel (va f : Nat) (s : State) (table level : Nat) :
    acceptView (walkFuel va f s table level).1 = acceptView s := by
  induction f generalizing s table level with
  | zero => rfl
  | succ f ih =>
    have ht (a : Nat) : acceptView (physTouch s a 8 0 false) = acceptView s := acceptView_touchLines _ _ _ _ _
    simp only [walkFuel]
    split
    · split
      · exact ht _
      · split_ifs
        · exact ht _
        · exact ht _
        · exact ht _
        · exact (ih _ _ _).trans (ht _)
    · rfl

theorem acceptView_xlateKeep (s : State) (i va : Nat) (r : Except (Nat × Nat) (Nat × Nat)) :
    acceptView (xlateKeep s i va r).1 = acceptView s := by
  cases r <;> rfl

theorem acceptView_xlateMiss (s : State) (i va start : Nat) : acceptView (xlateMiss s i va start).1 = acceptView s := by
  simp only [xlateMiss, acceptView_xlateKeep, acceptView_walkFuel, acceptView_addWrap]

theorem acceptView_xlateEntry (s : State) (i va : Nat) : acceptView (xlateEntry s i va).1 = acceptView s := by
  unfold xlateEntry
  extract_lets fmt start
  split
  · rfl
  · split
    · rfl
    · split
      · rfl
      · exact acceptView_xlateMiss s i va start

theorem acceptView_xlate (s : State) (w : Who) (va : Nat) (wr : Bool) : acceptView (xlate s w va wr).1 = acceptView s := by
  have hv := acceptView_xlateEntry s w.inst va
  unfold xlate
  generalize xlateEntry s w.inst va = x at hv ⊢
  rcases x with ⟨s1, ⟨r, l⟩ | ⟨e, l⟩⟩
  · exact hv
  · dsimp only
    split_ifs
    · exact hv
    · split <;> exact hv
    · exact hv
    · split <;> exact hv

theorem acceptView_xltRecord (s : State) (w : Who) (va r l : Nat) (wr : Bool) :
    acceptView (xltRecord s w va r l wr) = acceptView s := by
  refine (acceptView_vlog _ _ _ _ _ _).trans ?_
  simp only [acceptView_addSat, xltShow]
  split <;> rfl

theorem acceptView_xlateAll (w : Who) (wr : Bool) (gs : List (Nat × Nat)) (s : State) :
    acceptView (xlateAll w wr gs s).1 = acceptView s := by
  induction gs generalizing s with
  | nil => rfl
  | cons g gs ih =>
    have hv := acceptView_xlate s w g.1 wr
    unfold xlateAll
    generalize xlate s w g.1 wr = x at hv ⊢
    rcases x with ⟨s1, e | t⟩
    · cases e
      · exact (acceptView_xltRecord _ _ _ _ _ _).trans hv
      · exact hv
    · have hi := (ih s1).trans hv
      dsimp only
      generalize xlateAll w wr gs s1 = x at hi ⊢
      rcases x with ⟨s2, e | ts⟩ <;> exact hi

theorem acceptView_rangeOk (w : Who) (wr : Bool) (gs : List (Nat × Nat)) (s : State) :
    acceptView (rangeOk w wr gs s).1 = acceptView s := by
  induction gs generalizing s with
  | nil => rfl
  | cons g gs ih =>
    have hv := acceptView_xlate s w g.1 wr
    unfold rangeOk
    generalize xlate s w g.1 wr = x at hv ⊢
    rcases x with ⟨s1, e | t⟩
    · cases e <;> exact hv
    · exact (ih s1).trans hv

/-! ### The pacers and the accesses they admit -/

theorem acceptView_paceUrg (s : State) (a : PaceAcc) : acceptView (paceUrg s a) = acceptView s := by
  unfold paceUrg
  split <;> rfl

theorem acceptView_paceCount (s : State) (a : PaceAcc) : acceptView (paceCount s a) = acceptView s := by
  simp only [paceCount]
  split_ifs <;> rfl

theorem acceptView_paceOffer (s : State) (a : PaceAcc) : acceptView (paceOffer s a) = acceptView s := by
  refine Eq.trans ?_ (acceptView_paceUrg s a)
  simp only [paceOffer]
  split
  · rfl
  · exact acceptView_paceCount _ _
  · split
    · exact acceptView_paceCount _ _
    · rfl

theorem acceptView_paceFuel (f : Nat) (s : State) (a : PaceAcc) (n : Nat) : acceptView (paceFuel f s a n) = acceptView s := by
  induction f generalizing s n with
  | zero => rfl
  | succ f ih =>
    simp only [paceFuel]
    split
    · exact acceptView_paceOffer _ _
    · exact (ih _ _).trans (acceptView_paceOffer _ _)

theorem acceptView_paceCharge (s : State) (w : Who) (pa n : Nat) : acceptView (paceCharge s w pa n) = acceptView s := by
  unfold paceCharge
  split
  · rfl
  · split
    · exact acceptView_paceFuel _ _ _ _
    · rfl

theorem acceptView_paceIssue (s : State) (l : List PaceAcc) : acceptView (paceIssue s l) = acceptView s :=
  acceptView_foldl (fun t a => by
    dsimp only
    split
    · exact (acceptView_paceCount _ _).trans (acceptView_paceUrg t a)
    · exact acceptView_paceUrg t a) l s

theorem acceptView_readLand (w : Who) (l : Land) (n : Nat) (s : State) : acceptView (readLand w l n s).1 = acceptView s := by
  cases l with
  | forbidden pa =>
    simp only [readLand]
    exact acceptView_vlog _ _ _ _ _ _
  | pcie _ pa =>
    simp only [readLand]
    exact (acceptView_paceCharge _ _ _ _).trans (acceptView_fresh s)
  | mem pa slot na =>
    simp only [readLand]
    split <;> exact (acceptView_touchLines _ _ _ _ _).trans (acceptView_paceCharge _ _ _ _)

theorem acceptView_readLands (w : Who) (ls : List (Land × Nat)) (s : State) : acceptView (readLands w ls s).1 = acceptView s := by
  induction ls generalizing s with
  | nil => rfl
  | cons l ls ih =>
    have hv := acceptView_readLand w l.1 l.2 s
    unfold readLands
    generalize readLand w l.1 l.2 s = x at hv ⊢
    rcases x with ⟨s1, e | a⟩
    · exact hv
    · have hi := (ih s1).trans hv
      dsimp only
      generalize readLands w ls s1 = x at hi ⊢
      rcases x with ⟨s2, e | bs⟩ <;> exact hi

theorem acceptView_pcieSend (s : State) (pa : Nat) (bs : List Byte) : acceptView (pcieSend s pa bs) = acceptView s := rfl

theorem acceptView_writeLand (w : Who) (l : Land) (n : Nat) (bs : List Byte) (s : State) :
    acceptView (writeLand w l n bs s) = acceptView s := by
  unfold writeLand
  cases l with
  | forbidden pa => exact acceptView_vlog _ _ _ _ _ _
  | pcie _ pa => exact (acceptView_pcieSend _ _ _).trans (acceptView_paceCharge _ _ _ _)
  | mem pa slot na =>
    exact (acceptView_wrMem _ _ _ _).trans ((acceptView_touchLines _ _ _ _ _).trans (acceptView_paceCharge _ _ _ _))

theorem acceptView_writeLands (w : Who) (ls : List (Land × Nat)) (bs : List Byte) (s : State) :
    acceptView (writeLands w ls bs s) = acceptView s := by
  induction ls generalizing s bs with
  | nil => rfl
  | cons l ls ih => exact (ih _ _).trans (acceptView_writeLand _ _ _ _ _)

theorem acceptView_dmaWrite (s : State) (w : Who) (va : Nat) (bs : List Byte) : acceptView (dmaWrite s w va bs).1 = acceptView s := by
  have hv := acceptView_xlateAll w true (pageSegs va bs.length) s
  unfold dmaWrite
  generalize xlateAll w true (pageSegs va bs.length) s = x at hv ⊢
  rcases x with ⟨s1, e | ts⟩
  · exact hv
  · exact (acceptView_writeLands _ _ _ _).trans hv

theorem acceptView_peekBytes (s : State) (w : Who) (va n : Nat) : acceptView (peekBytes s w va n).1 = acceptView s := by
  have hv := acceptView_rangeOk w false (pageSegs va n) s
  unfold peekBytes
  generalize rangeOk w false (pageSegs va n) s = x at hv ⊢
  rcases x with ⟨s1, _ | e⟩
  · have hx := (acceptView_xlateAll w false (pageSegs va n) s1).trans hv
    dsimp only
    generalize xlateAll w false (pageSegs va n) s1 = x at hx ⊢
    rcases x with ⟨s2, e | ts⟩
    · exact hx
    · exact (acceptView_readLands _ _ _).trans hx
  · exact hv

theorem acceptView_pktBytes (s : State) (p : Pkt) (off va n : Nat) : acceptView (pktBytes s p off va n).1 = acceptView s := by
  have hr : acceptView (rangeCheck s (pktWho p false) off va n false).1 = acceptView s := by
    have hx := acceptView_xlateAll (pktWho p false) false (pageSegs va n) s
    unfold rangeCheck
    generalize xlateAll (pktWho p false) false (pageSegs va n) s = x at hx ⊢
    rcases x with ⟨s1, e | ts⟩
    · cases e <;> exact hx
    · exact hx
  unfold pktBytes
  generalize rangeCheck s (pktWho p false) off va n false = x at hr ⊢
  rcases x with ⟨s1, r⟩
  cases r with
  | ok =>
    have hp := (acceptView_peekBytes s1 (pktWho p false) va n).trans hr
    dsimp only
    generalize peekBytes s1 (pktWho p false) va n = x at hp ⊢
    rcases x with ⟨s2, e | bs⟩
    · cases e <;> exact hp
    · exact hp
  | _ => exact hr

end Sys2Proof.Machine
end

section
/-! SUPPORT. What domains, pads, FAULT_N, jobs, streams and the ring leave alone: the power mode, the stage of the main die and the
safe pins. -/

namespace Sys2Proof.Machine

/-! ### Clock domains -/

theorem acceptView_setStep (s : State) (d c : Nat) : acceptView (setStep s d c) = acceptView s :=
  view_setStep acceptView (fun _ _ _ => rfl) s d c

theorem acceptView_episode (s : State) (d : Nat) (was now_ : Bool) (ctr : FRef) :
    acceptView (episode s d was now_ ctr) = acceptView s := by
  simp only [episode]
  split_ifs <;> rfl

theorem acceptView_setDom (s : State) (d : Nat) (x : DomState) : acceptView (s.setDom d x) = acceptView s := rfl

theorem acceptView_refreshDom (s : State) (d : Nat) : acceptView (refreshDom s d) = acceptView s := by
  simp only [refreshDom, apply_ite acceptView, acceptView_setF, acceptView_setDom, acceptView_setStep, acceptView_episode, ite_self]

theorem acceptView_restartDom (s : State) (d : Nat) : acceptView (restartDom s d) = acceptView s := by
  simp only [restartDom, acceptView_refreshDom, acceptView_setStep, acceptView_setF]

theorem acceptView_dramFull (s : State) (d : Nat) : acceptView (dramFull s d) = acceptView s := by
  simp only [dramFull, apply_ite acceptView, acceptView_setStep, ite_self]

/-! ### Pads, event generators and FAULT_N -/

theorem acceptView_padsChange (s : State) : acceptView (padsChange s) = acceptView s :=
  view_padsChange acceptView (fun _ _ _ => rfl) s

theorem acceptView_evtSkip (s : State) : acceptView (evtSkip s) = acceptView s :=
  acceptView_foldl (fun t e => by split <;> rfl) _ s

theorem acceptView_setCause (s : State) (b : Nat) (on : Bool) : acceptView (setCause s b on) = acceptView s := by
  have hpin (t : State) : acceptView (faultPin t) = acceptView t := rfl
  have hon : acceptView (causeOn s b) = acceptView s := by
    simp only [causeOn]
    split <;> rfl
  have hoff : acceptView (causeOff s b) = acceptView s := by
    simp only [causeOff]
    split <;> rfl
  simp only [setCause, hpin, apply_ite acceptView, hon, hoff, ite_self]

theorem acceptView_updFaultBoot (s : State) : acceptView (updFaultBoot s) = acceptView s := by
  simp only [updFaultBoot, acceptView_setCause, acceptView_setF]

/-! ### What Tsuquel restores -/

theorem acceptView_laneRegs (s : State) (l : Nat) : acceptView (laneRegs s l) = acceptView s := by
  unfold laneRegs
  split <;> simp only [acceptView_setF]

theorem acceptView_restoreXlt (s : State) : acceptView (restoreXlt s) = acceptView s :=
  acceptView_foldl (fun t i => by simp only [acceptView_setF]) _ s

theorem acceptView_restorePace (s : State) : acceptView (restorePace s) = acceptView s := by
  unfold restorePace
  refine (acceptView_foldl (fun _ _ => ?_) _ _).trans
    ((acceptView_foldl (fun _ _ => ?_) _ _).trans (acceptView_foldl (fun _ _ => ?_) _ _))
  all_goals exact acceptView_setF _ _ _

theorem acceptView_restoreViews (s : State) : acceptView (restoreViews s) = acceptView s := by
  unfold restoreViews
  refine (acceptView_foldl (fun t c => ?_) _ _).trans (acceptView_foldl (fun t id => ?_) _ _)
  · split <;> simp only [acceptView_setF]
  · split
    · exact acceptView_setF _ _ _
    · rfl

theorem acceptView_restoreRegs (s : State) : acceptView (restoreRegs s) = acceptView s := by
  have hlocks : acceptView (restoreLocks s) = acceptView s := acceptView_foldl (fun _ _ => by rfl) _ s
  simp only [restoreRegs, acceptView_restoreViews, acceptView_restorePace, acceptView_restoreXlt, sharedRegs, acceptView_setF,
    acceptView_foldl acceptView_laneRegs, hlocks]

theorem acceptView_restoreStream (s : State) (t : Nat) : acceptView (restoreStream s t) = acceptView s := by
  unfold restoreStream
  split
  · rfl
  · simp only [sensRegs, acceptView_setF]
    rfl

theorem acceptView_readBlocks (s : State) (p : Pkt) (o la ta : Nat) : acceptView (readBlocks s p o la ta).1 = acceptView s := by
  have h1 := acceptView_pktBytes s p 8 la 8
  unfold readBlocks
  generalize pktBytes s p 8 la 8 = x at h1 ⊢
  rcases x with ⟨s1, e | h⟩
  · exact h1
  · dsimp only
    split
    · exact h1
    · have h2 := (acceptView_pktBytes s1 p 8 (la + 8) (48 * leAt h 0 1)).trans h1
      generalize pktBytes s1 p 8 (la + 8) (48 * leAt h 0 1) = x at h2 ⊢
      rcases x with ⟨s2, e | bs⟩
      · exact h2
      · have h3 := (acceptView_pktBytes s2 p 0x10 ta 32).trans h2
        dsimp only
        generalize pktBytes s2 p 0x10 ta 32 = x at h3 ⊢
        rcases x with ⟨s3, e | t⟩
        · exact h3
        · dsimp only
          split_ifs <;> exact h3

theorem acceptView_latchOutput (s : State) (o i la ta : Nat) (es : List (List Byte)) (t : List Byte) :
    acceptView (latchOutput s o i la ta es t) = acceptView s := by
  have hset (u : State) (x : Option (Nat × Nat × Nat)) (r : DispRec) :
      acceptView ((u.setDispSaved o x).setDisp o r) = acceptView u := rfl
  simp only [latchOutput, hset, apply_ite acceptView, acceptView_setF, ite_self]

theorem acceptView_restoreOutput (s : State) (o : Nat) : acceptView (restoreOutput s o) = acceptView s := by
  unfold restoreOutput
  split
  · rfl
  · next i la ta _ =>
    extract_lets p
    have hr := acceptView_readBlocks s p o la ta
    generalize readBlocks s p o la ta = x at hr ⊢
    rcases x with ⟨s1, e | ⟨es, t⟩⟩
    · exact hr
    · exact ((acceptView_setF _ _ _).trans (acceptView_latchOutput _ _ _ _ _ _ _)).trans hr

/-! ### Kernels that end -/

theorem acceptView_restoreCkpt (s : State) (j : Job) : acceptView (restoreCkpt s j) = acceptView s :=
  (acceptView_poisonAll _ _).trans (acceptView_foldl (fun _ _ => acceptView_physWr _ _ _ _) _ s)

theorem acceptView_energyAdd (s : State) (q i k n : Nat) : acceptView (energyAdd s q i k n) = acceptView s := by
  unfold energyAdd
  split <;> rfl

theorem acceptView_engineShare {add : Nat → Nat → State → State} (hadd : ∀ e n t, acceptView (add e n t) = acceptView t) (n : Nat)
    (j : Job) (s : State) : acceptView (engineShare add n j s) = acceptView s := by
  unfold engineShare
  split
  · simp only [hadd, acceptView_fresh]
  · exact hadd _ _ _

theorem acceptView_engineShare_addWrap (f : Nat → FRef) (n : Nat) (j : Job) (s : State) :
    acceptView (engineShare (fun e n t => t.addWrap (f e) n) n j s) = acceptView s :=
  acceptView_engineShare (fun _ _ _ => acceptView_addWrap _ _ _) n j s

theorem acceptView_engineShare_addSat (f : Nat → FRef) (n : Nat) (j : Job) (s : State) :
    acceptView (engineShare (fun e n t => t.addSat (f e) n) n j s) = acceptView s :=
  acceptView_engineShare (fun _ _ _ => acceptView_addSat _ _ _) n j s

theorem acceptView_engineWaits (j : Job) (s : State) : acceptView (engineWaits j s) = acceptView s :=
  acceptView_foldl (fun _ _ => by simp only [acceptView_addSat, acceptView_fresh]) _ s

theorem acceptView_buildCount (s : State) (j : Job) : acceptView (buildCount s j) = acceptView s := by
  simp only [buildCount, acceptView_energyAdd, acceptView_engineWaits, acceptView_engineShare_addWrap, acceptView_fresh]

theorem acceptView_searchStopped (s : State) (j : Job) : acceptView (searchStopped s j) = acceptView s := by
  simp only [searchStopped, acceptView_buildCount, acceptView_addSat, acceptView_engineShare_addSat,
    acceptView_engineShare_addWrap, acceptView_fresh]

theorem acceptView_passCount (s : State) (j : Job) (c : Bool) : acceptView (passCount s j c) = acceptView s := by
  simp only [passCount, acceptView_energyAdd, apply_ite acceptView, acceptView_addWrap, acceptView_fresh, ite_self]

theorem acceptView_tileCycles (q i : Nat) (s : State) (t : Nat) : acceptView (tileCycles q i s t) = acceptView s := by
  simp only [tileCycles, acceptView_energyAdd, acceptView_addSat, acceptView_addWrap, acceptView_fresh]

theorem acceptView_stopCounts (s : State) (j : Job) : acceptView (stopCounts s j) = acceptView s := by
  refine Eq.trans ?_ (acceptView_foldl (acceptView_tileCycles j.q j.idx)
    ((List.range 32).filter fun t => decide ((s.tile t).job = some (j.q, j.idx))) s)
  simp only [stopCounts]
  split
  · rfl
  · split
    · exact (acceptView_energyAdd _ _ _ _ _).trans (acceptView_fresh _)
    · exact acceptView_searchStopped _ _
    · exact acceptView_buildCount _ _
    · exact acceptView_passCount _ _ _

theorem acceptView_freeUnit (s : State) (u : Nat) : acceptView (freeUnit s u) = acceptView s := by
  unfold freeUnit
  split <;> exact acceptView_setF _ _ _

theorem acceptView_dropKernel (s : State) (j : Job) : acceptView (dropKernel s j) = acceptView s := by
  have hfreed (ts : List Nat) : acceptView (j.units.foldl freeUnit (ts.foldl freeTile s)) = acceptView s :=
    (acceptView_foldl acceptView_freeUnit _ _).trans (acceptView_foldl (fun _ _ => by rfl) _ _)
  simp only [dropKernel]
  split <;> exact hfreed _

theorem acceptView_stopKernel (s : State) (j : Job) : acceptView (stopKernel s j) = acceptView s :=
  (acceptView_dropKernel _ _).trans (acceptView_stopCounts s j)

theorem acceptView_addStats (s : State) (l : Nat) (st : List (Nat × QStat)) : acceptView (addStats s l st) = acceptView s :=
  acceptView_foldl (fun _ _ => by simp only [acceptView_addSat, acceptView_set64]) _ s

theorem acceptView_updLag (s : State) : acceptView (updLag s) = acceptView s := acceptView_setF _ _ _

/-! ### CAN -/

theorem acceptView_canFeed (s : State) (c : Nat) : acceptView (canFeed s c) = acceptView s := by
  unfold canFeed
  split
  · exact acceptView_foldl (fun _ _ => by rfl) _ s
  · rfl

theorem acceptView_setCan (s : State) (c : Nat) (r : CanRec) : acceptView (s.setCan c r) = acceptView s := rfl

theorem acceptView_canOff (s : State) (c : Nat) : acceptView (canOff s c) = acceptView s := by
  simp only [canOff, acceptView_setCan, acceptView_setF, acceptView_addSat]

theorem acceptView_canOn (s : State) (p : Pkt) (c : Nat) (bs : List Byte) : acceptView (canOn s p c bs) = acceptView s := by
  simp only [canOn, acceptView_setCan, acceptView_setF]

theorem acceptView_rxPut (s : State) (c : Nat) (e : List Byte) : acceptView (rxPut s c e) = acceptView s := by
  unfold rxPut
  extract_lets r wr slots
  split
  · exact acceptView_addSat _ _ _
  · have hw := acceptView_dmaWrite s (devWho 0x70 (canOwner s c) 2 8) (r.rxAddr + 128 * (wr % slots)) e
    generalize dmaWrite s (devWho 0x70 (canOwner s c) 2 8) (r.rxAddr + 128 * (wr % slots)) e = x at hw ⊢
    rcases x with ⟨s1, _ | e⟩
    · exact (acceptView_setF _ _ _).trans hw
    · exact (acceptView_addSat _ _ _).trans hw

theorem acceptView_rxFirst (c : Nat) (s : State) : acceptView (rxFirst c s) = acceptView s := by
  simp only [rxFirst]
  split
  · rfl
  · exact acceptView_rxPut _ _ _

/-! ### The ring -/

theorem acceptView_setRing (s : State) (r : RingState) : acceptView (s.setRing r) = acceptView s := rfl

theorem acceptView_sendSyms (s : State) (p : Nat) (xs : List RingSym) : acceptView (sendSyms s p xs) = acceptView s := rfl

theorem acceptView_sendOn (s : State) (p : Nat) (bs : List Byte) : acceptView (sendOn s p bs) = acceptView s := rfl

theorem acceptView_setPortState (s : State) (p v : Nat) : acceptView (setPortState s p v) = acceptView s := by
  unfold setPortState
  split <;> exact acceptView_setF _ _ _

theorem acceptView_setWrapped (s : State) (p : Nat) (b : Bool) : acceptView (setWrapped s p b) = acceptView s := by
  unfold setWrapped
  split <;> exact acceptView_setF _ _ _

theorem acceptView_wakeRing (s : State) : acceptView (wakeRing s) = acceptView s :=
  acceptView_foldl (fun t p => by split <;> rfl) _ _

theorem acceptView_wrRaw (s : State) (a : Nat) (bs : List Byte) : acceptView (wrRaw s a bs) = acceptView s := rfl

theorem acceptView_putPark (s : State) (r : SweepRun) (st : Nat) : acceptView (putPark s r st) = acceptView s := by
  unfold putPark
  extract_lets wr s1
  have hs1 : acceptView s1 = acceptView s := by
    subst s1
    split
    · exact (acceptView_addSat _ _ _).trans (acceptView_addWrap _ _ _)
    · rfl
  exact ((acceptView_addWrap _ _ _).trans (acceptView_wrRaw _ _ _)).trans hs1

theorem acceptView_sendLeg (s : State) (r : SweepRun) (p : Nat) : acceptView (sendLeg s r p) = acceptView s := rfl

theorem acceptView_wrapNotice (s : State) (p st : Nat) : acceptView (wrapNotice s p st) = acceptView s :=
  acceptView_foldl (fun _ _ => acceptView_sendOn _ _ _) _ s

theorem acceptView_beginSweep (s : State) (k : Option (Nat × Nat)) : acceptView (beginSweep s k).1 = acceptView s :=
  (acceptView_foldl (fun _ _ => acceptView_wrapNotice _ _ _) _ _).trans
    (((acceptView_setRing _ _).trans (acceptView_setF _ _ _)).trans (acceptView_foldl (fun _ _ => acceptView_setWrapped _ _ _) _ s))

theorem acceptView_sendProbe (s : State) (r : ProbeRun) (p : Nat) : acceptView (sendProbe s r p) = acceptView s := rfl

end Sys2Proof.Machine
end

section
/-! SUPPORT. While the block serves jobs, in ON with the main die up and the safe pins deasserted, a demand, a wake event, a reply, a
completion and the work that waited for the acceptance leave it so (R55, R59, R105). -/

namespace Sys2Proof.Machine

/-- The block is in ON with the main die up, and SAFE_STATE_N and DISP_FALLBACK are deasserted. -/
def Serves (s : State) : Prop := acceptView s = (.on, .up, false, false)

variable {s : State}

theorem Serves.of_view {t : State} (h : Serves s) (e : acceptView t = acceptView s) : Serves t := e.trans h

theorem Serves.mode (h : Serves s) : s.clk.mode = .on := congrArg Prod.fst h

theorem Serves.foldl {α : Type} {f : State → α → State} (hf : ∀ t a, Serves t → Serves (f t a)) (l : List α) (h : Serves s) :
    Serves (l.foldl f s) := by
  induction l generalizing s with
  | nil => exact h
  | cons a l ih => exact ih (hf s a h)

/-! ### Demands, wake events and the pacers -/

/-- In ON a demand starts its domain and cancels no DOZE entry. -/
theorem demand_serves (d : Nat) (h : Serves s) : Serves (demand s d) := by
  have hno : (if s.clk.mode = .dozeEntry ∧ d ≠ 13 then dozeCancel s else s) = s := if_neg (by simp [h.mode])
  unfold demand
  rw [hno]
  extract_lets s1
  split
  · exact h.of_view ((acceptView_restartDom _ _).trans (acceptView_dramFull _ _))
  · exact h

theorem raiseHost_serves (src : Nat) (h : Serves s) : Serves (raiseHost s src) := demand_serves (s := s.raise src) _ h

/-- A wake event in ON is latched and does nothing more (R59). -/
theorem wakeEvent_serves (b : Nat) (h : Serves s) : Serves (wakeEvent s b) := by
  unfold wakeEvent
  extract_lets f off s0 _ s1
  have hs1 : Serves s1 := h
  rw [hs1.mode]
  exact hs1

theorem paceTry_serves {f : State → State} (hf : ∀ t, Serves t → Serves (f t)) (h : Serves s) : Serves (paceTry f s).1 := by
  unfold paceTry
  extract_lets t
  have ht : Serves t := hf _ h
  split
  · split
    · exact ht
    · exact h.of_view (acceptView_paceIssue _ _)
  · exact ht

/-- Work is carried out now, or waits for its accesses. -/
theorem paceAct_serves (act : HeldAct) {f : State → State} (hf : ∀ t, Serves t → Serves (f t)) (h : Serves s) :
    Serves (paceAct act f s) := by
  have ht := paceTry_serves hf h
  unfold paceAct
  split
  · generalize paceTry f s = x at ht ⊢
    rcases x with ⟨t, _ | l⟩ <;> exact ht
  · split
    · exact h
    · split
      · exact hf _ h
      · exact h

/-! ### Status blocks, replies and completions -/

theorem cpWrite_serves (w : Who) (va : Nat) (bs : List Byte) (h : Serves s) : Serves (cpWrite s w va bs).1 := by
  have hx := (demand_serves 11 h).of_view (acceptView_xlateAll w true (pageSegs va bs.length) (demand s 11))
  unfold cpWrite
  generalize xlateAll w true (pageSegs va bs.length) (demand s 11) = x at hx ⊢
  rcases x with ⟨s1, e | ts⟩
  · exact hx
  · exact hx.of_view (acceptView_writeLands _ _ _ _)

theorem statusNow_serves (q : Nat) (h : Serves s) : Serves (statusNow s q) := by
  unfold statusNow
  extract_lets _ s0 r
  have hr : Serves r.1 := cpWrite_serves (s := s0) _ _ _ h
  split
  · exact hr
  · exact hr.of_view (((acceptView_setF _ _ _).trans (acceptView_setF _ _ _)).trans (acceptView_vlog _ _ _ _ _ _))

theorem writeStatus_serves (q : Nat) (h : Serves s) : Serves (writeStatus s q) := by
  unfold writeStatus
  extract_lets _ s1
  have hs1 : Serves s1 := h
  split
  · exact paceAct_serves _ (fun _ => statusNow_serves q) hs1
  · exact hs1

theorem writeReply_serves (p : Pkt) (r : Reply) (h : Serves s) : Serves (writeReply s p r) := by
  unfold writeReply
  extract_lets bs c orphan r1
  have horphan (t : State) (ht : Serves t) : Serves (orphan t) := writeStatus_serves _ (ht.of_view (acceptView_vlog _ _ _ _ _ _))
  have hr : Serves r1.1 := cpWrite_serves _ _ _ h
  split
  · exact horphan s h
  · split
    · exact hr
    · exact horphan _ hr

theorem qIrq_serves (q : Nat) (h : Serves s) : Serves (qIrq s q) := by
  unfold qIrq
  extract_lets k m s1
  have hs1 : Serves s1 := h.of_view (acceptView_setF _ _ _)
  split
  · exact raiseHost_serves (s := s1.setQueue q _) _ hs1
  · exact hs1

theorem recordNow_serves (p : Pkt) (r : Reply) (h : Serves s) : Serves (recordNow p r s) := by
  unfold recordNow
  extract_lets q s1 x s2 s3
  have hs3 : Serves s3 := writeStatus_serves _ (writeReply_serves p r h)
  split
  · exact qIrq_serves _ hs3
  · exact hs3

theorem flushOne_serves (q : Nat) (h : Serves s) : Serves (flushOne s q) := by
  unfold flushOne
  split
  · exact h
  · split
    · exact paceAct_serves _ (fun _ => recordNow_serves _ _) h
    · exact h

theorem flushFuel_serves (f q : Nat) (h : Serves s) : Serves (flushFuel f s q) := by
  induction f generalizing s with
  | zero => exact h
  | succ f ih =>
    simp only [flushFuel]
    split
    · exact flushOne_serves q h
    · exact ih (flushOne_serves q h)

theorem flush_serves (q : Nat) (h : Serves s) : Serves (flush s q) := by
  unfold flush
  split
  · exact flushFuel_serves _ q h
  · exact h

theorem flushAll_serves (h : Serves s) : Serves (flushAll s) :=
  Serves.foldl (fun t q ht => flush_serves q (by split; exacts [writeStatus_serves q ht, ht])) _ h

theorem endPkt_serves (q i : Nat) (r : Reply) (h : Serves s) : Serves (endPkt s q i r) := by
  unfold endPkt
  split
  · exact h
  · exact flush_serves q h

theorem complete_serves (p : Pkt) (st d a : Nat) (h : Serves s) : Serves (complete s p st d a) := endPkt_serves _ _ _ h

theorem endPlain_serves (p : Pkt) (st d a : Nat) (h : Serves s) : Serves (endPlain s p st d a) := endPkt_serves _ _ _ h

theorem preFail_serves (p : Pkt) (d : Nat) (h : Serves s) : Serves (preFail s p d) :=
  endPlain_serves _ _ _ _ (h.of_view (acceptView_vlog _ _ _ _ _ _))

theorem endPre_serves {p : Pkt} {f : PreFail} {t : State} (h : Serves s) (e : endPre s p f = some t) : Serves t := by
  cases f with
  | ok => cases e
  | bad off => exact Option.some.inj e ▸ preFail_serves p off h
  | xlat off va => exact Option.some.inj e ▸ endPlain_serves p 0x20 _ va h
  | frozen => exact Option.some.inj e ▸ endPlain_serves p 0x80 0 0 h
  | poison pa => exact Option.some.inj e ▸ endPlain_serves p 0x40 0 pa h

theorem outNow_serves (p : Pkt) (o : PktOut) (h : Serves s) : Serves (outNow s p o) := by
  have hw := h.of_view (acceptView_dmaWrite s (pktWho p false) o.va (outBytes s p o))
  unfold outNow
  generalize dmaWrite s (pktWho p false) o.va (outBytes s p o) = x at hw ⊢
  rcases x with ⟨s1, _ | e⟩
  · have hx : acceptView (outTaken s1 p o) = acceptView s1 := by
      unfold outTaken
      split <;> rfl
    exact complete_serves _ _ _ _ (hw.of_view hx)
  · cases e <;> exact complete_serves _ _ _ _ hw

theorem outWaited_serves (p : Pkt) (o : PktOut) (h : Serves s) : Serves (outWaited s p o) :=
  paceAct_serves _ (fun _ => outNow_serves p o) (s := s.setPkt _) h

/-! ### Jobs that begin again -/

theorem endJob_serves (j : Job) (st d a : Nat) (h : Serves s) : Serves (endJob s j st d a) := by
  unfold endJob
  split
  · next p j0 _ _ =>
    extract_lets r s0 s1 s2 s3
    have hs1 : Serves s1 := by
      refine h.of_view ((acceptView_stopKernel _ _).trans ?_)
      subst s0
      split
      · exact acceptView_restoreCkpt _ _
      · rfl
    have hs3 : Serves s3 := by
      refine hs1.of_view ?_
      simp only [s3, s2, apply_ite acceptView, acceptView_addSat, acceptView_addStats, ite_self]
    exact (endPkt_serves (s := s3.dropJob j) _ _ _ hs3).of_view (acceptView_updLag _)
  · exact h

theorem boundary_serves (j : Job) (h : Serves s) : Serves (boundary s j) := by
  unfold boundary
  extract_lets i
  split
  · exact endJob_serves (s := s.setInst _ _) _ _ _ _ h
  · split <;> exact h

theorem newAttempt_serves (j : Job) (retry count : Bool) (h : Serves s) : Serves (newAttempt s j retry count) := by
  unfold newAttempt
  extract_lets s1 j1
  have hs1 : Serves s1 := h.of_view ((acceptView_restoreCkpt _ _).trans (acceptView_stopKernel _ _))
  exact boundary_serves _ (hs1.of_view ((acceptView_updLag _).trans (acceptView_setJob _ _)))

theorem resumeJob_serves (j : Job) (h : Serves s) : Serves (resumeJob s j) := by
  unfold resumeJob
  split
  · exact h
  · exact h
  · exact newAttempt_serves _ _ _ h
  · exact newAttempt_serves _ _ _ h
  · split
    · exact newAttempt_serves _ _ _ h
    · exact h

theorem lostJob_serves (j : Job) (h : Serves s) : Serves (lostJob s j) := endJob_serves (s := s.setJob _) _ _ _ _ h

theorem lostStart_serves (p : Pkt) (h : Serves s) : Serves (lostStart s p) := by
  unfold lostStart
  split
  · exact endPlain_serves _ _ _ _ h
  · exact h

theorem resumeJobs_serves (h : Serves s) : Serves (resumeJobs s) := by
  unfold resumeJobs
  split
  · exact Serves.foldl (fun _ => lostStart_serves) _ (Serves.foldl (fun _ => lostJob_serves) _ h)
  · exact Serves.foldl (fun _ => resumeJob_serves) _ h

/-! ### CAN controllers whose configuration waited -/

theorem applyCanCfg_serves (p : Pkt) (h : Serves s) : Serves (applyCanCfg s p) := by
  unfold applyCanCfg
  extract_lets c
  split
  · refine complete_serves _ _ _ _ ?_
    split
    · exact h
    · exact h.of_view (((acceptView_setF _ _ _).trans (acceptView_setF _ _ _)).trans (acceptView_canOff _ _))
  · have hb := h.of_view (acceptView_pktBytes s p 0x10 (p.u 0x10 8) (16 + 16 * p.u 0xC 2))
    generalize pktBytes s p 0x10 (p.u 0x10 8) (16 + 16 * p.u 0xC 2) = x at hb ⊢
    rcases x with ⟨s1, e | bs⟩
    · dsimp only
      cases he : endPre s1 p e with
      | none => exact hb
      | some t => exact endPre_serves hb he
    · dsimp only
      split
      · exact complete_serves _ _ _ _ (hb.of_view (acceptView_canOn _ _ _ _))
      · exact preFail_serves _ _ hb

theorem canDrained_serves (c : Nat) (h : Serves s) : Serves (canDrained s c) := by
  unfold canDrained
  split
  · extract_lets s1
    have hs1 : Serves s1 := Serves.foldl (fun t p ht => by
      split
      · exact paceAct_serves _ (fun _ => applyCanCfg_serves p) ht
      · exact complete_serves _ _ _ _ (ht.of_view (acceptView_canOff _ _))) _ h
    split
    · exact hs1.of_view (acceptView_canOff _ _)
    · exact hs1
  · exact h

theorem rxHeldFuel_serves (f c : Nat) (h : Serves s) : Serves (rxHeldFuel f s c) := by
  induction f generalizing s with
  | zero => exact h
  | succ f ih =>
    have ht : Serves (paceAct (.canRx c) (rxFirst c) s) := paceAct_serves _ (fun _ ht => ht.of_view (acceptView_rxFirst c _)) h
    simp only [rxHeldFuel]
    split
    · exact ih ht
    · exact ht

theorem rxHeld_serves (c : Nat) (h : Serves s) : Serves (rxHeld s c) := by
  unfold rxHeld
  split
  · exact rxHeldFuel_serves _ c h
  · exact h

theorem resumeCan_serves (h : Serves s) : Serves (resumeCan s) :=
  Serves.foldl (fun _ c ht => canDrained_serves c ((rxHeld_serves c ht).of_view (acceptView_canFeed _ _))) _ h

/-! ### Sweeps, probes and frames that waited -/

/-- A sweep's window closes without stopping TIME: the mode is ON (R62). -/
theorem closeWindow_serves (h : Serves s) : Serves (closeWindow s) := by
  unfold closeWindow
  extract_lets s1
  have hs1 : Serves s1 := h.of_view (acceptView_setF _ _ _)
  rw [if_neg (by simp [hs1.mode])]
  exact hs1.of_view (acceptView_refreshDom _ _)

theorem sleepNow_serves (h : Serves s) : Serves (sleepNow s) := by
  unfold sleepNow
  extract_lets s1 _ s2
  have hs1 : Serves s1 := 
    Serves.foldl (fun _ _ ht => ht.of_view ((acceptView_setPortState _ _ _).trans (acceptView_sendSyms _ _ _))) _ h
  exact closeWindow_serves (s := s2) hs1

theorem parkSwept_serves (r : SweepRun) (st : Nat) (h : Serves s) : Serves (parkSwept s r st) := by
  unfold parkSwept
  extract_lets s1 held s2 s3
  have hs1 : Serves s1 := h.of_view ((acceptView_addWrap _ _ _).trans (acceptView_putPark _ _ _))
  have hs2 : Serves s2 := by
    subst s2
    split
    · exact wakeEvent_serves _ hs1
    · exact hs1
  have hs3 : Serves s3 := by
    subst s3
    split
    · exact wakeEvent_serves _ hs2
    · exact hs2
  split
  · exact closeWindow_serves hs3
  · split
    · exact sleepNow_serves hs3
    · exact hs3

theorem endSweep_serves (r : SweepRun) (noPort : Bool) (h : Serves s) : Serves (endSweep s r noPort) := by
  unfold endSweep
  extract_lets _ s1 st
  have hs1 : Serves s1 := h
  split
  · exact parkSwept_serves _ _ hs1
  · split
    · exact hs1
    · exact outWaited_serves _ _ hs1

theorem contSweep_serves (f : Nat) (r : SweepRun) (fin : Bool) (h : Serves s) : Serves (contSweep f s r fin) := by
  induction f generalizing s r fin with
  | zero => exact h
  | succ f ih =>
    unfold contSweep
    extract_lets port s1
    split
    · exact h
    · split
      · exact h
      · have hs1 : Serves s1 := endSweep_serves _ _ h
        split
        · exact hs1
        · split
          · exact ih _ _ (hs1.of_view (acceptView_beginSweep _ _))
          · exact hs1

theorem startSweep_serves (k : Option (Nat × Nat)) (h : Serves s) : Serves (startSweep s k) :=
  contSweep_serves _ _ _ (h.of_view (acceptView_beginSweep _ _))

theorem endProbe_serves (r : ProbeRun) (h : Serves s) : Serves (endProbe s r) := by
  unfold endProbe
  extract_lets s0 es ns members dup t32s s1 _ s2 block
  split
  · split
    · exact complete_serves (s := s0) _ _ _ _ h
    · exact h
  · have hs1 : Serves s1 := h.of_view ((acceptView_setF _ _ _).trans (acceptView_setF _ _ _))
    have hs2 : Serves s2 := hs1
    split
    · exact outWaited_serves _ _ hs2
    · exact hs2

theorem beginProbe_serves (p : Pkt) (h : Serves s) : Serves (beginProbe s p) := by
  unfold beginProbe
  extract_lets id _ s1 r
  split
  · exact h.of_view (acceptView_sendProbe _ _ _)
  · exact complete_serves (s := s1) _ _ _ _ h

theorem finishProbe_serves (r : ProbeRun) (h : Serves s) : Serves (finishProbe s r) := by
  unfold finishProbe
  extract_lets s1
  have hs1 : Serves s1 := endProbe_serves r h
  split
  · exact h
  · split
    · exact hs1
    · exact beginProbe_serves _ hs1

theorem recollectDone_serves (p : Pkt) (b : Option (List Byte)) (h : Serves s) : Serves (recollectDone s p b) := by
  cases b with
  | none => exact complete_serves _ _ _ _ h
  | some b => exact outWaited_serves _ _ h

theorem recvFuel_serves (f : Nat) (h : Serves s) : Serves (recvFuel f s) := by
  induction f generalizing s with
  | zero => exact h
  | succ f ih =>
    unfold recvFuel
    split
    · exact h
    · exact ih (outWaited_serves _ _ h)

theorem recvFeed_serves (h : Serves s) : Serves (recvFeed s) := by
  unfold recvFeed
  split
  · exact recvFuel_serves _ h
  · exact h

theorem ringAgain_serves (p : Pkt) (h : Serves s) : Serves (ringAgain s p) := h

theorem ringResume_serves (h : Serves s) : Serves (ringResume s) := by
  unfold ringResume
  extract_lets s1 s2 s3 s4
  have hs1 : Serves s1 := Serves.foldl (fun t a ht => by
    split
    · extract_lets _ t1
      split
      · exact recollectDone_serves (s := t1) _ _ ht
      · exact ht
    · exact ht) _ h
  have hs2 : Serves s2 := by
    subst s2
    split
    · split
      · exact contSweep_serves _ _ _ hs1
      · exact hs1
    · split
      · split
        · exact hs1
        · exact startSweep_serves _ hs1
      · exact hs1
  have hs3 : Serves s3 := by
    subst s3
    split
    · split
      · exact finishProbe_serves _ hs2
      · exact hs2
    · exact hs2
  have hs4 : Serves s4 := by
    subst s4
    split
    · exact closeWindow_serves hs3
    · exact hs3
  refine recvFeed_serves ?_
  split
  · exact hs4.of_view (acceptView_wakeRing _)
  · exact hs4

/-! ### The acceptance -/

theorem resumePkt_serves (safe : Bool) (p : Pkt) (h : Serves s) : Serves (resumePkt safe s p) := by
  unfold resumePkt
  split
  · split
    · exact ringAgain_serves p h
    · split
      · exact outWaited_serves _ _ h
      · exact h
  · split
    · exact h
    · split
      · exact ringAgain_serves p h
      · split
        · exact h
        · split
          · split
            · exact complete_serves _ _ _ _ h
            · exact h
          · exact h
          · exact complete_serves _ _ _ _ h
          · exact h

theorem mainSucceeds_main (s : State) : (mainSucceeds s).boot.main = .up := by
  unfold mainSucceeds
  exact congrArg (·.2.1) (acceptView_updFaultBoot _)

/-- With the attempt a success, the safe state over and ON reached, the block serves jobs (R90, R105, R530, R619). -/
theorem turnOn_serves (s : State) : Serves (turnOn (safeEnds (mainSucceeds s))) := by
  have hmain : (safeEnds (mainSucceeds s)).boot.main = .up := by
    refine Eq.trans ?_ (mainSucceeds_main s)
    unfold safeEnds
    extract_lets e s1
    have hs1 : acceptView s1 = acceptView (mainSucceeds s) := by
      subst s1
      split
      · exact (acceptView_setF _ _ _).trans (acceptView_setF _ _ _)
      · rfl
    have hv : acceptView (releaseCauses (s1.setF SAF_CLKMON.pll_unlock 0)) = acceptView (mainSucceeds s) :=
      ((acceptView_setCause _ _ _).trans (acceptView_setCause _ _ _)).trans ((acceptView_setF _ _ _).trans hs1)
    exact congrArg (·.2.1) hv
  exact congrArg (fun m => (PowerMode.on, m, false, false)) hmain

/-- Nothing that the acceptance sets going again ends it. -/
theorem acceptAfterReset_serves (s : State) : Serves (acceptAfterReset s) := by
  unfold acceptAfterReset
  extract_lets s1 _ s2 s3 s4 s5 _ s6
  have hs1 : Serves s1 := (turnOn_serves s).of_view ((acceptView_evtSkip _).trans (acceptView_restoreRegs _))
  have hs2 : Serves s2 := hs1
  have hs3 : Serves s3 := Serves.foldl (fun _ _ ht => ht.of_view (acceptView_restoreStream _ _)) _ hs2
  have hs4 : Serves s4 :=
    Serves.foldl (fun _ _ => paceAct_serves _ fun _ ht => ht.of_view (acceptView_restoreOutput _ _)) _ hs3
  clear_value s4
  have hs5 : Serves s5 := resumeJobs_serves hs4
  have hs6 : Serves s6 := Serves.foldl (fun _ p ht => resumePkt_serves _ p ht) _ (s := { s5 with boot := _ }) hs5
  clear_value s6
  exact flushAll_serves ((ringResume_serves (resumeCan_serves hs6)).of_view (acceptView_padsChange _))

/-- Settles O19: the acceptance leaves a block that serves jobs. -/
theorem acceptanceEndsTheSafeState : Obligations.AcceptanceEndsTheSafeState := by
  intro s hm _
  refine ⟨acceptAfterReset s, execJobsAccepted_after_reset s hm, ?_⟩
  have hs := acceptAfterReset_serves s
  simp only [Serves, acceptView, Prod.mk.injEq] at hs
  obtain ⟨hmode, hmain, hsafe, hfallback⟩ := hs
  exact ⟨hmain, hmode, hsafe, hfallback⟩

end Sys2Proof.Machine
end

section
/-! SUPPORT. A packet at the head is consumed and started, or held back (R129, R143, R191, R193, R467); its timeout (R150) and the
status that its deadline leaves (R132). -/

namespace Sys2Proof.Machine

/-! ### Consumption, start and timeout -/

theorem execPacketConsume_admitted (q : Nat) (s t : State) (hq : q < 64) (hm : mayConsume s q = true)
    (ha : Admitted (.consume q) (fun u => consume u q) s t) : execPacketConsume q s = .next t := by
  rw [execPacketConsume, if_pos ⟨hq, hm⟩, paceAct_admitted ha]

theorem execPacketStart_admitted (q i : Nat) (s t : State) (p : Pkt) (hp : s.pkt q i = some p) (hs : startable s p = true)
    (ha : Admitted (.start q i) (fun u => startPkt u p) s t) : execPacketStart q i s = .next t := by
  simp only [execPacketStart, hp, if_pos hs, paceAct_admitted ha]

theorem execPacketStart_held {q i : Nat} {s : State} {p : Pkt} (hp : s.pkt q i = some p) (hs : startable s p = false) :
    execPacketStart q i s = .next s := by
  simp only [execPacketStart, hp, hs, Bool.false_eq_true, if_false]

theorem execWaitTimeout_timedOut (q i : Nat) (s : State) (p : Pkt) (hp : s.pkt q i = some p) (ht : timedOut s p = true) :
    execWaitTimeout q i s = .next (timeoutEnd s p) := by
  simp only [execWaitTimeout, hp, if_pos ht]

/-- Preconditions that hold start the packet in the state that judging them left. -/
theorem startPkt_ok (s u : State) (p : Pkt) (h : lanePre s p = (u, .ok)) :
    startPkt s p = u.setPkt { p with phase := .started, began := u.now } := by
  simp only [startPkt, h, endPre]

/-- A start check that fails ends the packet by what it answered, and nothing starts. -/
theorem startPkt_ends {s u t : State} {p : Pkt} {r : PreFail} (h : lanePre s p = (u, r)) (he : endPre u p r = some t) :
    startPkt s p = t := by
  simp only [startPkt, h, he]

theorem timeoutEnd_sysWait (s : State) (p : Pkt) (h : p.opcode = 0x0004) :
    timeoutEnd s p = complete s p 0 (p.u 0 1 + 2 ^ 31) 0 := by
  simp only [timeoutEnd, h]

/-- Settles O29: of each command its guard, then its effect; a start by what the preconditions answered. -/
theorem packetsAreConsumedStartedAndTimedOut : Obligations.PacketsAreConsumedStartedAndTimedOut :=
  ⟨execPacketConsume_admitted,
   execPacketStart_admitted,
   startPkt_ok,
   fun _ _ _ _ h => startPkt_ends h rfl,
   fun _ _ _ _ _ h => startPkt_ends h rfl,
   fun _ _ _ _ h => startPkt_ends h rfl,
   execWaitTimeout_timedOut,
   timeoutEnd_sysWait⟩

/-! ### What holds a start back -/

theorem fenceOpen_eq_false {s : State} {p : Pkt} (hf : bitB p.flags 2 = true) (hd : (s.queue p.q).done ≠ p.idx) :
    fenceOpen s p = false := by
  simp only [fenceOpen, hf, hd, Bool.not_true, decide_false, Bool.or_false]

theorem mayStart_eq_false {s : State} {i : Nat} (h : instState s i = 2 ∨ instState s i = 3) : mayStart s i = false :=
  decide_eq_false fun ⟨hquiesced, hfrozen, _⟩ => h.elim hquiesced hfrozen

theorem startable_of_fence_closed {s : State} {p : Pkt} (h : fenceOpen s p = false) : startable s p = false := by
  simp only [startable, h, Bool.and_false, Bool.false_and]

theorem startable_of_instance_held {s : State} {p : Pkt} (h : mayStart s p.inst = false) : startable s p = false := by
  simp only [startable, h, Bool.and_false, Bool.false_and]

/-- Settles O30: a closed fence and a quiesced or frozen instance each make the packet not startable. -/
theorem startHoldsBackFencedAndFrozenPackets : Obligations.StartHoldsBackFencedAndFrozenPackets :=
  fun _ _ _ _ hp =>
    ⟨fun hf hd => execPacketStart_held hp (startable_of_fence_closed (fenceOpen_eq_false hf hd)),
     fun hi => execPacketStart_held hp (startable_of_instance_held (mayStart_eq_false hi))⟩

/-! ### The deadline -/

theorem judge_ok_late {d c : Nat} (r : Nat) (h : d ≠ 0 ∧ d < c) :
    judge d c r 0 0 = (0x30, min (c - d) 0x0FFFFFFF + 2 ^ 28 * min r 7) :=
  if_pos h

theorem judge_ok_in_time {d c : Nat} (r : Nat) (h : d = 0 ∨ c ≤ d) :
    judge d c r 0 0 = (if r ≠ 0 then 0x31 else 0, 2 ^ 28 * min r 7) := by
  have hmet : ¬(d ≠ 0 ∧ d < c) := by omega
  rcases Nat.eq_zero_or_pos r with rfl | hr
  · exact if_neg hmet
  · have hr0 : r ≠ 0 := by omega
    calc judge d c r 0 0 = (0x31, min 0 0x0FFFFFFF + 2 ^ 28 * min r 7) := (if_neg hmet).trans (if_pos hr0)
      _ = _ := by rw [if_pos hr0, Nat.zero_min, Nat.zero_add]

/-- The fields of the job format: lateness in bits 27:0, restarts in 30:28, bit 31 clear (R132). -/
theorem jobDetail_fields {late restarts : Nat} (hl : late < 2 ^ 28) (hr : restarts < 2 ^ 3) :
    (late + 2 ^ 28 * restarts) % 2 ^ 28 = late ∧ (late + 2 ^ 28 * restarts) / 2 ^ 28 % 2 ^ 3 = restarts ∧
      (late + 2 ^ 28 * restarts) / 2 ^ 31 = 0 := by
  omega

/-- Settles O11: by whether the deadline was met; in both cases the detail is a job detail, of lateness 0 where it was. -/
theorem deadlineJudgesTheFinalStatus : Obligations.DeadlineJudgesTheFinalStatus := by
  intro d c r
  have hr : min r 7 < 2 ^ 3 := by omega
  by_cases hmet : d = 0 ∨ c ≤ d
  · obtain ⟨hlate, hrestarts, htop⟩ := jobDetail_fields (late := 0) (by decide) hr
    rw [Nat.zero_add] at hlate hrestarts htop
    rw [judge_ok_in_time r hmet, if_pos hmet, if_neg (by omega : ¬(d ≠ 0 ∧ d < c))]
    exact ⟨hlate, hrestarts, htop, rfl⟩
  · have hlater : d ≠ 0 ∧ d < c := by omega
    obtain ⟨hlate, hrestarts, htop⟩ := jobDetail_fields (late := min (c - d) 0x0FFFFFFF) (by omega) hr
    rw [judge_ok_late r hlater, if_neg hmet, if_pos hlater]
    exact ⟨hlate, hrestarts, htop, rfl⟩

end Sys2Proof.Machine
end

section
/-! SUPPORT. What a started packet meets: its preconditions judged in order, then its effect, or a row met again (R143, R147). -/

namespace Sys2Proof.Machine

/-- A condition that holds leaves the judgement to the next. -/
theorem firstPre_cons {c : Bool} {off : Nat} {l : List (Bool × Nat)} (h : c = true) : firstPre ((c, off) :: l) = firstPre l :=
  if_pos h

/-- A condition that fails is the failure. -/
theorem firstPre_cons_bad {c : Bool} {off : Nat} {l : List (Bool × Nat)} (h : c = false) :
    firstPre ((c, off) :: l) = .bad (0x20 + off) :=
  if_neg (by rw [h]; exact Bool.false_ne_true)

/-- The effect takes place in the state that the judgement of the preconditions leaves. -/
theorem preThen_ok {s u : State} {p : Pkt} {pre : State → Pkt → State × PreFail} (eff : State → Pkt → State)
    (h : pre s p = (u, .ok)) : preThen p pre eff s = eff u p := by
  rw [preThen, h]
  rfl

theorem preThen_bad {s u : State} {p : Pkt} {d : Nat} {pre : State → Pkt → State × PreFail} (eff : State → Pkt → State)
    (h : pre s p = (u, .bad d)) : preThen p pre eff s = preFail u p d := by
  rw [preThen, h]
  rfl

/-- A started packet whose preconditions hold is carried out in the state their judgement leaves. -/
theorem carry_pre {s u : State} {q idx code : Nat} {p : Pkt} {pre : State → Pkt → State × PreFail} (eff : State → Pkt → State)
    (h : startedPkt s q idx code = some p) (hpre : pre s p = (u, .ok)) : carry s q idx code pre eff = .next (eff u p) :=
  (carry_some pre eff h).trans (congrArg _ (preThen_ok eff hpre))

/-- A packet whose target is frozen ends with ST_FROZEN and has no effect. -/
theorem carry_frozen {s : State} {q idx code : Nat} {p : Pkt} {pre : State → Pkt → State × PreFail} (eff : State → Pkt → State)
    (h : startedPkt s q idx code = some p) (hpre : pre s p = (s, .frozen)) :
    carry s q idx code pre eff = .next (endPlain s p 0x80 0 0) := by
  rw [carry_some pre eff h, preThen, hpre]
  rfl

/-- A started packet is one of its queue that has the opcode and has not begun to wait. -/
theorem startedPkt_eq_some {s : State} {q idx code : Nat} {p : Pkt} (h : startedPkt s q idx code = some p) :
    s.pkt q idx = some p ∧ p.opcode = code ∧ p.phase = .started ∧ accepting s = true := by
  unfold startedPkt at h
  split at h
  · next x hx =>
    split at h
    · next hc => cases h; exact ⟨hx, hc⟩
    · cases h
  · cases h

/-- A row that is met again carries a started packet out as any other. -/
theorem longRow_started {s : State} {q idx code : Nat} {p : Pkt} {pre : State → Pkt → State × PreFail}
    (first again : State → Pkt → State) (h : startedPkt s q idx code = some p) :
    longRow q idx code pre first again s = carry s q idx code pre first := by
  obtain ⟨hp, -, hph, -⟩ := startedPkt_eq_some h
  simp only [longRow, hp, hph, reduceCtorEq, false_and, and_false, if_false]

/-- Its packet goes on while it waits. -/
theorem longRow_waiting {s : State} {q idx code : Nat} {p : Pkt} {pre : State → Pkt → State × PreFail}
    (first again : State → Pkt → State) (hp : s.pkt q idx = some p) (ho : p.opcode = code) (hw : p.phase = .waiting)
    (ha : accepting s = true) : longRow q idx code pre first again s = .next (again s p) := by
  simp only [longRow, hp, ho, hw, ha, and_self, if_true]

end Sys2Proof.Machine
end

section
/-! SUPPORT. The lane and memory opcodes (R161 to R166). -/

namespace Sys2Proof.Machine

theorem execLaneConfig_dissolves (q i : Nat) (s u : State) (p : Pkt) (hk : startedPkt s q i 0x2000 = some p)
    (hpre : preLaneConfig s p = (u, .ok)) (hm : p.u 1 1 = 1) :
    execLaneConfig q i s = .next (complete (laneDissolve u (p.u 0 1)) p 0 0 0) :=
  (carry_pre _ hk hpre).trans (by simp only [hm, if_true])

theorem execLaneConfig_defines (q i : Nat) (s u : State) (p : Pkt) (hk : startedPkt s q i 0x2000 = some p)
    (hpre : preLaneConfig s p = (u, .ok)) (hm : p.u 1 1 ≠ 1) :
    execLaneConfig q i s = .next (complete (laneDefine u p) p 0 0 0) :=
  (carry_pre _ hk hpre).trans (by simp only [hm, if_false])

theorem preMemRoot_ok {s : State} {p : Pkt} (h : instState s (p.u 0 1) = 2 ∨ anyQueue s (p.u 0 1) = false) :
    preMemRoot s p = (s, .ok) :=
  congrArg _ (firstPre_cons (by simpa using h))

theorem preInvalidate_ok {s : State} {p : Pkt} (h : p.u 0 1 = qOwner p.q ∨ qOwner p.q = s.manager) :
    preInvalidate s p = (s, .ok) :=
  congrArg _ (firstPre_cons (decide_eq_true h))

theorem preParamLane_ok {s : State} {p : Pkt} (h : (s.lane (p.u 0 1)).isSome = true) : preParamLane s p = (s, .ok) :=
  congrArg _ (firstPre_cons h)

/-- A fill has no second range, so whether the ranges of a copy overlap does not depend on the state. -/
theorem preMemCopy_ok (s : State) {p : Pkt}
    (h : bitB (p.u 0x14 4) 0 = true ∨ overlaps (p.u 0 8) (p.u 0x10 4) (p.u 8 8) (p.u 0x10 4) = false) :
    preMemCopy s p = (s, .ok) := by
  rcases h with h | h <;>
    simp only [preMemCopy, h, Bool.not_true, Bool.false_and, Bool.and_false, Bool.false_eq_true, if_false]

theorem preThen_memCopy {p : Pkt}
    (h : bitB (p.u 0x14 4) 0 = true ∨ overlaps (p.u 0 8) (p.u 0x10 4) (p.u 8 8) (p.u 0x10 4) = false) :
    preThen p preMemCopy memCopy = fun s => memCopy s p :=
  funext fun s => preThen_ok memCopy (preMemCopy_ok s h)

/-- Ranges that share no physical byte are copied and nothing more. -/
theorem copyAliased_apart {dst src : List (Land × Nat)} (s : State) (h : sharedRanges dst src = []) :
    copyAliased s dst src = s := by
  rw [copyAliased, h]

theorem memCopy_apart (s u v w : State) (p : Pkt) (bs : List Byte) (src dst : List (Land × Nat))
    (hcopy : bitB (p.u 0x14 4) 0 = false)
    (hsrc : xlateAll (pktWho p false) false (pageSegs (p.u 8 8) (p.u 0x10 4)) s = (u, .ok src))
    (hread : readLands (pktWho p false) src u = (v, .ok bs))
    (hdst : xlateAll (pktWho p false) true (pageSegs (p.u 0 8) (p.u 0x10 4)) v = (w, .ok dst))
    (hapart : sharedRanges dst src = []) : memCopy s p = complete (writeLands (pktWho p false) dst bs w) p 0 0 0 := by
  simp only [memCopy, hcopy, hsrc, hread, hdst, Bool.false_eq_true, if_false, copyAliased_apart _ hapart]

theorem memCopy_fill (s t : State) (p : Pkt) (hfill : bitB (p.u 0x14 4) 0 = true)
    (hw : dmaWrite s (pktWho p false) (p.u 0 8) (List.replicate (p.u 0x10 4) 0) = (t, none)) :
    memCopy s p = complete t p 0 0 0 := by
  simp only [memCopy, memFill, hfill, hw, if_true]

/-- Settles O33: of each opcode the preconditions, then its effect; a copy by what its ranges read, land on and share. -/
theorem laneAndMemoryOpcodesAct : Obligations.LaneAndMemoryOpcodesAct :=
  ⟨execLaneConfig_dissolves,
   execLaneConfig_defines,
   fun _ _ _ _ _ hk ha => carryDma_adm hk ha,
   fun _ _ _ _ hk hroot => carry_ok _ hk (preMemRoot_ok hroot),
   fun _ _ _ _ hk hself => carry_ok _ hk (preInvalidate_ok hself),
   fun _ _ _ _ _ hk hcopy ha => carryDma_adm hk (by rw [preThen_memCopy hcopy]; exact ha),
   memCopy_apart,
   memCopy_fill,
   fun _ _ _ _ _ hk ha => carryDma_adm hk ha,
   fun _ _ _ _ hk hlane => carry_ok _ hk (preParamLane_ok hlane)⟩

end Sys2Proof.Machine
end

section
/-! SUPPORT. The job opcodes start their jobs (R146, R156, R160, R411). -/

namespace Sys2Proof.Machine

/-- A packet that is held is found again with the contents it was given. -/
theorem State.pkt_setPkt_same {s : State} {p x : Pkt} (h : s.pkt p.q p.idx = some x) : (s.setPkt p).pkt p.q p.idx = some p := by
  have hsame : samePkt p.q p.idx p = true := decide_eq_true ⟨rfl, rfl⟩
  have hkeep : (samePkt p.q p.idx ∘ fun x => if samePkt p.q p.idx x then p else x) = samePkt p.q p.idx := by
    funext x
    by_cases hx : samePkt p.q p.idx x = true <;> simp [hx, hsame]
  have hfind : s.pkts.find? (samePkt p.q p.idx) = some x := h
  have hx : samePkt p.q p.idx x = true := List.find?_some hfind
  rw [State.pkt, State.setPkt_pkts, List.find?_map, hkeep, hfind, Option.map_some, if_pos hx]

theorem startJob_jobs (s : State) (p : Pkt) (j : Job) : (startJob s p j).jobs = s.jobs ++ [j] := rfl

theorem startJob_pkt (s : State) (p x : Pkt) (j : Job) (h : s.pkt p.q p.idx = some x) :
    (startJob s p j).pkt p.q p.idx = some { p with phase := .waiting } :=
  State.pkt_setPkt_same (p := { p with phase := .waiting }) h

/-- A JOB_RUN takes its kernels from the image it reads, and its side effects from their list. -/
theorem startRun_read (s v w : State) (p : Pkt) (m : List Byte) (sides : List (List Byte)) (himage : readImage s p = (v, .ok m))
    (hsides : readSides s p = (w, .ok sides)) : startRun s p = startJob s p
      { newJob s p .run (imgNKernel m) (p.u 0xA 1) with image := m, sides := sides } := by
  simp only [startRun, himage, hsides]

/-- A batch binds to the epoch it names, or to the published one, and to the published slot bound. -/
theorem startSearch_idx {s : State} {p : Pkt} {x : IdxRec} (h : pktIdx s p = some x) : startSearch s p = startJob s p
    { newJob s p .search ((p.u 4 4 + 1023) / 1024) (p.u 0x20 1) with
      epoch := if p.u 0x18 4 = 0 then x.epoch else p.u 0x18 4, bound := x.slotsPub } := by
  simp only [startSearch, h]

theorem startGfx_read (s u : State) (p : Pkt) (bs : List Byte) (h : startBytes s p 0 (p.u 0 8) (p.u 8 4) = (u, .ok bs)) :
    startGfx s p = startJob u p
      { newJob u p .gfx 1 (p.u 0xE 1) with image := bs, gfx := (u.gfxCtx (p.u 0xC 1)).st } := by
  simp only [startGfx, h]

/-- Settles O34: each opcode goes through the pacers; its preconditions hold, then it starts a job of what it has read. -/
theorem jobOpcodesStartTheirJobs : Obligations.JobOpcodesStartTheirJobs :=
  ⟨fun _ _ _ _ _ hk ha => carryDma_adm hk ha,
   fun _ _ _ hpre => preThen_ok startRun hpre,
   startRun_read,
   fun _ _ _ _ _ hk ha => carryDma_adm hk ha,
   fun _ _ _ _ hpre hidx => (preThen_ok startSearch hpre).trans (startSearch_idx hidx),
   fun _ _ _ _ _ hk ha => carryDma_adm hk ha,
   startGfx_read,
   startJob_jobs,
   startJob_pkt⟩

end Sys2Proof.Machine
end

section
/-! SUPPORT. The stream opcodes (R167 to R171, R439, R451, R452). -/

namespace Sys2Proof.Machine

theorem startDisplay_stopped {s : State} {p : Pkt} (hoff : p.u 1 1 = 0) (ho : outEnabled s (p.u 0 1) = false) :
    startDisplay s p = complete s p 0 (s.getF (DISP_FRAME.n (p.u 0 1))) 0 :=
  if_pos (by simp only [hoff, ho, decide_true, Bool.not_false, Bool.and_self])

theorem startDisplay_waits {s : State} {p : Pkt} (h : p.u 1 1 ≠ 0 ∨ outEnabled s (p.u 0 1) = true) :
    startDisplay s p = s.setPkt { p with phase := .waiting } :=
  if_neg (by rcases h with h | h <;> simp [h])

theorem startCanCfg_applies {s : State} {p : Pkt} (h : canMode s (p.u 0 1) = 0 ∨ (s.can (p.u 0 1)).host = []) :
    startCanCfg s p = applyCanCfg s p :=
  if_pos (h.imp_right List.isEmpty_iff.2)

theorem startCanCfg_waits {s : State} {p : Pkt} (hon : canMode s (p.u 0 1) ≠ 0) (hh : (s.can (p.u 0 1)).host ≠ []) :
    startCanCfg s p = s.setPkt { p with phase := .waiting } :=
  if_neg (not_or.2 ⟨hon, mt List.isEmpty_iff.1 hh⟩)

theorem preRouter_ok {s : State} {p : Pkt} (h : p.u 0 1 + p.u 1 1 ≤ 256) : preRouter s p = (s, .ok) :=
  congrArg _ (firstPre_cons (decide_eq_true h))

/-- What a STREAM_STOP does to a unit of its kind: a sensor stream, an output or a CAN controller (R171). -/
def stopUnit (s : State) (p : Pkt) : State :=
  match p.u 0 1 with
  | 0 => stopSensor s p (p.u 1 1)
  | 1 =>
    if outEnabled s (p.u 1 1) then s.setPkt { p with phase := .waiting }
    else complete (s.setDispSaved (p.u 1 1) none) p 0 0 0
  | _ =>
    if canMode s (p.u 1 1) = 0 then complete s p 0 0 0
    else if (s.can (p.u 1 1)).host.isEmpty then complete (canOff s (p.u 1 1)) p 0 0 0
    else s.setPkt { p with phase := .waiting }

theorem execStreamStop_started {q i : Nat} {s : State} {p : Pkt} (hk : startedPkt s q i 0x3005 = some p) :
    execStreamStop q i s = .next (stopUnit s p) :=
  carry_plain _ hk

theorem stopUnit_sensor {s : State} {p : Pkt} (h : p.u 0 1 = 0) : stopUnit s p = stopSensor s p (p.u 1 1) := by
  simp only [stopUnit, h]

theorem stopUnit_output {s : State} {p : Pkt} (h : p.u 0 1 = 1) : stopUnit s p =
    if outEnabled s (p.u 1 1) then s.setPkt { p with phase := .waiting }
    else complete (s.setDispSaved (p.u 1 1) none) p 0 0 0 := by
  simp only [stopUnit, h]

theorem stopUnit_can {s : State} {p : Pkt} (h : p.u 0 1 = 2) (hon : canMode s (p.u 1 1) ≠ 0) : stopUnit s p =
    if (s.can (p.u 1 1)).host.isEmpty then complete (canOff s (p.u 1 1)) p 0 0 0
    else s.setPkt { p with phase := .waiting } := by
  simp only [stopUnit, h, if_neg hon]

theorem stopSensor_none {s : State} {t : Nat} (p : Pkt) (h : s.sens t = none) : stopSensor s p t = complete s p 0 0 0 := by
  simp only [stopSensor, h]

/-- Between frames a stream stops at once. -/
theorem stopSensor_between {s : State} {t : Nat} {r : SensRec} (p : Pkt) (h : s.sens t = some r) (hf : r.frame = none)
    (hd : r.dropping = false) : stopSensor s p t = complete (stopStream s t) p 0 0 0 := by
  simp only [stopSensor, h, hf, hd, Option.isSome_none, Bool.or_self, Bool.false_eq_true, if_false]

/-- Within a frame its stop waits for the boundary. -/
theorem stopSensor_within {s : State} {t : Nat} {r : SensRec} (p : Pkt) (h : s.sens t = some r)
    (hf : r.frame.isSome = true ∨ r.dropping = true) : stopSensor s p t = s.setPkt { p with phase := .waiting } := by
  simp only [stopSensor, h, Bool.or_eq_true, hf, if_true]

/-- Settles O38: of each opcode the preconditions, then its effect; a stop by the kind of the unit and by what holds it. -/
theorem streamOpcodesAct : Obligations.StreamOpcodesAct := by
  refine ⟨?_, ?_, ?_, ?_, ?_, ?_, ?_, ?_⟩
  · rintro q i s u p _ _ hk hpre rfl rfl
    exact carry_pre _ hk hpre
  · exact fun _ _ _ _ _ hk ha => carryDma_adm hk ha
  · exact fun s u p hpre => ⟨fun hoff ho => (preThen_ok _ hpre).trans (startDisplay_stopped hoff ho),
      fun h => (preThen_ok _ hpre).trans (startDisplay_waits h)⟩
  · exact fun _ _ _ _ _ hk ha => carryDma_adm hk ha
  · exact fun s p => ⟨startCanCfg_applies, startCanCfg_waits⟩
  · exact fun _ _ _ _ _ hk hpre => carry_pre _ hk hpre
  · exact fun _ _ _ _ hk hr => carry_ok _ hk (preRouter_ok hr)
  · intro q i s p hk
    have answers := execStreamStop_started hk
    refine ⟨?_, ?_, ?_, ?_, ?_, ?_, ?_⟩
    · exact fun h0 hn => answers.trans (by rw [stopUnit_sensor h0, stopSensor_none p hn])
    · exact fun r h0 hr hf hd => answers.trans (by rw [stopUnit_sensor h0, stopSensor_between p hr hf hd])
    · exact fun r h0 hr hf => answers.trans (by rw [stopUnit_sensor h0, stopSensor_within p hr hf])
    · exact fun h1 ho => answers.trans (by rw [stopUnit_output h1, if_pos ho])
    · exact fun h1 ho => answers.trans (by rw [stopUnit_output h1, ho, if_neg Bool.false_ne_true])
    · exact fun h2 hon hh => answers.trans (by rw [stopUnit_can h2 hon, if_pos (List.isEmpty_iff.2 hh)])
    · exact fun h2 hon hh => answers.trans (by rw [stopUnit_can h2 hon, if_neg (mt List.isEmpty_iff.1 hh)])

end Sys2Proof.Machine
end

section
/-! SUPPORT. The index opcodes (R172 to R176, R391, R392, R397, R398, R400, R404). -/

namespace Sys2Proof.Machine

theorem idxEnd_ok (s : State) (io : Io) (p : Pkt) (d : Nat) (h : io.err = none) : idxEnd s io p d = complete io.s p 0 d 0 := by
  rw [idxEnd, h]

theorem startBuild_idx {s : State} {p : Pkt} {x : IdxRec} {io : Io} (hx : pktIdx s p = some x)
    (hput : putIdx ⟨s, none⟩ (pktWho p true) (p.u 0 2)
      (if x.layout = 1 then { x with oldest := x.areaStart.getD (areaAt x x.epoch) 0 } else x) = io) (he : io.err = none) :
    startBuild s p = startJob io.s p (newJob io.s p .build 1 (p.u 2 1)) := by
  simp only [startBuild, hx, hput, he]

/-- What an IDX_INSERT puts into its index: the records it names, born with the next epoch, and the header (R173, R402). -/
def insertedIo (s : State) (p : Pkt) (x : IdxRec) : Io :=
  let w := pktWho p false
  let r := readIdVecs s w p x
  let cb := readCodes r.1 w x
  let ins := insertAll w x cb.2 (x.epoch + 1) (cb.1, activeArea x) (idVecs x (p.u 4 4) r.2.1 r.2.2)
  putIdx ins.1 w (p.u 0 2) (withArea x ins.2)

theorem insertRecords_idx {s : State} {p : Pkt} {x : IdxRec} (hx : pktIdx s p = some x) :
    insertRecords s p = idxEnd s (insertedIo s p x) p (p.u 4 4) := by
  simp only [insertRecords, hx, insertedIo]

theorem deleteRecords_idx {s : State} {p : Pkt} {x : IdxRec} (hx : pktIdx s p = some x) : deleteRecords s p =
    idxEnd s (putIdx (killIds s p x).1 (pktWho p false) (p.u 0 2)
      { x with dirty := x.dirty || decide ((killIds s p x).2 ≠ 0) }) p (killIds s p x).2 := by
  simp only [deleteRecords, hx]

theorem publishIdx_idx {s : State} {p : Pkt} {x y : IdxRec} (hx : pktIdx s p = some x)
    (he : (publish s (pktWho p false) (p.u 0 2) x).err = none)
    (hy : (publish s (pktWho p false) (p.u 0 2) x).s.idx (p.u 0 2) = some y) :
    publishIdx s p = complete (publish s (pktWho p false) (p.u 0 2) x).s p 0 y.epoch 0 := by
  simp only [publishIdx, hx, hy, idxEnd_ok _ _ _ _ he]

theorem idxPre_ok {s : State} {p : Pkt} {x : IdxRec} (hx : pktIdx s p = some x) (hopen : x.closing = false) :
    idxPre s p = (s, .ok) := by
  simp only [idxPre, hx, hopen, Bool.false_eq_true, if_false]

theorem idxPublishPre_ok {s : State} {p : Pkt} {x : IdxRec} (hx : pktIdx s p = some x) (hopen : x.closing = false)
    (hmax : x.epoch ≠ 0xFFFFFFFF) : idxPublishPre s p = (s, .ok) := by
  simp only [idxPublishPre, hx, hopen, hmax, Bool.false_eq_true, or_self, if_false]

/-- An IDX_WAIT on an open index is judged by the published epoch. -/
theorem execIdxWait_open {q i : Nat} {s : State} {p : Pkt} {x : IdxRec} (hk : startedPkt s q i 0x4005 = some p)
    (hx : pktIdx s p = some x) (hopen : x.closing = false) : execIdxWait q i s = .next
      (if p.u 4 4 ≤ x.epoch then complete s p 0 (waitDetail x.epoch) 0 else s.setPkt { p with phase := .waiting }) :=
  (carry_ok _ hk (idxPre_ok hx hopen)).trans (by simp only [hx])

/-- An IDX_DESTROY that starts closes its index, which goes at once where no batch uses it. -/
theorem execIdxDestroy_started {q i : Nat} {s u : State} {p : Pkt} {x : IdxRec} (hk : startedPkt s q i 0x4006 = some p)
    (hx : pktIdx s p = some x) (hopen : x.closing = false) (hu : u = s.setIdx (p.u 0 2) (some { x with closing := true })) :
    execIdxDestroy q i s = .next (if idxBusy u (p.u 0 2) then u.setPkt { p with phase := .waiting } else idxGone u p) := by
  subst hu
  obtain ⟨hp, -, hph, -⟩ := startedPkt_eq_some hk
  simp only [execIdxDestroy, hp, hph, reduceCtorEq, false_and, and_false, if_false,
    carry_ok _ hk (idxPre_ok hx hopen), hx]

/-- One that waits ends with the last batch of its index. -/
theorem execIdxDestroy_waiting {q i : Nat} {s : State} {p : Pkt} (hp : s.pkt q i = some p) (ho : p.opcode = 0x4006)
    (hw : p.phase = .waiting) (ha : accepting s = true) :
    execIdxDestroy q i s = .next (if idxBusy s (p.u 0 2) then s else idxGone s p) := by
  simp only [execIdxDestroy, hp, ho, hw, ha, and_self, if_true]

/-- Settles O39: each opcode with accesses goes through the pacers; then its preconditions, and its effect on the index it names. -/
theorem indexOpcodesAct : Obligations.IndexOpcodesAct := by
  refine ⟨?_, ?_, idxEnd_ok, ?_, ?_, ?_, ?_, ?_, ?_, ?_, ?_, ?_, ?_, ?_⟩
  · exact fun _ _ _ _ _ hk ha => carryDma_adm hk ha
  · rintro s u p _ hpre rfl
    exact preThen_ok createIdx hpre
  · exact fun _ _ _ _ _ hk ha => carryDma_adm hk ha
  · exact fun s u p x io hpre hx hput he => (preThen_ok startBuild hpre).trans (startBuild_idx hx hput he)
  · exact fun _ _ _ _ _ hk ha => carryDma_adm hk ha
  · intro s u p x io hpre hx (hins : insertedIo u p x = io) he
    rw [preThen_ok insertRecords hpre, insertRecords_idx hx, hins, idxEnd_ok _ _ _ _ he]
  · exact fun _ _ _ _ _ hk ha => carryDma_adm hk ha
  · intro s p x io n hx hopen (hkill : killIds s p x = (io, n))
    rw [preThen_ok deleteRecords (idxPre_ok hx hopen), deleteRecords_idx hx, hkill]
  · exact fun _ _ _ _ _ hk ha => carryDma_adm hk ha
  · exact fun s p x y hx hopen hmax he hy =>
      (preThen_ok publishIdx (idxPublishPre_ok hx hopen hmax)).trans (publishIdx_idx hx he hy)
  · intro q i s p x hk hx hopen
    have answers := execIdxWait_open hk hx hopen
    exact ⟨fun hle => answers.trans (by rw [if_pos hle]), fun hlt => answers.trans (by rw [if_neg (Nat.not_le.2 hlt)])⟩
  · intro q i s u p x hk hx hopen hu
    have answers := execIdxDestroy_started hk hx hopen hu
    exact ⟨fun hb => answers.trans (by rw [if_pos hb]), fun hb => answers.trans (by rw [hb, if_neg Bool.false_ne_true])⟩
  · exact fun q i s p hp ho hw ha hb =>
      (execIdxDestroy_waiting hp ho hw ha).trans (by rw [hb, if_neg Bool.false_ne_true])

end Sys2Proof.Machine
end

section
/-! SUPPORT. The ring opcodes (R177 to R181, R231, R232, R235, R238 to R240). -/

namespace Sys2Proof.Machine

theorem preRingConfig_ok {s : State} {p : Pkt} (h : p.u 0 1 = ownNode s ∨ (portEn s 0 = false ∧ portEn s 1 = false)) :
    preRingConfig s p = (s, .ok) :=
  congrArg _ (firstPre_cons (by simpa using h))

theorem preRingSweep_ok {s : State} {p : Pkt} (hn : ownNode s = 0) (hup : upPorts s ≠ []) (hlen : 4416 ≤ p.u 8 4) :
    preRingSweep s p = (s, .ok) :=
  (if_neg (by simp only [hn, hup, ne_eq, not_true, or_self, not_false_eq_true])).trans
    (congrArg _ (firstPre_cons (decide_eq_true hlen)))

theorem preNode0_ok {s : State} {p : Pkt} (h : ownNode s = 0) : preNode0 s p = (s, .ok) := congrArg _ (if_pos h)

/-- A RING_SWEEP starts a sweep where none runs and none is due, and else waits. -/
theorem execRingSweep_ok {q i : Nat} {s : State} {p : Pkt} (hk : startedPkt s q i 0x5001 = some p)
    (hpre : preRingSweep s p = (s, .ok)) : execRingSweep q i s = .next
      (if s.ring.sweep = none ∧ s.ring.parkDue = false then startSweep (s.setPkt { p with phase := .waiting }) (some (q, i))
       else s.setPkt { p with phase := .waiting }) :=
  carry_ok _ hk hpre

/-- The request for a record of another node: it is kept until it is answered, and sent from both ports that are UP (R232, R238). -/
def askRing (s : State) (p : Pkt) (q i : Nat) : State :=
  let k := (s.ring.askSeq + 1) % 65536
  let t := (s.setPkt { p with phase := .waiting }).setRing
    { s.ring with askSeq := k, asks := s.ring.asks ++ [⟨k, p.u 0 1, p.u 4 4, some (q, i), none⟩] }
  (upPorts t).foldl (fun u j => sendOn u j (ownFrame u 2 0 (p.u 0 1) k (p.u 4 4) []).bytes) t

/-- A RING_RECOLLECT of node 0 fails with no port UP, is answered here for the own node, and else asks the ring. -/
theorem execRingRecollect_node0 {q i : Nat} {s : State} {p : Pkt} (hk : startedPkt s q i 0x5002 = some p) (hn : ownNode s = 0) :
    execRingRecollect q i s = .next
      (if upPorts s = [] then complete s p 0x61 4 0
       else if p.u 0 1 = ownNode s then
        recollectDone s p (if p.u 4 4 = s.ring.holdId ∧ s.ring.holdRec ≠ [] then some s.ring.holdRec else none)
       else askRing s p q i) :=
  carry_ok _ hk (preNode0_ok hn)

theorem execRingSend_started {q i : Nat} {s : State} {p : Pkt} (hk : startedPkt s q i 0x5003 = some p) : execRingSend q i s = .next
      (if upPorts s = [] then complete s p 0x61 4 0
       else (s.setPkt { p with phase := .waiting }).setRing { s.ring with dataOut := s.ring.dataOut ++
        [⟨p.u 0 1, slice p.params 0x10 (p.u 2 2), some (q, i), none, 0, false, 0, 0, false⟩] }) :=
  carry_plain _ hk

/-- A RING_PROBE of node 0 fails with no port UP, begins where no probe runs, and else waits. -/
theorem execRingProbe_node0 {q i : Nat} {s : State} {p : Pkt} (hk : startedPkt s q i 0x5005 = some p) (hn : ownNode s = 0) :
    execRingProbe q i s = .next
      (if upPorts s = [] then complete s p 0x61 4 0
       else if s.ring.probe = none then beginProbe (s.setPkt { p with phase := .waiting }) { p with phase := .waiting }
       else s.setPkt { p with phase := .waiting }) :=
  carry_ok _ hk (preNode0_ok hn)

/-- Settles O40: of each opcode the preconditions, then its effect by the ports that are UP and by what the ring already does. -/
theorem ringOpcodesAct : Obligations.RingOpcodesAct := by
  refine ⟨?_, ?_, ?_, ?_, ?_, ?_, ?_⟩
  · rintro q i s _ _ _ p hk hok rfl rfl rfl
    exact carry_ok _ hk (preRingConfig_ok hok)
  · intro q i s p hk hn hup hlen
    have answers := execRingSweep_ok hk (preRingSweep_ok hn hup hlen)
    refine ⟨fun hs hd => answers.trans (by rw [if_pos ⟨hs, hd⟩]), fun h => answers.trans ?_⟩
    rw [if_neg fun ⟨hs, hd⟩ => h.elim (· hs) fun hdue => Bool.false_ne_true (hd.symm.trans hdue)]
  · intro q i s p hk hn
    have answers := execRingRecollect_node0 hk hn
    refine ⟨fun h => answers.trans (by rw [if_pos h]), fun h hown => answers.trans (by rw [if_neg h, if_pos hown]), ?_⟩
    rintro _ _ h hother rfl rfl
    exact answers.trans (by rw [if_neg h, if_neg hother]; rfl)
  · intro q i s p hk
    have answers := execRingSend_started hk
    exact ⟨fun h => answers.trans (by rw [if_pos h]), fun h => answers.trans (by rw [if_neg h])⟩
  · exact fun _ _ _ _ hk => carry_plain _ hk
  · intro q i s p hk hn
    have answers := execRingProbe_node0 hk hn
    exact ⟨fun h => answers.trans (by rw [if_pos h]), fun h hnone => answers.trans (by rw [if_neg h, if_pos hnone]),
      fun h hruns => answers.trans (by rw [if_neg h, if_neg hruns])⟩
  · rintro q i s _ p hk rfl
    exact carry_plain _ hk

end Sys2Proof.Machine
end

section
/-! SUPPORT. The safety opcodes (R187 to R189, R336, R534). -/

namespace Sys2Proof.Machine

theorem preSafPair_ok {s : State} {p : Pkt} {r : LaneRec} (hlane : s.lane (p.u 0 1) = some r)
    (hidle : laneInFlight s (p.u 0 1) p.q p.idx = false) (heven : popCount 32 r.tiles % 2 = 0) : preSafPair s p = (s, .ok) := by
  simp only [preSafPair, hlane, firstPre, hidle, heven, Bool.not_false, decide_true, if_true]

theorem execSafPair_pairs (q i : Nat) (s : State) (p : Pkt) (r : LaneRec) (hk : startedPkt s q i 0x7001 = some p)
    (hlane : s.lane (p.u 0 1) = some r) (hidle : laneInFlight s (p.u 0 1) p.q p.idx = false)
    (heven : popCount 32 r.tiles % 2 = 0) : execSafPair q i s =
      .next (complete (laneRegs (s.setLane (p.u 0 1) (some { r with paired := decide (p.u 1 1 = 1) })) (p.u 0 1)) p 0 0 0) :=
  (carry_ok _ hk (preSafPair_ok hlane hidle heven)).trans (by simp only [hlane])

/-- A SAF_TEST that starts holds the lanes, and begins its tests where they are held. -/
theorem execSafTest_started {q i : Nat} {s : State} {p : Pkt} (hk : s.pkt q i = some p) (ho : p.opcode = 0x7002)
    (ha : accepting s = true) (hp : p.phase = .started) : execSafTest q i s = .next (safTestBegin
      (({ s with testHold := true } : State).setPkt { p with phase := .waiting, prog := 0 })
        { p with phase := .waiting, prog := 0 }) := by
  simp only [execSafTest, hk, ho, hp, ha, reduceCtorEq, false_and, and_false, if_false, and_self, if_true]

/-- One that waits for the lanes is met again. -/
theorem execSafTest_waiting {q i : Nat} {s : State} {p : Pkt} (hk : s.pkt q i = some p) (ho : p.opcode = 0x7002)
    (ha : accepting s = true) (hp : p.phase = .waiting) (h0 : p.prog = 0) : execSafTest q i s = .next (safTestBegin s p) := by
  simp only [execSafTest, hk]
  rw [if_pos ⟨ho, hp, h0, ha⟩]

/-- A SAF_ENTER brings the safe state where the main die is up (R189), and else answers at once (assumption 102). -/
theorem execSafEnter_started {q i : Nat} {s : State} {p : Pkt} (hk : startedPkt s q i 0x7003 = some p) : execSafEnter q i s =
    .next (if s.boot.main = .up then safeCause (s.setPkt { p with phase := .waiting }) 0x01 else complete s p 0 0 0) :=
  carry_plain _ hk

/-- Settles O43: of each opcode the preconditions, then its effect; SAF_TEST by the phase of its packet. -/
theorem safetyOpcodesAct : Obligations.SafetyOpcodesAct := by
  refine ⟨?_, execSafPair_pairs, ?_, ?_, ?_⟩
  · rintro q i s _ p hk hlane rfl
    exact carry_ok _ hk (preParamLane_ok hlane)
  · exact fun q i s p hk ho ha => ⟨execSafTest_started hk ho ha, execSafTest_waiting hk ho ha⟩
  · intro q i s p hk
    have answers := execSafEnter_started hk
    exact ⟨fun h => answers.trans (by rw [if_pos h]), fun h => answers.trans (by rw [if_neg h])⟩
  · exact fun _ _ _ _ _ hk ha => carryDma_adm hk ha

end Sys2Proof.Machine
end

section
/-! SUPPORT. INST_RIGHTS, INST_RESUME, INST_RESET and INST_THAW (R190 to R192, R195, R466, R475, R483). -/

namespace Sys2Proof.Machine

/-- A frozen target ends an opcode that needs a running one with ST_FROZEN. -/
theorem preRunning_frozen {cs : State → Pkt → List (Bool × Nat)} {s : State} {p : Pkt} (h : instState s (target p) = 3) :
    preRunning cs s p = (s, .frozen) :=
  congrArg _ (if_pos h)

/-- Where the target is not frozen and not the submitter, the opcode's own conditions judge. -/
theorem preRunning_other {cs : State → Pkt → List (Bool × Nat)} {s : State} {p : Pkt} (h : instState s (target p) ≠ 3)
    (hother : target p ≠ qOwner p.q) : preRunning cs s p = (s, firstPre (cs s p)) :=
  congrArg _ ((if_neg h).trans (firstPre_cons (decide_eq_true hother)))

/-- An INST_RIGHTS with its rights written makes an Empty instance with a class run, and else gives a notice of no change. -/
theorem execInstRights_ok {q i : Nat} {s t : State} {p : Pkt} (hk : startedPkt s q i 0x8000 = some p)
    (hpre : preRights s p = (s, .ok))
    (ht : t = ((s.setF (INST_RIGHTS.class_mask (target p)) (p.u 2 2)).setF (INST_RIGHTS.lane_mask (target p)) (p.u 4 1)).setF
      (INST_RIGHTS.lc_mask (target p)) (p.u 5 1)) : execInstRights q i s = .next (instDone
        (if instState t (target p) = 0 ∧ p.u 2 2 ≠ 0 then setInstState t (target p) 1 0x8000
         else notice t (target p) (instState t (target p)) (instState t (target p)) 0x8000 false) p 0) := by
  subst ht
  exact carry_ok _ hk hpre

/-- An INST_RESUME on another instance that is not frozen makes a quiesced one run and leaves another state alone. -/
theorem execInstResume_other {q i : Nat} {s : State} {p : Pkt} (hk : startedPkt s q i 0x8002 = some p)
    (hother : target p ≠ qOwner p.q) (h : instState s (target p) ≠ 3) : execInstResume q i s = .next (instDone
      (if instState s (target p) = 2 then setInstState s (target p) 1 0x8002 else s) p 0) :=
  carry_ok _ hk (preRunning_other h hother)

theorem preReset_ok {s : State} {p : Pkt} (hother : target p ≠ qOwner p.q) (h : instState s (target p) = 2) :
    preReset s p = (s, .ok) :=
  (preRunning_other (by omega) hother).trans (congrArg _ (firstPre_cons (decide_eq_true h)))

theorem preThaw_ok {s : State} {p : Pkt} (hother : target p ≠ qOwner p.q) (h : instState s (target p) = 3) :
    preThaw s p = (s, .ok) :=
  congrArg _ ((firstPre_cons (decide_eq_true hother)).trans (firstPre_cons (decide_eq_true h)))

/-- Settles O44: of each opcode the preconditions by the state of the target, then its effect on it. -/
theorem instanceOpcodesSetRightsAndState : Obligations.InstanceOpcodesSetRightsAndState := by
  refine ⟨?_, ?_, ?_, ?_, ?_, ?_⟩
  · intro q i s t p hk hpre ht
    have answers := execInstRights_ok hk hpre ht
    refine ⟨fun he hc => answers.trans (by rw [if_pos ⟨he, hc⟩]), fun h => answers.trans ?_⟩
    rw [if_neg fun ⟨he, hc⟩ => h.elim (· he) hc]
  · intro q i s p hk hother
    have resumes := execInstResume_other hk hother
    exact ⟨fun h2 => (resumes (by omega)).trans (by rw [if_pos h2]), fun h2 h3 => (resumes h3).trans (by rw [if_neg h2]),
      fun h3 => carry_frozen _ hk (preRunning_frozen h3)⟩
  · exact fun _ _ _ _ _ hk ha => carryDma_adm hk ha
  · rintro s _ _ p hother h rfl rfl
    exact preThen_ok resetInst (preReset_ok hother h)
  · exact fun _ _ _ _ _ hk ha => carryDma_adm hk ha
  · rintro s _ _ p hother h rfl rfl
    exact preThen_ok thawInst (preThaw_ok hother h)

end Sys2Proof.Machine
end

section
/-! SUPPORT. INST_QUIESCE, INST_FREEZE and INST_REMOVE (R191, R193, R196, R471 to R474). -/

namespace Sys2Proof.Machine

theorem preQuiesce_ok {s : State} {p : Pkt} (hother : target p ≠ qOwner p.q)
    (h : instState s (target p) = 1 ∨ instState s (target p) = 2) : preQuiesce s p = (s, .ok) :=
  (preRunning_other (by omega) hother).trans (congrArg _ (firstPre_cons (decide_eq_true h)))

theorem preFreeze_ok {s : State} {p : Pkt} (hother : target p ≠ qOwner p.q)
    (h : instState s (target p) = 1 ∨ instState s (target p) = 2) : preFreeze s p = (s, .ok) :=
  congrArg _ ((firstPre_cons (decide_eq_true hother)).trans (firstPre_cons (decide_eq_true h)))

theorem preRemove_ok {s : State} {p : Pkt} (hother : target p ≠ qOwner p.q)
    (h : instState s (target p) = 2 ∨ instState s (target p) = 3) : preRemove s p = (s, .ok) :=
  congrArg _ ((firstPre_cons (decide_eq_true hother)).trans (firstPre_cons (decide_eq_true h)))

/-- A quiesce of a quiesced target is done at once. -/
theorem beginQuiesce_quiesced {s : State} {p : Pkt} (h : instState s (target p) = 2) : beginQuiesce s p = instDone s p 0 :=
  if_pos h

theorem execInstQuiesce_begins {q i : Nat} {s : State} {p : Pkt} (hk : startedPkt s q i 0x8001 = some p)
    (hother : target p ≠ qOwner p.q) (h : instState s (target p) = 1 ∨ instState s (target p) = 2) :
    execInstQuiesce q i s = .next (beginQuiesce s p) :=
  (longRow_started _ _ hk).trans (carry_ok _ hk (preQuiesce_ok hother h))

theorem finishQuiesce_done {s : State} {p : Pkt} (h : instPkts s (target p) = []) : finishQuiesce s p =
    instDone (setInstState s (target p) 2 0x8001) p (min (s.inst (target p)).ended 0xFFFFFFFF) :=
  if_pos (List.isEmpty_iff.2 h)

theorem finishQuiesce_waits {s : State} {p : Pkt} (h : instPkts s (target p) ≠ []) : finishQuiesce s p = s :=
  if_neg (mt List.isEmpty_iff.1 h)

theorem b2n_decide (c : Prop) [Decidable c] : b2n (decide c) = if c then 1 else 0 := by
  simp only [b2n, decide_eq_true_eq]

theorem finishFreeze_done {s u : State} {p : Pkt} (h : (instPkts s (target p)).any (holdsFreeze s) = false)
    (hu : u = s.setF (INST_STATE.held_quiesce (target p)) (if instState s (target p) = 2 then 1 else 0)) :
    finishFreeze s p = instDone (setInstState u (target p) 3 0x8004) p (pausedJobs s (target p)).length := by
  rw [hu, ← b2n_decide]
  exact if_neg (by rw [h]; exact Bool.false_ne_true)

theorem finishFreeze_waits {s : State} {p : Pkt} (h : (instPkts s (target p)).any (holdsFreeze s) = true) :
    finishFreeze s p = s :=
  if_pos h

/-- While the target owns a stream, an output or a controller that has not stopped, the removal waits. -/
theorem finishRemove_waits {s : State} {p : Pkt} (h : ownsIo (stopIo s (target p)) (target p) = true) :
    finishRemove s p = stopIo s (target p) :=
  if_pos h

/-- Settles O45: a started packet begins by its preconditions, one that waits is met again and ends where nothing holds it. -/
theorem quiesceFreezeAndRemoveRunUntilDone : Obligations.QuiesceFreezeAndRemoveRunUntilDone := by
  refine ⟨?_, ?_, ?_, ?_, ?_, ?_, ?_⟩
  · intro q i s p hk hother
    have begins := execInstQuiesce_begins hk hother
    exact ⟨fun h2 => (begins (.inr h2)).trans (by rw [beginQuiesce_quiesced h2]), fun h1 => begins (.inl h1),
      fun h3 => (longRow_started _ _ hk).trans (carry_frozen _ hk (preRunning_frozen h3))⟩
  · intro q i s p hp ho hw ha
    have again : execInstQuiesce q i s = .next (finishQuiesce s p) := longRow_waiting _ _ hp ho hw ha
    exact ⟨fun h => again.trans (by rw [finishQuiesce_done h]), fun h => again.trans (by rw [finishQuiesce_waits h])⟩
  · exact fun q i s p hk hother h => (longRow_started _ _ hk).trans (carry_ok _ hk (preFreeze_ok hother h))
  · intro q i s p hp ho hw ha
    have again : execInstFreeze q i s = .next (finishFreeze s p) := longRow_waiting _ _ hp ho hw ha
    exact ⟨fun u h hu => again.trans (by rw [finishFreeze_done h hu]), fun h => again.trans (by rw [finishFreeze_waits h])⟩
  · exact fun q i s p hk hother h => (longRow_started _ _ hk).trans (carry_ok _ hk (preRemove_ok hother h))
  · exact fun q i s p hp ho hw ha => longRow_waiting _ _ hp ho hw ha
  · rintro s _ u v w x p _ rfl rfl
    refine ⟨finishRemove_waits, ?_⟩
    rintro h rfl rfl rfl rfl
    exact if_neg (by rw [h]; exact Bool.false_ne_true)

end Sys2Proof.Machine
end

section
/-! SUPPORT. INST_SAVE and INST_RESTORE (R194, R195, R476 to R484). -/

namespace Sys2Proof.Machine

theorem preSave_without_key (s : State) (p : Pkt) (h : Config.migrationKey = []) : preSave s p = (s, .bad 0) :=
  congrArg _ (if_pos h)

theorem preRestore_without_key (s : State) (p : Pkt) (h : Config.migrationKey = []) : preRestore s p = (s, .bad 0) :=
  if_pos h

theorem preSave_ok {s : State} {p : Pkt} (hkey : Config.migrationKey ≠ []) (hother : target p ≠ qOwner p.q)
    (hfrozen : instState s (target p) = 3)
    (hroom : p.u 0x10 8 = 0 ∨ imageSize (saveInst s (target p)) ≤ p.u 0x10 8) : preSave s p = (s, .ok) :=
  congrArg _ <| calc
    _ = firstPre [notSelf p, (decide (instState s (target p) = 3), 0),
          (decide (p.u 0x10 8 = 0 ∨ imageSize (saveInst s (target p)) ≤ p.u 0x10 8), 0x10)] := if_neg hkey
    _ = firstPre [(decide (instState s (target p) = 3), 0),
          (decide (p.u 0x10 8 = 0 ∨ imageSize (saveInst s (target p)) ≤ p.u 0x10 8), 0x10)] :=
        firstPre_cons (decide_eq_true hother)
    _ = firstPre [(decide (p.u 0x10 8 = 0 ∨ imageSize (saveInst s (target p)) ≤ p.u 0x10 8), 0x10)] :=
        firstPre_cons (decide_eq_true hfrozen)
    _ = .ok := firstPre_cons (decide_eq_true hroom)

/-- The target's change tick moves with a save (R467). -/
def saveMarked (s : State) (p : Pkt) : State := s.setInst (target p) { s.inst (target p) with changedAt := s.now }

theorem imageOut_size {s : State} {p : Pkt} (h : p.u 0x10 8 = 0) : imageOut s p =
    complete (saveMarked s p) p 0 (imageSize (saveInst s (target p)) / 65536) 0 :=
  if_pos h

theorem imageOut_written {s : State} {p : Pkt} (h : p.u 0x10 8 ≠ 0) : imageOut s p =
    outAndEnd (saveMarked s p).fresh.2 p (p.u 8 8) (imageBytes (saveMarked s p).fresh.2 (target p) (saveInst s (target p))
      (leBytes 12 (saveMarked s p).fresh.1)) (imageSize (saveInst s (target p)) / 65536) :=
  if_neg h

/-- An INST_RESTORE onto another, Empty instance reads its image, and is judged by the image's length and by whether it opens. -/
theorem preRestore_read {s u : State} {p : Pkt} {img : List Byte} (hkey : Config.migrationKey ≠ [])
    (hother : target p ≠ qOwner p.q) (hempty : instState s (target p) = 0) (hlen : 65536 ≤ p.u 0x10 8)
    (hread : dmaRead s (pktWho p false) (p.u 8 8) (p.u 0x10 8) = (u, .ok img)) (hfit : leAt img 0x10 8 ≤ p.u 0x10 8)
    (hhead : 256 ≤ leAt img 0x10 8) : preRestore s p = (u, firstPre [((restorable u (target p) img).isSome, 8)]) := by
  have hfirst : firstPre [notSelf p, (decide (instState s (target p) = 0), 0), (decide (65536 ≤ p.u 0x10 8), 0x10)] = .ok :=
    (firstPre_cons (decide_eq_true hother)).trans
      ((firstPre_cons (decide_eq_true hempty)).trans (firstPre_cons (decide_eq_true hlen)))
  simp only [preRestore, if_neg hkey, hfirst, hread, firstPre_cons (decide_eq_true (And.intro hfit hhead))]

theorem imageIn_restored {s u : State} {p : Pkt} {bs : List Byte} {x : SavedInst}
    (hread : dmaRead s (pktWho p false) (p.u 8 8) (p.u 0x10 8) = (u, .ok bs)) (hx : restorable u (target p) bs = some x) :
    imageIn s p = restored u p x := by
  simp only [imageIn, hread, hx]

/-- Settles O46: without a key both preconditions fail; with one, by the length given to the save and by whether the image opens. -/
theorem saveAndRestoreMoveAnInstance : Obligations.SaveAndRestoreMoveAnInstance := by
  refine ⟨?_, ?_, ?_, ?_⟩
  · exact fun _ _ _ _ _ => ⟨carryDma_adm, carryDma_adm⟩
  · exact fun s p hkey => ⟨preThen_bad imageOut (preSave_without_key s p hkey),
      preThen_bad imageIn (preRestore_without_key s p hkey)⟩
  · rintro s _ p _ _ hkey hother hfrozen rfl rfl rfl
    have saves := fun hroom => preThen_ok imageOut (preSave_ok hkey hother hfrozen hroom)
    exact ⟨fun h0 => (saves (.inl h0)).trans (imageOut_size h0), fun h0 hroom => (saves (.inr hroom)).trans (imageOut_written h0)⟩
  · intro s u v p img bs hkey hother hempty hlen hread hfit hhead
    have judged := preRestore_read hkey hother hempty hlen hread hfit hhead
    refine ⟨fun hn => preThen_bad imageIn (judged.trans (congrArg _ (firstPre_cons_bad ?_))), fun x hopens hagain hx => ?_⟩
    · rw [hn, Option.isSome_none]
    · exact (preThen_ok imageIn (judged.trans (congrArg _ (firstPre_cons hopens)))).trans (imageIn_restored hagain hx)

end Sys2Proof.Machine
end

section
/-! SUPPORT. Training, loss, bypass and sleep of the ring ports (R203, R205 to R207, R209 to R211, R244, R245). -/

namespace Sys2Proof.Machine

/-! ### Training sets -/

theorem execRingTrainingSet_bypassed {p : Nat} {gs : List Nat} {s : State} (hp : p < 2) (hb : bypassOpen s = false) :
    execRingTrainingSet p gs s = .next (passOn s p gs) :=
  congrArg _ ((if_neg (Nat.not_le.2 hp)).trans (if_pos hb))

/-- An ordered set that is no training set ends a run of them (R205). -/
theorem execRingTrainingSet_other_set {p : Nat} {gs : List Nat} {s t : State} {xs : List (Option RingSym)} (hp : p < 2)
    (hb : bypassOpen s = true) (he : portEn s p = true) (hrx : rxSyms (demand s 13) p gs = (t, xs)) (hx : readTrain xs = none) :
    execRingTrainingSet p gs s = .next (endSets t p) := by
  simp only [execRingTrainingSet, if_neg (Nat.not_le.2 hp), hb, he, hrx, hx, Bool.true_eq_false, if_false]

/-- A training set acts by the state that its port has. -/
theorem execRingTrainingSet_training_set {p n : Nat} {gs : List Nat} {s t : State} {xs : List (Option RingSym)} {ts2 : Bool}
    (hp : p < 2) (hb : bypassOpen s = true) (he : portEn s p = true) (hrx : rxSyms (demand s 13) p gs = (t, xs))
    (hx : readTrain xs = some (ts2, n)) : execRingTrainingSet p gs s =
      .next (if portState s p = 1 then trainStep t p ts2 n else if portState s p = 2 then trainOnUp t p ts2 else t) := by
  simp only [execRingTrainingSet, if_neg (Nat.not_le.2 hp), hb, he, hrx, hx, Bool.true_eq_false, if_false]

/-- A set from another node's other port is counted and answered, and the port comes up once enough have passed (R205, R207). -/
theorem trainStep_neighbour {p n : Nat} {ts2 : Bool} {s t : State} {r : RingPort} (hport : bits n 4 1 ≠ p)
    (hnode : n % 16 ≠ ownNode s)
    (hr : r = { s.rport p with
      seen := (s.rport p).seen + 1
      seen2 := if ts2 then (s.rport p).seen2 + 1 else 0
      sent2 := if 8 ≤ (s.rport p).seen then (s.rport p).sent2 + 1 else 0 })
    (ht : t = (sendSyms s p (trainSet s p (decide (8 ≤ (s.rport p).seen)))).setRport p r) :
    trainStep s p ts2 n = if 8 ≤ r.seen2 ∧ 16 ≤ r.sent2 ∧ miswired s p = false then portComesUp t p (n % 16) else t := by
  subst ht hr
  exact if_neg (not_or.2 ⟨hport, hnode⟩)

theorem trainOnUp_second_ts1 {p : Nat} {s : State} (h : 1 ≤ (s.rport p).ts1) : trainOnUp s p false = portDown s p :=
  if_pos (Nat.succ_le_succ h)

theorem execRingTrainRestart_due {p : Nat} {s : State} (hp : p < 2) (he : portEn s p = true) (hst : portState s p = 1)
    (hd : (s.rport p).since + 100000 ≤ s.now) : execRingTrainRestart p s = .next (trainPort s p) :=
  congrArg _ (if_pos ⟨hp, he, hst, hd⟩)

/-! ### Loss of a link -/

/-- The code-groups that a port has seen on its line. -/
def lineGroups : LineSeen → List Nat
  | .groups gs => gs
  | .silent _ | .noIdle _ => []

/-- What an UP port sees ends a run of training sets, and takes the port DOWN where the link is lost by R206. -/
theorem execRingPortDown_up {p : Nat} {seen : LineSeen} {s t : State} {xs : List (Option RingSym)} (hp : p < 2)
    (hb : bypassOpen s = true) (he : portEn s p = true) (hup : portUp s p = true) (hrx : rxSyms s p (lineGroups seen) = (t, xs)) :
    execRingPortDown p seen s = .next (if linkLost xs seen then portDown (endSets t p) p else endSets t p) := by
  cases seen <;>
    simp only [lineGroups] at hrx <;>
    simp only [execRingPortDown, if_neg (Nat.not_le.2 hp), hb, he, hup, hrx, Bool.true_eq_false, if_false, Bool.true_and]

/-! ### The bypass -/

theorem execBypassClose_open {s : State} (hb : bypassOpen s = true)
    (h : groupsGood s = false ∨ s.boot.sage = .held ∨ (portEn s 0 = false ∧ portEn s 1 = false)) :
    execBypassClose s = .next (closeBypass s) :=
  congrArg _ (if_pos ⟨hb, h⟩)

theorem execBypassOpen_closed {s : State} (hb : bypassOpen s = false) (hg : groupsGood s = true) (hs : s.boot.sage ≠ .held)
    (he : portEn s 0 = true ∨ portEn s 1 = true) : execBypassOpen s = .next (openBypass s) :=
  congrArg _ (if_pos ⟨hb, hg, hs, he⟩)

/-! ### Sleep -/

/-- Sleep symbols put the UP ports of a node other than 0 to sleep, and a PARK window closes with them (R244). -/
theorem execRingSleepSet_up {s u : State} (hn : ownNode s ≠ 0) (hb : bypassOpen s = true) (hup : upPorts s ≠ [])
    (hu : u = (upPorts s).foldl (fun t p => (setPortState (sendSyms t p (sleepSyms 16)) p 4).setRport p RingPort.init) s) :
    execRingSleepSet s = .next (if u.flag CLK_STATE.in_sweep then closeWindow u else u) := by
  subst hu
  exact congrArg _ (if_pos ⟨hn, hb, hup⟩)

/-- A sleeping port that has had its signal only waits for lock. -/
theorem execRingSleepWake_signalled {p : Nat} {relocked : Bool} {s : State} (hp : p < 2) (hb : bypassOpen s = true)
    (he : portEn s p = true) (hst : portState s p = 4) (hsig : (s.rport p).signalAt.isSome = true) :
    execRingSleepWake p relocked s = .next (if relocked then portRelocked s p else s) := by
  rw [execRingSleepWake, if_pos ⟨hp, hb, he, hst⟩]
  simp only [if_pos hsig]

/-- The first signal is timed and the node sends on its sleeping ports; no window opens at node 0 or outside PARK (R244, R245). -/
theorem execRingSleepWake_first_signal {p : Nat} {s t u : State} (hp : p < 2) (hb : bypassOpen s = true) (he : portEn s p = true)
    (hst : portState s p = 4) (hsig : (s.rport p).signalAt = none)
    (ht : t = s.setRport p { s.rport p with signalAt := some s.now })
    (hu : u = [0, 1].foldl (fun v k => if portState v k = 4 then sendSyms v k idleSet else v) t)
    (hwin : ownNode u = 0 ∨ u.clk.mode ≠ .park) : execRingSleepWake p false s = .next u := by
  have hclosed : ¬(ownNode u ≠ 0 ∧ u.clk.mode = .park ∧ u.flag CLK_STATE.in_sweep = false) :=
    fun ⟨hn, hm, _⟩ => hwin.elim hn (· hm)
  subst ht hu
  rw [execRingSleepWake, if_pos ⟨hp, hb, he, hst⟩]
  simp only [hsig, Option.isSome_none, Bool.false_eq_true, if_false, if_neg hclosed]

theorem execRingRelockTimeout_late {p k : Nat} {s : State} (hp : p < 2) (hst : portState s p = 4)
    (hsig : (s.rport p).signalAt = some k) (hlate : k + 100000 < s.now) :
    execRingRelockTimeout p s = .next (parkSweepDue (portDown s p)) := by
  simp only [execRingRelockTimeout, if_pos (And.intro hp hst), hsig, if_pos hlate]

/-- Settles O56: each clause is the rule of its command; a training set acts by the state of its port, and what an UP port sees
by whether it loses the link. A burst of errors counts within one command (assumption 133). -/
theorem ringPortEventsAct : Obligations.RingPortEventsAct := by
  refine ⟨?_, ?_, fun _ _ => trainOnUp_second_ts1, fun _ _ => execRingTrainRestart_due, ?_, fun _ => execBypassClose_open,
    fun _ => execBypassOpen_closed, fun _ _ => execRingSleepSet_up, ?_, fun _ _ _ _ => execRingSleepWake_first_signal,
    fun _ _ _ => execRingRelockTimeout_late⟩
  · intro p gs s t xs hp hrx
    refine ⟨execRingTrainingSet_bypassed hp, fun hb he => ⟨execRingTrainingSet_other_set hp hb he hrx, fun ts2 n hx => ?_⟩⟩
    have acts := execRingTrainingSet_training_set hp hb he hrx hx
    exact ⟨fun h1 => acts.trans (by rw [if_pos h1]),
      fun h2 => acts.trans (by rw [if_neg (by rw [h2]; decide), if_pos h2])⟩
  · intro p n ts2 s t r hport hnode hr ht
    have steps := trainStep_neighbour hport hnode hr ht
    exact ⟨fun h8 h16 hm => steps.trans (if_pos ⟨h8, h16, hm⟩), fun hfew => steps.trans (if_neg fun h => Nat.not_le.2 hfew h.1)⟩
  · intro p n gs s t xs hp hb he hup
    refine ⟨fun hrx => ⟨fun h => ?_, fun h => ?_⟩, fun hrx => ⟨fun h => ?_, fun h => ?_⟩⟩
    · exact (execRingPortDown_up (seen := .silent n) hp hb he hup hrx).trans (congrArg _ (if_pos (decide_eq_true h)))
    · exact (execRingPortDown_up (seen := .noIdle n) hp hb he hup hrx).trans (congrArg _ (if_pos (decide_eq_true h)))
    · exact (execRingPortDown_up (seen := .groups gs) hp hb he hup hrx).trans (congrArg _ (if_pos h))
    · exact (execRingPortDown_up (seen := .groups gs) hp hb he hup hrx).trans (congrArg _ (if_neg (ne_true_of_eq_false h)))
  · exact fun p s hp hb he hst hsig =>
      ⟨execRingSleepWake_signalled (relocked := true) hp hb he hst hsig,
        execRingSleepWake_signalled (relocked := false) hp hb he hst hsig⟩

end Sys2Proof.Machine
end

section
/-! SUPPORT. Frames of the ring and the timers of its operations (R209, R213, R215, R216, R221, R223, R225, R235, R240, R242). -/

namespace Sys2Proof.Machine

/-! ### Frames received -/

section
variable {p : Nat} {gs : List Nat} {s : State} {f : RFrame}

theorem ringReceive_bypassed (hp : p < 2) (hb : bypassOpen s = false) : ringReceive p gs none s = .next (passOn s p gs) := by
  simp only [ringReceive, Nat.not_le.2 hp, hb, Option.isSome_none, Bool.false_eq_true, false_and, or_self, if_false, if_true]

/-- Whatever type a command is about, it takes code-groups that carry no whole frame. -/
theorem ringReceive_no_frame (only : Option Nat) (hp : p < 2) (hb : bypassOpen s = true) (he : portEn s p = true)
    (hf : lineFrame s p gs = none) : ringReceive p gs only s = .next (frameOn s p gs) := by
  simp only [ringReceive, Nat.not_le.2 hp, hb, he, hf, Option.any_none, Bool.false_eq_true, Bool.true_eq_false, and_false,
    or_self, if_false, if_true]

theorem ringReceive_any_type (hp : p < 2) (hb : bypassOpen s = true) (he : portEn s p = true) :
    ringReceive p gs none s = .next (frameOn s p gs) := by
  simp only [ringReceive, Nat.not_le.2 hp, hb, he, Option.isSome_none, Bool.false_eq_true, Bool.true_eq_false, false_and,
    or_self, if_false, if_true]

theorem ringReceive_own_type {n : Nat} (hp : p < 2) (hb : bypassOpen s = true) (he : portEn s p = true)
    (hf : lineFrame s p gs = some f) (hn : f.typ = n) : ringReceive p gs (some n) s = .next (frameOn s p gs) := by
  simp only [ringReceive, Nat.not_le.2 hp, hb, he, hf, hn, Option.any_some, ne_eq, not_true, decide_false, Bool.false_eq_true,
    Bool.true_eq_false, and_false, or_self, if_false, if_true]

/-- A command about one type lets frames of the others be. -/
theorem ringReceive_other_type {n : Nat} (hf : lineFrame s p gs = some f) (hn : f.typ ≠ n) :
    ringReceive p gs (some n) s = .next s := by
  have other : ((lineFrame s p gs).any fun f => decide (some n ≠ some f.typ)) = true := by
    rw [hf, Option.any_some, decide_eq_true_eq]
    exact fun h => hn (Option.some.inj h).symm
  exact congrArg _ (if_pos (.inr ⟨rfl, other⟩))

end

section
variable {p : Nat} {gs : List Nat} {s t : State} {xs : List (Option RingSym)}

theorem frameOn_not_up (hrx : rxSyms (demand s 13) p gs = (t, xs)) (hup : portUp s p = false) : frameOn s p gs = endSets t p := by
  simp only [frameOn, hrx, hup, if_true]

theorem frameOn_burst (hrx : rxSyms (demand s 13) p gs = (t, xs)) (hup : portUp s p = true) (hx : errorBurst xs = true) :
    frameOn s p gs = portDown (endSets t p) p := by
  simp only [frameOn, hrx, hup, hx, Bool.true_eq_false, if_false, if_true]

/-- A damaged frame is counted (R215). -/
theorem frameOn_damaged (hrx : rxSyms (demand s 13) p gs = (t, xs)) (hup : portUp s p = true) (hx : errorBurst xs = false)
    (hf : lineFrame s p gs = none) : frameOn s p gs = (endSets t p).addSat (RING_ERR.crc p) 1 := by
  simp only [frameOn, hrx, hup, hx, hf, Bool.true_eq_false, Bool.false_eq_true, if_false]

/-- A whole frame takes its way through the ring (R216). -/
theorem frameOn_whole {f : RFrame} (hrx : rxSyms (demand s 13) p gs = (t, xs)) (hup : portUp s p = true)
    (hx : errorBurst xs = false) (hf : lineFrame s p gs = some f) : frameOn s p gs = ringPipeline (endSets t p) p f := by
  simp only [frameOn, hrx, hup, hx, hf, Bool.true_eq_false, Bool.false_eq_true, if_false]

end

/-! ### Timers -/

theorem execBatonTimeout_late {k : Nat} {s : State} (ho : s.ring.batonOut = some k) (hn : ownNode s = 0)
    (hlate : k + s.getF RING_BATON_TO.ticks < s.now) : execBatonTimeout s = .next (issueBaton s (s.ring.batonGen + 1)) := by
  simp only [execBatonTimeout, ho, if_pos (And.intro hn hlate)]

/-- With no sweep under way a late leg is one of the probe (R240). -/
theorem execLegTimeout_probe {s : State} {r : ProbeRun} (hs : s.ring.sweep = none) (hr : s.ring.probe = some r)
    (hlate : r.since + s.getF RING_LEG_TO.ticks < s.now) (hd : r.due = false) :
    execLegTimeout s = .next (probeOn s r false) := by
  simp only [execLegTimeout, hs, hr, legLate, hlate, hd, decide_true, and_self, if_true]

/-- A late sweep moves on, but node 0 asks for the records that are missing where it has not yet (R235). -/
theorem execLegTimeout_sweep {s : State} {r : SweepRun} (hr : s.ring.sweep = some r)
    (hlate : r.since + s.getF RING_LEG_TO.ticks < s.now) (hd : r.due = false) : execLegTimeout s = .next
      (if r.asking then sweepOn (s.setRing { s.ring with asks := s.ring.asks.filter fun a => a.pkt.isSome }) r false
       else if missing r = [] ∨ ownNode s ≠ 0 then sweepOn s r false else askMissing s r) := by
  simp only [execLegTimeout, hr, legLate, hlate, hd, decide_true, and_self, if_true]

theorem execDataRetransmitTimeout_late {dst : Nat} {s : State} {e : DataOut}
    (he : s.ring.dataOut.find? (fun e => decide (e.dst = dst) && e.flying) = some e)
    (hlate : e.sentAt + s.getF RING_LEG_TO.ticks < s.now) : execDataRetransmitTimeout dst s = .next (dataBack s e false) := by
  simp only [execDataRetransmitTimeout, he, if_pos hlate]

/-- Settles O57: of a frame first whether a command is about it, then how its port takes it; of a timer what is late. -/
theorem ringFramesAndTimersAct : Obligations.RingFramesAndTimersAct := by
  refine ⟨?_, ?_, ?_, fun _ _ _ => ringReceive_bypassed, ?_, fun _ _ => execBatonTimeout_late, fun _ _ => execLegTimeout_probe,
    ?_, fun _ _ _ => execDataRetransmitTimeout_late, ?_⟩
  · intro p gs s f hp hb he hf
    have named {n : Nat} := ringReceive_own_type (n := n) hp hb he hf
    exact ⟨ringReceive_any_type hp hb he, named, named, named, named, named, named, named, ringReceive_other_type hf⟩
  · exact fun p gs s t xs hrx => ⟨frameOn_not_up hrx, frameOn_burst hrx, frameOn_damaged hrx, fun f => frameOn_whole hrx⟩
  · exact fun p gs s hp hb he hf => ⟨ringReceive_no_frame none hp hb he hf, ringReceive_no_frame (some 3) hp hb he hf⟩
  · rintro s _ hn hts hup hdue rfl
    exact congrArg _ (if_pos ⟨hn, hts, hup, hdue⟩)
  · intro s r hr hlate hd
    have moves := execLegTimeout_sweep hr hlate hd
    refine ⟨fun ha => moves.trans (by rw [if_pos ha]), fun ha hnone => moves.trans ?_, fun ha hsome hn => moves.trans ?_⟩
    · rw [if_neg (ne_true_of_eq_false ha), if_pos (.inl hnone)]
    · rw [if_neg (ne_true_of_eq_false ha), if_neg fun h => h.elim hsome (· hn)]
  · exact fun m v s r i hf =>
      ⟨fun hw => congrArg _ (guarded_write _ hf hw), fun hw => congrArg _ (guarded_forbidden _ hf hw)⟩

end Sys2Proof.Machine
end

section
/-! SUPPORT. Host-core accesses, inbound PCIe and its links, reads of lines in error and the scrubber (R248, R249, R252, R263,
R277, R278, R458, R459, R461). -/

namespace Sys2Proof.Machine

/-! ### Host cores -/

section
variable {core addr len : Nat} {machine : Bool} {st : Option (List Byte)} {s : State}

theorem execHostCoreLoadStore_admitted {t : State} (hc : core < 12) (hlen : accessLen len st ≠ 0)
    (hmode : s.clk.mode = .on ∨ s.clk.mode = .dozeEntry) (hmain : mainReleased s = true)
    (ha : Admitted (.device (.host core machine addr len st)) (hostAccess core machine addr len st) (demand (demand s 3) 11) t) :
    execHostCoreLoadStore core machine addr len st s = .next t :=
  congrArg _ ((if_pos ⟨hc, hlen, hmode, hmain⟩).trans (paceAct_admitted ha))

/-- In a register range an implemented slot answers, and every other address is an access fault (R248, R249). -/
theorem hostAccess_registers (h : region s addr = .sageRegs ∨ region s addr = .mainRegs) :
    hostAccess core machine addr len st s =
      if inSlot addr then hostReg s (.hostCore core machine) addr (accessLen len st) st
      else hostFault s (hostWho core ((masterInst s (.hostCore core machine)).getD 0)) addr st.isSome := by
  rcases h with h | h <;> simp only [hostAccess, h]

theorem hostAccess_memory (hsage : region s addr ≠ .sageRegs) (hmain : region s addr ≠ .mainRegs) :
    hostAccess core machine addr len st s =
      hostMem s (hostWho core ((masterInst s (.hostCore core machine)).getD 0)) addr (accessLen len st) st := by
  unfold hostAccess
  split
  · exact absurd ‹_› hsage
  · exact absurd ‹_› hmain
  · rfl

end

/-! ### PCIe -/

section
variable {k : Nat} {r : PcieReq} {s : State}

theorem execPcieInbound_admitted {t : State} (hk : k < 2) (hup : k ∈ s.pcieUp)
    (ha : Admitted (.device (.pcie k r)) (fun u => pcieRequest u k r) (demand (demand s 12) 11) t) :
    execPcieInbound k r s = .next t :=
  congrArg _ ((if_pos ⟨hk, hup⟩).trans (paceAct_admitted ha))

/-- A write whose data are marked bad has no effect but its count (R459). -/
theorem pcieRequest_poisoned_write (hw : r.write = true) (hep : r.ep = true) : pcieRequest s k r = pcieErr s k :=
  if_pos ⟨hw, hep⟩

/-- A root port has no BAR: with the T32 awake its requests go to the bound instance's memory. -/
theorem pcieRequest_root_port (hrole : s.getF (PCIE_CFG.role k) ≠ 0) (hmode : s.clk.mode ≠ .doze) (hep : r.ep = false) :
    pcieRequest s k r = pcieMem s k r := by
  simp only [pcieRequest, hep, hrole, hmode, Bool.false_eq_true, and_false, false_and, decide_false, if_false]

theorem execPcieLinkDown_up (hup : k ∈ s.pcieUp) : execPcieLinkDown k s = .next (linkDown s k) :=
  congrArg _ (if_pos hup)

theorem execPcieLinkUp_configured {w g : Nat} {t : State} (hk : k < 2) (hmain : mainReleased s = true)
    (hmode : s.clk.mode ≠ .doze) (hperst : perstLow s k = false) (hw : w ≤ s.getF (PCIE_CFG.width k)) (hg1 : 1 ≤ g)
    (hg : g ≤ s.getF (PCIE_CFG.gen k))
    (ht : t = ((s.setF (PCIE_STATE.link_up k) 1).setF (PCIE_STATE.width k) w).setF (PCIE_STATE.gen k) g) :
    execPcieLinkUp k w g s = .next { t with pcieUp := setAdd (t.pcieUp.filter fun x => decide (x ≠ k)) k } := by
  subst ht
  exact congrArg _ (if_pos ⟨hk, hmain, hmode, hperst, hw, hg1, hg⟩)

end

/-! ### Lines in error -/

/-- After the error has had its effect, the reader meets poison where the line has it. -/
theorem execPoisonRead_ecc {r : PoisonReader} {a : Nat} {e : ReadError} {s t : State} (hmain : mainReleased s = true)
    (hecc : hasEcc s a = true) (ht : t = lineError s a (readerId s r) e) :
    execPoisonRead r a e s = .next (if a / 64 ∈ t.ms.poison then poisonGiven t a r else t) := by
  subst ht
  exact congrArg _ (if_pos (Bool.and_eq_true_iff.2 ⟨hmain, hecc⟩))

theorem poisonOnce_poisoned {s : State} {a : Nat} (kind m : Nat) (h : a / 64 ∈ s.ms.poison) : poisonOnce s a kind m = s :=
  if_pos h

/-- A link error counts where the read reaches LPDDR5X (R259). -/
theorem lineError_linkRecovered {s : State} {a : Nat} (m : Nat) (h : readKind s a = 3) :
    lineError s a m .linkRecovered = s.addSat (MEM_ECC_CE.n 3) 1 :=
  if_pos h

theorem lineError_linkFailed {s : State} {a : Nat} (m : Nat) (h : readKind s a = 3) :
    lineError s a m .linkFailed = poisonOnce s a 3 m :=
  if_pos h

/-! ### The patrol scrubber -/

/-- Tile memory has 0x1000000 words of 8 bytes; after the last the scrubber counts a pass and is at the first again. -/
theorem execPatrolScrub_tile {f : ScrubFinding} {s u : State} (hen : s.flag MEM_SCRUB.scrub_en = true)
    (hmain : mainReleased s = true) (hmode : s.clk.mode ≠ .doze)
    (hu : u = scrubWord s (0x60000000 + 8 * s.ms.scrubTile) 0 f) : execPatrolScrub true f s = .next
      (let v := if s.ms.scrubTile + 1 = 0x1000000 then u.addWrap MEM_SCRUB_PASS.tile 1 else u
       { v with ms := { v.ms with scrubTile := if s.ms.scrubTile + 1 = 0x1000000 then 0 else s.ms.scrubTile + 1 } }) := by
  subst hu
  have hruns : (s.flag MEM_SCRUB.scrub_en && mainReleased s && decide (s.clk.mode ≠ .doze)) = true := by
    rw [hen, hmain, decide_eq_true hmode]
    rfl
  exact congrArg _ (if_pos hruns)

/-- Settles O55: of an access whether the pacers admit it, then where it goes; of a read what its error does to the line, then
whether its reader meets poison; of a word of tile memory whether it is the last. The kinds of error are those of
assumption 45. -/
theorem hostAndDeviceAccessesAct : Obligations.HostAndDeviceAccessesAct := by
  refine ⟨fun _ _ _ _ _ _ _ => execHostCoreLoadStore_admitted, ?_, fun _ _ _ _ => execPcieInbound_admitted, ?_,
    fun _ _ => execPcieLinkDown_up, fun _ _ _ _ _ => execPcieLinkUp_configured, ?_, ?_, fun _ _ => poisonOnce_poisoned, ?_⟩
  · exact fun core addr len machine st s => ⟨fun hr hin => (hostAccess_registers hr).trans (if_pos hin),
      fun hr hout => (hostAccess_registers hr).trans (if_neg (ne_true_of_eq_false hout)), hostAccess_memory⟩
  · exact fun k r s hrole hmode => ⟨pcieRequest_poisoned_write, pcieRequest_root_port hrole hmode⟩
  · intro r a e s t hmain hecc ht
    have reads := execPoisonRead_ecc hmain hecc ht
    exact ⟨fun hp => reads.trans (by rw [if_pos hp]), fun hn => reads.trans (by rw [if_neg hn])⟩
  · exact fun a m s => ⟨rfl, fun h3 => ⟨lineError_linkRecovered m h3, lineError_linkFailed m h3⟩⟩
  · intro f s u hen hmain hmode hu
    have scrubs := execPatrolScrub_tile hen hmain hmode hu
    refine ⟨fun hmore => scrubs.trans (by simp only [if_neg hmore]), ?_⟩
    rintro hlast _ rfl
    exact scrubs.trans (by simp only [if_pos hlast])

end Sys2Proof.Machine
end

section
/-! SUPPORT. The dispatch of a kernel and the end of one (R292 to R295, R384, R413, R543). -/

namespace Sys2Proof.Machine

/-! ### Dispatch -/

section
variable {s : State} {j : Job}

/-- A job that has started keeps the checkpoint copies it has. -/
theorem execKernelDispatch_started (hacc : accepting s = true) (hk : nextKernel s = some j) (hstarted : j.started = true) :
    execKernelDispatch s = .next (dispatch s j j.ckpt) := by
  simp only [execKernelDispatch, hacc, hk, hstarted, if_true]

/-- A job that has not started has its in-place buffers copied first (R543). -/
theorem execKernelDispatch_first {u : State} {c : List (Nat × Nat × List Byte)} (hacc : accepting s = true)
    (hk : nextKernel s = some j) (hstarted : j.started = false)
    (hckpt : takeCkpt s j (if j.kind = .run then (jrBufs (jobPkt s j)).filter inPlace else []) [] = (u, .ok c)) :
    execKernelDispatch s = .next (dispatch u j c) := by
  simp only [execKernelDispatch, hacc, hk, hstarted, hckpt, Bool.false_eq_true, if_true, if_false]

theorem execKernelDispatch_none (hk : nextKernel s = none) : execKernelDispatch s = .next s := by
  simp only [execKernelDispatch, hk, ite_self]

end

/-! ### The end of a kernel -/

section
variable {q i : Nat} {s t : State} {j : Job} (hj : s.job q i = some j) (hacc : accepting s = true) (hrun : j.phase = .running)
include hj hacc hrun

theorem execKernelEnd_tiles (hkind : j.kind = .run) (hneed : needKind j = 0) :
    execKernelEnd q i s = .next (endTiles s j) := by
  simp only [execKernelEnd, hj, hacc, hrun, hkind, decide_true, Bool.and_self, if_true, if_pos hneed]

theorem execKernelEnd_attn (hkind : j.kind = .run) (hneed : needKind j ≠ 0) :
    execKernelEnd q i s = .next (endAttn s j) := by
  simp only [execKernelEnd, hj, hacc, hrun, hkind, decide_true, Bool.and_self, if_true, if_neg hneed]

theorem execKernelEnd_search (hkind : j.kind = .search) (hclk : gated s 6 = false)
    (ha : Admitted (.job q i) (fun u => endSearch u j) s t) : execKernelEnd q i s = .next t := by
  simp only [execKernelEnd, hj, hacc, hrun, hkind, hclk, decide_true, Bool.and_self, Bool.false_eq_true, if_true, if_false,
    paceAct_admitted ha]

theorem execKernelEnd_build (hkind : j.kind = .build) (hclk : gated s 6 = false)
    (ha : Admitted (.job q i) (fun u => endBuild u j) s t) : execKernelEnd q i s = .next t := by
  simp only [execKernelEnd, hj, hacc, hrun, hkind, hclk, decide_true, Bool.and_self, Bool.false_eq_true, if_true, if_false,
    paceAct_admitted ha]

/-- The pass itself is judged by `endPass`: it ends only where its bins are rendered. -/
theorem execKernelEnd_gfx (hkind : j.kind = .gfx) : execKernelEnd q i s = .next (endPass s j) := by
  simp only [execKernelEnd, hj, hacc, hrun, hkind, decide_true, Bool.and_self, if_true]

end

section
variable {s : State} {j : Job}

/-- Every tile of the kernel has executed END (R316): they leave it, and the checkers of a paired lane with them. -/
theorem endTiles_all_ended (h : (kernelTiles s j).all (fun t => (s.tile t).ended) = true) :
    endTiles s j = kernelDone ((kernelTiles s j).foldl (fun u t =>
      let u1 := leaveTile j.q j.idx false u t
      if lanePaired s j.lane then leaveTile j.q j.idx true u1 (t + 1) else u1) s) j.q j.idx
      (decide (j.nKernel ≤ j.kernel + 1)) :=
  if_pos h

theorem endTiles_tile_running (h : (kernelTiles s j).all (fun t => (s.tile t).ended) = false) : endTiles s j = s :=
  if_neg (ne_true_of_eq_false h)

theorem endAttn_after_last_step (h : leAt (attnHead j.image (kernelDesc j j.kernel)) 0 2 ≤ j.pos) :
    endAttn s j = kernelDone (energyAdd s.fresh.2 j.q j.idx 8 (s.fresh.1 * j.units.length)) j.q j.idx
      (decide (j.nKernel ≤ j.kernel + 1)) :=
  if_pos h

end

/-- Settles O35: a dispatch by the kernel chosen and whether its job has started; an end by the kind of the kernel, and of a
tile kernel by whether a tile still runs. -/
theorem kernelsAreDispatchedInOrder : Obligations.KernelsAreDispatchedInOrder := by
  refine ⟨fun _ _ => execKernelDispatch_started, fun _ _ _ _ => execKernelDispatch_first,
    fun _ => execKernelDispatch_none, ?_⟩
  intro q i s t j hj hacc hrun
  have tiles := execKernelEnd_tiles hj hacc hrun
  have attn := execKernelEnd_attn hj hacc hrun
  exact ⟨fun hk hn hall => (tiles hk hn).trans (congrArg _ (endTiles_all_ended hall)),
    fun hk hn hsome => (tiles hk hn).trans (congrArg _ (endTiles_tile_running hsome)),
    fun hk hn hlast => (attn hk hn).trans (congrArg _ (endAttn_after_last_step hlast)),
    execKernelEnd_search hj hacc hrun, execKernelEnd_build hj hacc hrun, fun hk _ => execKernelEnd_gfx hj hacc hrun hk⟩

end Sys2Proof.Machine
end

section
/-! SUPPORT. The stall limit and the staging grant (R300 to R302, R537, R544). -/

namespace Sys2Proof.Machine

section
variable {q i : Nat} {s : State} {j : Job}

/-! ### Restarts -/

theorem restartJob_retry (st fault : Nat) (h : j.used < j.retries) : restartJob s j st fault = newAttempt s j true true :=
  if_neg (Nat.not_le.2 h)

theorem restartJob_no_retry (st fault : Nat) (h : j.retries ≤ j.used) :
    restartJob s j st fault = endJob s j st (faultDetail j) fault :=
  if_pos h

/-! ### The stall limit -/

/-- The counter has passed its limit, and nothing excuses the stall. -/
theorem execStallLimitExpiry_past_limit (hj : s.job q i = some j) (hacc : accepting s = true) (hrun : j.phase = .running)
    (hwait : j.waitPage = none) (hlim : j.progressAt + j.stall < s.now) (hfrozen : instState s j.inst ≠ 3)
    (hstill : standsStill s j = true) :
    execStallLimitExpiry q i s = .next (restartJob (s.addSat (PACE_LATE.stalls j.lane) 1) j 0x41 0) := by
  simp only [execStallLimitExpiry, hj, hacc, hrun, hwait, hlim, hfrozen, hstill, Option.isNone_none, ne_eq, not_false_eq_true,
    decide_true, Bool.and_self, if_true]

/-- Any one of the four excuses is enough (R300, R544). -/
theorem execStallLimitExpiry_excused (hj : s.job q i = some j)
    (h : s.now ≤ j.progressAt + j.stall ∨ j.waitPage.isSome = true ∨ instState s j.inst = 3 ∨ standsStill s j = false) :
    execStallLimitExpiry q i s = .next s := by
  simp only [execStallLimitExpiry, hj, Bool.and_eq_true, decide_eq_true_eq]
  refine congrArg _ (if_neg ?_)
  rintro ⟨⟨⟨⟨-, hwait⟩, hlim⟩, hfrozen⟩, hstill⟩
  rcases h with h | h | h | h
  · exact Nat.not_lt.2 h hlim
  · rw [Option.isNone_iff_eq_none] at hwait
    rw [hwait] at h
    cases h
  · exact hfrozen h
  · exact ne_true_of_eq_false h hstill

/-- Kernels without a Sorrel engine show their progress in their own commands. -/
theorem standsStill_of_no_engine (h : j.kind = .run ∨ j.kind = .gfx) : standsStill s j = true := by
  rcases h with h | h <;> simp only [standsStill, h]

/-! ### The staging grant -/

section
variable {va : Nat} (hj : s.job q i = some j) (hacc : accepting s = true) (hwait : j.waitPage = some va)
include hj hacc hwait

theorem execStagingPageGrant_fits (hfits : ckptFits s j 1 = true) : execStagingPageGrant q i s =
    .next (s.setJob { j with waitPage := none, progressAt := j.progressAt + (s.now - j.readyAt) }) := by
  simp only [execStagingPageGrant, hj, hacc, hwait, hfits, Bool.not_true, Bool.false_eq_true, if_false, if_true]

/-- No other job holds a page of the lane, so none can become free. -/
theorem execStagingPageGrant_never (hfits : ckptFits s j 1 = false) (hheld : ckptHeld s j.lane j.q j.idx = 0) :
    execStagingPageGrant q i s = .next (endJob s j 0x40 (faultDetail j) va) := by
  simp only [execStagingPageGrant, hj, hacc, hwait, hfits, hheld, Bool.not_true, Bool.false_eq_true, if_false, if_true]

end
end

/-- Settles O36: a stall by whether something excuses it, then by the retries left; a waiting master by whether a page fits.
That an engine stands still only where its accesses are held is assumption 139. -/
theorem stalledAndFaultedJobsRestartOrEnd : Obligations.StalledAndFaultedJobsRestartOrEnd := by
  refine ⟨?_, fun _ _ _ _ => execStallLimitExpiry_excused, fun _ _ => standsStill_of_no_engine, ?_⟩
  · intro q i s j hj hacc hrun hwait hlim hfrozen hstill
    have restarts := execStallLimitExpiry_past_limit hj hacc hrun hwait hlim hfrozen hstill
    exact ⟨fun h => restarts.trans (congrArg _ (restartJob_retry _ _ h)),
      fun h => restarts.trans (congrArg _ (restartJob_no_retry _ _ h))⟩
  · exact fun q i va s j hj hacc hwait => ⟨execStagingPageGrant_fits hj hacc hwait, execStagingPageGrant_never hj hacc hwait⟩

end Sys2Proof.Machine
end

section
/-! SUPPORT. JOB_COMMIT, one step a command (R545 to R548). -/

namespace Sys2Proof.Machine

theorem execJobCommit_admitted {q i : Nat} {bad : List Nat} {s t : State} {j : Job} (hj : s.job q i = some j)
    (hacc : accepting s = true) (ha : Admitted (.job q i) (fun u => commitStep u j bad) s t) :
    execJobCommit q i bad s = .next t := by
  simp only [execJobCommit, hj, hacc, if_true, paceAct_admitted ha]

section
variable {bad : List Nat} {s : State} {j : Job}

theorem commitStep_seals (hphase : j.phase = .ended) (hcommits : jobCommits s j = true) (hturn : maySeal s j = true) :
    commitStep s j bad = sealJob s j := by
  simp only [commitStep, hphase, hcommits, hturn, Bool.and_self, if_true]

/-- A job that does not commit, or whose turn has not come (R547), stays as it is. -/
theorem commitStep_not_due (hphase : j.phase = .ended) (h : jobCommits s j = false ∨ maySeal s j = false) :
    commitStep s j bad = s := by
  have hno : (jobCommits s j && maySeal s j) = false := Bool.and_eq_false_iff.2 h
  simp only [commitStep, hphase, hno, Bool.false_eq_true, if_false]

theorem commitStep_copies (hphase : j.phase = .sealed) (hcopied : j.copied = false) :
    commitStep s j bad = copyJob s j bad := by
  simp only [commitStep, hphase, hcopied, Bool.not_false, if_true]

theorem commitStep_next_side (hphase : j.phase = .sealed) (hcopied : j.copied = true) (hmore : j.sidesDone < j.sides.length) :
    commitStep s j bad = nextSide s j := by
  simp only [commitStep, hphase, hcopied, Bool.not_true, Bool.false_eq_true, if_false, if_pos hmore]

theorem commitStep_closes (hphase : j.phase = .sealed) (hcopied : j.copied = true) (hdone : j.sides.length ≤ j.sidesDone) :
    commitStep s j bad = endJob s j j.status 0 0 := by
  simp only [commitStep, hphase, hcopied, Bool.not_true, Bool.false_eq_true, if_false, if_neg (Nat.not_lt.2 hdone)]

end

/-- Settles O37: the step is admitted by the pacers; which step it is follows from the phase of the job, then from what is
already copied and handed over. One step a command is assumption 54. -/
theorem jobCommitGoesStepByStep : Obligations.JobCommitGoesStepByStep :=
  ⟨fun _ _ _ _ _ _ => execJobCommit_admitted,
   fun _ _ _ => ⟨commitStep_seals, commitStep_not_due, commitStep_copies, commitStep_next_side, commitStep_closes⟩⟩

end Sys2Proof.Machine
end

section
/-! SUPPORT. Telemetry, droop, thermal levels and multichip rounds (R488, R494, R496, R497, R506, R507); pacer windows and
urgency (R281, R287, R410). -/

namespace Sys2Proof.Machine

section
variable {s : State}

/-! ### Samples and regulators -/

theorem execTelemetrySample_due {rs : List (Option (Nat × Nat))} (hruns : tsuquelRuns s = true) (hclk : s.clk.running = true)
    (hdue : s.pwr.sampleAt + 12500 ≤ s.now) : execTelemetrySample rs s = .next (sample s rs) :=
  congrArg _ (if_pos ⟨hruns, hclk, .inr hdue⟩)

/-- Once a sample has been taken, the next waits for its tick. -/
theorem execTelemetrySample_early {rs : List (Option (Nat × Nat))} (hfirst : s.pwr.sampleAt ≠ 0)
    (hearly : s.now < s.pwr.sampleAt + 12500) : execTelemetrySample rs s = .next s :=
  congrArg _ (if_neg fun h => h.2.2.elim hfirst (Nat.not_le.2 hearly))

theorem execStatusWordPoll_running {f : Nat} (hruns : tsuquelRuns s = true) : execStatusWordPoll f s =
    .next (s.setF PWR_STATUS.fault (orN (s.getF PWR_STATUS.fault) (f % 32))) :=
  congrArg _ (if_pos hruns)

/-! ### Droop -/

theorem execDroopTrip_counts {d : Nat} {t : State} (hd : d < 6) (hmain : mainReleased s = true)
    (ht : t = s.addSat PWR_OVR_DROOP.n 1) (hnew : bitB s.pwr.droop d = false) :
    execDroopTrip d s = .next { t with pwr := { t.pwr with droop := putBits t.pwr.droop d 1 1 } } := by
  subst ht
  exact congrArg _ (if_pos ⟨hd, hmain, hnew⟩)

/-- A detector that has tripped already counts nothing. -/
theorem execDroopTrip_again {d : Nat} (hset : bitB s.pwr.droop d = true) : execDroopTrip d s = .next s :=
  congrArg _ (if_neg fun h => ne_true_of_eq_false h.2.2 hset)

theorem execDroopRelease_tripped {d : Nat} (hset : bitB s.pwr.droop d = true) :
    execDroopRelease d s = .next { s with pwr := { s.pwr with droop := putBits s.pwr.droop d 1 0 } } :=
  congrArg _ (if_pos hset)

/-! ### Thermal levels -/

theorem execThermalRead_some {ts : List (Option Nat)} (hsage : s.boot.sage ≠ .held) (hmode : s.clk.mode ≠ .off)
    (hclk : s.clk.running = true) (hl : readTemps s ts ≠ []) :
    execThermalRead ts s = .next (thermLevels (tempsPut s (readTemps s ts)) (readTemps s ts)) :=
  congrArg _ ((if_pos ⟨hsage, hmode, hclk⟩).trans (if_neg fun h => hl (List.isEmpty_iff.1 h)))

/-- At or above the limit the warn throttle moves down, each 100,000 ticks. -/
theorem execWarnThrottleStep_hot (hruns : tsuquelRuns s = true)
    (hhot : s.getF PWR_THERM_CFG.warn ≤ s.getF PWR_THERM_STATUS.hottest) : execWarnThrottleStep s =
      .next (if s.pwr.warnAt + 100000 ≤ s.now then warnMove s (ceilDown s) else s) := by
  simp only [execWarnThrottleStep, hruns, Bool.not_true, Bool.false_eq_true, if_false, if_pos hhot]

theorem execWarnThrottleStep_cool (hruns : tsuquelRuns s = true)
    (hcool : s.getF PWR_THERM_STATUS.hottest + 5 ≤ s.getF PWR_THERM_CFG.warn) (hdue : s.pwr.warnAt + 1000000 ≤ s.now)
    (hceil : (s.dom 4).warnCeil ≠ 8 ∨ (s.dom 7).warnCeil ≠ 8) : execWarnThrottleStep s = .next (warnMove s ceilUp) := by
  have hbelow : ¬ s.getF PWR_THERM_CFG.warn ≤ s.getF PWR_THERM_STATUS.hottest := by omega
  simp only [execWarnThrottleStep, hruns, Bool.not_true, Bool.false_eq_true, if_false, if_neg hbelow]
  exact congrArg _ (if_pos ⟨hcool, hdue, hceil⟩)

/-! ### Multichip rounds -/

/-- With no claim and no donation of its own, the package only looks for the missing rounds of three periods (R506). -/
theorem execMultiRoundTimeout_no_shift (hmode : s.getF PWR_MULTI_CFG.mode ≠ 0) (hruns : tsuquelRuns s = true)
    (hclaim : s.flag PWR_MULTI_STATUS.claim = false) (hgift : s.pwr.donation = 0) : execMultiRoundTimeout s =
      .next (if 2 * s.pwr.roundAt + 6 * s.getF RING_TS_PERIOD.ticks ≤ 2 * s.now then
        multiSingle (s.setF PWR_MULTI_STATUS.joined 0) else s) := by
  simp only [execMultiRoundTimeout, hmode, hruns, hclaim, hgift, Bool.and_false, Bool.true_eq_false, Bool.false_eq_true, ne_eq,
    not_true, false_and, or_self, if_false, decide_eq_true_eq]

/-! ### Pacer windows and urgency -/

theorem execPacerWindowBoundary_crossed {b : Nat} {t u : State} (hmain : mainReleased s = true) (hclk : s.clk.running = true)
    (hwindow : s.pace.window < s.nowAt 11 / 1000)
    (ht : t = (List.range 8).foldl (fun t c => t.setF (PACE_SHARED_COUNT.n c) 0) ((List.range 64).foldl
      (fun t k => t.setF (PACE_COUNT.n k) 0) (((s.pace.held.map fun k => k / 8).eraseDups).foldl
        (fun t l => t.addSat (PACE_HOLDS.n l) 1) s)))
    (hu : u = (List.range 2).foldl (fun t e => adaptEngine t e (bitB b e) (((List.range 2).map (engineHeld s)).getD e false)
      (((List.range 2).map (ctxMax s)).getD e 64))
      (applyNext { t with pace := { t.pace with held := [], overran := [], window := t.nowAt 11 / 1000 } })) :
    execPacerWindowBoundary b s = .next (pump u) := by
  subst ht hu
  exact congrArg _ (if_pos ⟨hmain, hclk, hwindow⟩)

section
variable {k f : Nat}

theorem execUrgRise_higher (hk : k < 8) (hmain : mainReleased s = true) (h : urgLevel s k < urgOf s k f) :
    execUrgRise k f s = .next (pump (setUrg s k (urgOf s k f))) :=
  congrArg _ (if_pos ⟨hk, hmain, h⟩)

theorem execUrgFall_lower (hk : k < 8) (hmain : mainReleased s = true) (h : urgOf s k f < urgLevel s k) :
    execUrgFall k f s = .next (setUrg s k (urgOf s k f)) :=
  congrArg _ (if_pos ⟨hk, hmain, h⟩)

theorem execUrgRise_not_higher (h : urgOf s k f ≤ urgLevel s k) : execUrgRise k f s = .next s :=
  congrArg _ (if_neg fun hc => Nat.not_lt.2 h hc.2.2)

end
end

/-- Settles O60: each clause is the rule of its command; the warn throttle by how hot it is, then by its tick, and a partner by
whether its rounds have stayed away. -/
theorem telemetryAndPacersAct : Obligations.TelemetryAndPacersAct := by
  refine ⟨fun _ _ hruns hclk => ⟨execTelemetrySample_due hruns hclk, execTelemetrySample_early⟩,
    fun _ _ => execStatusWordPoll_running, ?_, ?_, ?_, ?_, fun _ _ _ _ => execPacerWindowBoundary_crossed, ?_⟩
  · exact fun d s t hd hmain ht => ⟨execDroopTrip_counts hd hmain ht,
      fun hset => ⟨execDroopTrip_again hset, execDroopRelease_tripped hset⟩⟩
  · rintro ts s _ hsage hmode hclk rfl hl
    exact execThermalRead_some hsage hmode hclk hl
  · intro s hruns
    exact ⟨fun hhot hdue => (execWarnThrottleStep_hot hruns hhot).trans (congrArg _ (if_pos hdue)),
      fun hhot hearly => (execWarnThrottleStep_hot hruns hhot).trans (congrArg _ (if_neg (Nat.not_le.2 hearly))),
      execWarnThrottleStep_cool hruns⟩
  · intro s hmode hruns hclaim hgift
    have rounds := execMultiRoundTimeout_no_shift hmode hruns hclaim hgift
    exact ⟨fun hgone => rounds.trans (congrArg _ (if_pos hgone)),
      fun hcame => rounds.trans (congrArg _ (if_neg (Nat.not_le.2 hcame)))⟩
  · exact fun k f s hk hmain => ⟨execUrgRise_higher hk hmain, execUrgFall_lower hk hmain, execUrgRise_not_higher⟩

end Sys2Proof.Machine
end

section
/-! SUPPORT. The load/store slot of a tile, the end of a weight load and the landing of a copy (R318 to R324, R337, R349). -/

namespace Sys2Proof.Machine

section
variable {s : State} {t w : Nat} {r : TileRec} {j : Job}

/-! ### Loads and stores -/

theorem lsFn_vld {m : Nat} (h : opOf w = 0x01) : lsFn s t m r w = [.vreg (lsD w) (lanesOf (ldLocal s t (lsAddr r w) 256))] := by
  simp only [lsFn, h]

theorem lsFn_vst {m : Nat} (h : opOf w = 0x02) : lsFn s t m r w = [.mem (lsAddr r w) (bytesOf (vreg r (lsD w)))] := by
  simp only [lsFn, h]

theorem lsFn_sld {m : Nat} (h : opOf w = 0x03) : lsFn s t m r w = [.sreg (lsD w) (leNat (ldLocal s t (lsAddr r w) 8))] := by
  simp only [lsFn, h]

theorem lsFn_sst {m : Nat} (h : opOf w = 0x04) : lsFn s t m r w = [.mem (lsAddr r w) (leBytes 8 (sreg r (lsD w)))] := by
  simp only [lsFn, h]

theorem lsFn_wld {m : Nat} (h : opOf w = 0x08) : lsFn s t m r w = [.weights (lsW w) m (lsAddr r w)] := by simp only [lsFn, h]

/-- A load whose lines hold no poison leaves its one write to the bundle. -/
theorem lsAccess_load {op n : Nat} {ws : List SlotWrite} (hi : issue s t 0 op = some (r, j, w))
    (hws : opOf w = op → lsFn s t 0 r w = ws) (ha : localOk (lsAddr r w) n n = true)
    (hp : pairPoison s j t (lsAddr r w) n = none) :
    lsAccess s t op n true = slotDone (tileEnergy s j t 4 (max 1 (n / 64))) t 0 j ws .step := by
  simp only [lsAccess, hi, ha, hp, hws (issue_opOf hi), Bool.not_true, Bool.false_eq_true, if_false, if_true]

/-- A store reads no line and meets no poison. -/
theorem lsAccess_store {op n : Nat} {ws : List SlotWrite} (hi : issue s t 0 op = some (r, j, w))
    (hws : opOf w = op → lsFn s t 0 r w = ws) (ha : localOk (lsAddr r w) n n = true) :
    lsAccess s t op n false = slotDone (tileEnergy s j t 4 (max 1 (n / 64))) t 0 j ws .step := by
  simp only [lsAccess, hi, ha, hws (issue_opOf hi), Bool.not_true, Bool.false_eq_true, if_false]

theorem lsAccess_misplaced {op n : Nat} {rd : Bool} (hi : issue s t 0 op = some (r, j, w))
    (ha : localOk (lsAddr r w) n n = false) : lsAccess s t op n rd = tileFault s t 2 := by
  simp only [lsAccess, hi, ha, Bool.not_false, if_true]

/-! ### Weight loads -/

theorem execWld_issued (hi : issue s t 0 0x08 = some (r, j, w)) (hread : matrixReads r (lsW w) = false)
    (hload : weightLoading r (lsW w) = false)
    (ha : localOk (lsAddr r w) (blockLen (mxMode (mxWord (bundleAt r r.pc)))) 64 = true) : execWld t s = .next
      (slotDone (tileEnergy s j t 4 (blockLen (mxMode (mxWord (bundleAt r r.pc))) / 64)) t 0 j
        [.weights (lsW w) (mxMode (mxWord (bundleAt r r.pc))) (lsAddr r w)] .step) := by
  simp only [execWld, hi, hread, hload, ha, lsFn_wld (issue_opOf hi), Bool.or_self, Bool.not_true, Bool.false_eq_true, if_false]

/-- A block that passes its loader's checks fills its buffer, in both tiles of a pair (R337, R348). -/
theorem execWldComplete_fills {mode a pc : Nat} {id : Nat × Nat}
    (hl : (s.tile t).loading.find? (fun e => decide (e.1 = w)) = some (w, mode, a, pc)) (hid : (s.tile t).job = some id)
    (hj : s.job id.1 id.2 = some j) (hacc : accepting s = true) (hclk : gated s 4 = false)
    (hread : matrixReads (s.tile t) w = false) (hp : pairPoison s j t a (blockLen mode) = none)
    (hblock : mode = 1 → mmqBlockOk (ldLocal s t a (blockLen mode)) = true) :
    execWldComplete t w s = .next ((tilePair s j.lane t).foldl (fun u k => weightsIn u k w) s) := by
  have passes : (decide (mode = 1) && !mmqBlockOk (ldLocal s t a (blockLen mode))) = false := by
    simpa only [Bool.and_eq_false_imp, decide_eq_true_eq, Bool.not_eq_false'] using hblock
  simp only [execWldComplete, hl, hid, hj, hacc, hclk, hread, hp, passes, Bool.not_true, Bool.or_self, Bool.false_eq_true,
    if_false]

theorem weightsIn_loading {mode a pc : Nat}
    (hl : (s.tile t).loading.find? (fun e => decide (e.1 = w)) = some (w, mode, a, pc)) :
    weightsIn s t w = s.setTile t { s.tile t with
      weights := tabPut (fun _ => ⟨3, []⟩) (s.tile t).weights w ⟨mode, ldLocal s t a (blockLen mode)⟩,
      loading := (s.tile t).loading.filter fun e => decide (e.1 ≠ w) } := by
  simp only [weightsIn, hl]

/-! ### The issue of a copy -/

/-- A wrong length, or a misaligned offset in the Bay range, is tile fault kind 8 (R321). -/
theorem copyIssue_malformed {op : Nat} {load : Bool} (hi : issue s t 0 op = some (r, j, w))
    (hform : sreg r (lsSc w) < 64 ∨ 1048576 < sreg r (lsSc w) ∨ sreg r (lsSc w) % 64 ≠ 0 ∨
      (lsCls w = 1 ∧ sreg r (lsSb w) % 64 ≠ 0)) : copyIssue s t op load = tileFault s t 8 := by
  have malformed : sreg r (lsSc w) < 64 ∨ 1048576 < sreg r (lsSc w) ∨ sreg r (lsSc w) % 64 ≠ 0 ∨
      (if lsCls w = 2 then sreg r (lsSb w) % 2 ^ 22 else sreg r (lsSb w)) % 64 ≠ 0 := by
    refine hform.imp_right (.imp_right (.imp_right ?_))
    rintro ⟨hcls, hoff⟩
    rwa [if_neg (by rw [hcls]; decide)]
  simp only [copyIssue, hi, if_pos malformed]

/-- A copy may go: its length and its local range obey their rules, and its token has room (R321, R324). -/
structure CopyFits (r : TileRec) (w : Nat) : Prop where
  long : 64 ≤ sreg r (lsSc w)
  short : sreg r (lsSc w) ≤ 1048576
  lines : sreg r (lsSc w) % 64 = 0
  inside : localOk (lsAddr r w) (sreg r (lsSc w)) 64 = true
  room : token r (lsTok w) < 255

theorem CopyFits.wellFormed {off : Nat} (h : CopyFits r w) (hoff : off % 64 = 0) :
    ¬(sreg r (lsSc w) < 64 ∨ 1048576 < sreg r (lsSc w) ∨ sreg r (lsSc w) % 64 ≠ 0 ∨ off % 64 ≠ 0) := by
  have long := h.long
  have short := h.short
  have lines := h.lines
  omega

theorem CopyFits.not_full (h : CopyFits r w) : ¬255 ≤ token r (lsTok w) := Nat.not_le.2 h.room

section
variable {op : Nat} {load : Bool} (hi : issue s t 0 op = some (r, j, w)) (hfits : CopyFits r w)
include hi hfits

/-- A copy with another tile of the kernel (R322). -/
theorem copyIssue_peer (hcls : lsCls w = 2) (hoff : sreg r (lsSb w) % 2 ^ 22 % 64 = 0)
    (hpeer : bits (sreg r (lsSb w)) 32 16 < leAt (kernelDesc j j.kernel) 1 1)
    (hin : sreg r (lsSb w) % 2 ^ 22 + sreg r (lsSc w) ≤ 0x400000) : copyIssue s t op load = slotDone s t 0 j
      [.copy ⟨0, load, [⟨tileBase (j.bind.getD (bits (sreg r (lsSb w)) 32 16) 0) + sreg r (lsSb w) % 2 ^ 22, 0,
        sreg r (lsSc w), true⟩], lsAddr r w, lsTok w, false, 0⟩] .step := by
  simp only [copyIssue, hi, hcls, if_true, if_neg (hfits.wellFormed hoff), hfits.inside, Bool.not_true, Bool.false_eq_true,
    if_false, true_and, if_neg (Nat.not_le.2 hpeer), if_neg (Nat.not_lt.2 hin), if_neg hfits.not_full]

/-- A copy with the lane's Bay range. -/
theorem copyIssue_bay {l : LaneRec} (hcls : lsCls w = 1) (hoff : sreg r (lsSb w) % 64 = 0) (hlane : s.lane j.lane = some l)
    (hin : sreg r (lsSb w) + sreg r (lsSc w) ≤ 0x100000 * l.bayLen) : copyIssue s t op load = slotDone s t 0 j
      [.copy ⟨0, load, [⟨0x40000000 + 0x100000 * l.bayBase + sreg r (lsSb w), 0, sreg r (lsSc w), true⟩], lsAddr r w, lsTok w,
        false, 0x40000000 + 0x100000 * l.bayBase + sreg r (lsSb w)⟩] .step := by
  have other : ¬(1 : Nat) = 2 := by decide
  simp only [copyIssue, hi, hcls, other, if_neg (hfits.wellFormed hoff), hfits.inside, Bool.not_true, Bool.false_eq_true,
    if_false, if_true, false_and, if_neg hfits.not_full, hlane, if_neg (Nat.not_lt.2 hin)]

/-- A copy with a buffer whose descriptor allows it and whose pages all translate; a load, and a store to a buffer that is not
in place, are staged (R323, R541). -/
theorem copyIssue_buffer {u : State} {ls : List (Land × Nat)} (hcls : lsCls w = 0) (hoff : sreg r (lsSb w) % 64 = 0)
    (hin : sreg r (lsSb w) + sreg r (lsSc w) ≤ (bufDesc s j (lsBuf w)).2.1)
    (hallowed : bitB (bufDesc s j (lsBuf w)).2.2 (if load then 0 else 1) = true)
    (hx : xlateAll (tileWho s j t) (!load)
      (pageSegs (((bufDesc s j (lsBuf w)).1 + sreg r (lsSb w)) % 2 ^ 64) (sreg r (lsSc w))) s = (u, .ok ls)) :
    copyIssue s t op load = slotDone u t 0 j [.copy ⟨0, load, landPieces ls, lsAddr r w, lsTok w,
      load || !bitB (bufDesc s j (lsBuf w)).2.2 0, ((bufDesc s j (lsBuf w)).1 + sreg r (lsSb w)) % 2 ^ 64⟩] .step := by
  have notPeer : ¬(0 : Nat) = 2 := by decide
  have notBay : ¬(0 : Nat) = 1 := by decide
  simp only [copyIssue, hi, hcls, notPeer, notBay, if_neg (hfits.wellFormed hoff), hfits.inside, Bool.not_true,
    Bool.false_eq_true, if_false, false_and, if_neg hfits.not_full, hallowed, or_false, if_neg (Nat.not_lt.2 hin), hx]

end

end

/-! ### The landing of a copy -/

section
variable {s : State} {t n : Nat} {c : Copy} {id : Nat × Nat} {j : Job} (hc : (s.tile t).copies[n]? = some c)
  (hid : (s.tile t).job = some id) (hj : s.job id.1 id.2 = some j) (hacc : accepting s = true) (hrun : j.phase = .running)
  (hpace : paceHolds s (.copy t c.num) = false)
include hc hid hj hacc hrun hpace

/-- What a load lands is found once its accesses have been made. -/
theorem execCopyLand_load {x : State × List Byte} (hload : c.load = true) (hp : piecesPoison s j c.staged c.remote = none)
    (hx : x = copyRead j c.staged c.remote (copyTouch s j (tileWho s j t) false c.remote)) :
    execCopyLand t n s = .next (copyDone (stLocal x.1 j.lane t c.local_ x.2) t n c j) := by
  simp only [execCopyLand, hc, hid, hj, hacc, hrun, hpace, hload, hp, hx, Bool.not_true, ne_eq, not_true, decide_false,
    Bool.or_self, Bool.false_eq_true, if_false, if_true]

theorem execCopyLand_store (hstore : c.load = false) (hstaged : c.staged = false)
    (hp : localPoison s t c.local_ ((c.remote.map Piece.len).foldl (· + ·) 0) = none) :
    execCopyLand t n s = .next (copyDone (copyWrite (copyTouch s j (tileWho s j t) true c.remote) j c.remote
      (ldLocal s t c.local_ ((c.remote.map Piece.len).foldl (· + ·) 0))) t n c j) := by
  simp only [execCopyLand, hc, hid, hj, hacc, hrun, hpace, hstore, hstaged, hp, Bool.not_true, Bool.not_false, ne_eq, not_true,
    decide_false, Bool.or_self, Bool.false_eq_true, if_false, if_true]

/-- A staged store goes to its job's staging pages, where those it needs fit (R323, R544). -/
theorem execCopyLand_staged_store {k : Job} (hstore : c.load = false) (hstaged : c.staged = true)
    (hp : localPoison s t c.local_ ((c.remote.map Piece.len).foldl (· + ·) 0) = none)
    (hfits : ckptFits s j (copyNewPages j c.remote) = true)
    (hk : (copyTouch s j (tileWho s j t) true c.remote).job j.q j.idx = some k) :
    execCopyLand t n s = .next (copyDone ((copyTouch s j (tileWho s j t) true c.remote).setJob
      { stagePieces (copyTouch s j (tileWho s j t) true c.remote) c.remote
          (ldLocal s t c.local_ ((c.remote.map Piece.len).foldl (· + ·) 0)) k with waitPage := none }) t n c j) := by
  simp only [execCopyLand, hc, hid, hj, hacc, hrun, hpace, hstore, hstaged, hp, hfits, hk, Bool.not_true, ne_eq, not_true,
    decide_false, Bool.or_self, Bool.false_eq_true, if_false, if_true]

end

/-- Settles O47: loads and stores by their address, a weight load by its buffer, a copy by its form and then by the class of its
other side; a landing by its direction and whether it is staged. -/
theorem tileLoadStoreSlotActs : Obligations.TileLoadStoreSlotActs := by
  refine ⟨?_, ?_, ?_, ?_, ?_, ?_, fun _ _ _ _ _ _ => weightsIn_loading, ?_, ?_⟩
  · exact fun t w s r j hi => ⟨fun ha hp => congrArg _ (lsAccess_load hi lsFn_vld ha hp),
      fun ha => congrArg _ (lsAccess_misplaced hi ha)⟩
  · exact fun t w s r j hi ha => congrArg _ (lsAccess_store hi lsFn_vst ha)
  · exact fun t w s r j hi ha hp => congrArg _ (lsAccess_load hi lsFn_sld ha hp)
  · exact fun t w s r j hi ha => congrArg _ (lsAccess_store hi lsFn_sst ha)
  · rintro t w _ s r j hi hread hload rfl ha
    exact execWld_issued hi hread hload ha
  · exact fun t w mode a pc s j id => execWldComplete_fills
  · rintro load t w _ _ s r j hi rfl rfl
    have issues : exec (if load then .xld t else .xst t) s = .next (copyIssue s t (if load then 0x10 else 0x11) load) := by
      cases load <;> rfl
    rw [issues]
    refine ⟨fun hform => congrArg _ (copyIssue_malformed hi hform), fun hlong hshort hlines hlocal hroom => ?_⟩
    have fits : CopyFits r w := ⟨hlong, hshort, hlines, hlocal, hroom⟩
    refine ⟨fun hcls hoff hpeer hin => congrArg _ (copyIssue_peer hi fits hcls hoff hpeer hin), ?_, ?_⟩
    · rintro l _ hcls hoff hlane hin rfl
      exact congrArg _ (copyIssue_bay hi fits hcls hoff hlane hin)
    · rintro u ls _ hcls hoff rfl hin hallowed hx
      exact congrArg _ (copyIssue_buffer hi fits hcls hoff hin hallowed hx)
  · intro t n s c id j hc hid hj hacc hrun hpace
    refine ⟨fun x => execCopyLand_load hc hid hj hacc hrun hpace, ?_, ?_⟩
    · rintro _ hstore hstaged rfl hp
      exact execCopyLand_store hc hid hj hacc hrun hpace hstore hstaged hp
    · rintro _ _ k hstore hstaged rfl hp hfits rfl hk
      exact execCopyLand_staged_store hc hid hj hacc hrun hpace hstore hstaged hp hfits hk

end Sys2Proof.Machine
end

section
/-! SUPPORT. The matrix slot of a tile and the end of its operation (R325, R329 to R335, R337). -/

namespace Sys2Proof.Machine

section
variable {s : State} {t w : Nat} {r : TileRec} {j : Job}

/-! ### MMT and MPOOL -/

/-- A feeder descriptor and a weight buffer suit an MMT (R325): the element format, the weights and the pixels are of its mode. -/
structure SuitsMmt (r : TileRec) (w : Nat) (d : List Byte) : Prop where
  elem : elemOk (mxMode w) (fdElem d) = true
  weights : (wbuf r (mxW w)).mode = 3 ∨ (wbuf r (mxW w)).mode = mxMode w
  inside : pixFit d (pixLen (fdElem d) (mxMode w)) = true
  pitch : pixLen (fdElem d) (mxMode w) ≤ fdPixPitch d

/-- A feeder that is set and whose rows fit in the accumulator file passes the check of an operation's rows. -/
theorem feeder_rows_fit {d : List Byte} (hset : d ≠ []) (hrows : mxRow w + feederRows d ≤ 512) :
    (d.isEmpty || decide (512 < mxRow w + feederRows d)) = false := by
  rw [List.isEmpty_eq_false_iff.2 hset, decide_eq_false (Nat.not_lt.2 hrows), Bool.or_self]

theorem feeder_rows_misfit {d : List Byte} (h : d = [] ∨ 512 < mxRow w + feederRows d) :
    (d.isEmpty || decide (512 < mxRow w + feederRows d)) = true := by
  rwa [Bool.or_eq_true, List.isEmpty_iff, decide_eq_true_eq]

theorem execMmt_starts (hi : issue s t 1 0x01 = some (r, j, w)) (hidle : r.matrix = none)
    (hloaded : weightLoading r (mxW w) = false) (hset : feeder r (mxF w) ≠ [])
    (hrows : mxRow w + feederRows (feeder r (mxF w)) ≤ 512) (hsuits : SuitsMmt r w (feeder r (mxF w))) :
    execMmt t s = .next (slotDone s t 1 j [.matrix ⟨w, feeder r (mxF w)⟩] .step) := by
  have weights : (decide ((wbuf r (mxW w)).mode ≠ 3) && decide ((wbuf r (mxW w)).mode ≠ mxMode w)) = false := by
    simpa only [Bool.and_eq_false_iff, decide_eq_false_iff_not, not_not] using hsuits.weights
  simp only [execMmt, hi, hidle, hloaded, feeder_rows_fit hset hrows, hsuits.elem, weights, hsuits.inside,
    decide_eq_false (Nat.not_lt.2 hsuits.pitch), Option.isSome_none, Bool.not_true, Bool.or_self, Bool.false_eq_true, if_false]

theorem execMmt_rows_misfit (hi : issue s t 1 0x01 = some (r, j, w)) (hidle : r.matrix = none)
    (hloaded : weightLoading r (mxW w) = false)
    (h : feeder r (mxF w) = [] ∨ 512 < mxRow w + feederRows (feeder r (mxF w))) : execMmt t s = .next (tileFault s t 5) := by
  simp only [execMmt, hi, hidle, hloaded, feeder_rows_misfit h, Option.isSome_none, Bool.true_or, Bool.or_self,
    Bool.false_eq_true, if_false, if_true]

theorem execMpool_starts (hi : issue s t 1 0x02 = some (r, j, w)) (hidle : r.matrix = none) (hset : feeder r (mxF w) ≠ [])
    (hrows : mxRow w + feederRows (feeder r (mxF w)) ≤ 512) :
    execMpool t s = .next (slotDone s t 1 j [.matrix ⟨w, feeder r (mxF w)⟩] .step) := by
  simp only [execMpool, hi, hidle, feeder_rows_fit hset hrows, Option.isSome_none, Bool.false_eq_true, if_false]

theorem execMpool_rows_misfit (hi : issue s t 1 0x02 = some (r, j, w)) (hidle : r.matrix = none)
    (h : feeder r (mxF w) = [] ∨ 512 < mxRow w + feederRows (feeder r (mxF w))) : execMpool t s = .next (tileFault s t 5) := by
  simp only [execMpool, hi, hidle, feeder_rows_misfit h, Option.isSome_none, Bool.false_eq_true, if_false, if_true]

end

/-! ### The end of an operation -/

theorem matrixLands_busy {s : State} {t : Nat} {m : MatOp} (hm : (s.tile t).matrix = some m) : matrixLands s t =
    ((s.setTile t { s.tile t with
      acc := (matrixRows s t (s.tile t) m).foldl (fun a e => putLanes a e.1 (e.2.map Prod.fst)) (s.tile t).acc,
      matrix := none }).addSat (TILE_SAT.n t)
        (((matrixRows s t (s.tile t) m).map fun e => (e.2.map Prod.snd).foldl (· + ·) 0).foldl (· + ·) 0)).addSat
          (TILE_EMPTY_WIN.n t) (emptyWindows m) := by
  simp only [matrixLands, hm]

section
variable {s : State} {t : Nat} {m : MatOp} {id : Nat × Nat} {j : Job} (hm : (s.tile t).matrix = some m)
  (hid : (s.tile t).job = some id) (hj : s.job id.1 id.2 = some j) (hacc : accepting s = true) (hclk : gated s 4 = false)
  (hclean : (matrixPixels m).findSome? (fun a => pairPoison s j t a
    (pixLen (fdElem m.feeder) (if opOf m.word = 1 then mxMode m.word else 0))) = none)
include hm hid hj hacc hclk hclean

theorem execMatrixOpEnd_pair_differs (hpair : lanePaired s j.lane = true) (hrows : matrixGives s t ≠ matrixGives s (t + 1)) :
    execMatrixOpEnd t s = .next (pairFault ((tilePair s j.lane t).foldl matrixLands s) t) := by
  simp only [execMatrixOpEnd, hm, hid, hj, hacc, hclk, hclean, Bool.not_true, Bool.or_self, Bool.false_eq_true, if_false,
    if_pos (And.intro hpair hrows)]

/-- A single tile, or a pair whose rows agree: the pixels read are counted, and the products of an MMT in its mode (R509). -/
theorem execMatrixOpEnd_agrees {v : State} (hrows : lanePaired s j.lane = false ∨ matrixGives s t = matrixGives s (t + 1))
    (hv : v = endGoes (tileEnergy ((tilePair s j.lane t).foldl matrixLands s) j t 4 ((matrixPixels m).length *
      (pixLen (fdElem m.feeder) (if opOf m.word = 1 then mxMode m.word else 0) / 64))) t j.lane) :
    execMatrixOpEnd t s = .next (if opOf m.word = 1 then
      tileEnergy v j t (mxMode m.word) (feederRows m.feeder * (if mxMode m.word = 2 then 4 else 1)) else v) := by
  have agrees : ¬(lanePaired s j.lane = true ∧ matrixGives s t ≠ matrixGives s (t + 1)) :=
    fun h => hrows.elim (ne_false_of_eq_true h.1) h.2
  simp only [execMatrixOpEnd, hm, hid, hj, hacc, hclk, hclean, Bool.not_true, Bool.or_self, Bool.false_eq_true, if_false,
    if_neg agrees, hv]

end

/-- Settles O48: a start by its feeder, and of MMT by whether pixels and weights suit the mode; an end by whether the pair's rows
agree, then by the operation. -/
theorem tileMatrixSlotActs : Obligations.TileMatrixSlotActs := by
  refine ⟨?_, ?_, ?_, ?_⟩
  · rintro t w s r j _ hi hidle hloaded rfl
    exact ⟨fun hset hrows he hw hp hpitch => execMmt_starts hi hidle hloaded hset hrows ⟨he, hw, hp, hpitch⟩,
      execMmt_rows_misfit hi hidle hloaded⟩
  · rintro t w s r j _ hi hidle rfl
    exact ⟨execMpool_starts hi hidle, execMpool_rows_misfit hi hidle⟩
  · rintro t s m _ hm rfl
    exact matrixLands_busy hm
  · rintro t s _ v m id j _ hm hid hj hacc hclk rfl hclean rfl hv
    refine ⟨execMatrixOpEnd_pair_differs hm hid hj hacc hclk hclean, fun hrows => ?_⟩
    have ends := execMatrixOpEnd_agrees hm hid hj hacc hclk hclean hrows hv
    exact ⟨fun hop => ends.trans (by rw [if_neg hop]), fun hop => ends.trans (by rw [if_pos hop])⟩

end Sys2Proof.Machine
end

section
/-! SUPPORT. The vector slot of a tile (R318, R326, R353 to R357). -/

namespace Sys2Proof.Machine

/-! ### The writes of each operation -/

section
variable {r : TileRec} {w : Nat}

theorem vxFn_vadd (h : opOf w = 0x01) : vxFn r w = vxArith (· + ·) Num.add r w := by simp only [vxFn, h]

theorem vxFn_vsub (h : opOf w = 0x02) : vxFn r w = vxArith (· - ·) (fun a b => a.add b.neg) r w := by simp only [vxFn, h]

theorem vxFn_vmul (h : opOf w = 0x03) : vxFn r w = vxArith (· * ·) Num.mul r w := by simp only [vxFn, h]

theorem vxFn_vfma (h : opOf w = 0x04) : vxFn r w = toVd w (List.zipWith (fun p c => toF32 (p.add (f32 c)))
    (List.zipWith (fun a b => (f32 a).mul (f32 b)) (vreg r (vxVa w)) (vreg r (vxVb w))) (vreg r (vxVc w))) := by
  simp only [vxFn, h]

theorem vxFn_vmax (h : opOf w = 0x05) : vxFn r w = toVd w (vx2 laneMax r w) := by simp only [vxFn, h]

theorem vxFn_vmin (h : opOf w = 0x06) : vxFn r w = toVd w (vx2 laneMin r w) := by simp only [vxFn, h]

theorem vxFn_vabs (h : opOf w = 0x07) : vxFn r w = vxAbs r w := by simp only [vxFn, h]

theorem vxFn_vshr (h : opOf w = 0x08) : vxFn r w =
    toVd w (vx1 (fun a => toBits 32 (shrRne (sext 32 a) (bits (vxImm w) 0 5))) r w) := by
  simp only [vxFn, h]

theorem vxFn_vclamp (h : opOf w = 0x09) : vxFn r w =
    toVd w (List.zipWith (laneMin (vxTy w)) (vx2 laneMax r w) (vreg r (vxVc w))) := by
  simp only [vxFn, h]

theorem vxFn_vcmp (h : opOf w = 0x0A) : vxFn r w = toVd w (vx2 (laneCmp (bits (vxImm w) 0 3)) r w) := by simp only [vxFn, h]

theorem vxFn_vsel (h : opOf w = 0x0B) : vxFn r w = toVd w (List.zipWith
    (fun (p : Nat × Nat) c => if c = 0 then p.2 else p.1) ((vreg r (vxVa w)).zip (vreg r (vxVb w))) (vreg r (vxVc w))) := by
  simp only [vxFn, h]

theorem vxFn_vperm (h : opOf w = 0x0C) : vxFn r w =
    toVd w ((vreg r (vxVb w)).map fun i => (vreg r (vxVa w)).getD (i % 64) 0) := by
  simp only [vxFn, h]

theorem vxFn_vred (h : opOf w = 0x0D) : vxFn r w = vxRed r w := by simp only [vxFn, h]

theorem vxFn_vbcst (h : opOf w = 0x0E) : vxFn r w = toVd w (List.replicate 64 (sreg r (vxVa w) % 2 ^ 32)) := by
  simp only [vxFn, h]

theorem vxFn_vexp2 (h : opOf w = 0x10) : vxFn r w = toVd w (vx1 (fun a => exp2Num 0x10 a (f32 a)) r w) := by
  simp only [vxFn, h]

theorem vxFn_vrcp (h : opOf w = 0x11) : vxFn r w = toVd w (vx1 (rcpF32 0x11) r w) := by simp only [vxFn, h]

theorem vxFn_vrsqrt (h : opOf w = 0x12) : vxFn r w = toVd w (vx1 (rsqrtF32 0x12) r w) := by simp only [vxFn, h]

theorem vxFn_vacc (h : opOf w = 0x18) : vxFn r w =
    toVd w (accRow r (vxRow w)) ++ (if vxClr w then [.acc (vxRow w) (List.replicate 64 0)] else []) := by
  simp only [vxFn, h]

theorem vxFn_vcvt (h : opOf w = 0x19) : vxFn r w = cvtWrites r w := by simp only [vxFn, h]

theorem vxFn_vmovs (h : opOf w = 0x1A) : vxFn r w =
    [.sreg (vxVd w) (toBits 64 (sext 32 ((vreg r (vxVa w)).getD (bits (vxImm w) 0 6) 0)))] := by
  simp only [vxFn, h]

/-- The saturation of a VRED counts once, and only for an INT32 sum (R326). -/
theorem vxRed_writes (r : TileRec) (w : Nat) : vxRed r w =
    toVd w (redLane (vxTy w) (bits (vxImm w) 0 1) (vreg r (vxVa w)) :: List.replicate 63 0) ++
      (if vxTy w = 0 ∧ bits (vxImm w) 0 1 = 0 then
        [.sat (if satS 32 (((vreg r (vxVa w)).map (sext 32)).foldl (· + ·) 0) ≠
          ((vreg r (vxVa w)).map (sext 32)).foldl (· + ·) 0 then 1 else 0)] else []) := by
  simp only [vxRed, b2n_decide]

end

/-! ### The slot -/

section
variable {s : State} {t op w : Nat} {r : TileRec} {j : Job}

/-- A vector operation that may issue counts one vector event and leaves the writes of its code to the bundle. -/
theorem vxOp_issued {ws : List SlotWrite} (hi : issue s t 2 op = some (r, j, w)) (hws : opOf w = op → vxFn r w = ws) :
    (.next (vxOp s t op) : Res) = .next (slotDone (tileEnergy s j t 3 1) t 2 j ws .step) := by
  simp only [vxOp, hi, hws (issue_opOf hi)]

/-- VACC goes on where no matrix operation writes its row (R329). -/
theorem execVacc_row_free (hi : issue s t 2 0x18 = some (r, j, w)) (hrow : matrixWrites r (vxRow w) = false) :
    execVacc t s = .next (vxOp s t 0x18) := by
  simp only [execVacc, hi, hrow, Bool.false_eq_true, if_false]

theorem execVacc_row_written (hi : issue s t 2 0x18 = some (r, j, w)) (hrow : matrixWrites r (vxRow w) = true) :
    execVacc t s = .next s := by
  simp only [execVacc, hi, hrow, if_true]

end

/-- Settles O49: every operation is the slot's one shape with the writes of its own code; VACC by whether its row is being
written. -/
theorem tileVectorSlotActs : Obligations.TileVectorSlotActs := by
  rintro t w s r j _ rfl
  exact ⟨(vxOp_issued · vxFn_vadd), (vxOp_issued · vxFn_vsub), (vxOp_issued · vxFn_vmul), (vxOp_issued · vxFn_vfma),
    (vxOp_issued · vxFn_vmax), (vxOp_issued · vxFn_vmin), (vxOp_issued · vxFn_vabs), (vxOp_issued · vxFn_vshr),
    (vxOp_issued · vxFn_vclamp), (vxOp_issued · vxFn_vcmp), (vxOp_issued · vxFn_vsel), (vxOp_issued · vxFn_vperm),
    (vxOp_issued · fun h => (vxFn_vred h).trans (vxRed_writes r w)), (vxOp_issued · vxFn_vbcst), (vxOp_issued · vxFn_vexp2),
    (vxOp_issued · vxFn_vrcp), (vxOp_issued · vxFn_vrsqrt),
    fun hi hrow => (execVacc_row_free hi hrow).trans (vxOp_issued hi vxFn_vacc), execVacc_row_written,
    (vxOp_issued · vxFn_vcvt), (vxOp_issued · vxFn_vmovs)⟩

end Sys2Proof.Machine
end

section
/-! SUPPORT. The control slot of a tile, its waits and barriers, reserved encodings and pair mismatches (R317, R318, R327, R328,
R331, R338, R339). -/

namespace Sys2Proof.Machine

/-! ### The writes and the control effect of each operation -/

section
variable {s : State} {t w : Nat} {r : TileRec}

theorem ctFn_saddi (h : opOf w = 0x01) : ctFn s t r w =
    ([.sreg (ctSd w) (toBits 64 ((sreg r (ctSa w) : Int) + sext 16 (ctImm w)))], .step) := by
  simp only [ctFn, h]

theorem ctFn_slui (h : opOf w = 0x02) : ctFn s t r w =
    ([.sreg (ctSd w) (toBits 64 (sext 32 (ctImm w * 2 ^ 16)))], .step) := by
  simp only [ctFn, h]

theorem ctFn_salu (h : opOf w = 0x03) : ctFn s t r w =
    ([.sreg (ctSd w) (salu (bits (ctImm w) 5 5) (sreg r (ctSa w)) (sreg r (bits (ctImm w) 0 5)) % 2 ^ 64)], .step) := by
  simp only [ctFn, h]

theorem ctFn_loop (h : opOf w = 0x08) : ctFn s t r w = ([], .loop (ctImm w) (sreg r (ctSa w))) := by simp only [ctFn, h]

theorem ctFn_bnz (h : opOf w = 0x09) : ctFn s t r w = ([], if sreg r (ctSa w) ≠ 0 then jumpTo r w else .step) := by
  simp only [ctFn, h]

theorem ctFn_jmp (h : opOf w = 0x0A) : ctFn s t r w = ([], jumpTo r w) := by simp only [ctFn, h]

theorem ctFn_fset (h : opOf w = 0x10) : ctFn s t r w =
    ([.feeder (bits w 6 2) (ldLocal s t (sreg r (ctSa w)) 64)], .step) := by
  simp only [ctFn, h]

theorem ctFn_end (h : opOf w = 0x13) : ctFn s t r w = ([], .stop) := by simp only [ctFn, h]

end

section
variable {s : State} {t w : Nat} {r : TileRec} {j : Job}

/-! ### The slot -/

/-- A control operation that may issue and has no wait leaves its writes and its control effect to the bundle. -/
theorem ctOp_issued {op : Nat} {ws : List SlotWrite} {c : CtlOp} (hi : issue s t 3 op = some (r, j, w))
    (hf : opOf w = op → ctFn s t r w = (ws, c)) : (.next (ctOp s t op) : Res) = .next (slotDone s t 3 j ws c) := by
  simp only [ctOp, hi, hf (issue_opOf hi)]

theorem execTileFset_valid (hi : issue s t 3 0x10 = some (r, j, w)) (ha : localOk (sreg r (ctSa w)) 64 64 = true)
    (hp : pairPoison s j t (sreg r (ctSa w)) 64 = none) (hd : feederOk (ldLocal s t (sreg r (ctSa w)) 64) = true) :
    execTileFset t s = .next (slotDone (tileEnergy s j t 4 1) t 3 j
      [.feeder (bits w 6 2) (ldLocal s t (sreg r (ctSa w)) 64)] .step) := by
  simp only [execTileFset, hi, ha, hp, hd, ctFn_fset (issue_opOf hi), Bool.not_true, Bool.false_eq_true, if_false, if_true]

/-- A descriptor that breaks its rules is tile fault kind 5 (R331). -/
theorem execTileFset_invalid (hi : issue s t 3 0x10 = some (r, j, w)) (ha : localOk (sreg r (ctSa w)) 64 64 = true)
    (hp : pairPoison s j t (sreg r (ctSa w)) 64 = none) (hd : feederOk (ldLocal s t (sreg r (ctSa w)) 64) = false) :
    execTileFset t s = .next (tileFault s t 5) := by
  simp only [execTileFset, hi, ha, hp, hd, Bool.not_true, Bool.false_eq_true, if_false]

theorem execTileWaitt_clear (hi : issue s t 3 0x11 = some (r, j, w)) (hclear : tokensClear r (ctImm w) = true) :
    execTileWaitt t s = .next (slotDone s t 3 j [] .step) := by
  simp only [execTileWaitt, hi, hclear, if_true]

theorem execTileWaitt_waits (hi : issue s t 3 0x11 = some (r, j, w)) (hset : tokensClear r (ctImm w) = false) :
    execTileWaitt t s = .next (s.setTile t { r with wait := some (.tokens (ctImm w)) }) := by
  simp only [execTileWaitt, hi, hset, Bool.false_eq_true, if_false]

theorem execTileBar_waits (hi : issue s t 3 0x12 = some (r, j, w)) :
    execTileBar t s = .next (s.setTile t { r with wait := some .bar }) := by
  simp only [execTileBar, hi]

theorem execTileNop_issued {k : Nat} (hi : issue s t k 0 = some (r, j, w)) :
    execTileNop t k s = .next (slotDone s t k j [] .step) := by
  simp only [execTileNop, hi]

/-! ### Releases and faults -/

theorem execTileWaittRelease_clear {m : Nat} (hw : (s.tile t).wait = some (.tokens m)) (hacc : accepting s = true)
    (hclear : tokensClear (s.tile t) m = true) : execTileWaittRelease t s = .next (releaseWait s t) := by
  simp only [execTileWaittRelease, hw, hacc, hclear, Bool.and_self, if_true]

theorem execTileBarRelease_ready {id : Nat × Nat} (hid : (s.tile t).job = some id) (hj : s.job id.1 id.2 = some j)
    (hacc : accepting s = true) (hw : (s.tile t).wait = some .bar) (hready : barReady s j = true) :
    execTileBarRelease t s = .next
      (((kernelTiles s j).filter fun k => decide ((s.tile k).wait = some .bar)).foldl releaseWait s) := by
  simp only [execTileBarRelease, hid, hj, hacc, hw, hready, decide_true, Bool.and_self, if_true]

/-- A reserved encoding at a running tile's own bundle is tile fault kind 1 (R317). -/
theorem execIllegalBundle_reserved {id : Nat × Nat} (hid : (s.tile t).job = some id) (hj : s.job id.1 id.2 = some j)
    (hacc : accepting s = true) (hclk : gated s 4 = false) (hrun : j.phase = .running) (hended : (s.tile t).ended = false)
    (hw : (s.tile t).wait = none) (hpc : (s.tile t).pc * 32 < (s.tile t).code.length)
    (hbad : bundleLegal (bundleAt (s.tile t) (s.tile t).pc) (leAt j.image 6 2) = false) :
    execIllegalBundle t s = .next (tileFault s t 1) := by
  simp only [execIllegalBundle, hid, hj, hacc, hclk, hrun, hended, hw, hpc, hbad, Option.isNone_none, Bool.not_false,
    decide_true, Bool.and_self, if_true]

/-- The pair of the primary `2k` is pair `k`. -/
theorem pairFault_primary (s : State) (k : Nat) :
    pairFault s (2 * k) = tileFault (s.addSat (TILE_PAIR_MISMATCH.n k) 1) (2 * k) 7 := by
  rw [pairFault, Nat.mul_div_cancel_left k Nat.two_pos]

theorem execPairMismatch_running {k : Nat} {id : Nat × Nat} (hk : k < 16) (hid : (s.tile (2 * k)).job = some id)
    (hj : s.job id.1 id.2 = some j) (hacc : accepting s = true) (hpair : lanePaired s j.lane = true)
    (hrun : j.phase = .running) : execPairMismatch k s = .next (pairFault s (2 * k)) := by
  simp only [execPairMismatch, hid, hj, hacc, hk, hpair, hrun, decide_true, Bool.and_self, if_true]

end

/-- Settles O50: an operation without a wait is the slot's one shape with what its code gives; FSET, WAITT, BAR and what ends a
wait or faults a bundle each by its own condition. -/
theorem tileControlSlotActs : Obligations.TileControlSlotActs := by
  refine ⟨?_, fun _ _ _ _ _ _ => execTileNop_issued, fun _ _ _ => execTileWaittRelease_clear, ?_, ?_⟩
  · rintro t w s r j _ rfl
    refine ⟨(ctOp_issued · ctFn_saddi), (ctOp_issued · ctFn_slui), (ctOp_issued · ctFn_salu), (ctOp_issued · ctFn_loop),
      (ctOp_issued · ctFn_bnz), (ctOp_issued · ctFn_jmp), execTileWaitt_clear, execTileWaitt_waits, execTileBar_waits,
      (ctOp_issued · ctFn_end), ?_⟩
    rintro _ hi ha hp rfl
    exact ⟨execTileFset_valid hi ha hp, execTileFset_invalid hi ha hp⟩
  · exact fun t s id j hid hj hacc => ⟨execTileBarRelease_ready hid hj hacc, execIllegalBundle_reserved hid hj hacc⟩
  · intro k s id j hk hid hj hacc hpair hrun
    exact (execPairMismatch_running hk hid hj hacc hpair hrun).trans (congrArg _ (pairFault_primary s k))

end Sys2Proof.Machine
end

section
/-! SUPPORT. The steps of an attention kernel: ATTEND, APPEND and SCATTER (R361, R363, R366, R370, R371, R373, R374, R375,
R381). -/

namespace Sys2Proof.Machine

/-- A part that did not stop hands its value on. -/
@[simp] theorem ARes.andThen_ok {α β : Type} (s : State) (a : α) (f : α → State → ARes β) :
    ARes.andThen (s, .ok a) f = f a s := rfl

section
variable {q i : Nat} {s t : State} {j : Job} {h st : List Byte} {b : Bool}

/-! ### The accesses of a step -/

theorem attnPaced_admitted {o : Nat} {f : State → State} (hat : attnAt s q i o = some (j, h, st, b))
    (ha : Admitted (.job j.q j.idx) f s t) : attnPaced q i o s f = t := by
  simp only [attnPaced, hat, paceAct_admitted ha]

/-! ### ATTEND -/

/-- The fields of an ATTEND that keep their rules: the mask and its window, the number of entries, the reserved bytes and the
offset of the batch table. -/
structure AttendFields (st : List Byte) : Prop where
  mask : leAt st 1 1 ≤ 2
  window : leAt st 1 1 = 2 → leAt st 2 2 ≠ 0
  some_entry : 1 ≤ leAt st 4 2
  entries : leAt st 4 2 ≤ 4096
  reserved : leAt st 6 2 = 0 ∧ leNat (slice st 9 3) = 0 ∧ leNat (slice st 0x10 16) = 0
  aligned : leAt st 0xC 4 % 32 = 0

/-- A step in its rules whose batch table lies in tile memory without poison works through the batch. -/
theorem attendStep_batch {tile : Nat} {u : State} {bs : List Byte} (hat : attnAt s q i 1 = some (j, h, st, true))
    (hf : AttendFields st) (hspan : tileSpan j (leAt st 8 1) (leAt st 0xC 4) (32 * leAt st 4 2) 0 = .ok tile)
    (hread : attnRead j (tileBase tile + leAt st 0xC 4) (32 * leAt st 4 2) s = (u, .ok bs)) :
    attendStep q i s = stepDone (attendBatch j h st bs u).1 j (attendBatch j h st bs u).2 := by
  obtain ⟨hmask, hwindow, hsome, hmany, hreserved, haligned⟩ := hf
  simp only [attendStep, hat, hspan, hread, ARes.andThen_ok]
  refine if_neg ?_
  simp only [Bool.not_true, Bool.false_or, Bool.or_eq_true, Bool.and_eq_true, decide_eq_true_eq]
  omega

/-- An ATTEND without an entry is attention fault kind 1 (R382). -/
theorem attendStep_noEntry (hat : attnAt s q i 1 = some (j, h, st, true)) (hnone : leAt st 4 2 = 0) :
    attendStep q i s = attnFault s j 1 0 := by
  simp only [attendStep, hat, hnone]
  exact if_pos (by simp)

/-! ### APPEND -/

/-- The fields of an APPEND that keep their rules: the sequence, the number of rows, the reserved bytes and the offsets of the
keys and the values. -/
structure AppendFields (h st : List Byte) : Prop where
  seq : leAt st 2 2 < hdNSeq h
  some_row : 1 ≤ leAt st 4 2
  rows : leAt st 4 2 ≤ 4096
  reserved : leAt st 1 1 = 0 ∧ leAt st 6 2 = 0 ∧ leNat (slice st 9 3) = 0 ∧ leNat (slice st 0x14 12) = 0
  aligned : leAt st 0xC 4 % 64 = 0 ∧ leAt st 0x10 4 % 64 = 0

/-- Rows read without poison are appended in order. -/
theorem appendRows_read {tile : Nat} {u v : State} {kb vb : List Byte}
    (hk : attnRead j (tileBase tile + leAt st 0xC 4) (leAt st 4 2 * rowPitch (hdDim h * kvWidth (hdKv h))) s = (u, .ok kb))
    (hv : attnRead j (tileBase tile + leAt st 0x10 4) (leAt st 4 2 * rowPitch (hdDim h * kvWidth (hdKv h))) u = (v, .ok vb)) :
    appendRows j h st tile s = appendAll j h ((List.range (leAt st 4 2)).map fun k =>
      (leAt st 2 2, 0, slice kb (k * rowPitch (hdDim h * kvWidth (hdKv h))) (hdDim h * kvWidth (hdKv h)),
        slice vb (k * rowPitch (hdDim h * kvWidth (hdKv h))) (hdDim h * kvWidth (hdKv h)))) v := by
  simp only [appendRows, hk, hv, ARes.andThen_ok]

/-- A step in its rules whose rows lie in tile memory appends them. -/
theorem appendStep_rows {tile tile' : Nat} (hat : attnAt s q i 2 = some (j, h, st, true)) (hf : AppendFields h st)
    (hk : tileSpan j (leAt st 8 1) (leAt st 0xC 4) (leAt st 4 2 * rowPitch (hdDim h * kvWidth (hdKv h))) 0 = .ok tile)
    (hv : tileSpan j (leAt st 8 1) (leAt st 0x10 4) (leAt st 4 2 * rowPitch (hdDim h * kvWidth (hdKv h))) 0 = .ok tile') :
    appendStep q i s = stepDone (appendRows j h st tile s).1 j (appendRows j h st tile s).2 := by
  obtain ⟨hseq, hsome, hmany, hreserved, haligned⟩ := hf
  simp only [appendStep, hat, hk, hv]
  refine if_neg ?_
  simp only [Bool.not_true, Bool.false_or, Bool.or_eq_true, decide_eq_true_eq]
  omega

/-! ### SCATTER -/

/-- The fields of a SCATTER that keep their rules: the stride, the number of entries, the reserved bytes and the offset of the
list. -/
structure ScatterFields (h st : List Byte) : Prop where
  whole : leAt st 2 2 % kvWidth (hdKv h) = 0
  apart : kvWidth (hdKv h) ≤ leAt st 2 2
  near : leAt st 2 2 ≤ 4096
  some_entry : 1 ≤ leAt st 4 2
  entries : leAt st 4 2 ≤ 4096
  reserved : leAt st 1 1 = 0 ∧ leAt st 6 2 = 0 ∧ leNat (slice st 9 3) = 0 ∧ leNat (slice st 0x10 16) = 0
  aligned : leAt st 0xC 4 % 16 = 0

/-- A step in its rules whose list lies in tile memory without poison places the rows its entries name. -/
theorem scatterStep_list {tile : Nat} {u : State} {bs : List Byte} (hat : attnAt s q i 3 = some (j, h, st, true))
    (hf : ScatterFields h st) (hspan : tileSpan j (leAt st 8 1) (leAt st 0xC 4) (16 * leAt st 4 2) 0 = .ok tile)
    (hread : attnRead j (tileBase tile + leAt st 0xC 4) (16 * leAt st 4 2) s = (u, .ok bs)) :
    scatterStep q i s =
      stepDone (scatterAll j h tile (leAt st 8 1) (leAt st 2 2) ((records 16 bs (leAt st 4 2)).zipIdx) u).1 j
        (scatterAll j h tile (leAt st 8 1) (leAt st 2 2) ((records 16 bs (leAt st 4 2)).zipIdx) u).2 := by
  obtain ⟨hwhole, hapart, hnear, hsome, hmany, hreserved, haligned⟩ := hf
  simp only [scatterStep, hat, hspan, hread, ARes.andThen_ok]
  refine if_neg ?_
  simp only [Bool.not_true, Bool.false_or, Bool.or_eq_true, decide_eq_true_eq]
  omega

end

/-- Settles O51: an admitted step is its operation's own; each operation by the rules of its fields, an ATTEND without an entry by
its fault. -/
theorem attentionStepsAct : Obligations.AttentionStepsAct := by
  refine ⟨?admitted, ?attend, fun _ _ _ _ _ => rfl, fun _ _ _ _ _ _ => attendStep_noEntry, ?append, ?scatter⟩
  case admitted =>
    rintro q i o f s t j h st b hat ha
    refine ⟨?_, ?_, ?_⟩ <;> rintro rfl rfl <;> exact congrArg _ (attnPaced_admitted hat ha)
  case attend =>
    intro q i t s u j h st bs hat hmask hwindow hsome hmany hres6 hres9 hres10 haligned
    exact attendStep_batch hat ⟨hmask, hwindow, hsome, hmany, ⟨hres6, hres9, hres10⟩, haligned⟩
  case append =>
    rintro q i t t' w n s u v j h st kb vb r hat rfl rfl hseq hsome hmany hres1 hres6 hres9 hres14
      hkey hval hkspan hvspan hk hv rfl
    rw [appendStep_rows hat ⟨hseq, hsome, hmany, ⟨hres1, hres6, hres9, hres14⟩, hkey, hval⟩ hkspan hvspan,
      appendRows_read hk hv]
  case scatter =>
    rintro q i t w n s u j h st bs r hat rfl rfl hwhole hapart hnear hsome hmany hres1 hres6 hres9 hres10
      haligned hspan hread rfl
    exact scatterStep_list hat ⟨hwhole, hapart, hnear, hsome, hmany, ⟨hres1, hres6, hres9, hres10⟩, haligned⟩ hspan hread

end Sys2Proof.Machine
end

section
/-! SUPPORT. The scoreboard of direct mode (R422): its 16,384 entries, and a fragment in flight that finds none free. -/

namespace Sys2Proof.Machine

/-! ### The scoreboard -/

section
variable {q i n : Nat} {s : State} {j : Job} {f : Frag}

/-- A fragment that 16,384 pixels precede holds no entry, and stays in flight. -/
theorem execFragmentRetire_no_entry (hj : s.job q i = some j) (hf : j.frags[n]? = some f)
    (hfull : 16384 ≤ ((j.frags.take n).map fun g => (g.x, g.y)).eraseDups.length) : execFragmentRetire q i n s = .next s := by
  have waits : mayRetire j.frags n f = false := by
    rw [mayRetire, decide_eq_false (Nat.not_lt.2 hfull), Bool.and_false]
  simp only [execFragmentRetire, hj, hf, waits, Bool.and_false, Bool.false_eq_true, if_false]

end

/-- Of different entries none is erased. -/
theorem eraseDups_of_nodup {α : Type} [BEq α] [LawfulBEq α] {l : List α} (h : l.Nodup) : l.eraseDups = l := by
  induction l with
  | nil => rfl
  | cons a l ih =>
    obtain ⟨hnew, hrest⟩ := List.nodup_cons.1 h
    have keeps : l.filter (fun b => !b == a) = l :=
      List.filter_eq_self.2 fun b hb => by simpa using fun hba : b = a => hnew (hba ▸ hb)
    rw [List.eraseDups_cons, keeps, ih hrest]

/-- With no target bound a fragment changes nothing. -/
theorem applyFrag_unbound (g : Gio) (f : Frag) : applyFrag GfxState.init g f = g := rfl

theorem sameJob_self (j : Job) : sameJob j.q j.idx j = true := decide_eq_true ⟨rfl, rfl⟩

/-- A job that is written is read back where there was one. -/
theorem State.job_setJob {s : State} {j k : Job} (h : s.job k.q k.idx = some j) : (s.setJob k).job k.q k.idx = some k := by
  have found : (sameJob k.q k.idx ∘ fun x => if sameJob k.q k.idx x then k else x) = sameJob k.q k.idx := by
    funext x
    by_cases hx : sameJob k.q k.idx x = true
    · rw [Function.comp_apply, if_pos hx, hx, sameJob_self]
    · rw [Function.comp_apply, if_neg hx]
  have there : s.jobs.find? (sameJob k.q k.idx) = some j := h
  rw [State.job, State.setJob_jobs, List.find?_map, found, there, Option.map_some, if_pos (List.find?_some there)]

/-- The job after a command of its stream: its fragments are those the command leaves it. -/
theorem gfxNext_frags {q i n : Nat} {s : State} {j : Job} {f : Job → Job} (hj : s.job q i = some j)
    (hf : (f j).q = q ∧ (f j).idx = i) : ((gfxNext s q i n f).job q i).map Job.frags = some (f j).frags := by
  obtain ⟨rfl, rfl⟩ := hf
  have moved := State.job_setJob (k := { f j with pos := j.pos + 16 * n }) hj
  have marked := State.job_setJob (k := { f j with pos := j.pos + 16 * n, progressAt := s.now }) moved
  have next : gfxNext s (f j).q (f j).idx n f = (s.setJob { f j with pos := j.pos + 16 * n }).setJob
      { f j with pos := j.pos + 16 * n, progressAt := s.now } := by
    simp only [gfxNext, progress, hj, moved]
    rfl
  rw [next, marked, Option.map_some]

/-! ### More fragments in flight than entries -/

/-- Fragments of one primitive, each at a pixel of its own, 128 to a row. -/
def crowdFrag (k : Nat) : Frag := ⟨0, k % 128, k / 128, 0, []⟩

def crowd (n : Nat) : List Frag := (List.range n).map crowdFrag

theorem crowd_length (n : Nat) : (crowd n).length = n := by rw [crowd, List.length_map, List.length_range]

theorem crowd_get? {k n : Nat} (h : k < n) : (crowd n)[k]? = some (crowdFrag k) := by
  rw [crowd, List.getElem?_map, List.getElem?_range h, Option.map_some]

theorem crowd_take {k n : Nat} (h : k ≤ n) : (crowd n).take k = crowd k := by
  rw [crowd, ← List.map_take, List.take_range, Nat.min_eq_left h, crowd]

/-- A crowd takes a pixel for each of its fragments. -/
theorem crowd_pixels (n : Nat) : (((crowd n).map fun g => (g.x, g.y)).eraseDups).length = n := by
  have apart : ((crowd n).map fun g => (g.x, g.y)).Nodup := by
    rw [crowd, List.map_map]
    refine List.nodup_range.map fun a b hab => ?_
    obtain ⟨hx, hy⟩ := Prod.mk.inj hab
    simp only [crowdFrag] at hx hy
    omega
  rw [eraseDups_of_nodup apart, List.length_map, crowd_length]

/-- No fragment of a crowd is at the pixel of the one after it. -/
theorem crowd_pixel_new (n : Nat) :
    ((crowd n).any fun g => decide (g.x = (crowdFrag n).x ∧ g.y = (crowdFrag n).y)) = false := by
  rw [crowd, List.any_map, List.any_eq_false]
  intro k hk
  have earlier : k < n := List.mem_range.1 hk
  intro same
  obtain ⟨hx, hy⟩ := of_decide_eq_true same
  simp only [crowdFrag] at hx hy
  omega

/-- A started JOB_GFX in direct mode (R422). -/
def crowdPkt : Pkt :=
  ⟨3, 0, 0, 0x1002, 0, 0, 0, 0, false, 0, 0, leBytes 16 (2 ^ 104), 0, 0, .waiting, none, 0, none⟩

/-- Its job, running with `n` fragments in flight. -/
def crowdJob (n : Nat) : Job := { newJob State.reset crowdPkt .gfx 1 0 with phase := .running, frags := crowd n }

/-- Jobs are accepted, GFX runs, and that job is the only one. -/
def crowdState (n : Nat) : State :=
  { (State.reset.setF CMDP_STATUS.accepting 1).setF (CLK_DOM_STATUS.running 7) 1 with
    pkts := [crowdPkt], jobs := [crowdJob n] }

theorem crowdState_accepting (n : Nat) : accepting (crowdState n) = true := by
  have shown : accepting ((State.reset.setF CMDP_STATUS.accepting 1).setF (CLK_DOM_STATUS.running 7) 1) = true := by decide
  exact shown

theorem crowdState_gfx_runs (n : Nat) : gated (crowdState n) 7 = false := by
  have shown : gated ((State.reset.setF CMDP_STATUS.accepting 1).setF (CLK_DOM_STATUS.running 7) 1) 7 = false := by decide
  exact shown

theorem crowdState_job (n : Nat) : (crowdState n).job 3 0 = some (crowdJob n) := rfl

theorem crowdJob_frags (n : Nat) : (crowdJob n).frags = crowd n := rfl

theorem crowdJob_last (n : Nat) : (crowdJob (n + 1)).frags[n]? = some (crowdFrag n) := crowd_get? n.lt_succ_self

/-- No earlier fragment is at the pixel of the last one. -/
theorem crowdJob_last_alone (n : Nat) :
    (((crowdJob (n + 1)).frags.take n).any fun g => decide (g.x = (crowdFrag n).x ∧ g.y = (crowdFrag n).y)) = false := by
  rw [crowdJob_frags, crowd_take n.le_succ, crowd_pixel_new]

/-- A fragment that does retire leaves the job one fragment fewer. -/
theorem crowdState_retired_frags (n k : Nat) (f : Frag) :
    ((gfxEndCmd (crowdState n) (applyFrag (crowdJob n).gfx (gio (crowdState n) 3 0) f) 0
      fun x => { x with frags := x.frags.eraseIdx k }).job 3 0).map Job.frags = some ((crowd n).eraseIdx k) := by
  have unbound : (crowdJob n).gfx = GfxState.init := rfl
  rw [unbound, applyFrag_unbound]
  exact gfxNext_frags (crowdState_job n) ⟨rfl, rfl⟩

/-- Behind 16,384 pixels the last fragment of a crowd does not retire. -/
theorem crowd_last_stays {n : Nat} (hn : 16384 ≤ n) :
    exec (.fragmentRetire 3 0 n) (crowdState (n + 1)) ≠ .next (gfxEndCmd (crowdState (n + 1))
      (applyFrag (crowdJob (n + 1)).gfx (gio (crowdState (n + 1)) 3 0) (crowdFrag n)) 0
        fun x => { x with frags := x.frags.eraseIdx n }) := by
  intro retired
  have full : 16384 ≤ (((crowdJob (n + 1)).frags.take n).map fun g => (g.x, g.y)).eraseDups.length := by
    rwa [crowdJob_frags, crowd_take n.le_succ, crowd_pixels]
  have stays : exec (.fragmentRetire 3 0 n) (crowdState (n + 1)) = .next (crowdState (n + 1)) :=
    execFragmentRetire_no_entry (crowdState_job _) (crowdJob_last n) full
  have same := congrArg (fun t : State => (t.job 3 0).map Job.frags) (Host.Outcome.next.inj (stays.symm.trans retired))
  rw [crowdState_retired_frags, crowdState_job, Option.map_some, crowdJob_frags] at same
  have lengths := congrArg List.length (Option.some.inj same)
  rw [List.length_eraseIdx_of_lt (by rw [crowd_length]; exact n.lt_succ_self), crowd_length] at lengths
  omega

/-- Refutes O52 by its clause on FRAGMENT_RETIRE, which leaves the scoreboard out: a DRAW in direct mode may put more fragments in
flight than there are entries, and the one behind 16,384 other pixels waits for an entry though no earlier fragment is at its
own (R422). -/
theorem not_graphicsCommandsAct : ¬ Obligations.GraphicsCommandsAct := by
  unfold Obligations.GraphicsCommandsAct
  rintro ⟨-, -, -, -, -, retires, -⟩
  exact crowd_last_stays le_rfl (retires 3 0 16384 (crowdState (16384 + 1)) (crowdJob (16384 + 1)) (crowdFrag 16384)
    (crowdState_job _) (crowdJob_last 16384) (crowdState_accepting _) (crowdState_gfx_runs _) rfl (crowdJob_last_alone 16384))

end Sys2Proof.Machine
end

section
/-! SUPPORT. Vertical blanks, links, underruns and hot-plug detects of the outputs, and the packets and frames of the cameras
(R430, R431, R434, R439 to R441, R564). -/

namespace Sys2Proof.Machine

/-! ### Outputs -/

section
variable {o : Nat} {s : State}

/-- A blank with an output or a packet to serve (R168, R430, R473). -/
theorem execVerticalBlank_served {t u v : State} (ho : o < 4) (hacc : accepting s = true)
    (hwork : outEnabled s o = true ∨ blankPkts s o ≠ [])
    (ht : t = (s.set64 (DISP_VBLANK_LO.lo o) (DISP_VBLANK_HI.hi o) (s.nowAt 8)).setF (DISP_LINE.line o)
      (tmVActive (s.disp o).timing))
    (hu : u = (blankPkts s o).foldl (fun t p => paceAct (.packet p.q p.idx) (fun x => blankPkt o x p) t) t)
    (hv : v = if outEnabled u o ∧ leaving u (u.getF (DISP_OUT_STATE.owner o)) then stopOutput u o else u) :
    execVerticalBlank o s = .next (if outEnabled v o then startFrame v o else v) := by
  subst ht hu hv
  simp only [execVerticalBlank, if_pos (And.intro ho (And.intro hacc hwork)), Bool.and_eq_true]

theorem execDisplayLinkUp_plugged (ho : o < 4) (hen : outEnabled s o = true) (hplug : hotPlug s o = true) :
    execDisplayLinkUp o s = .next (s.setF (DISP_OUT_STATE.link_up o) 1) :=
  congrArg _ (if_pos ⟨ho, hen, hplug⟩)

theorem execDisplayUnderrun_line {line x : Nat} {d : DispRec} {bg : List Nat} (ho : o < 4) (hen : outEnabled s o = true)
    (hd : d = s.disp o) (hline : line < tmVActive d.timing)
    (hbg : bg = (bgOf d.timing).map fun c => roundChannel (tmMax d.timing) (c, 255)) :
    execDisplayUnderrun o line x s = .next (((s.addSat (DISP_UNDERRUN.n o) 1).setF (DISP_LINE.line o) line).setDisp o
      { d with pixels := d.pixels.modify line (cutRow bg x) }) := by
  subst hd hbg
  exact congrArg _ (if_pos ⟨ho, hen, hline⟩)

/-- A pad that is not parking takes the level; an output that has lost its plug shows nothing. -/
theorem execHotPlugDetectChange_sampled {level : Bool} {t : State} (ho : o < 2) (hpark : (s.pad (16 + o)).parking = false)
    (ht : t = if (s.pad (16 + o)).func = 1 then s.setPad (16 + o) { s.pad (16 + o) with level := level, inp := level, pend := [] }
      else padPush s (16 + o) (s.pad (16 + o)) level 0) :
    execHotPlugDetectChange o level s = .next
      (if outEnabled t o && !hotPlug t o then (t.setF (DISP_OUT_STATE.link_up o) 0).setF (DISP_OUT_STATE.showing o) 0 else t) := by
  subst ht
  simp only [execHotPlugDetectChange, if_pos ho, hpark, Bool.false_eq_true, if_false]

end

/-! ### Cameras -/

section
variable {t : Nat} {s : State} (ht : t < 16) (hmain : mainReleased s = true)
include ht hmain

theorem sensPacket_uncorrectable (f : State → State) :
    sensPacket s t .uncorrectable f = s.addSat (SENS_ECC.n (t / 4)) 1 := by
  simp only [sensPacket, Nat.not_le.2 ht, hmain, Bool.not_true, Bool.false_eq_true, or_self, if_false]

theorem sensPacket_clean (f : State → State) :
    sensPacket s t .clean f = if streamOn s t then f s else s.addSat (SENS_DISCARD.n (t / 4)) 1 := by
  simp only [sensPacket, Nat.not_le.2 ht, hmain, Bool.not_true, Bool.false_eq_true, or_self, if_false, reduceCtorEq]

theorem sensPacket_clean_on (f : State → State) (hon : streamOn s t = true) : sensPacket s t .clean f = f s := by
  rw [sensPacket_clean ht hmain, if_pos hon]

/-- An FS ends the frame in progress and starts the next, unless the stream stops at that boundary. -/
theorem frameStart_next {tick : Nat} {u : State} {r : SensRec} (hon : streamOn s t = true) (hu : u = endFrame s t)
    (hstays : streamOn u t = true) (hr : u.sens t = some r) : frameStart t .clean tick s = startSensFrame u t tick r := by
  subst hu
  rw [frameStart, sensPacket_clean_on ht hmain _ hon]
  simp only [hstays, hr, if_true]

theorem frameEnd_ends (hon : streamOn s t = true) : frameEnd t .clean s = endFrame s t :=
  sensPacket_clean_on ht hmain _ hon

section
variable {dt : Nat} {crc : Bool} {kept : Option Nat} {px : List Nat} {r : SensRec} (hon : streamOn s t = true)
  (hr : s.sens t = some r)
include hon hr

theorem lineReceive_other_type (hdt : dt ≠ leAt r.params 2 1) :
    lineReceive t .clean dt crc kept px s = s.addSat (SENS_DISCARD.n (t / 4)) 1 := by
  rw [lineReceive, sensPacket_clean_on ht hmain _ hon]
  simp only [hr, if_pos hdt]

theorem lineReceive_own_type {f : SensFrame} (hdt : dt = leAt r.params 2 1) (hf : r.frame = some f) :
    lineReceive t .clean dt crc kept px s = putLine s t r f crc kept px := by
  rw [lineReceive, sensPacket_clean_on ht hmain _ hon]
  simp only [hr, hf, if_neg (not_not_intro hdt)]

end

/-! ### Late frames (R441) -/

/-- The open frame of a running stream is late more than 100,000,000 ticks after its FS. -/
theorem lateFrame_open {r : SensRec} {f : SensFrame} (hon : streamOn s t = true) (hr : s.sens t = some r)
    (hf : r.frame = some f) : lateFrame s t = if f.time + 100000000 < s.nowAt 9 then some (r, f) else none := by
  rw [lateFrame, if_pos ⟨ht, hmain, hon⟩]
  simp only [hr, hf]

end

/-- Settles O53: each clause is the rule of its command; a camera packet by its header, then by what it finds open; an open frame
by whether it is late. That a whole frame is offered at the blank follows assumptions 78 and 122, and that a lost hot-plug detect
takes link and picture down assumption 79. -/
theorem displayAndSensorEventsAct : Obligations.DisplayAndSensorEventsAct := by
  unfold Obligations.DisplayAndSensorEventsAct
  refine ⟨fun _ _ _ _ _ => execVerticalBlank_served, fun _ _ => execDisplayLinkUp_plugged,
    fun _ _ _ _ _ _ => execDisplayUnderrun_line, fun _ _ _ _ => execHotPlugDetectChange_sampled, ?admitted, ?start, ?ends,
    ?lines, ?discarded, ?timeout⟩
  case admitted =>
    intro t dt ecc crc kept px s u
    exact ⟨fun ha => congrArg _ (paceAct_admitted ha), fun ha => congrArg _ (paceAct_admitted ha),
      fun ha => congrArg _ (paceAct_admitted ha), fun ha => congrArg _ (paceAct_admitted ha)⟩
  case start => exact fun t tick s u r ht hu hon hmain => frameStart_next ht hmain hon hu
  case ends => exact fun t s ht hon hmain => frameEnd_ends ht hmain hon
  case lines =>
    intro t dt crc kept px s r f ht hon hmain hr
    exact ⟨lineReceive_other_type ht hmain hon hr, lineReceive_own_type ht hmain hon hr⟩
  case discarded =>
    refine fun t tick ecc s ht hmain => ⟨sensPacket_uncorrectable ht hmain _, ?_⟩
    rintro hoff rfl
    exact (sensPacket_clean ht hmain _).trans (if_neg (ne_true_of_eq_false hoff))
  case timeout =>
    intro t s r f ht hmain hon hr hf
    have late := lateFrame_open ht hmain hon hr hf
    exact ⟨fun hlate => by simp only [frameTimeout, late, if_pos hlate],
      fun hsoon => by simp only [frameTimeout, late, if_neg (Nat.not_lt.2 hsoon)]⟩

end Sys2Proof.Machine
end

section
/-! SUPPORT. One step of the block: what it answers, and what it leaves as it was. Each command's meaning keeps the waiting
commands, the count of free values and the canonical form; here the dispatch of a command hands that on to the step. -/

namespace Sys2Proof.Machine

/-- Every command keeps what its meaning keeps. -/
theorem exec_keeps {r : State} (c : Instr) (s : State) (h : Keeps r s) : Keeps.R r (exec c s) := by
  cases c with
  | powerOnReset cause => exact execPowerOnReset_keeps cause s h
  | porNRelease start => exact execPorNRelease_keeps start s h
  | sageReset => exact execSageReset_keeps s h
  | groupBRailLoss rail => exact execGroupBRailLoss_keeps rail s h
  | railMonitorTrip rail stamp => exact execRailMonitorTrip_keeps rail stamp s h
  | preTripletCoreFault kind => exact execPreTripletCoreFault_keeps kind s h
  | backoffExpiry xspiError => exact execBackoffExpiry_keeps xspiError s h
  | bootWatchdogExpiry => exact execBootWatchdogExpiry_keeps s h
  | bootAliveWrite m v => exact execBootAliveWrite_keeps m v s h
  | sageResetWrite m v => exact execSageResetWrite_keeps m v s h
  | groupCRailGood rail => exact execGroupCRailGood_keeps rail s h
  | railGoodTimeout => exact execRailGoodTimeout_keeps s h
  | railOffDone below => exact execRailOffDone_keeps below s h
  | mainDieBringUp start => exact execMainDieBringUp_keeps start s h
  | mainStepTimeout => exact execMainStepTimeout_keeps s h
  | injectionWindowEnd test report => exact execInjectionWindowEnd_keeps test report s h
  | jobsAccepted => exact execJobsAccepted_keeps s h
  | sageLinkFlitError failedReplays => exact execSageLinkFlitError_keeps failedReplays s h
  | timeCopyMismatch domain ahead => exact execTimeCopyMismatch_keeps domain ahead s h
  | latchingLoRead m addr => exact execLatchingLoRead_keeps m addr s h
  | timeRateAdjWrite m v => exact execTimeRateAdjWrite_keeps m v s h
  | sweepTimerExpiry => exact execSweepTimerExpiry_keeps s h
  | refreqAssert => exact execRefreqAssert_keeps s h
  | wakeNLatch pin => exact execWakeNLatch_keeps pin s h
  | hostTimerCompare core => exact execHostTimerCompare_keeps core s h
  | pcieWake k => exact execPcieWake_keeps k s h
  | canWakeDetect c => exact execCanWakeDetect_keeps c s h
  | dozeHoldExpiry compares => exact execDozeHoldExpiry_keeps compares s h
  | domainIdleExpiry domain => exact execDomainIdleExpiry_keeps domain s h
  | domainDemand domain => exact execDomainDemand_keeps domain s h
  | tileStepChange => exact execTileStepChange_keeps s h
  | avsSettleExpiry => exact execAvsSettleExpiry_keeps s h
  | dramStepChange => exact execDramStepChange_keeps s h
  | doorbellWrite m q v => exact execDoorbellWrite_keeps m q v s h
  | queueEnable m q v => exact execQueueEnable_keeps m q v s h
  | queueDisable m q v => exact execQueueDisable_keeps m q v s h
  | packetConsume q => exact execPacketConsume_keeps q s h
  | packetStart q idx => exact execPacketStart_keeps q idx s h
  | vlogRdWrite m v => exact execVlogRdWrite_keeps m v s h
  | sysNop q idx => exact execSysNop_keeps q idx s h
  | sysInfo q idx => exact execSysInfo_keeps q idx s h
  | sysTime q idx => exact execSysTime_keeps q idx s h
  | sysSignal q idx => exact execSysSignal_keeps q idx s h
  | sysWait q idx => exact execSysWait_keeps q idx s h
  | waitTimeout q idx => exact execWaitTimeout_keeps q idx s h
  | sysFlashWrite q idx badSector => exact execSysFlashWrite_keeps q idx badSector s h
  | sysFlashCheck q idx xspiError => exact execSysFlashCheck_keeps q idx xspiError s h
  | sysRollback q idx => exact execSysRollback_keeps q idx s h
  | jobRun q idx => exact execJobRun_keeps q idx s h
  | jobSearch q idx => exact execJobSearch_keeps q idx s h
  | jobGfx q idx => exact execJobGfx_keeps q idx s h
  | laneConfig q idx => exact execLaneConfig_keeps q idx s h
  | laneQuery q idx => exact execLaneQuery_keeps q idx s h
  | memRoot q idx => exact execMemRoot_keeps q idx s h
  | memInvalidate q idx => exact execMemInvalidate_keeps q idx s h
  | memCopy q idx => exact execMemCopy_keeps q idx s h
  | memBayLoad q idx => exact execMemBayLoad_keeps q idx s h
  | memPace q idx => exact execMemPace_keeps q idx s h
  | streamSensor q idx => exact execStreamSensor_keeps q idx s h
  | streamDisplay q idx => exact execStreamDisplay_keeps q idx s h
  | streamCanCfg q idx => exact execStreamCanCfg_keeps q idx s h
  | streamCanTx q idx => exact execStreamCanTx_keeps q idx s h
  | streamRouter q idx => exact execStreamRouter_keeps q idx s h
  | streamStop q idx => exact execStreamStop_keeps q idx s h
  | idxCreate q idx => exact execIdxCreate_keeps q idx s h
  | idxBuild q idx => exact execIdxBuild_keeps q idx s h
  | idxInsert q idx => exact execIdxInsert_keeps q idx s h
  | idxDelete q idx => exact execIdxDelete_keeps q idx s h
  | idxPublish q idx => exact execIdxPublish_keeps q idx s h
  | idxWait q idx => exact execIdxWait_keeps q idx s h
  | idxDestroy q idx => exact execIdxDestroy_keeps q idx s h
  | ringConfig q idx => exact execRingConfig_keeps q idx s h
  | ringSweep q idx => exact execRingSweep_keeps q idx s h
  | ringRecollect q idx => exact execRingRecollect_keeps q idx s h
  | ringSend q idx => exact execRingSend_keeps q idx s h
  | ringRecv q idx => exact execRingRecv_keeps q idx s h
  | ringProbe q idx => exact execRingProbe_keeps q idx s h
  | ringParkCfg q idx => exact execRingParkCfg_keeps q idx s h
  | pwrStep q idx => exact execPwrStep_keeps q idx s h
  | pwrCap q idx => exact execPwrCap_keeps q idx s h
  | pwrMulti q idx => exact execPwrMulti_keeps q idx s h
  | pwrPark q idx => exact execPwrPark_keeps q idx s h
  | pwrShutdown q idx => exact execPwrShutdown_keeps q idx s h
  | pwrQuery q idx => exact execPwrQuery_keeps q idx s h
  | safStall q idx => exact execSafStall_keeps q idx s h
  | safPair q idx => exact execSafPair_keeps q idx s h
  | safTest q idx => exact execSafTest_keeps q idx s h
  | safEnter q idx => exact execSafEnter_keeps q idx s h
  | safReport q idx => exact execSafReport_keeps q idx s h
  | instRights q idx => exact execInstRights_keeps q idx s h
  | instQuiesce q idx => exact execInstQuiesce_keeps q idx s h
  | instResume q idx => exact execInstResume_keeps q idx s h
  | instReset q idx => exact execInstReset_keeps q idx s h
  | instFreeze q idx => exact execInstFreeze_keeps q idx s h
  | instSave q idx => exact execInstSave_keeps q idx s h
  | instRestore q idx => exact execInstRestore_keeps q idx s h
  | instThaw q idx => exact execInstThaw_keeps q idx s h
  | instRemove q idx => exact execInstRemove_keeps q idx s h
  | managerWrite m v => exact execManagerWrite_keeps m v s h
  | mboxAddressWrite m inst hi v => exact execMboxAddressWrite_keeps m inst hi v s h
  | ringMgr m inst => exact execRingMgr_keeps m inst s h
  | ringTen m inst => exact execRingTen_keeps m inst s h
  | kernelDispatch => exact execKernelDispatch_keeps s h
  | kernelEnd q idx => exact execKernelEnd_keeps q idx s h
  | stallLimitExpiry q idx => exact execStallLimitExpiry_keeps q idx s h
  | jobCommit q idx bad => exact execJobCommit_keeps q idx bad s h
  | stagingPageGrant q idx => exact execStagingPageGrant_keeps q idx s h
  | poisonRead reader addr err => exact execPoisonRead_keeps reader addr err s h
  | lockstepMismatch => exact execLockstepMismatch_keeps s h
  | heartbeatMiss => exact execHeartbeatMiss_keeps s h
  | tripletDisagreement odd => exact execTripletDisagreement_keeps odd s h
  | tripletResyncDone => exact execTripletResyncDone_keeps s h
  | backgroundTest reports => exact execBackgroundTest_keeps reports s h
  | refclkBad => exact execRefclkBad_keeps s h
  | refclkRecovered => exact execRefclkRecovered_keeps s h
  | pllUnlock pll => exact execPllUnlock_keeps pll s h
  | mainDieNoResponse => exact execMainDieNoResponse_keeps s h
  | duplicateCheckDisagree => exact execDuplicateCheckDisagree_keeps s h
  | sageSramUe => exact execSageSramUe_keeps s h
  | faultNHoldExpiry => exact execFaultNHoldExpiry_keeps s h
  | telemetrySample readings => exact execTelemetrySample_keeps readings s h
  | statusWordPoll faults => exact execStatusWordPoll_keeps faults s h
  | droopTrip detector => exact execDroopTrip_keeps detector s h
  | droopRelease detector => exact execDroopRelease_keeps detector s h
  | thermalRead temps => exact execThermalRead_keeps temps s h
  | warnThrottleStep => exact execWarnThrottleStep_keeps s h
  | multiRoundTimeout => exact execMultiRoundTimeout_keeps s h
  | pacerWindowBoundary busy => exact execPacerWindowBoundary_keeps busy s h
  | urgRise k fill => exact execUrgRise_keeps k fill s h
  | urgFall k fill => exact execUrgFall_keeps k fill s h
  | vld t => exact execVld_keeps t s h
  | vst t => exact execVst_keeps t s h
  | sld t => exact execSld_keeps t s h
  | sst t => exact execSst_keeps t s h
  | wld t => exact execWld_keeps t s h
  | wldComplete t w => exact execWldComplete_keeps t w s h
  | xld t => exact execXld_keeps t s h
  | xst t => exact execXst_keeps t s h
  | copyLand t n => exact execCopyLand_keeps t n s h
  | mmt t => exact execMmt_keeps t s h
  | mpool t => exact execMpool_keeps t s h
  | matrixOpEnd t => exact execMatrixOpEnd_keeps t s h
  | vadd t => exact execVadd_keeps t s h
  | vsub t => exact execVsub_keeps t s h
  | vmul t => exact execVmul_keeps t s h
  | vfma t => exact execVfma_keeps t s h
  | vmax t => exact execVmax_keeps t s h
  | vmin t => exact execVmin_keeps t s h
  | vabs t => exact execVabs_keeps t s h
  | vshr t => exact execVshr_keeps t s h
  | vclamp t => exact execVclamp_keeps t s h
  | vcmp t => exact execVcmp_keeps t s h
  | vsel t => exact execVsel_keeps t s h
  | vperm t => exact execVperm_keeps t s h
  | vred t => exact execVred_keeps t s h
  | vbcst t => exact execVbcst_keeps t s h
  | vexp2 t => exact execVexp2_keeps t s h
  | vrcp t => exact execVrcp_keeps t s h
  | vrsqrt t => exact execVrsqrt_keeps t s h
  | vacc t => exact execVacc_keeps t s h
  | vcvt t => exact execVcvt_keeps t s h
  | vmovs t => exact execVmovs_keeps t s h
  | saddi t => exact execSaddi_keeps t s h
  | slui t => exact execSlui_keeps t s h
  | salu t => exact execSalu_keeps t s h
  | tileLoop t => exact execTileLoop_keeps t s h
  | tileBnz t => exact execTileBnz_keeps t s h
  | tileJmp t => exact execTileJmp_keeps t s h
  | tileFset t => exact execTileFset_keeps t s h
  | tileWaitt t => exact execTileWaitt_keeps t s h
  | tileWaittRelease t => exact execTileWaittRelease_keeps t s h
  | tileBar t => exact execTileBar_keeps t s h
  | tileBarRelease t => exact execTileBarRelease_keeps t s h
  | tileEnd t => exact execTileEnd_keeps t s h
  | tileNop t slot => exact execTileNop_keeps t slot s h
  | illegalBundle t => exact execIllegalBundle_keeps t s h
  | pairMismatch k => exact execPairMismatch_keeps k s h
  | attend q idx => exact execAttend_keeps q idx s h
  | append q idx => exact execAppend_keeps q idx s h
  | scatter q idx => exact execScatter_keeps q idx s h
  | gfxTarget q idx => exact execGfxTarget_keeps q idx s h
  | gfxShader q idx => exact execGfxShader_keeps q idx s h
  | gfxState q idx => exact execGfxState_keeps q idx s h
  | gfxVertex q idx => exact execGfxVertex_keeps q idx s h
  | gfxDraw q idx frags => exact execGfxDraw_keeps q idx frags s h
  | fragmentRetire q idx n => exact execFragmentRetire_keeps q idx n s h
  | gfxClear q idx => exact execGfxClear_keeps q idx s h
  | gfxBins q idx => exact execGfxBins_keeps q idx s h
  | gfxEnd q idx => exact execGfxEnd_keeps q idx s h
  | verticalBlank o => exact execVerticalBlank_keeps o s h
  | displayLinkUp o => exact execDisplayLinkUp_keeps o s h
  | displayUnderrun o line x => exact execDisplayUnderrun_keeps o line x s h
  | sensorFrameStart t ecc => exact execSensorFrameStart_keeps t ecc s h
  | sensorFrameEnd t ecc => exact execSensorFrameEnd_keeps t ecc s h
  | sensorLineReceive t ecc dt crcBad kept pixels => exact execSensorLineReceive_keeps t ecc dt crcBad kept pixels s h
  | sensorFrameTimeout t => exact execSensorFrameTimeout_keeps t s h
  | netTxTailWrite m n v => exact execNetTxTailWrite_keeps m n v s h
  | netRxTailWrite m n v => exact execNetRxTailWrite_keeps m n v s h
  | netFrameTransmit n => exact execNetFrameTransmit_keeps n s h
  | netFrameReceive n fcsOk frame => exact execNetFrameReceive_keeps n fcsOk frame s h
  | canFrameReceive c frame remote esi sof => exact execCanFrameReceive_keeps c frame remote esi sof s h
  | canFrameTransmit c => exact execCanFrameTransmit_keeps c s h
  | canBusOff c => exact execCanBusOff_keeps c s h
  | canBusRecover c => exact execCanBusRecover_keeps c s h
  | pcieInbound k req => exact execPcieInbound_keeps k req s h
  | pcieLinkDown k => exact execPcieLinkDown_keeps k s h
  | pcieLinkUp k width gen => exact execPcieLinkUp_keeps k width gen s h
  | ringTrainingSet p groups => exact execRingTrainingSet_keeps p groups s h
  | ringTrainRestart p => exact execRingTrainRestart_keeps p s h
  | ringPortDown p seen => exact execRingPortDown_keeps p seen s h
  | bypassClose => exact execBypassClose_keeps s h
  | bypassOpen => exact execBypassOpen_keeps s h
  | ringFrameReceive p groups => exact execRingFrameReceive_keeps p groups s h
  | sweepFrame p groups => exact execSweepFrame_keeps p groups s h
  | recollectFrame p groups => exact execRecollectFrame_keeps p groups s h
  | dataFrame p groups => exact execDataFrame_keeps p groups s h
  | batonFrame p groups => exact execBatonFrame_keeps p groups s h
  | probeFrame p groups => exact execProbeFrame_keeps p groups s h
  | wrapFrame p groups => exact execWrapFrame_keeps p groups s h
  | timesyncFrame p groups => exact execTimesyncFrame_keeps p groups s h
  | timesyncPeriod => exact execTimesyncPeriod_keeps s h
  | batonTimeout => exact execBatonTimeout_keeps s h
  | legTimeout => exact execLegTimeout_keeps s h
  | dataRetransmitTimeout dst => exact execDataRetransmitTimeout_keeps dst s h
  | ringSleepSet => exact execRingSleepSet_keeps s h
  | ringSleepWake p relocked => exact execRingSleepWake_keeps p relocked s h
  | ringRelockTimeout p => exact execRingRelockTimeout_keeps p s h
  | pbufRdWrite m v => exact execPbufRdWrite_keeps m v s h
  | qsCountRead m lane slot => exact execQsCountRead_keeps m lane slot s h
  | qsClear m v => exact execQsClear_keeps m v s h
  | padFunctionChange m pad v => exact execPadFunctionChange_keeps m pad v s h
  | padParkEnd pad level => exact execPadParkEnd_keeps pad level s h
  | evtEnableWrite m gen v => exact execEvtEnableWrite_keeps m gen v s h
  | evtPulseStart gen => exact execEvtPulseStart_keeps gen s h
  | evtPulseEnd gen => exact execEvtPulseEnd_keeps gen s h
  | tapExtest => exact execTapExtest_keeps s h
  | tapSamplePreload preload => exact execTapSamplePreload_keeps preload s h
  | tapIdcode => exact execTapIdcode_keeps s h
  | tapClamp => exact execTapClamp_keeps s h
  | tapHighz => exact execTapHighz_keeps s h
  | tapBypass code => exact execTapBypass_keeps code s h
  | tapReset => exact execTapReset_keeps s h
  | lockSet m addr => exact execLockSet_keeps m addr s h
  | registerWrite m addr v => exact execRegisterWrite_keeps m addr v s h
  | slowRisingEdge wakeN gpio => exact execSlowRisingEdge_keeps wakeN gpio s h
  | patrolScrub tile err => exact execPatrolScrub_keeps tile err s h
  | heartbeatIncrement => exact execHeartbeatIncrement_keeps s h
  | hostCoreLoadStore core machine addr len store => exact execHostCoreLoadStore_keeps core machine addr len store s h
  | forbiddenRegisterRead m addr => exact execForbiddenRegisterRead_keeps m addr s h
  | hotPlugDetectChange o level => exact execHotPlugDetectChange_keeps o level s h
  | ethernetLinkChange n up => exact execEthernetLinkChange_keeps n up s h

theorem step_of_pending_nil {s : State} (h : s.pending = []) : step s = .next (idleTick s) := by
  simp only [step, takeCommand, h]

theorem step_of_pending_cons {s : State} {c : Instr} {rest : List Instr} (h : s.pending = c :: rest) :
    step s = exec c { s with pending := rest } := by
  simp only [step, takeCommand, h]

/-- A tick of TIME touches none of the tables and draws no free value. -/
theorem idleTick_keeps (s : State) : Keeps s (idleTick s) := by
  unfold idleTick
  exact Keeps.ite ((Keeps.refl s).same rfl rfl rfl rfl rfl rfl) (.refl s)

/-- A step keeps, from a state that differs from its own in the waiting commands alone. -/
theorem step_keeps {s t : State} (h : step s = .next t) : ∃ rest, Keeps { s with pending := rest } t := by
  cases hp : s.pending with
  | nil =>
    rw [step_of_pending_nil hp] at h
    exact ⟨s.pending, (idleTick_keeps s).toNext t h⟩
  | cons c rest =>
    rw [step_of_pending_cons hp] at h
    exact ⟨rest, exec_keeps c _ (.refl _) t h⟩

/-- Settles O7: every command keeps the canonical form, and so does a tick. -/
theorem everyStepKeepsTheCanonicalForm : Obligations.EveryStepKeepsTheCanonicalForm := by
  intro s t hs h
  obtain ⟨rest, hk⟩ := step_keeps h
  exact hk.inv hs

/-- Settles O4: what every meaning keeps includes the waiting commands. -/
theorem noCommandTouchesTheQueue : Obligations.NoCommandTouchesTheQueue :=
  fun c s t h => (exec_keeps c s (.refl s) t h).pending

/-- Settles O5: what a step keeps includes that the count of free values, which numbers them in their order (assumption 6), does
not fall. -/
theorem noFreeValueIsDrawnTwice : Obligations.NoFreeValueIsDrawnTwice := by
  intro s t h
  obtain ⟨rest, hk⟩ := step_keeps h
  exact hk.free

/-- Destroying an index answers a next state whether or not its packet is there, and whether it waits or begins. -/
theorem execIdxDestroy_next (q idx : Nat) (s : State) : ∃ t, execIdxDestroy q idx s = .next t := by
  unfold execIdxDestroy
  split
  · exact ⟨_, rfl⟩
  · split
    · exact ⟨_, rfl⟩
    · exact carry_next ..

/-- A row that may be met again answers a next state whether or not its packet is there, and whether it waits or begins. -/
theorem longRow_next (q idx code : Nat) (pre : State → Pkt → State × PreFail) (first again : State → Pkt → State) (s : State) :
    ∃ t, longRow q idx code pre first again s = .next t := by
  unfold longRow
  split
  · split
    · exact ⟨_, rfl⟩
    · exact carry_next ..
  · exact ⟨_, rfl⟩

/-- Settles O3: the meaning of every command is written as a next state, but for those that may be met again. -/
theorem everyCommandAnswersANextState : Obligations.EveryCommandAnswersANextState := by
  intro c s
  cases c with
  | idxDestroy q idx => exact execIdxDestroy_next q idx s
  | instQuiesce q idx => exact longRow_next ..
  | instFreeze q idx => exact longRow_next ..
  | instRemove q idx => exact longRow_next ..
  | _ => exact ⟨_, rfl⟩

/-- Settles O1. -/
theorem stepRunsTheFrontCommand : Obligations.StepRunsTheFrontCommand :=
  fun c s rest => step_of_pending_cons (s := { s with pending := c :: rest }) rfl

/-- Settles O2: that an empty queue passes a tick is the model's choice (assumption 1). -/
theorem emptyQueuePassesOneTick : Obligations.EmptyQueuePassesOneTick :=
  fun _ h => step_of_pending_nil h

/-- Settles O6: after reset every one of the four tables is empty. -/
theorem resetIsCanonical : Obligations.ResetIsCanonical := rfl

end Sys2Proof.Machine
end

section
/-! SUPPORT. Bytes stored below LPDDR5X, the entries of the violation log, and packets that end out of order (spec/04, spec/07). -/

namespace Sys2Proof.Machine

/-! ### Stored bytes -/

/-- Below LPDDR5X a piece is held as it is stored; that a whole line loses its poison does not show in its bytes. -/
theorem rdByte_wrSeg_plain (s : State) {g : Nat × Nat × Nat} (slot : Nat) (bs : List Byte) (hg : dramLine g.1 = false) (a : Nat) :
    rdByte (wrSeg s g slot bs) a = rdByte (wrRaw s (64 * g.1 + g.2.1) bs) a := by
  unfold wrSeg
  simp only [hg, Bool.false_and, Bool.false_eq_true, if_false]
  split <;> rfl

theorem rdByte_wrRaw_nil (s : State) (pa a : Nat) : rdByte (wrRaw s pa []) a = rdByte s a :=
  rdByte_wrRaw_out s pa [] (Nat.lt_or_ge a pa)

/-- Bytes stored in two pieces, one behind the other, read as stored in one. -/
theorem rdByte_wrRaw_pieces {s t : State} (hs : Memory.wf s.ms.mem = true) (ht : Memory.wf t.ms.mem = true) (pa l : Nat)
    (bs : List Byte) (hl : l ≤ bs.length) (hst : ∀ a, rdByte t a = rdByte (wrRaw s pa (bs.take l)) a) (a : Nat) :
    rdByte (wrRaw t (pa + l) (bs.drop l)) a = rdByte (wrRaw s pa bs) a := by
  have htake : (bs.take l).length = l := List.length_take_of_le hl
  have hdrop : (bs.drop l).length = bs.length - l := List.length_drop
  by_cases hin : pa ≤ a ∧ a < pa + bs.length
  · obtain ⟨i, rfl⟩ := Nat.exists_eq_add_of_le hin.1
    have hi : i < bs.length := by omega
    rw [rdByte_wrRaw_in hs _ _ hi]
    by_cases hil : i < l
    · rw [rdByte_wrRaw_out _ _ _ (.inl (by omega)), hst, rdByte_wrRaw_in hs _ _ (by omega), List.getElem_take]
    · obtain ⟨j, rfl⟩ := Nat.exists_eq_add_of_le (Nat.not_lt.1 hil)
      rw [← Nat.add_assoc, rdByte_wrRaw_in ht _ _ (by omega), List.getElem_drop]
  · rw [rdByte_wrRaw_out _ _ _ (by omega), hst, rdByte_wrRaw_out _ _ _ (by omega), rdByte_wrRaw_out _ _ _ (by omega)]

/-- With fuel for every line it meets, a store below LPDDR5X piece by piece reads as the bytes held at its address. -/
theorem rdByte_wrSegs_plain (slot : Nat) {f : Nat} {s : State} {pa : Nat} {bs : List Byte} (hs : Memory.wf s.ms.mem = true)
    (hpa : pa + bs.length ≤ 0x800000000) (hf : bs.length = 0 ∨ bs.length + pa % 64 ≤ 64 * f) (a : Nat) :
    rdByte (wrSegs s slot (lineSegsFuel f pa bs.length) bs) a = rdByte (wrRaw s pa bs) a := by
  induction f generalizing s pa bs with
  | zero =>
    obtain rfl : bs = [] := List.length_eq_zero_iff.1 (by omega)
    exact (rdByte_wrRaw_nil s pa a).symm
  | succ f ih =>
    rw [lineSegsFuel]
    split
    next h0 =>
      obtain rfl : bs = [] := List.length_eq_zero_iff.1 h0
      exact (rdByte_wrRaw_nil s pa a).symm
    next h0 =>
      extract_lets l
      have hl : l = min bs.length (64 - pa % 64) := rfl
      clear_value l
      have hline : dramLine (pa / 64) = false := decide_eq_false (by omega)
      have hpiece : ∀ k, rdByte (wrSeg s (pa / 64, pa % 64, l) slot (bs.take l)) k = rdByte (wrRaw s pa (bs.take l)) k := by
        intro k
        rw [rdByte_wrSeg_plain s slot _ hline, Nat.div_add_mod]
      have ht := wrSeg_wf hs (pa / 64, pa % 64, l) slot (bs.take l)
      have hrest : (bs.drop l).length = bs.length - l := List.length_drop
      rw [wrSegs, ← hrest, ih ht (by omega) (by omega)]
      exact rdByte_wrRaw_pieces hs ht pa l bs (by omega) hpiece a

/-- Below LPDDR5X, where no cipher stands between, stored bytes are held as they are. -/
theorem rdByte_wrMem_plain {s : State} (hs : Memory.wf s.ms.mem = true) {pa : Nat} (slot : Nat) {bs : List Byte}
    (hpa : pa + bs.length ≤ 0x800000000) (a : Nat) : rdByte (wrMem s pa slot bs) a = rdByte (wrRaw s pa bs) a :=
  rdByte_wrSegs_plain slot hs hpa (.inr (by omega)) a

/-- Settles O8: a store below LPDDR5X reads as one store of raw bytes, which reads back and leaves the other bytes alone. -/
theorem storedBytesReadBackAndNothingElseMoves : Obligations.StoredBytesReadBackAndNothingElseMoves := by
  intro s pa k bs hi hpa
  obtain ⟨hmem, -⟩ := (Keeps.inv_iff s).1 hi
  have hraw := rdByte_wrMem_plain hmem k hpa
  refine ⟨?_, fun a ha => ?_⟩
  · calc rdRaw (wrMem s pa k bs) pa bs.length
        = rdRaw (wrRaw s pa bs) pa bs.length := List.map_congr_left fun i _ => hraw (pa + i)
      _ = bs := rdRaw_wrRaw_same hmem pa bs
  · rw [hraw, rdByte_wrRaw_out s pa bs ha]

/-! ### The violation log -/

theorem writeWords_regs_wf {s : State} (hs : tabWf regReset s.regs = true) (a : Nat) (ws : List Nat) :
    tabWf regReset (writeWords s a ws).regs = true := by
  induction ws generalizing s a with
  | nil => exact hs
  | cons w ws ih => exact ih (State.wr_wf hs _ _) _

@[simp] theorem writeWords_ms (s : State) (a : Nat) (ws : List Nat) : (writeWords s a ws).ms = s.ms := by
  induction ws generalizing s a with
  | nil => rfl
  | cons w ws ih => exact ih _ _

/-- The words of an entry leave the registers below them alone. -/
theorem rd_writeWords_below (s : State) {a b : Nat} (ws : List Nat) (h : b < a) : (writeWords s a ws).rd b = s.rd b := by
  induction ws generalizing s a with
  | nil => rfl
  | cons w ws ih => exact (ih _ (by omega)).trans (State.rd_wr_ne _ _ (by omega))

theorem rd_writeWords {s : State} (hs : tabWf regReset s.regs = true) (a : Nat) {ws : List Nat} {j : Nat} (hj : j < ws.length) :
    (writeWords s a ws).rd (a + 4 * j) = BitVec.ofNat 32 ws[j] := by
  induction ws generalizing s a j with
  | nil => exact absurd hj (Nat.not_lt_zero _)
  | cons w ws ih =>
    cases j with
    | zero => exact (rd_writeWords_below _ ws (by omega)).trans (State.rd_wr_same hs _ _)
    | succ j =>
      rw [show a + 4 * (j + 1) = a + 4 + 4 * j by omega]
      exact ih (State.wr_wf hs _ _) (a + 4) (Nat.lt_of_succ_lt_succ hj)

/-- The eight words of an entry of the violation log (R139). -/
def vlogWords (s : State) (kind addr master : Nat) (inst : Option Nat) (c : LogCtx) : List Nat :=
  [s.now % 2 ^ 32, s.now / 2 ^ 32, addr % 2 ^ 32, addr / 2 ^ 32,
   master + 2 ^ 16 * (match inst with | some i => i % 16 | none => 0x80) + 2 ^ 24 * kind,
   c.queue + 2 ^ 8 * c.status + 2 ^ 16 * c.opcode, c.seq, s.getF CMDP_VLOG_WR.wr]

/-- The state with the words of an entry written and counted in WR. -/
def vlogWritten (s : State) (kind addr master : Nat) (inst : Option Nat) (c : LogCtx) : State :=
  (writeWords s (CMDP_VLOG.addr (8 * (s.getF CMDP_VLOG_WR.wr % 64))) (vlogWords s kind addr master inst c)).setF
    CMDP_VLOG_WR.wr (s.getF CMDP_VLOG_WR.wr + 1)

/-- An entry is written and counted; where the log was full RD and the count of lost entries move besides. -/
theorem vlog_eq (s : State) (kind addr master : Nat) (inst : Option Nat) (c : LogCtx) : vlog s kind addr master inst c =
    if (s.getF CMDP_VLOG_WR.wr + 2 ^ 32 - s.getF CMDP_VLOG_RD.rd) % 2 ^ 32 = 64 then
      ((vlogWritten s kind addr master inst c).setF CMDP_VLOG_RD.rd (s.getF CMDP_VLOG_RD.rd + 1)).addSat CMDP_VLOG_LOST.lost 1
    else vlogWritten s kind addr master inst c := rfl

theorem vlog_ms (s : State) (kind addr master : Nat) (inst : Option Nat) (c : LogCtx) :
    (vlog s kind addr master inst c).ms = s.ms := by
  rw [vlog_eq]
  split <;> exact writeWords_ms ..

/-- A full log moves RD and the count of lost entries, no other register. -/
theorem rd_vlog (s : State) (kind addr master : Nat) (inst : Option Nat) (c : LogCtx) {a : Nat} (hrd : a ≠ CMDP_VLOG_RD.addr)
    (hlost : a ≠ CMDP_VLOG_LOST.addr) : (vlog s kind addr master inst c).rd a = (vlogWritten s kind addr master inst c).rd a := by
  rw [vlog_eq]
  split
  · rw [State.addSat, State.rd_setF_ne _ _ _ hlost, State.rd_setF_ne _ _ _ hrd]
  · rfl

/-- WR counts the entry. -/
theorem getF_vlog_wr {s : State} (hs : tabWf regReset s.regs = true) (kind addr master : Nat) (inst : Option Nat) (c : LogCtx) :
    (vlog s kind addr master inst c).getF CMDP_VLOG_WR.wr = (s.getF CMDP_VLOG_WR.wr + 1) % 2 ^ 32 := by
  rw [State.getF, rd_vlog _ _ _ _ _ _ (by decide) (by decide)]
  exact State.getF_setF_same (writeWords_regs_wf hs _ _) CMDP_VLOG_WR.wr _ (by decide)

/-- The slot holds the words of the entry. -/
theorem rd_vlog_word {s : State} (hs : tabWf regReset s.regs = true) (kind addr master : Nat) (inst : Option Nat) (c : LogCtx)
    {j : Nat} (hj : j < (vlogWords s kind addr master inst c).length) :
    (vlog s kind addr master inst c).rd (CMDP_VLOG.addr (8 * (s.getF CMDP_VLOG_WR.wr % 64) + j)) =
      BitVec.ofNat 32 (vlogWords s kind addr master inst c)[j] := by
  have habove : CMDP_VLOG_LOST.addr < CMDP_VLOG.addr (8 * (s.getF CMDP_VLOG_WR.wr % 64) + j) := by
    simp only [CMDP_VLOG_LOST.addr, CMDP_VLOG.addr]
    omega
  have hword : CMDP_VLOG.addr (8 * (s.getF CMDP_VLOG_WR.wr % 64) + j) =
      CMDP_VLOG.addr (8 * (s.getF CMDP_VLOG_WR.wr % 64)) + 4 * j := by
    simp only [CMDP_VLOG.addr]
    omega
  have hrd : CMDP_VLOG_RD.addr < CMDP_VLOG_LOST.addr := by decide
  have hwr : CMDP_VLOG_WR.wr.addr < CMDP_VLOG_LOST.addr := by decide
  rw [rd_vlog _ _ _ _ _ _ (hrd.trans habove).ne' habove.ne', vlogWritten, State.rd_setF_ne _ _ _ (hwr.trans habove).ne', hword]
  exact rd_writeWords hs _ hj

/-- Settles O9: the slot lies above RD, WR and the count of lost entries, which alone are written beside it. -/
theorem violationLogEntryIsWrittenWhole : Obligations.ViolationLogEntryIsWrittenWhole := by
  intro s kind addr master inst c hi
  have hs := State.regs_wf_of_inv hi
  refine ⟨getF_vlog_wr hs .., vlog_ms .., ?_⟩
  refine List.ext_getElem (by simp) fun j h1 h2 => ?_
  rw [List.getElem_map, List.getElem_map, List.getElem_range]
  exact rd_vlog_word hs kind addr master inst c (j := j) (by rwa [List.length_map, List.length_range] at h1)

/-! ### Packets that end out of order -/

/-- A packet that is replaced leaves the others of its queue as they are. -/
theorem State.pkt_setPkt_ne (s : State) (p : Pkt) {q idx : Nat} (h : idx ≠ p.idx) : (s.setPkt p).pkt q idx = s.pkt q idx := by
  have hne : ∀ {x : Pkt}, x.idx = p.idx → samePkt q idx x = false := fun hx =>
    decide_eq_false fun ⟨_, he⟩ => h (he.symm.trans hx)
  have hkeep : (samePkt q idx ∘ fun x => if samePkt p.q p.idx x then p else x) = samePkt q idx := by
    funext x
    by_cases hx : samePkt p.q p.idx x = true
    · simp only [Function.comp, if_pos hx, hne rfl, hne (of_decide_eq_true hx).2]
    · simp only [Function.comp, if_neg hx]
  rw [State.pkt, State.setPkt_pkts, List.find?_map, hkeep, State.pkt]
  cases hf : s.pkts.find? (samePkt q idx) with
  | none => rfl
  | some x =>
    have hx : ¬ samePkt p.q p.idx x = true := fun hc =>
      Bool.false_ne_true ((hne (of_decide_eq_true hc).2).symm.trans (List.find?_some hf))
    rw [Option.map_some, if_neg hx]

/-- While the oldest packet without a record has not ended, no record of its queue is due (R133, R135). -/
theorem flush_oldest_open {s : State} {q : Nat} {o : Pkt} (ho : s.pkt q (s.queue q).done = some o) (hopen : o.phase ≠ .ended) :
    flush s q = s := by
  have hone : flushOne s q = s := by
    simp only [flushOne, ho]
    split
    next he _ => exact absurd he hopen
    next => rfl
  simp only [flush, flushFuel, hone, if_true, ite_self]

/-- Settles O10: the packet ends beside the oldest one, which stays the oldest without a record. -/
theorem recordWaitsForEarlierPackets : Obligations.RecordWaitsForEarlierPackets := by
  intro s q idx p o r hp ho hopen hne
  have hsame : samePkt q idx p = true := List.find?_some hp
  obtain ⟨-, hidx⟩ := of_decide_eq_true hsame
  simp only [endPkt, hp]
  refine flush_oldest_open (o := o) ?_ hopen
  exact (State.pkt_setPkt_ne s { p with phase := .ended, reply := some r, out := none } (hidx ▸ hne)).trans ho

end Sys2Proof.Machine
end

section
/-! SUPPORT. What a main-die reset leaves, and with it a failed main-die attempt and the entry into the safe state (R79, R90, R91,
R102, R525). -/

namespace Sys2Proof.Machine

/-! ### What a main-die reset leaves alone -/

/-- TIME, the phases of both start sequences, and the levels of SAFE_STATE_N and DISP_FALLBACK. -/
def dieView (s : State) := (s.clk.time, s.clk.running, s.boot, s.pins.safeState, s.pins.dispFallback)

theorem dieView_eq_iff {s t : State} : dieView t = dieView s ↔ t.clk.time = s.clk.time ∧ t.clk.running = s.clk.running ∧
    t.boot = s.boot ∧ t.pins.safeState = s.pins.safeState ∧ t.pins.dispFallback = s.pins.dispFallback := by
  simp only [dieView, Prod.mk.injEq]

@[simp] theorem dieView_setF (s : State) (f : FRef) (x : Nat) : dieView (s.setF f x) = dieView s := rfl
@[simp] theorem dieView_addSat (s : State) (f : FRef) (n : Nat) : dieView (s.addSat f n) = dieView s := rfl
@[simp] theorem dieView_setDom (s : State) (d : Nat) (x : DomState) : dieView (s.setDom d x) = dieView s := rfl

@[simp] theorem dieView_gateDom (s : State) (d : Nat) : dieView (gateDom s d) = dieView s := by
  simp only [gateDom, apply_ite dieView, view_setStep dieView (fun _ _ _ => rfl), dieView_setF, dieView_setDom, ite_self]

/-- The units of the main die in reset, with its domains gated: the first part of a main-die reset. -/
def unitsStopped (s : State) : State := mainUnitsReset (stopMainDoms { s with regs := resetRegs 0 s.regs })

/-- The last part of a main-die reset: tags, PLLs, generators and pads. -/
def edgesReset (s : State) : State := padsChange (evtQuiet (setPlls (resetTags s) (mainPlls + ppll) false))

theorem mainDieReset_eq (s : State) : mainDieReset s = edgesReset ((unitsStopped s).setF CMDP_STATUS.accepting 0) := rfl

theorem dieView_unitsStopped (s : State) : dieView (unitsStopped s) = dieView s :=
  view_foldl dieView dieView_gateDom _ { s with regs := resetRegs 0 s.regs }

theorem dieView_edgesReset (s : State) : dieView (edgesReset s) = dieView s := by
  have htags : dieView (resetTags s) = dieView s := by
    unfold resetTags
    exact view_foldl dieView (fun t c => dieView_setF t _ _) _ s
  have hevts (t : State) : dieView (evtQuiet t) = dieView t := by
    unfold evtQuiet
    exact view_foldl dieView (fun _ _ => by rfl) _ t
  rw [edgesReset, view_padsChange dieView (fun _ _ _ => rfl), hevts, setPlls, dieView_setF, htags]

theorem dieView_mainDieReset (s : State) : dieView (mainDieReset s) = dieView s := by
  rw [mainDieReset_eq, dieView_edgesReset, dieView_setF, dieView_unitsStopped]

theorem mainDieReset_boot (s : State) : (mainDieReset s).boot = s.boot := by
  obtain ⟨-, -, hboot, -⟩ := dieView_eq_iff.1 (dieView_mainDieReset s)
  exact hboot

theorem mainDieReset_now (s : State) : (mainDieReset s).now = s.now := by
  obtain ⟨htime, -⟩ := dieView_eq_iff.1 (dieView_mainDieReset s)
  exact htime

/-! ### Registers after a main-die reset -/

theorem State.getF_congr {s t : State} {f : FRef} (h : t.rd f.addr = s.rd f.addr) : t.getF f = s.getF f := by
  rw [State.getF, State.getF, h]

theorem rd_ite {c : Prop} [Decidable c] {s t u : State} {a : Nat} (ht : t.rd a = s.rd a) (hu : u.rd a = s.rd a) :
    (if c then t else u).rd a = s.rd a := by
  split <;> assumption

/-- A register no field of which a reset clears reads as before it. -/
theorem tabGet_resetRegs_of_kept {lvl a : Nat} (hkept : ∀ w, regAfterReset lvl a w = w) {b : Option Nat} {t : List (Nat × Word)}
    (ht : tabWfFrom regReset b t = true) : tabGet regReset (resetRegs lvl t) a = tabGet regReset t a := by
  induction t generalizing b with
  | nil => rfl
  | cons e t ih =>
    obtain ⟨-, hne, htail⟩ := (tabWfFrom_cons ..).1 ht
    have ih := ih htail
    simp only [resetRegs, List.filterMap_cons] at ih ⊢
    by_cases ha : a = e.1
    · subst ha
      simp only [hkept, if_neg hne, tabGet_cons, if_true]
    · split
      next => rw [ih, tabGet_cons, if_neg ha]
      next x hx =>
        obtain rfl : (e.1, regAfterReset lvl e.1 e.2) = x := by
          split at hx
          · exact nomatch hx
          · exact Option.some.inj hx
        rw [tabGet_cons, tabGet_cons, if_neg ha, if_neg ha, ih]

theorem rd_setStep (s : State) (d c : Nat) {a : Nat} (h : a ≠ CLK_DOM_STATUS.addr d) : (setStep s d c).rd a = s.rd a := by
  have hrun (t : State) (ht : t.rd a = s.rd a) (x : Nat) : (t.setF (CLK_DOM_STATUS.running d) x).rd a = s.rd a :=
    (t.rd_setF_ne _ _ h).trans ht
  unfold setStep
  extract_lets ms s0 s1
  have h0 : s0.rd a = s.rd a := by
    subst s0
    split <;> rfl
  split
  · exact hrun s0 h0 _
  · rw [State.addSat, State.rd_setF_ne _ _ _ h, State.rd_setF_ne _ _ _ h]
    exact hrun s0 h0 _

theorem rd_gateDom (s : State) (d : Nat) {a : Nat} (h : a ≠ CLK_DOM_STATUS.addr d) : (gateDom s d).rd a = s.rd a := by
  unfold gateDom
  split
  · rfl
  · exact (rd_setStep _ d 7 h).trans (State.rd_setF_ne _ _ _ h)

/-- The domains that a main-die reset gates. -/
def mainDoms : List Nat := [3, 4, 5, 6, 7, 8, 9, 10, 11, 12]

theorem rd_gateDoms {a : Nat} {l : List Nat} (h : ∀ d ∈ l, a ≠ CLK_DOM_STATUS.addr d) (s : State) :
    (l.foldl gateDom s).rd a = s.rd a := by
  induction l generalizing s with
  | nil => rfl
  | cons d l ih =>
    exact (ih (fun e he => h e (List.mem_cons_of_mem d he)) _).trans (rd_gateDom s d (h d List.mem_cons_self))

theorem rd_padsChange (s : State) {a : Nat} (h : a < PAD_PARKING.addr 0) : (padsChange s).rd a = s.rd a := by
  refine view_foldl (fun t => t.rd a) (fun t n => ?_) _ s
  have hne : a ≠ PAD_PARKING.addr (n / 32) := by
    simp only [PAD_PARKING.addr] at h ⊢
    omega
  have hbit (u : State) : (setPadBit u PAD_PARKING.addr n true).rd a = u.rd a := State.rd_wr_ne _ _ hne
  unfold padChange
  extract_lets
  refine rd_ite rfl (rd_ite rfl ?_)
  exact (hbit _).trans rfl

theorem rd_edgesReset (s : State) {a : Nat} (hpad : a < PAD_PARKING.addr 0) (hpll : a ≠ CLK_PLL_STATUS.addr) :
    (edgesReset s).rd a = s.rd a := by
  have htag (c : Nat) : a ≠ SYS_CORE_TAG.addr c := by
    simp only [PAD_PARKING.addr, SYS_CORE_TAG.addr] at hpad ⊢
    omega
  have htags : (resetTags s).rd a = s.rd a := by
    unfold resetTags
    exact view_foldl (fun t => t.rd a) (fun t c => State.rd_setF_ne _ _ _ (htag c)) _ s
  have hevts (t : State) : (evtQuiet t).rd a = t.rd a := by
    unfold evtQuiet
    exact view_foldl (fun u => u.rd a) (fun _ _ => by rfl) _ t
  rw [edgesReset, rd_padsChange _ hpad, hevts, setPlls, State.rd_setF_ne _ _ _ hpll, htags]

/-- A main-die reset takes back the acceptance of jobs (R79). -/
theorem accepting_mainDieReset {s : State} (hi : State.Inv s = true) : accepting (mainDieReset s) = false := by
  have hregs : Keeps s { s with regs := resetRegs 0 s.regs } := (Keeps.refl s).resetRegs 0 rfl rfl rfl rfl rfl (.inl rfl)
  have hunits : State.Inv (unitsStopped s) = true := (mainUnitsReset_keeps _ (stopMainDoms_keeps _ hregs)).inv hi
  have hzero := State.getF_setF_same (State.regs_wf_of_inv hunits) CMDP_STATUS.accepting 0 (by decide)
  rw [accepting, State.flag, mainDieReset_eq, State.getF, rd_edgesReset _ (by decide) (by decide), ← State.getF, hzero]
  rfl

/-- The registers in which the Sage die records causes and failures. -/
def sageRecords : List Nat := [BOOT_STATUS.addr, BOOT_MAIN_CONSEC.addr, SAF_STATUS.addr]

/-- None of their fields is cleared by a main-die reset (R79). -/
theorem regAfterReset_sageRecord : ∀ a ∈ sageRecords, ∀ w, regAfterReset 0 a w = w := by
  have hword (w : Word) : BitVec.ofNat 32 w.toNat = w := by simp
  simp only [sageRecords, List.forall_mem_cons]
  exact ⟨hword, hword, hword, fun _ h => nomatch h⟩

theorem rd_mainDieReset {s : State} (hs : tabWf regReset s.regs = true) {a : Nat} (ha : a ∈ sageRecords) :
    (mainDieReset s).rd a = s.rd a := by
  have hother : ∀ a ∈ sageRecords, a < PAD_PARKING.addr 0 ∧ a ≠ CLK_PLL_STATUS.addr ∧ a ≠ CMDP_STATUS.addr ∧
      ∀ d ∈ mainDoms, a ≠ CLK_DOM_STATUS.addr d := by decide
  obtain ⟨hpad, hpll, hacc, hdoms⟩ := hother a ha
  rw [mainDieReset_eq, rd_edgesReset _ hpad hpll, State.rd_setF_ne _ _ _ hacc]
  exact (rd_gateDoms hdoms _).trans (tabGet_resetRegs_of_kept (regAfterReset_sageRecord a ha) hs)

/-! ### The causes of FAULT_N -/

theorem view_setCause {β : Type} (view : State → β)
    (hv : ∀ (t : State) f x saf b, (f = SAF_FAULT.causes ∨ f = SAF_FAULT.fault_n) →
      view { t.setF f x with saf := saf, pins := { t.pins with faultN := b } } = view t) (s : State) (bit : Nat) (on : Bool) :
    view (setCause s bit on) = view s := by
  have hpin (t : State) : view (faultPin t) = view t := hv t _ _ _ _ (.inr rfl)
  have hon : view (causeOn s bit) = view s := by
    simp only [causeOn]
    split
    · rfl
    · exact hv s _ _ _ _ (.inl rfl)
  have hoff : view (causeOff s bit) = view s := by
    simp only [causeOff]
    split
    · exact hv s _ _ _ _ (.inl rfl)
    · rfl
  simp only [setCause, hpin, apply_ite view, hon, hoff, ite_self]

theorem dieView_setCause (s : State) (bit : Nat) (on : Bool) : dieView (setCause s bit on) = dieView s :=
  view_setCause dieView (fun _ _ _ _ _ _ => rfl) s bit on

theorem rd_setCause (s : State) (bit : Nat) (on : Bool) {a : Nat} (h : a ≠ SAF_FAULT.addr) : (setCause s bit on).rd a = s.rd a :=
  view_setCause (fun t => t.rd a) (fun t f x _ _ hf => State.rd_setF_ne t f x (by rcases hf with rfl | rfl <;> exact h)) s bit on

theorem updFaultBoot_boot (s : State) : (updFaultBoot s).boot = s.boot := by
  obtain ⟨-, -, hboot, -⟩ := dieView_eq_iff.1 (dieView_setCause (s.setF BOOT_STATUS.fault_boot _) 0 _)
  exact hboot

theorem rd_updFaultBoot (s : State) {a : Nat} (hf : a ≠ SAF_FAULT.addr) (hb : a ≠ BOOT_STATUS.addr) :
    (updFaultBoot s).rd a = s.rd a :=
  (rd_setCause _ 0 _ hf).trans (State.rd_setF_ne _ _ _ hb)

theorem updFaultBoot_last_cause {s : State} (hs : tabWf regReset s.regs = true) :
    (updFaultBoot s).getF BOOT_STATUS.last_cause = s.getF BOOT_STATUS.last_cause :=
  (State.getF_congr (rd_setCause _ 0 _ (by decide))).trans (State.getF_setF_apart hs _ _ _ (by decide) rfl (by decide))

/-! ### A backoff of the main-die sequence -/

theorem startMainBackoff_boot (s : State) (n : Nat) :
    (startMainBackoff s n).boot = { s.boot with mainUntil := s.now + backoffMs n * 100000 } := rfl

theorem startMainBackoff_wf {s : State} (hs : tabWf regReset s.regs = true) (n : Nat) :
    tabWf regReset (startMainBackoff s n).regs = true :=
  State.setF_wf (State.setF_wf hs _ _) BOOT_BACKOFF.backoff_ms (backoffMs n)

theorem startMainBackoff_rd (s : State) (n a : Nat) : (startMainBackoff s n).rd a = (showBackoff s n).rd a := rfl

theorem rd_startMainBackoff (s : State) (n : Nat) {a : Nat} (hs : a ≠ BOOT_STATUS.addr) (hb : a ≠ BOOT_BACKOFF.addr) :
    (startMainBackoff s n).rd a = s.rd a := by
  rw [startMainBackoff_rd, showBackoff, State.rd_setF_ne _ _ _ hb, State.rd_setF_ne _ _ _ hs]

theorem startMainBackoff_last_cause {s : State} (hs : tabWf regReset s.regs = true) (n : Nat) :
    (startMainBackoff s n).getF BOOT_STATUS.last_cause = s.getF BOOT_STATUS.last_cause := by
  rw [State.getF_congr (f := BOOT_STATUS.last_cause) (startMainBackoff_rd s n _), showBackoff,
    State.getF_setF_ne _ _ _ _ (by decide),
    State.getF_setF_apart hs BOOT_STATUS.in_backoff BOOT_STATUS.last_cause _ (by decide) rfl (by decide)]

/-! ### A failed main-die attempt -/

/-- The failure is recorded: its cause, its count, and that a backoff is due (R90). -/
def failRecorded (s : State) (cause : Nat) : State :=
  let s1 := if s.boot.mainCounted then s else s.addSat BOOT_MAIN_ATTEMPTS.n 1
  let s2 := (s1.setF BOOT_STATUS.last_cause cause).addSat BOOT_MAIN_CONSEC.n 1
  { s2 with boot := { s2.boot with main := .backoff, mainCounted := false, run := .none, left := [] } }

/-- The backoff runs from the main-die reset on (R91). -/
def failBackoff (s : State) (cause : Nat) : State :=
  startMainBackoff (mainDieReset (failRecorded s cause)) ((mainDieReset (failRecorded s cause)).getF BOOT_MAIN_CONSEC.n)

/-- What follows a failure's backoff: the safe pins in a PARK exit, and the rails (R96, R102). -/
def failRails (s : State) (ks : State → List Nat) : State :=
  let s1 := dropOns (if s.boot.parkExit then setSafePins s true else s)
  takeDown s1 (ks s1) .failed

theorem mainFailed_eq (s : State) (cause : Nat) (ks : State → List Nat) :
    mainFailed s cause ks = failRails (updFaultBoot (failBackoff s cause)) ks := rfl

/-- The registers and the start sequences. -/
def failView (s : State) := (s.regs, s.boot)

theorem failView_downDone (s : State) : failView (downDone s) = failView s := by
  unfold downDone
  split
  · rfl
  · split <;> rfl
  · split <;> rfl
  · rfl

theorem failView_takeDown (s : State) (ks : List Nat) (why : DownFor) : failView (takeDown s ks why) = failView s := by
  unfold takeDown
  split
  · rfl
  · split
    · exact failView_downDone _
    · rfl

theorem failView_dropOns (s : State) : failView (dropOns s) = failView s :=
  view_foldl failView (fun t k => by split <;> rfl) _ s

theorem failView_failRails (s : State) (ks : State → List Nat) : failView (failRails s ks) = failView s := by
  simp only [failRails, failView_takeDown, failView_dropOns]
  split <;> rfl

theorem mainFailed_rd (s : State) (cause : Nat) (ks : State → List Nat) (a : Nat) :
    (mainFailed s cause ks).rd a = (updFaultBoot (failBackoff s cause)).rd a := by
  obtain ⟨hregs, -⟩ := Prod.mk.inj (failView_failRails (updFaultBoot (failBackoff s cause)) ks)
  rw [mainFailed_eq, State.rd, hregs, State.rd]

theorem mainFailed_boot (s : State) (cause : Nat) (ks : State → List Nat) :
    (mainFailed s cause ks).boot = (failBackoff s cause).boot := by
  obtain ⟨-, hboot⟩ := Prod.mk.inj (failView_failRails (updFaultBoot (failBackoff s cause)) ks)
  rw [mainFailed_eq, hboot, updFaultBoot_boot]

/-- A failed attempt waits out a backoff. -/
theorem mainFailed_main (s : State) (cause : Nat) (ks : State → List Nat) : (mainFailed s cause ks).boot.main = .backoff := by
  rw [mainFailed_boot, failBackoff, startMainBackoff_boot, mainDieReset_boot]
  rfl

theorem failRecorded_now (s : State) (cause : Nat) : (failRecorded s cause).now = s.now := by
  unfold failRecorded
  split <;> rfl

/-- Neither the backoff nor fault_boot writes the count of failures. -/
theorem mainFailed_consec (s : State) (cause : Nat) (ks : State → List Nat) : (mainFailed s cause ks).getF BOOT_MAIN_CONSEC.n =
    (mainDieReset (failRecorded s cause)).getF BOOT_MAIN_CONSEC.n := by
  refine State.getF_congr ?_
  rw [mainFailed_rd, rd_updFaultBoot _ (by decide) (by decide), failBackoff, rd_startMainBackoff _ _ (by decide) (by decide)]

/-- The backoff is that of the count of failures, from now (R91). -/
theorem mainFailed_mainUntil (s : State) (cause : Nat) (ks : State → List Nat) : (mainFailed s cause ks).boot.mainUntil =
    s.now + backoffMs ((mainFailed s cause ks).getF BOOT_MAIN_CONSEC.n) * 100000 := by
  rw [mainFailed_consec, mainFailed_boot, failBackoff, startMainBackoff_boot, mainDieReset_now, failRecorded_now]

theorem failRecorded_keeps {r s : State} (cause : Nat) (h : Keeps r s) : Keeps r (failRecorded s cause) := by
  unfold failRecorded
  exact Keeps.upd (State.addSat_keeps _ _ _ (State.setF_keeps _ _ _ (Keeps.ite h (State.addSat_keeps _ _ _ h))))
    rfl rfl rfl rfl rfl rfl

/-- The recorded cause is the failure's. -/
theorem failRecorded_last_cause {s : State} (hs : tabWf regReset s.regs = true) (cause : Nat) :
    (failRecorded s cause).getF BOOT_STATUS.last_cause = cause % 2 ^ 8 := by
  have hcount : tabWf regReset (if s.boot.mainCounted = true then s else s.addSat BOOT_MAIN_ATTEMPTS.n 1).regs = true := by
    split
    · exact hs
    · exact State.setF_wf hs _ _
  exact (State.getF_setF_ne _ _ _ _ (by decide)).trans (State.getF_setF_same hcount BOOT_STATUS.last_cause cause (by decide))

/-- The reset, the backoff and fault_boot leave the recorded cause alone. -/
theorem mainFailed_last_cause {s : State} (hi : State.Inv s = true) (cause : Nat) (ks : State → List Nat) :
    (mainFailed s cause ks).getF BOOT_STATUS.last_cause = cause % 2 ^ 8 := by
  have hrec : Keeps s (failRecorded s cause) := failRecorded_keeps cause (.refl s)
  have hreset := State.regs_wf_of_inv ((mainDieReset_keeps _ hrec).inv hi)
  calc (mainFailed s cause ks).getF BOOT_STATUS.last_cause
      = (updFaultBoot (failBackoff s cause)).getF BOOT_STATUS.last_cause := State.getF_congr (mainFailed_rd ..)
    _ = (failBackoff s cause).getF BOOT_STATUS.last_cause := updFaultBoot_last_cause (startMainBackoff_wf hreset _)
    _ = (mainDieReset (failRecorded s cause)).getF BOOT_STATUS.last_cause := startMainBackoff_last_cause hreset _
    _ = (failRecorded s cause).getF BOOT_STATUS.last_cause :=
      State.getF_congr (rd_mainDieReset (State.regs_wf_of_inv (hrec.inv hi)) (by decide))
    _ = cause % 2 ^ 8 := failRecorded_last_cause (State.regs_wf_of_inv hi) cause

/-! ### A sensor too hot at step 1 -/

/-- The attempt is counted and takes what it is given; its sensors are read next (R100). -/
def attemptBegun (s : State) (env : MainStart) : State :=
  let s1 := (if s.boot.mainCounted then s else s.addSat BOOT_MAIN_ATTEMPTS.n 1).setF BOOT_STATUS.phase 2
  { s1 with boot := { s1.boot with mainCounted := true, env := env, stepAt := s1.now } }

theorem mainBegin_hot {s : State} {e : MainStart}
    (h : ((readTemps (attemptBegun s e) e.temps).any fun r => decide (182 ≤ r.2)) = true) :
    mainBegin s e = mainFail (tempsPut (attemptBegun s e) (readTemps (attemptBegun s e) e.temps)) 0x16 :=
  if_pos h

theorem sensorRead_attemptBegun (s : State) (e : MainStart) (n : Nat) : sensorRead (attemptBegun s e) n = sensorRead s n := by
  have hgood : (attemptBegun s e).getF PWR_RAIL_STATUS.good = s.getF PWR_RAIL_STATUS.good := by
    refine (State.getF_setF_ne _ _ _ _ (by decide)).trans ?_
    split
    · rfl
    · exact State.getF_setF_ne _ _ _ _ (by decide)
  simp only [sensorRead, railGood, hgood]

theorem attemptBegun_keeps (s : State) (e : MainStart) : Keeps s (attemptBegun s e) := by
  have hcount : Keeps s (if s.boot.mainCounted = true then s else s.addSat BOOT_MAIN_ATTEMPTS.n 1) :=
    Keeps.ite (.refl s) (State.addSat_keeps _ _ _ (.refl s))
  exact (State.setF_keeps _ _ _ hcount).same rfl rfl rfl rfl rfl rfl

theorem attemptBegun_now (s : State) (e : MainStart) : (attemptBegun s e).now = s.now := by
  unfold attemptBegun
  split <;> rfl

theorem tempsPut_now (s : State) (l : List (Nat × Nat)) : (tempsPut s l).now = s.now := by
  unfold tempsPut
  exact view_foldl State.now (fun _ _ => by rfl) l s

/-- A reading of a sensor that is read is among those taken. -/
theorem mem_readTemps {s : State} {temps : List (Option Nat)} {n x : Nat} (hn : n < 13) (hread : sensorRead s n = true)
    (hx : temps.getD n none = some x) : (n, min x 255) ∈ readTemps s temps :=
  List.mem_filterMap.2 ⟨n, List.mem_range.2 hn, by rw [if_pos hread, hx]; rfl⟩

/-- Settles O17: the hot reading is among those taken, so the attempt fails, and a failure leaves its cause and its backoff. -/
theorem hotSensorFailsTheAttempt : Obligations.HotSensorFailsTheAttempt := by
  intro e s n x hi hm hd hr hn hread hx hhot
  have hsensor : sensorRead s n = true := by simpa only [sensorRead, Bool.or_eq_true, decide_eq_true_eq] using hread
  have hany : ((readTemps (attemptBegun s e) e.temps).any fun r => decide (182 ≤ r.2)) = true :=
    List.any_eq_true.2 ⟨_, mem_readTemps hn ((sensorRead_attemptBegun s e n).trans hsensor) hx,
      decide_eq_true (Nat.le_min.2 ⟨hhot, by decide⟩)⟩
  have htemps := tempsPut_keeps _ (readTemps (attemptBegun s e) e.temps) (attemptBegun_keeps s e)
  refine ⟨_, execMainDieBringUp_start e s hm hd hr, ?_⟩
  rw [mainBegin_hot hany, mainFail, mainFailed_mainUntil, tempsPut_now, attemptBegun_now]
  exact ⟨mainFailed_last_cause (htemps.inv hi) 0x16 cycled, mainFailed_main .., rfl⟩

/-! ### The entry into the safe state -/

/-- The registers in which an entry records itself: its cause, its count and its tick (R525). -/
def entryRegs (s : State) (code : Nat) : State :=
  ((((s.setF SAF_STATUS.safe 1).setF SAF_STATUS.last_cause code).addSat SAF_SAFE_COUNT.n 1).set64
    SAF_LAST_ENTRY_LO.lo SAF_LAST_ENTRY_HI.hi s.now).setF SAF_LAST_LEN.ticks 0xFFFFFFFF

/-- The tick of an entry is kept with those of the last three before it. -/
def entryKept (s : State) (n : Nat) : State := { s with saf := { s.saf with entries := (n :: s.saf.entries).take 4 } }

/-- The entry is recorded. -/
def entryRecorded (s : State) (code : Nat) : State := entryKept (entryRegs s code) s.now

/-- With the rate cause where it is due (R529). -/
def entryRated (s : State) (code : Nat) : State :=
  if (entryRecorded s code).saf.entries.length = 4 ∧ s.now - (entryRecorded s code).saf.entries.getD 3 0 ≤ 1000000000 then
    setCause (entryRecorded s code) 6 true
  else entryRecorded s code

/-- The safe pins are asserted and a warm restart is due; the main-die reset follows. -/
def entryPinned (s : State) (code : Nat) : State :=
  let u := entryRated s code
  setSafePins { u with
    boot := { u.boot with main := .start, mainCounted := false, parkExit := false, run := .none, left := [] }
    clk := { u.clk with mode := if u.clk.mode = .park then .park else .on,
                        dozeExit := false, entryReset := false, compares := [] } } true

theorem safeStateEntry_eq (s : State) (code : Nat) : safeStateEntry s code = mainDieReset (entryPinned s code) := rfl

theorem dieView_entryKept (s : State) (n : Nat) : dieView (entryKept s n) = dieView s := rfl

theorem dieView_entryRated (s : State) (code : Nat) : dieView (entryRated s code) = dieView s := by
  have hrec : dieView (entryRecorded s code) = dieView s := by
    simp only [entryRecorded, dieView_entryKept, entryRegs, State.set64, dieView_setF, dieView_addSat]
  unfold entryRated
  split
  · rw [dieView_setCause, hrec]
  · exact hrec

theorem entryRegs_keeps (s : State) (code : Nat) : Keeps s (entryRegs s code) := by
  unfold entryRegs
  exact State.setF_keeps _ _ _ (State.set64_keeps _ _ _ _ (State.addSat_keeps _ _ _ (State.setF_keeps _ _ _
    (State.setF_keeps _ _ _ (.refl s)))))

theorem entryRated_keeps (s : State) (code : Nat) : Keeps s (entryRated s code) := by
  have hrec : Keeps s (entryRecorded s code) := by
    unfold entryRecorded entryKept
    exact Keeps.upd (entryRegs_keeps s code) rfl rfl rfl rfl rfl rfl
  unfold entryRated
  exact Keeps.ite (setCause_keeps _ _ _ hrec) hrec

theorem entryPinned_inv {s : State} (hi : State.Inv s = true) (code : Nat) : State.Inv (entryPinned s code) = true := by
  have hpinned : Keeps s (entryPinned s code) := by
    unfold entryPinned
    exact setSafePins_keeps _ _ (Keeps.upd (entryRated_keeps s code) rfl rfl rfl rfl rfl rfl)
  exact hpinned.inv hi

/-- Of SAF_STATUS an entry writes the flag and the cause. -/
theorem rd_entryRegs_status (s : State) (code : Nat) : (entryRegs s code).rd SAF_STATUS.addr =
    ((s.setF SAF_STATUS.safe 1).setF SAF_STATUS.last_cause code).rd SAF_STATUS.addr := by
  rw [entryRegs, State.set64, State.addSat, State.rd_setF_ne _ _ _ (by decide), State.rd_setF_ne _ _ _ (by decide),
    State.rd_setF_ne _ _ _ (by decide), State.rd_setF_ne _ _ _ (by decide)]

theorem rd_entryKept (s : State) (n a : Nat) : (entryKept s n).rd a = s.rd a := rfl

theorem rd_entryRated_status (s : State) (code : Nat) :
    (entryRated s code).rd SAF_STATUS.addr = (entryRegs s code).rd SAF_STATUS.addr := by
  unfold entryRated
  split
  · rw [rd_setCause _ _ _ (by decide), entryRecorded, rd_entryKept]
  · rw [entryRecorded, rd_entryKept]

theorem entryPinned_rd (s : State) (code a : Nat) : (entryPinned s code).rd a = (entryRated s code).rd a := rfl

/-- SAF_STATUS after an entry reads by the flag and the cause written last. -/
theorem getF_safeStateEntry_status {s : State} (hi : State.Inv s = true) (code : Nat) {f : FRef} (hf : f.addr = SAF_STATUS.addr) :
    (safeStateEntry s code).getF f = ((s.setF SAF_STATUS.safe 1).setF SAF_STATUS.last_cause code).getF f := by
  refine State.getF_congr ?_
  rw [hf, safeStateEntry_eq, rd_mainDieReset (State.regs_wf_of_inv (entryPinned_inv hi code)) (by decide), entryPinned_rd,
    rd_entryRated_status, rd_entryRegs_status]

theorem safeStateEntry_last_cause {s : State} (hi : State.Inv s = true) {code : Nat} (hc : code < 256) :
    (safeStateEntry s code).getF SAF_STATUS.last_cause = code := by
  have hs := State.setF_wf (State.regs_wf_of_inv hi) SAF_STATUS.safe 1
  rw [getF_safeStateEntry_status hi code rfl, State.getF_setF_same hs _ _ (by decide)]
  exact Nat.mod_eq_of_lt hc

theorem safeStateEntry_safe {s : State} (hi : State.Inv s = true) (code : Nat) :
    (safeStateEntry s code).flag SAF_STATUS.safe = true := by
  have hs := State.regs_wf_of_inv hi
  rw [State.flag, getF_safeStateEntry_status hi code rfl,
    State.getF_setF_apart (State.setF_wf hs _ _) SAF_STATUS.last_cause SAF_STATUS.safe _ (by decide) rfl (by decide),
    State.getF_setF_same hs _ _ (by decide)]
  rfl

theorem dieView_safeStateEntry (s : State) (code : Nat) : dieView (safeStateEntry s code) =
    (s.clk.time, s.clk.running, (entryPinned s code).boot, true, true) := by
  obtain ⟨htime, hrun, -⟩ := dieView_eq_iff.1 (dieView_entryRated s code)
  rw [safeStateEntry_eq, dieView_mainDieReset, ← htime, ← hrun]
  rfl

theorem setSafePins_boot (s : State) (on : Bool) : (setSafePins s on).boot = s.boot := rfl

theorem safeCause_up {s : State} {code : Nat} (hs : s.boot.sage = .up) (hm : s.boot.main = .up) :
    safeCause s code = upCause s code := by
  simp only [safeCause, hs, hm]

theorem upCause_main_after_acceptance {s : State} {code : Nat} (h : acceptedNow s ≠ none) :
    (upCause s code).boot.main = .backoff := by
  obtain ⟨a, ha⟩ := Option.ne_none_iff_exists'.1 h
  simp only [upCause, ha]
  rw [setSafePins_boot, mainFail, mainFailed_main]

theorem upCause_entry {s : State} {code : Nat} (h : acceptedNow s = none) : upCause s code = safeStateEntry s code := by
  simp only [upCause, h]

/-- Settles O21: in the tick of an acceptance its attempt has failed; else the main-die reset leaves what the entry recorded, and
takes back the acceptance. -/
theorem safeStateEntryDoesWhatR525Says : Obligations.SafeStateEntryDoesWhatR525Says := by
  intro s code hi hc hs hm t
  have ht : t = upCause s code := safeCause_up hs hm
  refine ⟨fun hacc => ht ▸ upCause_main_after_acceptance hacc, fun hacc => ?_⟩
  rw [ht, upCause_entry hacc]
  have hview := dieView_safeStateEntry s code
  simp only [dieView, Prod.mk.injEq] at hview
  obtain ⟨htime, hrun, hboot, hsafe, hfall⟩ := hview
  exact ⟨hsafe, hfall, by rw [hboot]; rfl, htime, hrun, accepting_mainDieReset (entryPinned_inv hi code),
    safeStateEntry_last_cause hi hc, safeStateEntry_safe hi code⟩

end Sys2Proof.Machine
end

section
/-! SUPPORT. Heartbeats, the triplet, and the causes of FAULT_N (R514 to R519, R528, R529, R600). -/

namespace Sys2Proof.Machine

/-! ### FAULT_N -/

/-- FAULT_N stays asserted until the tick of its hold (R600). -/
theorem faultPin_held {s : State} (h : s.now < s.saf.holdUntil) : (faultPin s).pins.faultN = true := by
  simp only [faultPin, h, decide_true, Bool.or_true]

/-- A cause that begins an assertion holds it for 10,000 ticks. -/
theorem setCause_on_begins {b : Nat} {s : State} (hb : bitB (faultCauses s) b = false) (hf : s.flag SAF_FAULT.fault_n = false) :
    (setCause s b true).pins.faultN = true ∧ (setCause s b true).saf.holdUntil = s.now + 10000 := by
  have hhold : (causeOn s b).saf.holdUntil = s.now + 10000 := by
    simp only [causeOn, hb, hf, Bool.false_eq_true, if_false]
  have hnow : (causeOn s b).now = s.now := by
    unfold causeOn
    split <;> rfl
  exact ⟨faultPin_held (s := causeOn s b) (by omega), hhold⟩

/-- A cause that is released in a later tick leaves FAULT_N asserted to the end of its tick (R529). -/
theorem setCause_off_later {b : Nat} {s : State} (hb : bitB (faultCauses s) b = true)
    (hat : tabGet (fun _ => 0) s.saf.causeAt b ≠ s.now) :
    (setCause s b false).saf.holdUntil = max s.saf.holdUntil (s.now + 1) ∧ (setCause s b false).pins.faultN = true := by
  have hhold : (causeOff s b).saf.holdUntil = max s.saf.holdUntil (s.now + 1) := by
    simp only [causeOff, hb, hat, if_true, if_false]
  have hnow : (causeOff s b).now = s.now := by
    unfold causeOff
    split <;> rfl
  exact ⟨hhold, faultPin_held (s := causeOff s b) (by omega)⟩

theorem execFaultNHoldExpiry_rate_over {s : State} (hb : bitB (faultCauses s) 6 = true)
    (hd : s.saf.entries.headD 0 + 1000000000 ≤ s.now) : execFaultNHoldExpiry s = .next (faultPin (setCause s 6 false)) := by
  simp only [execFaultNHoldExpiry, hb, decide_eq_true hd, Bool.and_self, if_true]

theorem execFaultNHoldExpiry_no_rate {s : State} (hb : bitB (faultCauses s) 6 = false) :
    execFaultNHoldExpiry s = .next (faultPin s) := by
  simp only [execFaultNHoldExpiry, hb, Bool.false_and, Bool.false_eq_true, if_false]

theorem execRefclkRecovered_due {s : State} (hb : s.flag SAF_CLKMON.refclk_bad = true) (hd : s.saf.refBadAt + 1000000 ≤ s.now) :
    execRefclkRecovered s = .next (setCause (s.setF SAF_CLKMON.refclk_bad 0) 5 false) :=
  congrArg _ (if_pos ⟨hb, hd⟩)

/-! ### Tsuquel and the triplet -/

theorem execHeartbeatIncrement_runs {s : State} (h : tsuquelRuns s = true) : execHeartbeatIncrement s = .next
    (let u := s.addWrap SAF_HEARTBEAT.n 1; { u with saf := { u.saf with beatAt := u.now, cpAt := none } }) :=
  congrArg _ (if_pos h)

theorem tripletDisagree_no_two_agree {s : State} (held : Bool) (h : s.boot.tripletRan = true) :
    tripletDisagree s none held = tripletFailure s held := by
  simp only [tripletDisagree, h, Bool.not_true, Bool.false_eq_true, if_false]

/-- The disagreements that count against the cores: this one, and those of the last 100,000,000 ticks (R516). -/
def oddsNow (s : State) (k : Nat) : List (Nat × Nat) :=
  (k, s.now) :: s.saf.odds.filter fun e => decide (s.now ≤ e.2 + 100000000)

/-- An odd core is resynchronised, or retired at its fourth disagreement that counts (R516, R519, assumption 100). -/
theorem tripletDisagree_odd {s : State} {k : Nat} (held : Bool) (h : s.boot.tripletRan = true) (hsync : s.saf.resync = none)
    (hret : s.saf.retired = none) : tripletDisagree s (some k) held =
    let u := s.setF SAF_TRI.odd k
    if 4 ≤ ((oddsNow s k).filter fun e => decide (e.1 = k)).length then
      setCause ((({ u with saf := { u.saf with odds := [], retired := some k } } : State).setF SAF_TRI.retired k).setF
        SAF_TRI.degraded 1) 4 true
    else (({ u with saf := { u.saf with odds := oddsNow s k, resync := some k } } : State).addSat SAF_TRI.resyncs 1).setF
      SAF_STATUS.tri_resync 1 :=
  (if_neg (by simp [h])).trans (if_neg (by simp [hsync, hret]))

theorem execTripletResyncDone_running {s : State} {k : Nat} (h : s.saf.resync = some k) : execTripletResyncDone s =
    .next (({ s with saf := { s.saf with resync := none } } : State).setF SAF_STATUS.tri_resync 0) :=
  congrArg _ (if_pos (by rw [h]; rfl))

/-- Settles O22: each clause is the rule of its command or of the causes of FAULT_N. -/
theorem safetyCoreEvents : Obligations.SafetyCoreEvents := by
  refine ⟨?heartbeat, ?begins, fun _ _ => setCause_off_later, ?noTwo, ?odd, fun _ _ => execTripletResyncDone_running,
    fun _ => execRefclkRecovered_due, fun _ => execFaultNHoldExpiry_rate_over, fun _ => execFaultNHoldExpiry_no_rate⟩
  case heartbeat => exact fun s => execHeartbeatIncrement_runs
  case begins =>
    intro b s hb hf
    obtain ⟨hpin, hhold⟩ := setCause_on_begins hb hf
    exact ⟨hpin, hhold, fun u hu hnow => faultPin_held (hu ▸ hnow)⟩
  case noTwo => exact fun s ht => congrArg Host.Outcome.next (tripletDisagree_no_two_agree false ht)
  case odd => exact fun k s ht hsync hret => congrArg Host.Outcome.next (tripletDisagree_odd false ht hsync hret)

end Sys2Proof.Machine
end

section
/-! SUPPORT. Pads, event generators and the test access port (R566, R567, R575, R576, R579 to R581). -/

namespace Sys2Proof.Machine

theorem execPadFunctionChange_pad (m : BusMaster) {pad : Nat} (v : Word) (s : State) (h : pad < 64) :
    execPadFunctionChange m pad v s = .next (padCfgWrite (masterDemand s m) m pad v.toNat) :=
  congrArg _ (if_pos h)

theorem padCfgWrite_written {m : BusMaster} {pad v : Nat} {s t : State} (h : plainWrite s m (PAD_CFG.addr pad) v = (t, true)) :
    padCfgWrite s m pad v = redrive (padChange t pad) pad := by
  simp only [padCfgWrite, h, if_true]

theorem padCfgWrite_refused {m : BusMaster} {pad v : Nat} {s t : State} (h : plainWrite s m (PAD_CFG.addr pad) v = (t, false)) :
    padCfgWrite s m pad v = t := by
  simp only [padCfgWrite, h, Bool.false_eq_true, if_false]

theorem execPadParkEnd_due {pad : Nat} (l : Bool) {s : State} (h : pad < 64) (hd : parkDue s (s.pad pad) = true) :
    execPadParkEnd pad l s = .next (padEnd s pad l) :=
  congrArg _ (if_pos (by simp only [decide_eq_true h, hd, Bool.and_self]))

theorem execEvtEnableWrite_gen (m : BusMaster) {g : Nat} (v : Word) (s : State) (h : g < 4) :
    execEvtEnableWrite m g v s = .next (evtCtrl (masterDemand s m) m g v.toNat) :=
  congrArg _ (if_pos h)

/-- The pulse that is due starts: a later one than the first only where the period is not 0. -/
theorem execEvtPulseStart_due {g : Nat} {s : State} (h : g < 4) (hen : s.flag (PAD_EVT_CTRL.en g) = true)
    (hidle : (s.evt g).active = false) (hruns : evtRuns s = true) (hd : evtStart s g (s.evt g).nextK ≤ s.now)
    (hk : (s.evt g).nextK = 0 ∨ s.getF (PAD_EVT_PERIOD.p g) ≠ 0) : execEvtPulseStart g s =
    .next (redrive ((s.setEvt g ⟨true, (s.evt g).nextK + 1⟩).addWrap (PAD_EVT_COUNT.n g) 1) (18 + g)) :=
  congrArg _ (if_pos (by simpa only [h, hen, hidle, hruns, hd, decide_true, Bool.not_false, Bool.and_self, Bool.true_and,
    Bool.or_eq_true, decide_eq_true_eq] using hk))

theorem execEvtPulseEnd_due {g : Nat} {s : State} (h : g < 4) (hact : (s.evt g).active = true)
    (hd : evtStart s g ((s.evt g).nextK - 1) + s.getF (PAD_EVT_WIDTH.wd g) ≤ s.now) :
    execEvtPulseEnd g s = .next (redrive (s.setEvt g { s.evt g with active := false }) (18 + g)) :=
  congrArg _ (if_pos (by simp only [h, hact, hd, decide_true, Bool.and_self]))

theorem execTapBypass_unnamed {c : Nat} (s : State) (hc : c < 64) (hn : c ∉ [0, 1, 2, 4, 5]) :
    execTapBypass c s = .next (tapSelect s c) := by
  simp only [execTapBypass, hc, hn, not_false_eq_true, and_self, if_true]

/-- Settles O58: each clause is the rule of its command; the named instructions of the access port have no condition. -/
theorem padsEventsAndTapAct : Obligations.PadsEventsAndTapAct :=
  ⟨fun m _ v s => execPadFunctionChange_pad m v s,
   fun _ _ _ _ _ => ⟨padCfgWrite_written, padCfgWrite_refused⟩,
   fun _ l _ => execPadParkEnd_due l,
   fun m _ v s => execEvtEnableWrite_gen m v s,
   fun _ _ => execEvtPulseStart_due,
   fun _ _ => execEvtPulseEnd_due,
   fun _ => ⟨rfl, rfl, rfl, rfl, rfl⟩,
   fun _ _ => rfl,
   fun _ s => execTapBypass_unnamed s⟩

end Sys2Proof.Machine
end

section
/-! SUPPORT. Ethernet descriptors, frames and links, and CAN frames (R443 to R445, R448 to R453, R169). -/

namespace Sys2Proof.Machine

/-! ### Ethernet -/

theorem execNetTxTailWrite_port (m : BusMaster) {n : Nat} (v : Word) {s : State} (hn : n < 6) (hr : mainReleased s = true) :
    execNetTxTailWrite m n v s =
      .next (plainWrite (busDemand s m (NET_TX_TAIL.addr n)) m (NET_TX_TAIL.addr n) v.toNat).1 :=
  congrArg _ (if_pos ⟨hn, hr⟩)

theorem execNetRxTailWrite_port (m : BusMaster) {n : Nat} (v : Word) {s : State} (hn : n < 6) (hr : mainReleased s = true) :
    execNetRxTailWrite m n v s =
      .next (plainWrite (busDemand s m (NET_RX_TAIL.addr n)) m (NET_RX_TAIL.addr n) v.toNat).1 :=
  congrArg _ (if_pos ⟨hn, hr⟩)

theorem execEthernetLinkChange_port {n : Nat} (up : Bool) {s : State} (hn : n < 6) (hr : mainReleased s = true) :
    execEthernetLinkChange n up s = .next (s.setF (NET_STATE.link n) (b2n (up && s.flag (NET_PORT_CFG.enable n)))) :=
  congrArg _ (if_pos ⟨hn, hr⟩)

/-- The state in which the next transmit descriptor of a port has been taken. -/
def txTaken (s : State) (n : Nat) : State := s.setNetNext n ((s.netNext n).1 + 1, (s.netNext n).2)

/-- The next descriptor is one of the ring's that was handed over (assumption 81). -/
theorem netTransmit_handed_over {n va : Nat} {s u : State} {d : List Byte} (hup : netUp s n = true)
    (hen : s.flag (NET_RING_CFG.tx_en n) = true)
    (hslot : (s.netNext n).1 % netTxSlots s n ≠ s.getF (NET_TX_TAIL.tail n) % netTxSlots s n)
    (hva : va = netTxBase s n + 32 * ((s.netNext n).1 % netTxSlots s n))
    (hread : dmaRead (txTaken s n) (netWho (txTaken s n) n) va 32 = (u, .ok d)) (hown : bitB (leAt d 0xA 2) 0 = true) :
    netTransmit n s = netSend u n va d := by
  subst hva
  rw [txTaken] at hread
  simp only [netTransmit, hup, hen, hslot, ne_eq, not_false_eq_true, and_self, if_true, hread, hown]

section
variable {n tick : Nat} {fcs : Bool} {fr : List Byte} {s : State} (hup : netUp s n = true)
  (hen : s.flag (NET_RING_CFG.rx_en n) = true)
include hup hen

theorem netReceive_bad_frame (h : fcs = false ∨ fr.length < 60 ∨ 9212 < fr.length) :
    netReceive n fcs fr tick s = s.addSat (NET_RX_ERR.n n) 1 := by
  have hbad : (!fcs || decide (fr.length < 60 ∨ 9212 < fr.length)) = true := by simpa using h
  simp only [netReceive, hup, hen, and_self, if_true, hbad]

section
variable (hfcs : fcs = true) (hmin : 60 ≤ fr.length) (hmax : fr.length ≤ 9212)
include hfcs hmin hmax

omit hup hen in
/-- A frame of legal length whose FCS holds is no error. -/
theorem frame_legal : (!fcs || decide (fr.length < 60 ∨ 9212 < fr.length)) = false := by
  simp only [hfcs, Bool.not_true, Bool.false_or, decide_eq_false_iff_not]
  omega

theorem netReceive_no_descriptor (hslot : (s.netNext n).2 % netRxSlots s n = s.getF (NET_RX_TAIL.tail n) % netRxSlots s n) :
    netReceive n fcs fr tick s = s.addSat (NET_RX_DROP.n n) 1 := by
  simp only [netReceive, hup, hen, and_self, if_true, frame_legal hfcs hmin hmax, Bool.false_eq_true, if_false, hslot]

theorem netReceive_free_descriptor {va : Nat} {u : State} {d : List Byte}
    (hslot : (s.netNext n).2 % netRxSlots s n ≠ s.getF (NET_RX_TAIL.tail n) % netRxSlots s n)
    (hva : va = netRxBase s n + 32 * ((s.netNext n).2 % netRxSlots s n)) (hread : dmaRead s (netWho s n) va 32 = (u, .ok d))
    (hown : bitB (leAt d 0xA 2) 0 = true) : netReceive n fcs fr tick s =
      netStore (u.setNetNext n ((s.netNext n).1, (s.netNext n).2 + 1)) n tick va d fr := by
  subst hva
  simp only [netReceive, hup, hen, and_self, if_true, frame_legal hfcs hmin hmax, Bool.false_eq_true, if_false, hslot, hread, hown]

end
end

/-! ### CAN -/

theorem fd_unheard_iff {f : CanFrame} {mode : Nat} :
    (f.fd && decide (mode = 2)) = false ↔ f.fd = false ∨ mode ≠ 2 := by
  simp only [Bool.and_eq_false_iff, decide_eq_false_iff_not, ne_eq]

section
variable {c : Nat} {s : State} (hbus : canOnBus s c = true)
include hbus

theorem execCanFrameReceive_remote (sof : Nat) (f : CanFrame) (esi : Bool) (hscan : scanHolds s = false) :
    execCanFrameReceive c f true esi sof s = .next (s.addSat (CAN_ERR.n c) 1) := by
  simp only [execCanFrameReceive, hbus, hscan, Bool.not_false, Bool.and_self, if_true]

/-- A data frame that the controller hears goes through the router, then through the filters (assumption 82). -/
theorem execCanFrameReceive_data (sof : Nat) {f : CanFrame} (esi : Bool) (hscan : scanHolds s = false)
    (hfd : f.fd = false ∨ canMode s c ≠ 2) :
    execCanFrameReceive c f false esi sof s = .next (acceptFrame (routeFrame s c f) c f esi sof) := by
  simp only [execCanFrameReceive, hbus, hscan, fd_unheard_iff.2 hfd, Bool.not_false, Bool.and_self, Bool.false_eq_true, if_true,
    if_false]

theorem execCanFrameTransmit_router {x : CanFrame} {rest : List CanFrame} (hrouter : (s.can c).router = x :: rest)
    (hfd : x.fd = false ∨ canMode s c ≠ 2) :
    execCanFrameTransmit c s = .next (canSend (s.setCan c { s.can c with router := rest }) c x) := by
  simp only [execCanFrameTransmit, hbus, hrouter, fd_unheard_iff.2 hfd, Bool.not_true, Bool.false_eq_true, if_false]

section
variable {h : CanQueued} {rest : List CanQueued} (hrouter : (s.can c).router = []) (hhost : (s.can c).host = h :: rest)
include hrouter hhost

/-- With nothing to forward the head of the host queue is sent, and the packet it came from counts it. -/
theorem execCanFrameTransmit_host_packet {k : Nat × Nat} (hpkt : h.pkt = some k) : execCanFrameTransmit c s =
    .next (canDrained (canFeed (txDone (canSend (s.setCan c { s.can c with host := rest }) c h.frame) k) c) c) := by
  simp only [execCanFrameTransmit, hbus, hrouter, hhost, hpkt, Bool.not_true, Bool.false_eq_true, if_false]

theorem execCanFrameTransmit_host_alone (hpkt : h.pkt = none) : execCanFrameTransmit c s =
    .next (canDrained (canFeed (canSend (s.setCan c { s.can c with host := rest }) c h.frame) c) c) := by
  simp only [execCanFrameTransmit, hbus, hrouter, hhost, hpkt, Bool.not_true, Bool.false_eq_true, if_false]

end

/-- Both queues are dropped and counted, and the packets that wait on them end (assumption 82: the error count is open). -/
theorem execCanBusOff_onBus {u : State}
    (hu : u = ((((s.addSat (CAN_TX_DROP.n c) ((s.can c).router.length + (s.can c).host.length)).fresh.2.setF (CAN_STATE.bus c) 2).setF
      (CAN_STATE.tec c) (s.addSat (CAN_TX_DROP.n c) ((s.can c).router.length + (s.can c).host.length)).fresh.1).setCan c
        { s.can c with router := [], host := [] })) :
    execCanBusOff c s = .next (canDrained ((txPkts u c).foldl (fun t p => complete t p 0 (txSent p + 2 ^ 31) 0) u) c) := by
  subst hu
  exact congrArg _ (if_pos hbus)

end

theorem execCanBusRecover_off {c : Nat} {s : State} (hc : c < 16) (hmode : canMode s c ≠ 0) (hoff : s.getF (CAN_STATE.bus c) = 2)
    (hpow : canPowered s c = true) : execCanBusRecover c s =
      .next (((s.setF (CAN_STATE.bus c) 0).setF (CAN_STATE.tec c) 0).setF (CAN_STATE.rec c) 0) :=
  congrArg _ (if_pos ⟨hc, hmode, hoff, hpow⟩)

/-- Settles O54: each clause is the rule of its command; a frame's work by what the pacers admit, then by what it finds in the
rings or the queues. That a tail is taken modulo its ring follows assumption 81, the open error count at bus-off and the FD frame
that a classical controller does not hear assumption 82. -/
theorem networkAndCanEventsAct : Obligations.NetworkAndCanEventsAct := by
  refine ⟨fun m n v s hn hr => ⟨execNetTxTailWrite_port m v hn hr, execNetRxTailWrite_port m v hn hr⟩,
    fun n fcs fr s u => ⟨fun ha => congrArg _ (paceAct_admitted ha), fun ha => congrArg _ (paceAct_admitted ha)⟩,
    ?transmit, ?receive, fun n up s hn hr => execEthernetLinkChange_port up hn hr, ?canReceive, ?canRouter, ?canHost,
    fun c s u hbus => execCanBusOff_onBus hbus, fun c s => execCanBusRecover_off⟩
  case transmit =>
    exact fun n va s u d hup hen hslot hva hread hwho hown => netTransmit_handed_over hup hen hslot hva (by
      rw [txTaken, hwho]
      exact hread) hown
  case receive =>
    exact fun n tick fcs fr s hup hen => ⟨netReceive_bad_frame hup hen, netReceive_no_descriptor hup hen,
      fun va u d hfcs hmin hmax => netReceive_free_descriptor hup hen hfcs hmin hmax⟩
  case canReceive =>
    exact fun c sof f esi s hbus hscan => ⟨execCanFrameReceive_remote hbus sof f esi hscan,
      execCanFrameReceive_data hbus sof esi hscan⟩
  case canRouter => exact fun c s x rest hbus => execCanFrameTransmit_router hbus
  case canHost =>
    exact fun c s h rest k hbus hrouter hhost => ⟨execCanFrameTransmit_host_packet hbus hrouter hhost,
      execCanFrameTransmit_host_alone hbus hrouter hhost⟩

end Sys2Proof.Machine
end
